-- ==== Sys2Proof/Word.lean ====
section
/-! DEFINITION. The word types of the device and their plainest names (R6 to R11 of spec/00_scope.md). -/

namespace Sys2Proof

/-- One byte of memory or of a packet. -/
abbrev Byte := BitVec 8

/-- A string of bytes, lowest address (or first on the wire) first. -/
abbrev Bytes := List (BitVec 8)

/-- A 32-bit lane or FP32 code. -/
abbrev W32 := BitVec 32

/-- A 64-bit register, scalar register or table word. -/
abbrev W64 := BitVec 64

/-- A 48-bit device address (R11). -/
abbrev DevAddr := BitVec 48

/-- A table: pairs of an index and an entry, indices rising. -/
abbrev Tab (α : Type) := List (Nat × α)

/-- The low 120 bits of an instruction word: everything but OPCODE (R196). -/
abbrev InstrWord := BitVec 120

end Sys2Proof
end

