-- ==== Sys2Proof/Syntax.lean ====
section
/-! DEFINITION. The commands of the device: one constructor of `Instr` per row of spec/opcode_table.json,
and the plain data their operands are made of. Instance numbers are bounded by their types (R1, R23). -/

namespace Sys2Proof

/-- The queues of a core (R155); `seq` is the sequencer itself (R199). -/
inductive Engine where
  | matrix | vector | gate | dma | seq
  deriving DecidableEq, Repr

/-- The state formats of a recurrent operator (R226). -/
inductive StateFmt where
  | bf16 | fp16 | fp32
  deriving DecidableEq, Repr

/-- A stateful operator as a model image declares it (R226, R234, R237). -/
inductive StateOp where
  | xr (c n : Nat) (fmt : StateFmt) (residue lambdaNeg : Bool)
  | dr (c : Nat) (fmt : StateFmt) (residue lambdaNeg : Bool)
  | sc (c k d elemBytes : Nat)
  | fh (channels o : Nat)
  | rn (muInit sigmaInit : List W32)
  deriving DecidableEq, Repr

/-- The attention declarations of a model image (R248, R256, R260, R266, R269): `adapterLayers` are the layers marked for adapter
training, `umberAppend` the positions that one Umber job appends. -/
structure AttnDecl where
  headDim : Nat
  groupHeads : Nat
  kvHeads : Nat
  layers : Nat
  seqTokens : Nat
  shardTokens : Nat
  ringDevices : Nat
  buckets : List Nat
  mxfp4 : Bool
  maxContext : Nat
  umberAppend : Nat
  adapterLayers : List Nat
  deriving DecidableEq, Repr

/-- The kinds of padding of R280. -/
inductive PadKind where
  | zero | constant | edge
  deriving DecidableEq, Repr

/-- One axis of a sliding-window operator (R278, R279). -/
structure AxisDecl where
  size : Nat
  taps : Nat
  stride : Nat
  dilation : Nat
  padLo : Nat
  padHi : Nat
  transposed : Bool
  outPad : Nat
  pool : Bool
  regroup : Nat
  deriving DecidableEq, Repr

/-- A sliding-window operator as a model image declares it (R277 to R288). -/
structure WindowDecl where
  chIn : Nat
  chOut : Nat
  groups : Nat
  pad : PadKind
  time : AxisDecl
  freq : AxisDecl
  streaming : Bool
  deriving DecidableEq, Repr

/-- A piece of resident weights: the core within the partition's cores, the scratch offset, the bytes (R446). -/
structure WeightPart where
  core : Nat
  offset : Nat
  bytes : Bytes
  deriving DecidableEq, Repr

/-- What a model image declares. The byte format of an image is Colryn's and not in the spec, so the declarations
come as an operand of MODEL_LOAD (log 10). `passSet` are the places, among the core groups of
a partition, of those one batch pass uses (R74); `umberPc` and `umberSeed` are those of the Umber job. Times are Lortus's calibration (R55, R446) in nanoseconds. -/
structure ImageInfo where
  tokens : Bool
  samplesPerFrame : Nat
  chunkFrames : Nat
  chIn : Nat
  chOut : Nat
  sameCount : Bool
  bytesPerFrame : Nat
  inFmt : BitVec 8
  maxPayload : Nat
  outRecords : Nat
  outBytes : Nat
  outFmt : BitVec 8
  layout : BitVec 32
  ops : List StateOp
  stochasticState : Bool
  nonSatState : Bool
  tFixedNs : Nat
  tPassNs : Nat
  groupCores : Nat
  groupSlots : Nat
  passSet : List Nat
  entryPc : BitVec 16
  seed : W64
  umberPc : BitVec 16
  umberSeed : W64
  nanTrap : Bool
  tagEnable : W64
  tags : List Bytes
  umberTags : List Nat
  program : Bytes
  weights : List WeightPart
  segments : BitVec 8
  banks : W64
  attn : Option AttnDecl
  windows : List WindowDecl
  scoreBytes : Nat
  statsBytes : Nat
  deriving DecidableEq, Repr

/-- What the peer device of a mirror answers (R476). -/
inductive PeerReply where
  | shadowReady (shadow : BitVec 32) | noImage | admissionDenied
  deriving DecidableEq, Repr

/-- The identity of a NaN passing a site (R117, R119). -/
structure NanIdent where
  tileQueue : Bool
  opTag : BitVec 16
  pc : BitVec 16
  deriving DecidableEq, Repr

/-- A memory error to be latched in MEM.ERR.LAST (R336). -/
structure MemError where
  kind : BitVec 3
  scrub : Bool
  addr : DevAddr
  deriving DecidableEq, Repr

/-- What a scrub of one access width finds (R322 to R324): nothing, an error in one bit column of the bank that it corrects, or
with `byAccess` one that a port access, which the scrub lets go first, has corrected (R322, R341), or an uncorrectable word. -/
inductive ScrubResult where
  | clean | corrected (byAccess : Bool) (column : Nat) | uncorrectable
  deriving DecidableEq, Repr

/-- What a patrol pass over a pseudo-channel finds (R326 to R328): the sectors it corrected, those that reads have corrected
since the last pass (R310), those that cannot be corrected; that soft repair is exhausted, that the pseudo-channel has failed. -/
structure PatrolResult where
  corrected : List DevAddr
  byRead : List DevAddr
  uncorrectable : List DevAddr
  exhausted : Bool
  failed : Bool
  deriving DecidableEq, Repr

/-- The outcome of a transfer's transit checks (R460). -/
inductive HopResult where
  | clean | resent (n : Nat) | linkFailed
  deriving DecidableEq, Repr

/-- What uncorrectable data was lost with a fault (R474). A committed image of a mirrored stream comes with the shadow's
newest image where the restore answered. -/
inductive LostData where
  | nothing
  | committedState (stream : Fin 16384) (restored : Option Bytes)
  | pendingChunk (stream : Fin 16384)
  | unarchivedChunk (stream : Fin 16384)
  | imageCopy (part : Fin 16)
  | kvPage (stream : Fin 16384)
  | scaleEntry (part : Fin 16) (tag : Fin 64)
  | astEntry (stream : Fin 16384)
  | workSlice (part : Fin 16)
  deriving DecidableEq, Repr

/-- A single fault as it reaches the hub (R467): the row of R467's table counted from 0, the unit identifier (R481),
the device address concerned, the data lost and whether a spare row, column or block serves for the repair. -/
structure FaultReport where
  cls : Fin 12
  unit : W64
  addr : DevAddr
  lost : LostData
  repairable : Bool
  deriving DecidableEq, Repr

/-- An RTP packet as received (R394, R395): its destination address, IPv4 in mapped form, the VLAN of its tag or 0 without one (R380), and
the fill of its priority's receive buffer (R391). -/
structure RtpPacket where
  mac : Fin 16
  dst : BitVec 128
  vlan : BitVec 12
  src : BitVec 128
  dstPort : BitVec 16
  ssrc : BitVec 32
  payloadType : BitVec 7
  timestamp : BitVec 32
  payload : Bytes
  checksOk : Bool
  rxFill : Nat
  deriving DecidableEq, Repr

/-- The kinds of RTCP packets (R394). -/
inductive RtcpKind where
  | senderReport | receiverReport | bye
  deriving DecidableEq, Repr

/-- The kinds of NAK a requester receives (R383, R385). -/
inductive NakKind where
  | sequence | rnr | invalidRequest | accessError
  deriving DecidableEq, Repr

/-- A UDP request to the management service (R402). -/
structure MgmtRequest where
  src : BitVec 128
  op : BitVec 8
  status : BitVec 8
  tag : BitVec 16
  length : BitVec 16
  reserved : BitVec 16
  addr : W64
  data : Bytes
  deriving DecidableEq, Repr

/-- Contention counters measured over a seeing period (R86), which no rule derives (log 18). -/
structure SeeingCounts where
  hbmWait : Nat
  lpddrWait : Nat
  ringWait : Nat
  hubWait : Nat
  routerWait : Nat
  remoteNs : Nat
  foreignBytes : Nat
  deriving DecidableEq, Repr

/-- Temperatures of one sample (R519), in 0.1 degC. -/
structure TempSample where
  cores : List (Nat × Int)
  fabrics : List Int
  hub : Int
  hbmStacks : List Int
  coolant : Int
  deriving DecidableEq, Repr

/-- The two words of one port in a wire frame (R342): left and right, justified as R349. -/
structure WireWords where
  port : Fin 16
  left : W32
  right : W32
  deriving DecidableEq, Repr

/-- What goes wrong at a group's ports in a wire frame (R356): the ports whose ring side stalls, those whose WS changes before a
word is complete. -/
structure WireSlips where
  stalls : List (Fin 16)
  early : List (Fin 16)
  deriving DecidableEq, Repr

/-- A wait that the remote timeout of R216 can end. -/
inductive RemoteWait where
  | transfer (slot : Fin 16) | waitm (eng : Engine)
  deriving DecidableEq, Repr

/-- The commands: one constructor per row of spec/opcode_table.json, in its order. Host commands name the mailbox
whose copied page they run; `host` is what a read of SRC returned (none: it failed) and `ok` says that a write to DST
was acknowledged (log 9). Core instructions carry the core and the word below OPCODE (log 6). -/
inductive Instr where
  | mailboxDoorbell (m : Fin 64)
  | devInfo (m : Fin 64)
  | devStateSet (m : Fin 64)
  | devReset (m : Fin 64)
  | devEvtRing (m : Fin 64)
  | devMbxBind (m : Fin 64)
  | devSupSwap (m : Fin 64)
  | devHealth (m : Fin 64)
  | devPowerCap (m : Fin 64)
  | cfgStage (m : Fin 64) (host : Option Bytes)
  | cfgCommit (m : Fin 64)
  | cfgRollback (m : Fin 64)
  | cfgList (m : Fin 64)
  | cfgRead (m : Fin 64) (ok : Bool)
  | cfgDiscard (m : Fin 64)
  | partCreate (m : Fin 64)
  | partDestroy (m : Fin 64)
  | partReset (m : Fin 64)
  | partQuery (m : Fin 64)
  | modelLoad (m : Fin 64) (host : Option Bytes) (image : ImageInfo)
  | modelUnload (m : Fin 64)
  | modelQuery (m : Fin 64)
  | streamOpen (m : Fin 64) (peer : PeerReply)
  | streamClose (m : Fin 64)
  | streamDrain (m : Fin 64)
  | streamMigrate (m : Fin 64)
  | streamAdopt (m : Fin 64)
  | streamQuery (m : Fin 64)
  | streamMirror (m : Fin 64) (peer : PeerReply)
  | audGroupConfig (m : Fin 64)
  | audPortStart (m : Fin 64)
  | audPortStop (m : Fin 64)
  | audPortRestart (m : Fin 64)
  | audSlotMask (m : Fin 64)
  | audGainSet (m : Fin 64)
  | audMuteSet (m : Fin 64)
  | audBypassSet (m : Fin 64)
  | netPortConfig (m : Fin 64)
  | netAddrSet (m : Fin 64)
  | netQpCreate (m : Fin 64)
  | netQpConnect (m : Fin 64)
  | netQpDestroy (m : Fin 64)
  | netQpQuery (m : Fin 64)
  | netCcConfig (m : Fin 64)
  | netMgmtConfig (m : Fin 64)
  | memTierMove (m : Fin 64)
  | memQuery (m : Fin 64)
  | testStart (m : Fin 64)
  | testResult (m : Fin 64) (ok : Bool)
  | spareQuery (m : Fin 64) (ok : Bool)
  | wearRead (m : Fin 64) (ok : Bool)
  | unitRetire (m : Fin 64)
  | secIdentity (m : Fin 64) (ok : Bool)
  | secQuote (m : Fin 64) (ok : Bool)
  | secFwUpdate (m : Fin 64) (host : Option Bytes)
  | secFwActivate (m : Fin 64)
  | secCounterAdvance (m : Fin 64)
  | telemRead (m : Fin 64) (ok : Bool)
  | telemSeeingCfg (m : Fin 64)
  | telemSensors (m : Fin 64)
  | nop (c : Fin 1536) (w : InstrWord)
  | end_ (c : Fin 1536) (w : InstrWord)
  | br (c : Fin 1536) (w : InstrWord)
  | beq (c : Fin 1536) (w : InstrWord)
  | bne (c : Fin 1536) (w : InstrWord)
  | blt (c : Fin 1536) (w : InstrWord)
  | bge (c : Fin 1536) (w : InstrWord)
  | loop (c : Fin 1536) (w : InstrWord)
  | xset (c : Fin 1536) (w : InstrWord)
  | xaddi (c : Fin 1536) (w : InstrWord)
  | xadd (c : Fin 1536) (w : InstrWord)
  | xsub (c : Fin 1536) (w : InstrWord)
  | xmuli (c : Fin 1536) (w : InstrWord)
  | xshl (c : Fin 1536) (w : InstrWord)
  | xshr (c : Fin 1536) (w : InstrWord)
  | xand (c : Fin 1536) (w : InstrWord)
  | xld (c : Fin 1536) (w : InstrWord)
  | wait (c : Fin 1536) (w : InstrWord)
  | waitm (c : Fin 1536) (w : InstrWord)
  | sync (c : Fin 1536) (w : InstrWord)
  | ppoint (c : Fin 1536) (w : InstrWord)
  | fsig (c : Fin 1536) (w : InstrWord)
  | mmul (c : Fin 1536) (w : InstrWord)
  | vfp (c : Fin 1536) (w : InstrWord)
  | vbf (c : Fin 1536) (w : InstrWord)
  | vint (c : Fin 1536) (w : InstrWord)
  | vcvt (c : Fin 1536) (w : InstrWord)
  | vfunc (c : Fin 1536) (w : InstrWord)
  | vred (c : Fin 1536) (w : InstrWord)
  | vbc (c : Fin 1536) (w : InstrWord)
  | vside (c : Fin 1536) (w : InstrWord)
  | vqrd (c : Fin 1536) (w : InstrWord)
  | vld (c : Fin 1536) (w : InstrWord)
  | vst (c : Fin 1536) (w : InstrWord)
  | gcfg (c : Fin 1536) (w : InstrWord)
  | grun (c : Fin 1536) (w : InstrWord)
  | dmov (c : Fin 1536) (w : InstrWord) (hop : HopResult)
  | reservedOpcode (c : Fin 1536) (w : BitVec 128)
  | waitSatisfied (c : Fin 1536) (e : Engine)
  | waitmReread (c : Fin 1536) (e : Engine)
  | mmulPassEnd (c : Fin 1536) (run : Nat) (parity : Option (Fin 16))
  | tileQueueWrite (c : Fin 1536) (residue : Bool)
  | mmulComplete (c : Fin 1536) (run : Nat)
  | grunComplete (c : Fin 1536)
  | dmovComplete (c : Fin 1536) (slot : Fin 16)
  | preemptRequest (ctx : BitVec 16)
  | parkedResume (ctx : BitVec 16)
  | latePointTimeout (ctx : BitVec 16)
  | remoteTimeout (c : Fin 1536) (what : RemoteWait)
  | localWaitWatchdog (c : Fin 1536) (e : Engine)
  | queueReadWatchdog (c : Fin 1536) (e : Engine)
  | chunkAccept (i : Fin 16384)
  | jitterAcceptTimeout (i : Fin 16384)
  | archiveWriteDone (i : Fin 16384)
  | stepStart (p : Fin 16)
  | stalledResidencyRelease (i : Fin 16384)
  | passStart (p : Fin 16)
  | contextEnd (ctx : BitVec 16)
  | outputRelease (i : Fin 16384) (exitOk : Bool)
  | hostRingSinkWrite (i : Fin 16384)
  | sinkConsReread (i : Fin 16384) (count : W64)
  | stateCommitFlip (i : Fin 16384)
  | seeingPeriodEnd (p : Fin 16) (counts : SeeingCounts)
  | stallTimeout (i : Fin 16384)
  | orphanTimeout (i : Fin 16384)
  | singleFaultReport (f : FaultReport)
  | replayReloadDone (p : Fin 16)
  | sramScrub (a : DevAddr) (r : ScrubResult)
  | hbmPatrol (stack : Fin 12) (pc : Fin 32) (r : PatrolResult)
  | remapCopyDone (q : Fin 4)
  | extentZeroingDone (p : Fin 16)
  | tierCopyDone (i : Fin 16384) (layer page : Nat) (checkOk : Bool)
  | testComplete (test : Nat) (unit signature : W64)
  | ageingSample (c : Fin 1536) (slowdown : Nat)
  | islandClockSettle (c : Fin 1536)
  | mirrorStateSend (i : Fin 16384)
  | inboundSend (qpn : BitVec 24) (payload : Bytes) (ce : Bool)
  | inboundRdmaWrite (qpn : BitVec 24) (va : W64) (key : BitVec 32) (data : Bytes) (ce : Bool)
  | inboundWriteImmediate (qpn : BitVec 24) (va : W64) (key imm : BitVec 32) (data : Bytes) (ce : Bool)
  | inboundRdmaRead (qpn : BitVec 24) (va : W64) (key : BitVec 32) (len : Nat) (ce : Bool)
  | inboundFetchAdd (qpn : BitVec 24) (va : W64) (key : BitVec 32) (add : W64) (ce : Bool)
  | inboundCompareSwap (qpn : BitVec 24) (va : W64) (key : BitVec 32) (cmp swap : W64) (ce : Bool)
  | roceAckReceive (qpn psn : BitVec 24)
  | readResponseReceive (qpn : BitVec 24) (data : Bytes)
  | nakReceive (qpn psn : BitVec 24) (kind : NakKind)
  | ackTimeout (qpn : BitVec 24)
  | cnpReceive (qpn : BitVec 24)
  | ccAlphaPeriod (qpn : BitVec 24)
  | ccIncreasePeriod (qpn : BitVec 24)
  | rtpPacket (pkt : RtpPacket)
  | rtcpPacket (mac : Fin 16) (src : BitVec 128) (dstPort : BitVec 16) (ssrc : BitVec 32) (kind : RtcpKind)
  | rtcpSenderReport (i : Fin 16384)
  | arpRequest (mac : Fin 16) (target sender : BitVec 32) (senderMac : BitVec 48)
  | neighbourSolicitation (mac : Fin 16) (target sender : BitVec 128) (senderMac : BitVec 48)
  | icmpEchoRequest (mac : Fin 16) (dst src : BitVec 128) (payload : Bytes)
  | unmatchedFrame (mac : Fin 16) (checksOk : Bool)
  | pauseFrameReceive (p : Fin 4) (prio : Fin 8) (hold : Bool) (rxFill : Nat)
  | pfcWatchdog (p : Fin 4) (prio : Fin 8)
  | pfcWatchdogEnd (p : Fin 4) (prio : Fin 8)
  | laneLockLoss (p : Fin 4) (lane : Fin 5)
  | laneSerWindow (p : Fin 4) (lane : Fin 5) (errors : Nat)
  | laneMapAnswer (p : Fin 4)
  | laneMapTimeout (p : Fin 4)
  | linkUp (mac : Fin 16)
  | linkDown (mac : Fin 16)
  | mgmtRead (r : MgmtRequest)
  | mgmtWrite (r : MgmtRequest)
  | mgmtDoorbell (r : MgmtRequest)
  | smbusIdentity
  | smbusState
  | smbusTemperature
  | smbusPower
  | smbusHealth
  | eventRingConsReread (r : Fin 16) (count : W64)
  | doorbellPacket (r : Fin 16)
  | heartbeat
  | heartbeatMiss (ownFault : Bool)
  | spareSupervisorReady (n : Fin 4)
  | audioWireFrame (g : Fin 16) (words : List WireWords) (slips : WireSlips)
  | crossingTimeout (g : Fin 16) (slot : Fin 16)
  | bypassReleaseHold (g : Fin 16) (slot : Fin 16)
  | intakeAudioAccept (i : Fin 16384)
  | audioClockLoss (g : Fin 16)
  | audioClockReturn (g : Fin 16)
  | rateMeasurement (port : Fin 16) (rateMhz : BitVec 28)
  | heliostatUpdate (g : Fin 16)
  | registerWrite (a : DevAddr) (v : W64)
  | nanIdClear (c : Fin 1536) (v : W64) (raced : Option NanIdent)
  | mbxLostClear (v raced : W64)
  | memErrLastClear (v : W64) (raced : Option MemError)
  | audMaskCommit (g : Fin 16) (v : W64)
  | audHelioWrite (g : Fin 16) (v : W64)
  | powerStart
  | powerFail
  | powerMeasure (mean1ms mean10ms inputMv : Nat)
  | limiterStep
  | powerCapCheck
  | thermalSample (t : TempSample)
  | thermalThrottleStep (c : Fin 1536)
  | thermalTripRelease
  | resetNAssert
  | warmNAssert
  | systemReferenceLost
  | systemReferenceReturn
  | serdesReferenceLost
  | serdesReferenceReturn
  | romBoot
  | fwLoadComplete
  | initComplete
  | stateBuffersReady (i : Fin 16384)
  | flashWriteDone (ok : Bool)
  | fuseBlowDone
  | scratchReloadDone (p : Fin 16)
  | nextHopResolutionReply (mac : Fin 16) (ip : BitVec 128) (hwAddr : BitVec 48)
  deriving DecidableEq, Repr

end Sys2Proof
end

