-- ==== Sys2Proof/Decode.lean ====
section
/-! DEFINITION. The command that a word of the opcode table spells, and the instruction of a core that a 128-bit word spells. No row
of spec/opcode_table.json gives bits: the device takes commands as packets, pages, pins and timed moments, not as words. -/

namespace Sys2Proof

/-- No row of the table has bits, so no word spells a command. -/
def decodeTableWord (_nbits _w : Nat) : Option Instr := none

/-- The command that issuing a 128-bit instruction word on a core is (R197): OPCODE[127:120] names the instruction, which takes the
rest of the word; every code not listed is reserved. `hop` is what the transit checks of a DMOV's data come to (R460). -/
def decodeCoreWord (c : Fin 1536) (hop : HopResult) (w : BitVec 128) : Instr :=
  let b := w.setWidth 120
  match w.toNat / 2 ^ 120 with
  | 0x00 => .nop c b
  | 0x01 => .end_ c b
  | 0x02 => .br c b
  | 0x03 => .beq c b
  | 0x04 => .bne c b
  | 0x05 => .blt c b
  | 0x06 => .bge c b
  | 0x07 => .loop c b
  | 0x08 => .xset c b
  | 0x09 => .xaddi c b
  | 0x0A => .xadd c b
  | 0x0B => .xsub c b
  | 0x0C => .xmuli c b
  | 0x0D => .xshl c b
  | 0x0E => .xshr c b
  | 0x0F => .xand c b
  | 0x10 => .xld c b
  | 0x18 => .wait c b
  | 0x19 => .waitm c b
  | 0x1A => .sync c b
  | 0x1B => .ppoint c b
  | 0x1C => .fsig c b
  | 0x20 => .mmul c b
  | 0x30 => .vfp c b
  | 0x31 => .vbf c b
  | 0x32 => .vint c b
  | 0x33 => .vcvt c b
  | 0x34 => .vfunc c b
  | 0x35 => .vred c b
  | 0x36 => .vbc c b
  | 0x37 => .vside c b
  | 0x40 => .vqrd c b
  | 0x41 => .vld c b
  | 0x42 => .vst c b
  | 0x50 => .gcfg c b
  | 0x51 => .grun c b
  | 0x60 => .dmov c b hop
  | _ => .reservedOpcode c w

end Sys2Proof
end

