-- ==== Sys2Proof/Machine/Bits.lean ====
section
/-! DEFINITION. Little-endian byte strings (R10), bit fields (R9) and tables. -/

namespace Sys2Proof.Machine

/-- The number a little-endian byte string spells (R10). -/
def bytesToNat : Bytes → Nat
  | [] => 0
  | b :: bs => b.toNat + 256 * bytesToNat bs

/-- The `n` little-endian bytes of a number, higher bits dropped (R10). -/
def natToBytes : Nat → Nat → Bytes
  | 0, _ => []
  | n + 1, v => BitVec.ofNat 8 v :: natToBytes n (v / 256)

/-- The number a byte string spells in network byte order (R10). -/
def netToNat (bs : Bytes) : Nat := bytesToNat bs.reverse

/-- `n` zero bytes. -/
def zeros (n : Nat) : Bytes := List.replicate n 0

/-- `len` bytes from offset `off`, zero beyond the end. -/
def slice (bs : Bytes) (off len : Nat) : Bytes :=
  let t := (bs.drop off).take len
  t ++ zeros (len - t.length)

/-- The little-endian number of `len` bytes at `off`. -/
def le (bs : Bytes) (off len : Nat) : Nat := bytesToNat ((bs.drop off).take len)

/-- The bytes padded with zeros or cut to length `n`. -/
def padTo (n : Nat) (bs : Bytes) : Bytes := (bs ++ zeros n).take n

/-- The bytes with `new` written at offset `off`. -/
def patch (bs : Bytes) (off : Nat) (new : Bytes) : Bytes :=
  bs.take off ++ new ++ bs.drop (off + new.length)

/-- Bits `lo` to `lo + len − 1` of a number. -/
def bits (v lo len : Nat) : Nat := v / 2 ^ lo % 2 ^ len

/-- A number placed at bit `lo` in a field of `len` bits. -/
def place (lo len v : Nat) : Nat := v % 2 ^ len * 2 ^ lo

/-- The 64-bit word with field [lo + len − 1 : lo] replaced. -/
def setBits (w : W64) (lo len v : Nat) : W64 :=
  BitVec.ofNat 64 (w.toNat - place lo len (bits w.toNat lo len) + place lo len v)

/-- Bit `i` of a number. -/
def bit (v i : Nat) : Bool := v.testBit i

/-- 1 or 0. -/
def flag (b : Bool) : Nat := if b then 1 else 0

/-- Add with saturation at the largest value of the width (the counters of the register maps). -/
def satAdd {n : Nat} (a : BitVec n) (k : Nat) : BitVec n := BitVec.ofNat n (min (a.toNat + k) (2 ^ n - 1))

/-- The entry at an index, if the table lists it. -/
def tabGet? {α : Type} (t : Tab α) (i : Nat) : Option α :=
  match t with
  | [] => none
  | (j, a) :: r => if j = i then some a else tabGet? r i

/-- The entry at an index, or the default. -/
def tabGet {α : Type} (t : Tab α) (d : α) (i : Nat) : α := (tabGet? t i).getD d

/-- The table with an entry set; indices stay in rising order. -/
def tabPut {α : Type} (t : Tab α) (i : Nat) (a : α) : Tab α :=
  match t with
  | [] => [(i, a)]
  | (j, b) :: r => if i < j then (i, a) :: (j, b) :: r else if i = j then (i, a) :: r else (j, b) :: tabPut r i a

/-- The table without an entry. -/
def tabDel {α : Type} (t : Tab α) (i : Nat) : Tab α := t.filter (fun e => e.1 != i)

/-- Round a number up to a multiple. -/
def alignUp (a n : Nat) : Nat := (n + a - 1) / a * a

/-- Rounded-up quotient. -/
def ceilDiv (a b : Nat) : Nat := (a + b - 1) / b

/-- The largest value of a list, 0 of an empty one. -/
def listMax (l : List Nat) : Nat := l.foldl max 0

/-- The smallest value of a list. -/
def listMin? (l : List Nat) : Option Nat :=
  match l with
  | [] => none
  | a :: r => some (r.foldl min a)

/-- Insert before the first element whose key is not smaller. -/
def insertByKey {α : Type} (key : α → Nat) (a : α) : List α → List α
  | [] => [a]
  | b :: r => if key b < key a then b :: insertByKey key a r else a :: b :: r

/-- Stable sort in rising order of a key. -/
def sortByKey {α : Type} (key : α → Nat) (l : List α) : List α := l.foldr (insertByKey key) []

/-- The position of the first element that satisfies the test. -/
def indexOf? {α : Type} (p : α → Bool) (l : List α) : Option Nat :=
  match l with
  | [] => none
  | a :: r => if p a then some 0 else (indexOf? p r).map (· + 1)

/-- The list with the element at a position replaced. -/
def listPut {α : Type} (l : List α) (i : Nat) (a : α) : List α := l.set i a

/-- CRC-32C of R456 and RFC 3720: one bit of the reflected register. -/
def crcShift (c : W32) : W32 := if c.getLsbD 0 then (c >>> 1) ^^^ 0x82F63B78 else c >>> 1

/-- One byte into the reflected CRC-32C register. -/
def crcByte (c : W32) (b : Byte) : W32 :=
  let x := c ^^^ b.setWidth 32
  crcShift (crcShift (crcShift (crcShift (crcShift (crcShift (crcShift (crcShift x)))))))

/-- CRC-32C of a byte string: start all ones, final complement. -/
def crc32c (bs : Bytes) : W32 := ~~~ (bs.foldl crcByte 0xFFFFFFFF)

end Sys2Proof.Machine
end

