-- ==== Sys2Proof/Machine/Crypto.lean ====
section
/-! DEFINITION. SHAKE256 (FIPS 202) and pure Ed448 without context (RFC 8032), as R435, R489, R493 to R509 use them
(log 14). Numbers are natural numbers, bytes are little-endian. -/

namespace Sys2Proof.Machine

/-! ### Keccak-f[1600] on one number of 1,600 bits: bit z of lane (x, y) is bit 64(5y + x) + z, which is the order of
the bits of the absorbed and squeezed bytes. Nothing is tabled: offsets and round constants come from their recurrences. -/

/-- A `w`-bit number rotated by `n ≤ w` places towards its high end. -/
def cyclic (w v n : Nat) : Nat := v <<< n % 2 ^ w ||| v >>> (w - n)

/-- The `i`-th part of `w` bits. -/
def bitPart (w s i : Nat) : Nat := s >>> (w * i) % 2 ^ w

/-- Parts of `w` bits put together, the first lowest. -/
def joinParts (w : Nat) (ps : List Nat) : Nat := ps.foldr (fun p s => p + s <<< w) 0

/-- θ: every column takes the parity of the column before it and, one bit on, of the column after it. -/
def mixColumns (s : Nat) : Nat :=
  let parity := (List.range 5).foldl (fun c y => c ^^^ bitPart 320 s y) 0
  let turned := joinParts 64 ((List.range 5).map (fun x => cyclic 64 (bitPart 64 parity x) 1))
  let effect := cyclic 320 parity 64 ^^^ cyclic 320 turned 256
  s ^^^ joinParts 320 (List.replicate 5 effect)

/-- The journey of ρ and π together: from lane (x, y) a lane goes to (y, 2x + 3y) and turns by one more than the
triangular number before. -/
def moveLanes : Nat → Nat → Nat → Nat → Nat → Nat → Nat
  | 0, _, _, _, _, moved => moved
  | n + 1, t, x, y, s, moved =>
    let y' := (2 * x + 3 * y) % 5
    let turn := (t + 1) * (t + 2) / 2 % 64
    moveLanes n (t + 1) y y' s (moved + cyclic 64 (bitPart 64 s (5 * y + x)) turn <<< (64 * (5 * y' + y)))

/-- χ on one plane of five lanes. -/
def bendPlane (p : Nat) : Nat := p ^^^ ((cyclic 320 p 256 ^^^ (2 ^ 320 - 1)) &&& cyclic 320 p 192)

/-- The next state of the generator of the round constants: x^8 + x^6 + x^5 + x^4 + 1. -/
def nextTap (r : Nat) : Nat := if r < 128 then 2 * r else (2 * r) % 256 ^^^ 0x71

/-- The round constant drawn from generator state `r`: seven draws, draw j at bit 2^j − 1; and the state after them. -/
def roundConstant (r : Nat) : Nat × Nat :=
  (List.range 7).foldl (fun (c, r) j => (c + (r % 2) <<< (2 ^ j - 1), nextTap r)) (0, r)

/-- `n` rounds from generator state `r`. -/
def keccakRounds : Nat → Nat → Nat → Nat
  | 0, _, s => s
  | n + 1, r, s =>
    let s := mixColumns s
    let s := moveLanes 24 0 1 0 s (bitPart 64 s 0)
    let s := joinParts 320 ((List.range 5).map (fun y => bendPlane (bitPart 320 s y)))
    let (c, r) := roundConstant r
    keccakRounds n r (s ^^^ c)

/-- The permutation: 24 rounds. -/
def keccakPermute (s : Nat) : Nat := keccakRounds 24 1 s

/-- Absorb what is left of a message, 136 bytes at a time, the last part padded with the suffix 1111 and 10*1. -/
def shakeAbsorb : Nat → Bytes → Nat → Nat
  | 0, _, s => s
  | n + 1, m, s =>
    let v := bytesToNat (m.take 136)
    if m.length < 136 then keccakPermute (s ^^^ v ^^^ 0x1F <<< (8 * m.length) ^^^ 2 ^ 1087)
    else shakeAbsorb n (m.drop 136) (keccakPermute (s ^^^ v))

/-- Squeeze `k` parts of 136 bytes. -/
def shakeSqueeze : Nat → Nat → Bytes
  | 0, _ => []
  | k + 1, s => natToBytes 136 (s % 2 ^ 1088) ++ shakeSqueeze k (keccakPermute s)

/-- SHAKE256 with `n` bytes of output. -/
def shake256 (n : Nat) (m : Bytes) : Bytes :=
  (shakeSqueeze ((n + 135) / 136) (shakeAbsorb (m.length / 136 + 1) m 0)).take n

/-! ### The curve -/

/-- The field prime 2^448 − 2^224 − 1. -/
def edP : Nat := 2 ^ 448 - 2 ^ 224 - 1
/-- The order of the base point. -/
def edL : Nat := 2 ^ 446 - 13818066809895115352007386748515426880336692474882178609894547503885
/-- d = −39081. -/
def edD : Nat := edP - 39081

/-- A point in projective coordinates. -/
structure EdPoint where
  x : Nat
  y : Nat
  z : Nat
  deriving DecidableEq, Repr

/-- The neutral element. -/
def edZero : EdPoint := ⟨0, 1, 1⟩

/-- The base point. -/
def edBase : EdPoint :=
  ⟨224580040295924300187604334099896036246789641632564134246125461686950415467406032909029192869357953282578032075146446173674602635247710,
   298819210078481492676017930443930673437544040154080242095928241372331506189835876003536878655418784733982303233503462500531545062832660,
   1⟩

/-- Field subtraction. -/
def edSub (a b : Nat) : Nat := (a + edP - b) % edP

/-- Addition of two points (RFC 8032, 5.2.4), complete on this curve. -/
def edAdd (p q : EdPoint) : EdPoint :=
  let a := p.z * q.z % edP
  let b := a * a % edP
  let c := p.x * q.x % edP
  let d := p.y * q.y % edP
  let e := edD * (c * d % edP) % edP
  let f := edSub b e
  let g := (b + e) % edP
  let h := (p.x + p.y) * (q.x + q.y) % edP
  ⟨a * f % edP * edSub (edSub h c) d % edP, a * g % edP * edSub d c % edP, f * g % edP⟩

/-- Scalar multiplication over the low `n` bits, most significant first. -/
def edMulBits (k : Nat) (q : EdPoint) : Nat → EdPoint → EdPoint
  | 0, acc => acc
  | n + 1, acc =>
    let t := edAdd acc acc
    edMulBits k q n (if k.testBit n then edAdd t q else t)

/-- k times a point. -/
def edMul (k : Nat) (q : EdPoint) : EdPoint := edMulBits k q 456 edZero

/-- Modular power over the low `n` bits of the exponent. -/
def edPowBits (b e : Nat) : Nat → Nat → Nat
  | 0, acc => acc
  | n + 1, acc =>
    let t := acc * acc % edP
    edPowBits b e n (if e.testBit n then t * b % edP else t)
def edPow (b e : Nat) : Nat := edPowBits b e 448 1

/-- Equality of points. -/
def edEq (p q : EdPoint) : Bool := p.x * q.z % edP == q.x * p.z % edP && p.y * q.z % edP == q.y * p.z % edP

/-- The 57-byte encoding of a point. -/
def edEncode (p : EdPoint) : Bytes :=
  let zi := edPow p.z (edP - 2)
  natToBytes 57 (p.y * zi % edP + p.x * zi % edP % 2 * 2 ^ 455)

/-- The point that 57 bytes encode, if they encode one. -/
def edDecode (bs : Bytes) : Option EdPoint :=
  let v := bytesToNat bs
  let y := v % 2 ^ 455
  let sign := v / 2 ^ 455
  if bs.length ≠ 57 || edP ≤ y then none
  else
    let y2 := y * y % edP
    let u := edSub y2 1
    let w := edSub (edD * y2 % edP) 1
    let u3 := u * u % edP * u % edP
    let x := u3 * w % edP * edPow (u3 * (u * u % edP) % edP * (w * w % edP * w % edP) % edP) ((edP - 3) / 4) % edP
    if w * (x * x % edP) % edP ≠ u then none
    else if x = 0 && sign = 1 then none
    else some ⟨if x % 2 = sign then x else edP - x, y, 1⟩

/-- dom4 of pure Ed448 with an empty context. -/
def edDom : Bytes := [0x53, 0x69, 0x67, 0x45, 0x64, 0x34, 0x34, 0x38, 0, 0]

/-- The secret scalar and the prefix of a 57-byte seed. -/
def edSecret (seed : Bytes) : Nat × Bytes :=
  let h := shake256 114 seed
  let a := bytesToNat (h.take 55)
  (a - a % 4 + (h.getD 55 0 ||| 0x80).toNat * 2 ^ 440, (h.drop 57).take 57)

/-- The public key of a seed. -/
def edPublic (seed : Bytes) : Bytes := edEncode (edMul (edSecret seed).1 edBase)

/-- The signature of a message. -/
def edSign (seed msg : Bytes) : Bytes :=
  let (a, pre) := edSecret seed
  let pub := edEncode (edMul a edBase)
  let r := bytesToNat (shake256 114 (edDom ++ pre ++ msg)) % edL
  let rb := edEncode (edMul r edBase)
  let k := bytesToNat (shake256 114 (edDom ++ rb ++ pub ++ msg)) % edL
  rb ++ natToBytes 57 ((r + k * a) % edL)

/-- The signature verifies. -/
def edVerify (pub msg sig : Bytes) : Bool :=
  match edDecode pub, edDecode (sig.take 57) with
  | some a, some r =>
    let s := bytesToNat (sig.drop 57)
    if sig.length ≠ 114 || edL ≤ s then false
    else
      let k := bytesToNat (shake256 114 (edDom ++ sig.take 57 ++ pub ++ msg)) % edL
      let four := fun (p : EdPoint) => let t := edAdd p p; edAdd t t
      edEq (four (edMul s edBase)) (four (edAdd r (edMul k a)))
  | _, _ => false

/-- SHAKE256 with the default output of 64 bytes. -/
def digest64 (m : Bytes) : Bytes := shake256 64 m

end Sys2Proof.Machine
end

