-- ==== Sys2Proof/Config.lean ====
section
/-! DEFINITION. What one device fixes at manufacture, the figures of the spec that the model uses by name, and the
free values: constants without a body for what the spec leaves open (log 3, 12, 13, 14, 25). -/

namespace Sys2Proof.Config

/-- Logical cores of a device (R1). -/
def numCores : Nat := 1536
/-- Entries of the active stream table (R1, R58). -/
def numStreams : Nat := 16384

/-! ### Free values. Nothing in Lean can evaluate them: a statement holds for every value of them. -/

/-- The n-th choice the device makes where the spec leaves one open (log 3). -/
opaque freeNat : Nat → Nat
/-- The device's result of function operation `op` on an FP32 operand, before the error bound is applied (log 13). -/
opaque fnResult : Nat → W32 → W32
/-- The serial number, 16 ASCII bytes (R404; log 12). -/
opaque serial : Bytes
/-- The tray-slot straps SLOT_ID1 and SLOT_ID0, fixed on the tray (R403, R529; log 12). -/
opaque slotId : BitVec 2
/-- The unicast address of MAC m (R380; log 12). -/
opaque macAddr : Nat → BitVec 48
/-- The firmware image in slot A at manufacture (log 12). -/
opaque factoryFirmware : Bytes
/-- The unique device secret (R493; log 14). -/
opaque uds : Bytes
/-- The firmware root public key in the boot ROM (R493; log 14). -/
opaque rootKey : Bytes
/-- The device certificate written at manufacture (R496; log 14). -/
opaque deviceCert : Bytes
/-- SHAKE256 of the boot ROM contents (R509; log 14). -/
opaque romMeasure : Bytes
/-- The signature Lortus holds for a unit kind and a test kind (R489; log 25). -/
opaque testSignature : Nat → Nat → W64
/-- The n-th byte of the telemetry counters TELEM_READ writes at hub cycle t (R433 names no list; log 25). -/
opaque telemetryByte : Nat → Nat → Byte
/-- How many bytes TELEM_READ writes (log 25). -/
opaque telemetryLength : Nat
/-- The row of a pseudo-channel that holds a byte at an offset within it: no rule gives the size of a row (R326). -/
opaque hbmRow : Nat → Nat

/-- Core cycles that droop stretches on a physical island from one hub cycle to another (R43; log 29). -/
opaque stretched : Nat → Nat → Nat → Nat
/-- By how many MHz droop holds an island's mean over the last microsecond below its clock in a hub cycle (R43; log 29). -/
opaque droopMhz : Nat → Nat → Nat

/-! ### Sharded decode (R274): the spec does not say how a home device knows its shards (log 38). -/

/-- A shard of a home stream: its device, its stream's handle, the key of its intake port, where it takes query records and their
flag word, and the layer that an end record names. -/
structure ShardPeer where
  dev : BitVec 13
  handle : BitVec 32
  intakeKey : BitVec 32
  query : W64
  flag : W64
  layer : Nat
  deriving DecidableEq, Repr

/-- The shards of the stream with a handle: none of a stream that is no home. -/
opaque shardsOf : BitVec 32 → List ShardPeer
/-- The payload of a token's start record. -/
opaque startPayload : BitVec 32 → Nat → Bytes
/-- What an end record holds after its header: Q, K_NEW and V_NEW. -/
opaque endRest : BitVec 32 → Bytes

/-! ### Mirror control records. R477 and R478 state what they carry and no layout (log 26). -/

/-- A control record of mirroring as a peer's write carries it. -/
inductive MirrorRecord where
  | create (original : BitVec 32) (digest : Bytes) (cls : Fin 3) (source sink hostTag : W64) (rate : BitVec 24)
      (binding : Bytes)
  | reply (original : BitVec 32) (answer : PeerReply)
  | commit (shadow : BitVec 32) (commitStep : BitVec 48) (releasedSeq nextOutSeq : BitVec 32)
  | chunk (shadow : BitVec 32) (slot : Bytes)
  | image (shadow : BitVec 32) (bytes : Bytes)
  | close (shadow : BitVec 32)
  deriving DecidableEq, Repr

/-- A record that asks for a shadow, or answers. -/
def MirrorRecord.asks : MirrorRecord → Bool
  | .create _ _ _ _ _ _ _ _ => true
  | .reply _ _ => true
  | _ => false

/-- Where at the peer a record is written: in the shadow's archive ring or state pair, which the source learns in a way the spec does
not give, or, of a record that asks or answers, at a place the devices agree on (R478; log 26). -/
opaque mirrorAddr : MirrorRecord → BitVec 48
/-- How the bytes of a mirror write spell a record (log 26). -/
opaque mirrorRecord : Bytes → Option MirrorRecord
/-- How a record is spelled in bytes by the source device (log 26). -/
opaque mirrorBytes : MirrorRecord → Bytes

end Sys2Proof.Config
end

