-- ==== Sys2Proof/Machine/Num.lean ====
section
/-! DEFINITION. Number formats, rounding and the tile arithmetic (R89 to R115 of 03_number_formats.md). A value is held
exactly, as a signed dyadic number, an infinity or NaN; rounding is explicit. -/

namespace Sys2Proof.Machine

/-- An exact value: NaN, an infinity, or (−1)^neg × m × 2^e. Zero has m = 0 and keeps its sign. -/
inductive Num where
  | nan
  | inf (neg : Bool)
  | fin (neg : Bool) (m : Nat) (e : Int)
  deriving DecidableEq, Repr

/-- A floating-point element format of R89: field widths, bias, its special codes and whether subnormals flush. -/
structure FFmt where
  ew : Nat
  mw : Nat
  bias : Nat
  ieee : Bool
  nanTop : Bool
  flush : Bool
  deriving DecidableEq, Repr

def fp32F : FFmt := ⟨8, 23, 127, true, false, true⟩
def bf16F : FFmt := ⟨8, 7, 127, true, false, true⟩
def fp16F : FFmt := ⟨5, 10, 15, true, false, true⟩
def e4m3F : FFmt := ⟨4, 3, 7, false, true, true⟩
def e5m2F : FFmt := ⟨5, 2, 15, true, false, true⟩
def e3m2F : FFmt := ⟨3, 2, 3, false, false, false⟩
def e2m3F : FFmt := ⟨2, 3, 1, false, false, false⟩
def e2m1F : FFmt := ⟨2, 1, 1, false, false, false⟩

/-- The width of a code. -/
def FFmt.width (f : FFmt) : Nat := 1 + f.ew + f.mw

/-- The code of the largest finite magnitude (R89). -/
def FFmt.maxCode (f : FFmt) : Nat :=
  if f.ieee then 2 ^ (f.ew + f.mw) - 2 ^ f.mw - 1
  else if f.nanTop then 2 ^ (f.ew + f.mw) - 2
  else 2 ^ (f.ew + f.mw) - 1

/-- The canonical NaN (R92); the formats without NaN codes never need it. -/
def FFmt.nanCode (f : FFmt) : Nat := 2 ^ (f.ew + f.mw) - 1

/-- The code of the sign bit. -/
def FFmt.signBit (f : FFmt) (neg : Bool) : Nat := if neg then 2 ^ (f.ew + f.mw) else 0

/-- The value of a code (R89, R98, R99). -/
def FFmt.decode (f : FFmt) (c : Nat) : Num :=
  let neg := bit c (f.ew + f.mw)
  let e := bits c f.mw f.ew
  let m := bits c 0 f.mw
  if f.ieee && e == 2 ^ f.ew - 1 then (if m = 0 then .inf neg else .nan)
  else if f.nanTop && e == 2 ^ f.ew - 1 && m == 2 ^ f.mw - 1 then .nan
  else if e = 0 then
    (if f.flush then .fin neg 0 0 else .fin neg m (1 - (f.bias : Int) - f.mw))
  else .fin neg (2 ^ f.mw + m) ((e : Int) - f.bias - f.mw)

/-- The value is a zero. -/
def Num.isZero : Num → Bool
  | .fin _ m _ => m == 0
  | _ => false

/-- The value is NaN. -/
def Num.isNan : Num → Bool
  | .nan => true
  | _ => false

/-- The sign bit; NaN has none. -/
def Num.neg? : Num → Bool
  | .nan => false
  | .inf n => n
  | .fin n _ _ => n

/-- Negation. -/
def Num.negate : Num → Num
  | .nan => .nan
  | .inf n => .inf (!n)
  | .fin n m e => .fin (!n) m e

/-- Magnitude. -/
def Num.abs : Num → Num
  | .nan => .nan
  | .inf _ => .inf false
  | .fin _ m e => .fin false m e

/-- An integer as a value. -/
def Num.ofInt (i : Int) : Num := .fin (decide (i < 0)) i.natAbs 0

/-- The signed significand of a finite value scaled to exponent `q`, which is at most its own. -/
def scaled (neg : Bool) (m : Nat) (e q : Int) : Int :=
  let v : Int := ((m * 2 ^ (e - q).toNat : Nat) : Int)
  if neg then -v else v

/-- The exact sum; the sign of an exact zero follows R100. -/
def Num.add : Num → Num → Num
  | .nan, _ => .nan
  | _, .nan => .nan
  | .inf a, .inf b => if a == b then .inf a else .nan
  | .inf a, _ => .inf a
  | _, .inf b => .inf b
  | .fin a m e, .fin b n g =>
    let q := min e g
    let s := scaled a m e q + scaled b n g q
    if s = 0 then .fin (m == 0 && n == 0 && a && b) 0 0
    else .fin (decide (s < 0)) s.natAbs q

/-- The exact product. -/
def Num.mul : Num → Num → Num
  | .nan, _ => .nan
  | _, .nan => .nan
  | .inf a, .inf b => .inf (a != b)
  | .inf a, .fin b m _ => if m = 0 then .nan else .inf (a != b)
  | .fin a m _, .inf b => if m = 0 then .nan else .inf (a != b)
  | .fin a m e, .fin b n g => .fin (a != b) (m * n) (e + g)

/-- The exact a × b + c. -/
def Num.fma (a b c : Num) : Num := (a.mul b).add c

/-- Multiplication by 2^k, exact. -/
def Num.scale2 (k : Int) : Num → Num
  | .fin n m e => .fin n m (e + k)
  | v => v

/-- Ordering of two values that are not NaN: less than. -/
def Num.lt (a b : Num) : Bool :=
  match a, b with
  | .nan, _ => false
  | _, .nan => false
  | .inf x, .inf y => x && !y
  | .inf x, .fin _ _ _ => x
  | .fin _ _ _, .inf y => !y
  | .fin x m e, .fin y n g =>
    let q := min e g
    decide (scaled x m e q < scaled y n g q)

/-- Equality of values; NaN equals nothing, the two zeros are equal. -/
def Num.eqv (a b : Num) : Bool := !a.isNan && !b.isNan && !a.lt b && !b.lt a

/-- Maximum: NaN if either is NaN (R110, R176). Of two zeros of different sign the positive one, as IEEE 754 orders
them (DEDUCED, log 27). -/
def Num.max (a b : Num) : Num :=
  if a.isNan || b.isNan then .nan else if a.lt b then b else if b.lt a then a else if a.neg? then b else a

/-- Minimum, as `Num.max`. -/
def Num.min (a b : Num) : Num :=
  if a.isNan || b.isNan then .nan else if a.lt b then a else if b.lt a then b else if a.neg? then a else b

/-- floor(log2) of a non-zero finite value. -/
def log2Of (m : Nat) (e : Int) : Int := (Nat.log2 m : Int) + e

/-- A magnitude m × 2^e rounded to a whole number of units 2^q: to nearest even, or with the 16-bit draw of R113. -/
def roundUnits (m : Nat) (e q : Int) (draw : Option Nat) : Nat :=
  if q ≤ e then m * 2 ^ (e - q).toNat
  else
    let d := 2 ^ (q - e).toNat
    let i := m / d
    let r := m % d
    match draw with
    | none => if 2 * r > d || (2 * r == d && i % 2 == 1) then i + 1 else i
    | some s => if r * 65536 / d + s ≥ 65536 then i + 1 else i

/-- What rounding into a format gave: the code, whether the value exceeded the largest finite value after rounding
(R135), whether it was saturated under OVF = 0 (R115, counted by FSAT_CNT). -/
structure Rounded where
  code : Nat
  excess : Bool
  sat : Bool
  deriving DecidableEq, Repr

/-- The result of an overflow in a format (R115). -/
def FFmt.overflow (f : FFmt) (neg ovf : Bool) : Rounded :=
  if !ovf then ⟨f.signBit neg + f.maxCode, true, true⟩
  else if f.ieee then ⟨f.signBit neg + (f.maxCode + 1), true, false⟩
  else if f.nanTop then ⟨f.nanCode, true, false⟩
  else ⟨f.signBit neg + f.maxCode, true, false⟩

/-- Round a value into a format under OVF, with round to nearest even or a stochastic draw (R98, R109, R113, R115).
NaN in a format without NaN codes gives the largest value's place to the caller's block scale and is not used. -/
def FFmt.round (f : FFmt) (ovf : Bool) (draw : Option Nat) (v : Num) : Rounded :=
  match v with
  | .nan => ⟨f.nanCode, false, false⟩
  | .inf n => f.overflow n ovf
  | .fin n m e =>
    if m = 0 then ⟨f.signBit n, false, false⟩
    else
      let q0 := log2Of m e - f.mw
      let lowest : Int := 1 - (f.bias : Int) - f.mw
      let q := if f.flush then q0 else Max.max q0 lowest
      let i := roundUnits m e q draw
      let (i, q) := if i = 2 ^ (f.mw + 1) then (2 ^ f.mw, q + 1) else (i, q)
      if i < 2 ^ f.mw then ⟨f.signBit n + i, false, false⟩
      else
        let ef := q + f.mw + f.bias
        if f.flush && ef < 1 then ⟨f.signBit n, false, false⟩
        else
          let c := ef.toNat * 2 ^ f.mw + (i - 2 ^ f.mw)
          if c > f.maxCode then f.overflow n ovf else ⟨f.signBit n + c, false, false⟩

/-- Round to FP32 to nearest even, as the vector engine and the gate pipeline do (R109). -/
def toFp32 (ovf : Bool) (v : Num) : Rounded := fp32F.round ovf none v

/-- The value of an FP32 code. -/
def ofFp32 (c : W32) : Num := fp32F.decode c.toNat

/-- A rational num/den rounded to the nearest integer, ties to even. -/
def roundInt (v : Num) : Int :=
  match v with
  | .fin n m e =>
    let i : Int := (roundUnits m e 0 none : Nat)
    if n then -i else i
  | _ => 0

/-- The two's-complement code of an integer in `w` bits. -/
def intCode (w : Nat) (i : Int) : Nat := (i % (2 ^ w : Nat)).toNat

/-- The signed value of a `w`-bit code. -/
def signedOf (w c : Nat) : Int := if c < 2 ^ (w - 1) then (c : Int) else (c : Int) - (2 ^ w : Nat)

/-- An integer limited to a range, and whether it lay outside. -/
def clampInt (lo hi i : Int) : Int × Bool := if i < lo then (lo, true) else if hi < i then (hi, true) else (i, false)

/-- Conversion of a value into an integer range, nearest even, saturating; NaN gives 0, an infinity its bound (R115). -/
def toIntRange (lo hi : Int) (v : Num) : Int × Bool :=
  match v with
  | .nan => (0, false)
  | .inf n => (if n then lo else hi, true)
  | .fin _ _ _ => clampInt lo hi (roundInt v)

/-! ### The tiles (R103, R104, R106, R107) -/

/-- One row result of a tile (R103): exact products aligned to the largest, floored to 27 fraction bits, summed, and
scaled by the block exponents. -/
def rowResult (prods : List Num) (ew ex : Int) : Num :=
  if prods.any Num.isNan then .nan
  else
    let infs := prods.filter (fun p => match p with | .inf _ => true | _ => false)
    match infs with
    | p :: r => if r.all (fun q => q.neg? == p.neg?) then .inf p.neg? else .nan
    | [] =>
      let tops := prods.filterMap (fun p => match p with | .fin _ m e => if m = 0 then none else some (log2Of m e) | _ => none)
      match tops with
      | [] => .fin false 0 0
      | t :: ts =>
        let top := ts.foldl max t
        let q := top - 27
        let sum := prods.foldl (fun (acc : Int) p =>
          match p with
          | .fin n m e =>
            if q ≤ e then acc + scaled n m e q
            else acc + (if n then -(m : Int) else (m : Int)) / (2 ^ (q - e).toNat : Nat)
          | _ => acc) 0
        if sum = 0 then .fin false 0 0 else .fin (decide (sum < 0)) sum.natAbs (q + ew + ex)

/-- Cut an exact value to 24 significand bits towards zero, never to infinity, flushing below 2^−126 (R104). -/
def truncFp32 (v : Num) : Nat :=
  match v with
  | .nan => fp32F.nanCode
  | .inf n => fp32F.signBit n + fp32F.maxCode + 1
  | .fin n m e =>
    if m = 0 then 0
    else
      let q := log2Of m e - 23
      let i := if q ≤ e then m * 2 ^ (e - q).toNat else m / 2 ^ (q - e).toNat
      let ef := q + 23 + 127
      if ef < 1 then fp32F.signBit n
      else if ef > 254 then fp32F.signBit n + fp32F.maxCode
      else fp32F.signBit n + ef.toNat * 2 ^ 23 + (i - 2 ^ 23)

/-- The accumulator update of R104 on an FP32 code. -/
def accUpdate (acc : W32) (r : Num) : W32 := BitVec.ofNat 32 (truncFp32 ((ofFp32 acc).add r))

/-- The INT32 accumulator update of R106: exact, else the nearer bound, where the entry then stays. -/
def accInt (acc : W32) (sat : Bool) (s : Int) : W32 × Bool :=
  if sat then (acc, true)
  else
    let t := acc.toInt + s
    let (c, o) := clampInt (-2147483648) 2147483647 t
    (BitVec.ofInt 32 c, o)

/-! ### The store generator (R114) -/

/-- One shift of the Galois register: the bit out and the new state. -/
def lfsrShift (s : W64) : Bool × W64 :=
  let o := s.getLsbD 0
  (o, if o then (s >>> 1) ^^^ 0xD800000000000000 else s >>> 1)

/-- `n` shifts; the bit of shift i is bit i of the draw. -/
def lfsrDraw : Nat → W64 → Nat × W64
  | 0, s => (0, s)
  | n + 1, s =>
    let (o, s1) := lfsrShift s
    let (r, s2) := lfsrDraw n s1
    (flag o + 2 * r, s2)

/-- The generator at a step start (R114): SEED XOR step XOR core × 2^48, with zero replaced by 1. -/
def lfsrSeed (seed : W64) (step : BitVec 48) (core : Nat) : W64 :=
  let s := seed ^^^ step.setWidth 64 ^^^ BitVec.ofNat 64 (core * 2 ^ 48)
  if s = 0 then 1 else s

/-! ### Block scales -/

/-- The largest magnitude of a list of values, NaN if any is NaN. -/
def amaxOf (vs : List Num) : Num := vs.foldl (fun a v => if v.isNan || a.isNan then .nan else a.max v.abs) (.fin false 0 0)

/-- The E8M0 code of R112 from a magnitude and the format's emax. An infinite magnitude gives the upper limit. -/
def mxScaleCode (amax : Num) (emax : Nat) : Nat :=
  match amax with
  | .nan => 255
  | .inf _ => 254
  | .fin _ m e => if m = 0 then 0 else (min (max (log2Of m e - emax + 127) 0) 254).toNat

/-- The value's exponent shift of an E8M0 code (R90). -/
def e8m0Exp (c : Nat) : Int := (c : Int) - 127

/-- The smallest BF16 code not below a positive magnitude divided by a whole number (R132). -/
def bf16Above (a : Num) (qmax : Nat) : Nat :=
  match a with
  | .nan => bf16F.nanCode
  | .inf _ => bf16F.maxCode + 1
  | .fin _ m e =>
    if m = 0 then 0x3F80
    else
      -- a ÷ qmax on a grid fine enough that the remainder only says "not exact"
      let n := m * 2 ^ 32
      let i := n / qmax
      let exact := n % qmax == 0
      let e := e - 32
      let q := log2Of i e - 7
      let d := 2 ^ (q - e).toNat
      let c := i / d + (if i % d == 0 && exact then 0 else 1)
      let (c, q) := if c = 256 then (128, q + 1) else (c, q)
      let ef := q + 7 + 127
      if ef < 1 then 0x0080 else if ef > 254 then bf16F.maxCode + 1 else ef.toNat * 128 + (c - 128)

/-- The scale code of R152: the power of two 2^ceil(log2(amax ÷ 2^64)), limited to 2^−126 to 2^127. -/
def bf16GroupScale (amax : Num) : Nat :=
  match amax with
  | .nan => bf16F.nanCode
  | .inf _ => 254 * 128
  | .fin _ m e =>
    if m = 0 then 0x3F80
    else
      let up : Int := if 2 ^ Nat.log2 m = m then 0 else 1
      let k := min (max (log2Of m e + up - 64) (-126)) 127
      (k + 127).toNat * 128

end Sys2Proof.Machine
end

