-- ==== Sys2Proof/Machine/Func.lean ====
section
/-! DEFINITION. The function operations of the vector engine and the gate pipeline (R172, R176, R536 of 05_core.md).
The spec bounds their error and leaves the result open inside the bound: the device's result is a free value there, and
the reference it is held against is computed in fixed point with 320 fraction bits (log 13). -/

namespace Sys2Proof.Machine

/-- 1 in fixed point. -/
def fxOne : Int := 2 ^ 320

/-- ln 2 in fixed point. -/
def fxLn2 : Int := 1480553391661173448385607439722553250922680800745876974795605978609098082859138712941075737848984

/-- A finite value in fixed point, floored. -/
def toFx (neg : Bool) (m : Nat) (e : Int) : Int :=
  let q := e + 320
  let v : Int := if 0 ≤ q then ((m * 2 ^ q.toNat : Nat) : Int) else ((m / 2 ^ (-q).toNat : Nat) : Int)
  if neg then -v else v

/-- A fixed-point number times 2^k as a value. -/
def ofFx (v : Int) (k : Int) : Num := .fin (decide (v < 0)) v.natAbs (k - 320)

/-- The Taylor sum of e^r by Horner's rule, `k` terms. -/
def expTerms : Nat → Int → Int → Int
  | 0, _, acc => acc
  | k + 1, r, acc => expTerms k r (fxOne + r * acc / (fxOne * ((k : Int) + 1)))

/-- e^x of a fixed-point x, as a fixed-point number and a power of two. -/
def expFx (x : Int) : Int × Int :=
  let k := (x + fxLn2 / 2) / fxLn2
  (expTerms 70 (x - k * fxLn2) fxOne, k)

/-- The sum y + y³/3 + y⁵/5 + … by Horner's rule in y². -/
def atanhTerms : Nat → Int → Int → Int
  | 0, _, acc => acc
  | k + 1, y2, acc => atanhTerms k y2 (fxOne / (2 * (k : Int) + 1) + y2 * acc / fxOne)

/-- ln of a positive m × 2^e in fixed point. -/
def lnFx (m : Nat) (e : Int) : Int :=
  let n := Nat.log2 m
  let z : Int := ((m * 2 ^ 320 / 2 ^ n : Nat) : Int)
  let (z, n) := if 2 * z > 3 * fxOne then (z / 2, n + 1) else (z, n)
  let y := (z - fxOne) * fxOne / (z + fxOne)
  2 * (y * atanhTerms 75 (y * y / fxOne) 0 / fxOne) + (n + e) * fxLn2

/-- Newton's iteration for the integer square root from above. -/
def sqrtIter : Nat → Nat → Nat → Nat
  | 0, _, g => g
  | k + 1, n, g => if g = 0 then 0 else let h := (g + n / g) / 2; if h < g then sqrtIter k n h else g

/-- The integer square root. -/
def isqrt (n : Nat) : Nat := sqrtIter 700 n (2 ^ (Nat.log2 n / 2 + 1))

/-- 1 ÷ (1 + e^−x) as a value, from a fixed-point x in a range where e^x is finite. -/
def sigmoidRef (x : Int) : Num :=
  let (v, k) := expFx x
  -- e^x ÷ (1 + e^x) with both sides scaled by 2^−k when k > 0
  if 0 ≤ k then
    let one := fxOne / 2 ^ k.toNat
    ofFx (v * fxOne / (v + one)) 0
  else
    let d := fxOne + v / 2 ^ (-k).toNat
    ofFx (v * fxOne / d) k

/-- The functions with an error bound. -/
inductive Fn where
  | exp | exp2 | softplus | sigmoid | tanh | silu | recip | rsqrt | ln | log2
  deriving DecidableEq, Repr

/-- The number under which a function's free value is drawn. -/
def Fn.code : Fn → Nat
  | .exp => 0 | .exp2 => 1 | .softplus => 2 | .sigmoid => 3 | .tanh => 4
  | .silu => 5 | .recip => 6 | .rsqrt => 7 | .ln => 8 | .log2 => 9

/-- The function at ±infinity and ±0 (R536) and at the operands for which R176 or R110 names the result. -/
def Fn.special (f : Fn) (a : Num) : Option Num :=
  match a with
  | .nan => some .nan
  | .inf n =>
    some (match f with
    | .exp | .exp2 | .softplus => if n then .fin false 0 0 else .inf false
    | .sigmoid => if n then .fin false 0 0 else .fin false 1 0
    | .tanh => .fin n 1 0
    | .silu => if n then .fin true 0 0 else .inf false
    | .recip => .fin n 0 0
    | .rsqrt => if n then .nan else .fin false 0 0
    | .ln | .log2 => if n then .nan else .inf false)
  | .fin n m _ =>
    if m = 0 then
      match f with
      | .exp | .exp2 => some (.fin false 1 0)
      | .softplus => some (ofFp32 (BitVec.ofNat 32 (toFp32 true (ofFx fxLn2 0)).code))
      | .sigmoid => some (.fin false 1 (-1))
      | .tanh | .silu => some (.fin n 0 0)
      | .recip | .rsqrt => some (.inf n)
      | .ln | .log2 => some (.inf true)
    else
      match f with
      | .rsqrt | .ln | .log2 => if n then some .nan else none
      | _ => none

/-- The exact function value to some 100 bits, for a finite non-zero operand that is not special. Far outside the
range of FP32 a value beyond it stands for the result. -/
def Fn.ref (f : Fn) (n : Bool) (m : Nat) (e : Int) : Num :=
  let big := log2Of m e ≥ 9
  let x := toFx n m e
  match f with
  | .exp => if big then (if n then .fin false 1 (-400) else .fin false 1 400) else let (v, k) := expFx x; ofFx v k
  | .exp2 => if big then (if n then .fin false 1 (-600) else .fin false 1 600)
             else let (v, k) := expFx (x * fxLn2 / fxOne); ofFx v k
  | .softplus =>
    if big then (if n then .fin false 1 (-400) else .fin n m e)
    else
      let (v, k) := expFx x
      let y := if 0 ≤ k then v * 2 ^ k.toNat else v / 2 ^ (-k).toNat
      ofFx (lnFx (fxOne + y).toNat (-320)) 0
  | .sigmoid => if big then (if n then .fin false 1 (-400) else .fin false 1 0) else sigmoidRef x
  | .tanh =>
    if big then .fin n 1 0
    else if log2Of m e < -60 then .fin n m e
    else
      let (v, k) := expFx (2 * (toFx false m e))
      let y := v * 2 ^ k.toNat
      ofFx ((if n then -1 else 1) * ((y - fxOne) * fxOne / (y + fxOne))) 0
  | .silu => if big then (if n then .fin true 1 (-400) else .fin n m e) else (sigmoidRef x).mul (.fin n m e)
  | .recip => .fin n (2 ^ 400 / m) (-400 - e)
  | .rsqrt =>
    let (m, e) := if e % 2 = 0 then (m, e) else (2 * m, e - 1)
    .fin false (isqrt (2 ^ 600 / m)) (-300 - e / 2)
  | .ln => ofFx (lnFx m e) 0
  | .log2 => ofFx (lnFx m e * fxOne / fxLn2) 0

/-- The bound of a function in units in the last place: in the gate pipeline (R176), in the vector engine (R172). -/
def Fn.ulps (f : Fn) (gate : Bool) : Nat :=
  match f with
  | .silu => 3
  | .recip | .rsqrt => if gate then 1 else 2
  | _ => 2

/-- A candidate FP32 value lies within `k` units in the last place of the reference. -/
def withinUlps (cand ref : Num) (k : Nat) : Bool :=
  match cand, ref with
  | .fin a m e, .fin b n g =>
    if m = 0 || n = 0 || a != b then false
    else
      let u := log2Of n g - 23
      let q := min (min e g) u
      decide ((scaled false m e q - scaled false n g q).natAbs ≤ k * 2 ^ (u - q).toNat)
  | _, _ => false

/-- A function's result (R172, R176, R536): the named result at a special operand, else the device's free result where
it lies within the error bound, else the reference rounded to nearest even (log 13). Overflow follows R115. -/
def fnEval (f : Fn) (gate ovf : Bool) (a : W32) : Rounded :=
  match ofFp32 a with
  | .fin n m e =>
    match f.special (.fin n m e) with
    | some v => toFp32 ovf v
    | none =>
      let r := f.ref n m e
      let c := toFp32 ovf r
      if c.excess || c.code % 2 ^ 31 = 0 then c
      else
        let free := Config.fnResult (f.code + if gate then 0 else 16) a
        if withinUlps (ofFp32 free) r (f.ulps gate) then ⟨free.toNat, false, false⟩ else c
  | v => toFp32 ovf ((f.special v).getD .nan)

end Sys2Proof.Machine
end

