-- ==== Sys2Proof/Machine/Elem.lean ====
section
/-! DEFINITION. Tensor descriptors, the elements they name and conversion on load and store
(R95, R111 to R115, R123 to R135, R152, R201). Memory is read through a function from address and length to bytes. -/

namespace Sys2Proof.Machine

/-- A tensor descriptor (R201); `row0` is the row index a DMOV adds (R211). -/
structure Desc where
  addr : Nat
  fmt : Nat
  loadAs : Nat
  group : Nat
  zp : Bool
  side : Bool
  dim0 : Nat
  dim1 : Nat
  dim2 : Nat
  stride1 : Nat
  stride2 : Nat
  scaleAddr : Nat
  zpAddr : Nat
  sideAddr : Nat
  row0 : Nat
  deriving DecidableEq, Repr

/-- A reader of memory: address, length. -/
abbrev Reader := Nat → Nat → Bytes

/-- An MX format code. -/
def isMx (f : Nat) : Bool := 0x05 ≤ f && f ≤ 0x09
/-- An integer format code narrower than 32 bits. -/
def isNarrowInt (f : Nat) : Bool := 0x0A ≤ f && f ≤ 0x0D
/-- UINT8 or UINT4. -/
def isUint (f : Nat) : Bool := f == 0x0C || f == 0x0D

/-- The descriptor 64 bytes spell, none where R201 reserves something in it (R224). -/
def Desc.parse (b : Bytes) : Option Desc :=
  let fmt := le b 0x08 1
  let la := le b 0x09 1
  let g := le b 0x0A 1
  let fl := le b 0x0B 1
  let ok := fmt ≤ 0x0F && (la ≤ 0x0F || la == 0xFF) && g ≤ 3 && fl ≤ 3 && le b 0x14 4 ≥ 1 && le b 0x38 8 == 0
    && (g == 0 || isNarrowInt fmt || fmt == 0x0F) && (!isUint fmt || fl % 2 == 1)
  if ok then some
    { addr := le b 0 8, fmt := fmt, loadAs := la, group := if g = 0 then 0 else 16 * 2 ^ g, zp := bit fl 0, side := bit fl 1,
      dim0 := le b 0x0C 4, dim1 := le b 0x10 4, dim2 := le b 0x14 4, stride1 := le b 0x18 4, stride2 := le b 0x1C 4,
      scaleAddr := le b 0x20 8, zpAddr := le b 0x28 8, sideAddr := le b 0x30 8, row0 := 0 }
  else none

/-- The floating-point element format of a format code; MX codes give their element format. -/
def ffmtOf (f : Nat) : Option FFmt :=
  match f with
  | 0x00 => some fp32F
  | 0x01 | 0x0F => some bf16F
  | 0x02 => some fp16F
  | 0x03 | 0x05 => some e4m3F
  | 0x04 | 0x06 => some e5m2F
  | 0x07 => some e3m2F
  | 0x08 => some e2m3F
  | 0x09 => some e2m1F
  | _ => none

/-- Bits of an element in memory (R95). -/
def widthOf (f : Nat) : Nat :=
  match ffmtOf f with
  | some g => g.width
  | none => if f = 0x0A || f = 0x0C then 8 else if f = 0x0E then 32 else 4

/-- emax of R112. -/
def emaxOf (f : Nat) : Nat :=
  match f with
  | 0x05 => 8
  | 0x06 => 15
  | 0x07 => 4
  | _ => 2

/-- Elements per scale: 32 for MX, G for groups, the whole row otherwise. -/
def Desc.block (d : Desc) : Nat := if isMx d.fmt then 32 else if d.group = 0 then max d.dim0 1 else d.group

/-- Blocks or groups in a row (R125, R201). -/
def Desc.rowBlocks (d : Desc) : Nat := ceilDiv d.dim0 d.block

/-- The address of the first byte of a row of a plane. -/
def Desc.rowAddr (d : Desc) (i1 i2 : Nat) : Nat := d.addr + (d.row0 + i1) * d.stride1 + i2 * d.stride2

/-- The index of a row in the scale, zero-point and side-list arrays: rows of all planes in order. -/
def Desc.rowNo (d : Desc) (i1 i2 : Nat) : Nat := d.row0 + i1 + d.dim1 * i2

/-- The index of a block in its array. -/
def Desc.blockNo (d : Desc) (i0 i1 i2 : Nat) : Nat := d.rowNo i1 i2 * d.rowBlocks + i0 / d.block

/-- The code of an element (R95): `w` bits at bit i0 × w of its row. -/
def Desc.code (d : Desc) (rd : Reader) (i0 i1 i2 : Nat) : Nat :=
  let w := widthOf d.fmt
  let p := i0 * w
  bits (bytesToNat (rd (d.rowAddr i1 i2 + p / 8) ((p % 8 + w + 7) / 8))) (p % 8) w

/-- The escape code of a format (R127); none where escapes are not supported. -/
def escapeCode (d : Desc) : Option Nat :=
  if isMx d.fmt then (ffmtOf d.fmt).map (fun f => f.signBit true)
  else if d.fmt = 0x0A && d.group ≠ 0 then some 0x80
  else if d.fmt = 0x0B && d.group ≠ 0 then some 0x8
  else none

/-- Capacity of a side-list slot (R127). -/
def Desc.slotCap (d : Desc) : Nat := if isMx d.fmt then 2 else if d.group = 64 then 3 else if d.group = 128 then 4 else 2

/-- The code is an escape, with escapes enabled. -/
def Desc.isEsc (d : Desc) (esc : Bool) (c : Nat) : Bool := esc && escapeCode d == some c

/-- The zero point of an element (R94, R125). -/
def Desc.zeroPoint (d : Desc) (rd : Reader) (i0 i1 i2 : Nat) : Nat :=
  let k := d.blockNo i0 i1 i2
  if d.fmt = 0x0C then bytesToNat (rd (d.zpAddr + k) 1)
  else if d.fmt = 0x0D then bits (bytesToNat (rd (d.zpAddr + k / 2) 1)) (4 * (k % 2)) 4
  else 0

/-- The element's own value, scales not applied; an escape contributes zero (R93, R98 to R101). -/
def Desc.raw (d : Desc) (rd : Reader) (esc : Bool) (i0 i1 i2 : Nat) : Num :=
  let c := d.code rd i0 i1 i2
  if d.isEsc esc c then .fin false 0 0
  else match ffmtOf d.fmt with
    | some f => f.decode c
    | none =>
      if isUint d.fmt then .ofInt ((c : Int) - d.zeroPoint rd i0 i1 i2)
      else .ofInt (signedOf (widthOf d.fmt) c)

/-- The E8M0 code of an element's block (R90, R125); 127 where the format has none. -/
def Desc.e8m0 (d : Desc) (rd : Reader) (i0 i1 i2 : Nat) : Nat :=
  if isMx d.fmt then bytesToNat (rd (d.scaleAddr + d.blockNo i0 i1 i2) 1) else 127

/-- The group scale of an element (R125): its BF16 value, one where there is none. -/
def Desc.groupScale (d : Desc) (rd : Reader) (i0 i1 i2 : Nat) : Num :=
  if d.group = 0 then .fin false 1 0 else bf16F.decode (bytesToNat (rd (d.scaleAddr + 2 * d.blockNo i0 i1 i2) 2))

/-- Apply the scale of a block or group; a scale of zero or NaN gives that value (R90, R125). -/
def Desc.scaleNum (d : Desc) (rd : Reader) (i0 i1 i2 : Nat) (v : Num) : Num :=
  if isMx d.fmt then
    let c := d.e8m0 rd i0 i1 i2
    if c = 255 then .nan else v.scale2 (e8m0Exp c)
  else if d.group = 0 then v
  else
    let g := d.groupScale rd i0 i1 i2
    if g.isZero then .fin false 0 0 else v.mul g

/-- The element lies in a block whose scale is NaN: it is NaN whatever its code (R90). -/
def Desc.nanBlock (d : Desc) (rd : Reader) (i0 i1 i2 : Nat) : Bool := isMx d.fmt && d.e8m0 rd i0 i1 i2 == 255

/-- How many escapes of the element's block precede it in element order. -/
def Desc.escBefore (d : Desc) (rd : Reader) (i0 i1 i2 : Nat) : Nat :=
  let b0 := i0 / d.block * d.block
  ((List.range (i0 - b0)).filter (fun k => d.isEsc true (d.code rd (b0 + k) i1 i2))).length

/-- The side value of an escaped element (R128). -/
def Desc.sideValue (d : Desc) (rd : Reader) (i0 i1 i2 : Nat) : Num :=
  bf16F.decode (bytesToNat (rd (d.sideAddr + 2 * (d.slotCap * d.blockNo i0 i1 i2 + d.escBefore rd i0 i1 i2)) 2))

/-- The whole value of an element: its scale applied, an escaped element's value from the side list (R128), NaN in a NaN
block (R90). -/
def Desc.value (d : Desc) (rd : Reader) (esc : Bool) (i0 i1 i2 : Nat) : Num :=
  if d.nanBlock rd i0 i1 i2 then .nan
  else if d.isEsc (esc && d.side) (d.code rd i0 i1 i2) then d.sideValue rd i0 i1 i2
  else d.scaleNum rd i0 i1 i2 (d.raw rd false i0 i1 i2)

/-- No block of a row from element `lo` to `hi − 1` holds more escapes than its slot (R129). -/
def Desc.escapesFit (d : Desc) (rd : Reader) (esc : Bool) (lo hi i1 i2 : Nat) : Bool :=
  if !esc || (escapeCode d).isNone || hi ≤ lo then true
  else
    let b0 := lo / d.block
    (List.range (ceilDiv hi d.block - b0)).all (fun k =>
      let s := (b0 + k) * d.block
      ((List.range (min d.block (d.dim0 - s))).filter (fun j => d.isEsc true (d.code rd (s + j) i1 i2))).length ≤ d.slotCap)

/-- The bytes read from listed runs; zero where no run holds all that is asked. -/
def runsReader : List (Nat × Bytes) → Reader
  | [], _, n => zeros n
  | (b, bs) :: r, a, n => if b ≤ a && a + n ≤ b + bs.length then slice bs (a - b) n else runsReader r a n

/-- The position of linear element `i`: innermost first. -/
def Desc.split (d : Desc) (i : Nat) : Nat × Nat × Nat :=
  let a := max d.dim0 1
  let b := max d.dim1 1
  (i % a, i / a % b, i / a / b)

/-- The number of elements. -/
def Desc.count (d : Desc) : Nat := d.dim0 * d.dim1 * d.dim2

/-- No block that linear elements `lo` to `lo + n − 1` touch, in any of their rows, holds more escapes than its slot (R129). -/
def Desc.spanFits (d : Desc) (rd : Reader) (esc : Bool) (lo n : Nat) : Bool :=
  let a := max d.dim0 1
  let b := max d.dim1 1
  !esc || n == 0 || (List.range ((lo + n - 1) / a + 1 - lo / a)).all (fun k =>
    let r := lo / a + k
    d.escapesFit rd esc (max lo (r * a) - r * a) (min (min (lo + n) (r * a + a) - r * a) d.dim0) (r % b) (r / b))

/-! ### Stores -/

/-- A field of `width` bits to be written at bit `lo` of the byte at `addr`. -/
structure FieldWrite where
  addr : Nat
  lo : Nat
  width : Nat
  code : Nat
  deriving DecidableEq, Repr

/-- The modes of a converting operation (R111). -/
structure Modes where
  ovf : Bool
  rnd : Bool
  esc : Bool
  deriving DecidableEq, Repr

/-- What a converting store has done so far: the writes in order, the generator, the counts of R115, whether a NaN
passed (R116), the photometer's view (R134, R135). -/
structure StoreAcc where
  writes : List FieldWrite
  gen : W64
  fsat : Nat
  isat : Nat
  nan : Bool
  amax : Num
  excess : Nat
  deriving DecidableEq, Repr

/-- The empty accumulator with a generator state. -/
def StoreAcc.start (gen : W64) : StoreAcc := ⟨[], gen, 0, 0, false, .fin false 0 0, 0⟩

/-- Note the value presented at the store port: NaN for the latch, magnitude for the photometer (R116, R134). -/
def StoreAcc.see (a : StoreAcc) (v : Num) : StoreAcc :=
  if v.isNan then { a with nan := true } else { a with amax := a.amax.max v.abs }

/-- Stochastic rounding applies to a destination format (R113). -/
def stochastic (f : Nat) : Bool := f == 0x01 || f == 0x02 || f == 0x03 || f == 0x04 || f == 0x05 || f == 0x06 || f == 0x0F

/-- The modes of a store whose source is INT32: into BF16 and FP16 it rounds to nearest even whatever RND says, so it takes
no draw (R111; DEDUCED, log 28). -/
def Modes.fromInt (m : Modes) (int32 : Bool) (dst : Nat) : Modes :=
  { m with rnd := m.rnd && !(int32 && (dst == 0x01 || dst == 0x02 || dst == 0x0F)) }

/-- The draw of one element, if the store takes one (R114). -/
def StoreAcc.draw (a : StoreAcc) (m : Modes) (f : Nat) : Option Nat × StoreAcc :=
  if m.rnd && stochastic f then
    let (r, g) := lfsrDraw 16 a.gen
    (some r, { a with gen := g })
  else (none, a)

/-- Write an element's code. -/
def StoreAcc.put (a : StoreAcc) (d : Desc) (i c : Nat) : StoreAcc :=
  let (i0, i1, i2) := d.split i
  let w := widthOf d.fmt
  let p := i0 * w
  { a with writes := ⟨d.rowAddr i1 i2 + p / 8, p % 8, w, c⟩ :: a.writes }

/-- Count an element beyond the destination's range (R115, R135). -/
def StoreAcc.tally (a : StoreAcc) (float ovf excess : Bool) : StoreAcc :=
  if !excess then a
  else if float then { a with excess := a.excess + 1, fsat := a.fsat + if ovf then 0 else 1 }
  else { a with excess := a.excess + 1, isat := a.isat + 1 }

/-- A floating-point element without block scale. A NaN that the conversion itself makes passes the site too (R115, R116). -/
def StoreAcc.float (a : StoreAcc) (d : Desc) (f : FFmt) (m : Modes) (i : Nat) (v : Num) : StoreAcc :=
  let (dr, a) := a.draw m d.fmt
  let r := f.round m.ovf dr v
  let a := (a.tally true m.ovf r.excess).put d i r.code
  { a with nan := a.nan || (f.decode r.code).isNan }

/-- The elements of a block that become escapes under R131 step 2 and R132: those whose rounded magnitude exceeds the
range, largest first, lower index first, at most `cap`. -/
def pickEscapes (cap : Nat) (beyond : List (Nat × Num)) : List Nat :=
  let rec go : Nat → List (Nat × Num) → List Nat
    | 0, _ => []
    | _, [] => []
    | n + 1, x :: xs =>
      let best := xs.foldl (fun b y => if b.2.abs.lt y.2.abs then y else b) x
      best.1 :: go n ((x :: xs).filter (fun y => y.1 != best.1))
  go cap beyond

/-- The k-th largest magnitude of a list (k from 1), 0 where fewer than k are not zero (R131). -/
def kthAmax (k : Nat) (vs : List Num) : Num :=
  let rec go : Nat → List Num → Num
    | 0, _ => .fin false 0 0
    | n + 1, l =>
      let top := l.foldl (fun b y => b.max y.abs) (.fin false 0 0)
      if n = 0 then top
      else match indexOf? (fun y => y.abs.eqv top) l with
        | none => .fin false 0 0
        | some j => go n (l.take j ++ l.drop (j + 1))
  go k (vs.filter (fun v => !v.isZero))

/-- Write the side-list slot of a block: the values of its escapes in element order, rounded to BF16, +0 in the rest
(R128). -/
def StoreAcc.slot (a : StoreAcc) (d : Desc) (i : Nat) (vals : List Num) : StoreAcc :=
  let (i0, i1, i2) := d.split i
  let base := d.sideAddr + 2 * d.slotCap * d.blockNo i0 i1 i2
  (List.range d.slotCap).foldl (fun a k =>
    let c := match vals[k]? with
      | some v => (bf16F.round true none v).code
      | none => 0
    { a with writes := ⟨base + 2 * k, 0, 16, c⟩ :: a.writes }) a

/-- The code of an element of a NaN block: the canonical NaN where the format has one (R92); elsewhere no rule states it and
it is free (log 3), but never the escape code of a destination with escapes enabled (R100, R131). -/
def nanElem (f : FFmt) (esc : Bool) (free k : Nat) : Nat :=
  if f.ieee || f.nanTop then f.nanCode
  else
    let c := bits (Config.freeNat free) (8 * k) f.width
    if esc && c == f.signBit true then 0 else c

/-- One MX block (R112, R131): `vs` are the values from linear element `i` on; `free` supplies the codes of a NaN block's
elements where no rule states them. -/
def StoreAcc.mxBlock (a : StoreAcc) (d : Desc) (f : FFmt) (m : Modes) (free : Nat) (i : Nat) (vs : List Num) : StoreAcc :=
  let (i0, i1, i2) := d.split i
  let esc := m.esc && d.side
  let top := if vs.any Num.isNan then Num.nan else if esc then kthAmax 3 vs else amaxOf vs
  let sc := mxScaleCode top (emaxOf d.fmt)
  let a := { a with writes := ⟨d.scaleAddr + d.blockNo i0 i1 i2, 0, 8, sc⟩ :: a.writes }
  -- draws come first, in element order
  let step := fun (p : StoreAcc × List Rounded) (v : Num) =>
    let (dr, a) := p.1.draw m d.fmt
    (a, p.2 ++ [f.round false dr (v.scale2 (-(e8m0Exp sc)))])
  let (a, rs) := vs.foldl step (a, [])
  if sc = 255 then
    let a := (List.range vs.length).foldl (fun a k => a.put d (i + k) (nanElem f esc free k)) a
    if esc then a.slot d i [] else a
  else
    let beyond := (List.range vs.length).filterMap (fun k =>
      match rs[k]?, vs[k]? with
      | some r, some v => if r.excess || (esc && top.isZero && !v.isZero) then some (k, v) else none
      | _, _ => none)
    let picked := if esc then pickEscapes 2 beyond else []
    let a := (List.range vs.length).foldl (fun a k =>
      match rs[k]? with
      | none => a
      | some r =>
        if picked.contains k then a.put d (i + k) (f.signBit true)
        else
          let c := if esc && r.code == f.signBit true then 0 else r.code
          (a.tally true m.ovf r.excess).put d (i + k) c) a
    if esc then
      a.slot d i ((List.range vs.length).filterMap (fun k => if picked.contains k then vs[k]? else none))
    else a

/-- One group of INT8 or INT4 elements with scales derived on store (R132), or without a scale where GROUP is 0. -/
def StoreAcc.intGroup (a : StoreAcc) (d : Desc) (m : Modes) (i : Nat) (vs : List Num) : StoreAcc :=
  let (i0, i1, i2) := d.split i
  let w := widthOf d.fmt
  let qmax : Nat := 2 ^ (w - 1) - 1
  let clean := vs.map (fun v => if v.isNan then Num.fin false 0 0 else v)
  let esc := m.esc && d.side && d.group ≠ 0
  let top := if esc then kthAmax (d.slotCap + 1) clean else amaxOf clean
  let sc := if d.group = 0 then 0x3F80 else bf16Above top qmax
  let a := if d.group = 0 then a else { a with writes := ⟨d.scaleAddr + 2 * d.blockNo i0 i1 i2, 0, 16, sc⟩ :: a.writes }
  -- the quotient rounded to nearest even, by exact comparison on a fine grid
  let quot := fun (v : Num) =>
    match v, bf16F.decode sc with
    | .fin n mm e, .fin _ sm se => if sm = 0 then Num.fin n 0 0
        else .fin n (mm * 2 ^ 200 / sm * 2 + (if mm * 2 ^ 200 % sm = 0 then 0 else 1)) (e - se - 201)
    | .inf n, .fin _ _ _ => .inf n
    | .inf n, _ => .inf n
    | _, _ => .fin false 0 0
  let rs := clean.map (fun v => toIntRange (-(qmax : Int)) qmax (quot v))
  let beyond := (List.range vs.length).filterMap (fun k =>
    match rs[k]?, clean[k]? with
    | some r, some v => if r.2 then some (k, v) else none
    | _, _ => none)
  let picked := if esc then pickEscapes d.slotCap beyond else []
  let a := (List.range vs.length).foldl (fun a k =>
    match rs[k]? with
    | none => a
    | some r =>
      if picked.contains k then a.put d (i + k) (2 ^ (w - 1))
      else (a.tally false m.ovf r.2).put d (i + k) (intCode w r.1)) a
  if esc then
    a.slot d i ((List.range vs.length).filterMap (fun k => if picked.contains k then clean[k]? else none))
  else a

/-- A UINT8 or UINT4 element: scale and zero point come from the descriptor's arrays (R132). Either bound counts as
saturated (R115), the photometer counts only what exceeds the largest value (R135). -/
def StoreAcc.uint (a : StoreAcc) (d : Desc) (rd : Reader) (m : Modes) (i : Nat) (v : Num) : StoreAcc :=
  let (i0, i1, i2) := d.split i
  let top : Nat := 2 ^ widthOf d.fmt - 1
  let q := match v, d.groupScale rd i0 i1 i2 with
    | .fin n mm e, .fin _ sm se => if sm = 0 then Num.inf n
        else .fin n (mm * 2 ^ 200 / sm * 2 + (if mm * 2 ^ 200 % sm = 0 then 0 else 1)) (e - se - 201)
    | w, _ => w
  let z : Int := d.zeroPoint rd i0 i1 i2
  let (c, o) := match q with
    | .nan => ((0 : Int), false)
    | .inf n => (if n then 0 else (top : Int), true)
    | .fin _ _ _ => clampInt 0 top (roundInt q + z)
  let a := if o && c == 0 then { a with isat := a.isat + 1 } else a.tally false m.ovf o
  a.put d i c.toNat

/-- One group of BF16 optimiser state (R152). -/
def StoreAcc.bf16Group (a : StoreAcc) (d : Desc) (m : Modes) (i : Nat) (vs : List Num) : StoreAcc :=
  let (i0, i1, i2) := d.split i
  let sc := if d.group = 0 then 0x3F80 else bf16GroupScale (amaxOf vs)
  let a := if d.group = 0 then a else { a with writes := ⟨d.scaleAddr + 2 * d.blockNo i0 i1 i2, 0, 16, sc⟩ :: a.writes }
  let k : Int := (sc / 128 : Nat) - 127
  (List.range vs.length).foldl (fun a j =>
    match vs[j]? with
    | some v => a.float d bf16F m (i + j) (if sc = bf16F.nanCode then .nan else v.scale2 (-k))
    | none => a) a

/-- Store values as consecutive elements from linear element `i`, block by block (R111). The whole list is walked in
ascending element order; `fuel` bounds the number of blocks. -/
def StoreAcc.blocks : Nat → StoreAcc → Desc → Reader → Modes → Nat → Nat → List Num → StoreAcc
  | 0, a, _, _, _, _, _, _ => a
  | fuel + 1, a, d, rd, m, free, i, vs =>
    match vs with
    | [] => a
    | _ =>
      let (i0, _, _) := d.split i
      let room := min (d.block - i0 % d.block) (max d.dim0 1 - i0)
      let now := vs.take room
      let a := match ffmtOf d.fmt with
        | some f =>
          if isMx d.fmt then a.mxBlock d f m free i now
          else if d.fmt = 0x0F then a.bf16Group d m i now
          else (List.range now.length).foldl (fun a j => match now[j]? with
            | some v => a.float d f m (i + j) v
            | none => a) a
        | none =>
          if isUint d.fmt then (List.range now.length).foldl (fun a j => match now[j]? with
            | some v => a.uint d rd m (i + j) v
            | none => a) a
          else if d.fmt = 0x0E then (List.range now.length).foldl (fun a j => match now[j]? with
            | some v =>
              let (c, o) := toIntRange (-2147483648) 2147483647 v
              a.put d (i + j) (if o then bits (Config.freeNat free) 0 32 else intCode 32 c)
            | none => a) a
          else a.intGroup d m i now
      StoreAcc.blocks fuel a d rd m free (i + room) (vs.drop room)

/-- A converting store of floating-point or exact integer values (R111). The input flush of R98 has been made; the
values are seen by the NaN detector and the photometer first. -/
def convertStore (d : Desc) (rd : Reader) (m : Modes) (free : Nat) (gen : W64) (i : Nat) (vs : List Num) : StoreAcc :=
  let a := vs.foldl StoreAcc.see (StoreAcc.start gen)
  StoreAcc.blocks vs.length a d rd m free i vs

end Sys2Proof.Machine
end

