-- ==== Sys2Proof/Machine/AudioTypes.lean ====
section
/-! DEFINITION. The state of the serial audio ports, alignment groups and slots (R342 to R378), as plain data. -/

namespace Sys2Proof.Machine

/-- A signal on a channel (R363): silence, generated or programme samples at a gain in 0.01 dB, or the mixture a channel
played when a ramp was replaced (R364). -/
inductive Sig where
  | zero
  | gen (gain : Int)
  | prog (gain : Int)
  | mix (o w : Sig) (num den : Nat)
  deriving DecidableEq, Repr

/-- What a port's BCLK and WS pins are (R344): driven in master mode, inputs on a slave's clock member, else high impedance. -/
inductive PinDrive where
  | driven | input | highZ
  deriving DecidableEq, Repr

/-- The changes of a channel (R363), with the codes of event 0x860A. -/
inductive ChangeKind where
  | start | stop | gain | muteOn | muteOff | engage | release
  deriving DecidableEq, Repr

/-- A pending change (R363, R364): the signals, the wire frames since the request, the ramp's progress, the mailbox whose
response waits. -/
structure Change where
  kind : ChangeKind
  old : Sig
  new : Sig
  waited : Nat
  ramp : Option Nat
  mbx : Option (Fin 64)
  deriving DecidableEq, Repr

/-- A slot of a group (R345, R352, R354, R363 to R367). `prog` says that the slot plays programme, `good` counts passed
checks, `newest` is the newest programme position written, `stream` the stream whose sink it is, `disc` a discontinuity to
mark, `gap` that it has been disabled, `prevGen` and `prevProg` the samples of the last wire frame, where `prevOk` says that the
port ran in it. -/
structure ASlot where
  gain : Int
  mute : Bool
  on : Bool
  mode : Nat
  holdMs : Nat
  prog : Bool
  good : Nat
  change : Option Change
  newest : Option Nat
  stream : Option (Fin 16384)
  disc : Bool
  gap : Bool
  prevGen : W32
  prevProg : W32
  prevOk : Bool
  deriving DecidableEq, Repr

/-- A serial audio port (R372, R373) with the wire frames that its FIFO holds (R356). -/
structure APort where
  ctl : W64
  rate : BitVec 28
  clockLost : Bool
  swap : Bool
  run : Bool
  under : BitVec 16
  overrun : BitVec 16
  startPend : Bool
  stopPend : Option (Option (Fin 64))
  reference : Option (BitVec 28)
  fresh : Bool
  events : Tab (Nat × Nat)
  fifo : Nat
  deriving DecidableEq, Repr

/-- An input data record that is still open (R349): layout, first frame, samples so far, suspect slots. -/
structure OpenRec where
  slots : BitVec 16
  first : Nat
  frames : Nat
  data : Bytes
  suspect : BitVec 16
  deriving DecidableEq, Repr

/-- An alignment group (R344, R374 to R377); `slotNow` is the steering slot in effect since the heliostat's last update (R371). -/
structure AGroup where
  ctl : W64
  shadow : BitVec 16
  active : BitVec 16
  pending : Option (BitVec 16)
  frame : BitVec 48
  clockLost : Bool
  helio : W64
  limit : Bool
  steer : Int
  integ : W32
  levelSum : Int
  levelCnt : Nat
  slotNow : Nat
  place : Nat
  openRec : Option OpenRec
  maskMbx : List (Fin 64)
  slots : Tab ASlot
  cfgSection : Option Bytes
  returned : Bool
  deriving DecidableEq, Repr

end Sys2Proof.Machine
end

