-- ==== Sys2Proof/Machine/CoreTypes.lean ====
section
/-! DEFINITION. The state of a logical core (R154 to R190, R193, R212 of 05_core.md and 06_core_programs.md) and of a
context (R76 to R79 of 02_streams_and_scheduling.md), as plain data. -/

namespace Sys2Proof.Machine

/-- An instruction in an engine queue, or held by the sequencer: its opcode, its word below OPCODE (WCNT is cleared once
its header wait is served), its PC, the scalar registers as they stood when it was issued (log 8), its number in issue
order (R212) and the time it reached the head of its queue (R216). -/
structure QEntry where
  op : Nat
  w : InstrWord
  pc : BitVec 16
  x : Vector W64 16
  no : Nat
  since : W64
  deriving DecidableEq, Repr

/-- One entry of an accumulator file (R160): the FP32 or INT32 code, the exact group partial, the sticky saturation. -/
structure AccEntry where
  val : W32
  part : Int
  sat : Bool
  deriving DecidableEq, Repr

/-- The accumulator file of a logical tile, indexed 64 × row + batch entry, and the Bt of an undrained result left in
it by an instruction with drain disabled (R160, R161, R204). -/
structure Tile where
  acc : Tab AccEntry
  undrained : Option Nat
  deriving DecidableEq, Repr

/-- An entry of the tile queue (R162). `gate` is DEST, `isInt` is KIND, `run` the MMUL that made it (R184). -/
structure TqEntry where
  data : List W32
  tile : Fin 16
  block : Fin 8
  rowBase : BitVec 16
  gate : Bool
  isInt : Bool
  colMask : BitVec 8
  opTag : BitVec 16
  pc : BitVec 16
  run : Nat
  deriving DecidableEq, Repr

/-- A finished accumulator block that has not been written into the tile queue yet (R161), with its count of
saturated entries (R106) and the hub cycle in which it finished (R163). -/
structure FinBlock where
  entry : TqEntry
  sats : Nat
  done : Nat
  deriving DecidableEq, Repr

/-- A matrix instruction whose passes run (R202, R205), with the bytes of its weight and activation descriptors. `pass`
counts the passes that have ended, `start` is the hub cycle in which the present one began, stalls taken out. The two weight
register banks of its tiles (R158) hold bytes under the addresses they were loaded from: bank 1 is in use where `bank` is set. -/
structure MmulRun where
  q : QEntry
  wd : Bytes
  ad : Bytes
  pass : Nat
  start : Nat
  bank : Bool
  bank0 : List (Nat × Bytes)
  bank1 : List (Nat × Bytes)
  deriving DecidableEq, Repr

/-- A gate instruction that runs (R209): its queue entry, the bytes of its descriptor, the entries still to read and
the parameter records it holds (R177), each with its address, and since when it waits for its next entry (R166). -/
structure GateRun where
  q : QEntry
  desc : Bytes
  left : Nat
  records : Tab Bytes
  since : W64
  deriving DecidableEq, Repr

/-- How far a DMA transfer has come: a local one, an outbound one waiting for acknowledgement of its messages, a
remote source whose data have or have not all arrived; a remote destination whose scales and zero points are being read
(`asking`) first, or have come (`asked`), because its conversion takes them (R132). -/
inductive DmaPhase where
  | localMove
  | sending (left : Nat)
  | reading (got : Bytes) (want : Nat)
  | ready (got : Bytes)
  | asking (got : Bytes) (want : Nat)
  | asked (got : Bytes)
  deriving DecidableEq, Repr

/-- A transfer in flight (R182) in one of the 16 slots, with the bytes of its descriptors (source, destination, flag word),
its number among the transfers of its DMA unit (R31) and the time of its issue (R216). -/
structure DmaXfer where
  slot : Fin 16
  no : Nat
  q : QEntry
  desc : Bytes
  phase : DmaPhase
  issued : W64
  deriving DecidableEq, Repr

/-- What the sequencer does (R199, R213, R217 to R219): nothing; issuing; stalled on the header wait of a
sequencer-class instruction; at an issue barrier; ended under R218; halted by a fault or a NaN trap. -/
inductive SeqState where
  | idle | running
  | waitHdr (e : QEntry)
  | barrier (e : QEntry)
  | ended | halted
  deriving DecidableEq, Repr

/-- The clock state of a physical core (R35, R37, R42, R43): `stretchFrom` is the hub cycle from which STRETCH_CNT counts, `limLimit` is the limiter's limit on its clock in MHz (R516),
`thermHalf` that of thermal protection in half MHz (R519), `slowdown` the last ageing sample (R483). -/
structure Island where
  stretchFrom : W64
  retirePending : Bool
  floorHeld : Bool
  effectiveMhz : Nat
  targetMhz : Nat
  settling : Option Nat
  limLimit : Option Nat
  thermHalf : Option Nat
  slowdown : Nat
  deriving DecidableEq, Repr

/-- An island after a cold reset (R43). -/
def Island.cold : Island := ⟨0, false, false, 800, 800, none, none, none, 0⟩

/-- One logical core, with the clock state of the island that serves it. `trapDue` is the instruction whose NaN traps and its
identity (R118), `noPark` the waiting instruction that cannot be parked (R221), `dmaSeq` numbers the unit's transfers (R31),
`fedV` and `fedG` say when the matrix queue last held something for the vector engine and the gate pipeline (R166), `flagAt`
when a flag was last incremented (R216). -/
structure Core where
  pc : BitVec 16
  x : Vector W64 16
  f : Vector (BitVec 16) 32
  v : Vector (List W32) 8
  m : Vector (BitVec 128) 4
  slots : Vector (List W64) 8
  tiles : Tab Tile
  finished : List FinBlock
  tq : List TqEntry
  qM : List QEntry
  qV : List QEntry
  qG : List QEntry
  qD : List QEntry
  runs : List MmulRun
  issueNo : Nat
  gate : Option GateRun
  dma : List DmaXfer
  seq : SeqState
  ctx : Option (BitVec 16)
  gen : W64
  nanId : W64
  nanStep : BitVec 48
  isat : W32
  fsat : W32
  tagCtl : W64
  photSel : BitVec 6
  phot : List (W32 × W32)
  photAtPass : List (W32 × W32)
  gathering : Bool
  merged : Bool
  photStep : BitVec 48
  parityCnt : BitVec 16
  residueCnt : BitVec 16
  lastTile : Option (Fin 16)
  highWater : Nat
  watchdog : Bool
  queueFullCnt : W32
  scratchCnt : W32
  stretchFrom : W64
  retirePending : Bool
  floorHeld : Bool
  effectiveMhz : Nat
  targetMhz : Nat
  settling : Option Nat
  limLimit : Option Nat
  thermHalf : Option Nat
  segOn : BitVec 8
  slowdown : Nat
  trapDue : Option (Nat × BitVec 16 × BitVec 16)
  noPark : Option Nat
  dmaSeq : Nat
  fedV : W64
  fedG : W64
  flagAt : Tab W64
  deriving DecidableEq, Repr

/-- A core after a cold reset (R169, R174, R43, R119 to R121, R138 to R141, R188 to R190; log 6, log 7). -/
def Core.cold : Core where
  pc := 0
  x := Vector.replicate 16 0
  f := Vector.replicate 32 0
  v := Vector.replicate 8 (List.replicate 128 0)
  m := Vector.replicate 4 0
  slots := Vector.replicate 8 []
  tiles := []
  finished := []
  tq := []
  qM := []
  qV := []
  qG := []
  qD := []
  runs := []
  issueNo := 0
  gate := none
  dma := []
  seq := .idle
  ctx := none
  gen := 1
  nanId := 0
  nanStep := 0
  isat := 0
  fsat := 0
  tagCtl := 0
  photSel := 0
  phot := List.replicate 64 (0, 0)
  photAtPass := List.replicate 64 (0, 0)
  gathering := false
  merged := false
  photStep := 0
  parityCnt := 0
  residueCnt := 0
  lastTile := none
  highWater := 0
  watchdog := false
  queueFullCnt := 0
  scratchCnt := 0
  stretchFrom := 0
  retirePending := false
  floorHeld := false
  effectiveMhz := 800
  targetMhz := 800
  settling := none
  limLimit := none
  thermHalf := none
  segOn := 0
  slowdown := 0
  trapDue := none
  noPark := none
  dmaSeq := 0
  fedV := 0
  fedG := 0
  flagAt := []

/-- The clock state of the island that serves a core. -/
def Core.island (c : Core) : Island :=
  ⟨c.stretchFrom, c.retirePending, c.floorHeld, c.effectiveMhz, c.targetMhz, c.settling, c.limLimit, c.thermHalf, c.slowdown⟩

/-- A core served by another island. -/
def Core.onIsland (c : Core) (i : Island) : Core :=
  { c with stretchFrom := i.stretchFrom, retirePending := i.retirePending, floorHeld := i.floorHeld,
           effectiveMhz := i.effectiveMhz, targetMhz := i.targetMhz, settling := i.settling, limLimit := i.limLimit,
           thermHalf := i.thermHalf, slowdown := i.slowdown }

/-- What a core saves at a pre-emption point (R185, R220), the waiting instruction that a resumed context executes again and
whether it waited for another device (R221). -/
structure SavedCore where
  pc : BitVec 16
  x : Vector W64 16
  f : Vector (BitVec 16) 32
  v : Vector (List W32) 8
  m : Vector (BitVec 128) 4
  live : Tab Bytes
  again : Option (Engine × QEntry)
  far : Bool
  remote : List DmaXfer
  deriving DecidableEq, Repr

/-- Where a context stands (R76). -/
inductive CtxState where
  | running | saving | saved | parked | ended
  deriving DecidableEq, Repr

/-- A context: one running instance of a step program on one core group. -/
structure Context where
  part : Fin 16
  group : Nat
  cores : List Nat
  umber : Bool
  step : BitVec 48
  pass : Nat
  streams : List (Fin 16384)
  entryPc : BitVec 16
  seed : W64
  trap : Bool
  state : CtxState
  preempt : Option W64
  lateRaised : Bool
  endedCores : List Nat
  savedCores : Tab SavedCore
  deriving DecidableEq, Repr

end Sys2Proof.Machine
end

