-- ==== Sys2Proof/Machine/CtlTypes.lean ====
section
/-! DEFINITION. The state of mailboxes, event rings, flash, security, power and memory health
(R410 to R455, R482 to R509, R514 to R533, R322 to R340), as plain data. -/

namespace Sys2Proof.Machine

/-- A mailbox (R413, R418 to R421). `owner` is 0 to 15, 16 control or 31 none. `running` marks a command in the
background; `takeover` that its response carries FLAGS bit 0 (R412). -/
structure Mailbox where
  owner : BitVec 5
  lost : Bool
  busy : Bool
  copy : Bytes
  running : Bool
  takeover : Bool
  kept : Option (BitVec 32 × Bytes)
  rebind : Option (BitVec 5)
  deriving DecidableEq, Repr

/-- An event ring (R425 to R428). -/
structure Ring where
  enabled : Bool
  packets : Bool
  owner : BitVec 5
  entries : Nat
  addr : W64
  consAddr : W64
  mask : BitVec 32
  qpn : BitVec 24
  seq : W32
  cons : Nat
  waiting : List Bytes
  dropped : Nat
  lastPacket : Option W64
  withheld : Bool
  deriving DecidableEq, Repr

/-- States of a configuration slot (R434). -/
inductive CfgState where
  | free | staged | current | history
  deriving DecidableEq, Repr

/-- A configuration slot. Version numbers rise with every staging, so they order the HISTORY versions. -/
structure CfgSlot where
  state : CfgState
  version : W32
  image : Bytes
  deriving DecidableEq, Repr

/-- Kinds of journal record (R440). -/
inductive JournalKind where
  | prepare | seal | done | abandon
  deriving DecidableEq, Repr

/-- A journal record (R440). -/
structure JournalRec where
  kind : JournalKind
  version : W32
  prev : W32
  slot : Fin 8
  prevSlot : Fin 8
  digest : Bytes
  rollback : Bool
  deriving DecidableEq, Repr

/-- States of a firmware slot (R499). -/
inductive FwState where
  | empty | receiving | verified
  deriving DecidableEq, Repr

/-- A firmware slot. -/
structure FwSlot where
  state : FwState
  bytes : Bytes
  total : Nat
  deriving DecidableEq, Repr

/-- One copy of the boot record (R499); slots are false for A, true for B. -/
structure BootCopy where
  gen : Nat
  active : Bool
  trial : Option Bool
  valid : Bool
  deriving DecidableEq, Repr

/-- A flash write under way (R440, R505, R515). -/
inductive FlashOp where
  | cfgStage (m : Fin 64) (slot : Fin 8) (version : W32) (image : Bytes)
  | cfgFree (m : Fin 64) (slot : Fin 8)
  | journal (r : JournalRec)
  | fwSegment (m : Fin 64) (slot : Bool) (off : Nat) (data : Bytes) (total : Nat) (last : Bool)
  | boot (m : Option (Fin 64)) (active : Bool) (trial : Option Bool)
  | fwEmpty (slot : Bool)
  | wear (r : Bytes)
  deriving DecidableEq, Repr

/-- Phases of a commit (R441). -/
inductive CommitPhase where
  | prepare | seal | applying | done
  | abandon (status : Nat)
  deriving DecidableEq, Repr

/-- A commit or rollback in progress (R441, R443): `prev` the version left, `digest` that of the image, `changed` the
partitions whose section it changes. -/
structure Commit where
  mbx : Fin 64
  version : W32
  slot : Fin 8
  prevSlot : Fin 8
  rollback : Bool
  prev : W32
  digest : Bytes
  phase : CommitPhase
  waiting : List (Fin 16)
  changed : List (Fin 16)
  deriving DecidableEq, Repr

/-- The journal record of a commit. -/
def Commit.journalRec (c : Commit) (kind : JournalKind) : JournalRec :=
  ⟨kind, c.version, c.prev, c.slot, c.prevSlot, c.digest, c.rollback⟩

/-- A configuration image being staged (R438). -/
structure Staging where
  taken : Bytes
  total : Nat
  deriving DecidableEq, Repr

/-- The flash (R434, R440, R485, R499). -/
structure Flash where
  cfg : Vector CfgSlot 8
  journal : List JournalRec
  journalCnt : Nat
  journalOk : Bool
  fwA : FwSlot
  fwB : FwSlot
  boot0 : BootCopy
  boot1 : BootCopy
  wear : List Bytes
  wearSeq : Nat
  deviceCert : Bytes
  ops : List FlashOp
  staging : Option Staging
  wearFull : Bool
  deriving DecidableEq, Repr

/-- Device states (R430). -/
inductive DevMode where
  | off | romBoot | fwLoad | init | ready | serving | maintenance | faulted
  deriving DecidableEq, Repr

/-- Supervisors (R410 to R412, R450): a spare that loads Lortus to become standby, the mailbox of a UNIT_RETIRE that
waits for it. A takeover is one step, so nothing is held during it (log 7). -/
structure Sups where
  primary : Fin 4
  standby : Fin 4
  standbyValid : Bool
  working : BitVec 4
  takeovers : BitVec 8
  loading : Option (Fin 4)
  retireMbx : Option (Fin 64)
  deriving DecidableEq, Repr

/-- Fuses, boot ROM contents and running firmware (R493, R498, R501, R507 to R509). -/
structure Sec where
  counter : Nat
  blowTo : Option (Nat × Fin 64)
  running : Option Bool
  mFw : Bytes
  fwVersion : W32
  secVersion : Nat
  aliasCert : Bytes
  dikPub : Bytes
  quoteSeq : W64
  trialRun : Bool
  rootKey : Bytes
  uds : Bytes
  aliasSeed : Bytes
  deriving DecidableEq, Repr

/-- Power and temperature (R514 to R522, R532). Islands are named by number: a logical core, 2000 + fabric, 3000 the hub,
4000 + HBM3E stack; `throttled` under hardware protection, `lortusHot` in STAGE 1, `hot110` since when at 110 degC. -/
structure Power where
  inputMv : BitVec 16
  powerW : BitVec 12
  capW : BitVec 12
  refLost : Bool
  serdesLost : Bool
  limiter : Bool
  stage : BitVec 2
  capMiss : Bool
  hubTemp : Int
  coolant : Int
  fabricTemp : List Int
  hottest : Int
  coreTemp : Tab Int
  refresh2 : List Nat
  hot110 : Tab W64
  mean1ms : Nat
  throttled : List Nat
  lortusHot : List Nat
  deriving DecidableEq, Repr

/-- Error counters and scrub control (R334 to R338, R491, R492). -/
structure MemHealth where
  ceCnt : W32
  ueCnt : W32
  hbmCe : W32
  hbmUe : BitVec 16
  lpFail : BitVec 16
  last : W64
  scrubCtl : W64
  rowErrs : Tab (List W64)
  lpFails : Tab (List W64)
  pcErrs : Tab (List W64)
  hopResend : W32
  exitFail : BitVec 16
  linkFail : BitVec 8
  replayCnt : BitVec 24
  maxUs : BitVec 16
  lastUs : BitVec 16
  deriving DecidableEq, Repr

/-- A pseudo-channel that failed with its data (R328): stack, pseudo-channel, and the runs of spans (first span, count) that have
been written as a whole since. -/
structure LostPc where
  stack : Nat
  pc : Nat
  mended : List (Nat × Nat)
  deriving DecidableEq, Repr

/-- A quadrant's repair state (R338), the copy in progress (R327), and its LPDDR5X remap entries: the 64 MiB block redirected and
the spare block that takes its place, both counted from address 0 (R313). -/
structure QuadHealth where
  remapState : BitVec 2
  stack : BitVec 2
  pc : BitVec 5
  pprSoft : BitVec 16
  pprHard : BitVec 16
  lpRemap : BitVec 8
  blocks : List (Nat × Nat)
  ringDown : Bool
  deriving DecidableEq, Repr

/-- A cluster's state (R339, R340) and its failed banks. -/
structure ClusterState where
  fixed : Bool
  owner : Option (Fin 16)
  failedBanks : List Nat
  sparesUsed : BitVec 16
  banksOn : W64
  spareLow : Bool
  deriving DecidableEq, Repr

/-- The spare map (R24 to R26, R485): the physical position of each logical core (default n mod 32), failed physical cores
(34 × cluster + position), the spare tile of each physical core: engaged for a logical tile, or failed; lost cores; spare rows and bit columns in use in each
bank (R325). -/
structure SpareMap where
  pos : Tab Nat
  failedCores : List Nat
  spareTile : Tab (Option (Fin 16))
  lost : List Nat
  bankRows : Tab Nat
  bankCols : Tab Nat
  deriving DecidableEq, Repr

/-- A self-test (R486 to R489): the mailbox until it ends, its KIND, the units still to test, those rolled out of service with
the physical position each left, the records so far. -/
structure SelfTest where
  id : BitVec 32
  mbx : Option (Fin 64)
  kind : Nat
  todo : List W64
  rolled : List (W64 × Nat)
  records : List Bytes
  deriving DecidableEq, Repr

end Sys2Proof.Machine
end

