-- ==== Sys2Proof/Machine/NetTypes.lean ====
section
/-! DEFINITION. The state of ports, MACs and queue pairs (R379 to R391, R402, R405 to R408), as plain data. -/

namespace Sys2Proof.Machine

/-- What an outbound message serves when it is acknowledged. -/
inductive MsgUse where
  | dmov (core : Nat) (slot : Fin 16)
  | response (m : Fin 64)
  | mirror (i : Fin 16384)
  | other
  deriving DecidableEq, Repr

/-- The kinds of outbound message (R385, R388). -/
inductive MsgKind where
  | send | write | read | writeImm (imm : BitVec 32)
  deriving DecidableEq, Repr

/-- An outbound message not yet acknowledged: its first and last PSN, remote address, key, bytes or length. -/
structure OutMsg where
  first : BitVec 24
  last : BitVec 24
  kind : MsgKind
  va : W64
  key : BitVec 32
  data : Bytes
  len : Nat
  use : MsgUse
  deriving DecidableEq, Repr

/-- States of a queue pair (R433, NET_QP_QUERY). -/
inductive QpState where
  | created | connected | error
  deriving DecidableEq, Repr

/-- A queue pair (R383, R384, R390). `owner` is 0 to 15 or 16 for control; `timer` is when its ACK timeout was last started. -/
structure Qp where
  owner : Nat
  mac : Fin 16
  mailboxes : W64
  state : QpState
  peer : BitVec 13
  host : Bool
  mtu : Nat
  tmo : Nat
  retry : Nat
  retriesLeft : Nat
  remoteQpn : BitVec 24
  sqNext : BitVec 24
  acked : BitVec 24
  rqNext : BitVec 24
  remoteKey : BitVec 32
  vaBase : W64
  remoteIp : BitVec 128
  out : List OutMsg
  timer : W64
  rc : W32
  rt : W32
  alpha : W32
  rounds : Nat
  alphaFrom : W64
  incFrom : W64
  lastCnpSent : Option W64
  refuse : Bool
  deriving DecidableEq, Repr

/-- The DSCP value and the IEEE 802.1p priority of a frame (R391). -/
structure Mark where
  dscp : BitVec 6
  prio : BitVec 3
  deriving DecidableEq, Repr

/-- A MAC (R380, R382). `degraded` counts the breakout rates it has lost to failed lanes (R381). -/
structure Mac where
  vlan : BitVec 16
  ip4 : BitVec 32
  ip6 : BitVec 128
  prefix4 : BitVec 8
  prefix6 : BitVec 8
  gw4 : BitVec 32
  gw6 : BitVec 128
  discarded : Nat
  errors : Nat
  rtcpCnt : Nat
  recent : List (W64 × Mark × Bytes)
  hops : List (BitVec 128 × BitVec 48)
  resolving : List (BitVec 128)
  up : Bool
  laneDown : Bool
  degraded : Nat
  deriving DecidableEq, Repr

/-- A port (R379, R381, R391, R407, R408); `retire` is the mailbox of a UNIT_RETIRE that drives a lane code (R484). -/
structure Port where
  ctl : W64
  spareState : BitVec 2
  spareFor : BitVec 2
  pfcWd : BitVec 8
  fecCnt : BitVec 16
  laneFault : BitVec 16
  failing : Option (Fin 5 × W64)
  recorded : Option (Fin 5)
  laneMap : BitVec 3
  held : BitVec 8
  pfcFrom : Tab W64
  breakout : BitVec 2
  spareOn : Bool
  retire : Option (Fin 64)
  deriving DecidableEq, Repr

/-- Congestion control parameters and markings of an owner (R390, R391). -/
structure CcParams where
  gLog2 : Nat
  f : Nat
  cnpUs : Nat
  alphaUs : Nat
  incUs : Nat
  rai : Nat
  rmin : Nat
  dscp : BitVec 32
  prio : BitVec 32
  deriving DecidableEq, Repr

/-- The management port (R402): addresses, UDP port, allow list of (address, prefix length) once one has been set (log 24),
answered requests of the last second with their responses. -/
structure Mgmt where
  prefix4 : BitVec 8
  prefix6 : BitVec 8
  udpPort : BitVec 16
  ip4 : BitVec 32
  ip6 : BitVec 128
  allow : Option (List (BitVec 128 × Nat))
  answered : List (BitVec 128 × BitVec 16 × W64 × Bytes)
  deriving DecidableEq, Repr

end Sys2Proof.Machine
end

