-- ==== Sys2Proof/Machine/StreamTypes.lean ====
section
/-! DEFINITION. The state of a stream (R49 to R66, R463 to R480), of a partition with its images, KV pool and step
(R44, R54, R55, R70 to R87, R314, R444), as plain data. -/

namespace Sys2Proof.Machine

/-- Stream states (R60). -/
inductive StreamState where
  | closed | opening | active | stalled | orphaned | draining
  deriving DecidableEq, Repr

/-- An accepted chunk that is not yet processed (R51, R464). `side` is its side band, `deadline` in hub cycles (R64, R65);
`archived` says that its slot write has completed (R465); `entered` that it has entered a work list (R82). -/
structure Chunk where
  no : Nat
  frames : Nat
  side : Bytes
  first : W64
  accept : W64
  deadline : Option Nat
  archived : Bool
  absent : Bool
  mirrored : Bool
  payload : Bytes
  deriving DecidableEq, Repr

/-- A packet kept for chunks not yet accepted: first and last sample, arrival (R396). -/
structure KeptPacket where
  first : Nat
  last : Nat
  arrival : W64
  deriving DecidableEq, Repr

/-- The first of two consecutive early packets (R397). -/
structure EarlyPacket where
  ts : W32
  samples : Nat
  payload : Bytes
  arrival : W64
  deriving DecidableEq, Repr

/-- The intake side of a stream (R395 to R399, R353 to R355). `samples` holds the samples received and not yet accepted,
each by its stream time; `marks` the flag bits that the frame holding a sample will carry. -/
structure Intake where
  ts0 : Option W32
  ssrc : W32
  samples : Tab Bytes
  marks : Tab Nat
  kept : List KeptPacket
  early : Option EarlyPacket
  nextSeq : W64
  stopAt : Option Nat
  lateCnt : Nat
  earlyCnt : Nat
  otherCnt : Nat
  deriving DecidableEq, Repr

/-- The output side (R398, R400, R354): of a host ring, the records waiting, the consumer's count last read, how many records
have been written, and for each entry how many had been written once it was last written. -/
structure Outlet where
  seq : BitVec 16
  ts0 : W32
  sent : Nat
  packets : Nat
  marker : Bool
  f0 : Option Nat
  waiting : List (W32 × Bytes)
  cons : W64
  written : Nat
  entries : Tab Nat
  deriving DecidableEq, Repr

/-- The mirroring of a stream (R476 to R480): the peer, the shadow's handle there, whether the shadow holds a complete image,
and the STREAM_MIRROR that waits for it. -/
structure MirrorSide where
  peer : BitVec 13
  shadow : BitVec 32
  imageSent : Bool
  waiting : Option (Fin 64)
  deriving DecidableEq, Repr

/-- The shadow of another device's stream: its handle there, the time of the last mirror record, the image it holds. -/
structure ShadowSide where
  original : BitVec 32
  lastRecord : W64
  adopted : Bool
  deriving DecidableEq, Repr

/-- One entry of the active stream table (R58) with its binding (R393) and what the hub keeps beside it. -/
structure Stream where
  state : StreamState
  cls : Fin 3
  orphanHold : Bool
  mirror : Bool
  drain : Bool
  part : Fin 16
  gen : BitVec 18
  handle : BitVec 32
  sampleCount : W64
  commitStep : BitVec 48
  gap : Bool
  commitSide : Bool
  stateUnits : BitVec 16
  stateAddr : BitVec 48
  resCluster : BitVec 6
  coreGroup : BitVec 10
  lastRunStep : BitVec 48
  oldestAccept : W64
  sampleRate : BitVec 24
  nextOutSeq : W32
  releasedSeq : W32
  source : W64
  sink : W64
  faultCode : BitVec 16
  orphanSince : W64
  chunksDone : W64
  late : W32
  chunksLost : W32
  hostTag : W64
  binding : Bytes
  closedOrder : Nat
  orphanSteps : List (BitVec 48)
  chunks : List Chunk
  nextChunkNo : Nat
  archAddr : Nat
  intake : Intake
  outlet : Outlet
  resetNext : Bool
  resume : Bool
  openMbx : Option (Fin 64)
  drainMbx : List (Fin 64)
  closeReq : Bool
  closeMbx : List (Fin 64)
  migrate : Option (Nat × Fin 64)
  mirrorSide : Option MirrorSide
  shadow : Option ShadowSide
  lastSample : W64
  lastDone : W64
  stalledStep : BitVec 48
  pageTable : Nat
  tailAddr : Nat
  noPage : Bool
  placeNext : Option Nat
  deriving DecidableEq, Repr

/-- An entry that has never been opened since the reset (R59). -/
def Stream.empty : Stream where
  state := .closed
  cls := 0
  orphanHold := false
  mirror := false
  drain := false
  part := 0
  gen := 0
  handle := 0
  sampleCount := 0
  commitStep := 0
  gap := false
  commitSide := false
  stateUnits := 0
  stateAddr := 0
  resCluster := 0
  coreGroup := 0
  lastRunStep := 0
  oldestAccept := 0
  sampleRate := 0
  nextOutSeq := 0
  releasedSeq := 0
  source := 0
  sink := 0
  faultCode := 0
  orphanSince := 0
  chunksDone := 0
  late := 0
  chunksLost := 0
  hostTag := 0
  binding := List.replicate 128 0
  closedOrder := 0
  orphanSteps := []
  chunks := []
  nextChunkNo := 0
  archAddr := 0
  intake := ⟨none, 0, [], [], [], none, 0, none, 0, 0, 0⟩
  outlet := ⟨0, 0, 0, 0, true, none, [], 0, 0, []⟩
  resetNext := false
  resume := false
  openMbx := none
  drainMbx := []
  closeReq := false
  closeMbx := []
  migrate := none
  mirrorSide := none
  shadow := none
  lastSample := 0
  lastDone := 0
  stalledStep := 0
  pageTable := 0
  tailAddr := 0
  noPage := false
  placeNext := none

/-- States of an image slot (R444). -/
inductive ImageState where
  | empty | loading | loaded | inService
  deriving DecidableEq, Repr

/-- An image slot of a partition (R444, log 20): `area` is where the copy lies in the partition's range (R314), `bytes` what its
digest has taken in. -/
structure ImageSlot where
  state : ImageState
  received : Nat
  total : Nat
  digest : Bytes
  bytes : Bytes
  info : Option ImageInfo
  area : Nat
  deriving DecidableEq, Repr

/-- A stream's place in a step (R71, R194): chunk, pass, core group, batch slot, the addresses its work slice names,
and how far its work has come (orders 7, 8 and 9 of R44). -/
structure WorkEntry where
  stream : Fin 16384
  chunkNo : Nat
  pass : Nat
  group : Nat
  slot : Nat
  load : Bool
  frames : Nat
  deadline : Option Nat
  chunkAddr : Nat
  stateIn : Nat
  stateOut : Nat
  outAddr : Nat
  n0 : W32
  outIdx : Nat
  stored : Bool
  committed : Bool
  gone : Bool
  deriving DecidableEq, Repr

/-- A replay after a single fault (R468): the fault, the contexts that stopped for it, the pass and its start. -/
structure Replay where
  fault : FaultReport
  ctxs : List (BitVec 16)
  pass : Nat
  passStart : W64
  deriving DecidableEq, Repr

/-- A step in progress (R44): `cur` passes have ended, `running` is the pass that runs while `passOn`; `again` says that it
is a replay, `more` are further passes to replay (R475). -/
structure StepRun where
  no : BitVec 48
  list : List WorkEntry
  passes : Nat
  cur : Nat
  passOn : Bool
  passStart : W64
  start : W64
  decided : Bool
  overflowReplay : Bool
  replay : Option Replay
  sliceBase : Nat
  running : Nat
  again : Bool
  more : List Replay
  deriving DecidableEq, Repr

/-- An extent (R314): size in GiB and address. -/
structure Extent where
  gib : Nat
  addr : Nat
  deriving DecidableEq, Repr

/-- The counts of one seeing period (R86): `durNs` and `isoNs` are the sums of its steps' durations and of their A(n, F), `slowMax`
the largest ratio of the two in 8.8 fixed point. -/
structure SeeingTally where
  firstStep : BitVec 48
  steps : Nat
  late : Nat
  preempts : Nat
  parked : Nat
  orphaned : Nat
  migrated : Nat
  queueFull : Nat
  durNs : Nat
  isoNs : Nat
  slowMax : Nat
  floorHeld : Bool
  throttled : Bool
  overAdmitted : Bool
  deriving DecidableEq, Repr

/-- The seeing report of a partition (R85): the counts of the running period, and those of periods whose records are still to be
written (R87). -/
structure Seeing extends SeeingTally where
  ring : W64
  entries : Nat
  period : Nat
  recordNo : Nat
  due : List SeeingTally
  deriving DecidableEq, Repr

/-- A page on its way to the other tier (R331): layer, page, new slot, how far, the command's mailbox or none. -/
structure TierMove where
  stream : Fin 16384
  layer : Nat
  page : Nat
  toLp : Bool
  newSlot : Nat
  oldSlot : Nat
  phase : Nat
  mbx : Option (Fin 64)
  deriving DecidableEq, Repr

/-- A MEM_TIER_MOVE whose response waits (R330). -/
structure TierCmd where
  mbx : Fin 64
  stream : Fin 16384
  toLp : Bool
  todo : List (Nat × Nat)
  moved : Nat
  skipped : Nat
  deriving DecidableEq, Repr

/-- What a partition's zeroing ends in (R315). -/
inductive ZeroEnd where
  | create (m : Fin 64) | destroy (m : Fin 64)
  deriving DecidableEq, Repr

/-- A unit replacement that waits for a step boundary (R42, R484, R487): the unit, the command's mailbox, the rolling test. -/
structure UnitWait where
  unit : W64
  mbx : Option (Fin 64)
  test : Option Nat
  deriving DecidableEq, Repr

/-- A partition (R54, R55, R314). `lastImage` is what the image last in service declares: its open streams keep that shape when it is
lost (R80, R474). `outArea`, `scoreArea` and `statsArea` are the areas of the image in service (R194, R251, R256), with
their lengths. `sect` is the section of R436 in force, `nextSect` a committed one not yet applied. The KV
pool is `kvHbmSlots` and `kvLpSlots` slots of `kvSlotBytes`, listed in `kvAll` with their tier; `kvHbm` and `kvLp` are the free ones.
`pastRings` are the archive rings of its closed streams (R316).
`resetting` holds the mailbox of a PART_RESET and whether its response is under way. -/
structure Partition where
  hbm : List Extent
  lp : List Extent
  macs : BitVec 16
  audPorts : BitVec 16
  qpQuota : Nat
  kvHbm : List Nat
  kvLp : List Nat
  kvHbmSlots : Nat
  kvLpSlots : Nat
  kvSlotBytes : Nat
  kvAll : List (Bool × Nat)
  epoch : BitVec 24
  scaleTable : Nat
  directory : Nat
  outArea : Nat
  outLen : Nat
  scoreArea : Nat
  scoreLen : Nat
  statsArea : Nat
  statsLen : Nat
  sect : Bytes
  nextSect : Option Bytes
  img0 : ImageSlot
  img1 : ImageSlot
  lastImage : Option ImageInfo
  pastRings : List (Nat × Nat)
  stepNo : BitVec 48
  step : Option StepRun
  intervals : List (Nat × Nat)
  overAdmitted : Bool
  noAdmit : Bool
  zeroing : Option ZeroEnd
  resetting : Option (Fin 64 × Bool)
  seeing : Option Seeing
  places : List (Nat × Nat)
  moves : List TierMove
  tierCmds : List TierCmd
  unitWaits : List UnitWait
  rebuild : List Nat
  deriving DecidableEq, Repr

end Sys2Proof.Machine
end

