-- ==== Sys2Proof/Machine/State.lean ====
section
/-! DEFINITION. The state of the device, the reasons a step can stop, and the state after reset. -/

namespace Sys2Proof.Machine

/-- Reasons to stop with a fault. No command of this model raises one: every context fault, FAULTED and OFF of the spec
is a next state. The type is kept for the host's interface; a stop under it would be safe. -/
inductive Fault where
  /-- Raised by nobody. Safe. -/
  | none
  deriving DecidableEq, Repr

/-- Reasons to refuse a command. -/
inductive Refusal where
  /-- Raised by an arm of exec whose command has no meaning yet, named by its mnemonic. Safe. -/
  | notModelled (mnemonic : String)
  deriving DecidableEq, Repr

/-- What leaves the device on its ports (log 4). -/
inductive Output where
  /-- An RDMA message of a queue pair, as sent or sent again (R385). -/
  | rdma (qpn : BitVec 24) (m : OutMsg)
  /-- A response of the responder side: acknowledgement, NAK syndrome, read data (R383, R385). -/
  | ack (qpn : BitVec 24) (psn : BitVec 24)
  | nak (qpn : BitVec 24) (kind : NakKind)
  | readResponse (qpn : BitVec 24) (data : Bytes)
  | atomicResponse (qpn : BitVec 24) (old : W64)
  /-- A congestion notification (R390). -/
  | cnp (qpn : BitVec 24)
  /-- An RTP packet: MAC, DSCP, addresses and ports, RTP fields, payload (R398). -/
  | rtp (mac : Fin 16) (dscp : Byte) (dst : Bytes) (dport sport : BitVec 16) (marker : Bool) (pt : Byte)
      (seq : BitVec 16) (ts ssrc : W32) (payload : Bytes)
  /-- A held RTP packet sent again after a spare switch (R382). -/
  | rtpAgain (mac : Fin 16) (packet : Bytes)
  /-- An RTCP sender report (R394). -/
  | rtcp (mac : Fin 16) (dst : Bytes) (dport : BitVec 16) (ssrc ts packets octets : W32)
  /-- Answers of R380, and its next-hop questions. -/
  | arpReply (mac : Fin 16) (ip : BitVec 32) (hw : BitVec 48) (askIp : BitVec 32) (askHw : BitVec 48)
  | ndReply (mac : Fin 16) (ip : BitVec 128) (hw : BitVec 48) (askIp : BitVec 128) (askHw : BitVec 48)
  | echoReply (mac : Fin 16) (src dst : BitVec 128) (payload : Bytes)
  | resolve (mac : Fin 16) (ip : BitVec 128)
  /-- A pause frame sent for a priority (R391). -/
  | pause (port : Fin 4) (prio : Fin 8)
  /-- A code driven on LANE_MAP (R381). -/
  | laneMap (port : Fin 4) (code : BitVec 3)
  /-- A response of the management service (R402). -/
  | mgmt (dst : BitVec 128) (packet : Bytes)
  /-- A block read of the board sideband (R403): the target's address, the status byte and the data. -/
  | smbus (address : BitVec 7) (bytes : Bytes)
  /-- Words driven on the pins of a port in a wire frame (R342). -/
  | wireWords (port : Fin 16) (left right : W32)
  | clockPins (port : Fin 16) (drive : PinDrive)
  /-- A heartbeat to the standby (R411). -/
  | heartbeat (primary standby : Fin 4)
  deriving DecidableEq, Repr

/-- What left the device, with the mark that a frame of R391's table carries. -/
structure Sent where
  out : Output
  mark : Option Mark
  deriving DecidableEq, Repr

/-- Device-wide state: DEV.STATE, identity, reset cause, pins (R430, R437, R449, R527, R533). -/
structure Dev where
  mode : DevMode
  faultCause : Nat
  deviceNo : BitVec 13
  deviceNoNext : Option (BitVec 13)
  reachedReady : Bool
  resetKind : BitVec 2
  resetSource : BitVec 4
  partResets : BitVec 16
  pwrGood : Bool
  faultN : Bool
  thermtripN : Bool
  tripLatched : Bool
  powerNs : Nat
  audioPinsOn : Bool
  tripRecord : Bool
  deriving DecidableEq, Repr

/-- The device. `pending` is the queue of waiting commands; `freeCtr` (the model's own, log 3) counts the free values
drawn; `wire` is the history of all that left the device, newest first (log 4). `idleIslands` are
the islands of physical cores that serve no logical core and differ from reset, by 34 × cluster + position. `deadQps` are the
queue pairs that a partition reset or PART_DESTROY destroyed (R408), `lastEpochs` the last EPOCH of each partition number that
existed (R386). -/
structure State where
  pending : List Instr
  freeCtr : Nat
  wire : List Sent
  now : W64
  mem : List Host.Cell
  badSpans : List Nat
  lostPcs : List LostPc
  knownZero : List Nat
  dev : Dev
  sup : Sups
  sec : Sec
  pwr : Power
  flash : Flash
  commit : Option Commit
  mbx : Tab Mailbox
  bells : List (Fin 64)
  mbxEpoch : BitVec 24
  mirrorEpoch : BitVec 24
  rings : Tab Ring
  cores : Tab Core
  idleIslands : Tab Island
  spares : SpareMap
  clusters : Tab ClusterState
  quads : Tab QuadHealth
  health : MemHealth
  parts : Tab Partition
  ctxs : Tab Context
  streams : Tab Stream
  closeCtr : Nat
  aports : Tab APort
  agroups : Tab AGroup
  ports : Tab Port
  macs : Tab Mac
  qps : Tab Qp
  deadQps : List (BitVec 24)
  lastEpochs : Tab (BitVec 24)
  cc : Tab CcParams
  mgmt : Mgmt
  poolLow : Bool
  archHeld : List (Nat × Nat)
  tests : List SelfTest
  nextTest : Nat
  deriving DecidableEq, Repr

/-- Mailbox m after a cold or warm reset (R421, R454). -/
def Mailbox.cold (m : Nat) : Mailbox :=
  ⟨if m ≤ 3 then 16 else 31, false, false, [], false, false, none, none⟩

/-- Port n after a cold or warm reset (R344, R372, R373). -/
def APort.cold (n : Nat) : APort :=
  ⟨BitVec.ofNat 64 (n * 2 ^ 60 + 10 * 2 ^ 48), 0, false, false, false, 0, 0, false, none, none, false, [], 0⟩

/-- A slot nothing has set (log 22): gain 0 dB, not muted, off, bypass OFF, RELEASE_HOLD 500 ms (R367). -/
def ASlot.cold : ASlot := ⟨0, false, false, 0, 500, false, 0, none, none, none, false, false, 0, 0, false⟩

/-- Group g after a cold or warm reset (R374 to R377). -/
def AGroup.cold : AGroup where
  ctl := BitVec.ofNat 64 (48000 * 2 ^ 46 + 2 ^ 45 + 2 ^ 43 + 47 * 2 ^ 24 + 50 * 2 ^ 14)
  shadow := 0
  active := 0
  pending := none
  frame := 0
  clockLost := false
  helio := BitVec.ofNat 64 (2048 * 2 ^ 29 + 100 * 2 ^ 21 + 2 * 2 ^ 13 + 100 * 2 ^ 5 + 12)
  limit := false
  steer := 0
  integ := 0
  levelSum := 0
  levelCnt := 0
  slotNow := 0
  place := 0
  openRec := none
  maskMbx := []
  slots := []
  cfgSection := none
  returned := false

/-- Port p after a cold or warm reset (R407, R408). -/
def Port.cold : Port :=
  ⟨BitVec.ofNat 64 (2 ^ 61 + 512 * 2 ^ 32), 0, 0, 0, 0, 0, none, none, 7, 0, [], 0, true, none⟩

/-- A MAC nothing has set (log 24). -/
def Mac.cold : Mac := ⟨0, 0, 0, 0, 0, 0, 0, 0, 0, 0, [], [], [], false, false, 0⟩

/-- The defaults of R390 and R391: DSCP and priority per traffic in table order, one byte each. -/
def CcParams.default : CcParams := ⟨8, 5, 50, 55, 55, 100, 100, 0x102E301A, 0x00050603⟩

/-- A disabled event ring (R425). -/
def Ring.cold : Ring := ⟨false, false, 31, 16, 0, 0, 0, 0, 0, 0, [], 0, none, false⟩

/-- A cluster that no partition owns (R339, R340). -/
def ClusterState.cold : ClusterState := ⟨true, none, [], 0, 0, false⟩

/-- A quadrant without repairs (R338, log 12). -/
def QuadHealth.cold : QuadHealth := ⟨0, 0, 0, 0, 0, 0, [], false⟩

/-- The SHAKE256 digest of the factory configuration image below with its DIGEST field zero (R435). -/
def factoryDigest : Bytes :=
  [195, 202, 8, 228, 244, 36, 120, 225, 97, 113, 202, 244, 180, 119, 6, 134, 64, 133, 46, 21, 235, 173, 85, 215, 78, 155,
   98, 210, 94, 132, 200, 19, 98, 117, 57, 78, 16, 45, 168, 67, 137, 38, 98, 177, 235, 98, 194, 19, 186, 184, 178, 182,
   173, 18, 65, 219, 49, 185, 27, 198, 138, 108, 170, 54]

/-- The configuration image in flash at manufacture (R435, log 12): version 1 with a device section of zeros. -/
def factoryImage : Bytes :=
  [0x58, 0x43, 0x46, 0x47, 1, 0, 1, 0, 1, 0, 0, 0, 200, 0, 0, 0] ++ List.replicate 48 0 ++ factoryDigest
    ++ [1, 0, 0, 0, 64, 0, 0, 0] ++ List.replicate 64 0

/-- The flash at manufacture (log 12). -/
def Flash.factory : Flash where
  cfg := (Vector.replicate 8 ⟨.free, 0, []⟩).set 0 ⟨.current, 1, factoryImage⟩
  journal := []
  journalCnt := 0
  journalOk := true
  fwA := ⟨.verified, Config.factoryFirmware, Config.factoryFirmware.length⟩
  fwB := ⟨.empty, [], 0⟩
  boot0 := ⟨1, false, none, true⟩
  boot1 := ⟨0, false, none, true⟩
  wear := []
  wearSeq := 0
  deviceCert := Config.deviceCert
  ops := []
  staging := none
  wearFull := false

/-- MEM.SCRUB.CTL after a cold or warm reset (R337). -/
def scrubReset : W64 := BitVec.ofNat 64 (2 ^ 63 + 2 ^ 62 + 12)

/-- The device right after the cold reset of power on (R430, R524, R526; values no rule gives are named in the log). -/
def State.reset : State where
  pending := []
  freeCtr := 2
  wire := []
  now := 0
  mem := []
  badSpans := []
  lostPcs := []
  knownZero := []
  dev := ⟨.romBoot, 0, 0, none, false, 0, 0, 0, true, true, true, false, 0, false, false⟩
  sup := ⟨0, 1, true, 0xF, 0, none, none⟩
  sec := ⟨0, none, none, [], 0, 0, [], [], 0, false, Config.rootKey, Config.uds, []⟩
  pwr := ⟨0, 0, 0, false, false, false, 0, false, 0, 0, [0, 0, 0, 0], 0, [], [], [], 0, [], []⟩
  flash := Flash.factory
  commit := none
  mbx := []
  bells := []
  mbxEpoch := BitVec.ofNat 24 (Config.freeNat 0)
  mirrorEpoch := BitVec.ofNat 24 (Config.freeNat 1)
  rings := []
  cores := []
  idleIslands := []
  spares := ⟨[], [], [], [], [], []⟩
  clusters := []
  quads := []
  health := ⟨0, 0, 0, 0, 0, 0, scrubReset, [], [], [], 0, 0, 0, 0, 0, 0⟩
  parts := []
  ctxs := []
  streams := []
  closeCtr := 0
  aports := []
  agroups := []
  ports := []
  macs := []
  qps := []
  deadQps := []
  lastEpochs := []
  cc := []
  mgmt := ⟨0, 0, 18515, 0, 0, none, []⟩
  poolLow := false
  archHeld := []
  tests := []
  nextTest := 0

end Sys2Proof.Machine
end

