-- ==== Sys2Proof/Machine/Ops.lean ====
section
/-! DEFINITION. The address map and the operations on memory (R300 to R309, R316, R333 to R336 of 10_memory.md). -/

namespace Sys2Proof.Machine

/-! ### Memory as canonical cells: addresses rising, no zero listed (log 5) -/

/-- One byte; an unlisted address reads 0. -/
def memGet (m : List Host.Cell) (a : Nat) : Byte :=
  match m with
  | [] => 0
  | (b, v) :: r => if b = a then v else memGet r a

/-- `n` bytes from an address. -/
def memRead (m : List Host.Cell) (a n : Nat) : Bytes := (List.range n).map (fun i => memGet m (a + i))

/-- The cells that spell bytes from an address; zero bytes are not listed. -/
def cellsOf (a : Nat) : Bytes → List Host.Cell
  | [] => []
  | b :: bs => if b = 0 then cellsOf (a + 1) bs else (a, b) :: cellsOf (a + 1) bs

/-- Memory with bytes written from an address. -/
def memWrite (m : List Host.Cell) (a : Nat) (bs : Bytes) : List Host.Cell :=
  m.filter (fun c => c.1 < a) ++ cellsOf a bs ++ m.filter (fun c => a + bs.length ≤ c.1)

/-- Memory with `n` bytes from an address set to zero. -/
def memZero (m : List Host.Cell) (a n : Nat) : List Host.Cell := m.filter (fun c => c.1 < a || a + n ≤ c.1)

/-- The canonical form: addresses strictly rising from `lo`, no zero byte listed. -/
def memWfFrom (lo : Nat) : List Host.Cell → Bool
  | [] => true
  | (a, v) :: r => lo ≤ a && v != 0 && memWfFrom (a + 1) r

/-- Memory is in its canonical form. -/
abbrev Memory.wf (m : List Host.Cell) : Prop := memWfFrom 0 m = true

/-! ### The address map (R300 to R302, R307) -/

def gib : Nat := 2 ^ 30
def hbmTop : Nat := 0x016800000000
def hbmResTop : Nat := 0x018000000000
def lpBase : Nat := 0x020000000000
def lpTop : Nat := 0x030000000000
def clusterBase : Nat := 0x0F0000000000
def clusterTop : Nat := 0x0F0030000000
def coreBase : Nat := 0x0F1000000000
def coreTop : Nat := 0x0F1060000000
def hubBase : Nat := 0x0F8000000000
def hubTop : Nat := 0x0F8004000000
def mbxBase : Nat := 0x0FF000000000
def mbxTop : Nat := 0x0FF000080000
def ctlBase : Nat := 0x0FFF00000000
def ctlTop : Nat := 0x0FFF00100000
/-- Mailbox pages in hub SRAM (R302). -/
def mbxPages : Nat := hubBase + 0x3E00000
/-- Meridian work lists (R302). -/
def workLists : Nat := hubBase + 0x3A00000
/-- Binding table (R393). -/
def bindingTable : Nat := hubBase + 0xAC0000
/-- The intake port and pool (R393, R399). -/
def intakePort : Nat := hubBase + 0xCC0000
/-- Size of the intake pool in bytes (R393). -/
def poolBytes : Nat := 0x29FFFFF + 1 - 0xCC0000
/-- Firmware data in hub SRAM (R302). -/
def fwData : Nat := hubBase + 0x3E80000
/-- The regions of hub SRAM (R34, R302). -/
inductive HubRegion where
  | ast | intake | archiveHead | workLists | mailboxes | firmware
  deriving DecidableEq, Repr

/-- The region that holds an offset of hub SRAM (R302). The archive head stages records on their way to their rings, where nobody but
the hub reaches them (R303, R463). -/
def hubRegion (off : Nat) : HubRegion :=
  if off < 0x200000 then .ast
  else if off < 0x2A00000 then .intake
  else if off < 0x3A00000 then .archiveHead
  else if off < 0x3E00000 then .workLists
  else if off < 0x3E80000 then .mailboxes
  else .firmware

/-- The window of a logical core. -/
def coreWin (n : Nat) : Nat := coreBase + n * 2 ^ 20
/-- The window of a device cluster. -/
def clusterWin (n : Nat) : Nat := clusterBase + n * 2 ^ 24
/-- The reserved block of a quadrant (R305). -/
def resBlock (q : Nat) : Nat := hbmTop + q * 0x600000000
/-- The areas of a quadrant's reserved block (R307). -/
inductive ResArea where
  | remapSpare | hbmChecks | lpChecks | archive | firmware
  deriving DecidableEq, Repr

/-- The area that holds an offset of a reserved block (R307). -/
def resArea (off : Nat) : ResArea :=
  if off < 0x200000000 then .remapSpare
  else if off < 0x380000000 then .hbmChecks
  else if off < 0x480000000 then .lpChecks
  else if off < 0x580000000 then .archive
  else .firmware

/-- The check values of a quadrant's HBM3E, and of its LPDDR5X (R307). -/
def hbmChecks (q : Nat) : Nat := resBlock q + 0x200000000
def lpChecks (q : Nat) : Nat := resBlock q + 0x380000000
/-- The plate archive records area of a quadrant (R307). -/
def archArea (q : Nat) : Nat := resBlock q + 0x480000000

/-! ### Places in DRAM (R305 to R311) -/

/-- Where a byte of DRAM lies: stack and pseudo-channel, or package and channel, and the byte within it. -/
structure Place where
  chip : Nat
  chan : Nat
  offset : Nat
  deriving DecidableEq, Repr

/-- The place of offset `o` of a quadrant's HBM3E range whose part of each pseudo-channel begins at `base` (R306). -/
def hbmAt (q base o : Nat) : Place :=
  let g := o / 1024
  ⟨3 * q + g % 3, g / 3 % 32, base + g / 96 * 1024 + o % 1024⟩

/-- The place of an HBM3E address, usable or reserved (R306). -/
def hbmPlace (a : Nat) : Place :=
  if a < hbmTop then hbmAt (a / 0x5A00000000) 0 (a % 0x5A00000000)
  else hbmAt ((a - hbmTop) / 0x600000000) 0xF0000000 ((a - hbmTop) % 0x600000000)

/-- The place of an LPDDR5X address (R311). -/
def lpPlace (a : Nat) : Place :=
  let o := (a - lpBase) % 0x4000000000
  let g := o / 1024
  ⟨2 * ((a - lpBase) / 0x4000000000) + g % 2, g / 2 % 4, g / 8 * 1024 + o % 1024⟩

/-- Granule `n` of the pseudo-channel that a quadrant's remap redirects lies at this address of the remap spare: the n-th granule
there that is not on the pseudo-channel itself (R327). -/
def spareGranule (q stack pc n : Nat) : Nat :=
  let own := 3 * pc + stack % 3
  resBlock q + 1024 * (96 * (n / 95) + (if n % 95 < own then n % 95 else n % 95 + 1))

/-- An address lies in one of the two check areas, which carry no check values of their own (R308). -/
def inChecks (a : Nat) : Bool :=
  decide (hbmTop ≤ a ∧ a < hbmResTop) &&
    (resArea ((a - hbmTop) % 0x600000000) == .hbmChecks || resArea ((a - hbmTop) % 0x600000000) == .lpChecks)

/-- Where the check value of a DRAM address's span lies (R308). -/
def checkAddr (a : Nat) : Option Nat :=
  if a < hbmTop then some (hbmChecks (a / 0x5A00000000) + a % 0x5A00000000 / 256 * 4)
  else if a < hbmResTop then
    if inChecks a then none
    else some (hbmChecks ((a - hbmTop) / 0x600000000) + (0x5A00000000 + (a - hbmTop) % 0x600000000) / 256 * 4)
  else if lpBase ≤ a ∧ a < lpTop then
    some (lpChecks ((a - lpBase) / 0x4000000000) + (a - lpBase) % 0x4000000000 / 256 * 4)
  else none

/-- The regions of R300 and R301; a hole is an offset of a window that names nothing. -/
inductive Region where
  | hbm | hbmRes | lpddr
  | cluster (n off : Nat)
  | core (n off : Nat)
  | hub (off : Nat)
  | mailbox (off : Nat)
  | control (off : Nat)
  | unmapped
  deriving DecidableEq, Repr

/-- The region of a device address. -/
def regionOf (a : Nat) : Region :=
  if a < hbmTop then .hbm
  else if a < hbmResTop then .hbmRes
  else if lpBase ≤ a && a < lpTop then .lpddr
  else if clusterBase ≤ a && a < clusterTop then .cluster ((a - clusterBase) / 2 ^ 24) ((a - clusterBase) % 2 ^ 24)
  else if coreBase ≤ a && a < coreTop then .core ((a - coreBase) / 2 ^ 20) ((a - coreBase) % 2 ^ 20)
  else if hubBase ≤ a && a < hubTop then .hub (a - hubBase)
  else if mbxBase ≤ a && a < mbxTop then .mailbox (a - mbxBase)
  else if ctlBase ≤ a && a < ctlTop then .control (a - ctlBase)
  else .unmapped

/-- Where an address is held: the mailbox region is backed by hub SRAM (R302). -/
def backing (a : Nat) : Nat := if mbxBase ≤ a && a < mbxTop then a - mbxBase + mbxPages else a

/-- The address holds bytes of memory: not a hole, not a register, not unmapped (R301). -/
def holdsBytes (a : Nat) : Bool :=
  match regionOf a with
  | .cluster _ off => off < 0x800000
  | .core _ off => off < 0x90000
  | .control _ => false
  | .unmapped => false
  | _ => true

/-- The bytes of a span are protected by a stored check value (R457). -/
def hasSpans (a : Nat) : Bool :=
  match regionOf (backing a) with
  | .hbm => true
  | .hbmRes => !inChecks a
  | .lpddr => true
  | .hub off => hubRegion off != .firmware
  | _ => false

/-- Bytes of memory, through the alias. -/
def State.read (s : State) (a n : Nat) : Bytes := memRead s.mem (backing a) n

/-- A little-endian word of memory. -/
def State.readNat (s : State) (a n : Nat) : Nat := bytesToNat (s.read a n)

/-- Span `k` is lost with a failed pseudo-channel and has not been written as a whole since (R328). -/
def LostPc.holds (l : LostPc) (k : Nat) : Bool :=
  let p := hbmPlace (256 * k)
  decide (256 * k < hbmResTop) && p.chip == l.stack && p.chan == l.pc && !(l.mended.any (fun r => r.1 ≤ k && k < r.1 + r.2))

/-- The spans of HBM3E that `n` bytes at an address cover as a whole hold data again. -/
def LostPc.mend (b n : Nat) (l : LostPc) : LostPc :=
  let first := ceilDiv b 256
  let count := (b + n) / 256 - first
  if hbmResTop ≤ b ∨ count = 0 then l else { l with mended := (first, count) :: l.mended }

/-- Bytes written to memory whatever the spans hold, with new check values for the spans wholly covered (R309, R462). -/
def State.writeRaw (s : State) (a : Nat) (bs : Bytes) : State :=
  let b := backing a
  { s with mem := memWrite s.mem b bs,
           badSpans := s.badSpans.filter (fun k => !(b ≤ 256 * k && 256 * k + 256 ≤ b + bs.length)),
           lostPcs := s.lostPcs.map (LostPc.mend b bs.length) }

/-- A little-endian number written to memory by Lortus or the hub. -/
def State.writeNat (s : State) (a n v : Nat) : State := s.writeRaw a (natToBytes n v)

/-- `n` bytes set to zero, check values and SECDED included (R316). -/
def State.zero (s : State) (a n : Nat) : State :=
  let b := backing a
  { s with mem := memZero s.mem b n,
           badSpans := s.badSpans.filter (fun k => !(b ≤ 256 * k && 256 * k + 256 ≤ b + n)),
           lostPcs := s.lostPcs.map (LostPc.mend b n) }

/-- The spans of a range whose check fails, those of failed pseudo-channels included (R328, R457). -/
def State.failing (s : State) (b n : Nat) : List Nat :=
  s.badSpans.filter (fun k => b < 256 * k + 256 && 256 * k < b + n)
    ++ (if s.lostPcs.isEmpty then []
        else ((List.range (ceilDiv (b % 256 + n) 256)).map (b / 256 + ·)).filter (fun k => s.lostPcs.any (·.holds k)))

/-- Every span of a range checks good. -/
def State.good (s : State) (a n : Nat) : Bool := n = 0 || (s.failing (backing a) n).isEmpty

/-- The check value that a good span's data give it (R308, R456); what the check area holds for a failing span is not known. -/
def State.checkValue (s : State) (k : Nat) : Option W32 :=
  if hasSpans (256 * k) && s.good (256 * k) 256 then some (crc32c (s.read (256 * k) 256)) else none

/-! ### Error counts and the error latch (R334 to R336) -/

/-- Latch an error in MEM.ERR.LAST, or set MORE (R336). -/
def latchError (last : W64) (e : MemError) : W64 :=
  if last.getLsbD 63 then last ||| BitVec.ofNat 64 (2 ^ 62)
  else BitVec.ofNat 64 (2 ^ 63 + place 59 3 e.kind.toNat + place 58 1 (flag e.scrub) + place 0 48 e.addr.toNat)

/-- Count and latch one memory error by its KIND (R334 to R336). -/
def State.memError (s : State) (e : MemError) : State :=
  let h := s.health
  let h := { h with last := latchError h.last e }
  let h := match e.kind.toNat with
    | 0 => { h with ceCnt := satAdd h.ceCnt 1 }
    | 1 => { h with ueCnt := satAdd h.ueCnt 1 }
    | 2 => { h with hbmCe := satAdd h.hbmCe 1 }
    | 3 => { h with hbmUe := satAdd h.hbmUe 1 }
    | 4 => { h with lpFail := satAdd h.lpFail 1 }
    | 5 => { h with hbmUe := satAdd h.hbmUe 1 }
    | _ => h
  { s with health := h }

/-- The kind of error that a failed span is (R336). -/
def errKind (a : Nat) : BitVec 3 :=
  match regionOf (backing a) with
  | .hbm => 5
  | .hbmRes => 5
  | .lpddr => 4
  | _ => 1

/-- The first failing span of a range. -/
def State.firstBad (s : State) (a n : Nat) : Nat :=
  let b := backing a
  (listMin? ((s.failing b n).map (256 * ·))).getD b

/-- Note the failed check of a range (R183, R324). -/
def State.noteBad (s : State) (a n : Nat) : State :=
  let k := s.firstBad a n
  s.memError ⟨errKind k, false, BitVec.ofNat 48 k⟩

/-- A store would cover only part of a failing span, and so must read the rest of it first (R309, R322). -/
def State.refuses (s : State) (a n : Nat) : Bool :=
  let b := backing a
  (s.failing b n).any (fun k => !(b ≤ 256 * k && 256 * k + 256 ≤ b + n))

/-- A store that respects R309: it is not performed where it covers only part of a failing span. -/
def State.write (s : State) (a : Nat) (bs : Bytes) : State :=
  if s.refuses a bs.length then s.noteBad a bs.length else s.writeRaw a bs

/-- Draw the next free value (log 3). -/
def State.free (s : State) : Nat × State := (Config.freeNat s.freeCtr, { s with freeCtr := s.freeCtr + 1 })

/-! ### Tables with defaults -/

def State.core (s : State) (n : Nat) : Core := tabGet s.cores Core.cold n
def State.setCore (s : State) (n : Nat) (c : Core) : State := { s with cores := tabPut s.cores n c }
def State.stream (s : State) (i : Nat) : Stream := tabGet s.streams Stream.empty i
def State.setStream (s : State) (i : Nat) (x : Stream) : State := { s with streams := tabPut s.streams i x }
def State.part? (s : State) (p : Nat) : Option Partition := tabGet? s.parts p
def State.setPart (s : State) (p : Nat) (x : Partition) : State := { s with parts := tabPut s.parts p x }
def State.ctx? (s : State) (c : Nat) : Option Context := tabGet? s.ctxs c
def State.setCtx (s : State) (c : Nat) (x : Context) : State := { s with ctxs := tabPut s.ctxs c x }
def State.mail (s : State) (m : Nat) : Mailbox := tabGet s.mbx (Mailbox.cold m) m
def State.setMail (s : State) (m : Nat) (x : Mailbox) : State := { s with mbx := tabPut s.mbx m x }
def State.ring (s : State) (r : Nat) : Ring := tabGet s.rings Ring.cold r
def State.setRing (s : State) (r : Nat) (x : Ring) : State := { s with rings := tabPut s.rings r x }
def State.cluster (s : State) (n : Nat) : ClusterState := tabGet s.clusters ClusterState.cold n
def State.setCluster (s : State) (n : Nat) (x : ClusterState) : State := { s with clusters := tabPut s.clusters n x }
def State.quad (s : State) (q : Nat) : QuadHealth := tabGet s.quads QuadHealth.cold q
def State.setQuad (s : State) (q : Nat) (x : QuadHealth) : State := { s with quads := tabPut s.quads q x }
def State.aport (s : State) (n : Nat) : APort := tabGet s.aports (APort.cold n) n
def State.setAport (s : State) (n : Nat) (x : APort) : State := { s with aports := tabPut s.aports n x }
def State.group (s : State) (g : Nat) : AGroup := tabGet s.agroups AGroup.cold g
def State.setGroup (s : State) (g : Nat) (x : AGroup) : State := { s with agroups := tabPut s.agroups g x }
def State.port (s : State) (p : Nat) : Port := tabGet s.ports Port.cold p
def State.setPort (s : State) (p : Nat) (x : Port) : State := { s with ports := tabPut s.ports p x }
def State.mac (s : State) (m : Nat) : Mac := tabGet s.macs Mac.cold m
def State.setMac (s : State) (m : Nat) (x : Mac) : State := { s with macs := tabPut s.macs m x }
def State.qp? (s : State) (q : Nat) : Option Qp := tabGet? s.qps q
def State.setQp (s : State) (q : Nat) (x : Qp) : State := { s with qps := tabPut s.qps q x }
def State.ccOf (s : State) (o : Nat) : CcParams := tabGet s.cc CcParams.default o

/-! ### What leaves the device (R391; log 4) -/

/-- The mark of a row of R391's table: RoCE data and ACK, congestion notification, RTP and RTCP, the rest. -/
def CcParams.mark (c : CcParams) (row : Nat) : Mark :=
  ⟨(c.dscp >>> (8 * row)).setWidth 6, (c.prio >>> (8 * row)).setWidth 3⟩

/-- The row of R391's table that marks an output; none for what is no frame of that table. -/
def Output.row : Output → Option Nat
  | .rdma _ _ | .ack _ _ | .nak _ _ | .readResponse _ _ | .atomicResponse _ _ => some 0
  | .cnp _ => some 1
  | .rtp _ _ _ _ _ _ _ _ _ _ _ | .rtpAgain _ _ | .rtcp _ _ _ _ _ _ _ => some 2
  | .arpReply _ _ _ _ _ | .ndReply _ _ _ _ _ | .echoReply _ _ _ _ | .resolve _ _ => some 3
  | .pause _ _ | .laneMap _ _ | .mgmt _ _ | .smbus _ _ | .wireWords _ _ _ | .clockPins _ _ | .heartbeat _ _ => none

/-- The owner whose settings mark an output: that of its queue pair, else control (log 24). -/
def State.markOwner (s : State) (o : Output) : Nat :=
  let own := fun (n : BitVec 24) => ((s.qp? n.toNat).map (·.owner)).getD 16
  match o with
  | .rdma n _ => own n
  | .ack n _ => own n
  | .nak n _ => own n
  | .readResponse n _ => own n
  | .atomicResponse n _ => own n
  | .cnp n => own n
  | _ => 16

/-- The mark of an output by the settings of its owner. -/
def State.markOf (s : State) (o : Output) : Option Mark := o.row.map (s.ccOf (s.markOwner o)).mark

/-- The mark of a stream's RTP and RTCP packets: DSCP_OUT of its binding, and its partition's priority. -/
def State.rtpMark (s : State) (x : Stream) : Mark :=
  { (s.ccOf x.part.val).mark 2 with dscp := BitVec.ofNat 6 (le x.binding 0x18 1) }

/-- Something leaves the device with its mark. -/
def State.depart (s : State) (o : Output) (mk : Option Mark) : State := { s with wire := ⟨o, mk⟩ :: s.wire }

/-- Send something out of the device (log 4). -/
def State.emit (s : State) (o : Output) : State := s.depart o (s.markOf o)

/-- The tables, changed at one entry. -/
def State.modCore (s : State) (n : Nat) (f : Core → Core) : State := s.setCore n (f (s.core n))
def State.modStream (s : State) (i : Nat) (f : Stream → Stream) : State := s.setStream i (f (s.stream i))
def State.modPart (s : State) (p : Nat) (f : Partition → Partition) : State :=
  match s.part? p with
  | some x => s.setPart p (f x)
  | none => s
def State.modCtx (s : State) (c : Nat) (f : Context → Context) : State :=
  match s.ctx? c with
  | some x => s.setCtx c (f x)
  | none => s
def State.modMail (s : State) (m : Nat) (f : Mailbox → Mailbox) : State := s.setMail m (f (s.mail m))
def State.modGroup (s : State) (g : Nat) (f : AGroup → AGroup) : State := s.setGroup g (f (s.group g))
def State.modAport (s : State) (n : Nat) (f : APort → APort) : State := s.setAport n (f (s.aport n))
def State.modPort (s : State) (p : Nat) (f : Port → Port) : State := s.setPort p (f (s.port p))
def State.modMac (s : State) (m : Nat) (f : Mac → Mac) : State := s.setMac m (f (s.mac m))
def State.modQp (s : State) (q : Nat) (f : Qp → Qp) : State :=
  match s.qp? q with
  | some x => s.setQp q (f x)
  | none => s

/-- The number of a device cluster's quadrant. -/
def quadOfCluster (n : Nat) : Nat := n / 12

/-- The time in nanoseconds as a number. -/
def State.time (s : State) : Nat := s.now.toNat

/-- The configuration slot that is CURRENT. -/
def State.currentCfg (s : State) : Option CfgSlot := s.flash.cfg.toList.find? (fun c => c.state == .current)

/-- The configuration slot that is STAGED. -/
def State.stagedCfg (s : State) : Option CfgSlot := s.flash.cfg.toList.find? (fun c => c.state == .staged)

end Sys2Proof.Machine
end

