-- ==== Sys2Proof/Machine/Regs.lean ====
section
/-! DEFINITION. The images of the registers as a 64-bit read returns them (R12 to R18 and the register maps of
01, 03, 04, 05, 10, 11, 12, 13, 14 and 16). -/

namespace Sys2Proof.Machine

/-- The code of a device state (R430). -/
def DevMode.code : DevMode → Nat
  | .off => 0 | .romBoot => 1 | .fwLoad => 2 | .init => 3 | .ready => 4 | .serving => 5 | .maintenance => 6 | .faulted => 7

/-- The code of a stream state (R60). -/
def StreamState.code : StreamState → Nat
  | .closed => 0 | .opening => 1 | .active => 2 | .stalled => 3 | .orphaned => 4 | .draining => 5

/-- A word from its fields. -/
def word (fields : List (Nat × Nat × Nat)) : W64 :=
  BitVec.ofNat 64 (fields.foldl (fun a f => a + place f.1 f.2.1 f.2.2) 0)

/-- DEV.STATE (R449). -/
def State.regDevState (s : State) : W64 :=
  let v := if s.dev.mode.code ≥ 3 then (s.currentCfg.map (fun c => c.version.toNat)).getD 0 else 0
  word [(32, 32, v), (8, 8, s.dev.faultCause), (0, 3, s.dev.mode.code)]

/-- HUB.SUP.STATUS (R450). -/
def State.regSup (s : State) : W64 :=
  word [(62, 2, s.sup.primary.val), (60, 2, s.sup.standby.val), (59, 1, flag s.sup.standbyValid),
        (52, 4, s.sup.working.toNat), (0, 8, s.sup.takeovers.toNat)]

/-- A 64-bit map with one bit per mailbox. -/
def State.mailMap (s : State) (f : Mailbox → Bool) : W64 :=
  BitVec.ofNat 64 ((List.range 64).foldl (fun a m => a + place m 1 (flag (f (s.mail m)))) 0)

/-- A queue pair binds the mailbox (R454). -/
def State.qpBound (s : State) (m : Nat) : Bool := s.qps.any (fun q => q.2.mailboxes.getLsbD m)

/-- HUB.MBX.OWNER[m] (R454). -/
def State.regOwner (s : State) (m : Nat) : W64 := word [(5, 1, flag (s.qpBound m)), (0, 5, (s.mail m).owner.toNat)]

/-- MEM.ERR.SRAM and MEM.ERR.DRAM (R334, R335). -/
def State.regErrSram (s : State) : W64 := word [(32, 32, s.health.ceCnt.toNat), (0, 32, s.health.ueCnt.toNat)]
def State.regErrDram (s : State) : W64 :=
  word [(32, 32, s.health.hbmCe.toNat), (16, 16, s.health.hbmUe.toNat), (0, 16, s.health.lpFail.toNat)]

/-- MEM.QUAD[q].STATUS (R338). -/
def QuadHealth.image (q : QuadHealth) : W64 :=
  word [(62, 2, q.remapState.toNat), (60, 2, q.stack.toNat), (55, 5, q.pc.toNat), (32, 16, q.pprSoft.toNat),
        (16, 16, q.pprHard.toNat), (8, 8, q.lpRemap.toNat)]

/-- MEM.CLS[n].STATUS (R339). -/
def ClusterState.image (c : ClusterState) : W64 :=
  word [(63, 1, flag c.fixed), (62, 1, flag c.owner.isSome), (58, 4, (c.owner.map (·.val)).getD 0),
        (16, 8, c.failedBanks.length), (0, 16, c.sparesUsed.toNat)]

/-- AUD.PORT[n].STATUS (R373). -/
def APort.image (p : APort) : W64 :=
  word [(36, 28, p.rate.toNat), (34, 1, flag p.clockLost), (33, 1, flag p.swap), (32, 1, flag p.run),
        (16, 16, p.under.toNat), (0, 16, p.overrun.toNat)]

/-- The group number and member position of a port's CTL word (R372). -/
def APort.groupNo (p : APort) : Nat := bits p.ctl.toNat 60 4
def APort.member (p : APort) : Nat := bits p.ctl.toNat 57 3
def APort.isOutput (p : APort) : Bool := bit p.ctl.toNat 56
def APort.thresh (p : APort) : Nat := bits p.ctl.toNat 48 8

/-- The ports that are members of a group, in port order. -/
def State.members (s : State) (g : Nat) : List Nat := (List.range 16).filter (fun n => (s.aport n).groupNo == g)

/-- At least one member runs (R376). -/
def State.groupRuns (s : State) (g : Nat) : Bool := (s.members g).any (fun n => (s.aport n).run)

/-- The fields of AUD.GROUP[g].CTL (R374). -/
def AGroup.rateHz (g : AGroup) : Nat := bits g.ctl.toNat 46 18
def AGroup.master (g : AGroup) : Bool := bit g.ctl.toNat 45
def AGroup.wordCode (g : AGroup) : Nat := bits g.ctl.toNat 43 2
def AGroup.wordBits (g : AGroup) : Nat := if g.wordCode = 0 then 16 else if g.wordCode = 1 then 24 else 32
def AGroup.gapReset (g : AGroup) : Bool := bit g.ctl.toNat 38
def AGroup.blockFrames (g : AGroup) : Nat := bits g.ctl.toNat 24 8
def AGroup.zcTimeout (g : AGroup) : Nat := bits g.ctl.toNat 14 10

/-- The RW fields of AUD.GROUP[g].HELIO (R377). -/
def AGroup.enable (g : AGroup) : Bool := bit g.helio.toNat 63
def AGroup.steerSlot (g : AGroup) : Nat := bits g.helio.toNat 42 4
def AGroup.target (g : AGroup) : Nat := bits g.helio.toNat 29 13
def AGroup.kp (g : AGroup) : Nat := bits g.helio.toNat 21 8
def AGroup.ki (g : AGroup) : Nat := bits g.helio.toNat 13 8
def AGroup.slew (g : AGroup) : Nat := bits g.helio.toNat 5 8
def AGroup.updateLog2 (g : AGroup) : Nat := bits g.helio.toNat 0 5

/-- A slot of a group. -/
def AGroup.slot (g : AGroup) (k : Nat) : ASlot := tabGet g.slots ASlot.cold k

/-- The steering slot of HELIO takes effect (R371). -/
def AGroup.latchSlot (g : AGroup) : AGroup := { g with slotNow := g.steerSlot }

/-- The heliostat's LEVEL: newest programme position of the steering slot in effect minus the play position (R362); 0 without a
bound steering slot (R376). -/
def AGroup.level (g : AGroup) : Int :=
  match (g.slot g.slotNow).stream, (g.slot g.slotNow).newest with
  | some _, some n => (n : Int) - g.frame.toNat
  | _, _ => 0

/-- AUD.GROUP[g].MASK, STATUS and HELIO (R375 to R377). -/
def AGroup.maskImage (g : AGroup) : W64 := word [(48, 16, g.shadow.toNat), (32, 16, g.active.toNat), (31, 1, flag g.pending.isSome)]
def State.groupStatus (s : State) (n : Nat) : W64 :=
  let g := s.group n
  word [(16, 48, g.frame.toNat), (3, 12, (min (max g.level 0) 4095).toNat), (1, 1, flag g.clockLost),
        (0, 1, flag (s.groupRuns n))]
def AGroup.helioImage (g : AGroup) : W64 :=
  setBits (setBits g.helio 62 1 (flag g.limit)) 46 16 ((g.steer % 65536).toNat)

/-- NET.PORT[p].STATUS (R408). -/
def State.portStatus (s : State) (p : Nat) : W64 :=
  let x := s.port p
  let link := (List.range 4).foldl (fun a k => a + place k 1 (flag (s.mac (4 * p + k)).up)) 0
  word [(60, 4, link), (58, 2, x.spareState.toNat), (56, 2, x.spareFor.toNat), (44, 8, x.pfcWd.toNat),
        (16, 16, x.fecCnt.toNat), (0, 16, x.laneFault.toNat)]

/-- INT.CHK.COUNTS and INT.REPLAY.STATUS (R491, R492). -/
def State.regChk (s : State) : W64 :=
  word [(32, 32, s.health.hopResend.toNat), (16, 16, s.health.exitFail.toNat), (8, 8, s.health.linkFail.toNat)]
def State.regReplay (s : State) : W64 :=
  word [(40, 24, s.health.replayCnt.toNat), (24, 16, s.health.maxUs.toNat), (8, 16, s.health.lastUs.toNat)]

/-- PWR.STATUS and DEV.RESET_CAUSE (R532, R533). -/
def State.regPwr (s : State) : W64 :=
  let p := s.pwr
  word [(48, 16, p.inputMv.toNat), (36, 12, p.powerW.toNat), (24, 12, p.capW.toNat), (7, 1, flag p.refLost),
        (6, 1, flag p.serdesLost), (5, 1, flag p.limiter), (3, 2, p.stage.toNat), (2, 1, flag p.capMiss)]
def State.regCause (s : State) : W64 :=
  word [(62, 2, s.dev.resetKind.toNat), (58, 4, s.dev.resetSource.toNat), (0, 16, s.dev.partResets.toNat)]

/-- A register of the device control block by its 8-byte-aligned offset; an offset that names none reads zero. -/
def State.ctlReg (s : State) (off : Nat) : W64 :=
  if off = 0x0 then s.regDevState
  else if off = 0x8 then s.regSup
  else if off = 0x1008 then s.mailMap (·.busy)
  else if off = 0x1010 then s.mailMap (·.lost)
  else if 0x1100 ≤ off && off < 0x1300 then s.regOwner ((off - 0x1100) / 8)
  else if off = 0x10000 then s.regErrSram
  else if off = 0x10008 then s.regErrDram
  else if off = 0x10010 then s.health.last
  else if off = 0x10018 then s.health.scrubCtl
  else if 0x10100 ≤ off && off < 0x10120 then (s.quad ((off - 0x10100) / 8)).image
  else if 0x10200 ≤ off && off < 0x10380 then (s.cluster ((off - 0x10200) / 8)).image
  else if 0x10400 ≤ off && off < 0x10580 then (s.cluster ((off - 0x10400) / 8)).banksOn
  else if 0x20000 ≤ off && off < 0x20100 then
    let p := s.aport ((off - 0x20000) / 16)
    if off % 16 = 0 then p.ctl else p.image
  else if 0x20100 ≤ off && off < 0x20300 then
    let n := (off - 0x20100) / 32
    let g := s.group n
    if off % 32 = 0 then g.ctl else if off % 32 = 8 then g.maskImage else if off % 32 = 16 then s.groupStatus n
    else g.helioImage
  else if 0x30000 ≤ off && off < 0x30040 then
    let p := (off - 0x30000) / 16
    if off % 16 = 0 then (s.port p).ctl else s.portStatus p
  else if off = 0x40000 then s.regChk
  else if off = 0x40008 then s.regReplay
  else if off = 0x50000 then s.regPwr
  else if off = 0x50008 then s.regCause
  else 0

/-! ### Where a logical core is (R24) -/

/-- The physical position of a logical core within its cluster (R24). -/
def State.posOf (s : State) (core : Nat) : Nat := tabGet s.spares.pos (core % 32) core

/-- The physical core number, 34 per cluster, of a logical core. -/
def State.physCore (s : State) (core : Nat) : Nat := core / 32 * 34 + s.posOf core

/-! ### What CORE.ENG.STALL counts between events: fields of MMUL (R202) and the stalls of its passes (R164, R190), from the hub
cycles that have passed (log 43) -/

/-- A field of a word. -/
def fld (w : InstrWord) (lo len : Nat) : Nat := bits w.toNat lo len
def mmPasses (w : InstrWord) : Nat := fld w 42 12
def mmBt (w : InstrWord) : Nat := fld w 36 6 + 1
/-- Tiles of the group, 0 for the reserved code. -/
def mmTiles (w : InstrWord) : Nat := [16, 8, 4, 0].getD (fld w 34 2) 0
/-- The logical tiles of the group. -/
def mmGroup (w : InstrWord) : List Nat := (List.range (mmTiles w)).map (fun t => mmTiles w * fld w 32 2 + t)
/-- The finished blocks not yet in the queue that the pass of a run must still write or add into (R164). -/
def Core.heldBlocks (c : Core) (r : MmulRun) : List Nat :=
  if mmPasses r.q.w ≤ r.pass then []
  else (c.finished.filter (fun f => (mmGroup r.q.w).contains f.entry.tile.val && 8 * f.entry.block.val < mmBt r.q.w)).map
    (·.entry.block.val)

/-- A pass cannot end while a block it needs holds a finished block not yet written into the queue (R164). -/
def Core.stalled (c : Core) (r : MmulRun) : Bool := !(c.heldBlocks r).isEmpty

/-- `n` core cycles in hub cycles. -/
def Core.cycles (c : Core) (n : Nat) : Nat := n * 1000 / max 1 c.effectiveMhz

/-- Hub cycles for which a run's group has stalled by time `t`: since its pass has come to the first block held. -/
def Core.stallNs (c : Core) (t : Nat) (r : MmulRun) : Nat :=
  match listMin? (c.heldBlocks r) with
  | some b => t - (r.start + c.cycles (8 * b))
  | none => 0

/-- Core cycles by time `t` with at least one group stalled that have not been counted. -/
def Core.stallCycles (c : Core) (t : Nat) : Nat := listMax (c.runs.map (c.stallNs t)) * c.effectiveMhz / 1000

/-- Entries of the tile queue for the vector engine (false) or the gate pipeline (true). -/
def Core.occ (c : Core) (gate : Bool) : Nat := (c.tq.filter (fun e => e.gate == gate)).length

/-- A register of a core's window by its offset (R187) but for the clock status; an offset that names none reads zero. -/
def Core.reg (c : Core) (off : Nat) : W64 :=
  if off = 0xF0100 then c.nanId
  else if off = 0xF0108 then word [(0, 48, c.nanStep.toNat)]
  else if off = 0xF0110 then word [(32, 32, c.isat.toNat), (0, 32, c.fsat.toNat)]
  else if off = 0xF0200 then c.tagCtl
  else if off = 0xF0208 then word [(0, 6, c.photSel.toNat)]
  else if off = 0xF0210 then
    let (a, n) := c.phot.getD c.photSel.toNat (0, 0)
    word [(32, 32, a.toNat), (0, 32, n.toNat)]
  else if off = 0xF0218 then word [(49, 1, flag c.gathering), (48, 1, flag c.merged), (0, 48, c.photStep.toNat)]
  else if off = 0xF0300 then
    word [(48, 16, c.parityCnt.toNat), (32, 16, c.residueCnt.toNat), (4, 1, flag c.lastTile.isSome),
          (0, 4, (c.lastTile.map (·.val)).getD 0)]
  else if off = 0xF0400 then
    word [(40, 6, c.occ false), (32, 6, c.occ true), (8, 6, c.highWater), (0, 1, flag c.watchdog)]
  else if off = 0xF0500 then word [(32, 32, c.queueFullCnt.toNat), (0, 32, c.scratchCnt.toNat)]
  else 0

/-- CORE.CLK.STATUS (R43). What droop has stretched since the cold reset and over the last microsecond is the silicon's own:
free values (log 3, log 29). -/
def State.clkStatus (s : State) (n : Nat) : W64 :=
  let c := s.core n
  let i := s.physCore n
  let t := s.now.toNat
  let fresh := c.stretchFrom == s.now
  word [(32, 32, if fresh then 0 else min (Config.stretched i c.stretchFrom.toNat t) (2 ^ 32 - 1)), (28, 1, flag c.retirePending),
        (27, 1, flag c.floorHeld), (16, 11, c.effectiveMhz - if fresh then 0 else Config.droopMhz i t), (0, 10, c.targetMhz)]

/-- A register of a core's window as the bus reads it; stalls that go on are counted to this moment. -/
def State.coreReg (s : State) (n off : Nat) : W64 :=
  let c := s.core n
  if off = 0xF0000 then s.clkStatus n
  else Core.reg { c with queueFullCnt := satAdd c.queueFullCnt (c.stallCycles s.time) } off

/-- One byte as a reader of the bus sees it: memory, a register's byte, or zero in a hole (R187, R301). -/
def State.busByte (s : State) (a : Nat) : Byte :=
  if holdsBytes a then memGet s.mem (backing a)
  else match regionOf a with
    | .core n off => BitVec.ofNat 8 ((s.coreReg n (off / 8 * 8)).toNat / 2 ^ (8 * (off % 8)))
    | .control off => BitVec.ofNat 8 ((s.ctlReg (off / 8 * 8)).toNat / 2 ^ (8 * (off % 8)))
    | _ => 0

/-- Bytes as a reader of the bus sees them. -/
def State.bus (s : State) : Reader := fun a n => (List.range n).map (fun i => s.busByte (a + i))

end Sys2Proof.Machine
end

