-- ==== Sys2Proof/Machine/Channels.lean ====
section
/-! DEFINITION. The channels of audio slots: the signal a slot plays and changes of it (R345, R363, R364). -/

namespace Sys2Proof.Machine

/-- T_zc and N_r in wire frames (R364). -/
def AGroup.zcFrames (g : AGroup) : Nat := (g.zcTimeout * g.rateHz + 5000) / 10000
def AGroup.rampFrames (g : AGroup) : Nat := (g.rateHz + 500) / 1000

/-- The signal of a slot without a pending change. -/
def ASlot.steady (k : ASlot) : Sig :=
  if !k.on || k.mute then .zero else if k.prog then .prog k.gain else .gen k.gain

/-- What the slot plays at this moment (R364): with a ramp under way the mixture it has reached. -/
def ASlot.playing (k : ASlot) (nr : Nat) : Sig :=
  match k.change with
  | none => k.steady
  | some c =>
    match c.ramp with
    | some r => if r = 0 then c.old else .mix c.old c.new r nr
    | none => c.old

/-- A change is requested; it replaces a pending one, whose waiting response stays with the slot (R364). -/
def ASlot.request (k : ASlot) (nr : Nat) (kind : ChangeKind) (mbx : Option (Fin 64)) (f : ASlot → ASlot) : ASlot :=
  let t := f k
  { t with change := some ⟨kind, k.playing nr, t.steady, 0, none, mbx.or (k.change.bind (·.mbx))⟩ }

/-- A change on a channel whose port does not run takes place at once (log 31). -/
def ASlot.requestIf (k : ASlot) (run : Bool) (nr : Nat) (kind : ChangeKind) (mbx : Option (Fin 64)) (f : ASlot → ASlot) :
    ASlot :=
  if run then k.request nr kind mbx f else { f k with change := none }

/-- The port that holds a slot's member position (R345). -/
def State.slotPort (s : State) (g k : Nat) : Option Nat := (s.members g).find? (fun n => (s.aport n).member == k / 2)

/-- The port of a slot runs. -/
def State.slotRuns (s : State) (g k : Nat) : Bool := ((s.slotPort g k).map (fun n => (s.aport n).run)).getD false

/-- Change a slot of a group. -/
def State.modSlot (s : State) (g k : Nat) (f : ASlot → ASlot) : State :=
  s.modGroup g (fun x => { x with slots := tabPut x.slots k (f (x.slot k)) })

end Sys2Proof.Machine
end

