-- ==== Sys2Proof/Machine/Link.lean ====
section
/-! DEFINITION. Queue pairs as Lortus, the hub and the DMA units use them: looking one up, sending messages, keys
(R384 to R389 of 12_network.md). -/

namespace Sys2Proof.Machine

/-- The path MTU in bytes of the codes 1 to 5 (R433). -/
def Qp.mtuBytes (q : Qp) : Nat := 128 * 2 ^ q.mtu

/-- A queue pair of a partition under reset carries no outbound traffic but that of step 6: the completion (R525; log 41). -/
def State.carries (s : State) (q : Qp) : Bool :=
  !q.refuse || (((s.part? q.owner).bind (·.resetting)).map (·.2)).getD false

/-- The connected queue pair of an owner to a device number (R384) that may send. -/
def State.qpFor (s : State) (owner : Nat) (peer : Nat) : Option (Nat × Qp) :=
  s.qps.find? (fun q => q.2.owner == owner && q.2.state == .connected && q.2.peer.toNat == peer && s.carries q.2)

/-- The remote virtual address of a domain address (R388). -/
def Qp.remoteVa (q : Qp) (a : W64) : W64 :=
  if q.host then q.vaBase + BitVec.ofNat 64 (a.toNat % 2 ^ 48) else a

/-- The device number of a domain address (R11). -/
def devOf (a : W64) : Nat := a.toNat / 2 ^ 51

/-- Packets of a message: one at least (R385). -/
def Qp.packets (q : Qp) (n : Nat) : Nat := max 1 (ceilDiv n q.mtuBytes)

/-- The messages that are under way: in order, up to the one with which more than 16 READs would be outstanding (R383). -/
def underWay : List OutMsg → Nat → List OutMsg
  | [], _ => []
  | o :: r, n =>
    if o.kind == .read then (match n with
      | 0 => []
      | k + 1 => o :: underWay r k)
    else o :: underWay r n

/-- Messages of a queue pair that may be sent now and were not under way before are sent. -/
def State.sendNew (s : State) (qpn : Nat) (before after : List OutMsg) : State :=
  ((underWay after 16).filter (fun o => !(underWay before 16).any (fun v => v.last == o.last))).foldl
    (fun t o => t.emit (.rdma (BitVec.ofNat 24 qpn) o)) s

/-- Send a message on a queue pair under a key: PSNs in order, kept until acknowledged (R383, R389); its ACK timeout starts with
the first message under way. -/
def State.sendKeyed (s : State) (qpn : Nat) (q : Qp) (kind : MsgKind) (va : W64) (key : BitVec 32) (data : Bytes) (len : Nat)
    (use : MsgUse) : State :=
  let k := q.packets (if kind == .read then len else data.length)
  let m : OutMsg := ⟨q.sqNext, q.sqNext + BitVec.ofNat 24 (k - 1), kind, va, key, data, len, use⟩
  let s := s.setQp qpn { q with sqNext := q.sqNext + BitVec.ofNat 24 k, out := q.out ++ [m],
                                timer := if q.out.isEmpty then s.now else q.timer }
  if (underWay (q.out ++ [m]) 16).length = q.out.length + 1 then s.emit (.rdma (BitVec.ofNat 24 qpn) m) else s

/-- Send a message under the key that NET_QP_CONNECT named (R388). -/
def State.sendOn (s : State) (qpn : Nat) (q : Qp) (kind : MsgKind) (va : W64) (data : Bytes) (len : Nat) (use : MsgUse) :
    State := s.sendKeyed qpn q kind va q.remoteKey data len use

/-- Write bytes to a domain address over the owner's queue pair; `none` when no queue pair serves. -/
def State.writeDomain (s : State) (owner : Nat) (a : W64) (data : Bytes) (use : MsgUse) : Option State :=
  match s.qpFor owner (devOf a) with
  | some (n, q) => some (s.sendOn n q .write (q.remoteVa a) data 0 use)
  | none => none

/-- Distance from one PSN on to another, modulo 2^24. -/
def psnDist (a b : BitVec 24) : Nat := (b - a).toNat

/-- An R_Key from its fields (R386). -/
def rKey (kind part : Nat) (epoch : BitVec 24) : BitVec 32 :=
  BitVec.ofNat 32 (kind * 2 ^ 28 + part % 16 * 2 ^ 24 + epoch.toNat)

/-- The line rate of a MAC in Mb/s under its port's breakout, or the next lower one it has retrained at (R379, R381). -/
def State.lineMbps (s : State) (mac : Nat) : Nat :=
  400000 / 2 ^ min 2 ((s.port (mac / 4)).breakout.toNat + (s.mac mac).degraded)

/-! ### Next hops (R380) -/

/-- An IPv4 address in the ::ffff:a.b.c.d form of R393. -/
def mapped4 (a : BitVec 32) : BitVec 128 := BitVec.ofNat 128 (0xFFFF * 2 ^ 32 + a.toNat)

/-- The next hop of a MAC to an address: the address itself under the MAC's own prefix, else the gateway. -/
def Mac.nextHop (x : Mac) (ip : BitVec 128) : BitVec 128 :=
  if ip.toNat / 2 ^ 32 = 0xFFFF then
    let sh := 32 - min 32 x.prefix4.toNat
    let low := ip.toNat % 2 ^ 32
    if low / 2 ^ sh = x.ip4.toNat / 2 ^ sh || x.gw4 = 0 then ip else mapped4 x.gw4
  else
    let sh := 128 - min 128 x.prefix6.toNat
    if ip.toNat / 2 ^ sh = x.ip6.toNat / 2 ^ sh || x.gw6 = 0 then ip else x.gw6

/-- A MAC is about to send to an address: an unknown next hop is asked for, once. -/
def State.needHop (s : State) (m : Nat) (ip : BitVec 128) : State :=
  let x := s.mac m
  let hop := x.nextHop ip
  if ip = 0 || x.hops.any (fun h => h.1 == hop) || x.resolving.contains hop then s
  else (s.setMac m { x with resolving := x.resolving ++ [hop] }).emit (.resolve (Fin.ofNat 16 m) hop)

/-- MACs that a breakout of a port has (R379). -/
def breakoutMacs (b : Nat) : Nat := if b = 0 then 1 else if b = 1 then 2 else 4

end Sys2Proof.Machine
end

