-- ==== Sys2Proof/Machine/Events.lean ====
section
/-! DEFINITION. Event rings, records and doorbell packets (R425 to R429, R537), the wear history (R482, R485). -/

namespace Sys2Proof.Machine

/-- Fields packed under R415: each at the next multiple of its size, of 8 for sizes above 8. -/
def pack (fs : List Bytes) : Bytes :=
  fs.foldl (fun acc b =>
    let al := if b.length > 8 then 8 else max b.length 1
    padTo (alignUp al acc.length) acc ++ b) []

/-- Little-endian fields of one, two, four and eight bytes. -/
def b1 (v : Nat) : Bytes := natToBytes 1 v
def b2 (v : Nat) : Bytes := natToBytes 2 v
def b4 (v : Nat) : Bytes := natToBytes 4 v
def b8 (v : Nat) : Bytes := natToBytes 8 v

/-- A signed number in two bytes. -/
def i2 (v : Int) : Bytes := natToBytes 2 (intCode 16 v)

/-- A record of R426 with LOST and SEQ still zero. -/
def recordOf (kind part code status mailbox tag handle : Nat) (data : Bytes) : Bytes :=
  b2 kind ++ b1 part ++ b1 0 ++ b4 0 ++ b2 code ++ b2 status ++ b1 mailbox ++ zeros 3 ++ b8 tag ++ b4 handle ++ zeros 4
    ++ padTo 32 data

/-- A ring may be written: its count of unread records, by SEQ modulo 2^32, leaves a free entry (R426, R427). -/
def Ring.free (r : Ring) (seq : Nat) : Bool := (seq + 2 ^ 32 - r.cons % 2 ^ 32) % 2 ^ 32 < r.entries

/-- Send a doorbell packet, or withhold it within 10 microseconds of the last one (R428). -/
def State.bellPacket (s : State) (n : Nat) (seq : Nat) : State :=
  let r := s.ring n
  let early : Bool := match r.lastPacket with
    | some t => s.time < t.toNat + 10000
    | none => false
  if !r.packets then s
  else if early then s.setRing n { r with withheld := true }
  else match s.qp? r.qpn.toNat with
    | some q =>
      if q.state == .connected && s.carries q then
        (s.setRing n { r with lastPacket := some s.now, withheld := false }).sendOn r.qpn.toNat q .send 0
          (b1 n ++ zeros 3 ++ b4 seq ++ zeros 8) 0 .other
      else s
    | none => s

/-- Write one record into its entry by a 64-byte RDMA WRITE; `none` while no queue pair serves or the ring is full. -/
def State.putRecord (s : State) (n : Nat) (bs : Bytes) : Option State :=
  let r := s.ring n
  let seq := le bs 4 4
  match s.qp? r.qpn.toNat with
  | some q =>
    if q.state == .connected && s.carries q && r.free seq then
      let a := r.addr + BitVec.ofNat 64 (64 * (seq % r.entries))
      some ((s.sendOn r.qpn.toNat q .write (q.remoteVa a) bs 0 .other).bellPacket n seq)
    else none
  | none => none

/-- Step 4 of R419: BUSY is cleared, and a rebinding of the mailbox applies (R433). -/
def State.freeMail (s : State) (m : Nat) : State :=
  s.modMail m (fun x => { x with busy := false, running := false, takeover := false, rebind := none,
                                 owner := x.rebind.getD x.owner })

/-- The mailbox of a completion record is freed once the record is written, or will not be (R419). -/
def State.freeFor (s : State) (bs : Bytes) : State := if le bs 0 2 = 1 then s.freeMail (le bs 12 1) else s

/-- A ring that is set anew or disabled receives nothing further; the commands whose records wait for it end (log 41). -/
def State.cutRing (s : State) (n : Nat) (r : Ring) : State :=
  ((s.ring n).waiting.foldl (fun t bs => t.freeFor bs) s).setRing n r

/-- Write waiting records in order while they can be written; each completion record frees its mailbox (R419, R427). -/
def State.drainRing : Nat → State → Nat → State
  | 0, s, _ => s
  | k + 1, s, n =>
    match (s.ring n).waiting with
    | [] => s
    | bs :: rest =>
      match s.putRecord n bs with
      | some t => State.drainRing k ((t.setRing n { t.ring n with waiting := rest }).freeFor bs) n
      | none => s

/-- Give a record its SEQ and LOST and write it, or let it wait behind others, or drop it beyond 256 waiting events (R427). -/
def State.postRecord (s : State) (n : Nat) (bs : Bytes) : State :=
  let r := s.ring n
  let event := le bs 0 2 == 2
  if event && (r.waiting.filter (fun w => le w 0 2 == 2)).length ≥ 256 then
    s.setRing n { r with dropped := r.dropped + 1 }
  else
    let rec' := patch (patch bs 3 (b1 (min r.dropped 255))) 4 (b4 r.seq.toNat)
    let s := s.setRing n { r with seq := r.seq + 1, dropped := 0 }
    let later := s.setRing n { s.ring n with waiting := r.waiting ++ [rec'] }
    if r.waiting.isEmpty then (s.putRecord n rec').getD later else later

/-- Raise an event: every enabled ring whose class bit is set and whose owner is control or the record's partition
receives it (R425, R429). `part` is 0xFF for a device-wide event. -/
def State.raise (s : State) (code part tag handle : Nat) (data : Bytes) : State :=
  (List.range 16).foldl (fun s n =>
    let r := s.ring n
    if r.enabled && r.mask.getLsbD (code / 256 - 0x80) && (r.owner == 16 || r.owner.toNat == part) then
      s.postRecord n (recordOf 2 part code 0 0xFF tag handle data)
    else s) s

/-- Raise a device-wide event. -/
def State.raiseDev (s : State) (code : Nat) (data : Bytes) : State := s.raise code 0xFF 0 0 data

/-- Raise a partition's event. -/
def State.raisePart (s : State) (code part : Nat) (data : Bytes) : State := s.raise code part 0 0 data

/-- Raise a stream's event with its HOST_TAG and handle. -/
def State.raiseStream (s : State) (code i : Nat) (data : Bytes) : State :=
  let x := s.stream i
  s.raise code x.part.val x.hostTag.toNat x.handle.toNat data

/-- Change the device state and raise the event of class 0x81 (R429, R430). -/
def State.setMode (s : State) (m : DevMode) : State :=
  let old := s.dev.mode
  { s with dev := { s.dev with mode := m } }.raiseDev 0x8101 (pack [b1 old.code, b1 m.code])

/-! ### The wear history -/

/-- A unit record of R482 with SEQ zero. -/
def unitRecord (unit phys kind status core value power : Nat) : Bytes :=
  b8 unit ++ b4 phys ++ b1 kind ++ b1 status ++ b2 core ++ b8 value ++ b4 0 ++ b4 power

/-- The whole minutes of POWER_MIN (R482). -/
def State.powerMin (s : State) : Nat := s.dev.powerNs / 60000000000

/-- A wear record that may give way: an ageing sample or a test result (R485). -/
def givesWay (r : Bytes) : Bool := le r 12 1 == 6 || le r 12 1 == 5

/-- Remove the oldest record that may give way. -/
def dropWeak : List Bytes → Option (List Bytes)
  | [] => none
  | r :: rs => if givesWay r then some rs else (dropWeak rs).map (r :: ·)

/-- A wear record reaches the flash: it holds 65,536; the oldest weak record gives way, else the record is not written and
wear-history-full is raised once after each reset (R485). -/
def State.wearStore (s : State) (rec' : Bytes) : State :=
  let f := s.flash
  let r := patch rec' 24 (b4 f.wearSeq)
  if f.wear.length < 65536 then
    { s with flash := { f with wear := f.wear ++ [r], wearSeq := f.wearSeq + 1 } }
  else match dropWeak f.wear with
    | some l => { s with flash := { f with wear := l ++ [r], wearSeq := f.wearSeq + 1 } }
    | none =>
      if f.wearFull then s
      else { s with flash := { f with wearFull := true } }.raiseDev 0x8907 (b1 (le r 12 1))

/-- Queue a flash write; FLASH_WRITE_DONE ends it (R440). -/
def State.flashOp (s : State) (o : FlashOp) : State := { s with flash := { s.flash with ops := s.flash.ops ++ [o] } }

/-- Lortus writes a wear record (R482, R485). -/
def State.wear (s : State) (unit phys kind status core value : Nat) : State :=
  s.flashOp (.wear (unitRecord unit phys kind status core value s.powerMin))

/-- A unit identifier (R481). -/
def unitId (kind a b : Nat) : Nat := kind * 2 ^ 56 + a % 65536 * 2 ^ 32 + b % 65536 * 2 ^ 16

/-- PHYS of R482. -/
def physOf (quad cluster pos sub : Nat) : Nat :=
  quad % 4 * 2 ^ 30 + cluster % 16 * 2 ^ 24 + pos % 256 * 2 ^ 16 + sub % 256 * 2 ^ 8

/-- PHYS of a logical core, with a tile or none. -/
def State.corePhys (s : State) (core sub : Nat) : Nat :=
  physOf (core / 384) (core / 32 % 12) (s.posOf core) sub


end Sys2Proof.Machine
end

