-- ==== Sys2Proof/Machine/Mail.lean ====
section
/-! DEFINITION. Mailboxes: doorbells, the checks of a command, responses and their delivery (R413 to R424, R431, R432). -/

namespace Sys2Proof.Machine

/-! ### Status codes (R424) -/
def stOk : Nat := 0
def stUnknown : Nat := 1
def stParam : Nat := 2
def stState : Nat := 3
def stStale : Nat := 4
def stNoEntry : Nat := 5
def stAdmission : Nat := 6
def stTarget : Nat := 7
def stBusy : Nat := 8
def stDenied : Nat := 9
def stNoResource : Nat := 10
def stDigest : Nat := 11
def stRemote : Nat := 12
def stAborted : Nat := 13
def stImage : Nat := 14
def stFlash : Nat := 15
def stSignature : Nat := 16
def stCounter : Nat := 17

/-! ### Pages -/

/-- The command page of a mailbox in memory (R413). -/
def cmdPage (m : Nat) : Nat := mbxBase + m * 0x2000
/-- Its response page. -/
def respPageAddr (m : Nat) : Nat := mbxBase + m * 0x2000 + 0x1000

/-- A response page (R416). -/
def respPage (code status detail tag seq flags : Nat) (data : Bytes) : Bytes :=
  padTo 4096 (b2 code ++ b2 status ++ b2 data.length ++ b2 detail ++ b8 tag ++ b4 seq ++ b4 flags ++ zeros 40 ++ data)

/-- Offsets of fields under R415, from 0x40. -/
def fieldOffsFrom (pos : Nat) : List Nat → List Nat
  | [] => []
  | n :: ns =>
    let al := if n > 8 then 8 else max n 1
    let o := alignUp al pos
    o :: fieldOffsFrom (o + n) ns

/-- Offsets of the parameters of a command. -/
def fieldOffs (sizes : List Nat) : List Nat := fieldOffsFrom 0x40 sizes

/-- The number in parameter `i`. -/
def par (sizes : List Nat) (pg : Bytes) (i : Nat) : Nat := le pg ((fieldOffs sizes).getD i 0) (sizes.getD i 0)

/-- The bytes of parameter `i`. -/
def parB (sizes : List Nat) (pg : Bytes) (i : Nat) : Bytes := slice pg ((fieldOffs sizes).getD i 0) (sizes.getD i 0)

/-- Where the parameters end. -/
def paramsEnd (sizes : List Nat) : Nat :=
  match (fieldOffs sizes).getLast?, sizes.getLast? with
  | some o, some n => o + n
  | _, _ => 0x40

/-- The first byte that is not zero in a range. -/
def firstNonzero (pg : Bytes) (off n : Nat) : Option Nat := (List.range n).findSome? (fun i =>
  if pg.getD (off + i) 0 = 0 then none else some (off + i))

/-- The first gap between parameters that is not zero (R415). -/
def gapFault (pg : Bytes) (pos : Nat) : List Nat → Option Nat
  | [] => none
  | n :: ns =>
    let al := if n > 8 then 8 else max n 1
    let o := alignUp al pos
    match firstNonzero pg pos (o - pos) with
    | some f => some f
    | none => gapFault pg (o + n) ns

/-- The codes of R433. -/
def cmdCodes : List Nat :=
  [0x101, 0x102, 0x103, 0x104, 0x105, 0x106, 0x107, 0x108, 0x201, 0x202, 0x203, 0x204, 0x205, 0x206, 0x301, 0x302, 0x303,
   0x304, 0x401, 0x402, 0x403, 0x501, 0x502, 0x503, 0x504, 0x505, 0x506, 0x507, 0x601, 0x602, 0x603, 0x604, 0x605, 0x606,
   0x607, 0x608, 0x701, 0x702, 0x703, 0x704, 0x705, 0x706, 0x707, 0x708, 0x801, 0x802, 0x901, 0x902, 0x903, 0x904, 0x905,
   0xA01, 0xA02, 0xA03, 0xA04, 0xA05, 0xB01, 0xB02, 0xB03]

/-! ### Responses (R419) -/

/-- The record partition of a mailbox: its own, or 0xFF for control. -/
def Mailbox.partByte (mb : Mailbox) : Nat := if mb.owner.toNat < 16 then mb.owner.toNat else 0xFF

/-- The stream handle that a command or its response names (R426). -/
def handleOf (pg resp : Bytes) : Nat :=
  let code := le pg 0 2
  if code = 0x501 then (if le resp 2 2 = 0 then le resp 0x40 4 else 0)
  else if code / 256 = 5 || code = 0x801 then le pg 0x40 4 else 0

/-- Steps 3 and 4 of R419: the completion record, then BUSY is cleared; while the record waits for its ring, BUSY stays. -/
def State.finishCmd (s : State) (m : Fin 64) : State :=
  let mb := s.mail m
  let pg := mb.copy
  let resp := (mb.kept.map (·.2)).getD []
  let n := le pg 6 1
  let r := s.ring n
  if bit (le pg 2 2) 0 && r.enabled && r.mask.getLsbD 0 && (r.owner == 16 || r.owner == mb.owner) then
    let t := s.postRecord n (recordOf 1 mb.partByte (le resp 0 2) (le resp 2 2) m.val (le pg 8 8) (handleOf pg resp)
      (slice resp 0x40 32))
    if (t.ring n).waiting.isEmpty then t.freeMail m
    else t.modMail m (fun x => { x with running := false, takeover := false })
  else s.freeMail m

/-- The flags word of a response page with bits changed. -/
def withFlags (page : Bytes) (f : Nat → Nat) : Bytes := patch page 0x14 (b4 (f (le page 0x14 4)))

/-- R419 for a response page, by FLAGS, RESP_ADDR and RING of the command page (R420). -/
def State.deliver (s : State) (m : Fin 64) (page : Bytes) : State :=
  let mb := s.mail m
  let pg := mb.copy
  if bit (le pg 2 2) 1 then
    let a := BitVec.ofNat 64 (le pg 0x10 8)
    let sent := if devOf a = s.dev.deviceNo.toNat then none
      else (s.writeRaw (respPageAddr m) page).writeDomain mb.owner.toNat a page (.response m)
    match sent with
    | some t => t
    | none => (s.writeRaw (respPageAddr m) (withFlags page (· + 4))).finishCmd m
  else (s.writeRaw (respPageAddr m) page).finishCmd m

/-- Complete the command of a mailbox (R419), keeping its response (R420). -/
def State.respondX (s : State) (m : Fin 64) (status detail : Nat) (image : Bool) (data : Bytes) : State :=
  let mb := s.mail m
  let pg := mb.copy
  let flags := flag mb.takeover + 8 * flag image
  let page := respPage (le pg 0 2) status detail (le pg 8 8) (le pg 0x18 4) flags data
  let s := s.setMail m { mb with kept := some (BitVec.ofNat 32 (le pg 0x18 4), page) }
  s.deliver m page

/-- Complete a command with a status, DETAIL and response data. -/
def State.respond (s : State) (m : Fin 64) (status detail : Nat) (data : Bytes) : State :=
  s.respondX m status detail false data

/-- Complete a command with OK. -/
def State.ok (s : State) (m : Fin 64) (data : Bytes) : State := s.respond m stOk 0 data

/-- Complete a command with a failure that has no DETAIL. -/
def State.fail (s : State) (m : Fin 64) (status : Nat) : State := s.respond m status 0 []

/-- The command goes on in the background (R422). -/
def State.background (s : State) (m : Fin 64) : State := s.modMail m (fun mb => { mb with running := true })

/-- The acknowledgement of a response copy will not come: FLAGS bit 2 is set and the command finishes (log 9). -/
def State.respLost (s : State) (m : Fin 64) : State :=
  let page := ((s.mail m).kept.map (·.2)).getD []
  (s.writeRaw (respPageAddr m) (withFlags page (· + 4))).finishCmd m

/-! ### Doorbells (R418, R420, R421, R431) -/

/-- Set a mailbox's LOST bit. -/
def State.setLost (s : State) (m : Fin 64) : State := s.modMail m (fun mb => { mb with lost := true })

/-- A doorbell on a mailbox: ignored with LOST in the states that serve none, without an owner, or when busy; else the
page is copied, a repeated SEQ is answered again, an unassigned code is answered, and any other command waits its turn. -/
def State.ringDoorbell (s : State) (m : Fin 64) : State :=
  let mb := s.mail m
  let code := s.dev.mode.code
  if code = 0 then s
  else if code ≤ 3 || mb.owner == 31 || mb.busy then s.setLost m
  else
    let pg := s.read (cmdPage m) 4096
    let s := s.setMail m { mb with busy := true, copy := pg, running := false, takeover := false }
    match mb.kept with
    | some (seq, page) =>
      if seq.toNat = le pg 0x18 4 then
        let again := withFlags page (fun f => f + 2)
        s.deliver m again
      else if cmdCodes.contains (le pg 0 2) then { s with bells := s.bells ++ [m] }
      else s.respond m stUnknown 0 []
    | none =>
      if cmdCodes.contains (le pg 0 2) then { s with bells := s.bells ++ [m] }
      else s.respond m stUnknown 0 []

/-! ### The checks of a command (R423) -/

/-- What R423 checks of a command: its code, whether P marks it, its parameter sizes, whether a partition may name what
it names, its first faulty field, and where a stream handle lies. -/
structure CmdSpec where
  code : Nat
  part : Bool
  sizes : List Nat
  own : State → Nat → Bytes → Bool
  range : State → Bytes → Option Nat
  handle : Option Nat

/-- A command without parameters that only control may issue. -/
def CmdSpec.plain (code : Nat) : CmdSpec := ⟨code, false, [], fun _ _ _ => true, fun _ _ => none, none⟩

/-- A command with parameters that only control may issue. -/
def CmdSpec.ctl (code : Nat) (sizes : List Nat) (range : Bytes → Option Nat) : CmdSpec :=
  ⟨code, false, sizes, fun _ _ _ => true, fun _ pg => range pg, none⟩

/-- A command that a partition may issue too, for what is its own. -/
def CmdSpec.shared (code : Nat) (sizes : List Nat) (own : State → Nat → Bytes → Bool) (range : Bytes → Option Nat) : CmdSpec :=
  ⟨code, true, sizes, own, fun _ pg => range pg, none⟩

/-- A handle is stale (R56). -/
def State.stale (s : State) (h : Nat) : Bool :=
  let g := h / 2 ^ 14
  g == 0 || (s.stream (h % 2 ^ 14)).gen.toNat != g

/-- A command whose first parameter is a stream handle, for streams of the mailbox's partition; a stale handle names none. -/
def CmdSpec.stream (code : Nat) (sizes : List Nat) (range : Bytes → Option Nat) : CmdSpec :=
  ⟨code, true, sizes, fun s o pg => s.stale (le pg 0x40 4) || (s.stream (le pg 0x40 4 % 2 ^ 14)).part.val == o, fun _ pg => range pg, some 0x40⟩

/-- A state serves a command (R430 to R432). -/
def served (m : DevMode) (code : Nat) : Bool :=
  match m with
  | .ready => true
  | .serving => true
  | .maintenance => [1, 2, 7, 8, 9, 10, 11].contains (code / 256)
  | .faulted => [0x101, 0x103, 0x107, 0x104, 0x902, 0x904, 0xA01, 0xA02].contains code || code / 256 == 11
  | _ => false

/-- A domain address is well formed (R11). -/
def domainOk (a : Nat) : Bool := bits a 48 3 == 0

/-- The first faulty header field (R414); RESP_ADDR is a domain address wherever it stands (R11). -/
def headerFault (pg : Bytes) (sizes : List Nat) : Option Nat :=
  if le pg 2 2 ≥ 4 then some 2
  else if le pg 4 2 > 4032 || 0x40 + le pg 4 2 < paramsEnd sizes then some 4
  else if le pg 6 1 > 15 then some 6
  else if le pg 7 1 ≠ 0 then some 7
  else if !domainOk (le pg 0x10 8) then some 0x10
  else firstNonzero pg 0x1C 36

/-- The first faulty parameter in the page: a gap that is not zero, or a value out of range (R415, R416). -/
def CmdSpec.paramFault (c : CmdSpec) (s : State) (pg : Bytes) : Option Nat :=
  listMin? ((gapFault pg 0x40 c.sizes).toList ++ (c.range s pg).toList)

/-- The first failure of R423, as status and DETAIL. -/
def State.checkCmd (s : State) (mb : Mailbox) (c : CmdSpec) : Option (Nat × Nat) :=
  let pg := mb.copy
  let o := mb.owner.toNat
  let ringOk := !bit (le pg 2 2) 0 || le pg 6 1 > 15 || (s.ring (le pg 6 1)).owner.toNat == o
  if o ≠ 16 && (!c.part || !c.own s o pg || !ringOk) then some (stDenied, 0)
  else match headerFault pg c.sizes with
    | some f => some (stParam, f)
    | none =>
      match c.paramFault s pg with
      | some f => some (stParam, f)
      | none =>
        if !served s.dev.mode c.code then some (stState, 0)
        else match c.handle with
          | some h => if s.stale (le pg h 4) then some (stStale, 0) else none
          | none => none

/-- Lortus runs the command of a mailbox when it is the first in doorbell order and its page has the code (R422). -/
def State.runCmd (s : State) (m : Fin 64) (c : CmdSpec) (body : Bytes → State → State) : State :=
  let mb := s.mail m
  if mb.busy && s.bells.head? == some m && le mb.copy 0 2 == c.code then
    let s := { s with bells := s.bells.tail }
    match s.checkCmd mb c with
    | some (st, d) => s.respond m st d []
    | none => body mb.copy s
  else s

/-- Lortus reads or writes host memory for a command over a queue pair of the mailbox's owner: such a queue pair is
connected and the address names another endpoint (R433). -/
def State.hostReach (s : State) (m : Fin 64) (a : W64) : Bool :=
  devOf a != s.dev.deviceNo.toNat && (s.qpFor (s.mail m).owner.toNat (devOf a)).isSome

/-- Write bytes to DST for a command: `none` when the transfer fails (R433). -/
def State.hostWrite (s : State) (m : Fin 64) (a : W64) (data : Bytes) (ok : Bool) : Option State :=
  if ok && s.hostReach m a then s.writeDomain (s.mail m).owner.toNat a data .other else none

end Sys2Proof.Machine
end

