-- ==== Sys2Proof/Machine/Partitions.lean ====
section
/-! DEFINITION. Partitions: their parameters, extents, the areas Lortus allocates, images, core groups and admission
(R54, R55, R67, R69, R74, R314, R321, R436, R463, R470). -/

namespace Sys2Proof.Machine

/-! ### The section of R436 in force -/
def Partition.latFixed (p : Partition) : Bool := le p.sect 2 1 == 1
def Partition.policyHold (p : Partition) : Bool := le p.sect 3 1 == 1
/-- Step window, chunk length in ns. -/
def secW (b : Bytes) : Nat := le b 4 2 * 500000
def secL (b : Bytes) : Nat := le b 6 2 * 500000
def secF (b : Bytes) : Nat := le b 8 2
def secQuota (b : Bytes) : Nat := le b 0xA 2
def secRelease (b : Bytes) : Nat := le b 0xD 1 * 50000
def secClusters (b : Bytes) : Nat := le b 0x20 8
def secDigest (b : Bytes) : Bytes := slice b 0x40 64
def secTag (b : Bytes) (t : Nat) : Bytes := slice b (0x100 + 32 * t) 32
def Partition.w (p : Partition) : Nat := secW p.sect
def Partition.l (p : Partition) : Nat := secL p.sect
def Partition.eager (p : Partition) : Nat := le p.sect 0xC 1
def Partition.gather (p : Partition) : Nat := le p.sect 0xE 2
def Partition.slack (p : Partition) : Nat := le p.sect 0x10 2 * 50000
def Partition.remoteNs (p : Partition) : Nat := le p.sect 0x12 2 * 100000
def Partition.orphanNs (p : Partition) : Nat := le p.sect 0x14 2 * 1000000
def Partition.stallNs (p : Partition) : Nat :=
  let v := le p.sect 0x16 2
  if v = 0 then 4 * p.l else v * 1000000
def Partition.kvLow (p : Partition) : Nat := le p.sect 0x18 2
def Partition.mirrorPeer (p : Partition) : Nat := le p.sect 0x1A 2

/-- The device clusters of a section. -/
def clustersOf (b : Bytes) : List Nat := (List.range 48).filter (fun n => bit (secClusters b) n)
/-- The logical cores of a partition. -/
def Partition.cores (p : Partition) : List Nat :=
  (clustersOf p.sect).flatMap (fun c => (List.range 32).map (fun k => 32 * c + k))
/-- A core belongs to the partition. -/
def Partition.hasCore (p : Partition) (c : Nat) : Bool := bit (secClusters p.sect) (c / 32)

/-- The image slot in service (R444). -/
def Partition.served? (p : Partition) : Option ImageSlot :=
  if p.img0.state == .inService then some p.img0
  else if p.img1.state == .inService then some p.img1 else none
def Partition.image? (p : Partition) : Option ImageInfo := p.served?.bind (·.info)
/-- What shapes the partition's open streams: the image in service, or, once it is lost, the one last in service (R80). -/
def Partition.shape? (p : Partition) : Option ImageInfo := p.image?.or p.lastImage

/-! ### Extents and areas (R314) -/

/-- Bytes of a range that a list of extents covers. -/
def coveredBytes (xs : List Extent) (a n : Nat) : Nat :=
  xs.foldl (fun t x => t + (min (a + n) (x.addr + x.gib * gib) - max a x.addr)) 0

/-- A range lies in the extents. -/
def inExtents (xs : List Extent) (a n : Nat) : Bool := coveredBytes xs a n == n

/-- A range meets none of the taken areas. -/
def clearOf (taken : List (Nat × Nat)) (a n : Nat) : Bool := taken.all (fun t => a + n ≤ t.1 || t.1 + t.2 ≤ a)

/-- Lortus takes an area: a free choice where it is legal, else the first that fits; none starts at address 0 (log 3, log 11). -/
def pickArea (xs : List Extent) (taken : List (Nat × Nat)) (al n cand : Nat) : Option Nat :=
  let legal := fun a => a % al == 0 && a != 0 && inExtents xs a n && clearOf taken a n
  if legal cand then some cand
  else ((xs.map (fun x => max al (alignUp al x.addr))) ++ (taken.map (fun t => alignUp al (t.1 + t.2)))).find? legal

/-- Allocate an area in a partition's HBM3E extents. -/
def State.alloc (s : State) (p : Nat) (al n : Nat) : Option (Nat × State) :=
  match s.part? p with
  | none => none
  | some q =>
    let (cand, s1) := s.free
    match pickArea q.hbm q.places al n cand with
    | some a => some (a, s1.setPart p { q with places := (a, n) :: q.places })
    | none => none

/-- Nothing is under way that creates, destroys or resets the partition (R422). -/
def Partition.settled (q : Partition) : Bool := q.zeroing.isNone && q.resetting.isNone

/-- The partition, where it exists: neither its creation nor its destruction is still zeroing. -/
def State.live? (s : State) (p : Nat) : Option Partition := (s.part? p).filter (fun q => q.zeroing.isNone)

/-- Give an area back. -/
def State.release (s : State) (p a : Nat) : State :=
  s.modPart p (fun q => { q with places := q.places.filter (fun t => t.1 != a) })

/-- An area of the partition is given back for one of `n` bytes; 0 where none is wanted or none fits. -/
def State.renewArea (s : State) (p al old n : Nat) : Nat × State :=
  let s := s.release p old
  if n = 0 then (0, s) else (s.alloc p al n).getD (0, s)

/-- An empty image slot. -/
def ImageSlot.none : ImageSlot := ⟨.empty, 0, 0, zeros 64, [], Option.none, 0⟩

/-- Slot 0 or slot 1 of a partition. -/
def Partition.img (q : Partition) (second : Bool) : ImageSlot := if second then q.img1 else q.img0
def Partition.setImg (q : Partition) (second : Bool) (o : ImageSlot) : Partition :=
  if second then { q with img1 := o } else { q with img0 := o }

/-- A slot becomes EMPTY and its copy's area is given back. -/
def State.emptySlot (s : State) (p : Nat) (second : Bool) : State :=
  match s.part? p with
  | none => s
  | some q => (s.setPart p (q.setImg second .none)).release p (q.img second).area

/-- A slot of the archive records areas: quadrant with the most free space, first area that fits (R463). -/
def archExtent (q : Nat) : Extent := ⟨4, archArea q⟩

/-- Bytes of a quadrant's archive records area that rings hold. -/
def State.archUsed (s : State) (q : Nat) : Nat :=
  s.archHeld.foldl (fun t h => if archArea q ≤ h.1 && h.1 < archArea q + 4 * gib then t + h.2 else t) 0

/-- Allocate an archive ring (R463). -/
def State.allocArch (s : State) (n : Nat) : Option (Nat × State) :=
  let (cand, s1) := s.free
  let q := (List.range 4).foldl (fun b k => if s.archUsed k < s.archUsed b then k else b) 0
  let order := q :: (List.range 4).filter (· != q)
  match order.findSome? (fun k => pickArea [archExtent k] s.archHeld 256 n cand) with
  | some a => some (a, { s1 with archHeld := (a, n) :: s1.archHeld })
  | none => none

end Sys2Proof.Machine

namespace Sys2Proof
open Sys2Proof.Machine

/-! ### State images and chunk slots (R235, R237, R463) -/

/-- Bytes per element of a state format. -/
def StateFmt.bytes : StateFmt → Nat
  | .bf16 => 2 | .fp16 => 2 | .fp32 => 4

/-- The sections of one operator in bytes: state, then residue (R237). -/
def StateOp.sections (chIn : Nat) : StateOp → List Nat
  | .xr c n f res _ => (c * n * f.bytes) :: (if res then [c * n * 2] else [])
  | .dr c f res _ => (c * f.bytes) :: (if res then [c * 2] else [])
  | .sc c k d e => [d * (k - 1) * c * e]
  | .fh ch o => [o * (if ch = 0 then chIn else ch) * 4]
  | .rn mu sg => [4 * (mu.length + sg.length)]

/-- The bytes of an operator's sections in a freshly reset image (R238). -/
def StateOp.fresh (chIn : Nat) : StateOp → List Bytes
  | .rn mu sg => [(mu ++ sg).flatMap (fun w => b4 w.toNat)]
  | op => (op.sections chIn).map zeros

/-- A residue section is present. -/
def StateOp.residue : StateOp → Bool
  | .xr _ _ _ r _ => r
  | .dr _ _ r _ => r
  | _ => false

/-- The length of the state image (R237). -/
def ImageInfo.stateBytes (im : ImageInfo) : Nat :=
  (im.ops.flatMap (StateOp.sections im.chIn)).foldl (fun pos n => alignUp 64 pos + n) 64

/-- STATE_UNITS (R235). -/
def ImageInfo.stateUnits (im : ImageInfo) : Nat := ceilDiv im.stateBytes 4096

/-- The image of a freshly reset stream (R236, R238). -/
def ImageInfo.freshState (im : ImageInfo) (handle frames step : Nat) : Bytes :=
  let head := b4 im.layout.toNat ++ b2 1 ++ b1 (flag (im.ops.any StateOp.residue)) ++ b1 0 ++ b8 frames ++ b8 step
    ++ b4 handle ++ zeros 36
  (im.ops.flatMap (StateOp.fresh im.chIn)).foldl (fun acc b => padTo (alignUp 64 acc.length) acc ++ b) head

/-- The archive slot size of an image (R463). -/
def ImageInfo.slotBytes (im : ImageInfo) : Nat := alignUp 256 (192 + im.maxPayload)

/-- Batch slots of a pass, B of R55 (R74). -/
def ImageInfo.batch (im : ImageInfo) : Nat := max 1 (im.groupSlots * im.passSet.length)

end Sys2Proof

namespace Sys2Proof.Machine

/-! ### Core groups (R74) -/

/-- The core groups of a section under an image. -/
def coreGroups (sect : Bytes) (im : ImageInfo) : List Nat :=
  let g := max 1 im.groupCores
  (clustersOf sect).flatMap (fun c => (List.range (32 / g)).map (fun k => c * (32 / g) + k))

/-- The core groups that a batch pass uses: those of the partition that stand at the image's places (R74). -/
def passGroupsOf (sect : Bytes) (im : ImageInfo) : List Nat := im.passSet.filterMap (fun k => (coreGroups sect im)[k]?)

/-- The logical cores of a core group. -/
def groupCores (im : ImageInfo) (n : Nat) : List Nat := (List.range (max 1 im.groupCores)).map (fun k => n * max 1 im.groupCores + k)

/-- A context can start on a core group: none of its cores is lost (R26). -/
def State.groupServes (s : State) (im : ImageInfo) (n : Nat) : Bool :=
  (groupCores im n).all (fun c => !s.spares.lost.contains c)

/-! ### Admission (R67, R439, R470) -/

/-- A(n, F) × F in ns × MHz (R55). -/
def stepCostF (im : ImageInfo) (n : Nat) : Nat := (im.tFixedNs + ceilDiv n im.batch * im.tPassNs) * 800

/-- A(n, F) in ns, rounded up. -/
def stepCost (im : ImageInfo) (n f : Nat) : Nat := ceilDiv (stepCostF im n) (max f 1)

/-- The counts of a period that begins: a floor hold or throttling that persists is noted at once (R86). -/
def SeeingTally.begin (first : BitVec 48) (floor throttled : Bool) : SeeingTally :=
  { firstStep := first, steps := 0, late := 0, preempts := 0, parked := 0, orphaned := 0, migrated := 0, queueFull := 0,
    durNs := 0, isoNs := 0, slowMax := 0, floorHeld := floor, throttled := throttled, overAdmitted := false }

/-- The counts with which a partition's seeing period begins. -/
def State.beginTally (s : State) (q : Partition) (first : BitVec 48) : SeeingTally :=
  SeeingTally.begin first (q.cores.any (fun c => (s.core c).floorHeld)) (q.cores.any (fun c => (s.core c).thermHalf.isSome))

/-- The target clock that a step's isolated estimate is taken at: the lowest of the partition's cores (R86; DEDUCED, log 42). -/
def State.targetClock (s : State) (q : Partition) : Nat := (listMin? (q.cores.map (fun c => (s.core c).targetMhz))).getD 800

/-- The test of R67 for numbers of Vermilion and Ochre streams, and R470. -/
def admits (sect : Bytes) (im : ImageInfo) (nv no : Nat) : Bool :=
  let f := secF sect
  stepCostF im (nv + ceilDiv no 4) + 60000 * 800 + f * (secRelease sect + 1000000) ≤ secW sect * f

/-- t_pass × 800 ÷ F is at most 0.70 ms (R470). -/
def passFits (sect : Bytes) (im : ImageInfo) : Bool := im.tPassNs * 800 ≤ 700000 * secF sect

/-- Open streams of a partition: every state but CLOSED. -/
def State.openStreams (s : State) (p : Nat) : List (Nat × Stream) :=
  s.streams.filter (fun x => x.2.part.val == p && x.2.state != .closed)

/-- Open streams of a class. -/
def State.countClass (s : State) (p c : Nat) : Nat := ((s.openStreams p).filter (fun x => x.2.cls.val == c)).length

/-- R67 holds for the open streams of a partition under a section and an image. -/
def State.admitted (s : State) (p : Nat) (sect : Bytes) (im : ImageInfo) : Bool :=
  admits sect im (s.countClass p 0) (s.countClass p 1)

/-- The over-admission mark is set or cleared and reported (R69, events 0x8203 and 0x8204). -/
def State.recheckAdmission (s : State) (p : Nat) (mayset : Bool) : State :=
  match s.part? p with
  | none => s
  | some q =>
    let good := match q.image? with
      | some im => s.admitted p q.sect im
      | none => true
    let ver := (s.currentCfg.map (fun c => c.version.toNat)).getD 0
    if q.overAdmitted && good then
      (s.setPart p { q with overAdmitted := false }).raisePart 0x8204 p (b4 ver)
    else if mayset && !q.overAdmitted && !good then
      (s.setPart p { q with overAdmitted := true }).raisePart 0x8203 p (b4 ver)
    else s

/-- The partition that owns a cluster. -/
def State.clusterOwner (s : State) (n : Nat) : Option (Fin 16) := (s.cluster n).owner

/-- The partition that a core belongs to. -/
def State.coreOwner (s : State) (c : Nat) : Option Nat := (s.clusterOwner (c / 32)).map (·.val)

/-- An image is in service anywhere in the device. -/
def State.anyService (s : State) : Bool := s.parts.any (fun p => p.2.served?.isSome)

/-- READY and SERVING follow the images in service (R430). -/
def State.syncServing (s : State) : State :=
  match s.dev.mode with
  | .ready => if s.anyService then s.setMode .serving else s
  | .serving => if s.anyService then s else s.setMode .ready
  | _ => s

end Sys2Proof.Machine
end

