-- ==== Sys2Proof/Machine/Streams.lean ====
section
/-! DEFINITION. Streams: the AST entry, deadlines, acceptance with the drop rule, orphaning and closing
(R51, R58, R60, R63 to R65, R79 to R83, R268, R400, R464, R480). -/

namespace Sys2Proof.Machine

/-! ### SOURCE, SINK and the binding (R392, R393) -/
def kindOf (w : W64) : Nat := bits w.toNat 60 4
def Stream.srcKind (x : Stream) : Nat := kindOf x.source
def Stream.sinkKind (x : Stream) : Nat := kindOf x.sink
def rtpMac (w : W64) : Nat := bits w.toNat 56 4
def rtpPort (w : W64) : Nat := bits w.toNat 32 16
def rtpSsrc (w : W64) : Nat := bits w.toNat 0 32
def audGroup (w : W64) : Nat := bits w.toNat 56 4
def audSlot (w : W64) : Nat := bits w.toNat 52 4
def audPair (w : W64) : Bool := bit w.toNat 51
def audDelay (w : W64) : Nat := bits w.toNat 32 16
def ringPeer (w : W64) : Nat := bits w.toNat 44 13
def bndFollow (b : Bytes) : Bool := bit (le b 0 2) 0
def bndGapReset (b : Bytes) : Bool := bit (le b 0 2) 1
def bndAlign (b : Bytes) : Bool := bit (le b 0 2) 2
def bndChannelsIn (b : Bytes) : Nat := le b 5 1
def bndChannelsOut (b : Bytes) : Nat := le b 7 1
def bndJitterNs (b : Bytes) : Nat := le b 8 2 * 100000
def bndPtime (b : Bytes) : Nat := le b 0xA 2
def bndRateOut (b : Bytes) : Nat := le b 0x14 4
def bndRingAddr (b : Bytes) : Nat := le b 0x40 8
def bndRingEntries (b : Bytes) : Nat := le b 0x48 4
def bndEntryBytes (b : Bytes) : Nat := le b 0x4C 4
def bndConsAddr (b : Bytes) : Nat := le b 0x50 8

/-- The channels of a stream's source (R540). -/
def Stream.channelsIn (x : Stream) : Nat :=
  if x.srcKind = 1 then bndChannelsIn x.binding else if audPair x.source then 2 else 1

/-- Samples per chunk at a rate and chunk length (R52). -/
def chunkSamples (l rate : Nat) : Nat := l * rate / 1000000000

/-! ### Sharded decode (R274, R275): how a home learns of its shards is not in the spec; log 38 -/

/-- Send to every shard of a home stream for which its partition has a queue pair. -/
def State.eachShard (s : State) (i : Nat) (f : Config.ShardPeer → Nat → Qp → State → State) : State :=
  let x := s.stream i
  (Config.shardsOf x.handle).foldl (fun t v =>
    match t.qpFor x.part.val v.dev.toNat with
    | some (n, q) => f v n q t
    | none => t) s

/-- The intake port of a device (R399). -/
def intakeOf (dev : BitVec 13) : W64 := dev.setWidth 64 <<< 51 ||| 0x0F8000CC0000#64

/-- A token's start record, as a chunk record of one frame (R274, R399). -/
def startRecord (v : Config.ShardPeer) (home : BitVec 32) (no : Nat) : Bytes :=
  let p := Config.startPayload home no
  b4 v.handle.toNat ++ b2 1 ++ b2 0 ++ b8 no ++ b8 p.length ++ zeros 40 ++ zeros 64 ++ p

/-- The home writes the start records of a chunk's tokens into the shard streams' host rings (R274, R385). -/
def State.startShards (s : State) (i first count : Nat) : State :=
  s.eachShard i (fun v _ _ t => (List.range count).foldl (fun u k =>
    match u.qpFor (s.stream i).part.val v.dev.toNat with
    | some (n, q) => u.sendKeyed n q (.writeImm v.handle) (intakeOf v.dev) v.intakeKey (startRecord v (s.stream i).handle (first + k)) 0 .other
    | none => u) t)

/-- The query record with FLAGS bit 1 set (R275); what it does not say is free. -/
def endQuery (home : BitVec 32) (pos layer : Nat) : Bytes := b8 pos ++ b2 layer ++ b1 2 ++ zeros 53 ++ Config.endRest home

/-- The home ends the shards' steps: the record, then its flag word (R274, R275). -/
def State.endShards (s : State) (i : Nat) : State :=
  let x := s.stream i
  let pos := s.readNat (x.pageTable + 8 + 8 * flag x.commitSide) 8
  s.eachShard i (fun v n q t =>
    let t := t.sendOn n q .write (q.remoteVa v.query) (endQuery x.handle pos v.layer) 0 .other
    match t.qp? n with
    | some q => t.sendOn n q .write (q.remoteVa v.flag) (b8 (pos * 256 + v.layer + 1)) 0 .other
    | none => t)

/-! ### The AST entry (R58) -/

/-- Orphanings in the last 16 steps. -/
def Stream.orphanCount (x : Stream) (step : Nat) : Nat := (x.orphanSteps.filter (fun k => step < k.toNat + 16)).length

/-- The 128 bytes of an entry. -/
def Stream.image (x : Stream) (step : Nat) : Bytes :=
  b8 (x.state.code * 2 ^ 61 + x.cls.val * 2 ^ 59 + flag x.orphanHold * 2 ^ 58 + flag x.mirror * 2 ^ 57 + flag x.drain * 2 ^ 56
      + x.part.val * 2 ^ 48 + x.handle.toNat)
    ++ b8 x.sampleCount.toNat
    ++ b8 (x.commitStep.toNat * 2 ^ 16 + flag x.gap * 2 + flag x.commitSide)
    ++ b8 (x.stateUnits.toNat * 2 ^ 48 + x.stateAddr.toNat)
    ++ b8 (x.resCluster.toNat * 2 ^ 58 + x.coreGroup.toNat * 2 ^ 48 + x.lastRunStep.toNat)
    ++ b8 x.oldestAccept.toNat
    ++ b8 (x.sampleRate.toNat * 2 ^ 40 + min x.chunks.length 16)
    ++ b8 (x.nextOutSeq.toNat * 2 ^ 32 + x.releasedSeq.toNat)
    ++ b8 x.source.toNat ++ b8 x.sink.toNat
    ++ b8 (x.faultCode.toNat * 2 ^ 48 + x.orphanCount step % 256 * 2 ^ 40)
    ++ b8 x.orphanSince.toNat ++ b8 x.chunksDone.toNat
    ++ b8 (x.late.toNat * 2 ^ 32 + x.chunksLost.toNat)
    ++ b8 x.hostTag.toNat ++ zeros 8

/-- The step number of a partition. -/
def State.stepOf (s : State) (p : Nat) : Nat := ((s.part? p).map (fun q => q.stepNo.toNat)).getD 0

/-! ### Input -/

/-- The stream takes input: it is open and serving, or orphaned without DRAIN, or draining up to its last chunk's end, and is
no shadow waiting for adoption (R63, R80, R477). -/
def Stream.takesInput (x : Stream) : Bool :=
  (match x.state with
   | .active => true
   | .stalled => true
   | .orphaned => !x.drain
   | .draining => (x.intake.stopAt.map (fun n => decide (x.sampleCount.toNat < n))).getD false
   | _ => false)
  && (x.shadow.isNone || (x.shadow.map (·.adopted)).getD false)

/-- Bytes of the intake pool that a stream's samples and unarchived chunks hold, in 256-byte spans (R393). -/
def Stream.poolBytes (x : Stream) : Nat :=
  (if x.srcKind = 2 then 0 else alignUp 256 (x.intake.samples.foldl (fun t e => t + e.2.length) 0))
    + x.chunks.foldl (fun t c => if c.archived then t else t + alignUp 256 (c.payload.length + alignUp 64 c.frames)) 0

/-- Bytes of the intake pool in use. -/
def State.poolUse (s : State) : Nat := s.streams.foldl (fun t x => t + x.2.poolBytes) 0

/-- The pool-low event at 90 % (R397), once for each time the level is reached. -/
def State.poolCheck (s : State) : State :=
  let pct := s.poolUse * 100 / poolBytes
  if pct ≥ 90 then
    if s.poolLow then s else { s with poolLow := true }.raiseDev 0x8706 (b1 pct)
  else { s with poolLow := false }

/-- The deadline of a chunk accepted now (R64, R65). -/
def Stream.newDeadline (x : Stream) (w now : Nat) : Option Nat :=
  if x.cls.val = 2 then none
  else match x.chunks.getLast? with
    | some c => c.deadline.map (· + w)
    | none => some (now + (if x.cls.val = 0 then 2 * w else 8 * w))

/-- Drop the oldest chunk where a seventeenth would be pending (R80). A chunk of the step that runs may be the one: it is counted
lost and still processed (DESIGN CHOICE, log 42). -/
def Stream.dropOldest (x : Stream) : Stream :=
  if x.chunks.length ≥ 16 then
    { x with chunks := x.chunks.tail, chunksLost := satAdd x.chunksLost 1, gap := true }
  else x

/-- Accept a chunk (R51): frames, side band, payload, samples it holds, and whether some were absent. -/
def State.acceptChunk (s : State) (i frames samples : Nat) (side payload : Bytes) (absent : Bool) : State :=
  let x := (s.stream i).dropOldest
  let w := ((s.part? x.part.val).map Partition.w).getD 0
  let c : Chunk := ⟨x.nextChunkNo, frames, side, x.sampleCount, s.now, x.newDeadline w s.time, false, absent, false, payload⟩
  let chunks := x.chunks ++ [c]
  s.setStream i { x with chunks := chunks, nextChunkNo := x.nextChunkNo + 1,
                         sampleCount := x.sampleCount + BitVec.ofNat 64 samples,
                         oldestAccept := ((chunks.head?).map (·.accept)).getD 0,
                         state := if x.state = .stalled then .active else x.state }

/-- The slot address of a chunk number (R465). -/
def Stream.slotAddr (x : Stream) (slotBytes no : Nat) : Nat := x.archAddr + slotBytes * (no % 16)

/-- The bytes of a chunk slot (R464). -/
def Chunk.slot (c : Chunk) (handle : Nat) : Bytes :=
  b4 handle ++ b2 c.frames ++ b2 (flag c.absent + 2 * flag c.mirrored) ++ b8 c.no ++ b8 c.first.toNat ++ b8 c.accept.toNat
    ++ b8 0 ++ b4 c.payload.length ++ zeros 20 ++ padTo 128 c.side ++ c.payload

/-! ### Mirroring -/

/-- Send a mirror record over the control queue pair to a peer (R478; record layout and place: log 26). -/
def State.sendMirror (s : State) (peer : Nat) (r : Config.MirrorRecord) : State :=
  (s.writeDomain 16 (BitVec.ofNat 64 (peer * 2 ^ 51 + (Config.mirrorAddr r).toNat)) (Config.mirrorBytes r) .other).getD s

/-! ### Orphaning and closing -/

/-- Mark a stream's entries of the running step as torn down. -/
def State.dropWork (s : State) (p i : Nat) : State :=
  s.modPart p (fun q => { q with step := q.step.map (fun r =>
    { r with list := r.list.map (fun e => if e.stream.val = i then { e with gone := true } else e) }) })

/-- The stream becomes ORPHANED with a fault code (R79, R83). -/
def State.orphan (s : State) (i code : Nat) : State :=
  let x := s.stream i
  let step := s.stepOf x.part.val
  let recent := x.orphanSteps.filter (fun k => step < k.toNat + 16)
  let s := s.setStream i { x with state := .orphaned, faultCode := BitVec.ofNat 16 code, orphanSince := s.now,
                                  orphanHold := x.orphanHold || !recent.isEmpty,
                                  orphanSteps := recent ++ [BitVec.ofNat 48 step],
                                  resume := false,
                                  intake := { x.intake with stopAt := if x.drain then none else x.intake.stopAt },
                                  outlet := { x.outlet with marker := true } }
  let s := s.modPart x.part.val (fun q => { q with seeing := q.seeing.map (fun g => { g with orphaned := g.orphaned + 1 }) })
  s.dropWork x.part.val i

/-- Addresses in the page table of a stream: header fields (R261). -/
def State.ptLayers (s : State) (x : Stream) : Nat := s.readNat (x.pageTable + 3) 1
def State.ptMaxPages (s : State) (x : Stream) : Nat := s.readNat (x.pageTable + 4) 2
def ptEntry (table maxPages layer page : Nat) : Nat := table + 64 + 16 * (layer * maxPages + page)

/-- Slots that valid page-table entries name, with their tier (R262). -/
def State.heldSlots (s : State) (x : Stream) : List (Bool × Nat) :=
  if x.pageTable = 0 then []
  else (List.range (s.ptLayers x * s.ptMaxPages x)).filterMap (fun k =>
    let w := s.readNat (x.pageTable + 64 + 16 * k) 8
    if bit w 63 then some (bit w 62, bits w 0 48) else none)

/-- Slots return to the pool of their tier (R268). -/
def Partition.giveSlots (q : Partition) (l : List (Bool × Nat)) : Partition :=
  { q with kvHbm := q.kvHbm ++ (l.filter (fun e => !e.1)).map (·.2), kvLp := q.kvLp ++ (l.filter (·.1)).map (·.2) }

/-- Records still waiting for a host ring are dropped with one event (R400). -/
def State.dropWaiting (s : State) (i : Nat) : State :=
  let x := s.stream i
  match x.outlet.waiting with
  | [] => s
  | (n, _) :: _ =>
    (s.setStream i { x with outlet := { x.outlet with waiting := [] } }).raiseStream 0x8507 i
      (pack [b4 n.toNat, b4 x.outlet.waiting.length])

/-- Answer each of a list of mailboxes. -/
def State.answer (s : State) (ms : List (Fin 64)) (status : Nat) : State := ms.foldl (fun t m => t.fail m status) s

/-- A tier move of a closing stream is given up, its new slot freed, and a waiting command answered. -/
def State.dropMoves (s : State) (p i : Nat) : State :=
  match s.part? p with
  | none => s
  | some q =>
    let (mine, rest) := q.moves.partition (fun v => v.stream.val == i)
    let early := mine.filter (fun v => v.phase < 2)
    let late := mine.filter (fun v => v.phase ≥ 2)
    let q := q.giveSlots (early.map (fun v => (v.toLp, v.newSlot)) ++ late.map (fun v => (!v.toLp, v.oldSlot)))
    let (cmds, others) := q.tierCmds.partition (fun c => c.stream.val == i)
    let s := s.setPart p { q with moves := rest, tierCmds := others }
    cmds.foldl (fun t c =>
      let left := c.todo.length + (mine.filter (fun v => v.mbx == some c.mbx && v.phase < 2)).length
      t.ok c.mbx (pack [b4 c.moved, b4 (c.skipped + left)])) s

/-- No slot is bound to the stream any more; its sink channels stop under R363 (R377, R378). -/
def State.unbindSlots (s : State) (i : Nat) : State :=
  let free := fun (gn : Nat) (g : AGroup) (e : Nat × ASlot) =>
    if (e.2.stream.map (·.val)) == some i then
      (e.1, { e.2.requestIf (s.slotRuns gn e.1) g.rampFrames .stop none (fun k => { k with on := false }) with
        stream := none, newest := none })
    else e
  { s with agroups := s.agroups.map (fun (g : Nat × AGroup) => (g.1, { g.2 with slots := g.2.slots.map (free g.1 g.2) })) }

/-- The stream becomes CLOSED: waiting records, pages, areas and bindings go, waiting commands are answered, a mirror's
shadow is closed (R63, R268, R393, R400, R480). `drained` says that a drain has completed. -/
def State.closeStream (s : State) (i : Nat) (drained : Bool) : State :=
  let x0 := s.stream i
  if x0.state = .closed then s
  else
    let p := x0.part.val
    let s := s.dropWaiting i
    let s := match x0.mirrorSide with
      | some m => s.sendMirror m.peer.toNat (.close m.shadow)
      | none => s
    let s := s.dropMoves p i
    let s := s.modPart p (fun q => q.giveSlots (s.heldSlots x0))
    let s := if x0.pageTable = 0 then s
      else match s.part? p with
        | some q => (((s.release p x0.pageTable).release p x0.tailAddr).writeNat (q.directory + 8 * i) 8 0)
        | none => s
    let s := s.release p x0.stateAddr.toNat
    let s := s.modPart p (fun q => { q with pastRings := s.archHeld.filter (fun h => h.1 == x0.archAddr) ++ q.pastRings.filter (fun h => h.1 != x0.archAddr) })
    let s := { s with archHeld := s.archHeld.filter (fun h => h.1 != x0.archAddr) }
    let s := s.dropWork p i
    let s := s.unbindSlots i
    let x := s.stream i
    let s := s.setStream i { x with state := .closed, drain := false, resume := false, chunks := [], oldestAccept := 0,
                                    binding := zeros 128, closedOrder := s.closeCtr + 1, mirror := false, mirrorSide := none,
                                    shadow := none, resCluster := 63, pageTable := 0, tailAddr := 0, noPage := false,
                                    archAddr := 0, stateAddr := 0, migrate := none, openMbx := none, drainMbx := [],
                                    closeReq := false, closeMbx := [], intake := Stream.empty.intake,
                                    outlet := Stream.empty.outlet }
    let s := { s with closeCtr := s.closeCtr + 1 }
    let s := s.writeRaw (bindingTable + 128 * i) (zeros 128)
    let s := s.answer x0.drainMbx (if drained then stOk else stAborted)
    let s := s.answer x0.closeMbx stOk
    let s := s.answer x0.openMbx.toList stAborted
    let s := s.answer ((x0.migrate.map (fun v => v.2)).toList) stAborted
    let s := s.answer ((x0.mirrorSide.bind (·.waiting)).toList) stAborted
    s.recheckAdmission p false

/-- Count one more late chunk with its event (R66); LATE stays at its largest value, as CHUNKS_LOST does (DESIGN CHOICE, log 42). -/
def State.missDeadline (s : State) (i no : Nat) (lateNs : Nat) : State :=
  let x := s.stream i
  let s := s.setStream i { x with late := satAdd x.late 1 }
  let s := s.modPart x.part.val (fun q => { q with seeing := q.seeing.map (fun g => { g with late := g.late + 1 }) })
  s.raiseStream 0x8501 i (pack [b8 no, b8 lateNs])

end Sys2Proof.Machine
end

