-- ==== Sys2Proof/Machine/Clocks.lean ====
section
/-! DEFINITION. Core clocks: the clock in force, Lortus's requests and the floor of R40 (R35, R38, R40, R42, R516, R519, R534). -/

namespace Sys2Proof.Machine

/-- The clock in force without hardware limits: while a change is under way the clock before it. -/
def Core.baseMhz (c : Core) : Nat := c.settling.getD c.targetMhz

/-- The lower of the limits and the clock set (R534). -/
def Core.clockMhz (c : Core) : Nat :=
  let a := match c.limLimit with
    | some l => min c.baseMhz l
    | none => c.baseMhz
  match c.thermHalf with
    | some h => min a (h / 2)
    | none => a

/-- EFFECTIVE_MHZ follows the clock (log 29). -/
def Core.reclock (c : Core) : Core := { c with effectiveMhz := c.clockMhz }

/-- Lortus requests a clock (R38). -/
def Core.request (c : Core) (f : Nat) : Core := { c with targetMhz := f, settling := some c.baseMhz }

/-- The partition of a core holds admitted Vermilion streams. -/
def State.guarded (s : State) (c : Nat) : Bool :=
  match s.coreOwner c with
  | some p => s.countClass p 0 > 0
  | none => false

/-- The lowest clock that R40 lets Lortus set. -/
def State.clockFloor (s : State) (c : Nat) : Nat :=
  if s.guarded c then
    match (s.coreOwner c).bind s.part? with
    | some q => max 200 (secF q.sect)
    | none => 200
  else 200

/-- An island past its retirement threshold that still runs at the full clock is lowered by a free amount within R40 (R42). -/
def State.slowIsland (s : State) (core : Nat) : State :=
  let c := s.core core
  if 800 ≤ c.targetMhz && s.clockFloor core < c.targetMhz then
    let (k, t) := s.free
    t.modCore core (fun x => x.request (max (t.clockFloor core) (x.targetMhz - (1 + k % 600))))
  else s

end Sys2Proof.Machine
end

