-- ==== Sys2Proof/Machine/Spares.lean ====
section
/-! DEFINITION. Spare tiles, cores, rows and columns, and the replacement of units (R24 to R27, R42, R325, R484). -/

namespace Sys2Proof.Machine

/-- Positions of a cluster that serve no logical core and have not failed, lowest first. -/
def State.freePositions (s : State) (cl : Nat) : List Nat :=
  let used := (List.range 32).map (fun k => s.posOf (32 * cl + k))
  (List.range 34).filter (fun k => !used.contains k && !s.spares.failedCores.contains (34 * cl + k))

/-- The spare tile of a physical core is free and working (R25). -/
def State.spareTileFree (s : State) (phys : Nat) : Bool := (tabGet? s.spares.spareTile phys).isNone

/-- PHYS of a physical core number. -/
def physOfCore (phys sub : Nat) : Nat := physOf (phys / 34 / 12) (phys / 34 % 12) (phys % 34) sub

/-- The island that serves a logical core changes from physical core `old` to `new`: each keeps its own clock state (R35). -/
def State.moveIsland (s : State) (core old new : Nat) : State :=
  let i := tabGet s.idleIslands Island.cold new
  let s := { s with idleIslands := tabPut (tabDel s.idleIslands new) old (s.core core).island }
  s.modCore core (fun c => c.onIsland i)

/-- The spare tile takes a tile's place within its core (R25); recorded in the wear history. -/
def State.useSpareTile (s : State) (core : Nat) (tile : Fin 16) : State :=
  let ph := s.physCore core
  let s := { s with spares := { s.spares with spareTile := tabPut s.spares.spareTile ph (some tile) } }
  s.wear (unitId 1 core tile.val) (s.corePhys core 16) 1 0 core (s.corePhys core tile.val)

/-- A spare core of the cluster takes a logical core; `failed` says the old position is faulty (R25 to R27). The event that the
last spare is engaged is raised once for a cluster, though a rolling test may give the spare back (DESIGN CHOICE, log 42). -/
def State.useSpareCore (s : State) (core : Nat) (failed : Bool) : Option State :=
  let cl := core / 32
  match s.freePositions cl with
  | [] => none
  | k :: _ =>
    let old := s.corePhys core 0
    let ph := s.physCore core
    let sp := s.spares
    let s := { s with spares := { sp with pos := tabPut sp.pos core k,
                                          failedCores := if failed then sp.failedCores ++ [ph] else sp.failedCores } }
    let s := s.wear (unitId 2 core 0) (s.corePhys core 0) 1 0 core old
    let s := s.moveIsland core ph (s.physCore core)
    let c := s.cluster cl
    if (s.freePositions cl).isEmpty && !c.spareLow then
      some ((s.setCluster cl { c with spareLow := true }).raiseDev 0x8902 (b1 cl))
    else some s

/-- A logical core is marked lost (R26). -/
def State.markLost (s : State) (core : Nat) : State :=
  if s.spares.lost.contains core then s
  else
    let ph := s.corePhys core 0
    let n := s.physCore core
    let s := { s with spares := { s.spares with lost := s.spares.lost ++ [core],
                                                failedCores := s.spares.failedCores ++ [n] } }
    let s := s.wear (unitId 2 core 0) ph 8 0 core 0
    s.raise 0x8901 ((s.coreOwner core).getD 0xFF) 0 0 (pack [b2 core, b4 ph])

/-! ### Self-tests that hold a spare (R475, R486 to R489) -/

/-- The test result recorded last for a kind of unit at a physical position was a pass. -/
def State.lastPass (s : State) (kind phys : Nat) : Bool :=
  let pend := s.flash.ops.filterMap (fun o => match o with
    | .wear r => some r
    | _ => none)
  match ((s.flash.wear ++ pend).filter (fun r => le r 7 1 == kind && le r 8 4 == phys && le r 12 1 == 5)).getLast? with
  | some r => le r 13 1 == 0
  | none => false

/-- The number that the next wear record gets, once those under way are written (R482). -/
def State.nextWear (s : State) : Nat :=
  s.flash.wearSeq + (s.flash.ops.filter (fun o => match o with
    | .wear _ => true
    | _ => false)).length

/-- The logical core a unit identifier names, or 0xFFFF (R481). -/
def unitCore (unit : Nat) : Nat :=
  let kind := bits unit 56 8
  if kind = 1 || kind = 2 || kind = 3 || kind = 0xB then bits unit 32 16 else 0xFFFF

/-- The tile position that serves a logical tile of a core: the spare tile, numbered 16, where it is engaged for it (R25, R481). -/
def State.tilePos (s : State) (core tile : Nat) : Nat :=
  match tabGet? s.spares.spareTile (s.physCore core) with
  | some (some t) => if t.val = tile then 16 else tile
  | _ => tile

/-- PHYS of a unit that no test has rolled: the position that serves it at the time (R4, R482). -/
def State.physUnit (s : State) (unit : Nat) : Nat :=
  let kind := bits unit 56 8
  let a := bits unit 32 16
  let b := bits unit 16 16
  if kind = 1 then s.corePhys a (s.tilePos a b)
  else if kind = 2 || kind = 3 || kind = 0xB then s.corePhys a 0
  else if kind = 4 then physOf (a / 12) (a % 12) 0 b
  else if kind = 5 then physOf (a / 12) (a % 12) 0 0
  else if kind = 9 then physOf 0 0 0 b
  else 0

/-- One unit of a test is done: its record joins the test and the wear history; at the last one the command is answered.
A unit rolled out of service serves no logical core, a rolled tile replaces no tile (R481, R482). -/
def State.endUnitTest (s : State) (id : BitVec 32) (unit : W64) (phys status sig : Nat) : State :=
  let out := status ≠ 2 && (s.tests.any (fun (t : SelfTest) => t.id == id && t.rolled.any (fun r => r.1 == unit)))
  let kind := bits unit.toNat 56 8
  let u := if !out then unit.toNat else if kind = 1 then unitId 1 (unitCore unit.toNat) 0xFFFF else unitId kind 0xFFFF 0
  let core := if out && kind ≠ 1 then 0xFFFF else unitCore unit.toNat
  let rec' := patch (unitRecord u phys 5 status core sig s.powerMin) 24 (b4 s.nextWear)
  let upd := fun (t : SelfTest) => if t.id = id then
      { t with todo := t.todo.filter (fun v => v != unit), rolled := t.rolled.filter (fun r => r.1 != unit),
               records := t.records ++ [rec'] } else t
  let s := ({ s with tests := s.tests.map upd }).wear u phys 5 status core sig
  match s.tests.find? (fun (t : SelfTest) => t.id == id) with
  | none => s
  | some t =>
    match t.mbx with
    | some m =>
      if t.todo.isEmpty then
        ({ s with tests := s.tests.map (fun (t : SelfTest) => if t.id = id then { t with mbx := none } else t) }).ok m (b4 id.toNat)
      else s
    | none => s

/-- A rolled unit's position becomes a spare again (R487). -/
def State.returnRolled (s : State) (unit : W64) (ph : Nat) : State :=
  let sp := s.spares
  if bits unit.toNat 56 8 = 1 then { s with spares := { sp with spareTile := tabDel sp.spareTile ph } }
  else { s with spares := { sp with failedCores := sp.failedCores.filter (fun n => n != ph) } }

/-- Rolling tests that hold a spare a fault needs stop: the unit under test serves as the spare if its last recorded result
is a pass (R475). -/
def State.stopRolls (s : State) (holds : W64 → Nat → Bool) : State :=
  s.tests.foldl (fun t v =>
    (v.rolled.filter (fun r => holds r.1 r.2)).foldl (fun u r =>
      let n := r.1.toNat
      let at' := physOfCore r.2 (if bits n 56 8 = 1 then bits n 16 16 else 0)
      let u := if u.lastPass (bits n 56 8) at' then u.returnRolled r.1 r.2 else u
      u.endUnitTest v.id r.1 at' 2 0) t) s

/-- A spare core of the cluster is free, once a rolling test there has given way. -/
def State.wantCore (s : State) (core : Nat) : State :=
  if (s.freePositions (core / 32)).isEmpty then
    s.stopRolls (fun u ph => bits u.toNat 56 8 != 1 && ph / 34 == core / 32)
  else s

/-- A failed tile or core: spare tile, else spare core, else lost. Answers whether the core is lost. -/
def State.replaceCore (s : State) (core : Nat) : Bool × State :=
  let s := s.wantCore core
  match s.useSpareCore core true with
  | some t => (false, t)
  | none => (true, s.markLost core)
def State.replaceTile (s : State) (core : Nat) (tile : Fin 16) : Bool × State :=
  let ph := s.physCore core
  let s := if s.spareTileFree ph then s else s.stopRolls (fun u p => bits u.toNat 56 8 == 1 && p == ph)
  if s.spareTileFree ph then (false, s.useSpareTile core tile) else s.replaceCore core

/-- The key of a bank in the table of spare rows used: kind of R481, number and bank. -/
def bankKey (kind a b : Nat) : Nat := kind * 2 ^ 32 + a * 2 ^ 8 + b

/-- Spare rows of a bank; every bank has two spare bit columns (R325). -/
def spareRows (kind : Nat) : Nat := if kind = 3 then 16 else 32

/-- No spare row and no spare column of a bank is left. -/
def State.bankSpent (s : State) (k kind : Nat) : Bool :=
  spareRows kind ≤ tabGet s.spares.bankRows 0 k && 2 ≤ tabGet s.spares.bankCols 0 k

/-- A row, or with `col` a bit column, of a bank is replaced and the repair recorded: by a spare of the other sort where its own
are all in use (DESIGN CHOICE, log 35); `none` when no spare is left (R325). -/
def State.repairBank (s : State) (kind a b core : Nat) (col : Bool) : Option State :=
  let k := bankKey kind a b
  let rows := tabGet s.spares.bankRows 0 k
  let cols := tabGet s.spares.bankCols 0 k
  if s.bankSpent k kind then none
  else
    let useCol := decide (cols < 2) && (col || decide (spareRows kind ≤ rows))
    let sp := s.spares
    let s := if useCol then { s with spares := { sp with bankCols := tabPut sp.bankCols k (cols + 1) } }
      else { s with spares := { sp with bankRows := tabPut sp.bankRows k (rows + 1) } }
    let s := if kind = 4 && !useCol then
        let c := s.cluster a
        s.setCluster a { c with sparesUsed := satAdd c.sparesUsed 1 }
      else s
    let ph := if kind = 3 then s.corePhys core b else if kind = 4 then physOf (a / 12) (a % 12) 0 b else 0
    some (s.wear (unitId kind a (if kind = 4 then b else 0)) ph 3 0 core 0)

/-- A cluster scratch bank without spares is marked failed (R325). -/
def State.failBank (s : State) (cl b : Nat) : State :=
  let c := s.cluster cl
  if c.failedBanks.contains b then s
  else
    let s := s.setCluster cl { c with failedBanks := c.failedBanks ++ [b] }
    let s := s.wear (unitId 4 cl b) (physOf (cl / 12) (cl % 12) 0 b) 3 0 0xFFFF 0
    s.raise 0x8904 ((s.clusterOwner cl).map (·.val) |>.getD 0xFF) 0 0 (pack [b1 cl, b1 b])

/-- A unit replacement at a step boundary under R42, R484 or R487: the tile's spare tile or the core's spare core. -/
def State.applyUnit (s : State) (u : UnitWait) : Option State :=
  let id := u.unit.toNat
  let kind := bits id 56 8
  let core := bits id 32 16
  let sub := bits id 16 16
  if kind = 1 then
    if s.spareTileFree (s.physCore core) then some (s.useSpareTile core (Fin.ofNat 16 sub))
    else if u.test.isSome then none else s.useSpareCore core true
  else if kind = 2 || kind = 3 || kind = 0xB then s.useSpareCore core true
  else none

/-- A scratch bank is repaired after errors that scrubbing found; without a spare left a core scratch retires its core and a
cluster scratch bank fails (R325). A waiting repair names its bank in B for core scratch too, and a column by bit 0. -/
def State.repairScratch (s : State) (unit : Nat) : State :=
  let a := bits unit 32 16
  let b := bits unit 16 16
  if bits unit 56 8 = 4 then (s.repairBank 4 a b 0xFFFF (bit unit 0)).getD (s.failBank a b)
  else if bits unit 56 8 = 3 then (s.repairBank 3 a b a (bit unit 0)).getD (s.replaceCore a).2
  else (s.replaceCore a).2

/-- The tests have a unit of this cluster rolled out of service (R487). -/
def State.rolling (s : State) (cl : Nat) : Bool := s.tests.any (fun t => t.rolled.any (fun r => r.2 / 34 == cl))

/-- The test rolls a unit out of service; without a spare the unit is not run. -/
def State.rollUnit (s : State) (u : UnitWait) (t : Nat) : State :=
  let ph := s.physCore (bits u.unit.toNat 32 16)
  let was := s.physUnit u.unit.toNat
  match s.applyUnit u with
  | some v => { v with tests := v.tests.map (fun (x : SelfTest) => if x.id.toNat = t then { x with rolled := x.rolled ++ [(u.unit, ph)] } else x) }
  | none => s.endUnitTest (BitVec.ofNat 32 t) u.unit was 2 0

/-- Retirement of an island is reported (event 0x8905). -/
def State.reportRetired (s : State) (u : UnitWait) (phys : Nat) : State :=
  let core := bits u.unit.toNat 32 16
  s.raise 0x8905 ((s.coreOwner core).getD 0xFF) 0 0 (pack [b8 u.unit.toNat, b4 phys, b2 core])

/-- A unit is retired now (R42, R484): replaced, recorded, an island's retirement reported. -/
def State.retireNow (s : State) (u : UnitWait) : Option State :=
  let was := s.physUnit u.unit.toNat
  (s.applyUnit u).map (fun v =>
    let v := v.wear u.unit.toNat was 2 0 (unitCore u.unit.toNat) 0
    if bits u.unit.toNat 56 8 = 0xB then v.reportRetired u was else v)

end Sys2Proof.Machine
end

