-- ==== Sys2Proof/Machine/Scales.lean ====
section
/-! DEFINITION. The photometer's merge, the scale table and the overflow decision (R136 to R150 of 04_quantisation.md). -/

namespace Sys2Proof.Machine

/-- Twice Q of a FORMAT code (R142). -/
def twiceQ (fmt : Nat) : Nat := [896, 114688, 56, 15, 12, 254, 14].getD fmt 0

/-- The FP32 code of 2^k for k from −64 to 64. -/
def pow2Code (k : Int) : Nat := ((k + 127).toNat) * 2 ^ 23

/-- The signed byte of a K field. -/
def kOf (b : Nat) : Int := signedOf 8 b

/-- The 32 parameter bytes of a tag: of the version's TAGS entry, else of the image in service, zeros without one (R150; log 42). -/
def tagParams (sect : Bytes) (im : Option ImageInfo) (t : Nat) : Bytes :=
  let v := secTag sect t
  if v.all (· == 0) then padTo 32 ((im.map (fun i => i.tags.getD t [])).getD []) else v

/-- A scale-table entry as written when an image goes into service (R150). -/
def freshEntry (par : Bytes) : Bytes :=
  let k := kOf (le par 5 1)
  b4 (pow2Code k) ++ zeros 3 ++ natToBytes 1 (intCode 8 k) ++ zeros 88 ++ padTo 32 par

/-- Every entry of a partition's scale table (R150). -/
def State.writeScaleTable (s : State) (p : Nat) : State :=
  match s.part? p with
  | none => s
  | some q =>
    (List.range 64).foldl (fun t k => t.writeRaw (q.scaleTable + 128 * k) (freshEntry (tagParams q.sect q.image? k))) s

/-- The parameters of one entry rewritten; a change of FORMAT or of the tag's enable clears its history (R149, R150). -/
def reparEntry (e par : Bytes) : Bytes :=
  if le e 0x60 1 ≠ le par 0 1 || (le e 0x64 1) % 2 ≠ (le par 4 1) % 2 then
    let k := kOf (le par 5 1)
    b4 (pow2Code k) ++ slice e 4 1 ++ b1 0 ++ slice e 6 1 ++ natToBytes 1 (intCode 8 k) ++ slice e 8 24 ++ zeros 64 ++ padTo 32 par
  else slice e 0 0x60 ++ padTo 32 par

/-- A committed version rewrites the tags whose TAGS entry differs (R150). -/
def State.retagScales (s : State) (p : Nat) (before : Bytes) : State :=
  match s.part? p with
  | none => s
  | some q =>
    (List.range 64).foldl (fun t k =>
      if secTag before k == secTag q.sect k then t
      else
        let a := q.scaleTable + 128 * k
        t.writeRaw a (reparEntry (t.read a 128) (tagParams q.sect q.image? k))) s

/-! ### The merge (R137) -/

/-- Merge one tag over cores: AMAX by maximum of FP32 magnitudes, SAT_CNT by saturating sum. -/
def mergeTag (l : List (W32 × W32)) : W32 × W32 :=
  l.foldl (fun a b => (if a.1.toNat < b.1.toNat then b.1 else a.1, satAdd a.2 b.2.toNat)) (0, 0)

/-- The merged pair of a tag over a partition's cores. -/
def State.mergedTag (s : State) (q : Partition) (t : Nat) : W32 × W32 :=
  mergeTag (q.cores.map (fun c => (s.core c).phot.getD t (0, 0)))

/-! ### Deriving one entry (R143 to R147) -/

/-- The true magnitude a(s) as an FP32 code (R143). -/
def trueMagnitude (amax scale : Nat) : Nat :=
  if amax = 0 then 0
  else
    let v := (fp32F.decode amax).mul (fp32F.decode scale)
    match v with
    | .inf _ => 0x7F800000
    | .nan => 0x7F800000
    | .fin _ m e =>
      if log2Of m e < -126 then 0x00800000
      else if log2Of m e > 127 then 0x7F800000
      else (fp32F.round true none v).code

/-- 4th powers compared exactly: x^4 × 2^h ≤ Q^4 × 2^(4k), for x a finite FP32 magnitude. -/
def fitsK (x : Nat) (h fmt : Nat) (k : Int) : Bool :=
  match fp32F.decode x with
  | .fin _ m e =>
    let l := m ^ 4
    let r := twiceQ fmt ^ 4
    let sh := 4 * e + (h : Int) + 4 - 4 * k
    if 0 ≤ sh then l * 2 ^ sh.toNat ≤ r else l ≤ r * 2 ^ (-sh).toNat
  | _ => false

/-- K of R144: the least integer with A_win × 2^(h/4) ≤ Q × 2^K, limited to −64 to 64. -/
def deriveK (awin h fmt : Nat) : Int :=
  if awin = 0x7F800000 then 64
  else match (List.range 129).find? (fun i => fitsK awin h fmt ((i : Int) - 64)) with
    | some i => (i : Int) - 64
    | none => 64

/-- Underrange (R145): a ÷ S below Q × 2^−(h/4 + U). -/
def isUnder (a h u fmt : Nat) (k : Int) : Bool :=
  a ≠ 0 && a ≠ 0x7F800000 &&
    (match fp32F.decode a with
     | .fin _ m e =>
       let sh := 4 * (e - k) + (h : Int) + 4 * (u : Int) + 4
       let l := m ^ 4
       let r := twiceQ fmt ^ 4
       if 0 ≤ sh then l * 2 ^ sh.toNat < r else l < r * 2 ^ (-sh).toNat
     | _ => false)

/-- The newest N non-zero history entries' maximum (R144). -/
def windowMax (hist : List Nat) (head fill n : Nat) : Nat :=
  listMax ((List.range (min n fill)).map (fun j => hist.getD ((head + 16 - j) % 16) 0))

/-- The new entry after a run: the merged pair, whether this run replaces the entry of a first run, whether a replay of
the step follows, whether this tag counts it, whether it counts a skipped one. -/
def deriveEntry (e : Bytes) (amax sat : Nat) (second willReplay counted skipped : Bool) : Bytes :=
  let k := kOf (le e 7 1)
  let h := le e 0x61 1
  let n := le e 0x62 1
  let u := le e 0x63 1
  let fmt := le e 0x60 1
  let a := trueMagnitude amax (le e 0 4)
  let fill := le e 5 1
  let head := if second then le e 6 1 else if fill = 0 then 0 else (le e 6 1 + 1) % 16
  let fill' := if second then fill else min (fill + 1) 16
  let hist := patch (slice e 0x20 64) (4 * head) (b4 a)
  let vals := (List.range 16).map (fun i => le hist (4 * i) 4)
  let awin := windowMax vals head fill' n
  let k' := if awin = 0 then k else deriveK awin h fmt
  let under := isUnder a h u fmt k
  let flags := flag under + 2 * flag (sat > 0) + 4 * flag (second || willReplay) + 8 * flag skipped
  let sat32 := fun v => min v 0xFFFFFFFF
  b4 (pow2Code k') ++ b1 flags ++ b1 fill' ++ b1 head ++ natToBytes 1 (intCode 8 k') ++ b4 a ++ b4 awin ++ b4 sat
    ++ b4 (sat32 (le e 0x14 4 + flag (under && !willReplay))) ++ b4 (sat32 (le e 0x18 4 + flag counted))
    ++ b4 (sat32 (le e 0x1C 4 + flag skipped)) ++ hist ++ slice e 0x60 32

/-- A tag of the table is enabled, and overflow replay is enabled for it (R142, R146). -/
def tagOn (e : Bytes) : Bool := le e 0x64 1 % 2 == 1
def tagReplays (e : Bytes) : Bool := tagOn e && le e 0x64 1 / 2 % 2 == 1

/-- The entry of a tag in memory. -/
def State.scaleEntry (s : State) (q : Partition) (t : Nat) : Bytes := s.read (q.scaleTable + 128 * t) 128

/-- Some tag has overflow replay enabled: outputs of a step are held for the decision (R148). -/
def State.holdsOutputs (s : State) (q : Partition) : Bool :=
  q.image?.isSome && (List.range 64).any (fun t => tagReplays (s.scaleEntry q t))

end Sys2Proof.Machine
end

