-- ==== Sys2Proof/Machine/Faults.lean ====
section
/-! DEFINITION. Stopping contexts: teardown by a context fault, and the NaN latch
(R79, R117 to R121, R468, R538). -/

namespace Sys2Proof.Machine

/-- A core whose context has stopped: queues, transfers and results in flight are gone (R79). -/
def Core.stop (c : Core) (st : SeqState) : Core :=
  { c with qM := [], qV := [], qG := [], qD := [], runs := [], gate := none, dma := [], tq := [], finished := [],
           tiles := [], seq := st, ctx := none, trapDue := none, noPark := none }

/-- Outbound messages of some of a core's transfers no longer serve a transfer (R30). -/
def State.forgetDma (s : State) (core : Nat) (slots : List (Fin 16)) : State :=
  let f : OutMsg → OutMsg := fun m => match m.use with
    | .dmov k v => if k = core && slots.contains v then { m with use := .other } else m
    | _ => m
  if slots.isEmpty then s
  else { s with qps := s.qps.map (fun (q : Nat × Qp) => (q.1, { q.2 with out := q.2.out.map f })) }

/-- Stop the cores of a context that run it; the photometer falls back to its values at the pass start. -/
def State.stopContext (s : State) (id : Nat) (x : Context) (st : SeqState) : State :=
  let s := x.cores.foldl (fun t c =>
    if (t.core c).ctx == some (BitVec.ofNat 16 id) then
      (t.forgetDma c ((t.core c).dma.map (·.slot))).modCore c (fun k => { k.stop st with phot := k.photAtPass })
    else t) s
  x.savedCores.foldl (fun t v => t.forgetDma v.1 (v.2.remote.map (·.slot))) s

/-- Tear a context down (R79): its cores stop, its streams are orphaned or, with a close waiting, closed (R84), an event
names it, and it is gone. The caller settles the step. -/
def State.teardown (s : State) (id : Nat) (code core : Nat) (pc opTag : Nat) : State :=
  match s.ctx? id with
  | none => s
  | some x =>
    let s := s.stopContext id x .halted
    let s := { s with ctxs := tabDel s.ctxs id }
    let s := x.streams.foldl (fun t i =>
      if (t.stream i.val).closeReq then t.closeStream i.val false else t.orphan i.val code) s
    s.raise 0x8C01 x.part.val 0 0 (pack [b2 id, b2 core, b2 pc, b2 opTag, b2 code, b8 x.step.toNat])

/-- The contexts that run on a core. -/
def State.ctxOf (s : State) (core : Nat) : Option Nat := ((s.core core).ctx).map (·.toNat)

/-! ### The NaN latch (R117 to R120) -/

/-- The record of R119. -/
def nanRecord (tq trapped : Bool) (core ctx : Nat) (opTag pc : BitVec 16) : W64 :=
  word [(63, 1, 1), (62, 1, flag tq), (60, 1, flag trapped), (48, 11, core), (32, 16, ctx), (16, 16, opTag.toNat),
        (0, 16, pc.toNat)]

/-- A NaN of context `ctx` passes a latching site: the identity is latched with its step and the event raised, or MORE is set
(R117, R118, R120). Answers whether the context's trap fires. -/
def State.latchNanOf (s : State) (core ctx : Nat) (tq : Bool) (opTag pc : BitVec 16) : Bool × State :=
  let c := s.core core
  if c.nanId.getLsbD 63 then (false, s.setCore core { c with nanId := c.nanId ||| BitVec.ofNat 64 (2 ^ 61) })
  else
    let x := s.ctx? ctx
    let step := (x.map (·.step)).getD 0
    let trap := (x.map (·.trap)).getD false
    let id := nanRecord tq trap core ctx opTag pc
    (trap, (s.setCore core { c with nanId := id, nanStep := step }).raisePart 0x8C02 (ctx / 4096)
      (pack [b8 id.toNat, b8 step.toNat]))

/-- A NaN of the context that a core runs. -/
def State.latchNan (s : State) (core : Nat) (tq : Bool) (opTag pc : BitVec 16) : Bool × State :=
  s.latchNanOf core (((s.core core).ctx.map (·.toNat)).getD 0) tq opTag pc

end Sys2Proof.Machine
end

