-- ==== Sys2Proof/Machine/Steps.lean ====
section
/-! DEFINITION. What happens between steps: images going into service, versions applied, migrations, replacements,
closes and drains, the end of passes and of steps (R44, R47, R63, R70, R73, R137, R146, R150, R247, R321, R446, R539). -/

namespace Sys2Proof.Machine

/-! ### Images (R191, R321, R446) and their KV pools (R260 to R268) -/

/-- Where the program segment lies: at the top of a cluster's scratch (R191). -/
def segmentBase (cl len : Nat) : Nat := clusterWin cl + 0x800000 - alignUp 256 len

/-- The cluster banks an image declares, those of its program segment among them (R321). -/
def banksFor (im : ImageInfo) : W64 :=
  im.banks ||| BitVec.ofNat 64 ((List.range 64).foldl (fun w b =>
    if b * 0x20000 + 0x20000 > 0x800000 - alignUp 256 im.program.length then w + 2 ^ b else w) 0)

/-- The banks of a cluster that are on: the others lose their contents and hold zero when they return (R321). Which bank holds a
stream's state is Meridian's choice: with any bank of the cluster going down, no state counts as resident there (R341; log 35). -/
def State.powerBanks (s : State) (cl : Nat) (on : W64) : State :=
  let k := s.cluster cl
  let down := (List.range 64).filter (fun b => k.banksOn.getLsbD b && !on.getLsbD b)
  let s := (List.range 64).foldl (fun u b => if on.getLsbD b then u else u.zero (clusterWin cl + b * 0x20000) 0x20000) s
  let s := if down.isEmpty then s
    else { s with streams := s.streams.map (fun (x : Nat × Stream) =>
      if x.2.resCluster.toNat = cl then (x.1, { x.2 with resCluster := 63 }) else x) }
  s.setCluster cl { k with banksOn := on }

/-- The segments of a core's scratch that are on (R317, R321). -/
def State.powerSegments (s : State) (c : Nat) (on : BitVec 8) : State :=
  let s := (List.range 8).foldl (fun u n => if on.getLsbD n then u else u.zero (coreWin c + n * 0x10000) 0x10000) s
  s.modCore c (fun k => { k with segOn := on })

/-- What the images a partition holds loaded or in service declare, together (R321). -/
def Partition.powered (q : Partition) : W64 × BitVec 8 :=
  ([q.img0, q.img1].filter (fun o => o.state == .loaded || o.state == .inService)).foldl (fun t o =>
    match o.info with
    | some im => (t.1 ||| banksFor im, t.2 ||| im.segments)
    | none => t) (0, 0)

/-- The SRAM of some clusters is powered as a partition needs it. -/
def State.powerClusters (s : State) (cls : List Nat) (on : W64 × BitVec 8) : State :=
  cls.foldl (fun t cl => (List.range 32).foldl (fun u k => u.powerSegments (32 * cl + k) on.2) (t.powerBanks cl on.1)) s

/-- A partition's SRAM is powered for its images: those of an image just loaded come on before it goes into service, those that only
a dropped image declared go down (R321). -/
def State.repower (s : State) (p : Nat) : State :=
  match s.part? p with
  | none => s
  | some q => s.powerClusters ((clustersOf q.sect).filter (fun c => (s.clusterOwner c).map (·.val) == some p)) q.powered

/-- The program segment and the resident weights are written, and what the images declare is powered (R191, R321). -/
def State.installCode (s : State) (p : Nat) : State :=
  match s.part? p with
  | none => s
  | some q =>
    match q.image? with
    | none => s
    | some im =>
      let s := s.powerClusters (clustersOf q.sect) q.powered
      let s := (clustersOf q.sect).foldl (fun t cl => t.writeRaw (segmentBase cl im.program.length) im.program) s
      im.weights.foldl (fun t w =>
        match q.cores[w.core]? with
        | some c => t.writeRaw (coreWin c + w.offset) w.bytes
        | none => t) s

end Sys2Proof.Machine

namespace Sys2Proof
open Sys2Proof.Machine

/-- Bytes of a page and of a layer's V tail, each rounded up to 4 KiB (R260, R265). -/
def AttnDecl.slotBytes (a : AttnDecl) : Nat := alignUp 4096 ((if a.mxfp4 then 272 else 512) * a.kvHeads * a.headDim)
def AttnDecl.tailBytes (a : AttnDecl) : Nat :=
  alignUp 4096 (32 * a.kvHeads * (if a.mxfp4 then a.headDim / 2 + a.headDim / 32 else a.headDim))

/-- The first eight bytes of a page table's header (R261). -/
def AttnDecl.tableHead (a : AttnDecl) : Bytes :=
  b2 1 ++ b1 (flag a.mxfp4) ++ b1 a.layers ++ b2 (a.shardTokens / 256) ++ b1 a.kvHeads ++ b1 (a.headDim / 32)

end Sys2Proof

namespace Sys2Proof.Machine

/-- Take slots for a KV pool, each a free choice (log 3, log 33). -/
def State.carve (p size : Nat) (lp : Bool) : Nat → State → State
  | 0, s => s
  | n + 1, s =>
    match s.part? p with
    | none => s
    | some q =>
      let (cand, t) := s.free
      match pickArea (if lp then q.lp else q.hbm) q.places 4096 size cand with
      | none => s
      | some a =>
        let q := { q with places := (a, size) :: q.places, kvAll := q.kvAll ++ [(lp, a)] }
        State.carve p size lp n (t.setPart p (q.giveSlots [(lp, a)]))

/-- The KV pool of an image's page size is laid out, where it is not already (log 33). -/
def State.carvePool (s : State) (p : Nat) (a : AttnDecl) : State :=
  match s.part? p with
  | none => s
  | some q =>
    if q.kvSlotBytes = a.slotBytes then s
    else
      let places := q.places.filter (fun t => !(q.kvAll.any (fun v => v.2 == t.1)))
      let q' := { q with places := places, kvAll := [], kvHbm := [], kvLp := [], kvSlotBytes := a.slotBytes }
      State.carve p a.slotBytes true q.kvLpSlots (State.carve p a.slotBytes false q.kvHbmSlots (s.setPart p q'))

/-- A page table with no valid entry, a tail area and the directory entry for a stream (R261, R263); the shard's number is a
free choice (log 33). `none` where the areas cannot be placed. -/
def State.makeTable (s : State) (p i : Nat) (a : AttnDecl) : Option State :=
  let bytes := 64 + 16 * a.layers * (a.shardTokens / 256)
  match s.alloc p 64 bytes with
  | none => none
  | some (tab, s) =>
    match s.alloc p 4096 (a.layers * a.tailBytes) with
    | none => none
    | some (tail, s) =>
      let (k, s) := s.free
      let base := if a.seqTokens ≤ a.shardTokens then 0 else k % max 1 a.ringDevices * a.shardTokens
      let head := a.tableHead ++ zeros 16 ++ b8 base ++ b8 tail ++ b4 (s.stream i).handle.toNat ++ zeros 20
      let s := (s.zero tab bytes).writeRaw tab head
      let s := match s.part? p with
        | some q => s.writeNat (q.directory + 8 * i) 8 tab
        | none => s
      some (s.modStream i (fun x => { x with pageTable := tab, tailAddr := tail, noPage := false }))

/-- A stream's page table and tail are given back with its slots. -/
def State.dropTable (s : State) (p i : Nat) : State :=
  let x := s.stream i
  if x.pageTable = 0 then s
  else
    let s := (s.dropMoves p i).modPart p (fun q => q.giveSlots (s.heldSlots x))
    let s := (s.release p x.pageTable).release p x.tailAddr
    let s := match s.part? p with
      | some q => s.writeNat (q.directory + 8 * i) 8 0
      | none => s
    s.modStream i (fun y => { y with pageTable := 0, tailAddr := 0 })

/-- An open stream gets a page table of the image's shape, unless it has one (R261, log 33). -/
def State.retable (s : State) (p : Nat) (im : ImageInfo) (i : Nat) : State :=
  let x := s.stream i
  match im.attn with
  | none => s.dropTable p i
  | some a =>
    if x.pageTable ≠ 0 && s.read x.pageTable 8 == a.tableHead then s
    else
      let t := s.dropTable p i
      (t.makeTable p i a).getD t

/-- A stream whose committed image has another LAYOUT than the image in service, or any stream where the partition's LAYOUT
changes (`all`): new units, a new pair where the size
changes, no residency, a reset mark on its next chunk (R246, R247). -/
def State.relayout (s : State) (p : Nat) (im : ImageInfo) (i : Nat) (all : Bool) : State :=
  let s := s.retable p im i
  let x := s.stream i
  let side := x.stateAddr.toNat + (if x.commitSide then x.stateUnits.toNat * 4096 else 0)
  if !all && s.readNat side 4 = im.layout.toNat then s
  else
    let u := im.stateUnits
    let s := if u = x.stateUnits.toNat then s
      else
        let t := s.release p x.stateAddr.toNat
        match t.alloc p 4096 (2 * u * 4096) with
        | some (a, t) => t.setStream i { t.stream i with stateAddr := BitVec.ofNat 48 a }
        | none => s
    let x := s.stream i
    s.setStream i { x with stateUnits := BitVec.ofNat 16 u, resCluster := 63, resetNext := true }

/-- Output staging of a partition: room for every stream of its quota (R194). -/
def outPerStream (im : ImageInfo) : Nat := im.outRecords * alignUp 256 im.outBytes

/-- The staging area is allocated anew for an image and quota. -/
def State.allocOut (s : State) (p : Nat) : State :=
  match s.part? p with
  | none => s
  | some q =>
    match q.image? with
    | none => s
    | some im =>
      let n := max 256 (secQuota q.sect * outPerStream im)
      let (a, s) := s.renewArea p 256 q.outArea n
      s.modPart p (fun v => { v with outArea := a, outLen := n })

/-- The score area and the statistics area of an image (R251, R256, R314). -/
def State.allocAreas (s : State) (p : Nat) (im : ImageInfo) : State :=
  match s.part? p with
  | none => s
  | some q =>
    let (a, s) := s.renewArea p 256 q.scoreArea im.scoreBytes
    let (b, s) := s.renewArea p 256 q.statsArea im.statsBytes
    s.modPart p (fun v => { v with scoreArea := a, scoreLen := im.scoreBytes, statsArea := b, statsLen := im.statsBytes })

/-- An image goes into service (R446): the other slot becomes empty, code, weights and scale table are written, streams
of another layout are marked, and the event names the digest. -/
def State.goInService (s : State) (p : Nat) (second : Bool) : State :=
  match s.part? p with
  | none => s
  | some q =>
    let s := if (q.img !second).state == .inService then s.emptySlot p !second else s
    let s := s.modPart p (fun v => v.setImg second { v.img second with state := .inService })
    let q := (s.part? p).getD q
    match q.image? with
    | none => s
    | some im =>
      let s := (((s.installCode p).writeScaleTable p).allocOut p).allocAreas p im
      let changed := ((q.lastImage.map (·.layout)).getD im.layout) != im.layout
      let s := s.modPart p (fun v => { v with lastImage := some im })
      let s := (s.openStreams p).foldl (fun t x => t.relayout p im x.1 changed) s
      let s := match im.attn with
        | some a => s.carvePool p a
        | none => s
      let dig := ((q.served?).map (·.digest)).getD []
      (s.raisePart 0x8401 p (slice dig 0 32)).syncServing

/-- A partition has applied the sealed version; with the last one DONE is journaled (R441). -/
def State.commitApplied (s : State) (p : Nat) : State :=
  match s.commit with
  | none => s
  | some c =>
    let w := c.waiting.filter (fun k => k.val != p)
    let c' := { c with waiting := w }
    if c.phase == .applying && w.isEmpty then
      ({ s with commit := some { c' with phase := .done } }).flashOp (.journal (c'.journalRec .done))
    else { s with commit := some c' }

/-- A committed section applies to its partition (R47, R70, R441): clusters, latency mode, image, tags, admission. -/
def State.applySection (s : State) (p : Nat) : State :=
  match s.part? p with
  | none => s
  | some q =>
    match q.nextSect with
    | none => s
    | some new =>
      let old := q.sect
      let s := s.setPart p { q with sect := new, nextSect := none }
      let mine := fun c => (s.cluster c).owner.map (·.val) == some p
      let gone := (clustersOf old).filter (fun c => !(clustersOf new).contains c && mine c)
      let s := gone.foldl (fun t c =>
        let t := t.setCluster c { t.cluster c with owner := none, banksOn := 0, fixed := true }
        let t := t.zero (clusterWin c) 0x800000
        (List.range 32).foldl (fun u k =>
          (u.zero (coreWin (32 * c + k)) 0x90000).modCore (32 * c + k) (fun x => { x with segOn := 0 })) t) s
      let s := (clustersOf new).foldl (fun t c =>
        t.setCluster c { t.cluster c with owner := some (Fin.ofNat 16 p), fixed := le new 2 1 == 1 }) s
      let s := (s.openStreams p).foldl (fun t x =>
        if gone.contains x.2.resCluster.toNat then t.setStream x.1 { t.stream x.1 with resCluster := 63 } else t) s
      let d := secDigest new
      let named := fun (o : ImageSlot) => o.state == .loaded && o.digest == d && d.any (· != 0)
      let s := if named q.img0 then s.goInService p false
        else if named q.img1 then s.goInService p true
        else
          let s := if secClusters old = secClusters new then s else s.installCode p
          let s := if secQuota old = secQuota new then s else s.allocOut p
          s.retagScales p old
      (s.recheckAdmission p true).commitApplied p

/-- The contents of a repaired bank are rebuilt (R324): a core's weights, a cluster's program segment and residency. `u`
is a core number, or 1536 plus a cluster number. -/
def State.rebuildUnit (s : State) (p : Nat) (u : Nat) : State :=
  match s.part? p with
  | none => s
  | some q =>
    match q.image? with
    | none => s
    | some im =>
      if u < 1536 then
        im.weights.foldl (fun t w => if q.cores[w.core]? = some u then t.writeRaw (coreWin u + w.offset) w.bytes else t) s
      else
        let cl := u - 1536
        let s := s.writeRaw (segmentBase cl im.program.length) im.program
        (s.openStreams p).foldl (fun t x =>
          if x.2.resCluster.toNat = cl then t.setStream x.1 { t.stream x.1 with resCluster := 63 } else t) s

/-- Migrations apply (R73): the target is checked against the version in force; a group with a lost core, or any group while no
image is in service, is no target (DESIGN CHOICE, log 42). -/
def State.applyMigrations (s : State) (p : Nat) : State :=
  match s.part? p with
  | none => s
  | some q =>
    (s.openStreams p).foldl (fun t x =>
      match x.2.migrate with
      | none => t
      | some (g, m) =>
        let good := match q.image? with
          | some im => (coreGroups q.sect im).contains g && t.groupServes im g
          | none => false
        let y := t.stream x.1
        if good then
          let t := t.setStream x.1 { y with migrate := none, placeNext := some g, coreGroup := BitVec.ofNat 10 g }
          let t := match q.image? with
            | some im => t.relayout p im x.1 false
            | none => t
          let t := t.modPart p (fun v => { v with seeing := v.seeing.map (fun c => { c with migrated := c.migrated + 1 }) })
          t.ok m []
        else (t.setStream x.1 { y with migrate := none }).fail m stTarget) s

/-- The contexts on cores that are lost now and were not in `was` are torn down (R26). -/
def State.dropLost (s was : State) : State :=
  let hit := fun (c : Nat) => s.spares.lost.contains c && !was.spares.lost.contains c
  (s.ctxs.filter (fun x => x.2.cores.any hit)).foldl (fun t x =>
    t.teardown x.1 7 ((x.2.cores.find? hit).getD 0xFFFF) 0 0) s

/-- One waiting replacement at a boundary: a repair, a test's roll (one unit of a cluster at a time), a retirement; an ageing
swap without a spare goes on waiting at a lower clock (R42, R325, R475, R484, R487). -/
def State.applyWait (s : State) (p : Nat) (u : UnitWait) : State :=
  let kind := bits u.unit.toNat 56 8
  let again := fun (t : State) => t.modPart p (fun q => { q with unitWaits := q.unitWaits ++ [u] })
  match u.test, u.mbx with
  | some t, _ => if s.rolling (bits u.unit.toNat 32 16 / 32) then again s else s.rollUnit u t
  | none, some m =>
    match s.retireNow u with
    | some v => v.ok m []
    | none => s.fail m stNoResource
  | none, none =>
    if kind = 0xB then (s.retireNow u).getD (again (s.slowIsland (bits u.unit.toNat 32 16)))
    else (s.repairScratch u.unit.toNat).dropLost s

/-- Replacements wait for this boundary (R42, R484, R487). -/
def State.applyUnits (s : State) (p : Nat) : State :=
  match s.part? p with
  | none => s
  | some q => q.unitWaits.foldl (fun t u => t.applyWait p u) (s.setPart p { q with unitWaits := [] })

/-- What waits for a partition's boundary applies at once while no step is in progress (R70 items 1 to 3, R539). -/
def State.idleBoundary (s : State) (p : Nat) : State :=
  match s.part? p with
  | none => s
  | some q =>
    if q.step.isSome then s
    else
      let s := s.applySection p
      let s := s.applyUnits p
      let s := (((s.part? p).map (·.rebuild)).getD []).foldl (fun t u => t.rebuildUnit p u) s
      let s := s.modPart p (fun v => { v with rebuild := [] })
      s.applyMigrations p

/-- A drain is complete: nothing pending and nothing of the last chunk still to come (R63). -/
def Stream.drained (x : Stream) : Bool :=
  x.state == .draining && x.chunks.isEmpty &&
    (match x.intake.stopAt with
     | some n => n ≤ x.sampleCount.toNat
     | none => true)

/-- Closes and drains take effect while no step of the partition runs (R63). -/
def State.closeWaiting (s : State) (p : Nat) : State :=
  (s.openStreams p).foldl (fun t x =>
    if (t.stream x.1).closeReq then t.closeStream x.1 false
    else if (t.stream x.1).drained then t.closeStream x.1 true else t) s

/-! ### The end of order 7: merge, derivation, overflow decision (R137, R143 to R147) -/

/-- What gathering is left ends on the partition's cores, and their values enter the merge (R137). -/
def State.endGather (s : State) (q : Partition) : State :=
  q.cores.foldl (fun t c => t.modCore c (fun k => { k with gathering := false, merged := true })) s

/-- Photometers start gathering for a step or its overflow replay (R136). -/
def State.startGather (s : State) (q : Partition) (step : BitVec 48) : State :=
  q.cores.foldl (fun t c => t.modCore c (fun k =>
    { k with phot := List.replicate 64 (0, 0), photAtPass := List.replicate 64 (0, 0), gathering := true, merged := false,
             photStep := step })) s

/-- A tag's merged saturations exceed its threshold (R146). -/
def tagOverflows (e : Bytes) (sat : Nat) : Bool := tagOn e && sat > le e 0x68 4

/-- The decision once order 7 of a step has ended. -/
def State.overflowDecision (s : State) (p : Nat) : State :=
  match s.part? p with
  | none => s
  | some q =>
    match q.step, q.image? with
    | some r, some im =>
      let s := s.endGather q
      let tags := (List.range 64).filter (fun t => tagOn (s.scaleEntry q t))
      let pairs := tags.map (fun t => (t, s.scaleEntry q t, s.mergedTag q t))
      let hit := pairs.any (fun v => tagReplays v.2.1 && tagOverflows v.2.1 v.2.2.2.toNat)
      let due := listMin? (r.list.filterMap (·.deadline))
      let fits := match due with
        | none => true
        | some d => s.time + stepCost im r.list.length (secF q.sect) + secRelease q.sect ≤ d
      let again := hit && !r.overflowReplay && fits
      let s := pairs.foldl (fun t v =>
        let mine := tagReplays v.2.1 && tagOverflows v.2.1 v.2.2.2.toNat && !r.overflowReplay
        t.writeRaw (q.scaleTable + 128 * v.1)
          (deriveEntry v.2.1 v.2.2.1.toNat v.2.2.2.toNat r.overflowReplay again (mine && again) (mine && !again))) s
      if again then
        let l := r.list.map (fun e => { e with stored := false, outIdx := 0 })
        (s.setPart p { q with step := some { r with list := l, cur := 0, passOn := false, overflowReplay := true } }).startGather
          q r.no
      else s.setPart p { q with step := some { r with decided := true } }
    | _, _ => s

/-- The contexts of a partition that have not ended. -/
def State.liveContexts (s : State) (p : Nat) : List (Nat × Context) := s.ctxs.filter (fun x => x.2.part.val == p)

/-- A pass ends when its contexts have ended; after the last one order 7 of the step ends (R79, R468). -/
def State.endPass (s : State) (p : Nat) : State :=
  match s.part? p with
  | none => s
  | some q =>
    match q.step with
    | none => s
    | some r =>
      if r.passOn && (s.liveContexts p).isEmpty && (r.replay.map (·.pass)) != some r.running then
        let cur := if r.running = r.cur then r.cur + 1 else r.cur
        let s := s.setPart p { q with step := some { r with passOn := false, cur := cur, again := false } }
        if cur = r.passes && !r.decided && r.replay.isNone then s.overflowDecision p else s
      else s

/-- A step of `n` chunks that took `dur` ns joins its seeing period; the period ends with its last step (R86, R87). -/
def State.tallyStep (s : State) (q : Partition) (n dur : Nat) (next : BitVec 48) : Option Seeing :=
  q.seeing.map (fun g =>
    let iso := match q.image? with
      | some im => stepCost im n (s.targetClock q)
      | none => 0
    let t : SeeingTally :=
      { g.toSeeingTally with steps := g.steps + 1, durNs := g.durNs + dur, isoNs := g.isoNs + iso,
                             slowMax := max g.slowMax (dur * 256 / max 1 iso) }
    if g.period ≤ t.steps then
      { g with toSeeingTally := s.beginTally q next, due := g.due ++ [{ t with overAdmitted := q.overAdmitted }] }
    else { g with toSeeingTally := t })

/-- Order 10: every entry is committed or torn down; the step is complete (R44), waiting closes, drains and actions
follow. -/
def State.endStep (s : State) (p : Nat) : State :=
  match s.part? p with
  | none => s
  | some q =>
    match q.step with
    | none => s
    | some r =>
      if !r.passOn && r.cur = r.passes && r.decided && r.replay.isNone && r.list.all (fun e => e.committed || e.gone) then
        let keep := q.intervals.filter (fun v => s.time < v.2 + 64 * q.w)
        let seeing := s.tallyStep q r.list.length (s.time - r.start.toNat) (q.stepNo + 1)
        s.setPart p { q with step := none, stepNo := q.stepNo + 1, intervals := keep ++ [(r.start.toNat, s.time)],
                             seeing := seeing }
      else s

/-- Everything of a partition that follows from what has happened: the end of a pass, of the step, closes, drains and
the actions of an idle boundary. -/
def State.settle (s : State) (p : Nat) : State :=
  let s := (s.endPass p).endStep p
  match s.part? p with
  | none => s
  | some q => if q.step.isSome then s else (s.closeWaiting p).idleBoundary p

/-- A context fault: teardown, then what follows for its partition (R79). -/
def State.contextFault (s : State) (id code core pc opTag : Nat) : State :=
  match s.ctx? id with
  | none => s
  | some x => (s.teardown id code core pc opTag).settle x.part.val

/-- A context fault charged to an instruction of a core (R224). -/
def State.coreFault (s : State) (core code : Nat) (pc opTag : BitVec 16) : State :=
  match s.ctxOf core with
  | none => s
  | some id => s.contextFault id code core pc.toNat opTag.toNat

/-- Every context on a core faults. -/
def State.faultCore (s : State) (core code : Nat) : State :=
  match s.ctxOf core with
  | none => s
  | some id => s.contextFault id code core (s.core core).pc.toNat 0

end Sys2Proof.Machine
end

