-- ==== Sys2Proof/Machine/Passes.lean ====
section
/-! DEFINITION. Work lists, placement, work slices, contexts and KV pages at a step start
(R71 to R75, R82, R193, R194, R262, R266, R269, R331, R332). -/

namespace Sys2Proof.Machine

/-! ### Contexts (R193) -/

/-- A context index nobody uses: a free choice made legal (log 3, log 17). -/
def State.newCtxId (s : State) (p : Nat) : Nat × State :=
  let (v, s) := s.free
  let cand := p % 16 * 4096 + v % 4096
  let id := if (s.ctx? cand).isNone then cand
    else ((List.range 4096).map (fun k => p % 16 * 4096 + k)).find? (fun k => (s.ctx? k).isNone) |>.getD cand
  (id, s)

/-- A core at the start of a context (R193); the operand cache, scratch and microprogram slots stay. -/
def Core.start (c : Core) (core id slice count : Nat) (x : Context) : Core :=
  let c := c.stop .running
  { c with pc := x.entryPc,
           x := #v[0, x.step.setWidth 64, BitVec.ofNat 64 slice, BitVec.ofNat 64 count, BitVec.ofNat 64 core,
                   BitVec.ofNat 64 id, 0, 0, 0, 0, 0, 0, 0, 0, 0, 0],
           f := Vector.replicate 32 0, v := Vector.replicate 8 (List.replicate 128 0), m := Vector.replicate 4 0,
           gen := if x.umber then lfsrSeed x.seed x.step core else c.gen,
           ctx := some (BitVec.ofNat 16 id), photAtPass := c.phot, watchdog := false }

/-- Start the context of one core group for a pass of a step (R193, R468): of the Umber job where all its streams are Umber, of
the step program else (DESIGN CHOICE for mixed classes, log 42). A pass whose values have entered the photometers once does not
gather again (R137); a context of the pass that is parked stays parked through its replay (R223). -/
def State.startContext (s : State) (p : Nat) (im : ImageInfo) (r : StepRun) (k g : Nat) : State :=
  let mine := r.list.filter (fun e => e.pass == k && e.group == g && !e.gone && !e.committed)
  let parked := s.ctxs.any (fun v => v.2.part.val == p && v.2.group == g && v.2.pass == k)
  match mine, parked with
  | [], _ => s
  | _, true => s
  | _, false =>
    let idx := (indexOf? (fun (e : WorkEntry) => e.pass == k && e.group == g) r.list).getD 0
    let count := (r.list.filter (fun e => e.pass == k && e.group == g)).length
    let (id, s) := s.newCtxId p
    let umber := mine.all (fun e => (s.stream e.stream.val).cls.val == 2)
    let x : Context := ⟨Fin.ofNat 16 p, g, groupCores im g, umber, r.no, k, mine.map (·.stream),
      if umber then im.umberPc else im.entryPc, if umber then im.umberSeed else im.seed, im.nanTrap, .running, none, false, [], []⟩
    let s := s.setCtx id x
    x.cores.foldl (fun t c => t.modCore c (fun q =>
      { q.start c id (r.sliceBase + 48 * idx) count x with tagCtl := im.tagEnable, gathering := decide (r.cur ≤ k) })) s

/-- Contexts on a cluster with a failed bank that its image uses fault (R325). -/
def State.failedBankFaults (s : State) (p : Nat) : State :=
  let hit := fun (c : Nat) => let k := s.cluster (c / 32)
    k.failedBanks.any (fun b => k.banksOn.getLsbD b)
  let ids := (s.ctxs.filter (fun x => x.2.part.val == p && x.2.cores.any hit)).map (·.1)
  ids.foldl (fun t id => t.contextFault id 0xB 0xFFFF 0 0) s

/-- Start every context of a pass; each stream's N0 is recorded (R471). No context starts on a group with a lost core: its streams
leave the step with their chunks pending (R26; log 36). -/
def State.startPass (s : State) (p k : Nat) (again : Bool) : State :=
  match s.part? p with
  | none => s
  | some q =>
    match q.step, q.image? with
    | some r, some im =>
      let l := r.list.map (fun e =>
        if e.pass == k && !e.gone && !e.committed && !s.groupServes im e.group then { e with gone := true }
        else if e.pass == k && !e.gone && !e.committed then
          { e with n0 := if again then e.n0 else (s.stream e.stream.val).nextOutSeq, stored := false, outIdx := 0 } else e)
      let s := if again then l.foldl (fun t e => if e.pass == k && !e.gone && !e.committed then
            t.setStream e.stream.val { t.stream e.stream.val with nextOutSeq := e.n0 } else t) s
        else s
      let r := { r with list := l, passOn := true, running := k, passStart := s.now, again := again }
      let s := s.setPart p { q with step := some r }
      let groups := (l.filter (fun e => e.pass == k && !e.gone && !e.committed)).foldl
        (fun (gs : List Nat) e => if gs.contains e.group then gs else gs ++ [e.group]) []
      (groups.foldl (fun t g => t.startContext p im r k g) s).failedBankFaults p
    | _, _ => s

/-! ### The work list (R71, R72) -/

/-- The stream may be listed: it runs and its oldest chunk is archived (R51, R71, R266). -/
def Stream.eligible (x : Stream) : Bool :=
  (x.state == .active || x.state == .draining) && !x.noPage &&
    ((x.chunks.head?).map (·.archived)).getD false

/-- Deadline and acceptance of a stream's oldest chunk. -/
def Stream.headDeadline (x : Stream) : Nat := ((x.chunks.head?).bind (·.deadline)).getD 0
def Stream.headAccept (x : Stream) : Nat := ((x.chunks.head?).map (·.accept.toNat)).getD 0

/-- The streams of a step in the order of R71; `cap` are the batch slots of the groups of a pass that can serve. With nothing
listed yet the last batch pass is a whole one (DESIGN CHOICE, log 42). -/
def State.listOrder (s : State) (p : Nat) (im : ImageInfo) (cap : Nat) : List Nat :=
  let el := (s.openStreams p).filter (fun x => x.2.eligible)
  let cls := fun (c : Nat) => el.filter (fun x => x.2.cls.val == c)
  let v := sortByKey (fun (x : Nat × Stream) => x.2.headDeadline) (cls 0)
  let o := sortByKey (fun (x : Nat × Stream) => x.2.headDeadline) (cls 1)
  let u := sortByKey (fun (x : Nat × Stream) => x.2.headAccept) (cls 2)
  let b := im.batch
  let b := if cap = 0 then b else min b cap
  let room := fun (n : Nat) => if n = 0 then b else (b - n % b) % b
  let must := ceilDiv (s.countClass p 1) 4
  let o1 := o.take must
  let o2 := (o.drop must).take (room (v.length + o1.length))
  let n := v.length + o1.length + o2.length
  (v ++ o1 ++ o2 ++ u.take (room n)).map (·.1)

/-- The cluster of a core group. -/
def groupCluster (im : ImageInfo) (g : Nat) : Nat := g * max 1 im.groupCores / 32

/-- Batch slots of a group already given in a pass. -/
def usedSlots (l : List WorkEntry) (k g : Nat) : Nat := (l.filter (fun e => e.pass == k && e.group == g)).length

/-- The core group a stream is placed on in a pass (R72); `none` when no group has a free slot. -/
def placeGroup (im : ImageInfo) (groups : List Nat) (l : List WorkEntry) (k : Nat) (x : Stream) : Option Nat :=
  let open' := groups.filter (fun g => usedSlots l k g < im.groupSlots)
  let own := x.coreGroup.toNat
  let forced := match x.placeNext with
    | some g => if open'.contains g then some g else none
    | none => none
  match forced with
  | some g => some g
  | none =>
    let near := open'.filter (fun g => groupCluster im g == x.resCluster.toNat)
    if near.contains own then some own
    else match near with
      | g :: _ => some g
      | [] =>
        match open' with
        | [] => none
        | g :: gs => some (gs.foldl (fun b h => if usedSlots l k h < usedSlots l k b then h else b) g)

/-- The work entry of a stream (R194). -/
def State.entryOf (s : State) (q : Partition) (im : ImageInfo) (l : List WorkEntry) (k g i pos : Nat) : WorkEntry :=
  let x := s.stream i
  let half := x.stateUnits.toNat * 4096
  let c := x.chunks.head?
  let no := (c.map (·.no)).getD 0
  ⟨Fin.ofNat 16384 i, no, k, g, usedSlots l k g, groupCluster im g != x.resCluster.toNat, (c.map (·.frames)).getD 0,
    c.bind (·.deadline), x.slotAddr im.slotBytes no + 0x40, x.stateAddr.toNat + (if x.commitSide then half else 0),
    x.stateAddr.toNat + (if x.commitSide then 0 else half), q.outArea + pos * outPerStream im, x.nextOutSeq, 0, false,
    false, false⟩

/-- Place streams in order into passes: a pass that has no slot left is followed by the next (R71, R72, R468). -/
def State.placeAll (s : State) (q : Partition) (im : ImageInfo) (groups : List Nat) : List Nat → Nat → List WorkEntry →
    List WorkEntry
  | [], _, l => l
  | i :: rest, k, l =>
    match placeGroup im groups l k (s.stream i) with
    | some g => s.placeAll q im groups rest k (l ++ [s.entryOf q im l k g i l.length])
    | none =>
      match placeGroup im groups l (k + 1) (s.stream i) with
      | some g => s.placeAll q im groups rest (k + 1) (l ++ [s.entryOf q im l (k + 1) g i l.length])
      | none => s.placeAll q im groups rest k l

/-- The committed length of a decoder stream (R263). -/
def State.seqLen (s : State) (x : Stream) : Nat := s.readNat (x.pageTable + 8 + 8 * flag x.commitSide) 8

/-- The bucket of a stream's length (R269). -/
def State.bucketOf (s : State) (im : ImageInfo) (i : Nat) : Nat :=
  match im.attn with
  | some a => (indexOf? (fun b => s.seqLen (s.stream i) ≤ b) a.buckets).getD a.buckets.length
  | none => 0

/-- Entries by pass and group, within a group by bucket, else in list order (R269). -/
def State.orderEntries (s : State) (im : ImageInfo) (l : List WorkEntry) : List WorkEntry :=
  sortByKey (fun (e : WorkEntry) => e.pass) (sortByKey (fun (e : WorkEntry) => e.group)
    (sortByKey (fun (e : WorkEntry) => s.bucketOf im e.stream.val) l))

/-- The bytes of a work-slice entry (R194). -/
def State.sliceEntry (s : State) (im : ImageInfo) (e : WorkEntry) : Bytes :=
  b4 (s.stream e.stream.val).handle.toNat ++ b2 (e.slot * max 1 im.chunkFrames) ++ b1 e.frames ++ b1 (flag e.load)
    ++ b8 e.chunkAddr ++ b8 e.stateIn ++ b8 e.stateOut ++ b8 e.outAddr ++ zeros 8

/-- Where a step's work slices lie: beyond those of the steps that run (R193). -/
def State.sliceArea (s : State) (n : Nat) : Nat :=
  let taken := s.parts.filterMap (fun (v : Nat × Partition) => v.2.step.map (fun r => (r.sliceBase, 48 * r.list.length)))
  ((workLists :: taken.map (fun t => t.1 + t.2)).find? (fun a => clearOf taken a (48 * n))).getD workLists

/-- A chunk enters a work list: with GAP set, or a reset owed, its first frame carries a reset mark (R82, R247); a stream that ran
on another core group has migrated (R73, R86), a home stream's shards get their start records (R274). -/
def State.enterList (s : State) (e : WorkEntry) (step : BitVec 48) (im : ImageInfo) : State :=
  let i := e.stream.val
  let x := s.stream i
  let moved := (x.chunksDone != 0 || x.lastRunStep != 0) && x.coreGroup.toNat != e.group
  let s := if moved then
      s.modPart x.part.val (fun q => { q with seeing := q.seeing.map (fun g => { g with migrated := g.migrated + 1 }) })
    else s
  let s := if x.gap || x.resetNext then
      let a := e.chunkAddr
      s.writeRaw a [(s.read a 1).getD 0 0 ||| 1]
    else s
  let s := match x.chunks.head? with
    | some c => s.startShards i c.first.toNat c.frames
    | none => s
  s.setStream i { x with gap := false, resetNext := false, placeNext := none, coreGroup := BitVec.ofNat 10 e.group,
                         resCluster := BitVec.ofNat 6 (groupCluster im e.group), lastRunStep := step }

/-! ### Resumption (R81, R479) -/

/-- Deadlines of an adopted shadow's chunks, measured from now (R479). -/
def redate (cls w now : Nat) : List Chunk → Nat → List Chunk
  | [], _ => []
  | c :: cs, k =>
    let d := if cls = 2 then none else some (now + (if cls = 0 then 2 * w else 8 * w) + k * w)
    { c with deadline := d } :: redate cls w now cs (k + 1)

/-- ORPHANED streams are resumed at a step start: adopted ones, and under RESUME, the policy in force, all but shadows; a committed
image of another LAYOUT is a layout change (R81, R246). -/
def State.resumeOrphans (s : State) (p : Nat) (w : Nat) (hold : Bool) : State :=
  (s.openStreams p).foldl (fun t v =>
    let x := t.stream v.1
    if x.state == .orphaned && (x.resume || (!hold && x.shadow.isNone)) then
      let t := match (t.part? p).bind (·.image?) with
        | some im => t.relayout p im v.1 false
        | none => t
      let x := t.stream v.1
      let chunks := if x.shadow.isSome then redate x.cls.val w t.time x.chunks 0 else x.chunks
      t.setStream v.1 { x with state := if x.drain then .draining else .active, resume := false, chunks := chunks,
                               shadow := none }
    else t) s

/-! ### KV pages at a step start (R266, R267, R331, R332) -/

/-- Take a slot of a tier from the pool. -/
def Partition.takeSlot (q : Partition) (lp : Bool) : Option (Nat × Partition) :=
  if lp then match q.kvLp with
    | a :: r => some (a, { q with kvLp := r })
    | [] => none
  else match q.kvHbm with
    | a :: r => some (a, { q with kvHbm := r })
    | [] => none

/-- Word 0 of a page table entry (R262). -/
def pageWord (lp : Bool) (a : Nat) : Nat := 2 ^ 63 + flag lp * 2 ^ 62 + a

/-- The page's word 0. -/
def State.page0 (s : State) (x : Stream) (layer page : Nat) : Nat :=
  s.readNat (ptEntry x.pageTable (s.ptMaxPages x) layer page) 8

/-- A page may move: valid, in the other tier, all its positions folded and committed, not on its way (R267). -/
def State.movable (s : State) (q : Partition) (i layer page : Nat) (toLp : Bool) : Bool :=
  let x := s.stream i
  let w := s.page0 x layer page
  bit w 63 && bit w 62 != toLp && (page + 1) * 256 ≤ s.seqLen x &&
    q.moves.all (fun v => !(v.stream.val == i && v.layer == layer && v.page == page))

/-- Start a page's move where a slot of the target tier is free. -/
def State.startMove (s : State) (p i layer page : Nat) (toLp : Bool) (m : Option (Fin 64)) : Option State :=
  match s.part? p with
  | none => none
  | some q =>
    if s.movable q i layer page toLp then
      match q.takeSlot toLp with
      | some (a, q) =>
        some (s.setPart p { q with moves := q.moves ++ [⟨Fin.ofNat 16384 i, layer, page, toLp, a,
          bits (s.page0 (s.stream i) layer page) 0 48, 0, m⟩] })
      | none => none
    else none

/-- Moves advance: old slots of rewritten pages are freed, copied pages have word 0 rewritten (R331). -/
def State.advanceMoves (s : State) (p : Nat) : State :=
  match s.part? p with
  | none => s
  | some q =>
    let done := q.moves.filter (fun v => v.phase == 2)
    let q := q.giveSlots (done.map (fun v => (!v.toLp, v.oldSlot)))
    let copied := q.moves.filter (fun v => v.phase == 1)
    let moves := (q.moves.filter (fun v => v.phase != 2)).map (fun v => if v.phase == 1 then { v with phase := 2 } else v)
    let cmds := q.tierCmds.map (fun c =>
      { c with moved := c.moved + (copied.filter (fun v => v.mbx == some c.mbx)).length })
    let s := s.setPart p { q with moves := moves, tierCmds := cmds }
    copied.foldl (fun t v =>
      let x := t.stream v.stream.val
      t.writeNat (ptEntry x.pageTable (t.ptMaxPages x) v.layer v.page) 8 (pageWord v.toLp v.newSlot)) s

/-- Commands take their slots: each page still to do starts its move or is skipped (R330). -/
def State.startCmds (s : State) (p : Nat) : State :=
  match s.part? p with
  | none => s
  | some q =>
    q.tierCmds.foldl (fun t c =>
      let (t, sk) := c.todo.foldl (fun (a : State × Nat) v =>
        match a.1.startMove p c.stream.val v.1 v.2 c.toLp (some c.mbx) with
        | some u => (u, a.2)
        | none => (a.1, a.2 + 1)) (t, 0)
      t.modPart p (fun q => { q with tierCmds := q.tierCmds.map (fun d =>
        if d.mbx = c.mbx then { d with todo := [], skipped := d.skipped + sk } else d) })) s

/-- Commands whose pages are all moved or skipped are answered (R330). -/
def State.answerTier (s : State) (p : Nat) : State :=
  match s.part? p with
  | none => s
  | some q =>
    let fin := q.tierCmds.filter (fun c => c.todo.isEmpty && q.moves.all (fun v => v.phase == 2 || v.mbx != some c.mbx))
    let s := s.setPart p { q with tierCmds := q.tierCmds.filter (fun c => !(fin.any (fun d => d.mbx == c.mbx))) }
    fin.foldl (fun t c => t.ok c.mbx (pack [b4 c.moved, b4 c.skipped])) s

/-- Positions that a stream's next start may append: 128, those of a whole Umber job where it appends more (R266). -/
def State.appends (s : State) (p : Nat) (x : Stream) : Nat :=
  match ((s.part? p).bind (·.image?)).bind (·.attn) with
  | some a => if x.cls.val = 2 then max 128 a.umberAppend else 128
  | none => 128

/-- Pages of every layer for a stream's next positions; what lacks first where the pool has none left (R266). -/
def State.supplyPages (s : State) (p i : Nat) : State × Option (Nat × Nat) :=
  let x := s.stream i
  if x.pageTable = 0 then (s, none)
  else
    let len := s.seqLen x
    let lo := len / 256
    let hi := min ((len + s.appends p x - 1) / 256) (s.ptMaxPages x - 1)
    let want := (List.range (s.ptLayers x)).flatMap (fun l => ((List.range (hi + 1 - lo)).map (fun k => (l, lo + k))))
    want.foldl (fun (a : State × Option (Nat × Nat)) v =>
      let y := a.1.stream i
      if bit (a.1.page0 y v.1 v.2) 63 then a
      else match a.2 with
        | some _ => a
        | none =>
          match a.1.part? p with
          | none => a
          | some q =>
            let got := match q.takeSlot false with
              | some (ad, q) => some (false, ad, q)
              | none => match q.takeSlot true with
                | some (ad, q) => some (true, ad, q)
                | none => none
            match got with
            | some (lp, ad, q) =>
              ((a.1.setPart p q).writeNat (ptEntry y.pageTable (a.1.ptMaxPages y) v.1 v.2) 8 (pageWord lp ad), none)
            | none => (a.1, some v)) (s, if lo > hi then some (0, lo) else none)

/-- A stream waits for a page, with the event once for each time it comes to wait, or waits no longer (R266; log 38). -/
def State.noteLack (s : State) (i : Nat) (lack : Option (Nat × Nat)) : State :=
  match lack with
  | none => s.setStream i { s.stream i with noPage := false }
  | some v =>
    let was := (s.stream i).noPage
    let s := s.setStream i { s.stream i with noPage := true }
    if was then s else s.raiseStream 0x8502 i (pack [b2 v.1, b2 v.2])

/-- A stream gets its next pages, or waits for them. -/
def State.supplyStream (s : State) (p i : Nat) : State :=
  if (s.stream i).pageTable = 0 then s
  else let (s, lack) := s.supplyPages p i; s.noteLack i lack

/-- Below the low-water mark pages of STALLED streams are demoted, least recently run first (R332). -/
def State.demote (s : State) (p : Nat) : State :=
  match s.part? p with
  | none => s
  | some q =>
    if q.kvLow = 0 || q.kvLow ≤ q.kvHbm.length then s
    else
      let stalled := sortByKey (fun (x : Nat × Stream) => x.2.lastRunStep.toNat)
        ((s.openStreams p).filter (fun x => x.2.state == .stalled && x.2.pageTable != 0))
      let pages := stalled.flatMap (fun x => (List.range (s.ptLayers x.2 * s.ptMaxPages x.2)).map (fun k =>
        (x.1, k / max 1 (s.ptMaxPages x.2), k % max 1 (s.ptMaxPages x.2))))
      pages.foldl (fun t v =>
        match t.part? p with
        | none => t
        | some u =>
          let coming := (u.moves.filter (fun w => w.toLp)).length
          if u.kvHbm.length + coming ≥ 2 * u.kvLow then t
          else (t.startMove p v.1 v.2.1 v.2.2 true none).getD t) s

/-- Every stream that may be listed keeps its next pages, where the pool has them (R266). -/
def State.supplyAll (s : State) (p : Nat) : State :=
  (s.openStreams p).foldl (fun t x =>
    if x.2.state == .active || x.2.state == .draining then t.supplyStream p x.1 else t) s

/-- No step starts, so no page table entry is written (R262): only streams whose pages the pool could not supply come to wait. -/
def State.noteLacks (s : State) (p : Nat) : State :=
  ((s.openStreams p).foldl (fun (a : State × State) x =>
    if (x.2.state == .active || x.2.state == .draining) && x.2.pageTable != 0 then
      let (u, lack) := a.1.supplyPages p x.1
      (u, if lack.isSome then a.2.noteLack x.1 lack else a.2)
    else a) (s, s)).2

/-- The KV actions of a step start. -/
def State.kvStart (s : State) (p : Nat) : State :=
  ((((s.advanceMoves p).startCmds p).answerTier p).supplyAll p).demote p

/-! ### Starting a step (R75) -/

/-- Nanoseconds of the last 64 step windows during which the partition ran steps. -/
def State.ranNs (s : State) (q : Partition) : Nat :=
  q.intervals.foldl (fun t v => t + (v.2 - max v.1 (s.time - 64 * q.w))) 0

/-- One of the three moments of R75 has come. -/
def State.startDue (s : State) (q : Partition) (im : ImageInfo) (l : List WorkEntry) : Bool :=
  let n := l.length
  let eager := s.ranNs q * 100 < q.eager * (64 * q.w)
  let target := if q.gather = 0 then im.batch else q.gather
  let slack := match listMin? (l.filterMap (·.deadline)) with
    | some d => d ≤ s.time + stepCost im n (secF q.sect) + secRelease q.sect + 1000000 + q.slack
    | none => false
  eager || target ≤ n || slack

/-- Each core's store generator is set at a step start (R114); HIGH_WATER counts from here (R189). -/
def State.seedCores (s : State) (q : Partition) (im : ImageInfo) (step : BitVec 48) : State :=
  q.cores.foldl (fun t c => t.modCore c (fun k => { k with gen := lfsrSeed im.seed step c, highWater := 0 })) s

/-- The step start: what waits applies, orphans resume, the list is built and the step begins; without a due start only
pages are supplied (R70, R71, R75, R266). -/
def State.startStep (s : State) (p : Nat) : State :=
  match s.part? p with
  | none => s
  | some q0 =>
    if q0.step.isSome || q0.image?.isNone then s
    else
      let t := s.idleBoundary p
      let t := (t.resumeOrphans p (((t.part? p).map Partition.w).getD 0) (((t.part? p).map Partition.policyHold).getD false)).kvStart p
      match t.part? p with
      | none => s
      | some q =>
        match q.image? with
        | none => s
        | some im =>
          let groups := (passGroupsOf q.sect im).filter (fun g => t.groupServes im g)
          let l := t.orderEntries im (t.placeAll q im groups (t.listOrder p im (groups.length * im.groupSlots)) 0 [])
          if l.isEmpty || !t.startDue q im l then s.noteLacks p
          else
            let base := t.sliceArea l.length
            let passes := listMax (l.map (fun e => e.pass + 1))
            let r : StepRun := ⟨q.stepNo, l, passes, 0, false, t.now, t.now, false, false, none, base, 0, false, []⟩
            let t := l.foldl (fun u e => u.enterList e q.stepNo im) t
            let t := t.modPart p (fun v => { v with step := some r })
            let t := (t.startGather q q.stepNo).seedCores q im q.stepNo
            t.writeRaw base (l.flatMap (fun e => t.sliceEntry im e))

end Sys2Proof.Machine
end

