-- ==== Sys2Proof/Machine/Outputs.lean ====
section
/-! DEFINITION. Releasing outputs to RTP, audio rings and host rings, and programme audio
(R53, R66, R349, R350, R354, R382, R398, R400, R471). -/

namespace Sys2Proof.Machine

/-! ### Sample values -/

/-- The value of an element code of a plain format (R89, R93). -/
def plainValue (fmt c : Nat) : Num :=
  match ffmtOf fmt with
  | some f => f.decode c
  | none => if isUint fmt then .ofInt c else .ofInt (signedOf (widthOf fmt) c)

/-- The elements of a byte string in a format. -/
def plainElems (fmt : Nat) (bs : Bytes) : List Num :=
  let w := widthOf fmt
  if w = 4 then bs.flatMap (fun b => [plainValue fmt (b.toNat % 16), plainValue fmt (b.toNat / 16)])
  else (List.range (bs.length / (w / 8))).map (fun i => plainValue fmt (le bs (i * (w / 8)) (w / 8)))

/-- A sample as a word of `w` bits: nearest even, saturating, NaN 0 (R115). -/
def toPcm (w : Nat) (v : Num) : Int := (toIntRange (-(2 ^ (w - 1) : Nat)) ((2 ^ (w - 1) : Nat) - 1) v).1

/-- A word of `w` bits left-justified in 32 bits (R349). -/
def justify (w : Nat) (i : Int) : Nat := intCode w i * 2 ^ (32 - w)

/-- A word's `n` bytes in network order. -/
def netBytes (n : Nat) (v : Nat) : Bytes := (natToBytes n v).reverse

/-! ### The output ring of a group (R350) -/

def outRing (g : Nat) : Nat := hubBase + 0x280000 + g * 0x84000
def inRing (g : Nat) : Nat := hubBase + 0x200000 + g * 0x8000
def cellAddr (g pos slot : Nat) : Nat := outRing g + (pos % 4096 * 16 + slot) * 8
def validAddr (g pos : Nat) : Nat := outRing g + 0x80000 + 4 * (pos % 4096)

/-- Write a generated or programme sample at a position; a position already played or 4,096 or more ahead is discarded. -/
def State.writeCell (s : State) (g pos slot : Nat) (prog : Bool) (w : Nat) : State :=
  let x := s.group g
  let now := x.frame.toNat
  if pos < now || now + 4096 ≤ pos then s
  else
    let s := s.writeNat (cellAddr g pos slot + (if prog then 4 else 0)) 4 w
    let v := s.readNat (validAddr g pos) 4
    let b := if prog then 16 + slot else slot
    let s := s.writeNat (validAddr g pos) 4 (if v.testBit b then v else v + 2 ^ b)
    if prog then
      let k := x.slot slot
      s.setGroup g { x with slots := tabPut x.slots slot { k with newest := some (max pos (k.newest.getD 0)) } }
    else s

/-- The words of interleaved samples of `m` channels as samples of `n`: a channel the source has not is a free value, one the sink
has not is dropped (R354, R540; log 31). -/
def spreadChannels (m n free : Nat) (ws : List Nat) : List Nat :=
  (List.range (ws.length / max 1 m)).flatMap (fun t => (List.range n).map (fun c =>
    if c < m then ws.getD (t * m + c) 0 else Config.freeNat (free + t) % 2 ^ 32))

/-- Write a run of interleaved words from a position. -/
def State.writeRun (s : State) (g slot chans : Nat) (prog : Bool) : List Nat → Nat → Nat → State
  | [], _, _ => s
  | w :: ws, pos, ch =>
    let s := s.writeCell g pos (slot + ch) prog w
    if ch + 1 = chans then s.writeRun g slot chans prog ws (pos + 1) 0 else s.writeRun g slot chans prog ws pos (ch + 1)

/-- Words of `w` significant bits: the lower bits read 0 (R349). -/
def maskWord (w v : Nat) : Nat := v / 2 ^ (32 - w) * 2 ^ (32 - w)

/-- The accepted input samples of a stream with an audio sink are written as programme samples; the first sets F0 (R354). -/
def State.writeProgramme (s : State) (i : Nat) (c : Chunk) : State :=
  let x := s.stream i
  if x.sinkKind = 2 then
    let g := audGroup x.sink
    let x := match x.outlet.f0 with
      | some _ => x
      | none => { x with outlet := { x.outlet with f0 := some ((s.group g).frame.toNat + audDelay x.sink) } }
    let s := s.setStream i x
    let w := (s.group g).wordBits
    let shape := (s.part? x.part.val).bind (·.shape?)
    let words := if x.srcKind = 3 then
        match shape with
        | some im => (plainElems im.inFmt.toNat c.payload).map (fun v => justify w (toPcm w v))
        | none => []
      else (List.range (c.payload.length / 4)).map (fun k => maskWord w (le c.payload (4 * k) 4))
    let n := if audPair x.sink then 2 else 1
    let m := max 1 (if x.srcKind = 3 then (shape.map (·.chIn)).getD 1 else x.channelsIn)
    let (_, t) := s.free
    t.writeRun g (audSlot x.sink) n true (if m = n then words else (spreadChannels m n s.freeCtr words).map (maskWord w))
      ((x.outlet.f0.getD 0) + c.first.toNat) 0
  else s

/-! ### RTP (R398) -/

/-- Send one RTP packet; a MAC that is down discards and counts it (R409). Packets of the last 200 µs are kept (R382). -/
def State.sendRtp (s : State) (i : Nat) (payload : Bytes) (samples : Nat) : State :=
  let x := s.stream i
  let b := x.binding
  let m := rtpMac x.sink
  let mac := s.mac m
  let o := x.outlet
  let ts := if bndAlign b && x.srcKind = 1 && bndRateOut b = x.sampleRate.toNat then x.intake.ts0.getD 0
    else BitVec.ofNat 32 (le b 0x10 4)
  let stamp := ts + BitVec.ofNat 32 o.sent
  let pt := slice b 3 1
  let head : Bytes := [0x80, (pt.getD 0 0) ||| (if o.marker then 0x80 else 0)] ++ netBytes 2 o.seq.toNat
    ++ netBytes 4 stamp.toNat ++ netBytes 4 (rtpSsrc x.sink)
  let s := s.setStream i { x with outlet := { o with seq := o.seq + 1, sent := o.sent + samples, packets := o.packets + 1, marker := false } }
  if mac.up then
    let s := s.needHop m (BitVec.ofNat 128 (netToNat (slice b 0x20 16)))
    let mac := s.mac m
    let keep := mac.recent.filter (fun r => s.time < r.1.toNat + 200000)
    let s := s.setMac m { mac with recent := keep ++ [(s.now, s.rtpMark x, head ++ payload)] }
    s.depart (.rtp (Fin.ofNat 16 m) ((slice b 0x18 1).getD 0 0) (slice b 0x20 16) (BitVec.ofNat 16 (le b 0xC 2))
      (BitVec.ofNat 16 (rtpPort x.sink)) o.marker (pt.getD 0 0) o.seq stamp (BitVec.ofNat 32 (rtpSsrc x.sink)) payload)
      (some (s.rtpMark x))
  else s.setMac m { mac with discarded := mac.discarded + 1 }

/-- Cut words into packets of at most `n` samples. -/
def State.packetise (s : State) (i chans bytes n : Nat) : Nat → List Int → State
  | 0, _ => s
  | k + 1, vs =>
    match vs with
    | [] => s
    | _ =>
      let mine := vs.take (n * chans)
      let s := s.sendRtp i (mine.flatMap (fun v => netBytes bytes (intCode (8 * bytes) v))) (mine.length / chans)
      s.packetise i chans bytes n k (vs.drop (n * chans))

/-! ### Host rings (R400) -/

/-- A released record waits for its ring; beyond 16 the oldest is dropped with an event. -/
def State.queueSink (s : State) (i : Nat) (seq : W32) (bs : Bytes) : State :=
  let x := s.stream i
  let o := x.outlet
  match o.waiting with
  | (n, _) :: rest =>
    if o.waiting.length ≥ 16 then
      (s.setStream i { x with outlet := { o with waiting := rest ++ [(seq, bs)] } }).raiseStream 0x8507 i (pack [b4 n.toNat, b4 1])
    else s.setStream i { x with outlet := { o with waiting := o.waiting ++ [(seq, bs)] } }
  | [] => s.setStream i { x with outlet := { o with waiting := [(seq, bs)] } }

/-- The oldest waiting record is written, body then header, where a queue pair serves and its entry is not known as unread:
the record written there last is among those the consumer counts as read (R400). -/
def State.writeSink (s : State) (i : Nat) : State :=
  let x := s.stream i
  let o := x.outlet
  match o.waiting with
  | [] => s
  | (seq, bs) :: rest =>
    let n := bndRingEntries x.binding
    if tabGet o.entries 0 (seq.toNat % n) ≤ o.cons.toNat then
      match s.qpFor x.part.val (ringPeer x.sink) with
      | some (qn, q) =>
        let a := BitVec.ofNat 64 (bndRingAddr x.binding + seq.toNat % n * bndEntryBytes x.binding)
        let body := bs.take (bndEntryBytes x.binding - 16)
        let head := b4 x.handle.toNat ++ b4 seq.toNat ++ b4 bs.length ++ zeros 4
        let s := s.setStream i { x with outlet := { o with waiting := rest, written := o.written + 1,
                                                            entries := tabPut o.entries (seq.toNat % n) (o.written + 1) } }
        let s := s.sendOn qn q .write (q.remoteVa (a + 16)) body 0 .other
        match s.qp? qn with
        | some q => s.sendOn qn q .write (q.remoteVa a) head 0 .other
        | none => s
      | none => s
    else s

/-! ### Release (R53, R66, R471) -/

/-- Hand a released record to the stream's sink; `first` is the stream time of its first sample. -/
def State.handOut (s : State) (i : Nat) (im : ImageInfo) (seq : W32) (bs : Bytes) (first : Nat) : State :=
  let x := s.stream i
  match x.sinkKind with
  | 1 =>
    let bytes := if le x.binding 6 1 = 0 then 2 else 3
    let ch := max 1 (bndChannelsOut x.binding)
    let vs := (plainElems im.outFmt.toNat bs).map (toPcm (8 * bytes))
    s.packetise i ch bytes (max 1 (bndPtime x.binding)) (vs.length + 1) vs
  | 2 =>
    let g := audGroup x.sink
    let w := (s.group g).wordBits
    let ws := (plainElems im.outFmt.toNat bs).map (fun v => justify w (toPcm w v))
    match x.outlet.f0 with
    | some f0 => s.writeRun g (audSlot x.sink) (if audPair x.sink then 2 else 1) false ws (f0 + first) 0
    | none => s
  | 3 => s.queueSink i seq bs
  | _ => s

/-- The next record of a work entry is numbered, suppressed where its number was already released, else handed out; the
chunk's last record decides whether it was late. -/
def State.releaseNext (s : State) (i : Nat) (im : ImageInfo) (e : WorkEntry) : State :=
  let x := s.stream i
  let n := x.nextOutSeq
  let k := x.releasedSeq + 1 - e.n0
  let bs := s.read (e.outAddr + e.outIdx * alignUp 256 im.outBytes) im.outBytes
  let chans := max 1 im.chOut
  let per := (plainElems im.outFmt.toNat bs).length / chans
  let first := (((x.chunks.find? (fun c => c.no == e.chunkNo)).map (·.first.toNat)).getD 0) + e.outIdx * per
  let s := s.setStream i { x with nextOutSeq := n + 1 }
  let s := s.modPart x.part.val (fun q => { q with step := q.step.map (fun r =>
    { r with list := r.list.map (fun f => if f.stream.val = i then { f with outIdx := f.outIdx + 1 } else f) }) })
  if (n - e.n0).toNat < k.toNat then s
  else
    let s := s.setStream i { s.stream i with releasedSeq := n }
    let s := s.handOut i im n bs first
    match e.deadline with
    | some d => if e.outIdx + 1 = im.outRecords && d < s.time then s.missDeadline i e.chunkNo (s.time - d) else s
    | none => s

end Sys2Proof.Machine
end

