-- ==== Sys2Proof/Machine/Replay.lean ====
section
/-! DEFINITION. Replay after a single fault (R461, R467 to R475, R491, R492). -/

namespace Sys2Proof.Machine

/-- Where a byte of HBM3E lies now: a granule of a pseudo-channel whose remap is engaged lies in the remap spare (R306, R327). -/
def State.hbmNow (s : State) (a : Nat) : Place :=
  let p := hbmPlace a
  let q := p.chip / 3
  let x := s.quad q
  if 2 ≤ x.remapState.toNat && x.stack.toNat == p.chip % 3 && x.pc.toNat == p.chan then
    hbmPlace (spareGranule q p.chip p.chan (p.offset / 1024) + p.offset % 1024)
  else p

/-- Where a byte of LPDDR5X lies now: in the spare block of its 64 MiB block's remap entry, once that is engaged (R311, R313). -/
def State.lpNow (s : State) (a : Nat) : Place :=
  match (s.quad ((a - lpBase) / 0x4000000000)).blocks.find? (fun v => v.1 == a / 0x4000000) with
  | some v => lpPlace (0x4000000 * v.2 + a % 0x4000000)
  | none => lpPlace a

/-- The unit identifier of the memory that holds an address (R305, R306, R311, R481). -/
def State.memUnit (s : State) (a : Nat) : Nat :=
  match regionOf (backing a) with
  | .hbm => unitId 7 (s.hbmNow a).chip (s.hbmNow a).chan
  | .hbmRes => unitId 7 (s.hbmNow a).chip (s.hbmNow a).chan
  | .lpddr => unitId 8 (s.lpNow a).chip (s.lpNow a).chan
  | .cluster n off => unitId 4 n (off / 0x20000)
  | .core n _ => unitId 3 n 0
  | .hub off => unitId 6 (off / 0x40000) 0
  | _ => 0

/-- The row of R467 of the memory that holds an address. -/
def memClass (a : Nat) : Fin 12 :=
  match regionOf (backing a) with
  | .hbm => 5
  | .hbmRes => 5
  | .lpddr => 6
  | .cluster _ _ => 3
  | .core _ _ => 2
  | _ => 4

/-- The fault-recovered event (R473). -/
def State.recovered (s : State) (f : FaultReport) (phys action core us step : Nat) (part : Nat) : State :=
  s.raise 0x8906 part 0 0 (pack [b8 f.unit.toNat, b4 phys, b1 f.cls.val, b1 action, b2 core, b4 us, b8 step])

/-- The running contexts of a partition's pass stop without a fault: their results are discarded, their streams keep
their place (R468); a parked context stays parked (R223). -/
def State.stopPass (s : State) (p : Nat) : State :=
  let live := (s.liveContexts p).filter (fun x => x.2.state != .parked)
  let s := live.foldl (fun t x => t.stopContext x.1 x.2 .idle) s
  { s with ctxs := s.ctxs.filter (fun x => !(live.any (fun v => v.1 == x.1))) }

/-- The photometers of the cores that a pass will use again fall back to their values at its start, those whose context had ended
with them (R137). -/
def State.forgetPass (s : State) (im : ImageInfo) (r : StepRun) (k : Nat) : State :=
  let groups := ((r.list.filter (fun e => e.pass == k && !e.gone && !e.committed)).map (·.group)).eraseDups
  (groups.flatMap (groupCores im)).foldl (fun t c => t.modCore c (fun v => { v with phot := v.photAtPass })) s

/-- A single fault interrupts pass `k` of a partition's step; the pass waits for its reload, behind another that does
(R468, R469, R475). -/
def State.interruptPass (s : State) (p k : Nat) (f : FaultReport) : State :=
  match s.part? p with
  | none => s
  | some q =>
    match q.step with
    | none => s
    | some r =>
      let mine := r.passOn && r.running == k
      let ids := if mine then ((s.liveContexts p).filter (fun x => x.2.state != .parked)).map (fun x => BitVec.ofNat 16 x.1) else []
      let s := if mine then s.stopPass p else s
      let s := match mine, q.image? with
        | true, some im => s.forgetPass im r k
        | _, _ => s
      let v : Replay := ⟨f, ids, k, r.passStart⟩
      let r := { r with passOn := r.passOn && !mine }
      let r := match r.replay with
        | none => { r with replay := some v }
        | some w => if w.pass = k || r.more.any (fun u => u.pass == k) then r else { r with more := r.more ++ [v] }
      s.setPart p { q with step := some r }

/-- The next pass that waits for its replay. -/
def StepRun.popReplay (r : StepRun) : StepRun := { r with replay := r.more.head?, more := r.more.tail }

/-- Every context of a partition's running pass is torn down with a code (R79, R472). -/
def State.tearPass (s : State) (p code core : Nat) : State :=
  let ids := (s.liveContexts p).map (·.1)
  (ids.foldl (fun t id => t.teardown id code core 0 0) s).settle p

/-- A second fault meets a pass that waits for its replay: the contexts that stopped for it are torn down, its streams orphaned,
and the pass ends (R79, R472). The caller settles the step. -/
def State.orphanPass (s : State) (p code core : Nat) (v : Replay) : State :=
  match (s.part? p).bind (·.step) with
  | none => s
  | some r =>
    let mine := r.list.filter (fun e => e.pass == v.pass && !e.gone && !e.committed)
    let s := mine.foldl (fun t e =>
      if (t.stream e.stream.val).closeReq then t.closeStream e.stream.val false else t.orphan e.stream.val code) s
    let s := v.ctxs.foldl (fun t id =>
      t.raise 0x8C01 p 0 0 (pack [b2 id.toNat, b2 core, b2 0, b2 0, b2 code, b8 r.no.toNat])) s
    s.modPart p (fun q => { q with step := q.step.map (fun r =>
      if r.passOn then r.popReplay else { r.popReplay with passOn := true, running := v.pass }) })

/-- The reload has ended: the pass runs again and the recovery is reported (R469 to R473, R492). -/
def State.rerun (s : State) (p : Nat) : State :=
  match (s.part? p).bind (·.step) with
  | none => s
  | some r =>
    match r.replay with
    | none => s
    | some v =>
      if r.passOn then s
      else
        let us := (s.time - v.passStart.toNat) / 1000
        let id := v.fault.unit.toNat
        let kind := bits id 56 8
        let core := bits id 32 16
        let onCore := kind ≤ 3 && kind ≠ 0 && core < 1536
        let phys := if onCore then s.corePhys core (if kind = 1 then s.tilePos core (bits id 16 16) else 0) else s.physUnit id
        let lc := if onCore then core else 0xFFFF
        let h := s.health
        let s := { s with health := { h with replayCnt := satAdd h.replayCnt 1,
                                             maxUs := BitVec.ofNat 16 (max h.maxUs.toNat (min us 65535)),
                                             lastUs := BitVec.ofNat 16 (min us 65535) } }
        let s := s.modPart p (fun q => { q with step := q.step.map (fun r => r.popReplay) })
        let s := if onCore then s.rebuildUnit p core
          else if kind = 4 then s.rebuildUnit p (1536 + core) else s
        let s := s.startPass p v.pass true
        let s := s.wear id phys 7 0 lc us
        s.recovered v.fault phys 0 lc us r.no.toNat p

end Sys2Proof.Machine
end

