-- ==== Sys2Proof/Machine/Recovery.lean ====
section
/-! DEFINITION. Single faults of tiles, cores, memories and links: repair, spare engagement, lost data and the passes
they interrupt (R25, R26, R313, R325 to R328, R467 to R475). -/

namespace Sys2Proof.Machine

/-! ### Whose work a unit carries -/

/-- The partition that holds an address: by its extents, its windows or its archive rings. -/
def State.partOfAddr (s : State) (a : Nat) : Option Nat :=
  match regionOf a with
  | .hbm => (s.parts.find? (fun p => inExtents p.2.hbm a 1)).map (·.1)
  | .lpddr => (s.parts.find? (fun p => inExtents p.2.lp a 1)).map (·.1)
  | .cluster n _ => (s.clusterOwner n).map (·.val)
  | .core n _ => s.coreOwner n
  | .hbmRes =>
    (s.streams.find? (fun x => x.2.state != .closed && s.archHeld.any (fun h =>
      h.1 == x.2.archAddr && h.1 ≤ a && a < h.1 + h.2))).map (fun x => x.2.part.val)
  | _ => none

/-- A running context of a partition has a core that satisfies the test. -/
def State.runsOn (s : State) (p : Nat) (uses : Nat → Bool) : Bool :=
  (s.liveContexts p).any (fun x => (x.2.state == .running || x.2.state == .saving) && x.2.cores.any uses)

/-- A pass that waits for its replay will use a core that satisfies the test. -/
def State.replayUses (s : State) (p : Nat) (uses : Nat → Bool) : Bool :=
  match s.part? p with
  | some q =>
    match q.step, q.image? with
    | some r, some im =>
      match r.replay with
      | some v => r.list.any (fun e => e.pass == v.pass && !e.gone && (groupCores im e.group).any uses)
      | none => false
    | _, _ => false
  | none => false

/-- What a single fault does to one partition: a running pass that uses the unit is interrupted, a pass in replay that
uses it is torn down (R468, R472). Answers whether a pass now waits for a replay. -/
def State.strike (s : State) (p : Nat) (f : FaultReport) (core : Nat) (uses : Nat → Bool) : Bool × State :=
  match (s.part? p).bind (·.step) with
  | none => (false, s)
  | some r =>
    if r.passOn && s.runsOn p uses then
      if r.again then (false, s.tearPass p 8 core) else (true, s.interruptPass p r.running f)
    else if s.replayUses p uses then
      match r.replay with
      | some v => (false, (s.orphanPass p 8 core v).settle p)
      | none => (false, s)
    else (false, s)

/-- A fault recovered without a replay is reported at once (R473). -/
def State.recoveredNow (s : State) (p : Option Nat) (f : FaultReport) (phys core : Nat) : State :=
  let s := s.wear f.unit.toNat phys 7 0 core 0
  s.recovered f phys 1 core 0 ((p.map s.stepOf).getD 0) (p.getD 0xFF)

/-- Every context on a lost core is torn down (R26). -/
def State.loseCore (s : State) (core : Nat) : State :=
  let ids := (s.ctxs.filter (fun x => x.2.cores.contains core)).map (·.1)
  let s := ids.foldl (fun t id => t.contextFault id 7 core 0 0) s
  match s.coreOwner core with
  | some p => if s.replayUses p (· == core) then (s.strike p ⟨1, 0, 0, .nothing, true⟩ core (· == core)).2 else s
  | none => s

/-- The contents of a logical core on a fresh physical core: zero, its microprogram slots empty (R174, R316). -/
def State.freshCore (s : State) (core : Nat) : State :=
  (s.zero (coreWin core) 0x90000).modCore core (fun k => { k with slots := Vector.replicate 8 [] })

/-- A faulty core is replaced and its contexts' pass waits for the reload, or it is lost. -/
def State.coreGone (s : State) (f : FaultReport) (core : Nat) (lost : Bool) (fresh : Bool) : State :=
  if lost then s.loseCore core
  else
    let s := if fresh then s.freshCore core else s
    let p := s.coreOwner core
    let (waits, s) := match p with
      | some k => s.strike k f core (· == core)
      | none => (false, s)
    if waits then s
    else
      let s := match p with
        | some k => if fresh || f.cls == 2 then s.rebuildUnit k core else s
        | none => s
      s.recoveredNow p f (s.corePhys core (if bits f.unit.toNat 56 8 = 1 then s.tilePos core (bits f.unit.toNat 16 16) else 0)) core

/-! ### The units of R467 -/

/-- A tile (R184): its blocks are discarded, the entries of its instruction leave the queue unread, the failure is counted. -/
def Core.dropTile (c : Core) (tile : Fin 16) (run : Nat) (parity : Bool) : Core :=
  { c with finished := c.finished.filter (fun b => !(b.entry.tile == tile)),
           tq := c.tq.filter (fun e => e.run != run),
           runs := c.runs.filter (fun r => r.q.no != run),
           tiles := tabDel c.tiles tile.val,
           parityCnt := if parity then satAdd c.parityCnt 1 else c.parityCnt,
           residueCnt := if parity then c.residueCnt else satAdd c.residueCnt 1,
           lastTile := some tile }

/-- A tile fault as the hub recovers it (R25, R467). -/
def State.tileFault (s : State) (f : FaultReport) (core : Nat) (tile : Fin 16) : State :=
  let was := s.posOf core
  let (lost, s) := s.replaceTile core tile
  s.coreGone f core lost (s.posOf core != was)

/-- A fault of a core's own memories (R467). -/
def State.coreUnitFault (s : State) (f : FaultReport) (core : Nat) : State :=
  let (lost, s) := s.replaceCore core
  s.coreGone f core lost true

/-- An uncorrectable word or span is counted, latched and reported (R334 to R336). -/
def State.uncorrectable (s : State) (kind : BitVec 3) (scrub : Bool) (addr : DevAddr) (p : Option Nat) : State :=
  (s.memError ⟨kind, scrub, addr⟩).raise 0x8801 (p.getD 0xFF) 0 0 (pack [b1 kind.toNat, b1 (flag scrub), b8 addr.toNat])

/-- The bank of a core scratch that holds an address (R181). -/
def coreBank (a : Nat) : Nat := a / 16 % 32

/-- A word of SRAM is written as zero once its row has been replaced (R324): its span is good again. -/
def State.clearWord (s : State) (a : DevAddr) : State :=
  let t := s.zero (a.toNat / 8 * 8) 8
  { t with badSpans := t.badSpans.filter (fun k => k != backing a.toNat / 256) }

/-- A core scratch bank (R325). -/
def State.coreBankFault (s : State) (f : FaultReport) (core : Nat) : State :=
  match s.repairBank 3 core (coreBank f.addr.toNat) core false with
  | some t => (t.clearWord f.addr).coreGone f core false false
  | none => s.coreUnitFault f core

/-- A cluster scratch bank (R325): repaired, or marked failed with a fault of the contexts that use it. -/
def State.clusterBankFault (s : State) (f : FaultReport) (cl b : Nat) : State :=
  let p := (s.clusterOwner cl).map (·.val)
  let uses := fun c => c / 32 == cl
  match s.repairBank 4 cl b 0xFFFF false with
  | some t =>
    let t := t.clearWord f.addr
    let (waits, t) := match p with
      | some k => t.strike k f 0xFFFF uses
      | none => (false, t)
    if waits then t
    else
      let t := match p with
        | some k => t.rebuildUnit k (1536 + cl)
        | none => t
      t.recoveredNow p f (t.physUnit f.unit.toNat) 0xFFFF
  | none =>
    let t := s.failBank cl b
    let ids := (t.ctxs.filter (fun x => x.2.cores.any uses)).map (·.1)
    ids.foldl (fun u id => u.contextFault id 0xB 0xFFFF 0 0) t

/-- Quadrant and pseudo-channel of a unit of kind 7. -/
def pcQuad (unit : Nat) : Nat := bits unit 32 16 / 3 % 4

/-- The data that a pseudo-channel holds are lost (R328). -/
def State.losePc (s : State) (stack pc : Nat) : State :=
  { s with lostPcs := ⟨stack, pc, []⟩ :: s.lostPcs.filter (fun l => !(l.stack == stack && l.pc == pc)) }

/-- A failed pseudo-channel is remapped without a copy, or its quadrant is degraded; its data are lost (R328). -/
def State.remapFailed (s : State) (stack pc : Nat) : State :=
  let s := s.losePc stack pc
  let q := stack / 3 % 4
  let x := s.quad q
  let mine := x.stack.toNat = stack % 3 ∧ x.pc.toNat = pc
  if x.remapState = 0 ∨ (x.remapState = 1 ∧ mine) then
    let s := s.setQuad q { x with remapState := 2, stack := BitVec.ofNat 2 (stack % 3), pc := BitVec.ofNat 5 pc }
    let s := s.wear (unitId 7 stack pc) 0 4 0 0xFFFF 0
    s.raiseDev 0x8802 (pack [b1 stack, b1 pc, b1 1])
  else (s.setQuad q { x with remapState := 3 }).raiseDev 0x8903 (pack [b1 q, b1 0])

/-- A row of a pseudo-channel is repaired softly (R326). -/
def State.softRepair (s : State) (stack pc : Nat) : State :=
  let q := stack / 3 % 4
  let x := s.quad q
  (s.setQuad q { x with pprSoft := satAdd x.pprSoft 1 }).wear (unitId 7 stack pc) 0 3 0 0xFFFF 0

/-- The spare block that a remap entry of a quadrant takes: the first 64 MiB block that lies in no extent and is not one already
redirected or in use (R313), while an entry is free. -/
def State.lpSpare (s : State) (q : Nat) : Option Nat :=
  let first := lpBase / 0x4000000 + 4096 * q
  let taken := fun (b : Nat) =>
    s.parts.any (fun p => p.2.lp.any (fun x => decide (x.addr < 0x4000000 * b + 0x4000000 ∧ 0x4000000 * b < x.addr + x.gib * gib)))
      || (s.quad q).blocks.any (fun v => v.1 == b || v.2 == b)
  if (s.quad q).lpRemap.toNat < 128 then ((List.range 4096).map (first + ·)).find? (fun b => !taken b) else none

/-- A check failure of an LPDDR5X block: at the fourth within 24 hours its remap entry is engaged, or spare-low is raised. The
block's spans keep their data, and the failing ones go on failing, at the new place (R313). -/
def State.lpFailure (s : State) (a : Nat) : State :=
  let q := (a - lpBase) / 0x4000000000 % 4
  let blk := a / 0x4000000
  let h := s.health
  let recent := (tabGet h.lpFails [] blk).filter (fun t => s.time < t.toNat + 86400000000000) ++ [s.now]
  let s := { s with health := { h with lpFails := tabPut h.lpFails blk recent } }
  let x := s.quad q
  if recent.length < 4 || x.blocks.any (fun v => v.1 == blk) then s
  else
    let u := s.memUnit a
    match s.lpSpare q with
    | some b => (s.setQuad q { x with lpRemap := satAdd x.lpRemap 1, blocks := x.blocks ++ [(blk, b)] }).wear u 0 4 0 0xFFFF 0
    | none => s.raiseDev 0x8803 (b8 u)

/-! ### Lost data (R474) -/

/-- Orphan a stream, or close it where a close waits (R84). -/
def State.orphanOrClose (s : State) (i code : Nat) : State :=
  if (s.stream i).closeReq then s.closeStream i false else s.orphan i code

/-- The address of the committed side of a stream's state pair. -/
def Stream.committedAt (x : Stream) : Nat := x.stateAddr.toNat + (if x.commitSide then x.stateUnits.toNat * 4096 else 0)

/-- Chunks of a stream's archive ring committed after a step, oldest first. -/
def State.archivedSince (s : State) (x : Stream) (slotBytes step : Nat) : List Chunk :=
  let all := (List.range 16).filterMap (fun k =>
    let a := x.archAddr + slotBytes * k
    let w := s.readNat (a + 0x20) 8
    if s.readNat a 4 = x.handle.toNat && bit w 63 && step < bits w 0 48 then
      let n := s.readNat (a + 0x28) 4
      let fr := s.readNat (a + 4) 2
      some (⟨s.readNat (a + 8) 8, fr, (s.read (a + 0x40) 128).take fr, BitVec.ofNat 64 (s.readNat (a + 0x10) 8),
        BitVec.ofNat 64 (s.readNat (a + 0x18) 8), none, true, bit (s.readNat (a + 6) 2) 0, bit (s.readNat (a + 6) 2) 1,
        s.read (a + 0xC0) n⟩ : Chunk)
    else none)
  sortByKey (fun (c : Chunk) => c.no) all

/-- A lost committed image of a mirrored stream is restored from the shadow, and the chunks committed since are processed
again with their outputs suppressed. -/
def State.restoreImage (s : State) (i : Nat) (im : ImageInfo) (bs : Bytes) : State :=
  let x := s.stream i
  let step := le bs 0x10 8
  let redo := s.archivedSince x im.slotBytes step
  let due := (x.chunks.head?).bind (·.deadline)
  let redo := redo.map (fun c => { c with deadline := due })
  let s := s.writeRaw x.committedAt bs
  s.setStream i { x with chunks := redo ++ x.chunks, commitStep := BitVec.ofNat 48 step,
                         nextOutSeq := x.releasedSeq + 1 - BitVec.ofNat 32 (redo.length * im.outRecords) }

/-- A lost committed image is written afresh; the next chunk carries a reset mark. -/
def State.refreshImage (s : State) (i : Nat) (im : ImageInfo) : State :=
  let x := s.stream i
  let done := ((x.chunks.head?).map (·.first.toNat)).getD x.sampleCount.toNat
  let s := s.writeRaw x.committedAt (im.freshState x.handle.toNat (done / max 1 im.samplesPerFrame) x.commitStep.toNat)
  s.setStream i { x with resetNext := true }

/-- A lost AST entry is rebuilt from the two state images and the pending chunks. -/
def State.rebuildEntry (s : State) (i : Nat) (im : ImageInfo) : State :=
  let x := s.stream i
  let half := x.stateUnits.toNat * 4096
  let a0 := x.stateAddr.toNat
  let a1 := a0 + half
  let mine := fun a => s.readNat (a + 0x18) 4 == x.handle.toNat
  let st := fun a => s.readNat (a + 0x10) 8
  let side := if mine a0 && mine a1 then decide (st a0 < st a1) else mine a1
  let a := if side then a1 else a0
  let pend := x.chunks.foldl (fun t c => t + c.frames * max 1 im.samplesPerFrame) 0
  s.setStream i { x with commitSide := side, commitStep := BitVec.ofNat 48 (st a),
                         sampleCount := BitVec.ofNat 64 (s.readNat (a + 8) 8 * max 1 im.samplesPerFrame + pend),
                         chunksDone := 0, late := 0, chunksLost := 0 }

/-- An unprocessed archived chunk is processed with payload +0 and a reset mark. -/
def State.blankChunk (s : State) (i a : Nat) (im : ImageInfo) : State :=
  let x := s.stream i
  let hit := fun (c : Chunk) => x.slotAddr im.slotBytes c.no ≤ a && a < x.slotAddr im.slotBytes c.no + im.slotBytes
  match (x.chunks.find? (fun c => c.archived && hit c)).or (x.chunks.find? (·.archived)) with
  | none => s
  | some c =>
    let side := match c.side with
      | [] => []
      | b :: r => (b ||| 1) :: r
    let c' := { c with payload := zeros c.payload.length, side := side }
    let s := s.writeRaw (x.slotAddr im.slotBytes c.no) (c'.slot x.handle.toNat)
    s.setStream i { x with chunks := x.chunks.map (fun d => if d.no = c.no then c' else d),
                           chunksLost := satAdd x.chunksLost 1 }

/-- The image copy is lost: the image leaves service and the partition's streams become ORPHANED. -/
def State.loseImage (s : State) (p : Nat) : State :=
  let ids := (s.liveContexts p).map (·.1)
  let s := ids.foldl (fun t id => t.teardown id 0xA 0xFFFF 0 0) s
  let s := s.modPart p (fun q => { q with step := q.step.map (fun r =>
    { r with passOn := false, cur := r.passes, decided := true, replay := none, more := [] }) })
  let s := [false, true].foldl (fun t b =>
    if ((t.part? p).map (fun q => (q.img b).state == .inService)).getD false then t.emptySlot p b else t) s
  let s := (s.openStreams p).foldl (fun t x =>
    if x.2.state == .opening then t else t.orphanOrClose x.1 0xA) s
  (s.settle p).syncServing

/-- What lost data costs, by the rows of R474. -/
def State.loseData (s : State) (f : FaultReport) : State :=
  let of := fun (i : Fin 16384) => (s.part? (s.stream i.val).part.val).bind (·.image?)
  match f.lost with
  | .nothing => s
  | .committedState i img =>
    match of i with
    | none => s
    | some im =>
      let x := s.stream i.val
      match img, x.mirrorSide with
      | some bs, some _ => s.restoreImage i.val im bs
      | _, _ =>
        (s.refreshImage i.val im).raiseStream 0x8801 i.val (pack [b1 (errKind f.addr.toNat).toNat, b1 0, b8 f.addr.toNat])
  | .pendingChunk i =>
    match of i with
    | some im => s.blankChunk i.val f.addr.toNat im
    | none => s
  | .unarchivedChunk i =>
    let x := s.stream i.val
    match x.chunks.find? (fun c => !c.archived) with
    | some c => s.setStream i.val { x with chunks := x.chunks.filter (fun d => d.no != c.no), resetNext := true,
                                           chunksLost := satAdd x.chunksLost 1 }
    | none => s
  | .imageCopy p => s.loseImage p.val
  | .kvPage i =>
    let ids := (s.ctxs.filter (fun c => c.2.streams.contains i)).map (·.1)
    let s := ids.foldl (fun t id => t.contextFault id 9 0xFFFF 0 0) s
    let s := if (s.stream i.val).state == .orphaned || (s.stream i.val).state == .closed then s
      else s.orphanOrClose i.val 9
    s.modStream i.val (fun x => { x with orphanHold := x.orphanHold || x.state == .orphaned })
  | .scaleEntry p t =>
    match s.part? p.val with
    | some q =>
      match q.image? with
      | some im => s.writeRaw (q.scaleTable + 128 * t.val) (freshEntry (tagParams q.sect (some im) t.val))
      | none => s
    | none => s
  | .astEntry i =>
    match of i with
    | some im => s.rebuildEntry i.val im
    | none => s
  | .workSlice p =>
    match s.part? p.val with
    | some q =>
      match q.step, q.image? with
      | some r, some im => s.writeRaw r.sliceBase (r.list.flatMap (fun e => s.sliceEntry im e))
      | _, _ => s
    | none => s

/-- The partition whose data a fault lost. -/
def State.lostPart (s : State) (f : FaultReport) : Option Nat :=
  match f.lost with
  | .nothing => none
  | .committedState i _ => some (s.stream i.val).part.val
  | .pendingChunk i => some (s.stream i.val).part.val
  | .unarchivedChunk i => some (s.stream i.val).part.val
  | .kvPage i => some (s.stream i.val).part.val
  | .astEntry i => some (s.stream i.val).part.val
  | .imageCopy p => some p.val
  | .scaleEntry p _ => some p.val
  | .workSlice p => some p.val

/-- Data of Lortus's structures that a hub SRAM word holds (R302, R474). -/
def State.hubLost (s : State) (a : Nat) : LostData :=
  let off := backing a - hubBase
  if hubRegion off = .ast then .astEntry (Fin.ofNat 16384 (off / 128))
  else match s.parts.find? (fun q => match q.2.step with
      | some r => r.sliceBase ≤ backing a && backing a < r.sliceBase + 48 * r.list.length
      | none => false) with
    | some q => .workSlice (Fin.ofNat 16 q.1)
    | none => .nothing

/-- Structures of a partition that a DRAM address belongs to (R474): the image in service, the scale table, a stream's committed
state, a pending archived chunk, a page. Whether a peer can restore the state is known only to a SINGLE_FAULT_REPORT (log 35). -/
def State.dramLost (s : State) (p a : Nat) : LostData :=
  match s.part? p with
  | none => .nothing
  | some q =>
    let copy := ((q.served?).map (fun o => decide (o.area ≠ 0 ∧ o.area ≤ a ∧ a < o.area + o.total))).getD false
    let ring := fun (x : Stream) => s.archHeld.any (fun h => h.1 == x.archAddr && h.1 ≤ a && a < h.1 + h.2)
    let pend := fun (x : Stream) => x.chunks.any (fun c => c.archived && q.shape?.any (fun im =>
      decide (x.slotAddr im.slotBytes c.no ≤ a ∧ a < x.slotAddr im.slotBytes c.no + im.slotBytes)))
    let page := fun (x : Stream) => (s.heldSlots x).any (fun v => decide (v.2 ≤ a ∧ a < v.2 + q.kvSlotBytes))
    let state := fun (x : Stream) => decide (x.committedAt ≤ a ∧ a < x.committedAt + x.stateUnits.toNat * 4096)
    if copy then .imageCopy (Fin.ofNat 16 p)
    else if q.scaleTable ≤ a && a < q.scaleTable + 8192 then .scaleEntry (Fin.ofNat 16 p) (Fin.ofNat 64 ((a - q.scaleTable) / 128))
    else match (s.openStreams p).find? (fun x => state x.2) with
      | some x => .committedState (Fin.ofNat 16384 x.1) none
      | none => match (s.openStreams p).find? (fun x => ring x.2 && pend x.2) with
        | some x => .pendingChunk (Fin.ofNat 16384 x.1)
        | none => match (s.openStreams p).find? (fun x => page x.2) with
          | some x => .kvPage (Fin.ofNat 16384 x.1)
          | none => .nothing

/-- What a failing span of memory held (R474). -/
def State.lostAt (s : State) (p a : Nat) : LostData :=
  match regionOf (backing a) with
  | .hub _ => s.hubLost a
  | _ => s.dramLost p a

/-- A read fails its check (R183, R313, R461): counted, latched and reported; what the source memory lost is known by its place. -/
def State.failedRead (s : State) (p a n : Nat) : FaultReport × State :=
  let b := s.firstBad a n
  let s := (s.noteBad a n).raise 0x8801 p 0 0 (pack [b1 (errKind b).toNat, b1 0, b8 b])
  let f : FaultReport := ⟨memClass b, BitVec.ofNat 64 (s.memUnit b), BitVec.ofNat 48 b, s.lostAt p b, true⟩
  (f, if errKind b = 4 then s.lpFailure b else s)

/-- The read is one of a pass: the pass is interrupted, or torn down in its replay (R468, R472), the lost data are dealt with. -/
def State.badData (s : State) (p k a n : Nat) : State :=
  let (f, s) := s.failedRead p a n
  let again := ((s.part? p).bind (·.step)).any (fun r => r.passOn && r.running == k && r.again)
  let s := if again then s.tearPass p 8 0xFFFF else s.interruptPass p k f
  s.loseData f

/-- The structures of Lortus that a pseudo-channel took with it: images in service and scale-table entries (R328, R474). -/
def State.mendLost (s : State) : State :=
  s.parts.foldl (fun t (v : Nat × Partition) =>
    let f := fun (l : LostData) => (⟨5, 0, 0, l, false⟩ : FaultReport)
    let t := (List.finRange 64).foldl (fun u k =>
      if u.good (v.2.scaleTable + 128 * k.val) 128 then u else u.loseData (f (.scaleEntry (Fin.ofNat 16 v.1) k))) t
    match v.2.served? with
    | some o => if t.good o.area o.total then t else t.loseData (f (.imageCopy (Fin.ofNat 16 v.1)))
    | none => t) s

end Sys2Proof.Machine

namespace Sys2Proof

/-- The data lost were a work slice or intake data (R467). -/
def LostData.inWork : LostData → Bool
  | .workSlice _ => true
  | .pendingChunk _ => true
  | .unarchivedChunk _ => true
  | _ => false

end Sys2Proof

namespace Sys2Proof.Machine

/-- A memory fault once its repair is made: the pass that read it is interrupted, the lost data are dealt with. -/
def State.memoryFault (s : State) (f : FaultReport) (interrupts : Bool) : State :=
  let p := (s.partOfAddr f.addr.toNat).or (s.lostPart f)
  let (waits, s) := match p with
    | some k => if interrupts then s.strike k f 0xFFFF (fun _ => true) else (false, s)
    | none => (false, s)
  let s := s.loseData f
  if waits then s else s.recoveredNow p f (s.physUnit f.unit.toNat) 0xFFFF

/-- A hub SRAM word is lost (R325, R467). -/
def State.hubWordFault (s : State) (f : FaultReport) (bank : Nat) : State :=
  (((s.repairBank 6 bank 0 0xFFFF false).getD s).clearWord f.addr).memoryFault f f.lost.inWork

/-- A write that no program makes. Where it covers only part of a failing span it is not performed, and the failing read is a
single fault of the memory (R309, R322, R341). -/
def State.outerWrite (s : State) (a : Nat) (bs : Bytes) : State :=
  if s.refuses a bs.length then
    let (f, t) := s.failedRead ((s.partOfAddr a).getD 0xFF) a bs.length
    match regionOf (backing a) with
    | .hub off => t.hubWordFault f (off / 0x40000)
    | _ => t.memoryFault f false
  else s.writeRaw a bs

/-- A link or port fault without a spare: contexts of the cluster, or of the quadrant of a hub link, fault. R538 gives no
code for this cause: the code is a free choice among those assigned (log 3). -/
def State.linkFault (s : State) (f : FaultReport) : State :=
  let id := f.unit.toNat
  let router := bits id 56 8 = 5
  let a := bits id 32 16
  let q := if router then a / 12 % 4 else a % 4
  let uses := fun c => if router then c / 32 == a else c / 384 == q
  let (v, s) := s.free
  let h := s.health
  let s := { s with health := { h with linkFail := satAdd h.linkFail 1 } }
  let ids := (s.ctxs.filter (fun x => x.2.cores.any uses)).map (·.1)
  let s := ids.foldl (fun t k => t.contextFault k (1 + v % 12) 0xFFFF 0 0) s
  s.raiseDev 0x8903 (pack [b1 q, b1 1])

/-- A single fault of R467's rows 0 to 8. -/
def State.unitFault (s : State) (f : FaultReport) : State :=
  let id := f.unit.toNat
  let a := bits id 32 16
  let b := bits id 16 16
  let p := s.partOfAddr f.addr.toNat
  match f.cls.val with
  | 0 => if a < 1536 then s.tileFault f a (Fin.ofNat 16 b) else s
  | 1 => if a < 1536 then s.coreUnitFault f a else s
  | 2 => if a < 1536 then (s.uncorrectable 1 false f.addr p).coreBankFault f a else s
  | 3 => if a < 48 then (s.uncorrectable 1 false f.addr p).clusterBankFault f a (b % 64) else s
  | 4 =>
    let s := s.uncorrectable 1 false f.addr p
    s.hubWordFault f (a % 256)
  | 5 =>
    let s := s.uncorrectable 3 false f.addr p
    let s := if f.repairable then s.softRepair a b else s.remapFailed a b
    (if f.repairable then s else s.mendLost).memoryFault f true
  | 6 => ((s.uncorrectable 4 false f.addr p).lpFailure f.addr.toNat).memoryFault f true
  | 7 =>
    let h := s.health
    let s := { s with health := { h with linkFail := satAdd h.linkFail 1 } }
    let q := a % 4
    let s := s.setQuad q { s.quad q with ringDown := true }
    match p with
    | some k =>
      let (waits, s) := s.strike k f 0xFFFF (fun _ => true)
      if waits then s else s.recoveredNow p f (s.physUnit f.unit.toNat) 0xFFFF
    | none => s.recoveredNow p f (s.physUnit f.unit.toNat) 0xFFFF
  | _ => s.linkFault f

end Sys2Proof.Machine
end

