-- ==== Sys2Proof/Machine/CoreOps.lean ====
section
/-! DEFINITION. What the instructions of a core share: the fields of a word, flags and waits, engine queues, access
rights, stores with conversion, and pre-emption (R133 to R135, R155, R185, R191, R195 to R201, R212 to R221, R303, R321). -/

namespace Sys2Proof.Machine

/-! ### The instruction word (R196) -/

def opTagOf (w : InstrWord) : BitVec 16 := BitVec.ofNat 16 (fld w 104 16)
def wcnt (w : InstrWord) : Nat := fld w 101 3
def wflag (w : InstrWord) : Nat := fld w 96 5
def sen (w : InstrWord) : Bool := fld w 95 1 == 1
def sflag (w : InstrWord) : Nat := fld w 90 5
/-- The reserved header bits are zero. -/
def headerOk (w : InstrWord) : Bool := fld w 88 2 == 0
/-- The word with its header wait served. -/
def clearWait (w : InstrWord) : InstrWord := w &&& ~~~ (BitVec.ofNat 120 (7 * 2 ^ 101))
/-- The word with its signal given. -/
def clearSen (w : InstrWord) : InstrWord := w &&& ~~~ (BitVec.ofNat 120 (2 ^ 95))

/-- A scalar register; X0 reads 0 (R193). -/
def xGet (x : Vector W64 16) (i : Nat) : W64 := if i = 0 then 0 else x.get (Fin.ofNat 16 i)
/-- The registers with one written; a write to X0 is ignored (R193). -/
def xSet (x : Vector W64 16) (i : Nat) (v : W64) : Vector W64 16 := if i = 0 then x else x.setIfInBounds (i % 16) v
/-- A flag counter. -/
def Core.flagOf (c : Core) (n : Nat) : Nat := (c.f.get (Fin.ofNat 32 n)).toNat
/-- The flags with one set. -/
def flagSet (f : Vector (BitVec 16) 32) (n v : Nat) : Vector (BitVec 16) 32 := f.setIfInBounds (n % 32) (BitVec.ofNat 16 v)

/-! ### Queues (R155, R199, R212) -/

def Core.queue (c : Core) : Engine → List QEntry
  | .matrix => c.qM
  | .vector => c.qV
  | .gate => c.qG
  | .dma => c.qD
  | .seq => []

def Core.setQueue (c : Core) (e : Engine) (l : List QEntry) : Core :=
  match e with
  | .matrix => { c with qM := l }
  | .vector => { c with qV := l }
  | .gate => { c with qG := l }
  | .dma => { c with qD := l }
  | .seq => c

/-- The instructions that wait: the heads of the queues and a sequencer-class one on its header wait. -/
def Core.heads (c : Core) : List QEntry :=
  [c.qM.head?, c.qV.head?, c.qG.head?, c.qD.head?, (match c.seq with | .waitHdr q => some q | _ => none)].filterMap (fun x => x)

/-- The header wait of an instruction is satisfied, and no earlier one waits on the same flag (R212). -/
def Core.waitOk (c : Core) (q : QEntry) : Bool :=
  wcnt q.w == 0 ||
    (wcnt q.w ≤ c.flagOf (wflag q.w) &&
      !c.heads.any (fun h => h.no < q.no && wcnt h.w != 0 && wflag h.w == wflag q.w))

/-- The count of a satisfied wait is subtracted (R212). -/
def Core.takeWait (c : Core) (q : QEntry) : Core :=
  if wcnt q.w = 0 then c else { c with f := flagSet c.f (wflag q.w) (c.flagOf (wflag q.w) - wcnt q.w) }

/-- The head of a queue leaves it; the next one reaches the head now. -/
def Core.pop (c : Core) (e : Engine) (now : W64) : Core :=
  match (c.queue e).tail with
  | [] => c.setQueue e []
  | q :: r => c.setQueue e ({ q with since := now } :: r)

/-! ### Faults of an instruction -/

/-- A context fault charged to an instruction (R224). -/
def State.opFault (s : State) (core code : Nat) (q : QEntry) : State := s.coreFault core code q.pc (opTagOf q.w)

/-- The pass of the context on a core. -/
def State.passOf (s : State) (core : Nat) : Option (Nat × Nat) :=
  match s.ctxOf core with
  | some id => (s.ctx? id).map (fun x => (x.part.val, x.pass))
  | none => none

/-- A core met data that fail their check: a single fault of the source memory (R183, R324). -/
def State.coreBadData (s : State) (core a n : Nat) : State :=
  match s.passOf core with
  | some (p, k) => s.badData p k a n
  | none => s

/-! ### Flags (R212, R221) -/

/-- Increment a flag of a core for a context: on the core, or in the saved context. An increment above 65,535 is an
illegal instruction of the one that makes it. -/
def State.incFlag (s : State) (ctx core n : Nat) (src : Nat) (q : QEntry) : State :=
  if (s.core core).ctx == some (BitVec.ofNat 16 ctx) then
    let c := s.core core
    if c.flagOf n = 65535 then s.opFault src 3 q
    else s.setCore core { c with f := flagSet c.f n (c.flagOf n + 1), flagAt := tabPut c.flagAt n s.now }
  else match (s.ctx? ctx).bind (fun x => tabGet? x.savedCores core) with
    | some v =>
      let k := (v.f.get (Fin.ofNat 32 n)).toNat
      if k = 65535 then s.contextFault ctx 3 src q.pc.toNat (opTagOf q.w).toNat
      else s.modCtx ctx (fun x => { x with savedCores := tabPut x.savedCores core { v with f := flagSet v.f n (k + 1) } })
    | none => s

/-- Completion of an instruction: SFLAG is incremented under SEN (R212). -/
def State.signal (s : State) (core : Nat) (q : QEntry) : State :=
  if sen q.w then
    match s.ctxOf core with
    | some id => s.incFlag id core (sflag q.w) core q
    | none => s
  else s

/-! ### Access rights of step programs (R191, R195, R303, R321) -/

/-- The device address of an address of a program on this device (R11; log 21). -/
def State.localAddr (s : State) (a : Nat) : Option Nat :=
  if a < 2 ^ 48 then some a
  else if bits a 48 3 = 0 && a / 2 ^ 51 = s.dev.deviceNo.toNat then some (a % 2 ^ 48)
  else none

/-- The address names another device (R11). -/
def State.isRemote (s : State) (a : Nat) : Bool :=
  2 ^ 48 ≤ a && bits a 48 3 == 0 && a / 2 ^ 51 != s.dev.deviceNo.toNat

/-- Every bank or segment of a range is powered (R321). -/
def poweredRange (on size off n : Nat) : Bool := (List.range (ceilDiv (off % size + n) size)).all (fun k => bit on (off / size + k))

/-- Two ranges do not meet. -/
def disjoint (a n b m : Nat) : Bool := a + n ≤ b || b + m ≤ a

/-- A range of cluster or core windows of a partition, powered and inside the window. -/
def State.windowOk (s : State) (p a n : Nat) : Bool :=
  match regionOf a with
  | .cluster c off =>
    (s.clusterOwner c).map (·.val) == some p && off + n ≤ 2 ^ 24 &&
      (0x800000 ≤ off || poweredRange (s.cluster c).banksOn.toNat 0x20000 off (min n (0x800000 - off)))
  | .core c off =>
    s.coreOwner c == some p && off + n ≤ 2 ^ 20 &&
      (0x80000 ≤ off || poweredRange (s.core c).segOn.toNat 0x10000 off (min n (0x80000 - off)))
  | _ => false

/-- The work slices of a partition's contexts. -/
def State.inSlices (s : State) (p a n : Nat) : Bool :=
  match (s.part? p).bind (·.step) with
  | some r => r.sliceBase ≤ a && a + n ≤ r.sliceBase + 48 * r.list.length
  | none => false

/-- A range of a partition's archive rings. -/
def State.inArchive (s : State) (p a n : Nat) : Bool :=
  (s.openStreams p).any (fun x => s.archHeld.any (fun h => h.1 == x.2.archAddr && h.1 ≤ a && a + n ≤ h.1 + h.2))

/-- A program of a partition may read a range of device addresses (R303). -/
def State.mayRead (s : State) (p a n : Nat) : Bool :=
  n == 0 || (match s.part? p with
    | none => false
    | some q => inExtents q.hbm a n || inExtents q.lp a n || s.windowOk p a n || s.inSlices p a n || s.inArchive p a n)

/-- The length of a partition's program segment in bytes (R191). -/
def State.segBytes (s : State) (p : Nat) : Nat := (((s.part? p).bind (·.image?)).map (·.program.length)).getD 0

/-- A range keeps clear of what programs may not write: the scale table, the STATE_IN buffers, the program segments. -/
def State.notProtected (s : State) (p : Nat) (q : Partition) (a n : Nat) : Bool :=
  disjoint a n q.scaleTable 0x2000
    && (match q.step with
        | some r => r.list.all (fun e => e.gone || disjoint a n e.stateIn ((s.stream e.stream.val).stateUnits.toNat * 4096))
        | none => true)
    && (clustersOf q.sect).all (fun c =>
        disjoint a n (segmentBase c (s.segBytes p)) (alignUp 256 (s.segBytes p)) || s.segBytes p == 0)

/-- A program of a partition may write a range of device addresses (R303). -/
def State.mayWrite (s : State) (p a n : Nat) : Bool :=
  n == 0 || (match s.part? p with
    | none => false
    | some q => (inExtents q.hbm a n || inExtents q.lp a n || s.windowOk p a n) && s.notProtected p q a n)

/-! ### Registers of a core's window (R15, R119, R138, R139) -/

/-- A 64-bit write to a core register; every other offset ignores it. -/
def Core.regWrite (c : Core) (off : Nat) (v : W64) : Core :=
  if off = 0xF0100 then (if v.getLsbD 63 then { c with nanId := 0, nanStep := 0 } else c)
  else if off = 0xF0200 then { c with tagCtl := v }
  else if off = 0xF0208 then { c with photSel := BitVec.ofNat 6 v.toNat }
  else c

/-- A store as a program's write meets it: bytes of memory, or whole core registers; a part of a register that is not written
whole stays as it is (DESIGN CHOICE, log 42). -/
def State.busWrite (s : State) (a : Nat) (bs : Bytes) : State :=
  if holdsBytes a then s.write a bs
  else match regionOf a with
    | .core n off =>
      let first := alignUp 8 off
      (List.range ((off + bs.length - first) / 8)).foldl (fun t k =>
        let o := first + 8 * k
        t.modCore n (fun c => c.regWrite o (BitVec.ofNat 64 (le bs (o - off) 8)))) s
    | _ => s

/-- The first run of a program's store that covers only part of a failing span: address and length. -/
def State.refusedRun (s : State) (l : List (Nat × Bytes)) : Option (Nat × Nat) :=
  (l.find? (fun r => holdsBytes r.1 && s.refuses r.1 r.2.length)).map (fun r => (r.1, r.2.length))

/-- The runs of a program's store, all of them performed. -/
def State.storeRuns (s : State) (l : List (Nat × Bytes)) : State := l.foldl (fun v r => v.busWrite r.1 r.2) s

/-- The runs that a parked context's transfer stores: one that must read a failing span is a fault of that memory and interrupts no
pass (R223, R341). -/
def State.storeParked (s : State) (l : List (Nat × Bytes)) : State :=
  l.foldl (fun v r => if holdsBytes r.1 then v.outerWrite r.1 r.2 else v.busWrite r.1 r.2) s

/-! ### Stores with conversion -/

/-- The bytes that field writes leave, by address; bits no field covers keep what `rd` reads. -/
def overlay (rd : Nat → Byte) (ws : List FieldWrite) : Tab Byte :=
  ws.foldl (fun t f =>
    let n := (f.lo + f.width + 7) / 8
    let v := bytesToNat ((List.range n).map (fun k => tabGet t (rd (f.addr + k)) (f.addr + k)))
    let w := v - place f.lo f.width (bits v f.lo f.width) + place f.lo f.width f.code
    let bs := natToBytes n w
    (List.range n).foldl (fun u k => tabPut u (f.addr + k) (bs.getD k 0)) t) []

/-- Bytes at consecutive addresses joined into runs. -/
def runsOf : Tab Byte → List (Nat × Bytes)
  | [] => []
  | (a, b) :: r =>
    match runsOf r with
    | (c, bs) :: rest => if c = a + 1 then (a, b :: bs) :: rest else (a, [b]) :: (c, bs) :: rest
    | [] => [(a, [b])]

/-- The photometer and the counters of CORE.NUM.COUNTS after a store (R115, R134, R135). -/
def Core.tally (c : Core) (a : StoreAcc) (tag : Option Nat) : Core :=
  let c := { c with gen := a.gen, fsat := satAdd c.fsat a.fsat, isat := satAdd c.isat a.isat }
  match tag with
  | some t =>
    if c.tagCtl.getLsbD t && c.gathering then
      let (m, n) := c.phot.getD t (0, 0)
      let v := (toFp32 true a.amax).code
      { c with phot := c.phot.set t (if m.toNat < v then BitVec.ofNat 32 v else m, satAdd n a.excess) }
    else c
  | none => c

/-- A NaN that instruction `no` brings to a site of a core: latched; under the trap the core is to halt at that
instruction's end (R117, R118; log 42). -/
def State.sawNan (s : State) (core : Nat) (tq : Bool) (no : Nat) (opTag pc : BitVec 16) : State :=
  let (trap, s) := s.latchNan core tq opTag pc
  if trap then s.modCore core (fun c => { c with trapDue := c.trapDue.orElse (fun _ => some (no, opTag, pc)) }) else s

/-- The instruction whose NaN traps has ended: the core halts and its context faults (R118). -/
def State.trapHalt (s : State) (core : Nat) : State :=
  let c := s.core core
  match c.trapDue with
  | none => s
  | some (no, opTag, pc) =>
    if (c.gate.map (·.q.no)) == some no || c.runs.any (fun r => r.q.no == no) then s else s.coreFault core 1 pc opTag

/-- The effects of a store at the store port besides its bytes. -/
def State.storeSeen (s : State) (core : Nat) (q : QEntry) (a : StoreAcc) (tag : Option Nat) : State :=
  let s := s.modCore core (fun c => c.tally a tag)
  if a.nan then s.sawNan core false q.no (opTagOf q.w) q.pc else s

/-- A tensor tag field: bit 6 says that it names one (R133). -/
def tagOf (v : Nat) : Option Nat := if bit v 6 then some (v % 64) else none

/-- The values presented to a store port, flushed on input (R98): FP32 codes. -/
def storeIn (c : W32) : Num := ofFp32 c

/-! ### Descriptors (R201) -/

/-- The 64 bytes of a descriptor of a core's scratch. -/
def State.descBytes (s : State) (core idx : Nat) : Bytes := s.read (coreWin core + 64 * idx) 64

/-- A descriptor that lies within powered segments of the scratch. -/
def State.descOk (s : State) (core idx n : Nat) : Bool :=
  poweredRange (s.core core).segOn.toNat 0x10000 (64 * idx) n && 64 * idx + n ≤ 0x80000

/-- A descriptor with its addresses as device addresses; none where one names another device. -/
def State.localDesc (s : State) (d : Desc) : Option Desc :=
  match s.localAddr d.addr, s.localAddr d.scaleAddr, s.localAddr d.zpAddr, s.localAddr d.sideAddr with
  | some a, some b, some c, some e => some { d with addr := a, scaleAddr := b, zpAddr := c, sideAddr := e }
  | _, _, _, _ => none

/-- The ranges that elements `lo` to `lo + n − 1` of a descriptor and their scales, zero points and side values occupy. -/
def Desc.ranges (d : Desc) (lo n : Nat) (side : Bool) : List (Nat × Nat) :=
  if n = 0 then []
  else
    let w := widthOf d.fmt
    let rows := (List.range n).foldl (fun (l : List (Nat × Nat)) k =>
      let (i0, i1, i2) := d.split (lo + k)
      let a := d.rowAddr i1 i2 + i0 * w / 8
      match l with
      | (b, m) :: r => if a ≤ b + m && b ≤ a then (b, max m (a + (i0 * w % 8 + w + 7) / 8 - b)) :: r
                       else (a, (i0 * w % 8 + w + 7) / 8) :: (b, m) :: r
      | [] => [(a, (i0 * w % 8 + w + 7) / 8)]) []
    let blk := fun k => let (i0, i1, i2) := d.split k; d.blockNo i0 i1 i2
    let b0 := blk lo
    let b1 := blk (lo + n - 1)
    rows ++ (if isMx d.fmt then [(d.scaleAddr + b0, b1 + 1 - b0)]
             else if d.group ≠ 0 then [(d.scaleAddr + 2 * b0, 2 * (b1 + 1 - b0))] else [])
      ++ (if isUint d.fmt then (if d.fmt = 0x0C then [(d.zpAddr + b0, b1 + 1 - b0)]
            else [(d.zpAddr + b0 / 2, b1 / 2 + 1 - b0 / 2)]) else [])
      ++ (if side then [(d.sideAddr + 2 * d.slotCap * b0, 2 * d.slotCap * (b1 + 1 - b0))] else [])

/-- Every range may be read, or written. -/
def State.mayReadAll (s : State) (p : Nat) (l : List (Nat × Nat)) : Bool := l.all (fun r => s.mayRead p r.1 r.2)
def State.mayWriteAll (s : State) (p : Nat) (l : List (Nat × Nat)) : Bool := l.all (fun r => s.mayWrite p r.1 r.2)
/-- The first range with a failing span. -/
def State.badRange (s : State) (l : List (Nat × Nat)) : Option (Nat × Nat) := l.find? (fun r => !s.good r.1 r.2)

/-! ### Barriers, ends and pre-emption (R185, R213, R217 to R221) -/

/-- Every queue is empty, every engine idle and every transfer complete (R217). -/
def Core.quiet (c : Core) : Bool :=
  c.qM.isEmpty && c.qV.isEmpty && c.qG.isEmpty && c.qD.isEmpty && c.runs.isEmpty && c.gate.isNone && c.dma.isEmpty

/-- The live-set index of a waiting or pre-emption instruction. -/
def lsdOf (w : InstrWord) : Nat := fld w 73 13
/-- The engine of WAIT, WAITM (R213, R214). -/
def engOf (w : InstrWord) : Engine := [Engine.matrix, .vector, .gate, .dma].getD (fld w 86 2) .dma

/-- A transfer between this device and another (R211). -/
def DmaXfer.remote (t : DmaXfer) : Bool :=
  match t.phase with
  | .localMove => false
  | _ => true

/-- The completion of a transfer of core `own` increments a flag of a core: its own signal or DFFLAG (R211). -/
def DmaXfer.feeds (t : DmaXfer) (own core flag : Nat) : Bool :=
  (own == core && sen t.q.w && sflag t.q.w == flag) || (fld t.q.w 43 1 == 1 && fld t.q.w 32 11 == core && fld t.q.w 27 5 == flag)

/-- A WAITM declared to be written from another device. -/
def isRmt (q : QEntry) : Bool := q.op == 0x19 && fld q.w 70 1 == 1

/-- The transfers of a context in flight on a core, whether it runs there or is saved. -/
def State.xfersOf (s : State) (id core : Nat) (x : Context) : List DmaXfer :=
  (if (s.core core).ctx == some (BitVec.ofNat 16 id) then (s.core core).dma else [])
    ++ ((tabGet? x.savedCores core).map (·.remote)).getD []

/-- The remote transfers in flight, of any core of the context, whose completion increments a flag of a core. -/
def State.feeders (s : State) (core flag : Nat) : List DmaXfer :=
  match s.ctxOf core with
  | none => []
  | some id => match s.ctx? id with
    | none => []
    | some x => x.cores.flatMap (fun k => (s.xfersOf id k x).filter (fun t => t.remote && t.feeds k core flag))

/-- What the waiting instruction at a queue head waits for is remote (R216). -/
def State.remoteWait (s : State) (core : Nat) (q : QEntry) : Bool :=
  isRmt q || (wcnt q.w != 0 && !(s.feeders core (wflag q.w)).isEmpty)

/-- The entries of a live-set descriptor up to the first of length 0; none where it breaks R220. -/
def liveSet (b : Bytes) : Option (List (Nat × Nat)) :=
  let es := ((List.range 8).map (fun k => (le b (8 * k) 4, le b (8 * k + 4) 4))).takeWhile (fun e => e.2 != 0)
  if es.all (fun e => e.2 % 16 == 0 && e.1 + e.2 ≤ 0x90000) && es.foldl (fun t e => t + e.2) 0 ≤ 65536 then some es else none

/-- Save a core's part of a context (R185, R220). -/
def State.saveCore (s : State) (id core : Nat) (q : QEntry) (again : Option (Engine × QEntry)) (far : Bool) : State :=
  let c := s.core core
  match liveSet (s.descBytes core (lsdOf q.w)) with
  | none => s.opFault core 3 q
  | some es =>
    let live := es.map (fun e => (e.1, s.read (coreWin core + e.1) e.2))
    let v : SavedCore := ⟨c.pc, c.x, c.f, c.v, c.m, live, again, far, c.dma⟩
    (s.modCtx id (fun x => { x with savedCores := tabPut x.savedCores core v, state := .saving })).modCore core (fun k => k.stop .idle)

/-- The core holds nothing a pre-emption point waits for, but for the waiting instruction at the head of queue `e` and the
remote transfers it depends on (R185, R221). -/
def Core.savable (c : Core) (core : Nat) (e : Option Engine) (q : QEntry) (far : Bool) : Bool :=
  let rest := match e with
    | some g => c.setQueue g (c.queue g).tail
    | none => c
  rest.qM.isEmpty && rest.qV.isEmpty && rest.qG.isEmpty && rest.qD.isEmpty && c.runs.isEmpty && c.finished.isEmpty
    && c.tiles.all (fun (t : Nat × Tile) => t.2.undrained.isNone) && c.tq.isEmpty && c.gate.isNone
    && c.dma.all (fun t => far && t.remote && t.feeds core core (wflag q.w))

/-- The source and destination descriptors of a transfer, rows shifted by X[XS] and X[XD]. -/
def dmDescs (q : QEntry) (desc : Bytes) : Option (Desc × Desc) :=
  match Desc.parse (desc.take 64), Desc.parse ((desc.drop 64).take 64) with
  | some a, some b => some ({ a with row0 := (xGet q.x (fld q.w 58 4)).toNat }, { b with row0 := (xGet q.x (fld q.w 54 4)).toNat })
  | _, _ => none

/-- The ranges of a whole tensor. -/
def Desc.allRanges (d : Desc) (side : Bool) : List (Nat × Nat) := d.ranges 0 d.count side

/-- The whole local end of a remote transfer lies in the partition's HBM3E (R221). -/
def State.pinned (s : State) (p : Nat) (t : DmaXfer) : Bool :=
  match s.part? p, dmDescs t.q t.desc with
  | some q, some (a, b) =>
    let d := if s.isRemote a.addr then b else a
    match s.localDesc d with
    | some l => (l.allRanges (fld t.q.w 51 1 == 1 && l.side)).all (fun r => inExtents q.hbm r.1 r.2)
    | none => false
  | _, _ => false

/-- The unit a device address belongs to, for the order of R31. -/
def destUnit (a : Nat) : Nat × Nat :=
  match regionOf a with
  | .core n _ => (1, n)
  | .cluster n _ => (2, n)
  | .lpddr => (3, (a - lpBase) / 0x4000000000)
  | _ => (4, a / 0x5A00000000)

/-- The destination unit of a local transfer. -/
def State.xferDest (s : State) (t : DmaXfer) : Option (Nat × Nat) :=
  match dmDescs t.q t.desc with
  | some (_, b) => (s.localAddr b.addr).map destUnit
  | none => none

/-- No other core of the context has a transfer on its way to this one's scratch (R294). -/
def State.noneInbound (s : State) (id core : Nat) (x : Context) : Bool :=
  x.cores.all (fun k => k == core || (s.xfersOf id k x).all (fun t => s.xferDest t != some (1, core)))

/-- A core at a pre-emption point, or at a wait that serves as one, is saved where it can be; a PPOINT so served completes
with its signal (R212). A remote wait on a transfer whose local end is not pinned is no point (R221). -/
def State.trySaveCore (s : State) (id core : Nat) (x : Context) : State :=
  let c := s.core core
  if !x.umber || x.preempt.isNone || c.ctx != some (BitVec.ofNat 16 id) then s
  else match c.seq with
    | .barrier q =>
      if q.op = 0x1B then
        if c.savable core none q false && s.noneInbound id core x then
          let t := s.signal core q
          if (t.core core).ctx == c.ctx then t.saveCore id core q none false else t
        else s
      else if q.op = 0x18 || q.op = 0x19 then
        let e := engOf q.w
        match (c.queue e).head? with
        | some h =>
          if h.no ≠ q.no || lsdOf h.w = 0 || c.noPark == some h.no then s
          else
            let far := s.remoteWait core h
            if far && !(s.feeders core (wflag h.w)).all (fun t => s.pinned x.part.val t) then
              s.setCore core { c with noPark := some h.no }
            else if c.savable core (some e) h far && s.noneInbound id core x then s.saveCore id core h (some (e, h)) far
            else s
        | none => s
      else s
    | _ => s

/-- The saved core waits for another device. -/
def SavedCore.waitsRemote (v : SavedCore) : Bool :=
  v.again.isSome && v.far

/-- The context is saved, or parked, once each of its cores has saved or ended (R219, R221). -/
def State.endSave (s : State) (id : Nat) : State :=
  match s.ctx? id with
  | none => s
  | some x =>
    if x.state == .saving && x.cores.all (fun c => (tabGet? x.savedCores c).isSome || x.endedCores.contains c) then
      let parked := x.savedCores.any (fun v => v.2.waitsRemote)
      let s := s.setCtx id { x with state := if parked then .parked else .saved, preempt := none, lateRaised := false }
      s.modPart x.part.val (fun q => { q with seeing := q.seeing.map (fun g =>
        { g with preempts := g.preempts + 1, parked := g.parked + flag parked }) })
    else s

/-- Every core of a context that can be saved is. -/
def State.trySave (s : State) (id : Nat) : State :=
  match s.ctx? id with
  | none => s
  | some x => (x.cores.foldl (fun t c => t.trySaveCore id c x) s).endSave id

/-- What follows on a core from what its engines have done: a due trap halts it, SYNC and END complete, pre-emption points are served. -/
def State.settleCore (s : State) (core : Nat) : State :=
  let s := s.trapHalt core
  let c := s.core core
  match c.seq, s.ctxOf core with
  | .barrier q, some id =>
    if q.op = 0x1A then
      (if c.quiet then (s.setCore core { c with seq := .running }).signal core q else s)
    else if q.op = 0x01 then
      if c.quiet then
        ((s.setCore core { c with seq := .ended }).signal core q).modCtx id (fun x => { x with endedCores := x.endedCores ++ [core] })
          |>.endSave id
      else s
    else s.trySave id
  | _, _ => s

end Sys2Proof.Machine
end

