-- ==== Sys2Proof/Machine/Matrix.lean ====
section
/-! DEFINITION. The matrix engine: starting MMUL, passes, finished blocks and the tile queue
(R94, R96, R97, R101 to R107, R156 to R165, R184, R202 to R205). -/

namespace Sys2Proof.Machine

/-! ### Operand classes (R96, R156) -/

/-- The classes of R96. -/
inductive TileClass where
  | f16 | f8 | i8 | f4 | i4
  deriving DecidableEq, Repr

/-- The class of a format code; none where the tiles do not take it. -/
def tileClass (f : Nat) : Option TileClass :=
  match f with
  | 0x01 | 0x02 => some .f16
  | 0x03 | 0x04 | 0x05 | 0x06 | 0x07 | 0x08 => some .f8
  | 0x09 => some .f4
  | 0x0A | 0x0C => some .i8
  | 0x0B | 0x0D => some .i4
  | _ => none

/-- The packing factor p. -/
def TileClass.p : TileClass → Nat
  | .f16 => 1 | .f8 => 2 | .i8 => 2 | .f4 => 4 | .i4 => 4

/-- An integer class. -/
def TileClass.isInt : TileClass → Bool
  | .i8 => true | .i4 => true | _ => false

/-- The format an operand has in the tiles: LOADAS, or as stored (R201, R203). -/
def Desc.eff (d : Desc) : Nat := if d.loadAs = 0xFF then d.fmt else d.loadAs

/-- An operand keeps its group scale: it is not converted. -/
def Desc.grouped (d : Desc) : Bool := d.loadAs == 0xFF && d.group != 0

/-- A value loaded, and whether a floating-point or an integer format saturated it (R115). -/
structure Loaded where
  val : Num
  fsat : Bool
  isat : Bool
  deriving DecidableEq, Repr

/-- A plain element after conversion on load to a plain format: nearest even, overflow by OVF (R111, R115; log 28). -/
def loadPlain (fmt : Nat) (ovf : Bool) (v : Num) : Loaded :=
  match ffmtOf fmt with
  | some f => let r := f.round ovf none v; ⟨f.decode r.code, r.sat, false⟩
  | none =>
    let w := widthOf fmt
    let (i, o) := if isUint fmt then toIntRange 0 (2 ^ w - 1 : Nat) v
      else if fmt = 0x0E then toIntRange (-2147483648) 2147483647 v
      else toIntRange (-((2 ^ (w - 1) - 1 : Nat) : Int)) (2 ^ (w - 1) - 1 : Nat) v
    ⟨.ofInt i, false, o⟩

/-- The values of one 32-element block converted on load to an MX format: the scale code and the elements, which saturate
whatever OVF says (R112). -/
def loadMx (fmt : Nat) (vs : List Num) : Nat × List Loaded :=
  let sc := mxScaleCode (amaxOf vs) (emaxOf fmt)
  match ffmtOf fmt with
  | none => (sc, vs.map (fun v => ⟨v, false, false⟩))
  | some f => (sc, vs.map (fun v => let r := f.round false none (v.scale2 (-(e8m0Exp sc))); ⟨f.decode r.code, r.sat, false⟩))

/-- An element as a tile takes it: its value and the exponent of its block scale; an escape is zero (R90, R101, R103). -/
def Desc.tileElem (d : Desc) (rd : Reader) (esc : Bool) (i0 row : Nat) : Num × Int :=
  if d.loadAs = 0xFF then
    if isMx d.fmt then
      let c := d.e8m0 rd i0 row 0
      if c = 255 then (.nan, 0) else (d.raw rd esc i0 row 0, e8m0Exp c)
    else (d.raw rd esc i0 row 0, 0)
  else
    let val := fun k => d.scaleNum rd k row 0 (d.raw rd esc k row 0)
    if isMx d.loadAs then
      let b := i0 / 32 * 32
      let (sc, vs) := loadMx d.loadAs ((List.range (min 32 (d.dim0 - b))).map (fun k => val (b + k)))
      if sc = 255 then (.nan, 0) else (((vs[i0 - b]?).map (·.val)).getD (.fin false 0 0), e8m0Exp sc)
    else ((loadPlain d.loadAs false (val i0)).val, 0)

/-- The element's code is an escape, which contributes a zero product whatever its partner is (R101); in a NaN block it is
NaN (R90). -/
def Desc.tileEsc (d : Desc) (rd : Reader) (esc : Bool) (i0 row : Nat) : Bool :=
  d.isEsc esc (d.code rd i0 row 0) && !d.nanBlock rd i0 row 0

/-- `n` elements of a row from `i0` on as the tiles take them: value, block exponent, escape. -/
def Desc.tileRow (d : Desc) (rd : Reader) (esc : Bool) (i0 row n : Nat) : List (Num × Int × Bool) :=
  (List.range n).map (fun j =>
    let (v, e) := d.tileElem rd esc (i0 + j) row
    (v, e, d.tileEsc rd esc (i0 + j) row))

/-- The product of two elements (R101, R103). -/
def tileProd (u v : Num × Int × Bool) : Num := if u.2.2 || v.2.2 then .fin false 0 0 else u.1.mul v.1

/-! ### MMUL's fields (R202) -/

def mmWd (w : InstrWord) : Nat := fld w 75 13
def mmAd (w : InstrWord) : Nat := fld w 62 13
def mmStart (w : InstrWord) : Bool := fld w 31 1 == 1
def mmDrain (w : InstrWord) : Bool := fld w 30 1 == 1
/-- X[XW], X[XA] and X[XK] as issued. -/
def mmRow (q : QEntry) : Nat := (xGet q.x (fld q.w 58 4)).toNat
def mmEntry (q : QEntry) : Nat := (xGet q.x (fld q.w 54 4)).toNat
def mmElem (q : QEntry) : Nat := (xGet q.x (fld q.w 23 4)).toNat

/-- The group exists. -/
def mmGroupOk (w : InstrWord) : Bool := mmTiles w != 0 && mmTiles w * (fld w 32 2 + 1) ≤ 16

/-- A tile of the core's file. -/
def Core.tile (c : Core) (t : Nat) : Tile := tabGet c.tiles ⟨[], none⟩ t

/-- An instruction at the matrix head must wait for a running one that shares a tile (R205). -/
def Core.mmulBlocked (c : Core) (w : InstrWord) : Bool :=
  c.runs.any (fun r => r.pass < mmPasses r.q.w && (mmGroup r.q.w).any (fun t => (mmGroup w).contains t))

/-- The pair of R94 and R96 is refused. -/
def pairRefused (wd ad : Desc) : Bool :=
  match tileClass wd.eff, tileClass ad.eff with
  | some a, some b => a != b || (isUint wd.eff && isUint ad.eff)
  | _, _ => true

/-- The first fault of R204 and of the operands' access: its code; 0 for none. -/
def State.mmulFault (s : State) (core p : Nat) (q : QEntry) (wd ad : Desc) : Nat :=
  let w := q.w
  let c := s.core core
  if pairRefused wd ad then 5
  else
    let k := ((tileClass wd.eff).map TileClass.p).getD 1
    let n := 8 * k * mmPasses w
    let row := mmRow q
    let el := mmElem q
    let ent := mmEntry q
    let grouped := wd.grouped || ad.grouped
    let unit := if isMx wd.eff then 32 else if wd.grouped then wd.group else 8 * k
    let inOwn := fun (d : Desc) => coreWin core ≤ d.addr && d.addr < coreWin core + 0x80000 && d.addr % 4 == 0 && d.stride1 % 4 == 0
    if wd.dim1 < row + 8 * mmTiles w || wd.dim0 < el + n || ad.dim1 < ent + mmBt w || ad.dim0 < n then 3
    else if el % unit ≠ 0 || !inOwn wd || !inOwn ad || (grouped && 32 < mmBt w) then 3
    else if !mmStart w && !(mmGroup w).all (fun t => (c.tile t).undrained == some (mmBt w)) then 3
    else
      let rows := (List.range (8 * mmTiles w)).flatMap (fun r => wd.ranges (wd.dim0 * (row + r) + el) n false)
      let ents := (List.range (mmBt w)).flatMap (fun e => ad.ranges (ad.dim0 * (ent + e)) n false)
      if !s.mayReadAll p rows || !s.mayReadAll p ents then 4
      else if (List.range (8 * mmTiles w)).all (fun r => wd.escapesFit s.bus (fld w 28 1 == 1) el (el + n) (row + r) 0)
          && (List.range (mmBt w)).all (fun e => ad.escapesFit s.bus (fld w 27 1 == 1) 0 n (ent + e) 0) then 0
      else 5

/-! ### Weight banks (R158) -/

/-- The ranges of the weights of pass `k` for the group, scales and zero points with them; a conversion to MX takes whole
blocks of 32. -/
def Desc.passRanges (wd : Desc) (q : QEntry) (p k : Nat) : List (Nat × Nat) :=
  if mmPasses q.w ≤ k then []
  else
    let lo := mmElem q + 8 * p * k
    let hi := lo + 8 * p
    let (lo, hi) := if wd.loadAs ≠ 0xFF && isMx wd.loadAs then (lo / 32 * 32, min wd.dim0 (alignUp 32 hi)) else (lo, hi)
    (List.range (8 * mmTiles q.w)).flatMap (fun r => wd.ranges (wd.dim0 * (mmRow q + r) + lo) (hi - lo) false)

/-- What a weight load of pass `k` brings into a bank. -/
def State.loadBank (s : State) (wd : Desc) (q : QEntry) (p k : Nat) : List (Nat × Bytes) :=
  (wd.passRanges q p k).map (fun r => (r.1, s.bus r.1 r.2))

/-- The packing factor of a weight descriptor. -/
def Desc.packing (wd : Desc) : Nat := ((tileClass wd.eff).map TileClass.p).getD 1

/-- MMUL starts at the head of the matrix queue: the first pass's weights are in one bank, the load of the second's fills the
other (R158, R202 to R205). -/
def State.startMmul (s : State) (core : Nat) (q : QEntry) : State :=
  let wb := s.descBytes core (mmWd q.w)
  let ab := s.descBytes core (mmAd q.w)
  match s.passOf core, (Desc.parse wb).bind s.localDesc, (Desc.parse ab).bind s.localDesc with
  | some (p, _), some wd, some ad =>
    if !s.descOk core (mmWd q.w) 64 || !s.descOk core (mmAd q.w) 64 then s.opFault core 4 q
    else match s.mmulFault core p q wd ad with
      | 0 =>
        let c := s.core core
        let p := wd.packing
        match s.badRange (wd.passRanges q p 0 ++ wd.passRanges q p 1) with
        | some (a, m) => s.coreBadData core a m
        | none =>
          let tiles := (mmGroup q.w).foldl (fun t k => tabPut t k { c.tile k with undrained := none }) c.tiles
          s.setCore core { c with runs := c.runs ++ [⟨q, wb, ab, 0, s.time, false, s.loadBank wd q p 0, s.loadBank wd q p 1⟩],
                                  tiles := tiles }
      | code => s.opFault core code q
  | _, _, _ => s.opFault core 3 q

/-! ### A pass (R103 to R107, R203) -/

/-- The key of an accumulator entry in its file. -/
def accKey (r e : Nat) : Nat := 64 * r + e

/-- One entry's update in pass `k`: elements `ws` of row `row` of the weights, `xs` of batch entry `ent`; `first` writes it
(start mode). Weights are read from the bank in use, activations from core scratch. -/
def accStep (wd ad : Desc) (bank rd : Reader) (ws xs : List (Num × Int × Bool)) (cls : TileClass) (row ent el k : Nat)
    (first : Bool) (old : AccEntry) : AccEntry :=
  let n := 8 * cls.p
  let a := if first then ⟨0, 0, false⟩ else old
  let prods := List.zipWith tileProd ws xs
  if cls.isInt then
    let sum := prods.foldl (fun t p => t + roundInt p) 0
    if wd.grouped || ad.grouped then
      let part := a.part + sum
      let g := if wd.grouped && ad.grouped then min wd.group ad.group else if wd.grouped then wd.group else ad.group
      if n * (k + 1) % g = 0 then
        let sw := if wd.grouped then wd.groupScale bank (el + n * k) row 0 else .fin false 1 0
        let sx := if ad.grouped then ad.groupScale rd (n * k) ent 0 else .fin false 1 0
        ⟨accUpdate a.val (((Num.ofInt part).mul sw).mul sx), 0, false⟩
      else ⟨a.val, part, false⟩
    else
      let (v, o) := accInt a.val a.sat sum
      ⟨v, 0, o⟩
  else
    let ew := ((ws.head?).map (·.2.1)).getD 0
    let ex := ((xs.head?).map (·.2.1)).getD 0
    ⟨accUpdate a.val (rowResult prods ew ex), 0, false⟩

/-- A tile's file after pass `k`; `xs` are the pass's activations, batch entry by batch entry. -/
def tileStep (wd ad : Desc) (bank rd : Reader) (q : QEntry) (cls : TileClass) (xs : List (List (Num × Int × Bool)))
    (pos k : Nat) (t : Tile) : Tile :=
  let n := 8 * cls.p
  { t with acc := (List.range 8).foldl (fun (acc : Tab AccEntry) r =>
      let row := mmRow q + 8 * pos + r
      let ws := wd.tileRow bank (fld q.w 28 1 == 1) (mmElem q + n * k) row n
      (List.range (mmBt q.w)).foldl (fun (acc : Tab AccEntry) e =>
        let key := accKey r e
        let old := tabGet acc ⟨0, 0, false⟩ key
        tabPut acc key (accStep wd ad bank rd ws (xs.getD e []) cls row (mmEntry q + e) (mmElem q) k
          (mmStart q.w && k == 0) old)) acc) t.acc }

/-- The entry of a block that finishes in hub cycle `done` (R161, R162). -/
def finBlock (q : QEntry) (isInt : Bool) (t : Nat) (pos b done : Nat) (tile : Tile) : FinBlock :=
  let bt := mmBt q.w
  let get := fun r j => tabGet tile.acc ⟨0, 0, false⟩ (accKey r (8 * b + j))
  let data := (List.range 8).flatMap (fun r => (List.range 8).map (fun j => if 8 * b + j < bt then (get r j).val else 0))
  let sats := ((List.range 8).flatMap (fun r => (List.range 8).filter (fun j => 8 * b + j < bt && (get r j).sat))).length
  let mask := (List.range 8).foldl (fun m j => m + place j 1 (flag (decide (8 * b + j < bt)))) 0
  ⟨⟨data, Fin.ofNat 16 t, Fin.ofNat 8 b, BitVec.ofNat 16 (fld q.w 0 16 + 8 * pos), fld q.w 29 1 == 1, isInt,
    BitVec.ofNat 8 mask, opTagOf q.w, q.pc, q.no⟩, sats, done⟩

/-- Blocks of a batch. -/
def mmBlocks (w : InstrWord) : Nat := ceilDiv (mmBt w) 8

/-! ### Stall counts (R164, R190), from the hub cycles that have passed (log 43) -/

/-- The stall is counted on the core and in its partition's seeing report; a pass that stalled ends as much later. -/
def State.countStall (s : State) (core : Nat) : State :=
  let c := s.core core
  let n := c.stallCycles s.time
  if n = 0 then s
  else
    let s := s.setCore core { c with queueFullCnt := satAdd c.queueFullCnt n,
                                     runs := c.runs.map (fun r => { r with start := r.start + min (c.stallNs s.time r) (c.cycles n) }) }
    match s.passOf core with
    | some (p, _) => s.modPart p (fun q => { q with seeing := q.seeing.map (fun g => { g with queueFull := g.queueFull + n }) })
    | none => s

/-- Finished blocks in order of finishing, those of one cycle by tile (R163). -/
def finOrder (l : List FinBlock) : List FinBlock := sortByKey (fun f => 16 * f.done + f.entry.tile.val) l

/-- Core cycles for which the tiles wait for a weight load at the boundary after a pass (R158): the load of 8 cycles began
with the pass, which took a cycle for each batch entry. -/
def loadWait (w : InstrWord) : Nat := 8 - mmBt w

/-- A pass of a run ends: every entry is updated; after the last pass the blocks are finished or left in the file. Else the
banks are switched, the bank left loads the pass after the next, and the waits for loads are counted, those for refused scratch
accesses (R181) as a free number (log 3, log 43). -/
def State.endMmulPass (s : State) (core : Nat) (r : MmulRun) (wd ad : Desc) (cls : TileClass) : State :=
  let c := s.core core
  let q := r.q
  let group := mmGroup q.w
  let bank := runsReader (if r.bank then r.bank1 else r.bank0)
  let n := 8 * cls.p
  let xs := (List.range (mmBt q.w)).map (fun e => ad.tileRow s.bus (fld q.w 27 1 == 1) (n * r.pass) (mmEntry q + e) n)
  let tiles := (List.range group.length).foldl (fun (t : Tab Tile) pos =>
    let k := group.getD pos 0
    tabPut t k (tileStep wd ad bank s.bus q cls xs pos r.pass (tabGet t ⟨[], none⟩ k))) c.tiles
  let last := r.pass + 1 == mmPasses q.w
  let isInt := cls.isInt && !(wd.grouped || ad.grouped)
  let fin := if last && mmDrain q.w then
      (List.range (mmBlocks q.w)).flatMap (fun b => (List.range group.length).map (fun pos =>
        let k := group.getD pos 0
        finBlock q isInt k pos b (r.start + c.cycles (min (8 * b + 8) (mmBt q.w))) (tabGet tiles ⟨[], none⟩ k)))
    else []
  let tiles := if last then group.foldl (fun (t : Tab Tile) k =>
      if mmDrain q.w then tabDel t k else tabPut t k { tabGet t ⟨[], none⟩ k with undrained := some (mmBt q.w) }) tiles
    else tiles
  let next := s.loadBank wd q wd.packing (r.pass + 2)
  let r' := { r with pass := r.pass + 1, start := s.time, bank := !r.bank, bank0 := if r.bank then r.bank0 else next,
                     bank1 := if r.bank then next else r.bank1 }
  let (free, s) := s.free
  s.setCore core { c with tiles := tiles, finished := finOrder (c.finished ++ fin),
                          scratchCnt := if last then c.scratchCnt else satAdd c.scratchCnt (loadWait q.w + free),
                          runs := c.runs.map (fun v => if v.q.no = q.no then r' else v) }

/-- A tile fault met by the core (R184): the tile's blocks and the instruction's entries are discarded, and the hub
recovers the tile. -/
def State.coreTileFault (s : State) (core : Nat) (tile : Fin 16) (run : Nat) (parity : Bool) : State :=
  let s := (s.countStall core).modCore core (fun c => { c.dropTile tile run parity with fedV := s.now, fedG := s.now })
  s.tileFault ⟨0, BitVec.ofNat 64 (unitId 1 core tile.val), 0, .nothing, true⟩ core tile

/-- The end of a pass of the run `no`, with a parity failure in a tile or none (R158, R184). -/
def State.mmulPassEnd (s : State) (core no : Nat) (parity : Option (Fin 16)) : State :=
  let s := s.countStall core
  let c := s.core core
  match c.runs.find? (fun r => r.q.no == no) with
  | none => s
  | some r =>
    if mmPasses r.q.w ≤ r.pass || c.stalled r then s
    else match parity with
      | some t => if (mmGroup r.q.w).contains t.val then s.coreTileFault core t no true else s
      | none =>
        match (Desc.parse r.wd).bind s.localDesc, (Desc.parse r.ad).bind s.localDesc with
        | some wd, some ad =>
          match tileClass wd.eff with
          | some cls =>
            let n := 8 * cls.p
            let need := wd.passRanges r.q wd.packing (r.pass + 2)
              ++ (List.range (mmBt r.q.w)).flatMap (fun e => ad.ranges (ad.dim0 * (mmEntry r.q + e) + n * r.pass) n false)
            match s.badRange need with
            | some (a, m) => s.coreBadData core a m
            | none => s.endMmulPass core r wd ad cls
          | none => s
        | _, _ => s

/-! ### The tile queue (R163 to R165) -/

/-- A value of an entry's enabled columns is NaN. -/
def TqEntry.hasNan (e : TqEntry) : Bool :=
  !e.isInt && (List.range 64).any (fun k => e.colMask.getLsbD (k % 8) && (ofFp32 (e.data.getD k 0)).isNan)

/-- The oldest finished block enters the tile queue, or waits in its file while the queue is full; a residue failure is a
tile fault. -/
def State.tileQueueWrite (s : State) (core : Nat) (residue : Bool) : State :=
  let s := s.countStall core
  let c := s.core core
  match c.finished with
  | [] => s
  | f :: rest =>
    if residue && f.entry.isInt then s.coreTileFault core f.entry.tile f.entry.run false
    else if 32 ≤ c.tq.length then s
    else
      let s := s.setCore core { c with finished := rest, tq := c.tq ++ [f.entry], isat := satAdd c.isat f.sats,
                                       highWater := max c.highWater (c.tq.length + 1) }
      if f.entry.hasNan then s.sawNan core true f.entry.run f.entry.opTag f.entry.pc else s

/-- MMUL completes: its last pass has ended and its finished blocks are in the queue (R205). -/
def State.mmulComplete (s : State) (core no : Nat) : State :=
  let c := s.core core
  match c.runs.find? (fun r => r.q.no == no) with
  | none => s
  | some r =>
    if mmPasses r.q.w ≤ r.pass && c.finished.all (fun f => f.entry.run != no) then
      let gate := fld r.q.w 29 1 == 1
      (s.setCore core { c with runs := c.runs.filter (fun v => v.q.no != no), fedV := if gate then c.fedV else s.now,
                               fedG := if gate then s.now else c.fedG }).signal core r.q
    else s

end Sys2Proof.Machine
end

