-- ==== Sys2Proof/Machine/Vector.lean ====
section
/-! DEFINITION. The vector engine's instructions (R109, R110, R115, R128, R130, R168 to R173, R200, R206 to R208). -/

namespace Sys2Proof.Machine

/-! ### Operands (R200) -/

/-- A selector code that R200 assigns. -/
def selOk (v : Nat) : Bool := v ≤ 0x88 || (0x90 ≤ v && v ≤ 0x93) || v == 0xFF
/-- A selector of a vector source. -/
def selSrc (v : Nat) : Bool := v ≤ 0x88
/-- A selector of a vector destination or store source. -/
def selReg (v : Nat) : Bool := v ≤ 0x87
/-- A selector of a mask register. -/
def selMask (v : Nat) : Bool := 0x90 ≤ v && v ≤ 0x93

/-- The address of an operand-cache row (R169). -/
def rowAddrOf (core n : Nat) : Nat := coreWin core + 0x80000 + 512 * n

/-- The lanes of a source. -/
def State.lanes (s : State) (core sel : Nat) (imm : W32) : List W32 :=
  if sel ≤ 0x7F then
    let bs := s.read (rowAddrOf core sel) 512
    (List.range 128).map (fun i => BitVec.ofNat 32 (le bs (4 * i) 4))
  else if sel ≤ 0x87 then (s.core core).v.get (Fin.ofNat 8 (sel - 0x80))
  else List.replicate 128 imm

/-- Lanes written where the mask enables them. -/
def mixLanes (mask : BitVec 128) (new old : List W32) : List W32 :=
  (List.range 128).map (fun i => if mask.getLsbD i then new.getD i 0 else old.getD i 0)

/-- Write enabled lanes to a working register or an operand-cache row. -/
def State.setLanes (s : State) (core sel : Nat) (mask : BitVec 128) (new : List W32) : State :=
  let l := mixLanes mask new (s.lanes core sel 0)
  if sel ≤ 0x7F then s.writeRaw (rowAddrOf core sel) (l.flatMap (fun w => natToBytes 4 w.toNat))
  else s.modCore core (fun c => { c with v := c.v.setIfInBounds (sel - 0x80) l })

/-- The lane mask of a MASK code (R206). -/
def Core.maskOf (c : Core) (code : Nat) : BitVec 128 := if code < 4 then c.m.get (Fin.ofNat 4 code) else BitVec.allOnes 128

/-! ### Lane operations -/

/-- VFP and VBF (R206) on values, rounded into `f`: code and whether it was saturated. An infinite result follows R115
(R536), that of a selection too. -/
def fpOp (f : FFmt) (ovf : Bool) (vop : Nat) (a b c : Num) : Rounded :=
  f.round ovf none (match vop with
    | 0 => a.add b
    | 1 => a.add b.negate
    | 2 => a.mul b
    | 3 => a.fma b c
    | 4 => a.min b
    | 5 => a.max b
    | 10 => a.abs
    | _ => a.negate)

/-- The compares of R206; false with a NaN. -/
def fpCompare (vop : Nat) (a b : Num) : Bool :=
  match vop with
  | 7 => a.lt b
  | 8 => a.lt b || a.eqv b
  | _ => a.eqv b

/-- VINT (R206). A shift by 32 or more has no stated result: `free` (log 3). -/
def intOp (vop : Nat) (a b free : W32) : W32 :=
  match vop with
  | 0 => a + b
  | 1 => a - b
  | 2 => if b.toNat < 32 then a <<< b.toNat else free
  | 3 => if b.toNat < 32 then a >>> b.toNat else free
  | 4 => if b.toNat < 32 then a.sshiftRight b.toNat else free
  | 5 => a &&& b
  | 6 => a ||| b
  | _ => a ^^^ b

/-- The formats of VCVT. -/
def cvtOk (f : Nat) : Bool := f == 0 || f == 1 || f == 2 || f == 0xE

/-- VCVT of one lane (R111, R115). 16-bit values lie in bits 15:0, the upper half is free; an FP32 value outside INT32 has
no stated result (log 3). -/
def cvtLane (src dst : Nat) (ovf : Bool) (a free : W32) : W32 × Bool :=
  let v := match src with
    | 0 => ofFp32 a
    | 1 => bf16F.decode (a.toNat % 65536)
    | 2 => fp16F.decode (a.toNat % 65536)
    | _ => .ofInt a.toInt
  match dst with
  | 0xE =>
    match v with
    | .nan => (0, false)
    | .inf _ => (free, false)
    | .fin _ _ _ =>
      let (i, o) := clampInt (-2147483648) 2147483647 (roundInt v)
      (if o then free else BitVec.ofInt 32 i, false)
  | 0 => let r := toFp32 ovf v; (BitVec.ofNat 32 r.code, r.sat)
  | _ =>
    let r := (if dst = 1 then bf16F else fp16F).round ovf none v
    (BitVec.ofNat 32 (r.code + free.toNat / 65536 * 65536), r.sat)

/-- The functions of VFUNC. -/
def vfunc (vop : Nat) : Option Fn :=
  match vop with
  | 0 => some .exp2 | 1 => some .log2 | 2 => some .recip | 3 => some .rsqrt | 4 => some .exp | _ => none

/-- One level of the tree of R173; a lane that takes no part leaves its partner as it is. -/
def redLevel (op : Num → Num → Rounded) : List (Option Num × Nat) → List (Option Num × Nat)
  | (a, m) :: (b, n) :: r =>
    (match a, b with
     | some x, some y => let v := op x y; (some (fp32F.decode v.code), m + n + flag v.sat)
     | some x, none => (some x, m + n)
     | none, y => (y, m + n)) :: redLevel op r
  | l => l

/-- The reduction of a segment: its value and the values saturated on the way. -/
def redTree : Nat → (Num → Num → Rounded) → List (Option Num × Nat) → Option Num × Nat
  | 0, _, l => l.headD (none, 0)
  | k + 1, op, l => redTree k op (redLevel op l)

/-! ### V-format instructions (R206) -/

def vVop (w : InstrWord) : Nat := fld w 80 8
def vDst (w : InstrWord) : Nat := fld w 72 8
def vSa (w : InstrWord) : Nat := fld w 64 8
def vSb (w : InstrWord) : Nat := fld w 56 8
def vSc (w : InstrWord) : Nat := fld w 48 8
def vImm (w : InstrWord) : W32 := BitVec.ofNat 32 (fld w 0 32)
def vOvf (w : InstrWord) : Bool := fld w 40 1 == 1

/-- The sources an operation uses. -/
def vSources (op : Nat) (w : InstrWord) : List Nat :=
  let two := [vSa w, vSb w]
  match op with
  | 0x30 | 0x31 => if vVop w = 3 then [vSa w, vSb w, vSc w] else if vVop w = 10 || vVop w = 11 then [vSa w] else two
  | 0x32 => two
  | _ => [vSa w]

/-- The VOP value is assigned. -/
def vopOk (op : Nat) (w : InstrWord) : Bool :=
  match op with
  | 0x30 | 0x31 => vVop w ≤ 11
  | 0x32 => vVop w ≤ 7
  | 0x33 => cvtOk (vVop w % 16) && cvtOk (vVop w / 16)
  | 0x34 => vVop w ≤ 4
  | 0x35 => vVop w ≤ 2
  | 0x36 => vVop w == 0
  | _ => vVop w ≤ 1

/-- A compare of VFP or VBF. -/
def isCompare (op : Nat) (w : InstrWord) : Bool := (op == 0x30 || op == 0x31) && 7 ≤ vVop w && vVop w ≤ 9

/-- The encoding is legal (R200, R206, R208, R224). -/
def vLegal (op : Nat) (w : InstrWord) : Bool :=
  let rows := ((vSources op w).filter (· ≤ 0x7F)).eraseDups
  headerOk w && fld w 32 8 == 0 && fld w 45 3 ≤ 4 && fld w 42 3 ≤ 4 && vopOk op w
    && [vDst w, vSa w, vSb w, vSc w].all selOk && (vSources op w).all selSrc && rows.length ≤ 1
    && (if isCompare op w then selMask (vDst w) else selReg (vDst w))
    && (!((op == 0x30 || op == 0x31) && vVop w == 6) || selMask (vSc w))
    && (op != 0x37 || (vDst w == vSa w && 0x80 ≤ vDst w))

/-- Apply a lane function that answers a value and whether it was saturated to the enabled lanes. -/
def State.mapLanes (s : State) (core : Nat) (w : InstrWord) (f : Nat → W32 × Nat) : State :=
  let mask := (s.core core).maskOf (fld w 45 3)
  let rs := (List.range 128).map (fun i => if mask.getLsbD i then f i else (0, 0))
  let sats := rs.foldl (fun t r => t + r.2) 0
  (s.setLanes core (vDst w) mask (rs.map (·.1))).modCore core (fun c => { c with fsat := satAdd c.fsat sats })

/-- The halves of a BF16 pair. -/
def halves (a : W32) : Num × Num := (bf16F.decode (a.toNat % 65536), bf16F.decode (a.toNat / 65536))

/-- One lane of VFP, and how many of its values were saturated. -/
def fpLane (ovf : Bool) (vop : Nat) (a b c : W32) : W32 × Nat :=
  let r := fpOp fp32F ovf vop (ofFp32 a) (ofFp32 b) (ofFp32 c)
  (BitVec.ofNat 32 r.code, flag r.sat)

/-- One lane of VBF: both halves of the pair (R170). -/
def pairLane (ovf : Bool) (vop : Nat) (a b c : W32) : W32 × Nat :=
  let lo := fpOp bf16F ovf vop (halves a).1 (halves b).1 (halves c).1
  let hi := fpOp bf16F ovf vop (halves a).2 (halves b).2 (halves c).2
  (BitVec.ofNat 32 (lo.code + 65536 * hi.code), flag lo.sat + flag hi.sat)

/-- A compare of a BF16 pair; where its halves differ no rule states the mask bit: `free` (log 3). -/
def pairCompare (vop : Nat) (a b : W32) (free : Bool) : Bool :=
  let lo := fpCompare vop (halves a).1 (halves b).1
  let hi := fpCompare vop (halves a).2 (halves b).2
  if lo == hi then lo else free

/-- A mask register with the bits of enabled lanes replaced. -/
def mixMask (mask : BitVec 128) (new : Nat → Bool) (old : BitVec 128) : BitVec 128 :=
  BitVec.ofNat 128 ((List.range 128).foldl (fun t i =>
    t + place i 1 (flag (if mask.getLsbD i then new i else old.getLsbD i))) 0)

/-- SEL of one lane: SA where the mask bit is set, SB elsewhere, flushed, canonical and under OVF as any result (R92, R98,
R115, R172). -/
def selLane (pair ovf cond : Bool) (a b : W32) : W32 × Nat :=
  let v := if cond then a else b
  if pair then
    let lo := bf16F.round ovf none (halves v).1
    let hi := bf16F.round ovf none (halves v).2
    (BitVec.ofNat 32 (lo.code + 65536 * hi.code), flag lo.sat + flag hi.sat)
  else let r := toFp32 ovf (ofFp32 v); (BitVec.ofNat 32 r.code, flag r.sat)

/-- VFP and VBF. -/
def State.runFp (s : State) (core : Nat) (q : QEntry) : State :=
  let w := q.w
  let vop := vVop w
  let a := s.lanes core (vSa w) (vImm w)
  let b := s.lanes core (vSb w) (vImm w)
  let c := s.lanes core (vSc w) (vImm w)
  let at' := fun (l : List W32) i => l.getD i 0
  if isCompare q.op w then
    let (free, s) := s.free
    let mask := (s.core core).maskOf (fld w 45 3)
    let res := fun i => if q.op = 0x30 then fpCompare vop (ofFp32 (at' a i)) (ofFp32 (at' b i))
      else pairCompare vop (at' a i) (at' b i) (bit free i)
    let old := (s.core core).m.get (Fin.ofNat 4 (vDst w - 0x90))
    s.modCore core (fun k => { k with m := k.m.setIfInBounds (vDst w - 0x90) (mixMask mask res old) })
  else if vop = 6 then
    let cond := (s.core core).m.get (Fin.ofNat 4 (vSc w - 0x90))
    s.mapLanes core w (fun i => selLane (q.op != 0x30) (vOvf w) (cond.getLsbD i) (at' a i) (at' b i))
  else if q.op = 0x30 then
    s.mapLanes core w (fun i => fpLane (vOvf w) vop (at' a i) (at' b i) (at' c i))
  else
    s.mapLanes core w (fun i => pairLane (vOvf w) vop (at' a i) (at' b i) (at' c i))

/-- VRED (R173). -/
def State.runRed (s : State) (core : Nat) (q : QEntry) : State :=
  let w := q.w
  let seg := 8 * 2 ^ fld w 42 3
  let a := s.lanes core (vSa w) (vImm w)
  let mask := (s.core core).maskOf (fld w 45 3)
  let op : Num → Num → Rounded := fun x y => fpOp fp32F (vOvf w) ([0, 5, 4].getD (vVop w) 0) x y .nan
  let res := (List.range (128 / seg)).map (fun k =>
    redTree (3 + fld w 42 3) op ((List.range seg).map (fun j =>
      (if mask.getLsbD (seg * k + j) then some (ofFp32 (a.getD (seg * k + j) 0)) else none, 0))))
  let all := fld w 41 1 == 1
  let out := fun i => (res.getD (i / seg) (none, 0)).1
  let wmask := BitVec.ofNat 128 ((List.range 128).foldl (fun t i =>
    t + place i 1 (flag (mask.getLsbD i && (all || i % seg == 0) && (out i).isSome))) 0)
  let new := (List.range 128).map (fun i => BitVec.ofNat 32 (toFp32 true ((out i).getD (.fin false 0 0))).code)
  let sats := res.foldl (fun t r => t + r.2) 0
  (s.setLanes core (vDst w) wmask new).modCore core (fun c => { c with fsat := satAdd c.fsat sats })

/-- The value of an operand element in a correction: its side value where it is an escape, else its decoded value (R130); NaN
in a NaN block (R90). -/
def Desc.corrValue (d : Desc) (rd : Reader) (i0 row : Nat) : Num :=
  if d.nanBlock rd i0 row 0 then .nan
  else if d.isEsc d.side (d.code rd i0 row 0) then d.sideValue rd i0 row 0
  else if d.loadAs = 0xFF then d.value rd false i0 row 0
  else let (v, e) := d.tileElem rd d.side i0 row; v.scale2 e

/-- The corrections of one lane, added in element order (R130, R208). -/
def corrLane (wd ad : Desc) (rd : Reader) (ovf : Bool) (row ent el : Nat) : Nat → Nat → W32 × Nat → W32 × Nat
  | 0, _, acc => acc
  | n + 1, j, acc =>
    let hit := wd.isEsc wd.side (wd.code rd (el + j) row 0) || ad.isEsc ad.side (ad.code rd j ent 0)
    let acc := if hit then
        let r := toFp32 ovf ((wd.corrValue rd (el + j) row).fma (ad.corrValue rd j ent) (ofFp32 acc.1))
        (BitVec.ofNat 32 r.code, acc.2 + flag r.sat)
      else acc
    corrLane wd ad rd ovf row ent el n (j + 1) acc

/-- VSIDE (R208). -/
def State.runSide (s : State) (core : Nat) (q : QEntry) : State :=
  let w := q.w
  let idx := fld w 0 13
  let b := s.descBytes core idx
  match s.passOf core with
  | none => s
  | some (p, _) =>
    if !s.descOk core idx 64 || !s.descOk core (le b 0 2 % 8192) 64 || !s.descOk core (le b 2 2 % 8192) 64 then s.opFault core 4 q
    else if 8192 ≤ le b 0 2 || 8192 ≤ le b 2 2 || le b 0x14 44 ≠ 0 then s.opFault core 3 q
    else match (Desc.parse (s.descBytes core (le b 0 2))).bind s.localDesc, (Desc.parse (s.descBytes core (le b 2 2))).bind s.localDesc with
      | some wd, some ad =>
        let row := le b 4 4
        let el := le b 8 4
        let n := le b 0xC 4
        let ent := le b 0x10 4
        let cols := min 8 (ad.dim1 - ent)
        if wd.dim1 < row + 8 || wd.dim0 < el + n || ad.dim0 < n then s.opFault core 3 q
        else
          let need := (List.range 8).flatMap (fun r => wd.ranges (wd.dim0 * (row + r) + el) n wd.side)
            ++ (List.range cols).flatMap (fun j => ad.ranges (ad.dim0 * (ent + j)) n ad.side)
          let fit := (List.range 8).all (fun r => wd.escapesFit s.bus wd.side el (el + n) (row + r) 0)
            && (List.range cols).all (fun j => ad.escapesFit s.bus ad.side 0 n (ent + j) 0)
          if !s.mayReadAll p need then s.opFault core 4 q
          else if !fit then s.opFault core 5 q
          else match s.badRange need with
            | some (a, m) => s.coreBadData core a m
            | none =>
              let base := 64 * (vVop w % 2)
              let old := s.lanes core (vSa w) 0
              let rd := s.bus
              s.mapLanes core w (fun i =>
                if base ≤ i && i < base + 64 && (i - base) % 8 < cols then
                  corrLane wd ad rd (vOvf w) (row + (i - base) / 8) (ent + (i - base) % 8) el n 0 (old.getD i 0, 0)
                else (old.getD i 0, 0))
      | _, _ => s.opFault core 3 q

/-! ### VM-format instructions (R171, R207) -/

def vmReg (w : InstrWord) : Nat := fld w 80 8
def vmDesc (w : InstrWord) : Nat := fld w 67 13

/-- The encoding is legal (R207, R224). -/
def vmLegal (op : Nat) (w : InstrWord) : Bool :=
  headerOk w && fld w 0 47 == 0 && fld w 60 3 ≤ 4
    && (if op = 0x40 then 0x80 ≤ vmReg w && vmReg w ≤ 0x87 else selReg (vmReg w))
    && (op != 0x42 || fld w 47 2 ≤ 2)

/-- Entries that VQRD takes. -/
def vqrdNeed (w : InstrWord) : Nat := fld w 59 1 + 1

/-- VQRD (R171). -/
def State.runQueueRead (s : State) (core : Nat) (q : QEntry) : State :=
  let c := s.core core
  let n := vqrdNeed q.w
  let es := (c.tq.filter (fun e => !e.gate)).take n
  let rec' := fun (l : List TqEntry) (k : Nat) => l.foldl (fun (a : List TqEntry × Nat) e =>
    if !e.gate && 0 < a.2 then (a.1, a.2 - 1) else (a.1 ++ [e], a.2)) (([] : List TqEntry), k) |>.1
  let r := vmReg q.w - 0x80
  let old := c.v.get (Fin.ofNat 8 r)
  let d0 := (es.headD ⟨[], 0, 0, 0, false, false, 0, 0, 0, 0⟩).data
  let d1 := match es with
    | _ :: e :: _ => e.data
    | _ => old.drop 64
  s.setCore core { c with tq := rec' c.tq n, v := c.v.setIfInBounds r (d0.take 64 ++ d1.take 64) }

/-- VLD loads INT32 elements unchanged (R207). -/
def Desc.vldRaw (d : Desc) : Bool := d.fmt == 0x0E && (d.loadAs == 0xFF || d.loadAs == 0x0E)

/-- The lanes of VLD from element `lo`, each with its values saturated: INT32 unchanged, BF16 pairs, or FP32 (R207). -/
def vldLanes (d : Desc) (rd : Reader) (w : InstrWord) (lo : Nat) (mask : BitVec 128) : List (W32 × Nat) :=
  let esc := fld w 56 1 == 1
  let ovf := fld w 58 1 == 1
  let val := fun k => let (i0, i1, i2) := d.split (lo + k); d.value rd esc i0 i1 i2
  (List.range 128).map (fun i =>
    if !mask.getLsbD i then (0, 0)
    else if d.vldRaw then
      let (i0, i1, i2) := d.split (lo + i)
      (BitVec.ofNat 32 (d.code rd i0 i1 i2), 0)
    else if d.loadAs = 0x01 then
      let a := bf16F.round ovf none (val (2 * i))
      let b := bf16F.round ovf none (val (2 * i + 1))
      (BitVec.ofNat 32 (a.code + 65536 * b.code), flag a.sat + flag b.sat)
    else
      let a := toFp32 ovf (val i)
      (BitVec.ofNat 32 a.code, flag a.sat))

/-- VLD (R207). -/
def State.runLoad (s : State) (core : Nat) (q : QEntry) : State :=
  let w := q.w
  match s.passOf core with
  | none => s
  | some (p, _) =>
    if !s.descOk core (vmDesc w) 64 then s.opFault core 4 q
    else match (Desc.parse (s.descBytes core (vmDesc w))).bind s.localDesc with
      | none => s.opFault core 3 q
      | some d =>
        if !(d.vldRaw || d.loadAs == 0x01 || d.loadAs == 0xFF || d.loadAs == 0x00) then s.opFault core 3 q
        else
          let lo := (xGet q.x (fld w 63 4)).toNat
          let n := if d.loadAs = 0x01 then 256 else 128
          let esc := fld w 56 1 == 1
          let need := d.ranges lo n (esc && d.side)
          if !s.mayReadAll p need then s.opFault core 4 q
          else if !d.spanFits s.bus esc lo n then s.opFault core 5 q
          else match s.badRange need with
            | some (a, m) => s.coreBadData core a m
            | none =>
              let mask := (s.core core).maskOf (fld w 60 3)
              let rs := vldLanes d s.bus w lo mask
              let sats := rs.foldl (fun t r => t + r.2) 0
              (s.setLanes core (vmReg w) mask (rs.map (·.1))).modCore core (fun c => { c with fsat := satAdd c.fsat sats })

/-- Store values as elements from `lo` of a descriptor through the store port: rights, conversion, photometer, NaN latch
(R111, R116, R133 to R135). A write that must read a failing span is a single fault (R322, R341). -/
def State.storeValues (s : State) (core p : Nat) (q : QEntry) (d : Desc) (m : Modes) (tag : Option Nat) (lo : Nat)
    (vs : List Num) : State :=
  let need := d.ranges lo vs.length (m.esc && d.side)
  if !s.mayWriteAll p need then s.opFault core 4 q
  else
    let (_, t) := s.free
    let a := convertStore d s.bus m s.freeCtr (s.core core).gen lo vs
    let rs := runsOf (overlay s.busByte a.writes.reverse)
    match s.refusedRun rs with
    | some (b, n) => s.coreBadData core b n
    | none => (t.storeRuns rs).storeSeen core q a tag

/-- The values that VST stores: those of the enabled lanes, by SRCF (R207). -/
def vstValues (w : InstrWord) (mask : BitVec 128) (l : List W32) : List Num :=
  ((List.range 128).filter (fun i => mask.getLsbD i)).flatMap (fun i =>
    let v := l.getD i 0
    match fld w 47 2 with
    | 0 => [storeIn v]
    | 1 => [(halves v).1, (halves v).2]
    | _ => [Num.ofInt v.toInt])

/-- OVF, RND and ESC of VST. -/
def vstModes (w : InstrWord) : Modes := ⟨fld w 58 1 == 1, fld w 57 1 == 1, fld w 56 1 == 1⟩

/-- VST (R207). -/
def State.runStore (s : State) (core : Nat) (q : QEntry) : State :=
  let w := q.w
  match s.passOf core with
  | none => s
  | some (p, _) =>
    if !s.descOk core (vmDesc w) 64 then s.opFault core 4 q
    else match (Desc.parse (s.descBytes core (vmDesc w))).bind s.localDesc with
      | none => s.opFault core 3 q
      | some d =>
        let lo := (xGet q.x (fld w 63 4)).toNat
        if isMx d.fmt && lo % 32 ≠ 0 then s.opFault core 3 q
        else
          let vs := vstValues w ((s.core core).maskOf (fld w 60 3)) (s.lanes core (vmReg w) 0)
          s.storeValues core p q d ((vstModes w).fromInt (fld w 47 2 == 2) d.fmt) (tagOf (fld w 49 7)) lo vs

/-- A vector-queue instruction executes. -/
def State.runVector (s : State) (core : Nat) (q : QEntry) : State :=
  let w := q.w
  let a := s.lanes core (vSa w) (vImm w)
  let b := s.lanes core (vSb w) (vImm w)
  match q.op with
  | 0x30 | 0x31 => s.runFp core q
  | 0x32 =>
    let (free, s) := s.free
    s.mapLanes core w (fun i => (intOp (vVop w) (a.getD i 0) (b.getD i 0) (BitVec.ofNat 32 (bits free (32 * i) 32)), 0))
  | 0x33 =>
    let (free, s) := s.free
    s.mapLanes core w (fun i =>
      let r := cvtLane (vVop w % 16) (vVop w / 16) (vOvf w) (a.getD i 0) (BitVec.ofNat 32 (bits free (32 * i) 32))
      (r.1, flag r.2))
  | 0x34 =>
    match vfunc (vVop w) with
    | some f => s.mapLanes core w (fun i =>
        let r := fnEval f false (vOvf w) (a.getD i 0)
        (BitVec.ofNat 32 r.code, flag r.sat))
    | none => s
  | 0x35 => s.runRed core q
  | 0x36 => s.mapLanes core w (fun _ => (a.getD (fld w 0 7) 0, 0))
  | 0x37 => s.runSide core q
  | 0x40 => s.runQueueRead core q
  | 0x41 => s.runLoad core q
  | _ => s.runStore core q

end Sys2Proof.Machine
end

