-- ==== Sys2Proof/Machine/Gate.lean ====
section
/-! DEFINITION. The gate pipeline: microprogram slots, stages and gate descriptors (R174 to R180, R209, R210, R536). -/

namespace Sys2Proof.Machine

/-! ### Stage words (R175, R176) -/

def stOp (w : W64) : Nat := bits w.toNat 56 8
def stDst (w : W64) : Nat := bits w.toNat 52 4
def stSrc (w : W64) (k : Nat) : Nat := bits w.toNat (48 - 4 * k) 4
def stImm (w : W64) : W32 := BitVec.ofNat 32 (bits w.toNat 0 32)

/-- A stage word without reserved codes (R175). -/
def stageOk (w : W64) : Bool := stOp w ≤ 0x11 && stDst w ≤ 9 && bits w.toNat 32 8 == 0

/-- GCFG's fields (R209). -/
def gcfgSlot (w : InstrWord) : Nat := fld w 85 3
def gcfgStages (w : InstrWord) : Nat := fld w 81 4
def gcfgAddr (w : InstrWord) : Nat := 16 * fld w 66 15
def gcfgLegal (w : InstrWord) : Bool := headerOk w && 1 ≤ gcfgStages w && gcfgStages w ≤ 12 && fld w 0 66 == 0

/-- A range of the core's own scratch, powered. -/
def State.scratchOk (s : State) (core off n : Nat) : Bool :=
  off + n ≤ 0x80000 && poweredRange (s.core core).segOn.toNat 0x10000 off n

/-- GCFG loads a slot (R174, R209). -/
def State.runGcfg (s : State) (core : Nat) (q : QEntry) : State :=
  let off := gcfgAddr q.w
  let n := gcfgStages q.w
  if !s.scratchOk core off (8 * n) then s.opFault core 4 q
  else if !s.good (coreWin core + off) (8 * n) then s.coreBadData core (coreWin core + off) (8 * n)
  else
    let ws := (List.range n).map (fun k => BitVec.ofNat 64 (s.readNat (coreWin core + off + 8 * k) 8))
    if ws.all stageOk then s.modCore core (fun c => { c with slots := c.slots.setIfInBounds (gcfgSlot q.w) ws })
    else s.opFault core 3 q

/-! ### The gate descriptor (R210) -/

/-- A side input or an output: address, stride, format, control, tag. -/
structure GatePort where
  addr : Nat
  stride : Nat
  fmt : Nat
  ctl : Nat
  tag : Nat
  deriving DecidableEq, Repr

structure GateDesc where
  s0 : GatePort
  s1 : GatePort
  origin : Nat
  param : Nat
  reset : Nat
  o0 : GatePort
  o1 : GatePort
  deriving DecidableEq, Repr

/-- The gate descriptor of 128 bytes, none where it breaks R210. -/
def GateDesc.parse (b : Bytes) : Option GateDesc :=
  let d : GateDesc := ⟨⟨le b 0 4, le b 4 4, le b 8 1, 0, 0⟩, ⟨le b 0xC 4, le b 0x10 4, le b 9 1, 0, 0⟩, le b 0xA 2, le b 0x14 4,
    le b 0x18 8, ⟨le b 0x20 4, le b 0x24 4, le b 0x28 1, le b 0x29 1, le b 0x2A 1⟩,
    ⟨le b 0x30 4, le b 0x34 4, le b 0x2B 1, le b 0x2C 1, le b 0x2D 1⟩⟩
  let inOk := fun (p : GatePort) => p.fmt ≤ 2 || p.fmt == 0xFF
  let outOk := fun (p : GatePort) => (p.fmt ≤ 4 || p.fmt == 0xFF) && p.ctl < 4 && p.tag < 128
  if inOk d.s0 && inOk d.s1 && outOk d.o0 && outOk d.o1 && d.origin % 8 == 0 && le b 0x2E 2 == 0 && le b 0x38 72 == 0 then some d
  else none

/-- GRUN's fields (R209). -/
def grunSlot (w : InstrWord) : Nat := fld w 85 3
def grunCount (w : InstrWord) : Nat := fld w 73 12
def grunDesc (w : InstrWord) : Nat := fld w 60 13
def grunOvf (w : InstrWord) : Bool := fld w 55 1 == 1
def grunEntry (q : QEntry) : Nat := (xGet q.x (fld q.w 56 4)).toNat
def grunLegal (w : InstrWord) : Bool := headerOk w && 1 ≤ grunCount w && fld w 0 55 == 0

/-- The scratch offset of element (row n, batch entry e) of a port; none below the scratch. -/
def GatePort.at (p : GatePort) (origin xe n e : Nat) : Option Nat :=
  let a : Int := (p.addr : Int) + ((xe + e) * p.stride : Nat) + ((n : Int) - origin) * (widthOf p.fmt / 8 : Nat)
  if a < 0 then none else some a.toNat

/-! ### Stages (R176, R178, R536) -/

/-- A decimal bound num ÷ 100 lies below a value. -/
def above (v : Num) (num : Int) : Bool := (Num.ofInt num).lt (v.mul (.fin false 100 0))
def below (v : Num) (num : Int) : Bool := (v.mul (.fin false 100 0)).lt (Num.ofInt num)

/-- The function of a stage operation. -/
def stageFn (op : Nat) : Option Fn :=
  match op with
  | 0x08 => some .exp | 0x09 => some .softplus | 0x0A => some .sigmoid | 0x0B => some .tanh | 0x0C => some .silu
  | 0x0D => some .recip | 0x0E => some .rsqrt | 0x0F => some .ln | _ => none

/-- One stage's result (R176). RESET takes its operand exactly (R178); every other infinite result follows R115 (R536). -/
def stageEval (op : Nat) (ovf reset : Bool) (a b c : W32) : Rounded :=
  let x := ofFp32 a
  let y := ofFp32 b
  let z := ofFp32 c
  match stageFn op with
  | some f =>
    if f = .exp && above x 8872 then fp32F.overflow false ovf
    else if (f = .exp || f = .softplus) && below x (-8734) then ⟨0, false, false⟩
    else if f = .softplus && !x.isNan && !below x 2000 then toFp32 ovf x
    else fnEval f true ovf a
  | none =>
    match op with
    | 0x00 => toFp32 ovf x
    | 0x10 => toFp32 true (if reset then y else x)
    | 0x01 => toFp32 ovf (x.add y)
    | 0x02 => toFp32 ovf (x.add y.negate)
    | 0x03 => toFp32 ovf (x.mul y)
    | 0x04 => toFp32 ovf (x.fma y z)
    | 0x05 => toFp32 ovf (x.max y)
    | 0x06 => toFp32 ovf (x.min y)
    | 0x07 => toFp32 ovf x.negate
    | _ => toFp32 ovf ((x.max y).min z)

/-- What the stages of one element see and have written: temporaries by number (8 and 9 are O0 and O1), saturations. -/
structure StageRun where
  temps : Tab W32
  sats : Nat
  deriving DecidableEq, Repr

/-- Run the stages of one element. `ext` gives source codes 0 to 6. -/
def runStages (ovf reset : Bool) (ext : Nat → W32) : List W64 → StageRun → StageRun
  | [], r => r
  | w :: ws, r =>
    let src := fun k =>
      let c := stSrc w k
      if c ≤ 6 then ext c else if c = 7 then stImm w else tabGet r.temps 0 (c - 8)
    let v := stageEval (stOp w) ovf reset (src 0) (src 1) (src 2)
    runStages ovf reset ext ws ⟨tabPut r.temps (stDst w) (BitVec.ofNat 32 v.code), r.sats + flag v.sat⟩

/-- A source code that some stage reads; unused operands of a stage count too. -/
def stagesRead (ws : List W64) (code : Nat) : Bool :=
  ws.any (fun w =>
    let used := match stOp w with
      | 0x04 | 0x11 => 3
      | 0x01 | 0x02 | 0x03 | 0x05 | 0x06 | 0x10 => 2
      | _ => 1
    (List.range used).any (fun k => stSrc w k == code))

/-! ### One entry (R177 to R180) -/

/-- Hold a parameter record; of 16 held ones the first gives way (R177). -/
def GateRun.hold (g : GateRun) (a : Nat) (bs : Bytes) : GateRun :=
  { g with records := tabPut (if 16 ≤ g.records.length then g.records.tail else g.records) a bs }

/-- The elements of an entry that hold batch entries, in destination order: column, row (R114, R162). -/
def TqEntry.elems (e : TqEntry) : List (Nat × Nat) :=
  (List.range 8).flatMap (fun j => if e.colMask.getLsbD j then (List.range 8).map (fun r => (j, r)) else [])

/-- The Q value of an element: FP32, or an integer converted to FP32 (log 27). -/
def TqEntry.q (e : TqEntry) (j r : Nat) : W32 :=
  let v := e.data.getD (8 * r + j) 0
  if e.isInt then BitVec.ofNat 32 (toFp32 true (.ofInt v.toInt)).code else v

/-- The bytes an entry's side inputs or outputs touch; none where an element lies below the scratch. -/
def portRanges (p : GatePort) (d : GateDesc) (xe : Nat) (e : TqEntry) : Option (List (Nat × Nat)) :=
  (e.elems).foldl (fun acc v =>
    match acc, p.at d.origin xe (e.rowBase.toNat + v.2) (8 * e.block.val + v.1) with
    | some l, some a => some ((a, widthOf p.fmt / 8) :: l)
    | _, _ => none) (some [])

/-- One output of an entry through the store port. -/
def gateStore (p : GatePort) (d : GateDesc) (core xe : Nat) (e : TqEntry) (vals : List (Nat × Nat × W32)) (gen : W64) : StoreAcc :=
  match ffmtOf p.fmt with
  | none => StoreAcc.start gen
  | some f =>
    let m : Modes := ⟨bit p.ctl 1, bit p.ctl 0, false⟩
    vals.foldl (fun a v =>
      match p.at d.origin xe (e.rowBase.toNat + v.2.1) (8 * e.block.val + v.1) with
      | none => a
      | some off =>
        let x := storeIn v.2.2
        let de : Desc := ⟨coreWin core + off, p.fmt, 0xFF, 0, false, false, 1, 1, 1, 0, 0, 0, 0, 0, 0⟩
        (a.see x).float de f m 0 x) (StoreAcc.start gen)

/-- Apply a store of the gate pipeline; a write that must read a failing span is a single fault (R322, R341). -/
def State.gateOut (s : State) (core : Nat) (q : QEntry) (p : GatePort) (a : StoreAcc) : State :=
  let rs := runsOf (overlay s.busByte a.writes.reverse)
  match s.refusedRun rs with
  | some (b, n) => s.coreBadData core b n
  | none => (s.storeRuns rs).storeSeen core q a (tagOf p.tag)

/-- The gate pipeline takes one entry. -/
def State.gateEntry (s : State) (core : Nat) (g : GateRun) (d : GateDesc) (e : TqEntry) : State :=
  let q := g.q
  let ws := (s.core core).slots.get (Fin.ofNat 8 (grunSlot q.w))
  let xe := grunEntry q
  let base := coreWin core
  let uses := fun (p : GatePort) code => stagesRead ws code && p.fmt ≤ 2
  let writes := fun (p : GatePort) n => p.fmt ≤ 4 && ws.any (fun w => stDst w == n)
  let rng := fun (b : Bool) (p : GatePort) => if b then portRanges p d xe e else some []
  match rng (uses d.s0 1) d.s0, rng (uses d.s1 2) d.s1, rng (writes d.o0 8) d.o0, rng (writes d.o1 9) d.o1 with
  | some r0, some r1, some w0, some w1 =>
    let par := [3, 4, 5, 6].any (stagesRead ws)
    let recs : List Int := if par then
        (e.elems.map (fun v => (d.param : Int) + 128 * ((((e.rowBase.toNat + v.2) / 8 : Nat) : Int) - (d.origin / 8 : Nat)))).eraseDups
      else []
    let recR := recs.map (fun a => (a.toNat, 128))
    if recs.any (· < 0) || !((r0 ++ r1 ++ w0 ++ w1 ++ recR).all (fun r => s.scratchOk core r.1 r.2)) then s.opFault core 4 q
    else match (r0 ++ r1 ++ recR).find? (fun r => !s.good (base + r.1) r.2) with
      | some (a, n) => s.coreBadData core (base + a) n
      | none =>
        let g := recR.foldl (fun (g : GateRun) r => if (tabGet? g.records r.1).isSome then g else g.hold r.1 (s.read (base + r.1) 128)) g
        let (free, s) := s.free
        let side := fun (p : GatePort) (k j r : Nat) =>
          if p.fmt ≤ 2 then
            match p.at d.origin xe (e.rowBase.toNat + r) (8 * e.block.val + j), ffmtOf p.fmt with
            | some a, some f => BitVec.ofNat 32 (toFp32 true (f.decode (s.readNat (base + a) (widthOf p.fmt / 8)))).code
            | _, _ => 0
          else BitVec.ofNat 32 (bits free (32 * (128 * k + 8 * r + j)) 32)
        let parm := fun (k r : Nat) =>
          let n := e.rowBase.toNat + r
          let a : Int := (d.param : Int) + 128 * (((n / 8 : Nat) : Int) - (d.origin / 8 : Nat))
          BitVec.ofNat 32 (le (tabGet g.records [] a.toNat) (32 * k + 4 * (n % 8)) 4)
        let outs := e.elems.map (fun v =>
          let (j, r) := v
          let ext := fun c => match c with
            | 0 => e.q j r
            | 1 => side d.s0 0 j r
            | 2 => side d.s1 1 j r
            | _ => parm (c - 3) r
          (j, r, runStages (grunOvf q.w) (bit d.reset (8 * e.block.val + j)) ext ws ⟨[], 0⟩))
        let sats := outs.foldl (fun t o => t + o.2.2.sats) 0
        let vals := fun n => outs.filterMap (fun o => (tabGet? o.2.2.temps n).map (fun v => (o.1, o.2.1, v)))
        let s := s.modCore core (fun c => { c with gate := some { g with left := g.left - 1, since := s.now }, fsat := satAdd c.fsat sats })
        let s := if w0.isEmpty then s else s.gateOut core q d.o0 (gateStore d.o0 d core xe e (vals 8) (s.core core).gen)
        if w1.isEmpty || (s.core core).gate.isNone then s
        else s.gateOut core q d.o1 (gateStore d.o1 d core xe e (vals 9) (s.core core).gen)
  | _, _, _, _ => s.opFault core 4 q

/-- The running gate instruction takes the entries it finds. -/
def State.gatePump : Nat → State → Nat → State
  | 0, s, _ => s
  | k + 1, s, core =>
    let c := s.core core
    match c.gate, c.tq.find? (·.gate) with
    | some g, some e =>
      if g.left = 0 then s
      else match GateDesc.parse g.desc with
        | none => s
        | some d =>
          let i := (indexOf? (fun (t : TqEntry) => t.gate) c.tq).getD 0
          let s := s.setCore core { c with tq := c.tq.take i ++ c.tq.drop (i + 1) }
          State.gatePump k (s.gateEntry core g d e) core
    | _, _ => s

/-- GRUN starts (R177, R209). -/
def State.startGrun (s : State) (core : Nat) (q : QEntry) : State :=
  let off := 64 * grunDesc q.w
  let bs := s.read (coreWin core + off) 128
  if ((s.core core).slots.get (Fin.ofNat 8 (grunSlot q.w))).isEmpty then s.opFault core 3 q
  else if !s.scratchOk core off 128 then s.opFault core 4 q
  else match GateDesc.parse bs with
    | none => s.opFault core 3 q
    | some _ =>
      (s.modCore core (fun c => { c with gate := some ⟨q, bs, grunCount q.w, [], s.now⟩ })).gatePump 32 core

/-- GRUN completes when its last output has landed (R209). -/
def State.grunComplete (s : State) (core : Nat) : State :=
  let c := s.core core
  match c.gate with
  | some g => if g.left = 0 then (s.setCore core { c with gate := none }).signal core g.q else s
  | none => s

end Sys2Proof.Machine
end

