-- ==== Sys2Proof/Machine/Dma.lean ====
section
/-! DEFINITION. The DMA unit: DMOV between local memories and over RDMA, FSIG (R30, R31, R182, R183, R211, R215, R388). -/

namespace Sys2Proof.Machine

/-! ### DMOV's fields (R211) -/

def dmSd (w : InstrWord) : Nat := fld w 75 13
def dmDd (w : InstrWord) : Nat := fld w 62 13
def dmModes (w : InstrWord) : Modes := ⟨fld w 53 1 == 1, fld w 52 1 == 1, fld w 51 1 == 1⟩
def dmDfen (w : InstrWord) : Bool := fld w 43 1 == 1
/-- DFCORE and DFFLAG, of DMOV and FSIG. -/
def dmDfcore (w : InstrWord) : Nat := fld w 32 11
def dmDfflag (w : InstrWord) : Nat := fld w 27 5
def dmFw (w : InstrWord) : Bool := fld w 26 1 == 1
def dmovLegal (w : InstrWord) : Bool := headerOk w && fld w 0 26 == 0

/-! ### Moving elements -/

/-- The values of a source: escapes from the side list, then the conversion of LOADAS (R111, R128). -/
def loadedValues (d : Desc) (rd : Reader) (esc ovf : Bool) : List Loaded :=
  let val := fun i => let (i0, i1, i2) := d.split i; d.value rd esc i0 i1 i2
  let n := d.count
  if d.loadAs = 0xFF then (List.range n).map (fun i => ⟨val i, false, false⟩)
  else if isMx d.loadAs then
    (List.range n).map (fun i =>
      let (i0, _, _) := d.split i
      let b := i0 / 32 * 32
      let (sc, vs) := loadMx d.loadAs ((List.range (min 32 (d.dim0 - b))).map (fun k => val (i - i0 + b + k)))
      match vs[i0 - b]? with
      | some v => if sc = 255 then ⟨.nan, false, false⟩ else { v with val := v.val.scale2 (e8m0Exp sc) }
      | none => ⟨.nan, false, false⟩)
  else (List.range n).map (fun i => loadPlain d.loadAs ovf (val i))

/-- A move that changes no element: one format, no conversion on load, no escapes, and equal blocks where blocks have
scales (log 28). -/
def unchanged (a b : Desc) (m : Modes) : Bool :=
  a.fmt == b.fmt && a.loadAs == 0xFF && a.group == b.group && !isUint a.fmt && !m.esc
    && ((!isMx a.fmt && a.group == 0) || (a.dim0 == b.dim0 && a.dim1 == b.dim1))

/-- The writes of an unchanged move: element codes, and the scales of blocks or groups. -/
def copyWrites (a b : Desc) (rd : Reader) : List FieldWrite :=
  let w := widthOf a.fmt
  let els := (List.range a.count).map (fun i =>
    let (i0, i1, i2) := a.split i
    let (j0, j1, j2) := b.split i
    let p := j0 * w
    (⟨b.rowAddr j1 j2 + p / 8, p % 8, w, a.code rd i0 i1 i2⟩ : FieldWrite))
  let sz := if isMx a.fmt then 1 else if a.group = 0 then 0 else 2
  if sz = 0 then els
  else els ++ (List.range (a.dim1 * a.dim2)).flatMap (fun r =>
    (List.range a.rowBlocks).map (fun k =>
      let i := a.blockNo (k * a.block) (r % max 1 a.dim1) (r / max 1 a.dim1)
      let j := b.blockNo (k * b.block) (r % max 1 b.dim1) (r / max 1 b.dim1)
      (⟨b.scaleAddr + sz * j, 0, 8 * sz, bytesToNat (rd (a.scaleAddr + sz * i) sz)⟩ : FieldWrite)))

/-- What a transfer writes and what its store port sees; `rd` reads the source, `old` the destination's parameters. Values
that the load conversion saturates under OVF = 0 count too (R115). -/
def moveAcc (q : QEntry) (a b : Desc) (rd old : Reader) (free : Nat) (gen : W64) : StoreAcc :=
  let m := dmModes q.w
  if unchanged a b m then { StoreAcc.start gen with writes := (copyWrites a b rd).reverse }
  else
    let vs := loadedValues a rd m.esc m.ovf
    let acc := convertStore b old (m.fromInt (a.eff == 0x0E) b.fmt) free gen 0 (vs.map (·.val))
    { acc with fsat := acc.fsat + (if m.ovf then 0 else (vs.filter (·.fsat)).length),
               isat := acc.isat + (vs.filter (·.isat)).length }

/-- The escapes of every row of a source fit their slots (R129). -/
def sourceFits (d : Desc) (rd : Reader) (esc : Bool) : Bool := d.spanFits rd esc 0 d.count

/-- A destination descriptor with a zero stride over more than one line (R281). -/
def Desc.zeroStride (d : Desc) : Bool := (d.stride1 == 0 && decide (1 < d.dim1)) || (d.stride2 == 0 && decide (1 < d.dim2))

/-- The ranges of a destination's scales and zero points that its conversion takes (R132): of UINT8 and UINT4 only. -/
def Desc.paramRanges (d : Desc) : List (Nat × Nat) :=
  if !isUint d.fmt || d.count = 0 then []
  else
    let n := d.rowBlocks * (d.row0 + d.dim1 * d.dim2)
    (if d.group = 0 then [] else [(d.scaleAddr, 2 * n)]) ++ [(d.zpAddr, if d.fmt = 0x0C then n else (n + 1) / 2)]

/-- A list of ranges cut into messages of at most 1 MiB (R388). -/
def cutMsgs (l : List (Nat × Nat)) : List (Nat × Nat) :=
  l.flatMap (fun r => (List.range (ceilDiv r.2 0x100000)).map (fun k => (r.1 + 0x100000 * k, min 0x100000 (r.2 - 0x100000 * k))))

/-- A reader over fetched ranges: their bytes lie one after the other in `got`. -/
def fetched (l : List (Nat × Nat)) (got : Bytes) : Reader := fun a n =>
  let rec find : List (Nat × Nat) → Nat → Bytes
    | [], _ => zeros n
    | (b, m) :: r, off => if b ≤ a && a + n ≤ b + m then slice got (off + (a - b)) n else find r (off + m)
  find l 0

/-! ### Starting a transfer -/

/-- Slots of a core's DMA unit that transfers hold, parked ones included. -/
def State.usedSlots (s : State) (core : Nat) : List (Fin 16) :=
  (s.core core).dma.map (·.slot) ++ s.ctxs.flatMap (fun (x : Nat × Context) =>
    match tabGet? x.2.savedCores core with
    | some v => v.remote.map (·.slot)
    | none => [])

/-- A slot for a new transfer (R182). -/
def State.freeSlot (s : State) (core : Nat) : Option (Fin 16) :=
  ((List.range 16).map (Fin.ofNat 16)).find? (fun k => !(s.usedSlots core).contains k)

/-- Send the messages of a transfer on a queue pair. -/
def State.sendAll (s : State) (qpn : Nat) (kind : MsgKind) (use : MsgUse) : List (Nat × Nat × Bytes) → State
  | [] => s
  | (a, n, bs) :: r =>
    match s.qp? qpn with
    | some q => (s.sendOn qpn q kind (q.remoteVa (BitVec.ofNat 64 a)) bs n use).sendAll qpn kind use r
    | none => s

/-- The core of a flag belongs to the context (R211). -/
def State.inContext (s : State) (core k : Nat) : Bool :=
  match (s.ctxOf core).bind s.ctx? with
  | some x => x.cores.contains k
  | none => false

/-- Add a transfer to a core. -/
def State.addXfer (s : State) (core : Nat) (t : DmaXfer) : State :=
  s.modCore core (fun c => { c with dma := c.dma ++ [t], dmaSeq := c.dmaSeq + 1 })

/-- The elements of a transfer to another device are converted and its messages sent on queue pair `qn`; `old` reads the
destination's parameters (R211, R388). -/
def State.sendXfer (s : State) (core : Nat) (x : DmaXfer) (la b : Desc) (old : Reader) (qn : Nat) : State × StoreAcc × Nat :=
  let (_, t) := s.free
  let acc := moveAcc x.q la b s.bus old s.freeCtr (s.core core).gen
  let msgs := (runsOf (overlay (fun _ => 0) acc.writes.reverse)).flatMap (fun r =>
    (cutMsgs [(r.1, r.2.length)]).map (fun c => (c.1, c.2, slice r.2 (c.1 - r.1) c.2)))
  (t.sendAll qn .write (.dmov core x.slot) msgs, acc, msgs.length)

/-- DMOV leaves the head of the DMA queue and its transfer begins: every address is checked first, and no byte moves where
one may not be reached (R182, R211, R388). Its descriptors are read once, here, and held (DESIGN CHOICE, log 42). -/
def State.startDmov (s : State) (core : Nat) (q : QEntry) : State :=
  let w := q.w
  let ok := s.descOk core (dmSd w) 64 && s.descOk core (dmDd w) (if dmFw w then 128 else 64)
  let desc := s.descBytes core (dmSd w) ++ s.descBytes core (dmDd w) ++ s.descBytes core (dmDd w + 1)
  match s.passOf core, s.freeSlot core, dmDescs q desc with
  | some (p, _), some slot, some (a, b) =>
    let m := dmModes w
    let fwA := le desc 128 8
    let far := fun (d : Desc) => s.isRemote d.addr
    let x : DmaXfer := ⟨slot, (s.core core).dmaSeq, q, desc, .localMove, s.now⟩
    if !ok || (dmDfen w && !s.inContext core (dmDfcore w)) then s.opFault core 4 q
    else if a.count ≠ b.count || (far a && far b) || b.zeroStride || (dmFw w && le desc 144 48 ≠ 0) then s.opFault core 3 q
    else if dmFw w && !s.isRemote fwA && !((s.localAddr fwA).map (fun v => s.mayWrite p v 8)).getD false then s.opFault core 4 q
    else if dmFw w && s.isRemote fwA && (s.qpFor p (fwA / 2 ^ 51)).isNone then s.opFault core 4 q
    else if far b then
      match s.localDesc a, s.qpFor p (b.addr / 2 ^ 51) with
      | some la, some (qn, _) =>
        let need := la.allRanges (m.esc && la.side)
        if !s.mayReadAll p need then s.opFault core 4 q
        else if !sourceFits la s.bus m.esc then s.opFault core 5 q
        else match s.badRange need with
          | some (ad, n) => s.coreBadData core ad n
          | none =>
            let ask := (cutMsgs b.paramRanges).map (fun c => (c.1, c.2, ([] : Bytes)))
            if ask.isEmpty then
              let (t, acc, n) := s.sendXfer core x la b (fun _ n => zeros n) qn
              (t.addXfer core { x with phase := .sending n }).storeSeen core q acc (tagOf (fld w 44 7))
            else
              let want := ask.foldl (fun t c => t + c.2.1) 0
              (s.addXfer core { x with phase := .asking [] want }).sendAll qn .read (.dmov core slot) ask
      | _, _ => s.opFault core 4 q
    else if far a then
      match s.localDesc b, s.qpFor p (a.addr / 2 ^ 51) with
      | some lb, some (qn, _) =>
        if !s.mayWriteAll p (lb.allRanges (m.esc && lb.side)) then s.opFault core 4 q
        else
          let msgs := (cutMsgs (a.allRanges (m.esc && a.side))).map (fun c => (c.1, c.2, ([] : Bytes)))
          let want := msgs.foldl (fun t c => t + c.2.1) 0
          let t := s.addXfer core { x with phase := if want = 0 then .ready [] else .reading [] want }
          t.sendAll qn .read (.dmov core slot) msgs
      | _, _ => s.opFault core 4 q
    else
      match s.localDesc a, s.localDesc b with
      | some la, some lb =>
        if !s.mayReadAll p (la.allRanges (m.esc && la.side)) || !s.mayWriteAll p (lb.allRanges (m.esc && lb.side)) then
          s.opFault core 4 q
        else if !sourceFits la s.bus m.esc then s.opFault core 5 q
        else s.addXfer core x
      | _, _ => s.opFault core 4 q
  | _, _, _ => s.opFault core (if ok then 3 else 4) q

/-! ### Completing a transfer -/

/-- The transfers of a core's DMA unit in flight, those of parked contexts with them. -/
def State.unitXfers (s : State) (core : Nat) : List DmaXfer :=
  (s.core core).dma ++ s.ctxs.flatMap (fun (x : Nat × Context) => ((tabGet? x.2.savedCores core).map (·.remote)).getD [])

/-- An earlier transfer of the unit to the same destination is still on its way (R31). -/
def State.behind (s : State) (core : Nat) (t : DmaXfer) : Bool :=
  match s.xferDest t with
  | some u => (s.unitXfers core).any (fun v => v.no < t.no && s.xferDest v == some u)
  | none => false

/-- The store port's view of a transfer of context `id`: of the one the core runs in full; of a parked one without the
photometer, which observes the context that runs, and with a trap that ends at once (R116 to R118; log 21). -/
def State.xferSeen (s : State) (core id : Nat) (t : DmaXfer) (a : StoreAcc) (live : Bool) : State :=
  if live then s.storeSeen core t.q a (tagOf (fld t.q.w 44 7))
  else
    let s := s.modCore core (fun c => c.tally a none)
    if a.nan then
      let (trap, s) := s.latchNanOf core id false (opTagOf t.q.w) t.q.pc
      if trap then s.contextFault id 1 core t.q.pc.toNat (opTagOf t.q.w).toNat else s
    else s

/-- A fault of a transfer's context: the one the core runs, or a parked one. -/
def State.xferFault (s : State) (core id code : Nat) (t : DmaXfer) : State :=
  s.contextFault id code core t.q.pc.toNat (opTagOf t.q.w).toNat

/-- The bytes of a transfer are written at its destination, from local memory or from what was fetched; escapes fetched from
another device are checked here (R129). -/
def State.landXfer (s : State) (core id : Nat) (t : DmaXfer) (live : Bool) : State :=
  match dmDescs t.q t.desc with
  | none => s
  | some (a, b) =>
    let m := dmModes t.q.w
    match t.phase with
    | .localMove =>
      match s.localDesc a, s.localDesc b with
      | some la, some lb =>
        match s.badRange (la.allRanges (m.esc && la.side)) with
        | some (ad, n) => s.coreBadData core ad n
        | none =>
          let (_, u) := s.free
          let acc := moveAcc t.q la lb s.bus s.bus s.freeCtr (s.core core).gen
          let rs := runsOf (overlay s.busByte acc.writes.reverse)
          match s.refusedRun rs with
          | some (ad, n) => s.coreBadData core ad n
          | none => (u.storeRuns rs).xferSeen core id t acc live
      | _, _ => s
    | .ready got =>
      match s.localDesc b with
      | some lb =>
        let rd := fetched (a.allRanges (m.esc && a.side)) got
        if !sourceFits a rd m.esc then s.xferFault core id 5 t
        else
          let (_, u) := s.free
          let acc := moveAcc t.q a lb rd s.bus s.freeCtr (s.core core).gen
          let rs := runsOf (overlay s.busByte acc.writes.reverse)
          match s.refusedRun rs with
          | some (ad, n) => if live then s.coreBadData core ad n else (u.storeParked rs).xferSeen core id t acc live
          | none => (u.storeRuns rs).xferSeen core id t acc live
      | none => s
    | _ => s

/-- Every byte is written, for a remote destination acknowledged. -/
def DmaXfer.arrived (t : DmaXfer) : Bool :=
  match t.phase with
  | .localMove => true
  | .sending n => n == 0
  | .ready _ => true
  | .reading _ _ | .asking _ _ | .asked _ => false

/-- After delivery: DFFLAG, the flag word, then the transfer's own signal (R211, R212). -/
def State.afterXfer (s : State) (ctx p core : Nat) (t : DmaXfer) : State :=
  let w := t.q.w
  let s := if dmDfen w then s.incFlag ctx (dmDfcore w) (dmDfflag w) core t.q else s
  let a := le t.desc 128 8
  let v := slice t.desc 136 8
  let s := if dmFw w && (s.ctx? ctx).isSome then
      match s.localAddr a with
      | some k => match s.refusedRun [(k, v)] with
        | some (b, n) => s.coreBadData core b n
        | none => s.busWrite k v
      | none => (s.writeDomain p (BitVec.ofNat 64 a) v .other).getD s
    else s
  if sen w then s.incFlag ctx core (sflag w) core t.q else s

/-- The transfer that holds a slot of a core's unit, with its context and partition, and whether the core runs it. -/
def State.findXfer (s : State) (core : Nat) (slot : Fin 16) : Option (Nat × Nat × DmaXfer × Bool) :=
  match (s.core core).dma.find? (fun t => t.slot == slot), s.ctxOf core with
  | some t, some id => some (id, ((s.ctx? id).map (·.part.val)).getD 0, t, true)
  | _, _ => s.ctxs.findSome? (fun (x : Nat × Context) =>
      ((tabGet? x.2.savedCores core).bind (fun v => v.remote.find? (fun t => t.slot == slot))).map
        (fun t => (x.1, x.2.part.val, t, false)))

/-- A transfer leaves its slot. -/
def State.dropXfer (s : State) (core id : Nat) (slot : Fin 16) (live : Bool) : State :=
  if live then s.modCore core (fun k => { k with dma := k.dma.filter (fun v => v.slot != slot) })
  else s.modCtx id (fun y => { y with savedCores := y.savedCores.map (fun (v : Nat × SavedCore) =>
    if v.1 = core then (v.1, { v.2 with remote := v.2.remote.filter (fun u => u.slot != slot) }) else v) })

/-- DMOV completes (R211), for a context that runs or one that is parked (R221). -/
def State.dmovComplete (s : State) (core : Nat) (slot : Fin 16) : State :=
  match s.findXfer core slot with
  | none => s
  | some (id, p, t, live) =>
    if !t.arrived || s.behind core t then s
    else
      let ctx := (s.core core).ctx
      let s := s.landXfer core id t live
      if (if live then (s.core core).ctx == ctx else (s.ctx? id).isSome) then (s.dropXfer core id slot live).afterXfer id p core t
      else s

/-- A message of a transfer is acknowledged, or its read data have come: the transfer's phase moves on. -/
def State.modXfer (s : State) (core : Nat) (slot : Fin 16) (f : DmaPhase → DmaPhase) : State :=
  let g : DmaXfer → DmaXfer := fun t => if t.slot = slot then { t with phase := f t.phase } else t
  let s := s.modCore core (fun c => { c with dma := c.dma.map g })
  { s with ctxs := s.ctxs.map (fun (x : Nat × Context) =>
      if (tabGet? x.2.savedCores core).isNone then x
      else (x.1, { x.2 with savedCores := x.2.savedCores.map (fun (v : Nat × SavedCore) =>
        if v.1 = core then (v.1, { v.2 with remote := v.2.remote.map g }) else v) })) }

/-- An acknowledged message of a sending transfer. -/
def ackedPhase : DmaPhase → DmaPhase
  | .sending n => .sending (n - 1)
  | p => p

/-- Read data of a reading transfer. -/
def readPhase (bs : Bytes) : DmaPhase → DmaPhase
  | .reading got want => if want ≤ got.length + bs.length then .ready (got ++ bs) else .reading (got ++ bs) want
  | .asking got want => if want ≤ got.length + bs.length then .asked (got ++ bs) else .asking (got ++ bs) want
  | p => p

/-- A transfer whose destination's parameters have come is converted and sent (R132, R211). -/
def State.sendAsked (s : State) (core : Nat) (slot : Fin 16) : State :=
  match s.findXfer core slot with
  | some (id, p, x, live) =>
    match x.phase, dmDescs x.q x.desc with
    | .asked got, some (a, b) =>
      match s.localDesc a, s.qpFor p (b.addr / 2 ^ 51) with
      | some la, some (qn, _) =>
        let (t, acc, n) := s.sendXfer core x la b (fetched b.paramRanges got) qn
        (t.modXfer core slot (fun _ => .sending n)).xferSeen core id x acc live
      | _, _ => s
    | _, _ => s
  | none => s

/-! ### FSIG (R215) -/

/-- No earlier DMOV of this unit to the target core's scratch is in flight (R31). -/
def State.fsigReady (s : State) (core : Nat) (q : QEntry) : Bool :=
  (s.core core).dma.all (fun t => s.xferDest t != some (1, dmDfcore q.w))

/-- FSIG increments its flag and completes. -/
def State.runFsig (s : State) (core : Nat) (q : QEntry) : State :=
  match s.ctxOf core with
  | none => s
  | some id =>
    if s.inContext core (dmDfcore q.w) then (s.incFlag id (dmDfcore q.w) (dmDfflag q.w) core q).signal core q
    else s.opFault core 4 q

end Sys2Proof.Machine
end

