-- ==== Sys2Proof/Machine/Engines.lean ====
section
/-! DEFINITION. How the engine queues advance: heads execute when their waits are satisfied and their engine can take them;
the waits themselves; issue (R155, R199, R205, R212 to R216, R219, R221). -/

namespace Sys2Proof.Machine

/-! ### WAITM (R214) -/

def wmCmp (w : InstrWord) : Nat := fld w 71 2
/-- The address a WAITM reads: ADDR + X[XO]. -/
def wmAddr (q : QEntry) : W64 := BitVec.ofNat 64 (fld q.w 0 48) + xGet q.x (fld q.w 66 4)
def waitmLegal (w : InstrWord) : Bool := headerOk w && wmCmp w ≤ 2 && fld w 48 14 == 0

/-- The comparison of a WAITM on the word it reads. -/
def wmHolds (q : QEntry) (v : W64) : Bool :=
  let x := xGet q.x (fld q.w 62 4)
  match wmCmp q.w with
  | 0 => v == x
  | 1 => v != x
  | _ => x.toNat ≤ v.toNat

/-- What a WAITM's read meets: a fault code, a failing word, or the word. -/
inductive WordRead where
  | fault (code : Nat)
  | bad (a : Nat)
  | word (v : W64)
  deriving DecidableEq, Repr

/-- Read the word of a WAITM (R214, R303). -/
def State.waitmRead (s : State) (p : Nat) (q : QEntry) : WordRead :=
  let a := (wmAddr q).toNat
  match s.localAddr a with
  | none => .fault 4
  | some k =>
    if k % 8 ≠ 0 then .fault 3
    else if !s.mayRead p k 8 then .fault 4
    else if !s.good k 8 then .bad k
    else .word (BitVec.ofNat 64 (bytesToNat (s.bus k 8)))

/-! ### Heads -/

/-- The head of a queue can execute now: its wait is satisfied and its engine can take it. -/
def State.headReady (s : State) (core : Nat) (q : QEntry) : Bool :=
  let c := s.core core
  c.waitOk q &&
    (match q.op with
     | 0x20 => !c.mmulBlocked q.w
     | 0x50 | 0x51 => c.gate.isNone
     | 0x40 => decide (vqrdNeed q.w ≤ c.occ false)
     | 0x60 => (s.freeSlot core).isSome
     | 0x1C => s.fsigReady core q
     | _ => true)

/-- A WAIT or WAITM with a live set lets issue go on, or becomes the pre-emption point its request asks for; one whose parking
was prevented leaves the request to the next point (R213, R221). -/
def State.endBarrier (s : State) (core : Nat) (q : QEntry) : State :=
  let c := s.core core
  match c.seq, (s.ctxOf core).bind s.ctx? with
  | .barrier b, some x =>
    if b.no = q.no then
      if x.umber && x.preempt.isSome && c.noPark != some q.no then
        s.setCore core { c with seq := .barrier { q with op := 0x1B, w := clearSen q.w } }
      else s.setCore core { c with seq := .running, noPark := none }
    else s
  | _, _ => s

/-- A WAITM at its head whose header wait has been served: it completes when the comparison holds (R214). -/
def State.tryWaitm (s : State) (core : Nat) (e : Engine) (q : QEntry) : Bool × State :=
  match s.passOf core with
  | none => (false, s)
  | some (p, _) =>
    match s.waitmRead p q with
    | .fault code => (false, s.opFault core code q)
    | .bad a => (false, s.coreBadData core a 8)
    | .word v =>
      if wmHolds q v then (true, ((s.modCore core (fun c => c.pop e s.now)).signal core q).endBarrier core q)
      else (false, s)

/-- The head of queue `e` executes. Answers whether the queue may go on. -/
def State.runHead (s : State) (core : Nat) (e : Engine) (q : QEntry) : Bool × State :=
  let s := s.modCore core (fun c => c.takeWait q)
  if q.op = 0x19 then
    let q' := { q with w := clearWait q.w }
    let s := s.modCore core (fun c => c.setQueue e (q' :: (c.queue e).tail))
    s.tryWaitm core e q'
  else
    let s := s.modCore core (fun c => c.pop e s.now)
    (true, match q.op with
      | 0x18 => (s.signal core q).endBarrier core q
      | 0x1C => s.runFsig core q
      | 0x20 => s.startMmul core q
      | 0x50 => (s.runGcfg core q).signal core q
      | 0x51 => s.startGrun core q
      | 0x60 => s.startDmov core q
      | _ => (s.runVector core q).signal core q)

/-- A queue advances while its head can execute; a due trap halts the core between two instructions (R118). -/
def State.pump : Nat → State → Nat → Engine → State
  | 0, s, _, _ => s
  | k + 1, s, core, e =>
    match ((s.core core).queue e).head? with
    | none => s
    | some q =>
      if s.headReady core q then
        let (go, t) := s.runHead core e q
        let t := t.trapHalt core
        if go then State.pump k t core e else t
      else s

/-- An engine has done something: its queue advances, then what follows on the core. -/
def State.turn (s : State) (core : Nat) (e : Engine) : State := (s.pump 9 core e).settleCore core

/-! ### Issue (R192, R199) -/

/-- The queue entry of the instruction issued now. -/
def State.issueEntry (s : State) (core op : Nat) (w : InstrWord) : QEntry :=
  let c := s.core core
  ⟨op, w, c.pc, c.x, c.issueNo, s.now⟩

/-- The sequencer moves past an instruction. -/
def Core.advance (c : Core) : Core := { c with pc := c.pc + 1, issueNo := c.issueNo + 1 }

/-- The core issues: it runs a context and its sequencer is not stopped. -/
def Core.issuing (c : Core) : Bool := c.seq == .running && c.ctx.isSome

/-- An instruction for an engine enters its queue, unless that is full (R199); an illegal one faults the context (R224);
`barrier` stops issue behind it (R213). -/
def State.issueTo (s : State) (core op : Nat) (w : InstrWord) (e : Engine) (legal barrier : Bool) : State :=
  let c := s.core core
  if !c.issuing then s
  else
    let q := s.issueEntry core op w
    if !legal then s.opFault core 3 q
    else if 8 ≤ (c.queue e).length then s
    else
      let c := c.advance.setQueue e (c.queue e ++ [q])
      let c := if barrier then { c with seq := .barrier q } else c
      let s := s.setCore core c
      if (c.queue e).length = 1 then s.turn core e else s.settleCore core

/-- A sequencer-class instruction executes at issue, or stalls issue on its header wait (R199). -/
def State.issueSeq (s : State) (core op : Nat) (w : InstrWord) (legal : Bool) (run : QEntry → State → State) : State :=
  let c := s.core core
  if !c.issuing then s
  else
    let q := s.issueEntry core op w
    if !legal then s.opFault core 3 q
    else if c.waitOk q then run q (s.setCore core (c.takeWait q).advance)
    else s.setCore core { c.advance with seq := .waitHdr q }

end Sys2Proof.Machine
end

