-- ==== Sys2Proof/Machine/Meridian.lean ====
section
/-! DEFINITION. The commands of intake, of the Meridian engine, the plate archive and the output engine:
CHUNK_ACCEPT to ORPHAN_TIMEOUT (R51 to R86, R396, R464 to R466, R471). -/

namespace Sys2Proof.Machine

/-- Answers of the commands: always a next state. -/
abbrev Answer := Host.Outcome State Fault Refusal

/-! ### Acceptance -/

/-- Samples of the next chunk of a sampled stream, 0 without a partition. -/
def State.nextChunkSamples (s : State) (x : Stream) : Nat :=
  match s.part? x.part.val with
  | some q => chunkSamples q.l x.sampleRate.toNat
  | none => 0

/-- The samples of the next chunk that are present. -/
def Stream.presentIn (x : Stream) (n : Nat) : Nat :=
  let lo := x.sampleCount.toNat
  (x.intake.samples.filter (fun e => lo ≤ e.1 && e.1 < lo + n)).length

/-- The payload and side band of the next chunk; absent samples read +0 and mark their frame (R230, R355, R396). -/
def Stream.nextChunk (x : Stream) (n perFrame : Nat) (gapReset : Bool) : Bytes × Bytes :=
  let lo := x.sampleCount.toNat
  let bytes := 4 * max 1 x.channelsIn
  let payload := (List.range n).flatMap (fun j => tabGet x.intake.samples (zeros bytes) (lo + j))
  let flags := fun (f : Nat) => (List.range perFrame).foldl (fun b j =>
    let t := lo + f * perFrame + j
    let m := tabGet x.intake.marks 0 t
    let m := if (tabGet? x.intake.samples t).isSome then m else m ||| (if gapReset then 5 else 4)
    b ||| m) 0
  (payload, (List.range (n / max 1 perFrame)).map (fun f => BitVec.ofNat 8 (flags f)))

/-- Samples and marks of accepted chunks leave the intake side. -/
def Stream.consume (x : Stream) (n : Nat) : Stream :=
  let hi := x.sampleCount.toNat + n
  { x with intake := { x.intake with samples := x.intake.samples.filter (fun e => hi ≤ e.1),
                                     marks := x.intake.marks.filter (fun e => hi ≤ e.1),
                                     kept := x.intake.kept.filter (fun k => hi ≤ k.last) } }

/-- Accept the next chunk of a sampled source as it stands (R51, R396), and write its programme samples (R354). -/
def State.acceptSampled (s : State) (i : Nat) (gapReset : Bool) : State :=
  let x := s.stream i
  let n := s.nextChunkSamples x
  match (s.part? x.part.val).bind (·.shape?) with
  | none => s
  | some im =>
    if n = 0 then s
    else
      let (payload, side) := x.nextChunk n (max 1 im.samplesPerFrame) gapReset
      let absent := x.presentIn n < n
      let s := s.setStream i (x.consume n)
      let s := s.acceptChunk i (n / max 1 im.samplesPerFrame) n side payload absent
      let s := match (s.stream i).chunks.getLast? with
        | some c => s.writeProgramme i c
        | none => s
      (s.poolCheck).settle x.part.val

/-- The chunk is accepted when all its samples are present (R51, R396). -/
def execChunkAccept (i : Fin 16384) (s : State) : Answer :=
  let x := s.stream i.val
  let n := s.nextChunkSamples x
  if x.takesInput && x.srcKind = 1 && n ≠ 0 && x.presentIn n = n then
    .next (s.acceptSampled i.val (bndGapReset x.binding))
  else .next s

/-- The moment E + J of the next chunk in ns (R396): of the first kept packet that reaches into it or beyond. -/
def Stream.jitterMoment (x : Stream) (n : Nat) : Option Int :=
  let lo := x.sampleCount.toNat
  match x.intake.kept.find? (fun k => lo ≤ k.last) with
  | none => none
  | some k =>
    let ec : Int := lo + n - 1
    some (k.arrival.toNat + (ec - k.last) * 1000000000 / max 1 x.sampleRate.toNat + bndJitterNs x.binding)

/-- At E + J the chunk is accepted with its absent samples +0 (R396). -/
def execJitterAcceptTimeout (i : Fin 16384) (s : State) : Answer :=
  let x := s.stream i.val
  let n := s.nextChunkSamples x
  match x.jitterMoment n with
  | some t =>
    if x.takesInput && x.srcKind = 1 && n ≠ 0 && t ≤ s.time then .next (s.acceptSampled i.val (bndGapReset x.binding))
    else .next s
  | none => .next s

/-- The oldest chunk not yet archived has its slot written and becomes eligible; a mirrored stream's record goes to the
peer (R464, R465, R478). -/
def execArchiveWriteDone (i : Fin 16384) (s : State) : Answer :=
  let x := s.stream i.val
  match x.chunks.find? (fun c => !c.archived), (s.part? x.part.val).bind (·.shape?) with
  | some c, some im =>
    let c' := { c with archived := true, mirrored := x.mirrorSide.isSome }
    let bs := c'.slot x.handle.toNat
    let s := s.writeRaw (x.slotAddr im.slotBytes c.no) bs
    let s := s.setStream i.val { x with chunks := x.chunks.map (fun d => if d.no = c.no then c' else d) }
    let s := match x.mirrorSide with
      | some m => s.sendMirror m.peer.toNat (.chunk m.shadow bs)
      | none => s
    .next (s.poolCheck.settle x.part.val)
  | _, _ => .next s

/-! ### Steps and passes -/

/-- A step starts at one of the moments of R75. -/
def execStepStart (p : Fin 16) (s : State) : Answer :=
  match s.part? p.val with
  | some q =>
    if s.dev.mode = .serving && q.zeroing.isNone && q.resetting.isNone then .next (s.startStep p.val) else .next s
  | none => .next s

/-- After 16 steps in STALLED the cluster-scratch residency is released (R62). -/
def execStalledResidencyRelease (i : Fin 16384) (s : State) : Answer :=
  let x := s.stream i.val
  if x.state = .stalled && x.stalledStep.toNat + 16 ≤ s.stepOf x.part.val then
    .next (s.setStream i.val { x with resCluster := 63 })
  else .next s

/-- The next pass's contexts start (R193, R468). -/
def execPassStart (p : Fin 16) (s : State) : Answer :=
  match (s.part? p.val).bind (·.step) with
  | some r =>
    if s.dev.mode = .serving && !r.passOn && r.replay.isNone && r.cur < r.passes then
      .next ((s.startPass p.val r.cur false).settle p.val)
    else .next s
  | none => .next s

/-- All cores of a context have ended: order 7 ends for it, its streams' results are stored (R218); with no later pass on its
cores their photometers stop gathering (R136). -/
def execContextEnd (ctx : BitVec 16) (s : State) : Answer :=
  match s.ctx? ctx.toNat with
  | some x =>
    if x.cores.all (fun c => x.endedCores.contains c) then
      let p := x.part.val
      let s := x.cores.foldl (fun t c => t.modCore c (fun k => { k with seq := .idle, ctx := none })) s
      let s := { s with ctxs := tabDel s.ctxs ctx.toNat }
      let later := ((s.part? p).bind (·.step)).any (fun r => r.list.any (fun e => e.group == x.group && x.pass < e.pass && !e.gone))
      let s := if later then s else x.cores.foldl (fun t c => t.modCore c (fun k => { k with gathering := false })) s
      let s := s.modPart p (fun q => { q with step := q.step.map (fun r =>
        { r with list := r.list.map (fun e =>
          if e.pass == x.pass && e.group == x.group && !e.gone then { e with stored := true } else e) }) })
      .next (s.settle p)
    else .next s
  | none => .next s

/-- The work entry of a stream in its partition's step. -/
def State.workOf (s : State) (i : Nat) : Option WorkEntry :=
  match (s.part? (s.stream i).part.val).bind (·.step) with
  | some r => r.list.find? (fun e => e.stream.val == i && !e.gone)
  | none => none

/-- The step's overflow decision has been taken, where one is due (R148, R466). -/
def State.decided (s : State) (p : Nat) : Bool :=
  match s.part? p with
  | some q => !s.holdsOutputs q || ((q.step.map (·.decided)).getD false)
  | none => false

/-- The output engine releases a stream's next record, or its exit check fails and the pass is replayed (R53, R461). -/
def execOutputRelease (i : Fin 16384) (exitOk : Bool) (s : State) : Answer :=
  let x := s.stream i.val
  let p := x.part.val
  match s.workOf i.val, (s.part? p).bind (·.image?) with
  | some e, some im =>
    if s.dev.mode = .serving && e.stored && e.outIdx < im.outRecords && s.decided p then
      let a := e.outAddr + e.outIdx * alignUp 256 im.outBytes
      if exitOk && s.good a im.outBytes then .next ((s.releaseNext i.val im e).settle p)
      else
        let h := s.health
        let s := { s with health := { h with exitFail := satAdd h.exitFail 1 } }
        .next (s.badData p e.pass a im.outBytes)
    else .next s
  | _, _ => .next s

/-- A waiting record is written into its host ring (R400). -/
def execHostRingSinkWrite (i : Fin 16384) (s : State) : Answer := .next (s.writeSink i.val)

/-- The consumer's count is read again while records wait (R400). -/
def execSinkConsReread (i : Fin 16384) (count : W64) (s : State) : Answer :=
  let x := s.stream i.val
  if x.sinkKind = 3 && !x.outlet.waiting.isEmpty then
    .next (s.setStream i.val { x with outlet := { x.outlet with cons := count } })
  else .next s

/-- The plate archive flips COMMIT_SIDE and writes COMMIT_STEP, then DONE of the chunk's slot (R45, R466). -/
def execStateCommitFlip (i : Fin 16384) (s : State) : Answer :=
  let x := s.stream i.val
  let p := x.part.val
  match s.workOf i.val, (s.part? p).bind (·.image?) with
  | some e, some im =>
    if e.stored && !e.committed && e.outIdx = im.outRecords && s.decided p then
      let step := s.stepOf p
      let held := x.chunks.any (fun c => c.no == e.chunkNo)
      let chunks := x.chunks.filter (fun c => c.no != e.chunkNo)
      let s := s.setStream i.val { x with commitSide := !x.commitSide, commitStep := BitVec.ofNat 48 step, chunks := chunks,
                                          oldestAccept := ((chunks.head?).map (·.accept)).getD 0,
                                          chunksDone := x.chunksDone + 1, lastDone := s.now }
      let s := if held then s.writeNat (e.chunkAddr - 0x40 + 0x20) 8 (2 ^ 63 + step) else s
      let s := s.modPart p (fun q => { q with step := q.step.map (fun r =>
        { r with list := r.list.map (fun f => if f.stream = i then { f with committed := true } else f) }) })
      .next (s.settle p)
    else .next s
  | _, _ => .next s

/-! ### Seeing reports (R85 to R87) -/

/-- A counter of the record that saturates at its width; one whose count is just the largest value has not saturated
(DESIGN CHOICE, log 42). -/
def seeField (n v : Nat) : Bytes × Bool := (natToBytes n (min v (256 ^ n - 1)), decide (256 ^ n ≤ v))

/-- The record of R86. The means and ratios saturate and mark the record as the counters do (DESIGN CHOICE, log 42). -/
def seeingRecord (p no : Nat) (g : SeeingTally) (c : SeeingCounts) : Bytes :=
  let mean := g.durNs / max 1 g.steps
  let iso := g.isoNs / max 1 g.steps
  let fs := [seeField 4 g.steps]
  let a := [seeField 4 mean, seeField 4 iso, seeField 2 (mean * 256 / max 1 iso), seeField 2 g.slowMax, seeField 4 g.late]
  let b := [seeField 8 c.hbmWait, seeField 8 c.lpddrWait, seeField 8 c.ringWait, seeField 8 c.hubWait, seeField 8 c.routerWait,
            seeField 8 g.queueFull, seeField 8 c.remoteNs, seeField 8 c.foreignBytes, seeField 4 g.preempts,
            seeField 4 g.parked, seeField 4 g.orphaned, seeField 4 g.migrated]
  let sat := (fs ++ a ++ b).any (·.2)
  let flags := flag g.overAdmitted + 2 * flag g.floorHeld + 4 * flag g.throttled + 8 * flag sat
  b2 0x11 ++ b1 p ++ b1 flags ++ fs.flatMap (·.1) ++ b8 g.firstStep.toNat ++ a.flatMap (·.1) ++ b.flatMap (·.1)
    ++ b4 no ++ zeros 12

/-- At the end of a period the record is written to the partition's ring, or skipped without a queue pair (R85). -/
def execSeeingPeriodEnd (p : Fin 16) (counts : SeeingCounts) (s : State) : Answer :=
  match s.part? p.val with
  | some q =>
    match q.seeing with
    | some g =>
      match g.due with
      | d :: due =>
        let a := g.ring + BitVec.ofNat 64 (128 * (g.recordNo % max 1 g.entries))
        let t := (s.writeDomain 16 a (seeingRecord p.val g.recordNo d counts) .other).getD s
        .next (t.modPart p.val (fun v => { v with seeing := some { g with recordNo := (g.recordNo + 1) % 2 ^ 32, due := due } }))
      | [] => .next s
    | none => .next s
  | none => .next s

/-! ### Timeouts of streams -/

/-- No pending chunk and no sample throughout the stall time: STALLED (R62). -/
def execStallTimeout (i : Fin 16384) (s : State) : Answer :=
  let x := s.stream i.val
  match s.part? x.part.val with
  | some q =>
    if x.state = .active && x.chunks.isEmpty && max x.lastDone.toNat x.lastSample.toNat + q.stallNs ≤ s.time then
      .next (s.setStream i.val { x with state := .stalled, stalledStep := q.stepNo })
    else .next s
  | none => .next s

/-- A stream still ORPHANED at the end of its orphan timeout is closed; a shadow's runs from its last mirror record
(R81, R477). -/
def execOrphanTimeout (i : Fin 16384) (s : State) : Answer :=
  let x := s.stream i.val
  match s.part? x.part.val with
  | some q =>
    let t0 := match x.shadow with
      | some h => h.lastRecord.toNat
      | none => x.orphanSince.toNat
    if x.state = .orphaned && t0 + q.orphanNs ≤ s.time then .next (s.closeStream i.val false) else .next s
  | none => .next s

/-- The reload of an interrupted pass is done and the pass runs again (R469). -/
def execReplayReloadDone (p : Fin 16) (s : State) : Answer := .next (s.rerun p.val)

end Sys2Proof.Machine
end

