-- ==== Sys2Proof/Machine/Scalar.lean ====
section
/-! DEFINITION. The instructions of the sequencer: NOP to XLD, SYNC, PPOINT and reserved opcodes
(R197, R198, R217 to R219, R224). -/

namespace Sys2Proof.Machine

/-! ### The C format (R198) -/

def cXd (w : InstrWord) : Nat := fld w 84 4
def cXa (w : InstrWord) : Nat := fld w 80 4
def cXb (w : InstrWord) : Nat := fld w 76 4
def cImm (w : InstrWord) : Nat := fld w 0 48
/-- The branch target. -/
def cTarget (w : InstrWord) : Nat := fld w 0 16
/-- The reserved bits of the C format are zero. -/
def cLegal (w : InstrWord) : Bool := headerOk w && fld w 48 28 == 0

/-- A branch target within the program segment of the core's context (R198). -/
def State.targetOk (s : State) (core : Nat) (w : InstrWord) : Bool :=
  match s.passOf core with
  | some (p, _) => 16 * cTarget w + 16 ≤ s.segBytes p
  | none => false

/-- The legal encoding of a branch. -/
def State.branchLegal (s : State) (core : Nat) (w : InstrWord) : Bool := cLegal w && s.targetOk core w

/-- Xa and Xb of the core. -/
def State.xa (s : State) (core : Nat) (q : QEntry) : W64 := xGet (s.core core).x (cXa q.w)
def State.xb (s : State) (core : Nat) (q : QEntry) : W64 := xGet (s.core core).x (cXb q.w)

/-- Write Xd and complete. -/
def State.setXd (s : State) (core : Nat) (q : QEntry) (v : W64) : State :=
  (s.modCore core (fun c => { c with x := xSet c.x (cXd q.w) v })).signal core q

/-- Branch to the target when a condition holds, and complete. -/
def State.branch (s : State) (core : Nat) (q : QEntry) (taken : Bool) : State :=
  (if taken then s.modCore core (fun c => { c with pc := BitVec.ofNat 16 (cTarget q.w) }) else s).signal core q

/-! ### What each executes -/

def runNop (core : Nat) (q : QEntry) (s : State) : State := s.signal core q
/-- END acts as SYNC, then ends the core's part of the context (R218). -/
def runEnd (core : Nat) (q : QEntry) (s : State) : State :=
  (s.modCore core (fun c => { c with seq := .barrier q })).settleCore core
def runBr (core : Nat) (q : QEntry) (s : State) : State := s.branch core q true
def runBeq (core : Nat) (q : QEntry) (s : State) : State := s.branch core q (s.xa core q == s.xb core q)
def runBne (core : Nat) (q : QEntry) (s : State) : State := s.branch core q (s.xa core q != s.xb core q)
def runBlt (core : Nat) (q : QEntry) (s : State) : State := s.branch core q ((s.xa core q).slt (s.xb core q))
def runBge (core : Nat) (q : QEntry) (s : State) : State := s.branch core q (!(s.xa core q).slt (s.xb core q))
/-- LOOP: Xd := Xd − 1, branch if Xd is then not 0. -/
def runLoop (core : Nat) (q : QEntry) (s : State) : State :=
  let d := cXd q.w
  let s := s.modCore core (fun c => { c with x := xSet c.x d (xGet c.x d - 1) })
  s.branch core q (xGet (s.core core).x d != 0)
/-- XSET: IMM sign-extended. -/
def runXset (core : Nat) (q : QEntry) (s : State) : State := s.setXd core q ((BitVec.ofNat 48 (cImm q.w)).signExtend 64)
/-- XADDI: IMM zero-extended, as only XSET's is said to be sign-extended (DEDUCED, log 6). -/
def runXaddi (core : Nat) (q : QEntry) (s : State) : State := s.setXd core q (s.xa core q + BitVec.ofNat 64 (cImm q.w))
def runXadd (core : Nat) (q : QEntry) (s : State) : State := s.setXd core q (s.xa core q + s.xb core q)
def runXsub (core : Nat) (q : QEntry) (s : State) : State := s.setXd core q (s.xa core q - s.xb core q)
def runXmuli (core : Nat) (q : QEntry) (s : State) : State := s.setXd core q (s.xa core q * BitVec.ofNat 64 (cImm q.w))
def runXshl (core : Nat) (q : QEntry) (s : State) : State := s.setXd core q (s.xa core q <<< (cImm q.w % 64))
def runXshr (core : Nat) (q : QEntry) (s : State) : State := s.setXd core q (s.xa core q >>> (cImm q.w % 64))
def runXand (core : Nat) (q : QEntry) (s : State) : State := s.setXd core q (s.xa core q &&& s.xb core q)
/-- XLD: the word at core scratch offset Xa + IMM; an offset that is not 8-byte aligned is an illegal instruction, one
beyond the scratch or powered down an access outside the partition (R197, R321). -/
def runXld (core : Nat) (q : QEntry) (s : State) : State :=
  let off := (s.xa core q + BitVec.ofNat 64 (cImm q.w)).toNat
  if off % 8 ≠ 0 then s.opFault core 3 q
  else if !s.scratchOk core off 8 then s.opFault core 4 q
  else if !s.good (coreWin core + off) 8 then s.coreBadData core (coreWin core + off) 8
  else s.setXd core q (BitVec.ofNat 64 (s.readNat (coreWin core + off) 8))
/-- SYNC is an issue barrier (R217). -/
def runSync (core : Nat) (q : QEntry) (s : State) : State :=
  (s.modCore core (fun c => { c with seq := .barrier q })).settleCore core
/-- PPOINT does nothing without a request pending in an Umber context; with one it is an issue barrier (R219). -/
def runPpoint (core : Nat) (q : QEntry) (s : State) : State :=
  match (s.ctxOf core).bind s.ctx? with
  | some x =>
    if x.umber && x.preempt.isSome then (s.modCore core (fun c => { c with seq := .barrier q })).settleCore core
    else s.signal core q
  | none => s

/-- A sequencer-class instruction that stalled issue executes by its opcode. -/
def runSeq (core : Nat) (q : QEntry) (s : State) : State :=
  match q.op with
  | 0x00 => runNop core q s
  | 0x01 => runEnd core q s
  | 0x02 => runBr core q s
  | 0x03 => runBeq core q s
  | 0x04 => runBne core q s
  | 0x05 => runBlt core q s
  | 0x06 => runBge core q s
  | 0x07 => runLoop core q s
  | 0x08 => runXset core q s
  | 0x09 => runXaddi core q s
  | 0x0A => runXadd core q s
  | 0x0B => runXsub core q s
  | 0x0C => runXmuli core q s
  | 0x0D => runXshl core q s
  | 0x0E => runXshr core q s
  | 0x0F => runXand core q s
  | 0x10 => runXld core q s
  | 0x1A => runSync core q s
  | _ => runPpoint core q s

/-! ### The commands -/

/-- NOP (R197). -/
def execNop (c : Fin 1536) (w : InstrWord) (s : State) : Answer := .next (s.issueSeq c.val 0x00 w (cLegal w) (runNop c.val))
/-- END (R218). -/
def execEnd (c : Fin 1536) (w : InstrWord) (s : State) : Answer := .next (s.issueSeq c.val 0x01 w (cLegal w) (runEnd c.val))
/-- BR: PC := IMM[15:0]. -/
def execBr (c : Fin 1536) (w : InstrWord) (s : State) : Answer :=
  .next (s.issueSeq c.val 0x02 w (s.branchLegal c.val w) (runBr c.val))
/-- BEQ. -/
def execBeq (c : Fin 1536) (w : InstrWord) (s : State) : Answer :=
  .next (s.issueSeq c.val 0x03 w (s.branchLegal c.val w) (runBeq c.val))
/-- BNE. -/
def execBne (c : Fin 1536) (w : InstrWord) (s : State) : Answer :=
  .next (s.issueSeq c.val 0x04 w (s.branchLegal c.val w) (runBne c.val))
/-- BLT, signed. -/
def execBlt (c : Fin 1536) (w : InstrWord) (s : State) : Answer :=
  .next (s.issueSeq c.val 0x05 w (s.branchLegal c.val w) (runBlt c.val))
/-- BGE, signed. -/
def execBge (c : Fin 1536) (w : InstrWord) (s : State) : Answer :=
  .next (s.issueSeq c.val 0x06 w (s.branchLegal c.val w) (runBge c.val))
/-- LOOP. -/
def execLoop (c : Fin 1536) (w : InstrWord) (s : State) : Answer :=
  .next (s.issueSeq c.val 0x07 w (s.branchLegal c.val w) (runLoop c.val))
/-- XSET. -/
def execXset (c : Fin 1536) (w : InstrWord) (s : State) : Answer := .next (s.issueSeq c.val 0x08 w (cLegal w) (runXset c.val))
/-- XADDI. -/
def execXaddi (c : Fin 1536) (w : InstrWord) (s : State) : Answer := .next (s.issueSeq c.val 0x09 w (cLegal w) (runXaddi c.val))
/-- XADD. -/
def execXadd (c : Fin 1536) (w : InstrWord) (s : State) : Answer := .next (s.issueSeq c.val 0x0A w (cLegal w) (runXadd c.val))
/-- XSUB. -/
def execXsub (c : Fin 1536) (w : InstrWord) (s : State) : Answer := .next (s.issueSeq c.val 0x0B w (cLegal w) (runXsub c.val))
/-- XMULI. -/
def execXmuli (c : Fin 1536) (w : InstrWord) (s : State) : Answer := .next (s.issueSeq c.val 0x0C w (cLegal w) (runXmuli c.val))
/-- XSHL. -/
def execXshl (c : Fin 1536) (w : InstrWord) (s : State) : Answer := .next (s.issueSeq c.val 0x0D w (cLegal w) (runXshl c.val))
/-- XSHR, logical. -/
def execXshr (c : Fin 1536) (w : InstrWord) (s : State) : Answer := .next (s.issueSeq c.val 0x0E w (cLegal w) (runXshr c.val))
/-- XAND. -/
def execXand (c : Fin 1536) (w : InstrWord) (s : State) : Answer := .next (s.issueSeq c.val 0x0F w (cLegal w) (runXand c.val))
/-- XLD. -/
def execXld (c : Fin 1536) (w : InstrWord) (s : State) : Answer := .next (s.issueSeq c.val 0x10 w (cLegal w) (runXld c.val))
/-- SYNC. -/
def execSync (c : Fin 1536) (w : InstrWord) (s : State) : Answer := .next (s.issueSeq c.val 0x1A w (headerOk w) (runSync c.val))
/-- PPOINT. -/
def execPpoint (c : Fin 1536) (w : InstrWord) (s : State) : Answer :=
  .next (s.issueSeq c.val 0x1B w (headerOk w) (runPpoint c.val))

/-- The opcodes of R197. -/
def opcodes : List Nat :=
  List.range 0x11 ++ [0x18, 0x19, 0x1A, 0x1B, 0x1C, 0x20] ++ (List.range 8).map (0x30 + ·) ++ [0x40, 0x41, 0x42, 0x50, 0x51, 0x60]

/-- A reserved opcode is an illegal instruction (R224). -/
def execReservedOpcode (c : Fin 1536) (w : BitVec 128) (s : State) : Answer :=
  let k := s.core c.val
  if k.issuing && !opcodes.contains (w.toNat / 2 ^ 120) then
    .next (s.opFault c.val 3 (s.issueEntry c.val (w.toNat / 2 ^ 120) (w.setWidth 120)))
  else .next s

end Sys2Proof.Machine
end

