-- ==== Sys2Proof/Machine/Queues.lean ====
section
/-! DEFINITION. The instructions of the engine queues as they issue, and the events of the engines: waits, passes, queue
writes, completions, pre-emption, timeouts (R155, R164 to R166, R202 to R223). -/

namespace Sys2Proof.Machine

/-! ### Issue into the queues -/

/-- WAIT occupies the head of the queue ENG names until its header wait is satisfied (R213). -/
def execWait (c : Fin 1536) (w : InstrWord) (s : State) : Answer :=
  .next (s.issueTo c.val 0x18 w (engOf w) (headerOk w) (lsdOf w != 0))
/-- WAITM waits there for a word of memory (R214). -/
def execWaitm (c : Fin 1536) (w : InstrWord) (s : State) : Answer :=
  .next (s.issueTo c.val 0x19 w (engOf w) (waitmLegal w) (lsdOf w != 0))
/-- FSIG runs on the DMA queue (R215). -/
def execFsig (c : Fin 1536) (w : InstrWord) (s : State) : Answer := .next (s.issueTo c.val 0x1C w .dma (headerOk w) false)
/-- MMUL enters the matrix queue (R202, R204). -/
def execMmul (c : Fin 1536) (w : InstrWord) (s : State) : Answer :=
  .next (s.issueTo c.val 0x20 w .matrix
    (headerOk w && fld w 16 7 == 0 && 1 ≤ mmPasses w && mmGroupOk w) false)
/-- VFP (R206). -/
def execVfp (c : Fin 1536) (w : InstrWord) (s : State) : Answer := .next (s.issueTo c.val 0x30 w .vector (vLegal 0x30 w) false)
/-- VBF. -/
def execVbf (c : Fin 1536) (w : InstrWord) (s : State) : Answer := .next (s.issueTo c.val 0x31 w .vector (vLegal 0x31 w) false)
/-- VINT. -/
def execVint (c : Fin 1536) (w : InstrWord) (s : State) : Answer := .next (s.issueTo c.val 0x32 w .vector (vLegal 0x32 w) false)
/-- VCVT. -/
def execVcvt (c : Fin 1536) (w : InstrWord) (s : State) : Answer := .next (s.issueTo c.val 0x33 w .vector (vLegal 0x33 w) false)
/-- VFUNC. -/
def execVfunc (c : Fin 1536) (w : InstrWord) (s : State) : Answer := .next (s.issueTo c.val 0x34 w .vector (vLegal 0x34 w) false)
/-- VRED. -/
def execVred (c : Fin 1536) (w : InstrWord) (s : State) : Answer := .next (s.issueTo c.val 0x35 w .vector (vLegal 0x35 w) false)
/-- VBC. -/
def execVbc (c : Fin 1536) (w : InstrWord) (s : State) : Answer := .next (s.issueTo c.val 0x36 w .vector (vLegal 0x36 w) false)
/-- VSIDE (R208). -/
def execVside (c : Fin 1536) (w : InstrWord) (s : State) : Answer := .next (s.issueTo c.val 0x37 w .vector (vLegal 0x37 w) false)
/-- VQRD (R171). -/
def execVqrd (c : Fin 1536) (w : InstrWord) (s : State) : Answer := .next (s.issueTo c.val 0x40 w .vector (vmLegal 0x40 w) false)
/-- VLD (R207). -/
def execVld (c : Fin 1536) (w : InstrWord) (s : State) : Answer := .next (s.issueTo c.val 0x41 w .vector (vmLegal 0x41 w) false)
/-- VST (R207). -/
def execVst (c : Fin 1536) (w : InstrWord) (s : State) : Answer := .next (s.issueTo c.val 0x42 w .vector (vmLegal 0x42 w) false)
/-- GCFG (R209). -/
def execGcfg (c : Fin 1536) (w : InstrWord) (s : State) : Answer := .next (s.issueTo c.val 0x50 w .gate (gcfgLegal w) false)
/-- GRUN (R209). -/
def execGrun (c : Fin 1536) (w : InstrWord) (s : State) : Answer := .next (s.issueTo c.val 0x51 w .gate (grunLegal w) false)

/-- DMOV enters the DMA queue; `hop` is what its transit checks meet: resends are counted, a third failure of the transfer
is a fault of the link (R460). -/
def execDmov (c : Fin 1536) (w : InstrWord) (hop : HopResult) (s : State) : Answer :=
  let go := (s.core c.val).issuing
  let t := s.issueTo c.val 0x60 w .dma (dmovLegal w) false
  let h := t.health
  match hop with
  | .clean => .next t
  | .resent n => .next (if go then { t with health := { h with hopResend := satAdd h.hopResend (min n 2) } } else t)
  | .linkFailed =>
    if go && !(t.core c.val).dma.isEmpty then
      let t := { t with health := { h with hopResend := satAdd h.hopResend 2 } }
      .next (t.unitFault ⟨7, BitVec.ofNat 64 (c.val / 384 * 2 ^ 32), BitVec.ofNat 48 (coreWin c.val), .nothing, true⟩)
    else .next t

/-! ### Events of the engines -/

/-- A waiting instruction's flag has reached its count: it executes and the count is subtracted (R212). -/
def execWaitSatisfied (c : Fin 1536) (e : Engine) (s : State) : Answer :=
  match e with
  | .seq =>
    let k := s.core c.val
    match k.seq with
    | .waitHdr q =>
      if k.waitOk q then .next (runSeq c.val q (s.setCore c.val { (k.takeWait q) with seq := .running })) else .next s
    | _ => .next s
  | _ => .next (s.turn c.val e)

/-- A WAITM at its queue's head reads its word again (R214). -/
def execWaitmReread (c : Fin 1536) (e : Engine) (s : State) : Answer :=
  match ((s.core c.val).queue e).head? with
  | some q => if q.op = 0x19 then .next (s.turn c.val e) else .next s
  | none => .next s

/-- A pass of a running MMUL ends (R203, R205). -/
def execMmulPassEnd (c : Fin 1536) (run : Nat) (parity : Option (Fin 16)) (s : State) : Answer :=
  .next ((s.mmulPassEnd c.val run parity).turn c.val .matrix)

/-- The oldest finished block enters the tile queue (R163); its reader goes on. -/
def execTileQueueWrite (c : Fin 1536) (residue : Bool) (s : State) : Answer :=
  .next (((s.tileQueueWrite c.val residue).gatePump 32 c.val).turn c.val .vector)

/-- MMUL completes (R205). -/
def execMmulComplete (c : Fin 1536) (run : Nat) (s : State) : Answer :=
  .next ((s.mmulComplete c.val run).turn c.val .matrix)

/-- GRUN completes (R209). -/
def execGrunComplete (c : Fin 1536) (s : State) : Answer := .next ((s.grunComplete c.val).turn c.val .gate)

/-- DMOV completes (R211). -/
def execDmovComplete (c : Fin 1536) (slot : Fin 16) (s : State) : Answer :=
  .next ((s.dmovComplete c.val slot).turn c.val .dma)

/-! ### Pre-emption (R76, R219 to R222) -/

/-- A pre-emption request reaches an Umber context. -/
def execPreemptRequest (ctx : BitVec 16) (s : State) : Answer :=
  match s.ctx? ctx.toNat with
  | some x =>
    if x.umber && x.state = .running && x.preempt.isNone then
      .next ((s.setCtx ctx.toNat { x with preempt := some s.now }).trySave ctx.toNat)
    else .next s
  | none => .next s

/-- What a parked core waits for has come: its transfers are complete, its word compares (R76). -/
def State.remoteDone (s : State) (p : Nat) (v : SavedCore) : Bool :=
  v.remote.isEmpty &&
    (match v.again with
     | some (_, q) =>
       if isRmt q then
         match s.waitmRead p q with
         | .word w => wmHolds q w
         | _ => true
       else true
     | none => true)

/-- A saved core goes on: registers, live set, generator, and the waiting instruction again (R114, R220, R221). -/
def State.resumeCore (s : State) (id : Nat) (x : Context) (core : Nat) (v : SavedCore) : State :=
  let s := v.live.foldl (fun t (e : Nat × Bytes) => t.writeRaw (coreWin core + e.1) e.2) s
  let s := s.modCore core (fun c =>
    let c := (c.stop .running)
    { c with pc := v.pc, x := v.x, f := v.f, v := v.v, m := v.m, gen := lfsrSeed x.seed x.step core,
             ctx := some (BitVec.ofNat 16 id), photAtPass := c.phot, watchdog := false })
  match v.again with
  | some (e, q) =>
    s.modCore core (fun c => { c.setQueue e [{ q with since := s.now }] with seq := .barrier q })
  | none => s

/-- A parked context is resumed: it continues if its remote operation has completed and stays parked if not. A saved one
continues (R76). Its cores serve nothing else. -/
def execParkedResume (ctx : BitVec 16) (s : State) : Answer :=
  match s.ctx? ctx.toNat with
  | some x =>
    let free := x.savedCores.all (fun (v : Nat × SavedCore) => (s.core v.1).ctx.isNone && !s.spares.lost.contains v.1)
    let done := x.savedCores.all (fun (v : Nat × SavedCore) => s.remoteDone x.part.val v.2)
    if free && (x.state = .saved || (x.state = .parked && done)) then
      let s := s.setCtx ctx.toNat { x with state := .running, savedCores := [] }
      let s := x.savedCores.foldl (fun t (v : Nat × SavedCore) => t.resumeCore ctx.toNat x v.1 v.2) s
      .next (x.savedCores.foldl (fun t (v : Nat × SavedCore) =>
        match v.2.again with
        | some (e, _) => t.turn v.1 e
        | none => t) s)
    else .next s
  | none => .next s

/-- A request not served within 40,000 core cycles is reported once with the context and PC (R222, R39). -/
def execLatePointTimeout (ctx : BitVec 16) (s : State) : Answer :=
  match s.ctx? ctx.toNat with
  | some x =>
    match x.preempt, x.cores.find? (fun c => (s.core c).ctx == some ctx) with
    | some t, some c =>
      let k := s.core c
      if !x.lateRaised && t.toNat + 40000 * 1000 / max 1 k.effectiveMhz ≤ s.time then
        .next ((s.setCtx ctx.toNat { x with lateRaised := true }).raisePart 0x8C03 x.part.val
          (pack [b2 ctx.toNat, b2 c, b2 k.pc.toNat]))
      else .next s
    | _, _ => .next s
  | none => .next s

/-! ### Timeouts (R166, R216) -/

/-- A remote transfer, or a WAITM on another device's word, passes the remote timeout (R216). -/
def execRemoteTimeout (c : Fin 1536) (what : RemoteWait) (s : State) : Answer :=
  let k := s.core c.val
  let ns := fun (p : Nat) => ((s.part? p).map Partition.remoteNs).getD 0
  let late := fun (p : Nat) (t : W64) => t.toNat + ns p ≤ s.time
  let saved := s.ctxs.filter (fun x => (tabGet? x.2.savedCores c.val).isSome)
  match what with
  | .transfer slot =>
    let hit := fun (p : Nat) (l : List DmaXfer) => l.find? (fun t => t.slot == slot && t.remote && !t.arrived && late p t.issued)
    match s.passOf c.val, s.ctxOf c.val with
    | some (p, _), some id =>
      match hit p k.dma with
      | some t => .next (s.contextFault id 2 c.val t.q.pc.toNat (opTagOf t.q.w).toNat)
      | none => .next (saved.foldl (fun u x => match hit x.2.part.val (((tabGet? x.2.savedCores c.val).map (·.remote)).getD []) with
          | some t => u.contextFault x.1 2 c.val t.q.pc.toNat (opTagOf t.q.w).toNat
          | none => u) s)
    | _, _ => .next (saved.foldl (fun u x => match hit x.2.part.val (((tabGet? x.2.savedCores c.val).map (·.remote)).getD []) with
        | some t => u.contextFault x.1 2 c.val t.q.pc.toNat (opTagOf t.q.w).toNat
        | none => u) s)
  | .waitm e =>
    let waits := fun (p : Nat) (q : QEntry) => isRmt q && late p q.since &&
      (match s.waitmRead p q with
       | .word v => !wmHolds q v
       | _ => true)
    match s.passOf c.val, (k.queue e).head? with
    | some (p, _), some q => if waits p q then .next (s.opFault c.val 2 q) else .next s
    | _, _ => .next (saved.foldl (fun u x =>
        match (tabGet? x.2.savedCores c.val).bind (·.again) with
        | some (g, q) => if g = e && waits x.2.part.val q then u.contextFault x.1 2 c.val q.pc.toNat (opTagOf q.w).toNat else u
        | none => u) s)

/-- `n` core cycles have passed since a hub cycle. -/
def State.waited (s : State) (k : Core) (n since : Nat) : Bool := decide (since + k.cycles n ≤ s.time)

/-- The later of the start of an instruction's wait and the last increment of its flag (R216). -/
def Core.waitFrom (k : Core) (q : QEntry) : Nat :=
  max q.since.toNat (if wcnt q.w = 0 then 0 else (tabGet k.flagAt 0 (wflag q.w)).toNat)

/-- A wait on local work has passed 2^22 core cycles with no increment of its flag (R216). That the word of a WAITM has not
changed meanwhile is the event's own word (log 2). -/
def execLocalWaitWatchdog (c : Fin 1536) (e : Engine) (s : State) : Answer :=
  let k := s.core c.val
  let long := fun (q : QEntry) => s.waited k (2 ^ 22) (k.waitFrom q)
  match e with
  | .seq =>
    match k.seq with
    | .waitHdr q => if k.waitOk q || s.remoteWait c.val q || !long q then .next s else .next (s.opFault c.val 6 q)
    | .barrier q =>
      if (q.op = 0x1A || q.op = 0x01) && !k.quiet && k.dma.all (fun t => !t.remote) && long q then .next (s.opFault c.val 6 q)
      else .next s
    | _ => .next s
  | _ =>
    match (k.queue e).head?, s.passOf c.val with
    | some q, some (p, _) =>
      let word := q.op == 0x19 && wcnt q.w == 0 && (match s.waitmRead p q with
        | .word v => !wmHolds q v
        | _ => false)
      if ((wcnt q.w != 0 && !k.waitOk q) || word) && !s.remoteWait c.val q && long q then .next (s.opFault c.val 6 q) else .next s
    | _, _ => .next s

/-- A queue read has waited 2^20 core cycles while neither the tile queue nor the matrix queue held anything for it: entries
leave only to their reader, so the wait counts from the last instruction with that DEST (R166). -/
def execQueueReadWatchdog (c : Fin 1536) (e : Engine) (s : State) : Answer :=
  let k := s.core c.val
  let none' := fun (gate : Bool) => k.occ gate == 0
    && k.qM.all (fun q => !(q.op == 0x20 && (fld q.w 29 1 == 1) == gate))
    && k.runs.all (fun r => (fld r.q.w 29 1 == 1) != gate) && k.finished.all (fun f => f.entry.gate != gate)
  let stop := fun (q : QEntry) => Host.Outcome.next ((s.setCore c.val { k with watchdog := true }).opFault c.val 6 q)
  match e with
  | .vector =>
    match k.qV.head? with
    | some q => if q.op = 0x40 && k.waitOk q && none' false && s.waited k (2 ^ 20) (max q.since.toNat k.fedV.toNat) then stop q else .next s
    | none => .next s
  | .gate =>
    match k.gate with
    | some g => if g.left ≠ 0 && none' true && s.waited k (2 ^ 20) (max g.since.toNat k.fedG.toNat) then stop g.q else .next s
    | none => .next s
  | _ => .next s

end Sys2Proof.Machine
end

