-- ==== Sys2Proof/Machine/Reset.lean ====
section
/-! DEFINITION. Device resets, loss of power, FAULTED, and what a flash write does
(R410, R432, R434, R440, R447, R499, R505, R515, R520, R523, R524, R527). -/

namespace Sys2Proof.Machine

/-! ### Flash -/

/-- A slot number as a letter's index. -/
def Flash.fw (f : Flash) (b : Bool) : FwSlot := if b then f.fwB else f.fwA
def Flash.setFw (f : Flash) (b : Bool) (x : FwSlot) : Flash := if b then { f with fwB := x } else { f with fwA := x }

/-- The boot record the ROM takes: the valid copy with the higher generation (R499). -/
def Flash.bootRec (f : Flash) : BootCopy :=
  if f.boot1.valid && (!f.boot0.valid || f.boot0.gen < f.boot1.gen) then f.boot1 else f.boot0

/-- A change of the boot record goes to the older copy (R499). -/
def Flash.setBoot (f : Flash) (active : Bool) (trial : Option Bool) : Flash :=
  let r : BootCopy := ⟨f.bootRec.gen + 1, active, trial, true⟩
  if f.boot1.valid && (!f.boot0.valid || f.boot0.gen < f.boot1.gen) then { f with boot0 := r } else { f with boot1 := r }

/-- The older copy of the boot record is torn. -/
def Flash.tearBoot (f : Flash) : Flash :=
  if f.boot1.valid && (!f.boot0.valid || f.boot0.gen < f.boot1.gen) then { f with boot0 := { f.boot0 with valid := false } }
  else { f with boot1 := { f.boot1 with valid := false } }

/-- A configuration slot set. -/
def Flash.setCfg (f : Flash) (k : Fin 8) (c : CfgSlot) : Flash := { f with cfg := f.cfg.set k c }

/-- A free configuration slot. -/
def CfgSlot.empty : CfgSlot := ⟨.free, 0, []⟩

/-- Every configuration slot that is STAGED becomes FREE (R434). -/
def Flash.unstage (f : Flash) : Flash := { f with cfg := f.cfg.map (fun c => if c.state == .staged then CfgSlot.empty else c) }

/-- A record is written to the journal (R440). -/
def Flash.journalWrite (f : Flash) (r : JournalRec) : Flash :=
  { f with journal := f.journal ++ [r], journalCnt := min (f.journalCnt + 1) (2 ^ 29 - 1) }

/-- What a completed flash write leaves in flash, wear records apart. -/
def Flash.perform (f : Flash) (o : FlashOp) : Flash :=
  match o with
  | .cfgStage _ k v image => f.unstage.setCfg k ⟨.staged, v, image⟩
  | .cfgFree _ k => f.setCfg k CfgSlot.empty
  | .journal r => f.journalWrite r
  | .fwSegment _ b off data total _ => f.setFw b ⟨.receiving, (f.fw b).bytes.take off ++ data, total⟩
  | .boot _ active trial => f.setBoot active trial
  | .fwEmpty b => f.setFw b ⟨.empty, [], 0⟩
  | .wear _ => f

/-- A completed flash write. -/
def State.flashDone (s : State) (o : FlashOp) : State :=
  match o with
  | .wear r => s.wearStore r
  | o => { s with flash := s.flash.perform o }

/-- A firmware update under way leaves its slot EMPTY (R505). -/
def Flash.dropUpdate (f : Flash) : Flash :=
  let clear := fun (x : FwSlot) => if x.state == .receiving then (⟨.empty, [], 0⟩ : FwSlot) else x
  { f with fwA := clear f.fwA, fwB := clear f.fwB }

/-- Flash writes under way at a reset: the first is found written or not as chance has it, a boot record may be torn; the
others never begin (R440, R455, R499, R513). -/
def State.cutFlash (s : State) : State :=
  match s.flash.ops with
  | [] => { s with flash := { s.flash.dropUpdate with staging := none } }
  | o :: _ =>
    let (k, s) := s.free
    let s := if k % 2 = 1 then s.flashDone o
      else match o with
        | .boot _ _ _ => { s with flash := s.flash.tearBoot }
        | _ => s
    { s with flash := { s.flash.dropUpdate with ops := [], staging := none } }

/-- At a power failure the write under way completes and no new one starts (R515). -/
def State.holdFlash (s : State) : State :=
  let s := match s.flash.ops with
    | [] => s
    | o :: _ => s.flashDone o
  { s with flash := { s.flash.dropUpdate with ops := [], staging := none } }

/-! ### Supervisors (R410) -/

/-- Roles among the working supervisors, lowest numbers first. -/
def Sups.choose (u : Sups) (cold : Bool) : Sups :=
  let w := (List.range 4).filter (fun n => u.working.getLsbD n)
  { primary := Fin.ofNat 4 (w.getD 0 0), standby := Fin.ofNat 4 (w.getD 1 1), standbyValid := 2 ≤ w.length,
    working := u.working, takeovers := if cold then 0 else u.takeovers, loading := none, retireMbx := none }

/-! ### The reset itself (R524) -/

/-- An island after a reset in hub cycle `now`: a warm one keeps what R43 keeps, any one the ageing monitor's samples. -/
def Island.afterReset (i : Island) (cold : Bool) (now : W64) : Island :=
  if cold then { Island.cold with slowdown := i.slowdown, stretchFrom := now }
  else { Island.cold with slowdown := i.slowdown, retirePending := i.retirePending, stretchFrom := i.stretchFrom,
                          effectiveMhz := i.effectiveMhz, targetMhz := i.targetMhz }

/-- A core after a reset: a warm one keeps what R43 and R188 keep. -/
def Core.afterReset (c : Core) (cold : Bool) (now : W64) : Core :=
  let k := Core.cold.onIsland (c.island.afterReset cold now)
  if cold then k else { k with parityCnt := c.parityCnt, residueCnt := c.residueCnt, lastTile := c.lastTile }

/-- DRAM cells stay, SRAM is zero (R316). -/
def dramCells (m : List Host.Cell) : List Host.Cell := m.filter (fun c => c.1 < clusterBase)

/-- A port after a reset: the recorded lane code is kept (R381). -/
def Port.afterReset (p : Port) : Port := { Port.cold with recorded := p.recorded }

/-- A new EPOCH, different from the old one (R386). -/
def State.newEpoch (s : State) (old : BitVec 24) : BitVec 24 × State :=
  let (k, s) := s.free
  let e := BitVec.ofNat 24 k
  (if e = old then old + 1 else e, s)

/-- Memory health through a reset: counts are kept by a warm one, repairs by both (R334 to R338, R491, R492). -/
def MemHealth.afterReset (h : MemHealth) (cold : Bool) : MemHealth :=
  if cold then { State.reset.health with rowErrs := h.rowErrs, lpFails := h.lpFails, pcErrs := h.pcErrs }
  else { h with scrubCtl := scrubReset }

/-- Power state through a reset (R532); the sensors' last readings are not part of it. -/
def Power.afterReset (p : Power) (cold : Bool) : Power :=
  let z := State.reset.pwr
  if cold then z else { z with inputMv := p.inputMv, powerW := p.powerW, hubTemp := p.hubTemp, coolant := p.coolant,
                               fabricTemp := p.fabricTemp, hottest := p.hottest, coreTemp := p.coreTemp,
                               refresh2 := p.refresh2, mean1ms := p.mean1ms }

/-- A cluster through a reset: failed banks and spare rows are kept (R339). -/
def ClusterState.afterReset (c : ClusterState) : ClusterState :=
  { ClusterState.cold with failedBanks := c.failedBanks, sparesUsed := c.sparesUsed, spareLow := c.spareLow }

/-- A reset stops the tests; positions that rolling tests held are spares again (R489). -/
def State.freeRolled (s : State) : SpareMap :=
  (s.tests.foldl (fun t v => v.rolled.foldl (fun u r => u.returnRolled r.1 r.2) t) s).spares

/-- The device after a cold or warm reset (R524): ROM_BOOT with every partition, image, queue pair, ring, stream and context
gone; no EPOCH of theirs comes again at once (R386). Flash, fuses, repairs, DRAM contents, the time with input power and the cycle counter stay. -/
def State.deviceReset (s0 : State) (cold : Bool) (source : Nat) : State :=
  let (e1, s) := s0.newEpoch s0.mbxEpoch
  let (e2, s) := s.newEpoch s.mirrorEpoch
  { State.reset with
    pending := s.pending
    freeCtr := s.freeCtr
    wire := s.wire
    now := s.now
    mem := dramCells s.mem
    badSpans := s.badSpans.filter (fun k => 256 * k < clusterBase)
    lostPcs := s.lostPcs
    dev := { State.reset.dev with deviceNo := s.dev.deviceNoNext.getD s.dev.deviceNo, reachedReady := !cold && s.dev.reachedReady,
                                  resetKind := if cold then 0 else 1, resetSource := BitVec.ofNat 4 source,
                                  powerNs := s.dev.powerNs, tripRecord := s.dev.tripRecord }
    sup := s.sup.choose cold
    sec := { State.reset.sec with counter := s.sec.counter, rootKey := s.sec.rootKey, uds := s.sec.uds }
    pwr := s.pwr.afterReset cold
    flash := { s.flash with wearFull := false }
    mbxEpoch := e1
    mirrorEpoch := e2
    lastEpochs := s.parts.foldl (fun t (p : Nat × Partition) => tabPut t p.1 p.2.epoch) s.lastEpochs
    cores := s.cores.map (fun (c : Nat × Core) => (c.1, c.2.afterReset cold s.now))
    idleIslands := s.idleIslands.map (fun (i : Nat × Island) => (i.1, i.2.afterReset cold s.now))
    spares := s.freeRolled
    clusters := s.clusters.map (fun (c : Nat × ClusterState) => (c.1, c.2.afterReset))
    quads := s.quads
    health := s.health.afterReset cold
    ports := s.ports.map (fun (p : Nat × Port) => (p.1, p.2.afterReset)) }

/-- A reset of a running device: flash writes are cut, then the reset acts. A warm request before the first READY acts as a
cold one (R523). -/
def State.resetNow (s : State) (cold : Bool) (source : Nat) : State :=
  s.cutFlash.deviceReset (cold || !s.dev.reachedReady) source

/-- The device is OFF: every content but flash, fuses and what the wear history carries is lost (R515, R520). -/
def State.powerOff (s : State) : State :=
  let t := s.holdFlash.deviceReset true 0
  { t with mem := [], badSpans := [], lostPcs := [], dev := { t.dev with mode := .off, pwrGood := false } }

/-! ### FAULTED (R432) -/

/-- Every context stops, no step goes on, the state and its cause are set. -/
def State.enterFaulted (s : State) (cause : Nat) : State :=
  let s := s.ctxs.foldl (fun (t : State) (x : Nat × Context) => t.stopContext x.1 x.2 .idle) s
  let s := { s with ctxs := [], dev := { s.dev with faultCause := cause, faultN := false } }
  s.setMode .faulted

end Sys2Proof.Machine
end

