-- ==== Sys2Proof/Machine/Power.lean ====
section
/-! DEFINITION. Power, clocks, temperature, reference clocks and the reset pins: ISLAND_CLOCK_SETTLE and POWER_START to
SERDES_REFERENCE_RETURN (R35 to R43, R514 to R523, R534; log 18, 29). -/

namespace Sys2Proof.Machine

/-! ### Core clocks (R38, R516, R519) -/

/-- The change completes. -/
def execIslandClockSettle (c : Fin 1536) (s : State) : Answer :=
  if (s.core c.val).settling.isSome then .next (s.modCore c.val (fun k => { k with settling := none }.reclock)) else .next s

/-- All logical cores. -/
def allCores : List Nat := List.range Config.numCores

/-- The slowest clock of a partition's cores. -/
def State.partClock (s : State) (q : Partition) : Nat := (listMin? (q.cores.map (fun c => (s.core c).clockMhz))).getD 800

/-- Partitions whose floor was met in `old` and is no longer met are reported (R41, R516). -/
def State.reportFloors (s old : State) (cause : Nat) : State :=
  s.parts.foldl (fun (t : State) (p : Nat × Partition) =>
    let f := secF p.2.sect
    let now := s.partClock p.2
    let t := if cause = 0 && now < old.partClock p.2 then
        t.modPart p.1 (fun q => { q with seeing := q.seeing.map (fun g => { g with throttled := true }) })
      else t
    if now < f && f ≤ old.partClock p.2 then t.raisePart 0x8B02 p.1 (pack [b2 f, b2 now, b1 cause]) else t) s

/-! ### Lowering under R40 -/

/-- The order of R40: islands without Vermilion, those that run Umber work, the others. -/
def State.capRank (s : State) (c : Nat) : Nat :=
  if !s.guarded c then 0
  else if (((s.ctxOf c).bind s.ctx?).map (·.umber)).getD false then 1 else 2

/-- Lortus lowers the first islands in the order of R40 that may still be lowered, by a free amount; `none` when none may. An
island whose floor cuts what a power cap wanted shows FLOOR_HELD (R43). -/
def State.lowerClocks (s : State) (byCap : Bool) : Option State :=
  let can := allCores.filter (fun c => s.clockFloor c < (s.core c).targetMhz)
  match listMin? (can.map s.capRank) with
  | none => none
  | some r =>
    let (k, t) := s.free
    some ((can.filter (fun c => s.capRank c == r)).foldl (fun u c =>
      u.modCore c (fun x =>
        let want := x.targetMhz - (1 + k % 600)
        { x.request (max (s.clockFloor c) want) with floorHeld := x.floorHeld || (byCap && s.guarded c && want < s.clockFloor c) })) t)

/-- The seeing reports of partitions with a core held at its floor note it (R86). -/
def State.noteFloors (s : State) : State :=
  { s with parts := s.parts.map (fun (p : Nat × Partition) =>
      if p.2.cores.any (fun c => (s.core c).floorHeld) then
        (p.1, { p.2 with seeing := p.2.seeing.map (fun g => { g with floorHeld := true }) })
      else p) }

/-- Partitions with Vermilion streams admit no new ones, or do again. -/
def State.setNoAdmit (s : State) (on : Bool) : State :=
  { s with parts := s.parts.map (fun (p : Nat × Partition) => (p.1, { p.2 with noAdmit := on && s.countClass p.1 0 > 0 })) }

/-- Lortus compares the cap with the 10 ms mean (R40, R517). -/
def execPowerCapCheck (s : State) : Answer :=
  let w := s.pwr
  if s.dev.mode.code < 3 then .next s
  else if w.capW = 0 || w.powerW.toNat ≤ w.capW.toNat then
    let s := ({ s with pwr := { w with capMiss := false } }).setNoAdmit false
    let s := { s with cores := s.cores.map (fun (c : Nat × Core) => (c.1, { c.2 with floorHeld := false })) }
    if w.capW = 0 && w.lortusHot.isEmpty then
      let (k, t) := s.free
      let raise' := fun (c : Nat × Core) =>
        if c.2.targetMhz < 800 && !c.2.retirePending then (c.1, c.2.request (c.2.targetMhz + k % (801 - c.2.targetMhz))) else c
      .next { t with cores := t.cores.map raise' }
    else .next s
  else match s.lowerClocks true with
    | some t => .next t.noteFloors
    | none =>
      let held := allCores.filter s.guarded
      let s := held.foldl (fun t c => t.modCore c (fun x => { x with floorHeld := true })) s
      let s := s.noteFloors.setNoAdmit true
      if w.capMiss then .next s
      else .next (({ s with pwr := { s.pwr with capMiss := true } }).raiseDev 0x8B01 (pack [b2 w.capW.toNat, b2 w.powerW.toNat]))

/-! ### Power measurement and the limiter (R516) -/

/-- A number clamped to a field. -/
def clampTo (n v : Nat) : Nat := min v (2 ^ n - 1)

/-- The power stages' measurement: above 1,400 W over 1 ms the limiter acts until the mean falls below 1,350 W. -/
def execPowerMeasure (mean1ms mean10ms inputMv : Nat) (s : State) : Answer :=
  if s.dev.mode = .off then .next s
  else
    let w := s.pwr
    let lim := if mean1ms > 1400 then true else if mean1ms < 1350 then false else w.limiter
    .next { s with pwr := { w with inputMv := BitVec.ofNat 16 (clampTo 16 inputMv), powerW := BitVec.ofNat 12 (clampTo 12 mean10ms),
                                   mean1ms := mean1ms, limiter := lim } }

/-- Every 100 µs: 25 MHz down for every core island while the limiter acts, 1 MHz up towards its target afterwards. -/
def execLimiterStep (s : State) : Answer :=
  if s.dev.mode = .off then .next s
  else if s.pwr.limiter then
    let t := allCores.foldl (fun u c => u.modCore c (fun x => { x with limLimit := some (max 200 (x.clockMhz - 25)) }.reclock)) s
    .next (t.reportFloors s 1)
  else
    let up := fun (c : Nat × Core) =>
      match c.2.limLimit with
      | some l => (c.1, { c.2 with limLimit := if l + 1 ≥ c.2.targetMhz then none else some (l + 1) }.reclock)
      | none => c
    .next { s with cores := s.cores.map up }

/-! ### Temperatures (R519, R520) -/

/-- Islands of a sample with their temperatures, by the numbers of Power. -/
def sampleIslands (t : TempSample) : List (Nat × Int) :=
  t.cores ++ t.fabrics.zipIdx.map (fun x => (2000 + x.2, x.1)) ++ [(3000, t.hub)]

/-- The quadrant of an island, 0xFF for the hub. -/
def islandQuad (i : Nat) : Nat := if i < 2000 then i / 384 else if i < 3000 then i - 2000 else if i = 3000 then 0xFF else (i - 4000) / 3

/-- The islands and stacks that a sample leaves under a condition that begins at `hi` and ends at `lo`. -/
def hysteresis (old : List Nat) (now : List (Nat × Int)) (hi lo : Int) : List Nat :=
  (now.filter (fun x => x.2 ≥ hi || (old.contains x.1 && x.2 > lo))).map (·.1)
    ++ old.filter (fun i => now.all (fun x => x.1 != i))

/-- Every 10 µs temperatures are read; stages, refresh doubling or a trip follow. While a trip is latched the coolant is read (R520). -/
def execThermalSample (t : TempSample) (s : State) : Answer :=
  if s.dev.mode = .off then
    .next (if s.dev.tripLatched then { s with pwr := { s.pwr with coolant := t.coolant } } else s)
  else
    let w := s.pwr
    let isl := sampleIslands t
    let hbms := t.hbmStacks.zipIdx.map (fun x => (4000 + x.2, x.1))
    let hot110 := (w.hot110.filter (fun e => isl.all (fun x => x.1 != e.1 || x.2 ≥ 1100)))
    let hot110 := isl.foldl (fun (l : Tab W64) x => if x.2 ≥ 1100 && (tabGet? l x.1).isNone then tabPut l x.1 s.now else l) hot110
    let trip := isl.any (fun x => x.2 ≥ 1150) || hot110.any (fun e => e.2.toNat + 10000000 ≤ s.time)
    if trip then
      let o := s.powerOff
      .next { o with dev := { o.dev with thermtripN := false, tripLatched := true, tripRecord := true },
                     pwr := { o.pwr with coolant := t.coolant } }
    else
      let thr := hysteresis w.throttled isl 1050 1030
      let thr := thr.filter (· < 4000) ++ (hbms.filter (fun x => x.2 ≥ 950)).map (·.1)
      let warm := hysteresis w.lortusHot isl 950 930
      let stage : Nat := if !thr.isEmpty then 2 else if !warm.isEmpty then 1 else 0
      let s1 : State := { s with pwr := { w with
        coolant := t.coolant, hubTemp := t.hub, fabricTemp := t.fabrics,
        hottest := (isl.map (·.2)).foldl max ((isl.map (·.2)).headD 0),
        coreTemp := t.cores.foldl (fun l x => tabPut l x.1 x.2) w.coreTemp,
        refresh2 := (hbms.filter (fun x => x.2 ≥ 850)).map (·.1), hot110 := hot110,
        throttled := thr, lortusHot := warm, stage := BitVec.ofNat 2 stage } }
      let s2 := (isl ++ hbms).foldl (fun (u : State) x =>
        let u := if warm.contains x.1 && !w.lortusHot.contains x.1 then
            u.raiseDev 0x8B03 (pack [b1 1, b1 (islandQuad x.1), i2 x.2])
          else u
        if thr.contains x.1 && !w.throttled.contains x.1 then u.raiseDev 0x8B03 (pack [b1 2, b1 (islandQuad x.1), i2 x.2])
        else u) s1
      if warm.isEmpty || s.dev.mode.code < 3 then .next s2 else .next ((s2.lowerClocks false).getD s2)

/-- Hardware protection lowers a core: its own island, its quadrant's fabric or stacks, or the hub is too hot. -/
def State.coreHot (s : State) (c : Nat) : Bool :=
  s.pwr.throttled.any (fun i => i = c || i = 2000 + c / 384 || i = 3000 || (4000 ≤ i && (i - 4000) / 3 = c / 384))

/-- The islands that govern a core have cooled to 100 degC. -/
def State.coreCool (s : State) (c : Nat) : Bool :=
  tabGet s.pwr.coreTemp 0 c ≤ 1000 && s.pwr.fabricTemp.getD (c / 384) 0 ≤ 1000 && s.pwr.hubTemp ≤ 1000

/-- Every 50 µs: 50 MHz down while hot, down to 200 MHz; half a MHz up once cool, to the target (R519). -/
def execThermalThrottleStep (c : Fin 1536) (s : State) : Answer :=
  let k := s.core c.val
  if s.dev.mode = .off then .next s
  else if s.coreHot c.val then
    let cur := match k.thermHalf with
      | some h => min h (2 * k.clockMhz)
      | none => 2 * k.clockMhz
    let t := s.setCore c.val { k with thermHalf := some (max 400 (cur - 100)) }.reclock
    .next (t.reportFloors s 0)
  else match k.thermHalf with
    | some h =>
      if s.coreCool c.val then
        .next (s.setCore c.val { k with thermHalf := if h + 1 ≥ 2 * k.targetMhz then none else some (h + 1) }.reclock)
      else .next s
    | none => .next s

/-- RESET_N held for 100 ms with the coolant below 45 degC releases a latched trip: a cold reset (R520). -/
def execThermalTripRelease (s : State) : Answer :=
  if s.dev.mode = .off && s.dev.tripLatched && s.pwr.coolant < 450 then .next (s.deviceReset true 4) else .next s

/-! ### Input power and reset pins (R514, R515, R523) -/

/-- The input has stayed at 46 V or above for 10 ms: a cold reset. A latched trip holds the device OFF. -/
def execPowerStart (s : State) : Answer :=
  if s.dev.mode = .off && !s.dev.tripLatched then .next (s.deviceReset true 0) else .next s

/-- The input has stayed below 44 V for 50 µs: OFF; a latched trip is released (R515, R520). -/
def execPowerFail (s : State) : Answer :=
  if s.dev.mode = .off then .next { s with dev := { s.dev with tripLatched := false, thermtripN := true } }
  else .next s.powerOff

/-- RESET_N low for 10 µs. -/
def execResetNAssert (s : State) : Answer := if s.dev.mode = .off then .next s else .next (s.resetNow true 1)

/-- WARM_N low for 10 µs: a warm reset, or a cold one before the first READY. -/
def execWarmNAssert (s : State) : Answer := if s.dev.mode = .off then .next s else .next (s.resetNow false 3)

/-! ### Reference clocks (R522) -/

/-- The system reference has stopped for 10 µs. -/
def execSystemReferenceLost (s : State) : Answer :=
  if s.dev.mode = .off then .next s else .next { s with pwr := { s.pwr with refLost := true } }

/-- It returns. -/
def execSystemReferenceReturn (s : State) : Answer :=
  if s.dev.mode = .off then .next s else .next { s with pwr := { s.pwr with refLost := false } }

/-- A MAC goes down with its event (R379, R537). -/
def State.macDown (s : State) (m cause : Nat) : State :=
  let x := s.mac m
  if x.up then (s.setMac m { x with up := false }).raiseDev 0x8701 (pack [b1 m, b1 cause]) else s

/-- The SerDes reference stops: every MAC goes down. -/
def execSerdesReferenceLost (s : State) : Answer :=
  if s.dev.mode = .off then .next s
  else .next ((List.range 16).foldl (fun t m => t.macDown m 2) { s with pwr := { s.pwr with serdesLost := true } })

/-- It returns; the links train again and each MAC's LINK_UP follows. -/
def execSerdesReferenceReturn (s : State) : Answer :=
  if s.dev.mode = .off then .next s else .next { s with pwr := { s.pwr with serdesLost := false } }

end Sys2Proof.Machine
end

