-- ==== Sys2Proof/Machine/Device.lean ====
section
/-! DEFINITION. Doorbells, the device commands but DEV_EVT_RING, and supervisors: MAILBOX_DOORBELL to DEV_POWER_CAP, HEARTBEAT to
SPARE_SUPERVISOR_READY (R404, R410 to R412, R417 to R424, R431 to R433, R450, R517). -/

namespace Sys2Proof.Machine

/-- A doorbell by any of the ways of R417. -/
def execMailboxDoorbell (m : Fin 64) (s : State) : Answer := .next (s.ringDoorbell m)

/-- Part number of R404. -/
def partNo : Bytes := [0x49, 0x56, 0x58, 0x33, 0x2D, 0x41, 0x31, 0x32] ++ List.replicate 8 0x20

/-- The serial number padded with spaces to 16 bytes (R404). -/
def serialNo : Bytes := (Config.serial ++ List.replicate 16 0x20).take 16

/-- The version in force as DEV.STATE shows it. -/
def State.cfgVersion (s : State) : Nat := (s.currentCfg.map (fun c => c.version.toNat)).getD 0

/-- What R423 checks of DEV_INFO. -/
def specDevInfo : CmdSpec := .plain 0x101

/-- DEV_INFO. -/
def execDevInfo (m : Fin 64) (s : State) : Answer :=
  .next (s.runCmd m specDevInfo (fun _ t => t.ok m (pack [partNo, serialNo, b1 t.dev.mode.code, b1 t.sup.primary.val,
    b2 t.dev.deviceNo.toNat, b4 t.sec.fwVersion.toNat, b4 t.cfgVersion,
    (List.range 16).flatMap (fun k => b8 (Config.macAddr k).toNat)])))

/-- What R423 checks of DEV_STATE_SET. -/
def specDevStateSet : CmdSpec := CmdSpec.ctl 0x102 [1] (fun pg => if le pg 0x40 1 = 4 || le pg 0x40 1 = 6 then none else some 0x40)

/-- DEV_STATE_SET (R430). -/
def execDevStateSet (m : Fin 64) (s : State) : Answer :=
  .next (s.runCmd m specDevStateSet (fun pg t =>
    if !t.parts.isEmpty then t.fail m stState
    else (t.setMode (if le pg 0x40 1 = 4 then .ready else .maintenance)).ok m []))

/-- What R423 checks of DEV_RESET. -/
def specDevReset : CmdSpec := CmdSpec.ctl 0x103 [1] (fun pg => if le pg 0x40 1 ≤ 1 then none else some 0x40)

/-- DEV_RESET (R523): the response first, then the reset. -/
def execDevReset (m : Fin 64) (s : State) : Answer :=
  .next (s.runCmd m specDevReset (fun pg t => (t.ok m []).resetNow (le pg 0x40 1 == 0) 2))

/-- A power of two in a range. -/
def powTwoIn (n lo hi : Nat) : Bool := lo ≤ n && n ≤ hi && n == 2 ^ n.log2

/-- What R423 checks of DEV_MBX_BIND. -/
def specDevMbxBind : CmdSpec := CmdSpec.ctl 0x105 [1, 1] (fun pg =>
    if le pg 0x40 1 > 63 then some 0x40 else if le pg 0x41 1 ≤ 16 || le pg 0x41 1 = 31 then none else some 0x41)

/-- DEV_MBX_BIND (R421, R433). -/
def execDevMbxBind (m : Fin 64) (s : State) : Answer :=
  .next (s.runCmd m specDevMbxBind (fun pg t =>
    let n := le pg 0x40 1
    let o := BitVec.ofNat 5 (le pg 0x41 1)
    if t.qpBound n || (n ≠ m.val && (t.mail n).busy) then t.fail m stState
    else if n = m.val then (t.modMail n (fun x => { x with rebind := some o })).ok m []
    else (t.modMail n (fun x => { x with owner := o })).ok m []))

/-! ### Supervisors -/

/-- A working spare that no test holds begins to load Lortus, if there is one: any but the primary and a valid standby (R411).
A retirement for which no spare is left fails (R484). -/
def State.loadSpare (s : State) : State :=
  let can := (List.range 4).filter (fun n => s.sup.working.getLsbD n && n != s.sup.primary.val
    && !(s.sup.standbyValid && n == s.sup.standby.val))
  let under := fun (n : Nat) => s.tests.any (fun t => t.todo.any (fun u => u.toNat == unitId 0xA n 0))
  match can.filter (fun n => !under n) with
  | [] =>
    let t := { s with sup := { s.sup with loading := none } }
    match can, t.sup.retireMbx with
    | [], some m => ({ t with sup := { t.sup with retireMbx := none } }).fail m stNoResource
    | _, _ => t
  | c :: rest =>
    let (k, s) := s.free
    let n := ((c :: rest)[k % (rest.length + 1)]?).getD c
    { s with sup := { s.sup with loading := some (Fin.ofNat 4 n) } }

/-- The standby takes over (R411, R412): commands in flight carry FLAGS bit 0, the event names both, a spare loads. `gone`
says that the old primary no longer works. -/
def State.takeover (s : State) (cause : Nat) (gone : Bool) : State :=
  let u := s.sup
  let old := u.primary
  let w := if gone then u.working &&& ~~~ BitVec.ofNat 4 (2 ^ old.val) else u.working
  let s := { s with sup := { u with primary := u.standby, standbyValid := false, working := w, takeovers := satAdd u.takeovers 1,
                                    loading := none },
                    mbx := s.mbx.map (fun (x : Nat × Mailbox) => (x.1, { x.2 with takeover := x.2.takeover || x.2.busy })) }
  (s.loadSpare).raiseDev 0x8102 (pack [b1 old.val, b1 u.standby.val, b1 cause])

/-- The unit is part of a test that runs. -/
def State.underTest (s : State) (unit : Nat) : Bool := s.tests.any (fun t => t.todo.any (fun u => u.toNat == unit))

/-- Supervisors under test leave their roles one at a time, the standby first, once a spare that no test holds can follow (R484,
R487). -/
def State.rollSups (s : State) : State :=
  let u := s.sup
  let under := fun (n : Nat) => s.underTest (unitId 0xA n 0)
  let spare := (List.range 4).any (fun k => u.working.getLsbD k && k != u.primary.val && k != u.standby.val && !under k)
  if s.dev.mode = .maintenance || !u.standbyValid || u.loading.isSome || !spare then s
  else if under u.standby.val then { s with sup := { u with standbyValid := false } }.loadSpare
  else if under u.primary.val then s.takeover 2 false
  else s

/-- What R423 checks of DEV_SUP_SWAP. -/
def specDevSupSwap : CmdSpec := .plain 0x106

/-- DEV_SUP_SWAP (R411, R433). -/
def execDevSupSwap (m : Fin 64) (s : State) : Answer :=
  .next (s.runCmd m specDevSupSwap (fun _ t =>
    if !t.sup.standbyValid then t.fail m stBusy
    else
      let t := t.takeover 1 false
      t.ok m (b1 t.sup.primary.val)))

/-- The primary sends the standby a heartbeat (R411). -/
def execHeartbeat (s : State) : Answer :=
  if s.dev.mode.code ≥ 3 && s.sup.standbyValid then .next (s.emit (.heartbeat s.sup.primary s.sup.standby)) else .next s

/-- The unit identifier of a supervisor (R481). -/
def supUnit (n : Nat) : Nat := unitId 0xA n 0

/-- The primary has failed: takeover and the fault's record, or FAULTED without a standby (R411, R432, R467, R473). -/
def State.primaryFails (s : State) : State :=
  if s.sup.standbyValid then
    let f : FaultReport := ⟨10, BitVec.ofNat 64 (supUnit s.sup.primary.val), 0, .nothing, true⟩
    (s.takeover 0 true).recoveredNow none f 0 0xFFFF
  else
    let w := s.sup.working &&& ~~~ BitVec.ofNat 4 (2 ^ s.sup.primary.val)
    ({ s with sup := { s.sup with working := w } }).enterFaulted 4

/-- Three missing heartbeats in a row, or the primary's own report (R411). -/
def execHeartbeatMiss (_ownFault : Bool) (s : State) : Answer :=
  if 3 ≤ s.dev.mode.code && s.dev.mode.code ≤ 6 then .next s.primaryFails else .next s

/-- The spare that loaded Lortus becomes standby; a retirement that waited for it is answered (R411, R484). -/
def execSpareSupervisorReady (n : Fin 4) (s : State) : Answer :=
  if s.sup.loading = some n then
    let w := s.sup.retireMbx
    let s := { s with sup := { s.sup with standby := n, standbyValid := true, loading := none, retireMbx := none } }
    match w with
    | some m => .next (s.ok m []).rollSups
    | none => .next s.rollSups
  else .next s

/-! ### Health -/

/-- A bitmap of numbers. -/
def bitmap (l : List Nat) : Nat := l.foldl (fun a n => a ||| 2 ^ n) 0

/-- MACs down after a lane failure (R381, R404). -/
def State.failedMacs (s : State) : Nat := bitmap ((List.range 16).filter (fun k => (s.mac k).laneDown))

/-- Quadrants degraded (R328, R467). -/
def State.degradedQuads (s : State) : Nat :=
  bitmap ((List.range 4).filter (fun q => (s.quad q).remapState == 3 || (s.quad q).ringDown))

/-- Clusters whose last spare core is engaged (R27). -/
def State.spareLowClusters (s : State) : List Nat := (List.range 48).filter (fun c => (s.cluster c).spareLow)

/-- Cores marked retire-pending (R42). -/
def State.retiring (s : State) : List Nat := (s.cores.filter (fun c => c.2.retirePending)).map (·.1)

/-- What R423 checks of DEV_HEALTH. -/
def specDevHealth : CmdSpec := .plain 0x107

/-- DEV_HEALTH. -/
def execDevHealth (m : Fin 64) (s : State) : Answer :=
  .next (s.runCmd m specDevHealth (fun _ t => t.ok m (pack [b2 t.spares.lost.length, b2 t.failedMacs, b1 t.degradedQuads,
    b1 t.sup.working.toNat, b8 (bitmap t.spareLowClusters), b8 (bitmap (t.retiring.map (· / 32)))])))

/-- What R423 checks of DEV_POWER_CAP. -/
def specDevPowerCap : CmdSpec := CmdSpec.ctl 0x108 [2] (fun pg =>
    let w := le pg 0x40 2
    if w = 0 || (400 ≤ w && w ≤ 1400) then none else some 0x40)

/-- DEV_POWER_CAP (R517). -/
def execDevPowerCap (m : Fin 64) (s : State) : Answer :=
  .next (s.runCmd m specDevPowerCap (fun pg t => ({ t with pwr := { t.pwr with capW := BitVec.ofNat 12 (le pg 0x40 2) } }).ok m []))

end Sys2Proof.Machine
end

