-- ==== Sys2Proof/Machine/AudioCmds.lean ====
section
/-! DEFINITION. The audio port commands: AUD_GROUP_CONFIG to AUD_BYPASS_SET, and a group's section of a configuration version
(R343 to R345, R351, R359, R363 to R371, R435, R437; log 31). -/

namespace Sys2Proof.Machine

/-! ### Events (R370, R537) -/

/-- The partition whose share holds a port, 0xFF for none. -/
def State.portOwner (s : State) (n : Nat) : Nat := ((s.parts.find? (fun p => p.2.audPorts.getLsbD n)).map (·.1)).getD 0xFF

/-- The partition whose share holds every member of a group, 0xFF for none. -/
def State.groupOwner (s : State) (g : Nat) : Nat :=
  let l := s.members g
  ((s.parts.find? (fun p => !l.isEmpty && l.all (fun n => p.2.audPorts.getLsbD n))).map (·.1)).getD 0xFF

/-- An event that a group raises. -/
def State.groupEvent (s : State) (g code : Nat) (fields : List Bytes) : State :=
  s.raise code (s.groupOwner g) 0 0 (pack ([b1 0xFF, b1 g, b2 0, b8 (s.group g).frame.toNat] ++ fields))

/-- An event of a port, at most once per second for each code; the next one carries the count of those left out. A slot's
event names its stream. -/
def State.portEvent (s : State) (n code : Nat) (stream : Option (Fin 16384)) (fields : List Bytes) : State :=
  let p := s.aport n
  let g := p.groupNo
  let last := tabGet? p.events code
  let held := match last with
    | some (t, k) => if s.time < t + 1000000000 then some (t, k + 1) else none
    | none => none
  match held with
  | some e => s.setAport n { p with events := tabPut p.events code e }
  | none =>
    let sup := min ((last.map (·.2)).getD 0) 0xFFFF
    let s := s.setAport n { p with events := tabPut p.events code (s.time, 0) }
    let x := stream.map (fun i => s.stream i.val)
    let part := match x with
      | some y => y.part.val
      | none => s.portOwner n
    s.raise code part ((x.map (·.hostTag.toNat)).getD 0) ((x.map (·.handle.toNat)).getD 0)
      (pack ([b1 n, b1 g, b2 sup, b8 (s.group g).frame.toNat] ++ fields))

/-! ### Configuration of a group -/

/-- Sizes of AUD_GROUP_CONFIG's parameters from MEMBERS on. -/
def groupSizes : List Nat := [2, 8, 2, 8, 128]

/-- The parameters of a group's configuration, from a page's parameters or a section (log 31). -/
structure GroupConf where
  members : Nat
  ctl : Nat
  mask : Nat
  helio : Nat
  portCtl : Bytes

/-- From a command page, where GROUP stands first. -/
def GroupConf.ofPage (pg : Bytes) : GroupConf :=
  let z := 1 :: groupSizes
  ⟨par z pg 1, par z pg 2, par z pg 3, par z pg 4, parB z pg 5⟩

/-- From a section, whose fields start at offset 0 under R415. -/
def GroupConf.ofSection (b : Bytes) : GroupConf := ⟨le b 0 2, le b 8 8, le b 0x10 2, le b 0x18 8, slice b 0x20 128⟩

/-- The image of a member port's CTL. -/
def GroupConf.port (c : GroupConf) (n : Nat) : Nat := le c.portCtl (8 * n) 8

/-- The member ports. -/
def GroupConf.ports (c : GroupConf) : List Nat := (List.range 16).filter (fun n => bit c.members n)

/-- A CTL word of a group is in range (R374). -/
def ctlOk (v : Nat) : Bool :=
  bits v 32 6 == 0 && bits v 0 14 == 0 && 8000 ≤ bits v 46 18 && bits v 46 18 ≤ 192000 && bits v 43 2 != 3
    && !(bit v 42 && bits v 43 2 != 0) && 5 ≤ bits v 14 10 && bits v 14 10 ≤ 500

/-- A HELIO word is in range (R377). -/
def helioOk (v : Nat) : Bool := 8 ≤ bits v 0 5 && bits v 0 5 ≤ 16 && 64 ≤ bits v 29 13 && bits v 29 13 ≤ 4000

/-- The slots of the positions that hold members. -/
def GroupConf.slotMask (c : GroupConf) : Nat := bitmap (c.ports.flatMap (fun n => [2 * bits (c.port n) 57 3, 2 * bits (c.port n) 57 3 + 1]))

/-- The first faulty field, by its index from MEMBERS on (R344, R345, R372, R374, R377); port images count from 4. -/
def GroupConf.fault (c : GroupConf) (g : Nat) : Option (Nat × Nat) :=
  let pos := c.ports.map (fun n => bits (c.port n) 57 3)
  if c.ports.isEmpty || c.ports.length > 8 then some (0, 0)
  else if !ctlOk c.ctl || !pos.contains (bits c.ctl 39 3) then some (1, 0)
  else if c.mask &&& c.slotMask ≠ c.mask then some (2, 0)
  else if !helioOk c.helio then some (3, 0)
  else (c.ports.findSome? (fun n =>
    let v := c.port n
    let again := c.ports.any (fun k => k < n && bits (c.port k) 57 3 == bits v 57 3)
    if bits v 0 48 ≠ 0 || bits v 60 4 ≠ g || bits v 48 8 = 0 || again then some (4, 8 * n) else none))

/-- A port left out of its group returns to its own group at position 0, where that is possible (R344; log 31). -/
def State.leftOutFault (s : State) (c : GroupConf) (g : Nat) : Bool :=
  (s.members g).any (fun n => !bit c.members n &&
    (n == g || (List.range 16).any (fun k => k != n && !bit c.members k && (s.aport k).groupNo == n && (s.aport k).member == 0)))

/-- Ports whose group the configuration changes. -/
def State.touched (s : State) (c : GroupConf) (g : Nat) : List Nat :=
  (List.range 16).filter (fun n => bit c.members n || (s.aport n).groupNo == g)

/-- The effect of a group's configuration (R344 to R346, R369): CTL, HELIO and mask as given, the frame counter 0. A lost clock stays
lost until its first WS period where the group is still a slave (R358); its members follow their groups. -/
def State.configureGroup (s : State) (c : GroupConf) (g : Nat) : State :=
  let s := (s.touched c g).foldl (fun t n =>
    t.modAport n (fun p => { p with ctl := if bit c.members n then BitVec.ofNat 64 (c.port n)
                                           else setBits (setBits p.ctl 60 4 n) 57 3 0 })) s
  let s := s.modGroup g (fun x => { x with
    ctl := BitVec.ofNat 64 c.ctl, shadow := BitVec.ofNat 16 c.mask, active := BitVec.ofNat 16 c.mask, pending := none, frame := 0,
    helio := setBits (setBits (BitVec.ofNat 64 c.helio) 62 1 0) 46 16 0, clockLost := x.clockLost && !bit c.ctl 45, returned := false,
    openRec := none, cfgSection := none }.latchSlot)
  (s.touched c g).foldl (fun t n => t.modAport n (fun p => { p with clockLost := (t.group p.groupNo).clockLost })) s

/-- A named port, or one that would leave, belongs to a group with a running member. -/
def State.groupBusy (s : State) (c : GroupConf) (g : Nat) : Bool :=
  (s.touched c g).any (fun n => s.groupRuns (s.aport n).groupNo || (s.aport n).startPend)

/-- A mailbox waits on a slot or its port (R422). -/
def State.slotBusy (s : State) (g k : Nat) : Bool :=
  (((s.group g).slot k).change.bind (·.mbx)).isSome
    || (((s.slotPort g k).map (fun n => ((s.aport n).stopPend.bind id).isSome)).getD false)
    || !(s.group g).maskMbx.isEmpty

/-- A mailbox waits on a port or one of its slots. -/
def State.portBusy (s : State) (n : Nat) : Bool :=
  let g := (s.aport n).groupNo
  let k := 2 * (s.aport n).member
  s.slotBusy g k || s.slotBusy g (k + 1)

/-- Sizes of AUD_GROUP_CONFIG's parameters. -/
def audGroupConfigSizes : List Nat := 1 :: groupSizes

/-- What R423 checks of AUD_GROUP_CONFIG. -/
def specAudGroupConfig : CmdSpec :=
  let offs := (fieldOffs audGroupConfigSizes).drop 1
  CmdSpec.ctl 0x601 audGroupConfigSizes (fun pg =>
    if par audGroupConfigSizes pg 0 > 15 then some 0x40
    else ((GroupConf.ofPage pg).fault (par audGroupConfigSizes pg 0)).map (fun f => offs.getD f.1 0 + f.2))

/-- AUD_GROUP_CONFIG. -/
def execAudGroupConfig (m : Fin 64) (s : State) : Answer :=
  .next (s.runCmd m specAudGroupConfig (fun pg t =>
    let g := par audGroupConfigSizes pg 0
    let c := GroupConf.ofPage pg
    if t.groupBusy c g then t.fail m stState
    else if (t.touched c g).any t.portBusy then t.fail m stBusy
    else if t.leftOutFault c g then t.respond m stParam 0x42 []
    else (t.configureGroup c g).ok m []))

/-- The committed section of a group applies at the group's start (R437); `none` where a port it names is a member of another
group that runs, or it cannot apply. -/
def State.applyAudioSection (s : State) (g : Nat) : Option State :=
  match (s.group g).cfgSection with
  | none => some s
  | some b =>
    let c := GroupConf.ofSection b
    if s.groupBusy c g || s.leftOutFault c g then none else some (s.configureGroup c g)

/-! ### Ports -/

/-- A partition's share holds a port; control may name any (R369). -/
def State.audShare (s : State) (m : Fin 64) (n : Nat) : Bool :=
  let o := (s.mail m).owner.toNat
  o = 16 || (match s.part? o with
    | some q => q.audPorts.getLsbD n
    | none => false)

/-- Every member of a group lies in the share. -/
def State.audShareGroup (s : State) (m : Fin 64) (g : Nat) : Bool := (s.members g).all (s.audShare m)

/-- The page of a command that names one port. -/
def portSpec (code : Nat) : CmdSpec :=
  .shared code [1] (fun _ _ _ => true) (fun pg => if le pg 0x40 1 > 15 then some 0x40 else none)

/-- What R423 checks of AUD_PORT_START. -/
def specAudPortStart : CmdSpec := portSpec 0x602

/-- AUD_PORT_START (R359, R437): the port starts at the next wire-frame boundary. -/
def execAudPortStart (m : Fin 64) (s : State) : Answer :=
  .next (s.runCmd m specAudPortStart (fun pg t =>
    let n := le pg 0x40 1
    let p := t.aport n
    if !t.audShare m n then t.fail m stTarget
    else if t.portBusy n then t.fail m stBusy
    else if p.run || p.startPend then t.fail m stState
    else
      let ready := if t.groupRuns p.groupNo then some t else t.applyAudioSection p.groupNo
      match ready with
      | none => t.fail m stState
      | some t => (t.modAport n (fun p => { p with startPend := true, swap := false })).ok m []))

/-- The channels of a port. -/
def APort.slotPair (p : APort) : List Nat := [2 * p.member, 2 * p.member + 1]

/-- What R423 checks of AUD_PORT_STOP. -/
def specAudPortStop : CmdSpec := portSpec 0x603

/-- AUD_PORT_STOP (R363, R369): the channels stop at crossings, then the port. -/
def execAudPortStop (m : Fin 64) (s : State) : Answer :=
  .next (s.runCmd m specAudPortStop (fun pg t =>
    let n := le pg 0x40 1
    let p := t.aport n
    let g := p.groupNo
    if !t.audShare m n then t.fail m stTarget
    else if t.portBusy n then t.fail m stBusy
    else if !p.run then t.fail m stState
    else
      let nr := (t.group g).rampFrames
      let t := p.slotPair.foldl (fun u k => u.modSlot g k (fun x => x.request nr .stop none (fun y => { y with on := false }))) t
      (t.setAport n { p with stopPend := some (some m) }).background m))

/-- What R423 checks of AUD_PORT_RESTART. -/
def specAudPortRestart : CmdSpec := portSpec 0x604

/-- AUD_PORT_RESTART (R359): the port stops and starts again at the next boundary. -/
def execAudPortRestart (m : Fin 64) (s : State) : Answer :=
  .next (s.runCmd m specAudPortRestart (fun pg t =>
    let n := le pg 0x40 1
    let p := t.aport n
    if !t.audShare m n then t.fail m stTarget
    else if t.portBusy n then t.fail m stBusy
    else if !p.run then t.fail m stState
    else
      let t := p.slotPair.foldl (fun u k => u.modSlot p.groupNo k (fun x => { x with on := false, change := none })) t
      (t.setAport n { p with run := false, startPend := true, swap := false, fresh := true }).ok m []))

/-! ### Masks -/

/-- Bits of a mask for positions without a member (R345). -/
def State.maskOk (s : State) (g v : Nat) : Bool :=
  (List.range 16).all (fun k => !bit v k || (s.slotPort g k).isSome)

/-- Sizes of AUD_SLOT_MASK's parameters. -/
def audSlotMaskSizes : List Nat := [1, 2]

/-- What R423 checks of AUD_SLOT_MASK. -/
def specAudSlotMask : CmdSpec := ⟨0x605, true, audSlotMaskSizes, fun _ _ _ => true, fun s pg =>
    if par audSlotMaskSizes pg 0 > 15 then some 0x40 else if !s.maskOk (par audSlotMaskSizes pg 0) (par audSlotMaskSizes pg 1) then some 0x42 else none, none⟩

/-- AUD_SLOT_MASK (R351): written, committed, answered when it applies. -/
def execAudSlotMask (m : Fin 64) (s : State) : Answer :=
  .next (s.runCmd m specAudSlotMask (fun pg t =>
    let g := par audSlotMaskSizes pg 0
    let v := BitVec.ofNat 16 (par audSlotMaskSizes pg 1)
    if !t.audShareGroup m g then t.fail m stTarget
    else if (List.range 16).any (t.slotBusy g) then t.fail m stBusy
    else (t.modGroup g (fun x => { x with shadow := v, pending := some v, maskMbx := x.maskMbx ++ [m] })).background m))

/-! ### Slots -/

/-- The page of a command that names a slot of a group. -/
def slotSpec (code : Nat) (sizes : List Nat) (range : Bytes → Option Nat) : CmdSpec :=
  .shared code sizes (fun _ _ _ => true) (fun pg =>
    if le pg 0x40 1 > 15 then some 0x40 else if le pg 0x41 1 > 15 then some 0x41 else range pg)

/-- A change requested by a command: it waits for its crossing where the port runs, else it is complete at once. -/
def State.askSlot (s : State) (m : Fin 64) (g k : Nat) (kind : ChangeKind) (f : ASlot → ASlot) : State :=
  let nr := (s.group g).rampFrames
  if s.slotRuns g k then (s.modSlot g k (fun x => x.request nr kind (some m) f)).background m
  else (s.modSlot g k (fun x => { f x with change := none })).ok m []

/-- The common checks of a slot command, then its effect. -/
def State.onSlot (s : State) (m : Fin 64) (g k : Nat) (f : Nat → State) : State :=
  match s.slotPort g k with
  | none => s.fail m stTarget
  | some n => if !s.audShare m n then s.fail m stTarget else if s.slotBusy g k then s.fail m stBusy else f n

/-- What R423 checks of AUD_GAIN_SET. -/
def specAudGainSet : CmdSpec :=
  let gain := fun (pg : Bytes) => signedOf 16 (le pg 0x42 2)
  slotSpec 0x606 [1, 1, 2] (fun pg => if -9600 ≤ gain pg && gain pg ≤ 1200 then none else some 0x42)

/-- AUD_GAIN_SET (R365). -/
def execAudGainSet (m : Fin 64) (s : State) : Answer :=
  let gain := fun (pg : Bytes) => signedOf 16 (le pg 0x42 2)
  .next (s.runCmd m specAudGainSet (fun pg t =>
    let g := le pg 0x40 1
    let k := le pg 0x41 1
    t.onSlot m g k (fun _ => t.askSlot m g k .gain (fun x => { x with gain := gain pg }))))

/-- What R423 checks of AUD_MUTE_SET. -/
def specAudMuteSet : CmdSpec := slotSpec 0x607 [1, 1, 1] (fun pg => if le pg 0x42 1 ≤ 1 then none else some 0x42)

/-- AUD_MUTE_SET (R363). -/
def execAudMuteSet (m : Fin 64) (s : State) : Answer :=
  .next (s.runCmd m specAudMuteSet (fun pg t =>
    let g := le pg 0x40 1
    let k := le pg 0x41 1
    let on := le pg 0x42 1 == 1
    t.onSlot m g k (fun _ => t.askSlot m g k (if on then .muteOn else .muteOff) (fun x => { x with mute := on }))))

/-- What R423 checks of AUD_BYPASS_SET. -/
def specAudBypassSet : CmdSpec := slotSpec 0x608 [1, 1, 1, 2] (fun pg =>
    if le pg 0x42 1 > 2 then some 0x42 else if le pg 0x44 2 > 10000 then some 0x44 else none)

/-- AUD_BYPASS_SET (R366, R367): a slot of an output port; AUTO starts in bypass. -/
def execAudBypassSet (m : Fin 64) (s : State) : Answer :=
  .next (s.runCmd m specAudBypassSet (fun pg t =>
    let g := le pg 0x40 1
    let k := le pg 0x41 1
    let mode := le pg 0x42 1
    let hold := le pg 0x44 2
    t.onSlot m g k (fun n =>
      if !(t.aport n).isOutput then t.fail m stTarget
      else
        let x := (t.group g).slot k
        let prog := if mode = 0 then false else if mode = 2 then true else if x.mode = 1 then x.prog else true
        let set' := fun (y : ASlot) => { y with mode := mode, holdMs := hold, prog := prog, good := 0 }
        if prog = x.prog then (t.modSlot g k set').ok m []
        else t.askSlot m g k (if prog then .engage else .release) set')))

end Sys2Proof.Machine
end

