-- ==== Sys2Proof/Machine/AudioWire.lean ====
section
/-! DEFINITION. The serial audio ports at work: wire frames, records of the input ring, changes of channels, bypass, clock loss,
rate measurement and the heliostat (R346 to R368, R370, R371, R375, R377, R378; log 31). -/

namespace Sys2Proof.Machine

/-! ### FP32 arithmetic of the audio island -/

/-- A value rounded to FP32, saturating. -/
def f32 (v : Num) : Num := fp32F.decode (toFp32 false v).code
def f32Add (a b : Num) : Num := f32 (a.add b)
def f32Mul (a b : Num) : Num := f32 (a.mul b)

/-- A quotient of integers in FP32: enough bits and a sticky one. -/
def f32Ratio (a : Int) (b : Nat) : Num :=
  let q := a.natAbs * 2 ^ 96 / max 1 b
  let r := a.natAbs * 2 ^ 96 % max 1 b
  f32 (.fin (decide (a < 0)) (2 * q + flag (r != 0)) (-97))

/-- A value divided by an integer in FP32. -/
def f32Div (v : Num) (b : Nat) : Num :=
  match v with
  | .fin n m e =>
    let q := m * 2 ^ 96 / max 1 b
    f32 (.fin n (2 * q + flag (m * 2 ^ 96 % max 1 b != 0)) (e - 97))
  | v => v

/-- A value limited to ±`m`. -/
def Num.limit (m v : Num) : Num := if v.lt m.negate then m.negate else if m.lt v then m else v

/-! ### Gain (R365) -/

/-- m^2000 does not exceed 10^k × 2^sh. -/
def powBelow (m : Nat) (k : Int) (sh : Nat) : Bool :=
  if 0 ≤ k then decide (m ^ 2000 ≤ 10 ^ k.toNat * 2 ^ sh) else decide (m ^ 2000 * 10 ^ (-k).toNat ≤ 2 ^ sh)

/-- The largest m below 2^24 that `powBelow` admits, bit by bit. -/
def rootSearch (k : Int) (sh : Nat) : Nat → Nat → Nat
  | 0, m => m
  | b + 1, m => rootSearch k sh b (if powBelow (m + 2 ^ b) k sh then m + 2 ^ b else m)

/-- The FP32 value nearest to 10^(k ÷ 2000), the factor of k hundredths of a decibel; 0 dB is exactly 1. -/
def gainFactor (k : Int) : Num :=
  if k = 0 then .fin false 1 0
  else
    let l : Int := Nat.log2 (10 ^ k.natAbs)
    let e : Int := if 0 ≤ k then l / 2000 else (-l - 1) / 2000
    let sh := (2000 * (23 - e)).toNat
    let m := rootSearch k sh 24 0
    let up := powBelow (2 * m + 1) k (sh + 2000)
    .fin false (if up then m + 1 else m) (e - 23)

/-- A sample at a gain, at the port's word length. -/
def withGain (w : Nat) (k x : Int) : Int := if k = 0 then x else toPcm w (f32Mul (gainFactor k) (f32 (Num.ofInt x)))

/-- o + (w − o) × num ÷ den in FP32, at the port's word length (R364). -/
def rampMix (bits' : Nat) (o w : Int) (num den : Nat) : Int :=
  toPcm bits' (f32Add (f32 (.ofInt o)) (f32Div (f32Mul (f32 (.ofInt (w - o))) (.ofInt num)) den))

/-- What a signal plays for a generated and a programme sample. -/
def Sig.play (bits' : Nat) (gen prog : Int) : Sig → Int
  | .zero => 0
  | .gen k => withGain bits' k gen
  | .prog k => withGain bits' k prog
  | .mix o w num den => rampMix bits' (o.play bits' gen prog) (w.play bits' gen prog) num den

/-- A justified word as a sample, and back. -/
def sampleOf (bits' : Nat) (c : Nat) : Int := signedOf 32 c / 2 ^ (32 - bits')

/-! ### One channel in one wire frame (R363, R364) -/

/-- What a channel plays in a wire frame, how it goes on, and whether its ramp begins or its change is complete. -/
structure ChanStep where
  out : Int
  slot : ASlot
  ramp : Bool
  done : Option Change

/-- A channel passes a wire frame. -/
def ASlot.frame (k : ASlot) (tzc nr bits' gen prog : Nat) : ChanStep :=
  let g := sampleOf bits' gen
  let p := sampleOf bits' prog
  let kept := { k with prevGen := BitVec.ofNat 32 gen, prevProg := BitVec.ofNat 32 prog, prevOk := true }
  match k.change with
  | none => ⟨k.steady.play bits' g p, kept, false, none⟩
  | some c =>
    let o := c.old.play bits' g p
    let w := c.new.play bits' g p
    let ramping := c.ramp.isSome || tzc ≤ c.waited
    if ramping then
      let r := c.ramp.getD 0
      let out := rampMix bits' o w (r + 1) nr
      if nr ≤ r + 1 then ⟨out, { kept with change := none }, c.ramp.isNone, some c⟩
      else ⟨out, { kept with change := some { c with ramp := some (r + 1) } }, c.ramp.isNone, none⟩
    else
      let g' := sampleOf bits' k.prevGen.toNat
      let p' := sampleOf bits' k.prevProg.toNat
      let d := w - o
      let d' := c.new.play bits' g' p' - c.old.play bits' g' p'
      if d = 0 || (k.prevOk && ((d < 0 && 0 < d') || (0 < d && d' < 0))) then ⟨w, { kept with change := none }, false, some c⟩
      else ⟨o, { kept with change := some { c with waited := c.waited + 1 } }, false, none⟩

/-- The CHANGE code of event 0x860A (R537). -/
def ChangeKind.code : ChangeKind → Nat
  | .start => 0 | .stop => 1 | .gain => 2 | .muteOn => 3 | .muteOff => 4 | .engage => 5 | .release => 6

/-- A change is complete: its bypass event and its response (R366, R367, R369). -/
def State.changeDone (s : State) (g k n : Nat) (c : Change) : State :=
  let x := (s.group g).slot k
  let pos := b8 (s.group g).frame.toNat
  let bypass := fun (z : Sig) => match z with
    | .prog _ => some true
    | .gen _ => some false
    | _ => none
  let s := match c.kind with
    | .engage => s.portEvent n 0x8608 x.stream [b1 k, pos]
    | .release => s.portEvent n 0x8609 x.stream [b1 k, pos]
    | _ => if (bypass c.old).isSome && (bypass c.new).isSome && bypass c.old ≠ bypass c.new then
        s.portEvent n (if bypass c.new = some true then 0x8608 else 0x8609) x.stream [b1 k, pos] else s
  match c.mbx with
  | some m => s.ok m []
  | none => s

/-- A slot passes a wire frame; answers the sample played. -/
def State.slotFrame (s : State) (g k n : Nat) (gen prog : Nat) : Int × State :=
  let x := s.group g
  let st := (x.slot k).frame x.zcFrames x.rampFrames x.wordBits gen prog
  let s := s.modSlot g k (fun _ => st.slot)
  let kind := ((x.slot k).change.map (fun c => c.kind.code)).getD 0
  let s := if st.ramp then s.portEvent n 0x860A (x.slot k).stream [b1 k, b1 kind] else s
  let s := match st.done with
    | some c => s.changeDone g k n c
    | none => s
  (st.out, s)

/-! ### Records of the input ring (R348, R349) -/

/-- Write a record at the group's place; a pad record fills the ring where it would cross the end. -/
def State.ringRecord (s : State) (g kind frames slots aux first : Nat) (data : Bytes) : State :=
  let len := alignUp 16 (16 + data.length)
  let p := (s.group g).place
  let wraps := 0x8000 < p + len
  let s := if wraps then s.writeRaw (inRing g + p) (b2 0x30 ++ zeros 14) else s
  let p := if wraps then 0 else p
  let s := s.writeRaw (inRing g + p) (b2 kind ++ b2 frames ++ b2 slots ++ b2 aux ++ b8 first ++ data)
  s.modGroup g (fun x => { x with place := (p + len) % 0x8000 })

/-- The open data record closes (R349). -/
def State.closeRec (s : State) (g : Nat) : State :=
  match (s.group g).openRec with
  | none => s
  | some r =>
    (s.ringRecord g 0x31 r.frames r.slots.toNat r.suspect.toNat r.first r.data).modGroup g (fun x => { x with openRec := none })

/-- Change every slot of a group that a test picks. -/
def State.modSlots (s : State) (g : Nat) (pick : Nat → Bool) (f : ASlot → ASlot) : State :=
  ((List.range 16).filter pick).foldl (fun t k => t.modSlot g k f) s

/-- The slots of a group's members in one direction. -/
def State.sideSlots (s : State) (g : Nat) (out : Bool) : List Nat :=
  (List.range 16).filter (fun k => ((s.slotPort g k).map (fun n => (s.aport n).isOutput == out)).getD false)

/-! ### The boundary before a wire frame -/

/-- A port starts (R359, R360, R362): its channels begin under R363, a restart closes the open record and carries a discontinuity
(R349); the first member to start sets I and STEER to 0. An output port's FIFO is full then, an input port's empty (log 22). -/
def State.portBegins (s : State) (g n : Nat) : State :=
  let p := s.aport n
  if !p.startPend then s
  else
    let s := if s.groupRuns g then s
      else s.modGroup g (fun x => { x with integ := 0, steer := 0, limit := false, levelSum := 0, levelCnt := 0 }.latchSlot)
    let s := if p.fresh && !p.isOutput then s.closeRec g else s
    let s := s.setAport n { p with run := true, startPend := false, reference := none, fresh := false,
                                   fifo := if p.isOutput then 8 else 0 }
    let nr := (s.group g).rampFrames
    p.slotPair.foldl (fun t k => t.modSlot g k (fun x =>
      let y := ({ x with on := false, change := none, prevOk := false } : ASlot).request nr .start none (fun z => { z with on := true })
      { y with disc := x.disc || p.fresh })) s

/-- After a return of the clock the discontinuity record is written (R358). -/
def State.discRecord (s : State) (g : Nat) : State :=
  let x := s.group g
  if !x.returned then s
  else
    let s := (s.closeRec g).ringRecord g 0x33 0 0 x.active.toNat x.frame.toNat []
    (s.modSlots g (fun k => x.active.getLsbD k) (fun k => { k with disc := true })).modGroup g
      (fun y => { y with returned := false })

/-- A committed mask applies (R351, R352); answers whether a layout marker was written. -/
def State.maskApplies (s : State) (g : Nat) : Bool × State :=
  let x := s.group g
  match x.pending with
  | none => (false, s)
  | some m =>
    let s := (s.closeRec g).ringRecord g 0x32 0 m.toNat x.active.toNat x.frame.toNat []
    let s := s.modSlots g (fun k => x.active.getLsbD k && !m.getLsbD k) (fun k => { k with gap := true })
    let s := s.modSlots g (fun k => !x.active.getLsbD k && m.getLsbD k)
      (fun k => { k with disc := k.disc || k.gap, gap := false })
    let s := s.modGroup g (fun y => { y with active := m, pending := none, maskMbx := [] })
    let s := s.groupEvent g 0x8606 [b2 x.active.toNat, b2 m.toNat]
    (true, x.maskMbx.foldl (fun t b => t.ok b []) s)

/-! ### Input ports (R353, R355 to R357) -/

/-- An overrun or underrun of a port in this wire frame (R356, R357). -/
def State.portXrun (s : State) (n : Nat) : State :=
  let p := s.aport n
  if p.isOutput then
    (s.setAport n { p with swap := true, under := satAdd p.under 1 }).portEvent n 0x8604 none [b1 1]
  else
    (s.setAport n { p with swap := true, overrun := satAdd p.overrun 1 }).portEvent n 0x8605 none [b1 1]

/-- A wire frame passes a port's FIFO: an input port overruns where it is full, an output port underruns where it is empty; then the
ring side fills or empties it, unless it stalls (R356; log 22). -/
def APort.fifoFrame (p : APort) (stalled : Bool) : Bool × APort :=
  if p.isOutput then (p.fifo == 0, { p with fifo := if stalled then p.fifo - 1 else 8 })
  else (p.fifo == 8, { p with fifo := if stalled then min 8 (p.fifo + 1) else 0 })

/-- The running ports of a group that overrun or underrun in this wire frame: by their FIFO, or because WS changes before a word
is complete (R356). -/
def State.fifoFrames (s : State) (g : Nat) (slips : WireSlips) : List (Fin 16) × State :=
  (s.members g).foldl (fun (a : List (Fin 16) × State) n =>
    let p := a.2.aport n
    if !p.run then a
    else
      let f := p.fifoFrame (slips.stalls.any (fun v => v.val == n))
      (if f.1 || slips.early.any (fun v => v.val == n) then a.1 ++ [Fin.ofNat 16 n] else a.1, a.2.setAport n f.2)) ([], s)

/-- What a port's clock pins are (R344). -/
def State.clockPins (s : State) (n : Nat) : PinDrive :=
  let p := s.aport n
  let g := s.group p.groupNo
  if !s.dev.audioPinsOn then .highZ
  else if g.master then .driven
  else if p.member = bits g.ctl.toNat 39 3 then .input else .highZ

/-- The clock pins of a group's members in a wire frame. -/
def State.showClocks (s : State) (g : Nat) : State :=
  (s.members g).foldl (fun t n => t.emit (.clockPins (Fin.ofNat 16 n) (s.clockPins n))) s

/-- The slots of the input ports of a group pass a wire frame: the words written to the ring, by slot. -/
def State.inputFrame (s : State) (g : Nat) (words : List WireWords) (xruns : List (Fin 16)) : Tab Nat × State :=
  (s.sideSlots g false).foldl (fun (acc : Tab Nat × State) k =>
    let t := acc.2
    match t.slotPort g k with
    | none => acc
    | some n =>
      if !(t.aport n).run then acc
      else
        let w := (t.group g).wordBits
        let x := words.find? (fun v => v.port.val == n)
        let c := ((x.map (fun (v : WireWords) => if k % 2 = 0 then v.left else v.right)).getD 0).toNat
        let lost := xruns.any (fun v => v.val == n)
        let (o, t) := t.slotFrame g k n (if lost then 0 else maskWord w c) 0
        (tabPut acc.1 k (justify w o), t)) ([], s)

/-- Slots whose samples are phase-suspect. -/
def State.suspects (s : State) (g : Nat) : Nat :=
  bitmap ((s.sideSlots g false).filter (fun k => ((s.slotPort g k).map (fun n => (s.aport n).swap)).getD false))

/-- The wire frame joins the open data record, which closes when full (R349). -/
def State.recordFrame (s : State) (g : Nat) (got : Tab Nat) : State :=
  let x := s.group g
  let slots := (s.sideSlots g false).filter (fun k => x.active.getLsbD k)
  let runs := (s.members g).any (fun n => !(s.aport n).isOutput && (s.aport n).run)
  if slots.isEmpty || !runs then s
  else
    let r := x.openRec.getD ⟨x.active, x.frame.toNat, 0, [], 0⟩
    let sus := BitVec.ofNat 16 (s.suspects g) &&& BitVec.ofNat 16 (bitmap slots)
    let r := { r with frames := r.frames + 1, data := r.data ++ slots.flatMap (fun k => b4 (tabGet got 0 k)),
                      suspect := r.suspect ||| sus }
    let s := s.modGroup g (fun y => { y with openRec := some r })
    if r.frames ≥ x.blockFrames + 1 then s.closeRec g else s

/-- The side-band bits of a stream's sample of this wire frame (R355). -/
def AGroup.sampleMarks (x : AGroup) (slots : List Nat) (suspect : Nat) (layout : Bool) : Nat :=
  let disc := slots.any (fun k => (x.slot k).disc)
  (if slots.any (fun k => bit suspect k) then 2 else 0)
    + (if disc then (if x.gapReset then 5 else 4) else 0) + (if layout then 8 else 0)

/-- Streams bound to the group's input slots take their sample (R353). -/
def State.takeSamples (s : State) (g : Nat) (got : Tab Nat) (layout : Bool) : State :=
  let x := s.group g
  let sus := s.suspects g
  let take := fun (e : Nat × Stream) =>
    let y := e.2
    let k := audSlot y.source
    let slots := if audPair y.source then [k, k + 1] else [k]
    let t := y.sampleCount.toNat + y.intake.samples.length
    let ended : Bool := match y.intake.stopAt with
      | some n => n ≤ t
      | none => false
    if y.srcKind = 2 && audGroup y.source = g && y.takesInput && !ended
        && slots.all (fun k => x.active.getLsbD k && (tabGet? got k).isSome) then
      let m := x.sampleMarks slots sus layout
      let data := slots.flatMap (fun k => b4 (tabGet got 0 k))
      let i := y.intake
      (e.1, { y with lastSample := s.now,
                     intake := { i with samples := tabPut i.samples t data,
                                        marks := if m = 0 then i.marks else tabPut i.marks t m } })
    else e
  let s := { s with streams := s.streams.map take }
  s.modSlots g (fun k => x.active.getLsbD k && (tabGet? got k).isSome) (fun k => { k with disc := false })

/-! ### Output ports (R350, R361, R366, R367) -/

/-- A sample of the output ring: 0 where it is absent; a cell that fails its check plays 0 and is counted (R461). -/
def State.ringSample (s : State) (g pos slot : Nat) (prog : Bool) : Nat :=
  let v := if s.good (validAddr g pos) 4 then s.readNat (validAddr g pos) 4 else 0
  if v.testBit (if prog then 16 + slot else slot) && s.good (cellAddr g pos slot) 8 then
    s.readNat (cellAddr g pos slot + (if prog then 4 else 0)) 4
  else 0

/-- The generated sample of a position is present. -/
def State.genPresent (s : State) (g pos slot : Nat) : Bool :=
  s.good (validAddr g pos) 4 && (s.readNat (validAddr g pos) 4).testBit slot

/-- The check of R366 for position n + A. -/
def State.checkAhead (s : State) (g slot : Nat) : Bool :=
  let x := s.group g
  let a := x.zcFrames + x.rampFrames + 1
  a < 4096 && s.genPresent g (x.frame.toNat + a) slot

/-- Bypass of an AUTO slot (R366, R367): engage at the first position that fails the check; count those that pass. -/
def State.autoBypass (s : State) (g k : Nat) : State :=
  let x := (s.group g).slot k
  if x.mode ≠ 1 then s
  else if s.checkAhead g k then s.modSlot g k (fun y => { y with good := y.good + 1 })
  else
    let s := s.modSlot g k (fun y => { y with good := 0 })
    if x.on && !x.prog then
      s.modSlot g k (fun y => y.request (s.group g).rampFrames .engage none (fun z => { z with prog := true }))
    else s

/-- A slot of an output port plays; answers the word driven. -/
def State.outputSlot (s : State) (g k n : Nat) : Nat × State :=
  let x := s.group g
  let pos := x.frame.toNat
  let bad := !s.good (cellAddr g pos k) 8 && (bit (s.readNat (validAddr g pos) 4) k || bit (s.readNat (validAddr g pos) 4) (16 + k))
  let h := s.health
  let s := if bad then { s with health := { h with exitFail := satAdd h.exitFail 1 } } else s
  let (o, s) := s.slotFrame g k n (s.ringSample g pos k false) (s.ringSample g pos k true)
  let s := s.autoBypass g k
  (if x.active.getLsbD k then justify x.wordBits o else 0, s)

/-- The output ports of a group play the position and drive their pins; an underrun drives 0. -/
def State.outputFrame (s : State) (g : Nat) (xruns : List (Fin 16)) : State :=
  (s.members g).foldl (fun t n =>
    let p := t.aport n
    if !p.run || !p.isOutput then t
    else
      let (l, t) := t.outputSlot g (2 * p.member) n
      let (r, t) := t.outputSlot g (2 * p.member + 1) n
      let none' := xruns.any (fun v => v.val == n)
      t.emit (.wireWords (Fin.ofNat 16 n) (if none' then 0 else BitVec.ofNat 32 l) (if none' then 0 else BitVec.ofNat 32 r))) s

/-- The level of the steering slot joins the heliostat's interval (R362). -/
def AGroup.addLevel (x : AGroup) : AGroup :=
  if x.levelCnt ≥ 2 ^ x.updateLog2 then { x with levelSum := x.latchSlot.level, levelCnt := 1 }.latchSlot
  else { x with levelSum := x.levelSum + x.level, levelCnt := x.levelCnt + 1 }

/-- Ports whose channels have all stopped stop (R363, R369); a port stop closes the open record (R349). -/
def State.portsEnd (s : State) (g : Nat) : State :=
  (s.members g).foldl (fun t n =>
    let p := t.aport n
    let still := p.slotPair.all (fun k => let x := (t.group g).slot k; !x.on && x.change.isNone)
    match p.stopPend with
    | some mb =>
      if p.run && still then
        let t := if p.isOutput then t else t.closeRec g
        let t := t.setAport n { p with run := false, stopPend := none }
        match mb with
        | some m => t.ok m []
        | none => t
      else t
    | none => t) s

/-- A wire frame of a group passes (R346). -/
def execAudioWireFrame (g : Fin 16) (words : List WireWords) (slips : WireSlips) (s : State) : Answer :=
  let n := g.val
  if !s.dev.audioPinsOn || (s.group n).clockLost || (s.members n).isEmpty then .next s
  else
    let s := (s.members n).foldl (fun t k => t.portBegins n k) (s.showClocks n)
    let s := s.discRecord n
    let (layout, s) := s.maskApplies n
    let (xruns, s) := s.fifoFrames n slips
    let s := xruns.foldl (fun t k => t.portXrun k.val) s
    let (got, s) := s.inputFrame n words xruns
    let s := s.recordFrame n got
    let s := s.takeSamples n got layout
    let s := s.outputFrame n xruns
    let s := s.modGroup n AGroup.addLevel
    let s := s.writeNat (validAddr n (s.group n).frame.toNat) 4 0
    let s := s.portsEnd n
    .next (s.modGroup n (fun x => { x with frame := x.frame + 1 }))

/-- No crossing has come in T_zc wire frames: the change goes on as a ramp (R364). -/
def execCrossingTimeout (g slot : Fin 16) (s : State) : Answer :=
  let x := s.group g.val
  let k := x.slot slot.val
  match k.change, s.slotPort g.val slot.val with
  | some c, some n =>
    if c.ramp.isNone && x.zcFrames ≤ c.waited && (s.aport n).run && !x.clockLost then
      let s := s.modSlot g.val slot.val (fun y => { y with change := some { c with ramp := some 0 } })
      .next (s.portEvent n 0x860A k.stream [b1 slot.val, b1 c.kind.code])
    else .next s
  | _, _ => .next s

/-- The check has held for RELEASE_HOLD, at this position too: an AUTO slot in bypass requests release, in place of any change that
is pending (R364, R367). -/
def execBypassReleaseHold (g slot : Fin 16) (s : State) : Answer :=
  let x := s.group g.val
  let k := x.slot slot.val
  if k.mode = 1 && k.on && k.prog && 1 ≤ k.good && k.holdMs * x.rateHz ≤ k.good * 1000
      && s.slotRuns g.val slot.val && !x.clockLost then
    .next (s.modSlot g.val slot.val (fun y => y.request x.rampFrames .release none (fun z => { z with prog := false })))
  else .next s

/-- The intake engine accepts the next chunk of a stream whose source is an audio slot, when its last wire frame has come,
and writes its programme samples (R353, R354). -/
def execIntakeAudioAccept (i : Fin 16384) (s : State) : Answer :=
  let x := s.stream i.val
  let n := s.nextChunkSamples x
  if x.takesInput && x.srcKind = 2 && n ≠ 0 && x.presentIn n = n then
    .next (s.acceptSampled i.val (s.group (audGroup x.source)).gapReset)
  else .next s

/-- A slave group's clock is lost: transfer and the frame counter stop, output pins drive 0 (R358). -/
def execAudioClockLoss (g : Fin 16) (s : State) : Answer :=
  let x := s.group g.val
  if !s.dev.audioPinsOn || x.master || x.clockLost || (s.members g.val).isEmpty then .next s
  else
    let s := s.setGroup g.val { x with clockLost := true, returned := false }
    let s := (s.members g.val).foldl (fun t n => t.modAport n (fun p => { p with clockLost := true })) s
    let s := (s.members g.val).foldl (fun t n =>
      if (t.aport n).isOutput then t.emit (.wireWords (Fin.ofNat 16 n) 0 0) else t) s
    .next (s.groupEvent g.val 0x8602 [])

/-- The clock has returned: transfer resumes at the next boundary (R358). -/
def execAudioClockReturn (g : Fin 16) (s : State) : Answer :=
  let x := s.group g.val
  if !x.clockLost then .next s
  else
    let s := s.setGroup g.val { x with clockLost := false, returned := true }
    let s := (s.members g.val).foldl (fun t n => t.modAport n (fun p => { p with clockLost := false })) s
    .next (s.groupEvent g.val 0x8603 [])

/-- A running port's measurement of its group's rate (R360). -/
def execRateMeasurement (port : Fin 16) (rateMhz : BitVec 28) (s : State) : Answer :=
  let p := s.aport port.val
  if !p.run then .next s
  else
    let s := s.setAport port.val { p with rate := rateMhz }
    match p.reference with
    | none => .next (s.modAport port.val (fun q => { q with reference := some rateMhz }))
    | some r =>
      let diff := (rateMhz.toNat - r.toNat) + (r.toNat - rateMhz.toNat)
      if p.thresh * r.toNat < diff * 10000 then
        let s := s.modAport port.val (fun q => { q with reference := some rateMhz })
        .next (s.portEvent port.val 0x8601 none [b4 rateMhz.toNat, b4 r.toNat])
      else .next s

/-! ### The heliostat (R361, R362) -/

/-- The update of I, u and STEER from the mean level. -/
def AGroup.steerUpdate (x : AGroup) : AGroup × Bool :=
  let lim : Num := .ofInt 200
  let mean := f32 ((Num.ofInt x.levelSum).scale2 (-(x.updateLog2 : Int)))
  let e := f32Add mean (.ofInt (-(x.target : Int)))
  let i := Num.limit lim (f32Add (ofFp32 x.integ) (f32Mul (f32Ratio x.ki 100) e))
  let u := Num.limit lim (f32Add (f32Mul (f32Ratio x.kp 100) e) i)
  let cur := f32Ratio x.steer 100
  let move := Num.limit (f32Ratio x.slew 100) (f32Add u cur.negate)
  let next := roundInt ((f32Add cur move).mul (.ofInt 100))
  let atLimit := u.abs.eqv lim
  ({ x with integ := BitVec.ofNat 32 (toFp32 false i).code, steer := (clampInt (-20000) 20000 next).1, limit := atLimit,
            levelSum := 0, levelCnt := 0 }.latchSlot, atLimit && !x.limit)

/-- At the end of 2^UPDATE_LOG2 wire frames the heliostat of a master group with ENABLE updates. -/
def execHeliostatUpdate (g : Fin 16) (s : State) : Answer :=
  let x := s.group g.val
  if x.levelCnt < 2 ^ x.updateLog2 || !x.enable || !x.master then .next s
  else
    let (y, raised) := x.steerUpdate
    let s := s.setGroup g.val y
    if raised then .next (s.groupEvent g.val 0x8607 [i2 y.steer, i2 x.level]) else .next s

/-! ### Register writes with behaviour of their own -/

/-- AUD.GROUP[g].MASK written (R345, R351, R375): SHADOW, and COMMIT where `commit` lets it through. A mask with a bit for a
position without a member is a reserved encoding and leaves SHADOW as it is. -/
def State.writeMask (s : State) (g v : Nat) (commit : Bool) : State :=
  let new := bits v 48 16
  let ok := s.maskOk g new
  s.modGroup g (fun x =>
    let x := if ok then { x with shadow := BitVec.ofNat 16 new } else x
    if commit && bit v 0 then { x with pending := some x.shadow } else x)

/-- A write to AUD.GROUP[g].MASK. -/
def execAudMaskCommit (g : Fin 16) (v : W64) (s : State) : Answer := .next (s.writeMask g.val v.toNat true)

/-- AUD.GROUP[g].HELIO (R371, R377): ENABLE, SLOT and TARGET at any time, the other RW fields while no member runs; a SLOT
written while one runs takes effect at the next update. -/
def AGroup.helioWrite (x : AGroup) (runs : Bool) (v : Nat) : AGroup :=
  let latch := fun (y : AGroup) => if runs then y else y.latchSlot
  let h := setBits x.helio 63 1 (bits v 63 1)
  let h := setBits h 42 4 (bits v 42 4)
  let h := if 64 ≤ bits v 29 13 && bits v 29 13 ≤ 4000 then setBits h 29 13 (bits v 29 13) else h
  let h := if runs then h else setBits h 5 24 (bits v 5 24)
  let h := if !runs && 8 ≤ bits v 0 5 && bits v 0 5 ≤ 16 then setBits h 0 5 (bits v 0 5) else h
  latch { x with helio := h, integ := if bits v 42 4 = x.steerSlot then x.integ else 0 }

/-- A write to AUD.GROUP[g].HELIO. -/
def execAudHelioWrite (g : Fin 16) (v : W64) (s : State) : Answer :=
  .next (s.modGroup g.val (fun x => x.helioWrite (s.groupRuns g.val) v.toNat))

end Sys2Proof.Machine
end

