-- ==== Sys2Proof/Machine/Versions.lean ====
section
/-! DEFINITION. Configuration versions: the image and its checks, staging, commit, rollback and the commands CFG_STAGE to
CFG_DISCARD (R434 to R443, R455; log 32). -/

namespace Sys2Proof.Machine

/-! ### The image (R435) -/

/-- A section of an image: kind, index, where its body lies and its length. -/
structure CfgSect where
  kind : Nat
  index : Nat
  off : Nat
  len : Nat
  deriving DecidableEq, Repr

/-- The length of a section of a kind. -/
def sectLen (kind : Nat) : Nat := if kind = 1 then 64 else if kind = 2 then 2304 else if kind = 3 then 192 else 0

/-- The sections of an image from an offset, and the first fault of their headers. -/
def cfgWalk (img : Bytes) : Nat → Nat → List CfgSect × Option Nat
  | 0, off => ([], if off = img.length then none else some 0xC)
  | n + 1, off =>
    let k := le img off 2
    let len := le img (off + 4) 4
    if img.length < off + 8 || sectLen k = 0 then ([], some off)
    else if len ≠ sectLen k || img.length < off + 8 + len then ([], some (off + 4))
    else
      let (l, f) := cfgWalk img n (off + 8 + len)
      (⟨k, le img (off + 2) 2, off + 8, len⟩ :: l, f)

/-- The sections of an image. -/
def cfgSects (img : Bytes) : List CfgSect := (cfgWalk img (le img 6 2) 128).1

/-- The body of a section. -/
def CfgSect.body (x : CfgSect) (img : Bytes) : Bytes := slice img x.off x.len

/-- A section by kind and index. -/
def sectOf (img : Bytes) (kind index : Nat) : Option Bytes :=
  ((cfgSects img).find? (fun x => x.kind == kind && x.index == index)).map (·.body img)

/-- The device section. -/
def deviceSect (img : Bytes) : Bytes := (((cfgSects img).find? (fun x => x.kind == 1)).map (·.body img)).getD (zeros 64)

/-- The digest of an image is good (R435). -/
def imageDigest (img : Bytes) : Bytes := shake256 64 (patch img 0x40 (zeros 64))
def digestOk (img : Bytes) : Bool := 128 ≤ img.length && imageDigest img == slice img 0x40 64

/-! ### Field checks (R435 to R437, R142) -/

/-- The offsets of the checks that fail. -/
def failing (l : List (Bool × Nat)) : List Nat := l.filterMap (fun c => if c.1 then none else some c.2)

/-- Every byte of a field is zero. -/
def zeroField (b : Bytes) (off n : Nat) : Bool := (slice b off n).all (· == 0)

/-- A value lies in a range. -/
def within (v lo hi : Nat) : Bool := lo ≤ v && v ≤ hi

/-- Faults of a TAGS entry that is not all zero. -/
def tagFaults (t : Bytes) : List Nat :=
  if t.all (· == 0) then []
  else
    let k := signedOf 8 (le t 5 1)
    failing [(le t 0 1 ≤ 6, 0), (le t 1 1 ≤ 31, 1), (within (le t 2 1) 1 16, 2), (within (le t 3 1) 1 15, 3), (le t 4 1 ≤ 3, 4),
      (decide (-64 ≤ k) && decide (k ≤ 64), 5), (zeroField t 6 2, 6), (within (le t 8 4) 1 1048576, 8), (zeroField t 12 20, 12)]

/-- Faults of a partition section (R436, R55). -/
def partFaults (b : Bytes) (index : Nat) : List Nat :=
  let w := le b 4 2
  let l := le b 6 2
  let stall := le b 0x16 2
  let peer := le b 0x1A 2
  failing [(le b 0 1 == index, 0), (le b 1 1 == 1, 1), (le b 2 1 ≤ 1, 2), (le b 3 1 ≤ 1, 3), (within w 5 160, 4),
      (within l (max w 5) 640, 6), (within (le b 8 2) 200 800, 8), (le b 0xA 2 ≤ 16384, 0xA), (le b 0xC 1 ≤ 100, 0xC),
      (within (le b 0xD 1) 1 100, 0xD), (le b 0xE 2 ≤ 16384, 0xE), (le b 0x10 2 ≤ 10 * w, 0x10),
      (within (le b 0x12 2) 1 1000, 0x12), (within (le b 0x14 2) 10 60000, 0x14),
      (stall == 0 || (l ≤ 2 * stall && stall ≤ 60000), 0x16), (peer ≤ 8191 || peer == 0xFFFF, 0x1A), (zeroField b 0x1C 4, 0x1C),
      (secClusters b < 2 ^ 48, 0x20), (zeroField b 0x28 24, 0x28), (zeroField b 0x80 128, 0x80)]
    ++ (List.range 64).flatMap (fun t => (tagFaults (secTag b t)).map (· + 0x100 + 32 * t))

/-- Offsets of an audio section's fields, as AUD_GROUP_CONFIG's parameters from MEMBERS on under R415 (log 31). -/
def audioOffs : List Nat := [0, 8, 0x10, 0x18, 0x20]

/-- Faults of an audio section. -/
def audioFaults (b : Bytes) (g : Nat) : List Nat :=
  ((((GroupConf.ofSection b).fault g).map (fun f => audioOffs.getD f.1 0 + f.2)).toList)
    ++ failing [(zeroField b 2 6, 2), (zeroField b 0x12 6, 0x12), (zeroField b 0xA0 32, 0xA0)]

/-- Faults of one section's body, by offset within the image. -/
def CfgSect.faults (x : CfgSect) (img : Bytes) : List Nat :=
  let b := x.body img
  let inner := match x.kind with
    | 1 => failing [(le b 0 2 ≤ 8191, 0), (le b 2 2 == 0 || within (le b 2 2) 400 1400, 2), (zeroField b 4 60, 4)]
    | 2 => if x.index ≤ 15 then partFaults b x.index else []
    | _ => if x.index ≤ 15 then audioFaults b x.index else []
  (if x.index ≤ (if x.kind = 1 then 0 else 15) then [] else [x.off - 6]) ++ inner.map (· + x.off)

/-- Faults between a section and those before it: a repeated section, overlapping clusters, a sum of quotas above 16,384,
a port named twice. -/
def pairFaults (img : Bytes) : List CfgSect → List CfgSect → List Nat
  | _, [] => []
  | done, x :: rest =>
    let again := if done.any (fun y => y.kind == x.kind && y.index == x.index) then [x.off - 6] else []
    let b := x.body img
    let mine := match x.kind with
      | 2 =>
        let old := done.filter (fun y => y.kind == 2)
        let q := old.foldl (fun t y => t + secQuota (y.body img)) (secQuota b)
        (if q > 16384 then [x.off + 0xA] else [])
          ++ (if old.any (fun y => secClusters (y.body img) &&& secClusters b ≠ 0) then [x.off + 0x20] else [])
      | 3 => if (done.filter (fun y => y.kind == 3)).any (fun y => le (y.body img) 0 2 &&& le b 0 2 ≠ 0) then [x.off] else []
      | _ => []
    again ++ mine ++ pairFaults img (done ++ [x]) rest

/-- Step 2 of R438: the byte offset of the first faulty field. -/
def imageFault (img : Bytes) : Option Nat :=
  let n := le img 6 2
  let head := failing [(le img 0 4 == 0x47464358, 0), (le img 4 2 == 1, 4), (within n 1 33, 6), (le img 0xC 4 == img.length, 0xC),
    (zeroField img 0x10 48, 0x10)]
  let (l, f) := if within n 1 33 then cfgWalk img n 128 else ([], none)
  let noDevice := if l.any (fun x => x.kind == 1) then [] else [6]
  listMin? (head ++ f.toList ++ l.flatMap (·.faults img) ++ pairFaults img [] l ++ noDevice)

/-! ### Checks against the state (R438 steps 3 to 5) -/

/-- Every version number in flash. -/
def State.flashVersions (s : State) : List Nat :=
  (s.flash.cfg.toList.filter (fun c => c.state != .free)).map (·.version.toNat)

/-- The image that a section runs in a partition: the named one, else the one in service or, where that is lost, the one that
shaped the open streams. -/
def Partition.imageUnder (q : Partition) (sect : Bytes) : Option ImageInfo :=
  let d := secDigest sect
  if d.all (· == 0) then q.shape?
  else ([q.img0, q.img1].find? (fun o => (o.state == .loaded || o.state == .inService) && o.digest == d)).bind (·.info)

/-- Frames per chunk of a sampled stream: a whole number from 1 to 128 (R52). -/
def framesFit (im : ImageInfo) (l rate : Nat) : Bool :=
  let n := l * rate
  let d := 1000000000 * max 1 im.samplesPerFrame
  n % d == 0 && within (n / d) 1 128

/-- The open streams' chunk lengths stay whole under a section (R52). -/
def State.streamsFit (s : State) (p : Nat) (l : Nat) (im : ImageInfo) : Bool :=
  (s.openStreams p).all (fun x => im.tokens || framesFit im l x.2.sampleRate.toNat)

/-- The state pairs that an image's LAYOUT needs anew fit in the partition (R247). -/
def State.pairsFit (s : State) (p : Nat) (im : ImageInfo) : Bool :=
  let u := im.stateUnits
  ((s.openStreams p).foldl (fun (t : Option State) x => t.bind (fun t =>
    if u = x.2.stateUnits.toNat then some t
    else ((t.release p x.2.stateAddr.toNat).alloc p 4096 (2 * u * 4096)).map (·.2))) (some s)).isSome

/-- The failures of step 5 for one partition section, in the order of the checks R68, R52, R153 and R247: status and the offset of
the field, where one is at fault. -/
def State.sectFaults (s : State) (x : CfgSect) (img : Bytes) : List (Option (Nat × Option Nat)) :=
  let b := x.body img
  let p := x.index
  match s.part? p with
  | none => []
  | some q =>
    match q.imageUnder b with
    | none => []
    | some im =>
      let other := !(secDigest b).all (· == 0) && ((q.served?).map (·.digest)) != some (secDigest b)
      let moved := secW b ≠ q.w || secL b ≠ q.l || secF b ≠ secF q.sect || secClusters b ≠ secClusters q.sect || other
      let tagBad := im.umberTags.find? (fun t => !(secTag b t).all (· == 0) && bit (le (secTag b t) 4 1) 1)
      [if moved && (s.countClass p 0 + s.countClass p 1 ≠ 0) && !s.admitted p b im then some (stAdmission, none) else none,
       if (secL b ≠ q.l || other) && !s.streamsFit p (secL b) im then
         some (stParam, some (x.off + (if secL b ≠ q.l then 6 else 0x40)))
       else none,
       tagBad.map (fun t => (stParam, some (x.off + 0x100 + 32 * t + 4))),
       if other && !s.pairsFit p im then some (stParam, some (x.off + 0x40)) else none]

/-- The first failure of R438, as status and DETAIL; a DETAIL that no field gives is open. -/
def State.stageFault (s : State) (img : Bytes) : Option (Nat × Option Nat) :=
  if !digestOk img then some (stDigest, some 0x40)
  else match imageFault img with
    | some f => some (stParam, some f)
    | none =>
      if s.flashVersions.any (fun v => le img 8 4 ≤ v) then some (stParam, some 8)
      else
        let l := (cfgSects img).filter (fun x => x.kind == 2)
        if s.parts.any (fun (q : Nat × Partition) => !l.any (fun x => x.index == q.1)) then some (stState, none)
        else match l.find? (fun x =>
            let d := secDigest (x.body img)
            !d.all (· == 0) && !((s.part? x.index).map (fun q => [q.img0, q.img1].any (fun o =>
              (o.state == .loaded || o.state == .inService) && o.digest == d))).getD false) with
          | some x => some (stTarget, some (x.off + 0x40))
          | none => (List.range 4).findSome? (fun k => l.findSome? (fun x => (s.sectFaults x img).getD k none))

/-! ### CFG_STAGE (R438) -/

/-- A configuration command is in progress (R422, R455). -/
def State.cfgBusy (s : State) : Bool :=
  s.commit.isSome || s.flash.ops.any (fun o => match o with
    | .cfgStage _ _ _ _ => true
    | .cfgFree _ _ => true
    | _ => false)

/-- The slot that staging takes: any FREE one, else the oldest HISTORY slot (R434). -/
def State.stageSlot (s : State) : Option (Nat × State) :=
  let l := s.flash.cfg.toList
  let free := (List.range 8).filter (fun k => ((l[k]?).map (·.state)) == some .free)
  let (v, s1) := s.free
  match free with
  | k :: _ => some ((free[v % free.length]?).getD k, s1)
  | [] =>
    let old := (List.range 8).filter (fun k => ((l[k]?).map (·.state)) == some .history)
    let best := old.foldl (fun (b : Option Nat) k => match b with
      | none => some k
      | some j => if ((l[k]?).map (·.version.toNat)).getD 0 < ((l[j]?).map (·.version.toNat)).getD 0 then some k else b) none
    best.map (fun k => (k, s))

/-- A failure whose DETAIL the spec gives or leaves open, counted within the image (R416). -/
def State.failImage (s : State) (m : Fin 64) (status : Nat) (detail : Option Nat) : State :=
  match detail with
  | some d => s.respondX m status d true []
  | none =>
    let (v, s) := s.free
    s.respondX m status (v % 65536) true []

/-- The whole image has been taken: it is checked and its slot written. -/
def State.stageImage (s : State) (m : Fin 64) (img : Bytes) : State :=
  let s := { s with flash := { s.flash with staging := none } }
  match s.stageFault img with
  | some (st, d) => s.failImage m st d
  | none =>
    match s.stageSlot with
    | some (k, s) => (s.flashOp (.cfgStage m (Fin.ofNat 8 k) (BitVec.ofNat 32 (le img 8 4)) img)).background m
    | none => s.fail m stNoResource

/-- Sizes of CFG_STAGE's parameters. -/
def stageSizes : List Nat := [2, 4, 4, 4, 8]

/-- A segment's faults against what has been taken. -/
def stageSegFault (st : Option Staging) (off n total : Nat) (last : Bool) : Option Nat :=
  let had := if off = 0 then 0 else (st.map (·.taken.length)).getD 0
  let tot := if off = 0 then total else (st.map (·.total)).getD 0
  if off ≠ had then some 0x44
  else if total ≠ tot then some 0x4C
  else if tot < had + n then some 0x48
  else if last && had + n ≠ tot then some 0x40
  else none

/-- What R423 checks of CFG_STAGE. -/
def specCfgStage : CmdSpec := CmdSpec.ctl 0x201 stageSizes (fun pg =>
    if par stageSizes pg 0 > 1 then some 0x40
    else if par stageSizes pg 3 > 65536 then some 0x4C
    else if par stageSizes pg 4 = 0 && le pg 4 2 < 0x40 + par stageSizes pg 2 then some 4
    else if !domainOk (par stageSizes pg 4) then some 0x50 else firstNonzero pg 0x58 40)

/-- CFG_STAGE. The values of VERSION and SLOT in the answer to a segment that is not the last are open. -/
def execCfgStage (m : Fin 64) (host : Option Bytes) (s : State) : Answer :=
  .next (s.runCmd m specCfgStage (fun pg t =>
    let last := par stageSizes pg 0 = 1
    let off := par stageSizes pg 1
    let n := par stageSizes pg 2
    let src := par stageSizes pg 4
    if t.cfgBusy then t.fail m stBusy
    else match stageSegFault t.flash.staging off n (par stageSizes pg 3) last with
      | some d => t.respond m stParam d []
      | none =>
        let got := if src = 0 then some (slice pg 0x80 n)
          else if t.hostReach m (BitVec.ofNat 64 src) then host.bind (fun d => if d.length = n then some d else none) else none
        match got with
        | none => t.fail m stRemote
        | some d =>
          let taken := if off = 0 then d else ((t.flash.staging.map (·.taken)).getD []) ++ d
          if last then t.stageImage m taken
          else
            let (v, t) := t.free
            ({ t with flash := { t.flash with staging := some ⟨taken, par stageSizes pg 3⟩ } }).ok m (pack [b4 v, b1 (v / 2 ^ 32)])))

/-! ### Commit and rollback (R441, R443) -/

/-- The slot that holds a version. -/
def State.slotOf (s : State) (v : Nat) : Option (Fin 8 × CfgSlot) :=
  (List.finRange 8).findSome? (fun k =>
    let c := s.flash.cfg.get k
    if c.state != .free && c.version.toNat == v then some (k, c) else none)

/-- The slot that is CURRENT. -/
def State.currentSlot (s : State) : Option (Fin 8 × CfgSlot) :=
  (List.finRange 8).findSome? (fun k => if (s.flash.cfg.get k).state == .current then some (k, s.flash.cfg.get k) else none)

/-- Prepare begins: PREPARE is to be written. -/
def State.beginCommit (s : State) (m : Fin 64) (k : Fin 8) (c : CfgSlot) (rollback : Bool) : State :=
  let cur := s.currentSlot
  let was := (cur.map (·.2.image)).getD []
  let changed := (List.finRange 16).filter (fun p => sectOf c.image 2 p.val != sectOf was 2 p.val)
  let j : Commit := ⟨m, c.version, k, (cur.map (·.1)).getD k, rollback, (cur.map (·.2.version)).getD 0, slice c.image 0x40 64,
    .prepare, [], changed⟩
  (({ s with commit := some j }).flashOp (.journal (j.journalRec .prepare))).background m

/-- The image in a slot changes a partition that is being created, destroyed or reset (R422). -/
def State.changesBusy (s : State) (img : Bytes) : Bool :=
  let was := (s.currentSlot.map (·.2.image)).getD []
  s.parts.any (fun (q : Nat × Partition) => !q.2.settled && sectOf img 2 q.1 != sectOf was 2 q.1)

/-- What R423 checks of CFG_COMMIT. -/
def specCfgCommit : CmdSpec := .ctl 0x202 [4] (fun _ => none)

/-- CFG_COMMIT. -/
def execCfgCommit (m : Fin 64) (s : State) : Answer :=
  .next (s.runCmd m specCfgCommit (fun pg t =>
    if t.cfgBusy then t.fail m stBusy
    else match t.slotOf (le pg 0x40 4) with
      | none => t.fail m stTarget
      | some (k, c) =>
        if c.state != .staged then t.fail m stState
        else if t.changesBusy c.image then t.fail m stBusy
        else if !digestOk c.image then t.fail m stDigest
        else t.beginCommit m k c false))

/-- The newest HISTORY version. -/
def State.newestHistory (s : State) : Option (Fin 8 × CfgSlot) :=
  ((List.finRange 8).filter (fun k => (s.flash.cfg.get k).state == .history)).foldl (fun b k =>
    let c := s.flash.cfg.get k
    match b with
    | none => some (k, c)
    | some (_, d) => if d.version.toNat < c.version.toNat then some (k, c) else b) none

/-- A version leaves an existing partition undefined. -/
def State.leavesOut (s : State) (img : Bytes) : Bool := s.parts.any (fun (q : Nat × Partition) => (sectOf img 2 q.1).isNone)

/-- What R423 checks of CFG_ROLLBACK. -/
def specCfgRollback : CmdSpec := .plain 0x203

/-- CFG_ROLLBACK. -/
def execCfgRollback (m : Fin 64) (s : State) : Answer :=
  .next (s.runCmd m specCfgRollback (fun _ t =>
    if t.cfgBusy then t.fail m stBusy
    else match t.newestHistory with
      | none => t.fail m stState
      | some (k, c) =>
        if t.leavesOut c.image then t.fail m stState
        else if t.changesBusy c.image then t.fail m stBusy
        else if !digestOk c.image then t.fail m stDigest
        else t.beginCommit m k c true))

/-- What the version needs can be reserved: its clusters are its partitions' or nobody's, no existing partition is left out,
the state pairs fit (R54, R247, R321, R441; log 32). -/
def State.canReserve (s : State) (img : Bytes) : Bool :=
  !s.leavesOut img && (cfgSects img).all (fun x =>
    x.kind != 2 || (match s.part? x.index with
      | none => true
      | some q =>
        let b := x.body img
        let other := !(secDigest b).all (· == 0) && ((q.served?).map (·.digest)) != some (secDigest b)
        (clustersOf b).all (fun c => match s.clusterOwner c with
          | some o => o.val == x.index
          | none => true)
        && (!other || ((q.imageUnder b).map (fun im => s.pairsFit x.index im)).getD true)))

/-- The SRAM of clusters that a version gives to partitions and that belong to none yet is powered up before the step starts at which
it applies; `on` false powers it down again after ABANDON (R321, R441). -/
def State.powerVersion (s : State) (c : Commit) (on : Bool) : State :=
  let img := (s.flash.cfg.get c.slot).image
  c.changed.foldl (fun t p => match t.part? p.val, sectOf img 2 p.val with
    | some q, some b =>
      t.powerClusters ((clustersOf b).filter (fun k => (t.clusterOwner k).isNone)) (if on then q.powered else (0, 0))
    | _, _ => t) s

/-- ABANDON is to be written; the command then returns the status of the cause. -/
def State.abandonCommit (s : State) (c : Commit) (status : Nat) : State :=
  ({ s with commit := some { c with phase := .abandon status } }).flashOp (.journal (c.journalRec .abandon))

/-- The slots after a seal (R441, R443). -/
def Flash.sealSlots (f : Flash) (slot prevSlot : Fin 8) (rollback : Bool) : Flash :=
  let f := if slot = prevSlot then f
    else if rollback then f.setCfg prevSlot CfgSlot.empty
    else f.setCfg prevSlot { f.cfg.get prevSlot with state := .history }
  f.setCfg slot { f.cfg.get slot with state := .current }

/-- The number of R437 takes effect once no queue pair is connected. -/
def State.deviceNumber (s : State) : State :=
  match s.dev.deviceNoNext with
  | none => s
  | some n =>
    if s.qps.any (fun (q : Nat × Qp) => q.2.state == .connected) then s
    else { s with dev := { s.dev with deviceNo := n, deviceNoNext := none } }

/-- The device section applies at the seal (R437, R517). -/
def State.applyDevice (s : State) (new old : Bytes) : State :=
  let s := if le new 2 2 = le old 2 2 then s else { s with pwr := { s.pwr with capW := BitVec.ofNat 12 (le new 2 2) } }
  ({ s with dev := { s.dev with deviceNoNext := some (BitVec.ofNat 13 (le new 0 2)) } }).deviceNumber

/-- Audio sections that the version changes wait for their groups' next start (R437; log 31). -/
def State.applyAudioSects (s : State) (img old : Bytes) : State :=
  (List.range 16).foldl (fun t g =>
    match sectOf img 3 g with
    | some b => if sectOf old 3 g = some b then t else t.modGroup g (fun x => { x with cfgSection := some b })
    | none => t) s

/-- SEAL is written: the version is CURRENT, the sections apply or wait (R437, R441). -/
def State.sealed (s : State) (c : Commit) : State :=
  let old := (s.flash.cfg.get c.prevSlot).image
  let img := (s.flash.cfg.get c.slot).image
  let s := { s with flash := s.flash.sealSlots c.slot c.prevSlot c.rollback }
  let s := (s.applyDevice (deviceSect img) (deviceSect old)).applyAudioSects img old
  let changed := (List.finRange 16).filter (fun p => (s.part? p.val).isSome && sectOf img 2 p.val ≠ ((s.part? p.val).map (·.sect)))
  let s := changed.foldl (fun t p => t.modPart p.val (fun q => { q with nextSect := sectOf img 2 p.val })) s
  let c := { c with phase := .applying, waiting := changed }
  if changed.isEmpty then
    let c := { c with phase := .done }
    ({ s with commit := some c }).flashOp (.journal (c.journalRec .done))
  else changed.foldl (fun t p => t.idleBoundary p.val) { s with commit := some c }

/-- A journal write of a commit has ended (R441). -/
def State.journalDone (s : State) (kind : JournalKind) (ok : Bool) : State :=
  match s.commit with
  | none => s
  | some c =>
    match kind with
    | .prepare =>
      if !ok then ({ s with commit := none }).fail c.mbx stFlash
      else if s.canReserve (s.flash.cfg.get c.slot).image then
        ({ s.powerVersion c true with commit := some { c with phase := .seal } }).flashOp (.journal (c.journalRec .seal))
      else s.abandonCommit c stNoResource
    | .seal => if ok then s.sealed c else (s.powerVersion c false).abandonCommit c stFlash
    | .abandon =>
      let st := match c.phase with
        | .abandon st => st
        | _ => stFlash
      ({ s with commit := none }).fail c.mbx st
    | .done =>
      let s := { s with commit := none }
      if c.rollback then
        (s.raiseDev 0x8202 (pack [b4 c.version.toNat, b4 c.prev.toNat])).ok c.mbx (b4 c.version.toNat)
      else (s.raiseDev 0x8201 (pack [b4 c.version.toNat, b4 c.prev.toNat])).ok c.mbx []

/-! ### The other commands -/

/-- The code of a slot's state in CFG_LIST. -/
def CfgState.code : CfgState → Nat
  | .free => 0 | .staged => 1 | .current => 2 | .history => 3

/-- KIND of a journal record (R440). -/
def JournalKind.code : JournalKind → Nat
  | .prepare => 1 | .seal => 2 | .done => 3 | .abandon => 4

/-- A slot's entry in CFG_LIST. -/
def CfgSlot.entry (c : CfgSlot) : Bytes :=
  if c.state == .free then zeros 16
  else b4 c.version.toNat ++ b1 c.state.code ++ zeros 3 ++ b4 c.image.length ++ zeros 4

/-- What R423 checks of CFG_LIST. -/
def specCfgList : CmdSpec := .plain 0x204

/-- CFG_LIST. -/
def execCfgList (m : Fin 64) (s : State) : Answer :=
  .next (s.runCmd m specCfgList (fun _ t =>
    let f := t.flash
    let kind := (f.journal.getLast?.map (fun r => r.kind.code)).getD 0
    t.ok m (pack [b4 (kind * 2 ^ 29 + f.journalCnt), f.cfg.toList.flatMap CfgSlot.entry])))

/-- Sizes of CFG_READ's parameters. -/
def cfgReadSizes : List Nat := [4, 4, 8]

/-- What R423 checks of CFG_READ. -/
def specCfgRead : CmdSpec := CmdSpec.ctl 0x205 cfgReadSizes (fun pg => if domainOk (par cfgReadSizes pg 2) then none else some 0x48)

/-- CFG_READ. -/
def execCfgRead (m : Fin 64) (ok : Bool) (s : State) : Answer :=
  .next (s.runCmd m specCfgRead (fun pg t =>
    match t.slotOf (par cfgReadSizes pg 0) with
    | none => t.fail m stTarget
    | some (_, c) =>
      let off := par cfgReadSizes pg 1
      if c.image.length ≤ off then t.respond m stParam 0x44 []
      else if par cfgReadSizes pg 2 = 0 then
        let d := (c.image.drop off).take 3968
        t.ok m (padTo 0x40 (b4 d.length) ++ d)
      else match t.hostWrite m (BitVec.ofNat 64 (par cfgReadSizes pg 2)) (c.image.drop off) ok with
        | some t => t.ok m (b4 (c.image.length - off))
        | none => t.fail m stRemote))

/-- What R423 checks of CFG_DISCARD. -/
def specCfgDiscard : CmdSpec := .ctl 0x206 [4] (fun _ => none)

/-- CFG_DISCARD. -/
def execCfgDiscard (m : Fin 64) (s : State) : Answer :=
  .next (s.runCmd m specCfgDiscard (fun pg t =>
    if (t.commit.map (·.version.toNat)) = some (le pg 0x40 4) then t.fail m stBusy
    else match t.slotOf (le pg 0x40 4) with
      | none => t.fail m stTarget
      | some (k, c) =>
        if c.state != .staged then t.fail m stState
        else if t.flash.ops.any (fun o => match o with
            | .cfgStage _ _ _ _ => true
            | .cfgFree _ _ => true
            | _ => false) then t.fail m stBusy
        else (t.flashOp (.cfgFree m k)).background m))

end Sys2Proof.Machine
end

