-- ==== Sys2Proof/Machine/Qps.lean ====
section
/-! DEFINITION. Queue pairs and the network commands: NET_PORT_CONFIG to NET_MGMT_CONFIG; errors and destruction of queue
pairs (R379, R380, R383 to R386, R389 to R391, R402, R405 to R408, R480, R525; log 24, log 34). -/

namespace Sys2Proof.Machine

/-! ### Errors and destruction -/

/-- The rings of a partition are disabled; `kept` says that they stay its own (R525; log 39, 41). -/
def State.cutRings (s : State) (p : Nat) (kept : Bool) : State :=
  (List.range 16).foldl (fun t n =>
    let r := t.ring n
    if r.owner.toNat = p then t.cutRing n (if kept then { Ring.cold with owner := r.owner } else Ring.cold) else t) s

/-- Step 7 of R525 once the response of a PART_RESET is complete: queue pairs destroyed, a new EPOCH, rings disabled. -/
def State.finishReset (s : State) (m : Fin 64) : State :=
  match s.parts.find? (fun (q : Nat × Partition) => q.2.resetting == some (m, true)) with
  | none => s
  | some (p, q) =>
    let (e, s) := s.newEpoch q.epoch
    let mine := s.qps.filter (fun (x : Nat × Qp) => x.2.owner == p)
    let lost := mine.flatMap (fun (x : Nat × Qp) => x.2.out.filterMap (fun o => match o.use with
      | .response k => some k
      | _ => none))
    let s := { s with qps := s.qps.filter (fun (x : Nat × Qp) => x.2.owner != p),
                      deadQps := s.deadQps ++ mine.map (fun (x : Nat × Qp) => BitVec.ofNat 24 x.1) }
    let s := s.cutRings p true
    let s := s.setPart p { q with epoch := e, resetting := none }
    let s := lost.foldl (fun t k => t.respLost k) s
    s.deviceNumber.idleBoundary p

/-- A PART_RESET whose command has ended under R419 goes on with step 7 of R525. -/
def State.resetAfter (s : State) (m : Fin 64) : State := if (s.mail m).busy then s else s.finishReset m

/-- As `resetAfter`, for every partition whose PART_RESET has been answered. -/
def State.endResets (s : State) : State :=
  s.parts.foldl (fun t v => match v.2.resetting with
    | some (m, true) => t.resetAfter m
    | _ => t) s

/-- The response copy of a command has been written: R419 goes on, and so does the reset it answers. -/
def State.responseSent (s : State) (m : Fin 64) : State := (s.finishCmd m).resetAfter m

/-- The response copy of a command will not be acknowledged (R419). -/
def State.responseGone (s : State) (m : Fin 64) : State := (s.respLost m).resetAfter m

/-- What a queue pair still had to send is given up: responses go on without their copy; transfers wait for the remote
timeout (R216, R389). -/
def State.dropOut (s : State) (qpn : Nat) : State :=
  match s.qp? qpn with
  | none => s
  | some q =>
    let s := s.setQp qpn { q with out := [] }
    q.out.foldl (fun t o => match o.use with
      | .response k => t.responseGone k
      | _ => t) s

/-- Mirroring to a peer ends with its control queue pair (R480). -/
def State.mirrorsLost (s : State) (peer : BitVec 13) (qpn : Nat) : State :=
  let hit := s.streams.filter (fun (x : Nat × Stream) => x.2.mirrorSide.map (·.peer) == some peer)
  hit.foldl (fun t (x : Nat × Stream) =>
    let t := t.setStream x.1 { t.stream x.1 with mirror := false, mirrorSide := none }
    let t := t.raiseStream 0x8509 x.1 (pack [b2 peer.toNat, b4 qpn])
    let t := match x.2.openMbx with
      | some m =>
        if x.2.state = .opening then t
        else (t.setStream x.1 { t.stream x.1 with openMbx := none }).ok m (b4 x.2.handle.toNat)
      | none => t
    match x.2.mirrorSide.bind (·.waiting) with
    | some m => t.fail m stTarget
    | none => t) s

/-- A queue pair goes to the error state (R389). -/
def State.qpError (s : State) (qpn : Nat) : State :=
  match s.qp? qpn with
  | none => s
  | some q =>
    if q.state != .connected then s
    else
      let s := s.setQp qpn { q with state := .error }
      let s := s.raise 0x8704 (if q.owner < 16 then q.owner else 0xFF) 0 0
        (pack [b4 qpn, b4 q.acked.toNat, b2 q.peer.toNat, b1 q.owner])
      let s := s.dropOut qpn
      (if q.owner = 16 then s.mirrorsLost q.peer qpn else s).deviceNumber

/-- A queue pair is destroyed (R405); `kept` says that requests for it are still answered by NAK (R408). -/
def State.destroyQp (s : State) (qpn : Nat) (kept : Bool) : State :=
  match s.qp? qpn with
  | none => s
  | some q =>
    let s := s.dropOut qpn
    let s := { s with qps := tabDel s.qps qpn, deadQps := if kept then s.deadQps ++ [BitVec.ofNat 24 qpn] else s.deadQps }
    (if q.owner = 16 && q.state == .connected then s.mirrorsLost q.peer qpn else s).deviceNumber

/-- Every ring that a queue pair serves writes what waits (R427). -/
def State.drainRings (s : State) (qpn : Nat) : State :=
  ((List.range 16).foldl (fun t n =>
    let r := t.ring n
    if r.enabled && r.qpn.toNat == qpn then t.drainRing r.waiting.length n else t) s).endResets

/-! ### The commands -/

/-- Sizes of NET_PORT_CONFIG's parameters. -/
def netPortConfigSizes : List Nat := [1, 8]

/-- What R423 checks of NET_PORT_CONFIG. -/
def specNetPortConfig : CmdSpec := CmdSpec.ctl 0x701 netPortConfigSizes (fun pg =>
    let w := par netPortConfigSizes pg 1
    if par netPortConfigSizes pg 0 > 3 then some 0x40
    else if bits w 62 2 = 3 || bits w 48 5 ≠ 0 || bits w 32 16 = 0 || bits w 0 32 ≠ 0 then some 0x48 else none)

/-- NET_PORT_CONFIG: an image of R407; the links retrain, so they go down until they come up (R406). -/
def execNetPortConfig (m : Fin 64) (s : State) : Answer :=
  .next (s.runCmd m specNetPortConfig (fun pg t =>
    let p := par netPortConfigSizes pg 0
    let t := t.modPort p (fun x => { x with ctl := BitVec.ofNat 64 (par netPortConfigSizes pg 1) })
    let t := (List.range 4).foldl (fun u k => (u.macDown (4 * p + k) 0).modMac (4 * p + k) (fun x => { x with degraded := 0 })) t
    t.ok m []))

/-- Sizes of NET_ADDR_SET's parameters. -/
def netAddrSetSizes : List Nat := [1, 1, 1, 2, 4, 4, 16, 16]

/-- What R423 checks of NET_ADDR_SET. -/
def specNetAddrSet : CmdSpec := CmdSpec.ctl 0x702 netAddrSetSizes (fun pg =>
    let v := par netAddrSetSizes pg
    if v 0 > 15 then some 0x40 else if v 1 > 32 then some 0x41 else if v 2 > 128 then some 0x42
    else if v 3 > 4095 then some 0x44 else none)

/-- NET_ADDR_SET (R380). -/
def execNetAddrSet (m : Fin 64) (s : State) : Answer :=
  .next (s.runCmd m specNetAddrSet (fun pg t =>
    let v := par netAddrSetSizes pg
    (t.modMac (v 0) (fun x => { x with
      vlan := BitVec.ofNat 16 (v 3), prefix4 := BitVec.ofNat 8 (v 1), prefix6 := BitVec.ofNat 8 (v 2),
      ip4 := BitVec.ofNat 32 (v 4), gw4 := BitVec.ofNat 32 (v 5), ip6 := BitVec.ofNat 128 (v 6),
      gw6 := BitVec.ofNat 128 (v 7) })).ok m []))

/-- A queue pair number for a new queue pair: a free choice where it is free (R383, log 3). -/
def State.newQpn (s : State) : Option Nat × State :=
  let (k, s) := s.free
  let cand := 2 + k % 65536
  if (s.qp? cand).isNone then (some cand, s)
  else (((List.range 65536).map (· + 2)).find? (fun n => (s.qp? n).isNone), s)

/-- Sizes of NET_QP_CREATE's parameters. -/
def netQpCreateSizes : List Nat := [1, 1, 8]

/-- What R423 checks of NET_QP_CREATE. -/
def specNetQpCreate : CmdSpec := CmdSpec.shared 0x703 netQpCreateSizes (fun _ o pg => par netQpCreateSizes pg 0 == o) (fun pg =>
    if par netQpCreateSizes pg 0 > 16 then some 0x40 else if par netQpCreateSizes pg 1 > 15 then some 0x41 else none)

/-- NET_QP_CREATE (R384, R386). -/
def execNetQpCreate (m : Fin 64) (s : State) : Answer :=
  .next (s.runCmd m specNetQpCreate (fun pg t =>
    let owner := par netQpCreateSizes pg 0
    let mac := par netQpCreateSizes pg 1
    let boxes := BitVec.ofNat 64 (par netQpCreateSizes pg 2)
    let boxesOk := (List.range 64).all (fun k => !boxes.getLsbD k || (t.mail k).owner.toNat == owner)
    let part := t.part? owner
    let macOk := owner == 16 || (part.map (fun q => q.macs.getLsbD mac)).getD false
    let quota := (part.map (·.qpQuota)).getD 65536
    let used := (t.qps.filter (fun (x : Nat × Qp) => x.2.owner == owner)).length
    if !macOk || !boxesOk then t.fail m stTarget
    else if (part.map (fun q => !q.settled)).getD false then t.fail m stBusy
    else if quota ≤ used then t.fail m stNoResource
    else match t.newQpn with
      | (none, t) => t.fail m stNoResource
      | (some n, t) =>
        let q : Qp := { owner := owner, mac := Fin.ofNat 16 mac, mailboxes := boxes, state := .created, peer := 0, host := false,
                        mtu := 5, tmo := 6, retry := 7, retriesLeft := 7, remoteQpn := 0, sqNext := 0, acked := 0xFFFFFF,
                        rqNext := 0, remoteKey := 0, vaBase := 0, remoteIp := 0, out := [], timer := 0, rc := 0, rt := 0, alpha := 0,
                        rounds := 0, alphaFrom := 0, incFrom := 0, lastCnpSent := none, refuse := false }
        let t := { t.setQp n q with deadQps := t.deadQps.filter (fun d => d.toNat != n) }
        let mk := rKey 2 owner t.mbxEpoch
        match part with
        | some x => t.ok m (pack [b4 n, b4 (rKey 1 owner x.epoch).toNat, b4 mk.toNat, b4 (rKey 3 owner x.epoch).toNat])
        | none =>
          let (f, t) := t.free
          t.ok m (pack [b4 n, b4 (rKey 4 0 t.mirrorEpoch).toNat, b4 mk.toNat, b4 f])))

/-- A queue pair named by a partition's mailbox is the partition's. -/
def ownQp (s : State) (o : Nat) (pg : Bytes) : Bool :=
  match s.qp? (le pg 0x40 4) with
  | some q => q.owner == o
  | none => true

/-- A rate in Mb/s in FP32. -/
def rateWord (n : Nat) : W32 := BitVec.ofNat 32 (toFp32 false (.ofInt n)).code

/-- Sizes of NET_QP_CONNECT's parameters. -/
def connectSizes : List Nat := [4, 2, 1, 1, 1, 1, 4, 4, 4, 4, 8, 16]

/-- The first faulty field of NET_QP_CONNECT. -/
def connectRange (pg : Bytes) : Option Nat :=
  let v := par connectSizes pg
  let off := fun i => (fieldOffs connectSizes).getD i 0
  if v 1 > 8191 then some (off 1)
  else if v 2 > 1 then some (off 2)
  else if v 3 < 1 || v 3 > 5 then some (off 3)
  else if v 4 < 1 || v 4 > 20 then some (off 4)
  else if v 5 > 7 then some (off 5)
  else if v 6 ≥ 2 ^ 24 then some (off 6)
  else if v 7 ≥ 2 ^ 24 then some (off 7)
  else if v 8 ≥ 2 ^ 24 then some (off 8)
  else none

/-- What R423 checks of NET_QP_CONNECT. -/
def specNetQpConnect : CmdSpec := .shared 0x704 connectSizes ownQp connectRange

/-- NET_QP_CONNECT (R384, R389, R390). -/
def execNetQpConnect (m : Fin 64) (s : State) : Answer :=
  .next (s.runCmd m specNetQpConnect (fun pg t =>
    let v := par connectSizes pg
    match t.qp? (v 0) with
    | none => t.fail m stTarget
    | some q =>
      if v 1 = t.dev.deviceNo.toNat || (t.qpFor q.owner (v 1)).isSome then t.fail m stTarget
      else if q.state == .connected then t.fail m stState
      else if ((t.part? q.owner).map (fun x => !x.settled)).getD false then t.fail m stBusy
      else
        let r := rateWord (t.lineMbps q.mac.val)
        let q' := { q with state := .connected, peer := BitVec.ofNat 13 (v 1), host := v 2 == 1, mtu := v 3, tmo := v 4,
                           retry := v 5, retriesLeft := v 5, remoteQpn := BitVec.ofNat 24 (v 6),
                           sqNext := BitVec.ofNat 24 (v 7), acked := BitVec.ofNat 24 (v 7) - 1,
                           rqNext := BitVec.ofNat 24 (v 8), remoteKey := BitVec.ofNat 32 (v 9),
                           vaBase := BitVec.ofNat 64 (v 10), remoteIp := BitVec.ofNat 128 (v 11),
                           out := [], rc := r, rt := r, alpha := 0x3F800000, rounds := 0, alphaFrom := s.now, incFrom := s.now,
                           lastCnpSent := none }
        (((t.setQp (v 0) q').needHop q.mac.val q'.remoteIp).drainRings (v 0)).ok m []))

/-- What R423 checks of NET_QP_DESTROY. -/
def specNetQpDestroy : CmdSpec := .shared 0x705 [4] ownQp (fun _ => none)

/-- NET_QP_DESTROY (R405). -/
def execNetQpDestroy (m : Fin 64) (s : State) : Answer :=
  .next (s.runCmd m specNetQpDestroy (fun pg t =>
    match t.qp? (le pg 0x40 4) with
    | none => t.fail m stTarget
    | some _ => (t.destroyQp (le pg 0x40 4) false).ok m []))

/-- The code of a queue pair's state. -/
def QpState.code : QpState → Nat
  | .created => 0 | .connected => 1 | .error => 2

/-- What R423 checks of NET_QP_QUERY. -/
def specNetQpQuery : CmdSpec := .shared 0x706 [4] ownQp (fun _ => none)

/-- NET_QP_QUERY. -/
def execNetQpQuery (m : Fin 64) (s : State) : Answer :=
  .next (s.runCmd m specNetQpQuery (fun pg t =>
    match t.qp? (le pg 0x40 4) with
    | none => t.fail m stTarget
    | some q =>
      let rate := (toIntRange 0 (2 ^ 32 - 1) (fp32F.decode q.rc.toNat)).1.toNat
      t.ok m (pack [b1 q.state.code, b4 q.sqNext.toNat, b4 q.acked.toNat, b4 rate, b4 q.alpha.toNat])))

/-- Sizes of NET_CC_CONFIG's parameters. -/
def ccSizes : List Nat := [1, 1, 1, 2, 2, 2, 2, 2, 4, 4]

/-- The first faulty field of NET_CC_CONFIG (R390, R391). -/
def ccRange (pg : Bytes) : Option Nat :=
  let v := par ccSizes pg
  let off := fun i => (fieldOffs ccSizes).getD i 0
  let lim : List (Nat × Nat × Nat) :=
    [(0, 0, 16), (1, 1, 8), (2, 0, 15), (3, 1, 1000), (4, 1, 1000), (5, 1, 1000), (6, 1, 10000), (7, 10, 10000)]
  match lim.find? (fun (l : Nat × Nat × Nat) => v l.1 < l.2.1 || l.2.2 < v l.1) with
  | some l => some (off l.1)
  | none =>
    if (parB ccSizes pg 8).any (fun b => b.toNat ≥ 64) then some (off 8)
    else if (parB ccSizes pg 9).any (fun b => b.toNat ≥ 8) then some (off 9)
    else none

/-- What R423 checks of NET_CC_CONFIG. -/
def specNetCcConfig : CmdSpec := .ctl 0x707 ccSizes ccRange

/-- NET_CC_CONFIG. -/
def execNetCcConfig (m : Fin 64) (s : State) : Answer :=
  .next (s.runCmd m specNetCcConfig (fun pg t =>
    let v := par ccSizes pg
    ({ t with cc := tabPut t.cc (v 0) ⟨v 1, v 2, v 3, v 4, v 5, v 6, v 7, BitVec.ofNat 32 (v 8), BitVec.ofNat 32 (v 9)⟩ }).ok m []))

/-- Sizes of NET_MGMT_CONFIG's parameters. -/
def mgmtSizes : List Nat := [1, 1, 2, 4, 16, 384]

/-- The first faulty field of NET_MGMT_CONFIG (R402). -/
def mgmtRange (pg : Bytes) : Option Nat :=
  let v := par mgmtSizes pg
  let base := (fieldOffs mgmtSizes).getD 5 0
  if v 0 > 32 then some 0x40
  else if v 1 > 128 then some 0x41
  else if v 2 = 0 then some 0x42
  else (List.range 16).findSome? (fun k =>
    let o := base + 24 * k
    if le pg (o + 16) 1 > 128 then some (o + 16) else firstNonzero pg (o + 17) 7)

/-- What R423 checks of NET_MGMT_CONFIG. -/
def specNetMgmtConfig : CmdSpec := .ctl 0x708 mgmtSizes mgmtRange

/-- NET_MGMT_CONFIG: an allow entry of zeros names no prefix (log 24). -/
def execNetMgmtConfig (m : Fin 64) (s : State) : Answer :=
  .next (s.runCmd m specNetMgmtConfig (fun pg t =>
    let v := par mgmtSizes pg
    let raw := parB mgmtSizes pg 5
    let entry := fun k => slice raw (24 * k) 24
    let list := (List.range 16).filterMap (fun k =>
      if (entry k).all (· == 0) then none
      else some (BitVec.ofNat 128 (le (entry k) 0 16), le (entry k) 16 1))
    ({ t with mgmt := { t.mgmt with prefix4 := BitVec.ofNat 8 (v 0), prefix6 := BitVec.ofNat 8 (v 1),
                                    udpPort := BitVec.ofNat 16 (v 2),
                                    ip4 := BitVec.ofNat 32 (v 3), ip6 := BitVec.ofNat 128 (v 4), allow := some list } }).ok m []))

end Sys2Proof.Machine
end

