-- ==== Sys2Proof/Machine/PartCmds.lean ====
section
/-! DEFINITION. The life of a partition: PART_CREATE to PART_QUERY, EXTENT_ZEROING_DONE, SCRATCH_RELOAD_DONE
(R59, R268, R314 to R316, R339, R341, R386, R408, R422, R433, R447, R455, R524, R525; log 11, log 33). -/

namespace Sys2Proof.Machine

/-! ### PART_CREATE -/

/-- Sizes of PART_CREATE's parameters. -/
def createSizes : List Nat := [1, 1, 1, 2, 2, 4, 4, 4, 64, 64]

/-- Where an extent parameter lies in the page. -/
def extOff (lp : Bool) (k : Nat) : Nat := (fieldOffs createSizes).getD (if lp then 9 else 8) 0 + 8 * k

/-- An extent of the command page. -/
def extAt (pg : Bytes) (lp : Bool) (k : Nat) : Extent :=
  let w := le pg (extOff lp k) 8
  ⟨bits w 48 16, bits w 30 18 * gib⟩

/-- An extent keeps to R314: whole GiB, in one quadrant's usable range (R305, R311). -/
def extOk (pg : Bytes) (lp : Bool) (k : Nat) : Bool :=
  let e := extAt pg lp k
  let base := if lp then lpBase else 0
  let span := if lp then 0x4000000000 else 0x5A00000000
  let o := e.addr - base
  bits (le pg (extOff lp k) 8) 0 30 == 0 && 1 ≤ e.gib && base ≤ e.addr && o / span < 4
    && o % span + e.gib * gib ≤ span

/-- The extents of one tier that a page names. -/
def extsOf (pg : Bytes) (lp : Bool) : List Extent := (List.range (par createSizes pg (if lp then 2 else 1))).map (extAt pg lp)

/-- Two extents overlap. -/
def Extent.meets (a b : Extent) : Bool :=
  decide (a.addr < b.addr + b.gib * Machine.gib ∧ b.addr < a.addr + a.gib * Machine.gib)

/-- The first extent that overlaps an earlier one of its tier. -/
def ownOverlap (pg : Bytes) (lp : Bool) : Option Nat :=
  (List.range (extsOf pg lp).length).findSome? (fun k =>
    if (List.range k).any (fun j => (extAt pg lp j).meets (extAt pg lp k)) then some (extOff lp k) else none)

/-- The first faulty field of PART_CREATE; of extent entries beyond the counts only the reserved bits are read (R20, log 30). -/
def createRange (pg : Bytes) : Option Nat :=
  let v := par createSizes pg
  let bad := fun (lp : Bool) => (List.range (v (if lp then 2 else 1))).findSome? (fun k =>
    if extOk pg lp k then none else some (extOff lp k))
  let spare := fun (lp : Bool) => (List.range 8).findSome? (fun k =>
    if bits (le pg (extOff lp k) 8) 0 30 == 0 then none else some (extOff lp k))
  if v 0 > 15 then some 0x40
  else if v 1 < 1 || v 1 > 8 then some 0x41
  else if v 2 > 8 then some 0x42
  else (((((bad false).or (spare false)).or (bad true)).or (spare true)).or (ownOverlap pg false)).or (ownOverlap pg true)

/-- Bytes of a list of extents. -/
def extBytes (xs : List Extent) : Nat := xs.foldl (fun t x => t + x.gib * gib) 0

/-- The extents of a partition that is not being destroyed. -/
def Partition.held (q : Partition) : List Extent :=
  match q.zeroing with
  | some (.destroy _) => []
  | _ => q.hbm ++ q.lp

/-- A spare block of an engaged remap entry lies in an extent: it is not allocatable (R313). -/
def State.meetsSpare (s : State) (x : Extent) : Bool :=
  s.quads.any (fun q => q.2.blocks.any (fun v => decide (x.addr < 0x4000000 * v.2 + 0x4000000 ∧ 0x4000000 * v.2 < x.addr + x.gib * gib)))

/-- LPDDR5X of each quadrant that remap entries leave allocatable (R313). -/
def State.lpRoom (s : State) (new : List Extent) : Bool :=
  (List.range 4).all (fun q =>
    let here := fun (x : Extent) => lpBase ≤ x.addr && (x.addr - lpBase) / 0x4000000000 == q
    let used := s.parts.foldl (fun t (p : Nat × Partition) => t + ((p.2.held.filter here).map (·.gib)).sum) 0
      + ((new.filter here).map (·.gib)).sum
    used * 16 + (s.quad q).blocks.length ≤ 4096)

/-- The smallest page slot of any image (R248, R260). -/
def minSlot : Nat := 20480

/-- A partition at its creation. -/
def newPartition (pg : Bytes) (m : Fin 64) (sect : Bytes) : Partition :=
  let v := par createSizes pg
  { hbm := extsOf pg false, lp := extsOf pg true, macs := BitVec.ofNat 16 (v 3), audPorts := BitVec.ofNat 16 (v 4),
    qpQuota := v 5, kvHbm := [], kvLp := [], kvHbmSlots := v 6, kvLpSlots := v 7, kvSlotBytes := 0, kvAll := [], epoch := 0,
    scaleTable := 0, directory := 0, outArea := 0, outLen := 0, scoreArea := 0, scoreLen := 0, statsArea := 0, statsLen := 0,
    sect := sect, nextSect := none, img0 := .none, img1 := .none, lastImage := none, pastRings := [], stepNo := 0,
    step := none, intervals := [], overAdmitted := false, noAdmit := false, zeroing := some (.create m),
    resetting := none, seeing := none, places := [], moves := [], tierCmds := [], unitWaits := [], rebuild := [] }

/-- A commit under way changes the partition (R455). -/
def State.commitChanges (s : State) (p : Nat) : Bool := (s.commit.map (fun c => c.changed.any (fun k => k.val == p))).getD false

/-- What R423 checks of PART_CREATE. -/
def specPartCreate : CmdSpec := .ctl 0x301 createSizes createRange

/-- PART_CREATE: the extents are taken and zeroed where they are not known zero (R314, R315). -/
def execPartCreate (m : Fin 64) (s : State) : Answer :=
  .next (s.runCmd m specPartCreate (fun pg t =>
    let v := par createSizes pg
    let p := v 0
    let mine := extsOf pg false ++ extsOf pg true
    let sect := t.currentCfg.bind (fun c => sectOf c.image 2 p)
    if t.commitChanges p || ((t.part? p).map (fun q => !q.settled)).getD false then t.fail m stBusy
    else match t.part? p, sect with
      | none, some sect =>
        let taken := t.parts.any (fun (q : Nat × Partition) => q.2.held.any (fun a => mine.any (fun b => a.meets b)))
          || mine.any t.meetsSpare
        let small := extBytes (extsOf pg false) < 8192 + 131072 + v 6 * minSlot || extBytes (extsOf pg true) < v 7 * minSlot
        let clustersFree := (clustersOf sect).all (fun c => (t.clusterOwner c).isNone)
        if taken || small || !t.lpRoom (extsOf pg true) || !clustersFree then t.fail m stNoResource
        else (t.setPart p (newPartition pg m sect)).background m
      | _, _ => t.fail m stState))

/-! ### Zeroing (R315, R316) -/

/-- The GiB numbers of a list of extents. -/
def gibsOf (xs : List Extent) : List Nat := xs.flatMap (fun x => (List.range x.gib).map (fun k => x.addr / gib + k))

/-- Extents are zeroed, or those GiB of them not known zero. -/
def State.zeroGibs (s : State) (gs : List Nat) : State := gs.foldl (fun t g => t.zero (g * gib) gib) s

/-- A core after a partition reset, or as it comes to a partition: registers by their reset columns, clocks kept (R14, R43). -/
def Core.partReset (c : Core) : Core :=
  { c.afterReset false 0 with settling := c.settling, limLimit := c.limLimit, thermHalf := c.thermHalf, segOn := c.segOn }

/-- The SRAM of a partition's clusters and cores is zeroed (R316). -/
def State.zeroScratch (s : State) (sect : Bytes) : State :=
  (clustersOf sect).foldl (fun t cl =>
    let t := t.zero (clusterWin cl) 0x800000
    (List.range 32).foldl (fun u k =>
      (u.zero (coreWin (32 * cl + k)) 0x90000).modCore (32 * cl + k) Core.partReset) t) s

/-- What zeroing a new partition's extents ends in: they are no longer known zero, and it has a new EPOCH, another than
the last of its number (R386). -/
def State.zeroNew (s : State) (p : Nat) (q : Partition) : BitVec 24 × State :=
  let gs := gibsOf (q.hbm ++ q.lp)
  let s := s.zeroGibs (gs.filter (fun g => !s.knownZero.contains g))
  let (e, s) := ({ s with knownZero := s.knownZero.filter (fun g => !gs.contains g) } : State).newEpoch
    (tabGet s.lastEpochs 0 p)
  (e, s.setPart p { q with zeroing := none, epoch := e })

/-- The partition exists: its areas are placed, its clusters are its own, a new EPOCH and its keys are returned. -/
def State.created (s : State) (p : Nat) (m : Fin 64) : State :=
  match s.part? p with
  | none => s
  | some q =>
    let (e, s) := s.zeroNew p q
    match s.alloc p 4096 8192 with
    | none => s.fail m stNoResource
    | some (tab, s) =>
      match s.alloc p 4096 131072 with
      | none => s.fail m stNoResource
      | some (dir, s) =>
        let s := s.modPart p (fun x => { x with scaleTable := tab, directory := dir })
        let s := (clustersOf q.sect).foldl (fun t c => t.setCluster c
          { t.cluster c with owner := some (Fin.ofNat 16 p), fixed := le q.sect 2 1 == 1 }) (s.zeroScratch q.sect)
        s.ok m (pack [b8 tab, b8 dir, b4 (rKey 1 p e).toNat, b4 (rKey 3 p e).toNat])

/-- The partition is gone: its extents are known zero. -/
def State.destroyed (s : State) (p : Nat) (m : Fin 64) : State :=
  match s.part? p with
  | none => s
  | some q =>
    let gs := gibsOf (q.hbm ++ q.lp)
    let s := s.zeroGibs gs
    let s := { s with knownZero := s.knownZero.filter (fun g => !gs.contains g) ++ gs, parts := tabDel s.parts p,
                      lastEpochs := tabPut s.lastEpochs p q.epoch }
    s.ok m []

/-- EXTENT_ZEROING_DONE: a creation waits while a destroyed partition's extents that it takes are zeroed (R341). -/
def execExtentZeroingDone (p : Fin 16) (s : State) : Answer :=
  .next (match s.part? p.val with
    | none => s
    | some q =>
      match q.zeroing with
      | some (.create m) =>
        let wait := s.parts.any (fun (o : Nat × Partition) => match o.2.zeroing with
          | some (.destroy _) => (o.2.hbm ++ o.2.lp).any (fun a => (q.hbm ++ q.lp).any (fun b => a.meets b))
          | _ => false)
        if wait then s else s.created p.val m
      | some (.destroy m) => s.destroyed p.val m
      | none => s)

/-! ### What destruction and reset share -/

/-- A partial image is discarded with its event (R447). -/
def State.discardLoad (s : State) (p : Nat) (o : ImageSlot) (status : Nat) : State :=
  if o.state == .loading then s.raisePart 0x8402 p (pack [b2 status, slice o.digest 0 24]) else s

/-- Slots that are LOADING become EMPTY. -/
def State.abortLoads (s : State) (p : Nat) : State :=
  match s.part? p with
  | none => s
  | some q =>
    [false, true].foldl (fun t b =>
      if (q.img b).state == .loading then (t.discardLoad p (q.img b) stAborted).emptySlot p b else t) s

/-- Contexts stop, the step in progress is dropped with its uncommitted state and unreleased outputs, its work slices become
zero (R316, R525). -/
def State.dropStep (s : State) (p : Nat) : State :=
  let s := match (s.part? p).bind (·.step) with
    | some r => s.zero r.sliceBase (48 * r.list.length)
    | none => s
  let s := (s.liveContexts p).foldl (fun t x => t.stopContext x.1 x.2 .idle) s
  let s := { s with ctxs := s.ctxs.filter (fun (x : Nat × Context) => x.2.part.val != p) }
  s.modPart p (fun q => { q with step := none, stepNo := if q.step.isSome then q.stepNo + 1 else q.stepNo })

/-- An AST entry after a partition reset: zero but for its generation (R59). -/
def Stream.wiped (x : Stream) : Stream :=
  { Stream.empty with gen := x.gen, handle := BitVec.ofNat 32 (x.gen.toNat * 2 ^ 14), closedOrder := x.closedOrder }

/-- Every stream of the partition is closed and its entries are zeroed. -/
def State.wipeStreams (s : State) (p : Nat) : State :=
  let s := (s.openStreams p).foldl (fun t x => t.closeStream x.1 false) s
  { s with streams := s.streams.map (fun (x : Nat × Stream) => if x.2.part.val = p then (x.1, x.2.wiped) else x) }

/-! ### PART_DESTROY -/

/-- A command that names a partition at 0x40, for the partition's own mailboxes too. -/
def CmdSpec.partition (code : Nat) (sizes : List Nat) (range : Bytes → Option Nat) : CmdSpec :=
  .shared code sizes (fun _ o pg => le pg 0x40 1 == o) (fun pg => if le pg 0x40 1 > 15 then some 0x40 else range pg)

/-- The partition's archive records become zero: the rings of its open streams and those of its closed ones, as far as no other
stream's ring has taken their place (R316). -/
def State.zeroArchive (s : State) (p : Nat) : State :=
  let s := (s.openStreams p).foldl (fun t x => match t.archHeld.find? (fun h => h.1 == x.2.archAddr) with
    | some h => t.zero h.1 h.2
    | none => t) s
  (((s.part? p).map (·.pastRings)).getD []).foldl (fun t h =>
    (List.range (h.2 / 256)).foldl (fun u k => if clearOf u.archHeld (h.1 + 256 * k) 256 then u.zero (h.1 + 256 * k) 256 else u) t) s

/-- The audio rings of the groups whose ports the partition holds become zero, with the intake buffers (R316, R393). -/
def State.zeroAudio (s : State) (p : Nat) : State :=
  (List.range 16).foldl (fun t g =>
    if t.groupOwner g = p then (t.zero (inRing g) 0x8000).zero (outRing g) 0x84000 else t) s

/-- The partition's parts are taken down before its extents are zeroed (R316, R433, R447). -/
def State.takeDown (s : State) (p : Nat) (m : Fin 64) : State :=
  match s.part? p with
  | none => s
  | some q =>
    let s := ((((s.abortLoads p).dropStep p).zeroArchive p).zeroAudio p).wipeStreams p
    let waits := ((s.part? p).map (fun x => x.unitWaits.filter (fun u => u.test.isNone))).getD []
    let mine := (s.qps.filter (fun (x : Nat × Qp) => x.2.owner == p)).map (·.1)
    let s := mine.foldl (fun t n => t.destroyQp n true) s
    let s := s.cutRings p false
    let s := { s with mbx := s.mbx.map (fun (x : Nat × Mailbox) =>
                        if x.2.owner.toNat = p then (x.1, { x.2 with owner := 31 }) else x) }
    let mineCl := (clustersOf q.sect).filter (fun c => s.clusterOwner c == some (Fin.ofNat 16 p))
    let s := s.zeroScratch q.sect
    let s := mineCl.foldl (fun t c =>
      let t := t.setCluster c { t.cluster c with owner := none, banksOn := 0, fixed := true }
      (List.range 32).foldl (fun u k => u.modCore (32 * c + k) (fun x => { x with segOn := 0 })) t) s
    let s := (s.setPart p { q with zeroing := some (.destroy m), img0 := .none, img1 := .none, lastImage := none, pastRings := [], step := none, moves := [],
                                   tierCmds := [], unitWaits := [], rebuild := [], seeing := none, nextSect := none }).syncServing
    waits.foldl (fun t u => t.applyWait p u) s

/-- What R423 checks of PART_DESTROY. -/
def specPartDestroy : CmdSpec := .ctl 0x302 [1] (fun pg => if le pg 0x40 1 > 15 then some 0x40 else none)

/-- PART_DESTROY. -/
def execPartDestroy (m : Fin 64) (s : State) : Answer :=
  .next (s.runCmd m specPartDestroy (fun pg t =>
    let p := le pg 0x40 1
    match t.part? p with
    | none => t.fail m stState
    | some q =>
      if !q.settled || t.commitChanges p then t.fail m stBusy else (t.takeDown p m).background m))

/-! ### PART_RESET (R525) -/

/-- What R423 checks of PART_RESET. -/
def specPartReset : CmdSpec := .partition 0x303 [1] (fun _ => none)

/-- PART_RESET, up to the reload of its scratch. -/
def execPartReset (m : Fin 64) (s : State) : Answer :=
  .next (s.runCmd m specPartReset (fun pg t =>
    let p := le pg 0x40 1
    match t.part? p with
    | none => t.fail m stState
    | some q =>
      if !q.settled then t.fail m stBusy
      else
        let t := t.modPart p (fun x => { x with resetting := some (m, false) })
        let t := { t with dev := { t.dev with partResets := satAdd t.dev.partResets 1 } }
        let t := (((t.abortLoads p).dropStep p).zeroAudio p).wipeStreams p
        let t := { t with qps := t.qps.map (fun (x : Nat × Qp) => if x.2.owner = p then (x.1, { x.2 with refuse := true }) else x) }
        let t := t.modPart p (fun x => { x with kvHbm := (x.kvAll.filter (fun v => !v.1)).map (·.2),
                                                kvLp := (x.kvAll.filter (·.1)).map (·.2), moves := [] })
        ((t.writeScaleTable p).zeroScratch q.sect).background m))

/-- The records that wait before the completion record of a command in its ring are written first (R427). -/
def State.clearRing (s : State) (m : Fin 64) : State :=
  let pg := (s.mail m).copy
  let n := le pg 6 1
  if bit (le pg 2 2) 0 then s.drainRing (s.ring n).waiting.length n else s

/-- SCRATCH_RELOAD_DONE: code and weights are written again, the response goes out, and where no copy of it is under way the
reset ends (R525 steps 5 to 7). -/
def execScratchReloadDone (p : Fin 16) (s : State) : Answer :=
  .next (match (s.part? p.val).bind (·.resetting) with
    | some (m, false) =>
      let s := (s.installCode p.val).modPart p.val (fun x => { x with resetting := some (m, true) })
      ((s.clearRing m).ok m []).resetAfter m
    | _ => s)

/-! ### PART_QUERY -/

/-- What R423 checks of PART_QUERY. -/
def specPartQuery : CmdSpec := .partition 0x304 [1] (fun _ => none)

/-- PART_QUERY. -/
def execPartQuery (m : Fin 64) (s : State) : Answer :=
  .next (s.runCmd m specPartQuery (fun pg t =>
    let p := le pg 0x40 1
    match t.live? p with
    | none => t.ok m (pack [b1 0, b2 0, b1 0, b8 0, zeros 64])
    | some q =>
      let dig := ((q.served?).map (·.digest)).getD (zeros 64)
      t.ok m (pack [b1 (if q.served?.isSome then 2 else 1), b2 (t.openStreams p).length, b1 (flag q.overAdmitted),
        b8 q.stepNo.toNat, padTo 64 dig])))

end Sys2Proof.Machine
end

