-- ==== Sys2Proof/Machine/Models.lean ====
section
/-! DEFINITION. Model images: the rules an image must keep, MODEL_LOAD, MODEL_UNLOAD and MODEL_QUERY
(R52, R74, R191, R226, R230, R233, R234, R248, R269, R278, R279, R282, R287, R288, R444 to R447; log 10). -/

namespace Sys2Proof

/-! ### The rules of an image -/

/-- A stateful operator keeps to R226. -/
def StateOp.inRange : StateOp → Bool
  | .xr c n _ _ _ => 1 ≤ c && 2 ≤ n && n ≤ 256
  | .dr c _ _ _ => 1 ≤ c
  | .sc c k d _ => 1 ≤ c && 2 ≤ k && k ≤ 64 && 1 ≤ d && d ≤ 256
  | .fh _ o => o ≤ 4096
  | .rn mu sg => mu.length == sg.length

/-- λ of the operator is negative (R226). -/
def StateOp.negative : StateOp → Bool
  | .xr _ _ _ _ b => b
  | .dr _ _ _ b => b
  | _ => false

/-- A residue with FP32 state (R234). -/
def StateOp.residue32 : StateOp → Bool
  | .xr _ _ .fp32 r _ => r
  | .dr _ .fp32 r _ => r
  | _ => false

/-- Attention keeps to R248; `ringDevices` is 0 where a shard holds the whole sequence and no set of devices is declared. -/
def AttnDecl.inRange (a : AttnDecl) : Bool :=
  64 ≤ a.headDim && a.headDim ≤ 256 && a.headDim % 32 == 0 && 1 ≤ a.groupHeads && a.groupHeads ≤ 16
    && 1 ≤ a.kvHeads && a.kvHeads ≤ 64 && 1 ≤ a.layers && a.layers ≤ 128
    && 1 ≤ a.seqTokens && a.seqTokens ≤ 1048576
    && 256 ≤ a.shardTokens && a.shardTokens ≤ 1048576 && a.shardTokens % 256 == 0
    && ((a.ringDevices == 0 && a.seqTokens ≤ a.shardTokens) || (2 ≤ a.ringDevices && a.ringDevices ≤ 256))
    && a.buckets.length ≤ 16 && a.adapterLayers.all (· < a.layers)

/-- Values rise strictly. -/
def rising : List Nat → Bool
  | a :: b :: r => decide (a < b) && rising (b :: r)
  | _ => true

/-- Buckets keep to R269. -/
def AttnDecl.bucketsOk (a : AttnDecl) : Bool :=
  a.buckets.isEmpty || (rising a.buckets && a.buckets.all (fun b => b % 256 == 0 && 0 < b)
    && decide (a.maxContext ≤ a.buckets.getLast?.getD 0))

/-- The output size of an axis (R279, R288). -/
def AxisDecl.outSize (x : AxisDecl) : Nat :=
  if x.transposed then (x.size - 1) * x.stride + x.dilation * (x.taps - 1) + 1 + x.outPad - (x.padLo + x.padHi)
  else (x.size + x.padLo + x.padHi - (x.dilation * (x.taps - 1) + 1)) / max 1 x.stride + 1

/-- One axis keeps to R278; `size` is the largest plane size, of the input and of the output. -/
def AxisDecl.inRange (x : AxisDecl) (size : Nat) : Bool :=
  1 ≤ x.size && x.size ≤ size && x.outSize ≤ size && 1 ≤ x.taps && x.taps ≤ 64 && 1 ≤ x.dilation && x.dilation ≤ 256
    && (if x.transposed then 2 ≤ x.stride && x.stride ≤ 16 && x.outPad < x.stride else 1 ≤ x.stride && x.stride ≤ 16)
    && x.padLo ≤ 255 && x.padHi ≤ 255
    && (!x.pool || (x.taps ≤ 16 && x.dilation == 1 && x.padLo < x.taps && x.padHi < x.taps))
    && [1, 2, 4, 8].contains x.regroup

/-- The output size of an axis is at least 1 (R279, R288). -/
def AxisDecl.outputs (x : AxisDecl) : Bool :=
  if x.transposed then
    decide (x.padLo + x.padHi < (x.size - 1) * x.stride + x.dilation * (x.taps - 1) + 1 + x.outPad)
  else decide (x.dilation * (x.taps - 1) + 1 ≤ x.size + x.padLo + x.padHi)

/-- A regrouped axis has the factor as its stride and a multiple of it as p_lo (R287). -/
def AxisDecl.regrouped (x : AxisDecl) : Bool :=
  x.regroup ≤ 1 || (x.stride == x.regroup && x.padLo % x.regroup == 0)

/-- The time positions of left context that a streaming operator's SC section holds (R282, R288). -/
def AxisDecl.leftContext (x : AxisDecl) : Nat :=
  let span := x.dilation * (x.taps - 1)
  if x.transposed then (span + x.stride) / max 1 x.stride - 1 else span

/-- A streaming time axis is causal: p_lo is what reads the left context; a transposed axis crops nothing (DEDUCED, log 10). -/
def AxisDecl.causal (x : AxisDecl) : Bool :=
  x.padHi == 0 && x.padLo == (if x.transposed then 0 else x.dilation * (x.taps - 1))

/-- What a streaming operator's SC section must be: its positions, its channels (R282). -/
def WindowDecl.needs (w : WindowDecl) : Nat × Nat := (w.time.leftContext, w.chIn * w.freq.size)

/-- An SC section serves a need; that of an operator which is not transposed has its k and d too (R226, R282). -/
def StateOp.serves (w : WindowDecl) : StateOp → Bool
  | .sc c k d _ => (d * (k - 1), c) == w.needs && (w.time.transposed || (k == w.time.taps && d == w.time.dilation))
  | _ => false

/-- Each streaming operator has an SC section of its own, where it has left context at all. -/
def historyFits (ops : List StateOp) (windows : List WindowDecl) : Bool :=
  let ws := windows.filter (fun w => w.streaming && w.time.leftContext != 0)
  ws.all (fun w => decide ((ws.filter (fun v => v.needs == w.needs && v.time.transposed == w.time.transposed
    && v.time.taps == w.time.taps && v.time.dilation == w.time.dilation)).length ≤ (ops.filter (StateOp.serves w)).length))

/-- A sliding-window operator keeps to R278, R279, R282, R287 and R288; answers the rule it breaks. -/
def WindowDecl.broken (w : WindowDecl) (chunkFrames : Nat) : Option Nat :=
  if !(1 ≤ w.chIn && w.chIn ≤ 4096 && 1 ≤ w.chOut && w.chOut ≤ 4096 && 1 ≤ w.groups && w.groups ≤ w.chIn
      && w.chIn % max 1 w.groups == 0 && w.chOut % max 1 w.groups == 0
      && w.time.inRange 65536 && w.freq.inRange 4096 && w.time.taps * w.freq.taps ≤ 1024) then some 278
  else if !(w.time.outputs && w.freq.outputs) then some 279
  else if w.streaming && !w.time.causal then some 282
  else if !(w.time.regrouped && w.freq.regrouped) || (w.streaming && chunkFrames % max 1 w.time.regroup != 0) then some 287
  else none

/-- The first rule of MODEL_LOAD that an image breaks. -/
def ImageInfo.broken (im : ImageInfo) : Option Nat :=
  if im.ops.any StateOp.negative || !im.ops.all StateOp.inRange then some 226
  else if !(1 ≤ im.chunkFrames && im.chunkFrames ≤ 128) then some 230
  else if im.stochasticState || im.nonSatState then some 233
  else if im.ops.any StateOp.residue32 then some 234
  else if !(([2, 4, 8, 16, 32] : List Nat).contains im.groupCores) || im.passSet.isEmpty || im.passSet.eraseDups.length ≠ im.passSet.length then
    some 74
  else if 2 ^ 20 < im.program.length then some 191
  else if !((im.attn.map AttnDecl.inRange).getD true) then some 248
  else if !((im.attn.map AttnDecl.bucketsOk).getD true) then some 269
  else (im.windows.findSome? (fun w => w.broken im.chunkFrames)).or
    (if historyFits im.ops im.windows then none else some 282)

end Sys2Proof

namespace Sys2Proof.Machine

/-! ### MODEL_LOAD -/

/-- Sizes of MODEL_LOAD's parameters. -/
def loadSizes : List Nat := [1, 1, 8, 4, 8, 8, 64]
def loadOff (i : Nat) : Nat := (fieldOffs loadSizes).getD i 0

/-- The first faulty field of MODEL_LOAD. -/
def loadRange (pg : Bytes) : Option Nat :=
  let v := par loadSizes pg
  if v 1 > 1 then some 0x41
  else if v 3 < 1 || v 3 > 2 ^ 28 then some (loadOff 3)
  else if !domainOk (v 5) then some (loadOff 5)
  else none

/-- The CURRENT or STAGED version names a digest for a partition. -/
def State.namesImage (s : State) (p : Nat) (dig : Bytes) : Bool :=
  let names := fun (c : CfgSlot) => ((sectOf c.image 2 p).map (fun b => secDigest b == dig)).getD false
  (s.currentCfg.map names).getD false || (s.stagedCfg.map names).getD false

/-- The slot that a segment at OFFSET 0 takes (R444); `none` where none can be taken. -/
def State.loadSlot (s : State) (p : Nat) (q : Partition) (dig : Bytes) (restart : Bool) : Option Bool :=
  let order := [false, true]
  ((order.find? (fun b => (q.img b).state == .loading && (q.img b).digest == dig)).or
    (order.find? (fun b => (q.img b).state == .empty))).or
    ((order.find? (fun b => (q.img b).state == .loaded && !s.namesImage p (q.img b).digest)).or
      (order.find? (fun b => (q.img b).state == .loading && restart)))

/-- The rule that keeps a complete image from being LOADED: status and DETAIL (R446). -/
def State.imageStops (s : State) (p : Nat) (q : Partition) (o : ImageSlot) (im : ImageInfo) : Option (Nat × Nat) :=
  if shake256 64 o.bytes != o.digest then some (stDigest, 0)
  else match im.broken with
    | some r => some (stImage, r)
    | none => if q.image?.isNone && !s.streamsFit p q.l im then some (stImage, 52) else none

/-- A slot that has received its whole image (R446). -/
def State.imageComplete (s : State) (m : Fin 64) (p : Nat) (second : Bool) (im : ImageInfo) : State :=
  match s.part? p with
  | none => s
  | some q =>
    let o := q.img second
    match s.imageStops p q o im with
    | some (st, d) => ((s.discardLoad p o st).emptySlot p second).respond m st d []
    | none =>
      let now := q.image?.isNone && ((secDigest q.sect).all (· == 0) || secDigest q.sect == o.digest)
      let s := s.setPart p (q.setImg second { o with state := .loaded, info := some im })
      let s := if now then s.goInService p second else s.repower p
      s.ok m (pack [b8 o.total, b1 (if now then 3 else 2)])

/-- The slot that a segment at OFFSET 0 begins anew: what it held is discarded, the copy's area is allocated (R314, R444);
`none` where the extents have no room. -/
def State.beginLoad (s : State) (p : Nat) (second : Bool) (total : Nat) (dig : Bytes) : Option State :=
  match s.part? p with
  | none => none
  | some q =>
    let s := ((s.discardLoad p (q.img second) stAborted).emptySlot p second).repower p
    (s.alloc p 4096 (max 1 total)).map (fun v =>
      v.2.modPart p (fun u => u.setImg second ⟨.loading, 0, total, dig, [], none, v.1⟩))

/-- A segment is read and written to its slot's copy; a first one begins it. -/
def State.loadSegment (s : State) (m : Fin 64) (pg : Bytes) (p : Nat) (second : Bool)
    (host : Option Bytes) (im : ImageInfo) : State :=
  let v := par loadSizes pg
  let n := v 3
  match host with
  | none => s.fail m stRemote
  | some bs =>
    if bs.length ≠ n || !s.hostReach m (BitVec.ofNat 64 (v 5)) then s.fail m stRemote
    else
      match if v 2 = 0 then s.beginLoad p second (v 4) (parB loadSizes pg 6) else some s with
      | none => s.fail m stNoResource
      | some s =>
        match s.part? p with
        | none => s
        | some q =>
          let o := q.img second
          let o := { o with received := o.received + n, bytes := o.bytes ++ bs }
          let s := (s.writeRaw (o.area + v 2) bs).setPart p (q.setImg second o)
          if o.received = o.total then s.imageComplete m p second im else s.ok m (pack [b8 o.received, b1 1])

/-- What R423 checks of MODEL_LOAD. -/
def specModelLoad : CmdSpec := .partition 0x401 loadSizes loadRange

/-- MODEL_LOAD (R444 to R446). -/
def execModelLoad (m : Fin 64) (host : Option Bytes) (image : ImageInfo) (s : State) : Answer :=
  .next (s.runCmd m specModelLoad (fun pg t =>
    let v := par loadSizes pg
    let p := v 0
    let off := v 2
    let n := v 3
    let restart := bit (v 1) 0
    let dig := parB loadSizes pg 6
    match t.live? p with
    | none => t.fail m stState
    | some q =>
      let mine := [false, true].find? (fun b => (q.img b).state == .loading && (q.img b).digest == dig)
      let got := (mine.map (fun b => (q.img b).received)).getD 0
      if !q.settled then t.fail m stBusy
      else if mine.isSome && off < got && !(off = 0 && restart) then t.ok m (pack [b8 got, b1 1])
      else if off ≠ 0 then
        match mine with
        | none => t.respond m stParam (loadOff 2) []
        | some b =>
          let o := q.img b
          if off ≠ got then t.respond m stParam (loadOff 2) []
          else if v 4 ≠ o.total then t.respond m stParam (loadOff 4) []
          else if o.total < got + n then t.respond m stParam (loadOff 3) []
          else t.loadSegment m pg p b host image
      else match t.loadSlot p q dig restart with
        | none => t.fail m (if [q.img0, q.img1].any (fun o => o.state == .loading) then stBusy else stState)
        | some b =>
          if v 4 < n then t.respond m stParam (loadOff 3) []
          else t.loadSegment m pg p b host image))

/-- What R423 checks of MODEL_UNLOAD. -/
def specModelUnload : CmdSpec := .partition 0x402 [1, 64] (fun _ => none)

/-- MODEL_UNLOAD. -/
def execModelUnload (m : Fin 64) (s : State) : Answer :=
  .next (s.runCmd m specModelUnload (fun pg t =>
    let p := le pg 0x40 1
    let dig := parB [1, 64] pg 1
    match t.live? p with
    | none => t.fail m stState
    | some q =>
      if !q.settled then t.fail m stBusy
      else match [false, true].find? (fun b => (q.img b).state != .empty && (q.img b).digest == dig) with
        | none => t.fail m stTarget
        | some b =>
          if (q.img b).state == .inService || t.namesImage p dig then t.fail m stState
          else (((t.discardLoad p (q.img b) stAborted).emptySlot p b).repower p).ok m []))

/-- The code of a slot's state. -/
def ImageState.code : ImageState → Nat
  | .empty => 0 | .loading => 1 | .loaded => 2 | .inService => 3

/-- A slot as MODEL_QUERY shows it. -/
def ImageSlot.fields (o : ImageSlot) : List Bytes := [b1 o.state.code, b8 o.received, b8 o.total, padTo 64 o.digest]

/-- What R423 checks of MODEL_QUERY. -/
def specModelQuery : CmdSpec := .partition 0x403 [1] (fun _ => none)

/-- MODEL_QUERY. -/
def execModelQuery (m : Fin 64) (s : State) : Answer :=
  .next (s.runCmd m specModelQuery (fun pg t =>
    match t.live? (le pg 0x40 1) with
    | none => t.fail m stState
    | some q => t.ok m (pack (q.img0.fields ++ q.img1.fields))))

end Sys2Proof.Machine
end

