-- ==== Sys2Proof/Machine/StreamCmds.lean ====
section
/-! DEFINITION. The stream commands: STREAM_OPEN to STREAM_MIRROR, STATE_BUFFERS_READY and MIRROR_STATE_SEND
(R52, R56, R57, R60 to R63, R67, R69, R73, R81, R83, R235, R238, R261, R354, R371, R392, R393, R422, R439, R463, R470,
R476 to R480, R540; log 15, log 26). -/

namespace Sys2Proof.Machine

/-! ### STREAM_OPEN: the page -/

/-- Sizes of STREAM_OPEN's parameters. -/
def openSizes : List Nat := [1, 1, 2, 4, 8, 8, 8, 128]
def openOff (i : Nat) : Nat := (fieldOffs openSizes).getD i 0

/-- Bits of a SOURCE or SINK word that its kind does not use (R392). -/
def spareBits (w : Nat) (sink : Bool) : Nat :=
  match bits w 60 4 with
  | 0 => bits w 0 60
  | 1 => bits w 48 8
  | 2 => bits w 48 3 + bits w 0 32 + (if sink then 0 else bits w 32 16)
  | 3 => bits w 57 3 + bits w 0 44
  | _ => 0

/-- A SOURCE or SINK word keeps to R392: fields not listed are zero, a pair starts at an even slot, the delay is in range. -/
def wordOk (w : Nat) (sink : Bool) : Bool :=
  spareBits w sink == 0 && (bits w 60 4 != 2 ||
    (!(bit w 51 && bit w 52) && (!sink || (64 ≤ bits w 32 16 && bits w 32 16 ≤ 4000))))

/-- The first faulty field of a binding, as its offset within the entry; of fields that the kinds do not use only reserved
encodings are read (R20, R393; log 15). -/
def bindingFault (b : Bytes) (src snk : Nat) : Option Nat :=
  let v := fun off n => le b off n
  let rtpIn : List (Bool × Nat) := if src = 1 then
      [(within (v 5 1) 1 2, 5), (within (v 8 2) 10 5000, 8)] else []
  let rtpOut : List (Bool × Nat) := if snk = 1 then
      [(within (v 7 1) 1 2, 7), (within (v 0xA 2) 1 4096, 0xA), (within (v 0x14 4) 8000 192000, 0x14)] else []
  let ring : List (Bool × Nat) := if snk = 3 then
      [(powTwoIn (v 0x48 4) 2 65536, 0x48), (v 0x4C 4 % 64 == 0 && within (v 0x4C 4) 64 1048576, 0x4C)] else []
  let always : List (Bool × Nat) := [(v 0 2 < 8, 0), (v 2 1 ≤ 127, 2), (v 3 1 ≤ 127, 3), (v 4 1 ≤ 1, 4), (v 5 1 ≤ 2, 5),
    (v 6 1 ≤ 1, 6), (v 7 1 ≤ 2, 7), (v 0x18 1 < 64, 0x18), (zeroField b 0x19 7, 0x19), (domainOk (v 0x40 8), 0x40),
    (domainOk (v 0x50 8), 0x50), (zeroField b 0x58 40, 0x58)]
  (failing (always ++ rtpIn ++ rtpOut ++ ring)).head?

/-- The first faulty field of STREAM_OPEN. -/
def openRange (pg : Bytes) : Option Nat :=
  let v := par openSizes pg
  if v 0 > 15 then some (openOff 0)
  else if v 1 > 2 then some (openOff 1)
  else if v 2 > 1 then some (openOff 2)
  else if v 3 ≥ 2 ^ 24 then some (openOff 3)
  else if !wordOk (v 4) false then some (openOff 4)
  else if !wordOk (v 5) true then some (openOff 5)
  else (bindingFault (parB openSizes pg 7) (bits (v 4) 60 4) (bits (v 5) 60 4)).map (openOff 7 + ·)

/-! ### Bindings (R354, R371, R392, R393, R540) -/

/-- The slots that an audio SOURCE or SINK names. -/
def audSlots (w : W64) : List Nat := if audPair w then [audSlot w, audSlot w + 1] else [audSlot w]

/-- A word names what the partition's port share holds (R392, R54): a MAC, an audio port of the right direction, or another
endpoint. -/
def State.inShare (s : State) (q : Partition) (w : W64) (sink : Bool) : Bool :=
  match kindOf w with
  | 0 => true
  | 1 => q.macs.getLsbD (rtpMac w)
  | 2 => (audSlots w).all (fun k => match s.slotPort (audGroup w) k with
      | some n => q.audPorts.getLsbD n && (s.aport n).isOutput == sink
      | none => false)
  | 3 => ringPeer w != s.dev.deviceNo.toNat
  | _ => false

/-- Channel counts agree with the image (R540). -/
def channelsFit (im : ImageInfo) (src snk : W64) (b : Bytes) : Bool :=
  (match kindOf src with
   | 1 => bndChannelsIn b == im.chIn
   | 2 => (audSlots src).length == im.chIn
   | _ => true)
  && (match kindOf snk with
   | 1 => bndChannelsOut b == im.chOut
   | 2 => (audSlots snk).length == im.chOut
   | _ => true)

/-- The sink slots serve no other stream. -/
def State.slotsFree (s : State) (snk : W64) (i : Option Nat) : Bool :=
  kindOf snk != 2 || (audSlots snk).all (fun k => match ((s.group (audGroup snk)).slot k).stream with
    | some j => some j.val == i
    | none => true)

/-- What R354 asks of an audio sink, and a host ring's own addresses of its PEER. -/
def State.sinkFits (s : State) (im : ImageInfo) (snk : W64) (rate : Nat) (b : Bytes) : Bool :=
  match kindOf snk with
  | 2 => im.sameCount && (s.group (audGroup snk)).rateHz == rate && s.slotsFree snk none
  | 3 => bndRingAddr b / 2 ^ 51 == ringPeer snk && bndConsAddr b / 2 ^ 51 == ringPeer snk
  | _ => true

/-- The slots of a stream's audio sink are bound; idle channels of a running port start; an idle heliostat of a master group
is set to the sink slot (R354, R363, R371). -/
def State.bindSlots (s : State) (i : Nat) : State :=
  let x := s.stream i
  if x.sinkKind ≠ 2 then s
  else
    let g := audGroup x.sink
    let a := s.group g
    let idle := a.master && ((a.slot a.steerSlot).stream).isNone
    let s := if idle then s.modGroup g (fun y =>
        let h := setBits (setBits y.helio 42 4 (audSlot x.sink)) 29 13 (audDelay x.sink)
        let y := { y with helio := h, integ := if y.steerSlot = audSlot x.sink then y.integ else 0 }
        if s.groupRuns g then y else y.latchSlot)
      else s
    let stops := fun (k : Nat) => ((s.slotPort g k).map (fun n => (s.aport n).stopPend.isSome)).getD false
    (audSlots x.sink).foldl (fun t k =>
      let run := t.slotRuns g k
      t.modSlot g k (fun y =>
        let bypass := y.mode != 0
        let y := { y with stream := some (Fin.ofNat 16384 i), newest := none, good := 0 }
        if stops k then { y with prog := bypass }
        else if y.on && y.prog == bypass then y
        else y.requestIf run a.rampFrames .start none (fun z => { z with on := true, prog := bypass }))) s

/-! ### Admission and places -/

/-- The test of R67, R69, R439 and R470 for one more stream of a class. -/
def State.mayAdmit (s : State) (p : Nat) (q : Partition) (im : ImageInfo) (cls : Nat) : Bool :=
  let nv := s.countClass p 0 + flag (cls == 0)
  let no := s.countClass p 1 + flag (cls == 1)
  let staged := match s.stagedCfg.bind (fun c => sectOf c.image 2 p) with
    | some b => ((q.imageUnder b).map (fun j => admits b j nv no)).getD true
    | none => true
  !q.noAdmit && (cls == 2 || (!q.overAdmitted && admits q.sect im nv no && passFits q.sect im && staged))

/-- The entry that is taken: the CLOSED one closed longest, a free choice among those never opened (R57, log 3). -/
def State.pickEntry (s : State) : Option Nat × State :=
  let (k, s) := s.free
  let i := k % 16384
  let closed := fun (j : Nat) => decide ((s.stream j).state = .closed)
  if closed i && (s.stream i).closedOrder = 0 then (some i, s)
  else
    let better := fun (a : Option Nat) (j : Nat) =>
      if !closed j then a
      else match a with
        | none => some j
        | some b => if (s.stream j).closedOrder < (s.stream b).closedOrder then some j else a
    ((List.range 16384).foldl better none, s)

/-- The next generation of an entry (R57). -/
def nextGen (g : BitVec 18) : BitVec 18 := if g.toNat = 262143 then 1 else g + 1

/-- State buffers, archive ring and page table of a stream to open; `none` where one cannot be placed (R235, R261, R463). -/
def State.placeStream (s : State) (p i : Nat) (im : ImageInfo) : Option State :=
  match s.alloc p 4096 (2 * im.stateUnits * 4096) with
  | none => none
  | some (a, s) =>
    match s.allocArch (16 * im.slotBytes) with
    | none => none
    | some (r, s) =>
      let s := s.modStream i (fun x => { x with stateAddr := BitVec.ofNat 48 a, archAddr := r })
      match im.attn with
      | some d => s.makeTable p i d
      | none => some s

/-- An entry as STREAM_OPEN leaves it (R58). -/
def openEntry (old : Stream) (i : Nat) (pg : Bytes) (q : Partition) (im : ImageInfo) (m : Option (Fin 64)) : Stream :=
  let v := par openSizes pg
  let b := parB openSizes pg 7
  let g := nextGen old.gen
  { Stream.empty with
    state := .opening, cls := Fin.ofNat 3 (v 1), orphanHold := q.policyHold, mirror := bit (v 2) 0,
    part := Fin.ofNat 16 (v 0), gen := g, handle := BitVec.ofNat 32 (g.toNat * 2 ^ 14 + i),
    stateUnits := BitVec.ofNat 16 im.stateUnits, resCluster := 63, sampleRate := BitVec.ofNat 24 (v 3),
    releasedSeq := 0xFFFFFFFF, source := BitVec.ofNat 64 (v 4), sink := BitVec.ofNat 64 (v 5),
    hostTag := BitVec.ofNat 64 (v 6), binding := b, openMbx := m,
    intake := { Stream.empty.intake with ssrc := BitVec.ofNat 32 (rtpSsrc (BitVec.ofNat 64 (v 4))) },
    outlet := { Stream.empty.outlet with seq := BitVec.ofNat 16 (le b 0xE 2) } }

/-- Buffer 0 is written as a fresh image, buffer 1 as zero, the binding into its table (R238, R393). -/
def State.writeOpening (s : State) (i : Nat) (im : ImageInfo) : State :=
  let x := s.stream i
  let a := x.stateAddr.toNat
  let s := s.zero a (2 * x.stateUnits.toNat * 4096)
  let s := s.writeRaw a (im.freshState x.handle.toNat 0 0)
  s.writeRaw (bindingTable + 128 * i) x.binding

/-! ### Mirroring, the source side (R476 to R480) -/

/-- Mirror bytes per second of a stream as a fraction: (numerator, denominator) (R478). -/
def mirrorRate (x : Stream) (q : Partition) (im : ImageInfo) : Nat × Nat :=
  ((x.stateUnits.toNat * 4096 + 15 * im.slotBytes) * 1000000000, 15 * max 1 q.w)

/-- Mirror traffic of the device with one more stream stays within 50 GB/s (R478). -/
def State.mirrorFits (s : State) (i : Nat) : Bool :=
  let mine := (s.streams.filter (fun (x : Nat × Stream) => x.2.mirrorSide.isSome && x.1 != i)).map (·.2) ++ [s.stream i]
  let sum := mine.foldl (fun (t : Nat × Nat) x =>
    match s.part? x.part.val with
    | some q =>
      match q.image? with
      | some im =>
        let r := mirrorRate x q im
        (t.1 * r.2 + r.1 * t.2, t.2 * r.2)
      | none => t
    | none => t) (0, 1)
  decide (sum.1 ≤ 50000000000 * sum.2)

/-- The peer is asked for a shadow of a stream (R476, R477), unless the shadow that it would make is beyond the budget of R478: a
command rejected for that leaves none (R21). -/
def State.askShadow (s : State) (i : Nat) (peer : Nat) (reply : PeerReply) : State :=
  let x := s.stream i
  let dig := (((s.part? x.part.val).bind (·.served?)).map (·.digest)).getD []
  match reply, s.mirrorFits i with
  | .shadowReady _, false => s
  | _, _ => s.sendMirror peer (.create x.handle dig x.cls x.source x.sink x.hostTag x.sampleRate x.binding)

/-- What a mirror request answers: a shadow, or the status of R476. -/
def State.mirrorAnswer (s : State) (i : Nat) (reply : PeerReply) : Except Nat (BitVec 32) :=
  match reply with
  | .noImage => .error stTarget
  | .admissionDenied => .error stAdmission
  | .shadowReady h => if s.mirrorFits i then .ok h else .error stNoResource

/-- STREAM_OPEN's response, once the stream is ACTIVE and a shadow that it asked for holds its first image (R61, R476). -/
def State.answerOpen (s : State) (i : Nat) : State :=
  let x := s.stream i
  match x.openMbx with
  | some m =>
    if x.state = .opening || (x.mirrorSide.map (fun v => !v.imageSent)).getD false then s
    else (s.setStream i { x with openMbx := none }).ok m (b4 x.handle.toNat)
  | none => s

/-- The shadow holds its first complete image (R476). -/
def State.mirrorReady (s : State) (i : Nat) : State :=
  let x := s.stream i
  match x.mirrorSide with
  | none => s
  | some v =>
    let s := (s.setStream i { x with mirrorSide := some { v with imageSent := true, waiting := none } }).answerOpen i
    match v.waiting with
    | some m => s.ok m []
    | none => s

/-! ### STREAM_OPEN -/

/-- The checks of R61 after R423, as status and DETAIL. -/
def State.openFault (s : State) (p : Nat) (q : Partition) (im : ImageInfo) (pg : Bytes) : Option (Nat × Nat) :=
  let v := par openSizes pg
  let src := BitVec.ofNat 64 (v 4)
  let snk := BitVec.ofNat 64 (v 5)
  let b := parB openSizes pg 7
  let peer := q.mirrorPeer
  if !im.tokens && !framesFit im q.l (v 3) then some (stParam, openOff 3)
  else if !(s.inShare q src false && s.inShare q snk true && channelsFit im src snk b && s.sinkFits im snk (v 3) b) then
    some (stTarget, 0)
  else if bit (v 2) 0 && (peer = 0xFFFF || (s.qpFor 16 peer).isNone) then some (stTarget, 0)
  else if secQuota q.sect ≤ (s.openStreams p).length then some (stNoEntry, 0)
  else if !s.mayAdmit p q im (v 1) then some (stAdmission, 0)
  else none

/-- The stream takes its entry, its places and bindings; with MIRROR the peer is asked first. -/
def State.openStream (s : State) (m : Fin 64) (p : Nat) (q : Partition) (im : ImageInfo) (pg : Bytes) (reply : PeerReply) :
    State :=
  match s.pickEntry with
  | (none, s) => s.fail m stNoEntry
  | (some i, s) =>
    let old := s.stream i
    let x := openEntry old i pg q im (some m)
    match (s.setStream i x).placeStream p i im with
    | none => s.fail m stNoResource
    | some t =>
      if x.mirror then
        let t := t.askShadow i q.mirrorPeer reply
        match t.mirrorAnswer i reply with
        | .error st =>
          let addr := (t.stream i).stateAddr.toNat
          let arch := (t.stream i).archAddr
          let u := (t.dropTable p i).release p addr
          let u : State := { u with archHeld := u.archHeld.filter (fun h => h.1 != arch) }
          (u.setStream i old).fail m st
        | .ok h =>
          let t := t.modStream i (fun y => { y with mirrorSide := some ⟨BitVec.ofNat 13 q.mirrorPeer, h, false, none⟩ })
          ((t.writeOpening i im).bindSlots i).background m
      else ((t.writeOpening i im).bindSlots i).background m

/-- What R423 checks of STREAM_OPEN. -/
def specStreamOpen : CmdSpec := .shared 0x501 openSizes (fun _ o pg => le pg 0x40 1 == o) openRange

/-- STREAM_OPEN (R57, R61). -/
def execStreamOpen (m : Fin 64) (peer : PeerReply) (s : State) : Answer :=
  .next (s.runCmd m specStreamOpen (fun pg t =>
    let p := le pg 0x40 1
    match t.live? p with
    | none => t.fail m stTarget
    | some q =>
      if !q.settled then t.fail m stBusy
      else match q.image? with
        | none => t.fail m stState
        | some im =>
          match t.openFault p q im pg with
          | some (st, d) => t.respond m st d []
          | none => t.openStream m p q im pg peer))

/-- STATE_BUFFERS_READY: both buffers have reached HBM3E and the stream becomes ACTIVE (R60, R61, R238); its stall time runs
from here until a first sample comes (DESIGN CHOICE, log 42). -/
def execStateBuffersReady (i : Fin 16384) (s : State) : Answer :=
  let x := s.stream i.val
  if x.state = .opening then
    .next ((s.setStream i.val { x with state := .active, lastSample := s.now, lastDone := s.now }).answerOpen i.val)
  else .next s

/-! ### The other commands -/

/-- A command runs in the background on the stream (R422). -/
def State.streamBusy (s : State) (i : Nat) : Bool :=
  let x := s.stream i
  x.openMbx.isSome || x.closeReq || x.migrate.isSome || (x.mirrorSide.bind (·.waiting)).isSome
    || (s.part? x.part.val).any (fun q => !q.settled || q.tierCmds.any (fun c => c.stream.val == i))

/-- What R423 checks of STREAM_CLOSE. -/
def specStreamClose : CmdSpec := .stream 0x502 [4] (fun _ => none)

/-- STREAM_CLOSE (R63): at the end of the partition's current step; the shards of a sharded sequence are told at once (R276). -/
def execStreamClose (m : Fin 64) (s : State) : Answer :=
  .next (s.runCmd m specStreamClose (fun pg t =>
    let i := le pg 0x40 4 % 2 ^ 14
    let x := t.stream i
    if x.state = .closed || x.state = .orphaned then t.fail m stState
    else if t.streamBusy i then t.fail m stBusy
    else (((t.setStream i { x with closeReq := true, closeMbx := x.closeMbx ++ [m] }).endShards i).background m).settle x.part.val))

/-- What R423 checks of STREAM_DRAIN. -/
def specStreamDrain : CmdSpec := .stream 0x503 [4] (fun _ => none)

/-- STREAM_DRAIN (R63, R409): acceptance stops at the next chunk boundary; the shards of a sharded sequence are told (R274). -/
def execStreamDrain (m : Fin 64) (s : State) : Answer :=
  .next (s.runCmd m specStreamDrain (fun pg t =>
    let i := le pg 0x40 4 % 2 ^ 14
    let x := t.stream i
    if x.state = .closed || x.state = .orphaned then t.fail m stState
    else if t.streamBusy i || !x.drainMbx.isEmpty then t.fail m stBusy
    else
      let n := t.nextChunkSamples x
      let stop := if x.state = .draining then x.intake.stopAt
        else if x.presentIn n = 0 then none else some (x.sampleCount.toNat + n)
      let y := { x with drain := true, state := .draining, drainMbx := [m], intake := { x.intake with stopAt := stop } }
      (((t.setStream i y).endShards i).background m).settle x.part.val))

/-- What R423 checks of STREAM_MIGRATE. -/
def specStreamMigrate : CmdSpec := .stream 0x504 [4, 2] (fun _ => none)

/-- STREAM_MIGRATE (R73): checked and applied at the next step start. -/
def execStreamMigrate (m : Fin 64) (s : State) : Answer :=
  .next (s.runCmd m specStreamMigrate (fun pg t =>
    let i := le pg 0x40 4 % 2 ^ 14
    let x := t.stream i
    if x.state = .closed then t.fail m stState
    else if t.streamBusy i || !x.drainMbx.isEmpty then t.fail m stBusy
    else ((t.setStream i { x with migrate := some (le pg 0x44 2, m) }).background m).idleBoundary x.part.val))

/-- What R423 checks of STREAM_ADOPT. -/
def specStreamAdopt : CmdSpec := .stream 0x505 [4] (fun _ => none)

/-- STREAM_ADOPT (R81, R83, R479): the stream resumes at the next step start; a shadow's bindings take effect. -/
def execStreamAdopt (m : Fin 64) (s : State) : Answer :=
  .next (s.runCmd m specStreamAdopt (fun pg t =>
    let i := le pg 0x40 4 % 2 ^ 14
    let x := t.stream i
    if x.state ≠ .orphaned then t.fail m stState
    else if t.streamBusy i then t.fail m stBusy
    else match x.shadow with
      | none => (t.setStream i { x with orphanHold := false, resume := true }).ok m []
      | some h =>
        if !t.slotsFree x.sink (some i) then t.fail m stTarget
        else
          let y := { x with orphanHold := false, resume := true, faultCode := 0, mirror := false,
                            shadow := some { h with adopted := true } }
          (((t.setStream i y).writeRaw (bindingTable + 128 * i) y.binding).bindSlots i).ok m []))

/-- What R423 checks of STREAM_QUERY. -/
def specStreamQuery : CmdSpec := .stream 0x506 [4] (fun _ => none)

/-- STREAM_QUERY: the AST entry (R58). -/
def execStreamQuery (m : Fin 64) (s : State) : Answer :=
  .next (s.runCmd m specStreamQuery (fun pg t =>
    let x := t.stream (le pg 0x40 4 % 2 ^ 14)
    t.ok m (x.image (t.stepOf x.part.val))))

/-- What R423 checks of STREAM_MIRROR. -/
def specStreamMirror : CmdSpec := CmdSpec.stream 0x507 [4, 2, 1] (fun pg =>
    if le pg 0x44 2 > 8191 then some 0x44 else if le pg 0x46 1 > 1 then some 0x46 else none)

/-- STREAM_MIRROR (R476, R480). -/
def execStreamMirror (m : Fin 64) (peer : PeerReply) (s : State) : Answer :=
  .next (s.runCmd m specStreamMirror (fun pg t =>
    let i := le pg 0x40 4 % 2 ^ 14
    let x := t.stream i
    let to' := le pg 0x44 2
    if x.state = .closed then t.fail m stState
    else if t.streamBusy i || !x.drainMbx.isEmpty then t.fail m stBusy
    else if le pg 0x46 1 = 0 then
      let t := match x.mirrorSide with
        | some v => t.sendMirror v.peer.toNat (.close v.shadow)
        | none => t
      (t.setStream i { t.stream i with mirror := false, mirrorSide := none }).ok m []
    else if x.mirrorSide.isSome || x.shadow.isSome then t.fail m stState
    else if (t.qpFor 16 to').isNone then t.fail m stTarget
    else
      let t := t.askShadow i to' peer
      match t.mirrorAnswer i peer with
      | .error st => t.fail m st
      | .ok h => (t.modStream i (fun y => { y with mirror := true, mirrorSide := some ⟨BitVec.ofNat 13 to', h, false, some m⟩ })).background m))

/-- MIRROR_STATE_SEND: a mirrored stream's committed image, then its commit record (R478). -/
def execMirrorStateSend (i : Fin 16384) (s : State) : Answer :=
  let x := s.stream i.val
  .next (match x.mirrorSide with
    | none => s
    | some v =>
      let n := x.stateUnits.toNat * 4096
      if x.state = .closed || x.state = .opening then s
      else if !s.good x.committedAt n then s.noteBad x.committedAt n
      else
        let s := s.sendMirror v.peer.toNat (.image v.shadow (s.read x.committedAt n))
        let r : Config.MirrorRecord := .commit v.shadow x.commitStep x.releasedSeq x.nextOutSeq
        (s.writeDomain 16 (BitVec.ofNat 64 (v.peer.toNat * 2 ^ 51 + (Config.mirrorAddr r).toNat)) (Config.mirrorBytes r)
          (.mirror i)).getD s)

end Sys2Proof.Machine
end

