-- ==== Sys2Proof/Machine/Rdma.lean ====
section
/-! DEFINITION. RoCE requests that reach the device, what its own requests are answered with, and rate control: INBOUND_SEND
to CC_INCREASE_PERIOD (R274, R303, R304, R383, R385 to R390, R399, R417, R418, R458, R461, R477, R478, R480, R525; log 19,
log 26, log 34). -/

namespace Sys2Proof.Machine

/-! ### The responder -/

/-- A CE-marked packet is answered with a congestion notification, at most once per CNP interval of the queue pair (R390). -/
def State.notify (s : State) (qpn : BitVec 24) (q : Qp) (ce : Bool) : State :=
  let early : Bool := match q.lastCnpSent with
    | some t => decide (s.time < t.toNat + (s.ccOf q.owner).cnpUs * 1000)
    | none => false
  if ce && !early then (s.modQp qpn.toNat (fun x => { x with lastCnpSent := some s.now })).emit (.cnp qpn) else s

/-- A NAK that moves the queue pair to the error state (R385). -/
def State.nakFatal (s : State) (qpn : BitVec 24) (kind : NakKind) : State := (s.emit (.nak qpn kind)).qpError qpn.toNat

/-- A request reaches a queue pair: one that does not exist, or that is not in service, discards it; those of a partition that
is reset, or that a reset or PART_DESTROY destroyed, refuse it (R383, R389, R408, R525). -/
def State.inbound (s : State) (qpn : BitVec 24) (ce : Bool) (body : Qp → State → State) : State :=
  match s.qp? qpn.toNat with
  | none => if s.deadQps.contains qpn then s.emit (.nak qpn .accessError) else s
  | some q =>
    if q.refuse then s.nakFatal qpn .accessError
    else if q.state != .connected then s
    else body q (s.notify qpn q ce)

/-- The PSNs of a request are taken (R383). -/
def State.takePsns (s : State) (qpn : BitVec 24) (q : Qp) (n : Nat) : State :=
  s.modQp qpn.toNat (fun x => { x with rqNext := x.rqNext + BitVec.ofNat 24 (q.packets n) })

/-- A request of `n` bytes is acknowledged with the PSN of its last packet. -/
def State.acknowledge (s : State) (qpn : BitVec 24) (q : Qp) (n : Nat) : State :=
  (s.takePsns qpn q n).emit (.ack qpn (q.rqNext + BitVec.ofNat 24 (q.packets n - 1)))

/-! ### Keys and grants (R303, R386, R387) -/

/-- The address part of R387: the device's own number and bits 50:48 zero. -/
def State.vaOk (s : State) (va : W64) : Bool := devOf va == s.dev.deviceNo.toNat && bits va.toNat 48 3 == 0

/-- The key of a kind that is current for a queue pair's owner; a partition that does not exist has none. -/
def State.keyOk (s : State) (q : Qp) (kind : Nat) (key : BitVec 32) : Bool :=
  match kind with
  | 1 => ((s.part? q.owner).map (fun p => key == rKey 1 q.owner p.epoch)).getD false
  | 2 => key == rKey 2 q.owner s.mbxEpoch
  | 3 => ((s.part? q.owner).map (fun p => key == rKey 3 q.owner p.epoch)).getD false
  | 4 => q.owner == 16 && key == rKey 4 0 s.mirrorEpoch
  | _ => false

/-- The range lies in the extents of the queue pair's partition. -/
def State.inOwn (s : State) (q : Qp) (a n : Nat) : Bool :=
  match s.part? q.owner with
  | some p => inExtents (p.hbm ++ p.lp) a n
  | none => false

/-- The range lies in mailboxes bound to the queue pair. -/
def Qp.inBoxes (q : Qp) (a n : Nat) : Bool :=
  mbxBase ≤ a && a + n ≤ mbxTop &&
    (List.range 64).all (fun m => q.mailboxes.getLsbD m || a + n ≤ cmdPage m || cmdPage m + 0x2000 ≤ a)

/-- The archive rings and state pairs of the shadows that wait for adoption. -/
def State.shadowAreas (s : State) : List (Nat × Nat) :=
  (s.streams.filter (fun (x : Nat × Stream) => (x.2.shadow.map (fun h => !h.adopted)).getD false)).flatMap
    (fun (x : Nat × Stream) =>
      (x.2.stateAddr.toNat, 2 * x.2.stateUnits.toNat * 4096) :: s.archHeld.filter (fun h => h.1 == x.2.archAddr))

/-- The range lies in the mirror areas. -/
def State.inMirror (s : State) (a n : Nat) : Bool := s.shadowAreas.any (fun r => r.1 ≤ a && a + n ≤ r.1 + r.2)

/-! ### SEND (R385, R417) -/

/-- INBOUND_SEND. -/
def execInboundSend (qpn : BitVec 24) (payload : Bytes) (ce : Bool) (s : State) : Answer :=
  .next (s.inbound qpn ce (fun q t =>
    let n := payload.length
    let bound := (List.range 64).filter (fun m => q.mailboxes.getLsbD m)
    let ring := fun (u : State) (m : Nat) =>
      if (u.mail m).busy then (u.setLost (Fin.ofNat 64 m)).emit (.nak qpn .rnr)
      else (u.acknowledge qpn q n).ringDoorbell (Fin.ofNat 64 m)
    match bound with
    | [] => t.nakFatal qpn .invalidRequest
    | m0 :: _ =>
      if n = 0 then ring t m0
      else if n = 8 then
        if bound.contains (le payload 0 1) && (payload.drop 1).all (· == 0) then ring t (le payload 0 1)
        else t.nakFatal qpn .invalidRequest
      else if 64 ≤ n && n ≤ 4096 then
        match bound.find? (fun m => !(t.mail m).busy) with
        | some m => ((t.acknowledge qpn q n).outerWrite (cmdPage m) payload).ringDoorbell (Fin.ofNat 64 m)
        | none => t.emit (.nak qpn .rnr)
      else t.nakFatal qpn .invalidRequest))

/-! ### Mirror records at the peer (R477, R478, R480; log 26) -/

/-- The shadow that a record names, while it waits for adoption. -/
def State.shadow? (s : State) (h : BitVec 32) : Option Nat :=
  let i := h.toNat % 2 ^ 14
  if !s.stale h.toNat && (((s.stream i).shadow).map (fun v => !v.adopted)).getD false then some i else none

/-- A mirror record has come for a shadow. -/
def State.touchShadow (s : State) (i : Nat) : State :=
  s.modStream i (fun x => { x with shadow := x.shadow.map (fun v => { v with lastRecord := s.now }) })

/-- The entry of a new shadow (R477). -/
def shadowEntry (old : Stream) (i p : Nat) (im : ImageInfo) (original : BitVec 32) (cls : Fin 3) (src snk tag : W64)
    (rate : BitVec 24) (b : Bytes) (now : W64) : Stream :=
  let g := nextGen old.gen
  { Stream.empty with
    state := .orphaned, cls := cls, orphanHold := true, part := Fin.ofNat 16 p, gen := g,
    handle := BitVec.ofNat 32 (g.toNat * 2 ^ 14 + i), stateUnits := BitVec.ofNat 16 im.stateUnits, resCluster := 63,
    sampleRate := rate, releasedSeq := 0xFFFFFFFF, source := src, sink := snk, hostTag := tag, binding := b,
    faultCode := 0xFFFF, orphanSince := now,
    intake := { Stream.empty.intake with ssrc := BitVec.ofNat 32 (rtpSsrc src) },
    outlet := { Stream.empty.outlet with seq := BitVec.ofNat 16 (le b 0xE 2) },
    shadow := some ⟨original, now, false⟩ }

/-- The partition that takes a shadow: the lowest whose image in service has the digest. -/
def State.shadowHome (s : State) (dig : Bytes) : Option (Nat × Partition × ImageInfo) :=
  s.parts.findSome? (fun (x : Nat × Partition) =>
    match x.2.served? with
    | some o => if x.2.settled && o.digest == dig then o.info.map (fun im => (x.1, x.2, im)) else none
    | none => none)

/-- A shadow is asked for: the answer and what the device does (R476, R477). -/
def State.createShadow (s : State) (peer : Nat) (original : BitVec 32) (dig : Bytes) (cls : Fin 3) (src snk tag : W64)
    (rate : BitVec 24) (b : Bytes) : State :=
  let answer := fun (t : State) (r : PeerReply) => t.sendMirror peer (.reply original r)
  match s.shadowHome dig with
  | none => answer s .noImage
  | some (p, q, im) =>
    if !s.mayAdmit p q im cls.val || secQuota q.sect ≤ (s.openStreams p).length then answer s .admissionDenied
    else match s.pickEntry with
      | (none, t) => answer t .admissionDenied
      | (some i, t) =>
        let x := shadowEntry (t.stream i) i p im original cls src snk tag rate b t.now
        match (t.setStream i x).placeStream p i im with
        | none => answer t .admissionDenied
        | some u =>
          let a := (u.stream i).stateAddr.toNat
          let u := (u.zero a (2 * im.stateUnits * 4096)).writeRaw a (im.freshState x.handle.toNat 0 0)
          answer (u.raiseStream 0x8508 i (pack [b4 original.toNat, b2 peer])) (.shadowReady x.handle)

/-- The chunk that the bytes of an archive slot spell (R464). -/
def slotChunk (b : Bytes) : Chunk :=
  let fr := le b 4 2
  ⟨le b 8 8, fr, (slice b 0x40 128).take fr, BitVec.ofNat 64 (le b 0x10 8), BitVec.ofNat 64 (le b 0x18 8), none, true,
    bit (le b 6 2) 0, true, slice b 0xC0 (le b 0x28 4)⟩

/-- A chunk record of a shadow: written into its ring, its newest unprocessed chunk. -/
def State.shadowChunk (s : State) (i : Nat) (b : Bytes) : State :=
  let x := (s.stream i).dropOldest
  match (s.part? x.part.val).bind (·.shape?) with
  | none => s
  | some im =>
    let c := slotChunk b
    let s := s.writeRaw (x.slotAddr im.slotBytes c.no) (b.take im.slotBytes)
    let chunks := x.chunks.filter (fun d => d.no != c.no) ++ [c]
    s.setStream i { x with chunks := chunks, nextChunkNo := c.no + 1,
                           sampleCount := c.first + BitVec.ofNat 64 (c.frames * im.samplesPerFrame),
                           oldestAccept := ((chunks.head?).map (·.accept)).getD 0 }

/-- A commit record of a shadow: its committed side flips, and the chunks that the image holds are processed. -/
def State.shadowCommit (s : State) (i : Nat) (step : BitVec 48) (released next : W32) : State :=
  let x := s.stream i
  match (s.part? x.part.val).bind (·.shape?) with
  | none => s
  | some im =>
    let x := { x with commitSide := !x.commitSide, commitStep := step, releasedSeq := released, nextOutSeq := next }
    let done := s.readNat (x.committedAt + 8) 8 * im.samplesPerFrame
    let chunks := x.chunks.filter (fun c => done ≤ c.first.toNat)
    s.setStream i { x with chunks := chunks, oldestAccept := ((chunks.head?).map (·.accept)).getD 0,
                           sampleCount := BitVec.ofNat 64 (max x.sampleCount.toNat done) }

/-- What a mirror record does at the device it reaches. -/
def State.mirrorRecord (s : State) (peer : Nat) (r : Config.MirrorRecord) : State :=
  let on := fun (h : BitVec 32) (f : Nat → State → State) => match s.shadow? h with
    | some i => f i (s.touchShadow i)
    | none => s
  match r with
  | .create original dig cls src snk tag rate b => s.createShadow peer original dig cls src snk tag rate b
  | .reply _ _ => s
  | .chunk h b => on h (fun i t => t.shadowChunk i b)
  | .image h b => on h (fun i t =>
      let x := t.stream i
      let n := x.stateUnits.toNat * 4096
      t.writeRaw (x.stateAddr.toNat + (if x.commitSide then 0 else n)) (b.take n))
  | .commit h step released next => on h (fun i t => t.shadowCommit i step released next)
  | .close h => on h (fun i t => t.closeStream i false)

/-! ### WRITE and READ (R385, R387) -/

/-- INBOUND_RDMA_WRITE: into extents, bound mailboxes or the mirror areas; a request for a shadow, and its answer, come to the
place that the devices use for them (log 26). -/
def execInboundRdmaWrite (qpn : BitVec 24) (va : W64) (key : BitVec 32) (data : Bytes) (ce : Bool) (s : State) : Answer :=
  .next (s.inbound qpn ce (fun q t =>
    let a := va.toNat % 2 ^ 48
    let n := data.length
    let done := t.acknowledge qpn q n
    let mirror := t.vaOk va && t.keyOk q 4 key
    let placed := fun (r : Config.MirrorRecord) => if r.asks then a == (Config.mirrorAddr r).toNat else t.inMirror a n
    if t.vaOk va && t.keyOk q 1 key && t.inOwn q a n then done.outerWrite a data
    else if t.vaOk va && t.keyOk q 2 key && q.inBoxes a n then done.outerWrite a data
    else match (if mirror then (Config.mirrorRecord data).filter placed else none) with
      | some r => done.mirrorRecord q.peer.toNat r
      | none => if mirror && t.inMirror a n then done.outerWrite a data else t.nakFatal qpn .accessError))

/-- Data that a response would carry fail their check: nothing is sent, a single fault of the source memory (R461). -/
def State.badResponse (s : State) (p a n : Nat) : State :=
  let s := { s with health := { s.health with exitFail := satAdd s.health.exitFail 1 } }
  let (f, s) := s.failedRead p a n
  s.memoryFault f false

/-- INBOUND_RDMA_READ: from the owner's extents. -/
def execInboundRdmaRead (qpn : BitVec 24) (va : W64) (key : BitVec 32) (len : Nat) (ce : Bool) (s : State) : Answer :=
  .next (s.inbound qpn ce (fun q t =>
    let a := va.toNat % 2 ^ 48
    if !(t.vaOk va && t.keyOk q 1 key && t.inOwn q a len) then t.nakFatal qpn .accessError
    else if !t.good a len then t.badResponse q.owner a len
    else (t.takePsns qpn q len).emit (.readResponse qpn (t.read a len))))

/-- An atomic on an 8-byte-aligned word of the owner's extents; the old word is the response (R385). -/
def State.atomic (s : State) (qpn : BitVec 24) (q : Qp) (va : W64) (key : BitVec 32) (f : W64 → W64) : State :=
  let a := va.toNat % 2 ^ 48
  if !(s.vaOk va && s.keyOk q 1 key && s.inOwn q a 8 && a % 8 == 0) then s.nakFatal qpn .accessError
  else if !s.good a 8 then s.badResponse q.owner a 8
  else
    let old := BitVec.ofNat 64 (s.readNat a 8)
    ((s.takePsns qpn q 8).writeNat a 8 (f old).toNat).emit (.atomicResponse qpn old)

/-- INBOUND_FETCH_ADD. -/
def execInboundFetchAdd (qpn : BitVec 24) (va : W64) (key : BitVec 32) (add : W64) (ce : Bool) (s : State) : Answer :=
  .next (s.inbound qpn ce (fun q t => t.atomic qpn q va key (· + add)))

/-- INBOUND_COMPARE_SWAP. -/
def execInboundCompareSwap (qpn : BitVec 24) (va : W64) (key : BitVec 32) (cmp swap : W64) (ce : Bool) (s : State) : Answer :=
  .next (s.inbound qpn ce (fun q t => t.atomic qpn q va key (fun old => if old = cmp then swap else old)))

/-! ### Chunk records (R399) -/

/-- A record is discarded and counted with its stream, or with the MAC where it names none. -/
def State.dropRecord (s : State) (q : Qp) (i : Option Nat) : State :=
  match i with
  | some i => s.modStream i (fun x => { x with intake := { x.intake with otherCnt := x.intake.otherCnt + 1 } })
  | none => s.modMac q.mac.val (fun x => { x with discarded := x.discarded + 1 })

/-- A record keeps to R399 in its own fields, for an image. -/
def recordOk (im : ImageInfo) (imm : BitVec 32) (b : Bytes) : Bool :=
  let fr := le b 4 2
  64 ≤ b.length && b.length ≤ 0x100000 && le b 0 4 == imm.toNat && 1 ≤ fr && fr ≤ 128 && le b 6 2 == 0
    && (firstNonzero b 0x18 40).isNone && le b 0x10 8 == fr * im.bytesPerFrame
    && b.length == 64 + alignUp 64 fr + fr * im.bytesPerFrame

/-- A chunk record at the intake port. -/
def State.chunkRecord (s : State) (q : Qp) (imm : BitVec 32) (b : Bytes) : State :=
  let i := imm.toNat % 2 ^ 14
  let x := s.stream i
  if s.stale imm.toNat then s.dropRecord q none
  else match (s.part? x.part.val).bind (·.shape?) with
    | none => s.dropRecord q (some i)
    | some im =>
      let fr := le b 4 2
      let seq := le b 8 8
      let size := alignUp 256 (fr * im.bytesPerFrame + alignUp 64 fr)
      if x.srcKind ≠ 3 || ringPeer x.source ≠ q.peer.toNat || x.part.val ≠ q.owner || !x.takesInput || !recordOk im imm b then
        s.dropRecord q (some i)
      else if poolBytes < s.poolUse + size then (s.dropRecord q (some i)).poolCheck
      else if seq < x.intake.nextSeq.toNat then s
      else if x.intake.nextSeq.toNat < seq then
        s.raiseStream 0x8506 i (pack [b8 x.intake.nextSeq.toNat, b8 seq])
      else
        let s := s.setStream i { x with lastSample := s.now, intake := { x.intake with nextSeq := x.intake.nextSeq + 1 } }
        let s := s.acceptChunk i fr (fr * im.samplesPerFrame) (slice b 0x40 fr) (b.drop (64 + alignUp 64 fr)) false
        let s := match (s.stream i).chunks.getLast? with
          | some c => s.writeProgramme i c
          | none => s
        s.poolCheck.settle x.part.val

/-- INBOUND_WRITE_IMMEDIATE: a chunk record at the intake port; any other target is an invalid request (R385). -/
def execInboundWriteImmediate (qpn : BitVec 24) (va : W64) (key imm : BitVec 32) (data : Bytes) (ce : Bool) (s : State) :
    Answer :=
  .next (s.inbound qpn ce (fun q t =>
    if va.toNat % 2 ^ 48 ≠ intakePort then t.nakFatal qpn .invalidRequest
    else if !(t.vaOk va && t.keyOk q 3 key) then t.nakFatal qpn .accessError
    else (t.acknowledge qpn q data.length).chunkRecord q imm data))

/-! ### The requester (R383, R389) -/

/-- What an acknowledged message lets go on. -/
def State.messageDone (s : State) (o : OutMsg) : State :=
  match o.use with
  | .dmov core slot => s.modXfer core slot ackedPhase
  | .response m => s.responseSent m
  | .mirror i => s.mirrorReady i.val
  | .other => s

/-- The leading messages, no READ among them, whose last PSN an acknowledgement covers, and the others. -/
def splitAcked (base psn : BitVec 24) : List OutMsg → List OutMsg × List OutMsg
  | [] => ([], [])
  | o :: r =>
    if o.kind == .read || psnDist base psn < psnDist base o.last then ([], o :: r)
    else
      let (a, b) := splitAcked base psn r
      (o :: a, b)

/-- An acknowledgement up to a PSN of messages under way: they complete in order (R389). -/
def State.ackUpTo (s : State) (qpn : Nat) (psn : BitVec 24) : State :=
  match s.qp? qpn with
  | none => s
  | some q =>
    let d := psnDist q.acked psn
    if q.state != .connected || d = 0 || psnDist q.acked (q.sqNext - 1) < d then s
    else
      let (done, left) := splitAcked q.acked psn q.out
      let top : BitVec 24 := match left with
        | o :: _ => if o.kind == .read && psnDist q.acked (o.first - 1) < d then o.first - 1 else psn
        | [] => psn
      let s := s.setQp qpn { q with out := left, acked := top, retriesLeft := q.retry, timer := s.now }
      done.foldl (fun t o => t.messageDone o) (s.sendNew qpn q.out left)

/-- ROCE_ACK_RECEIVE. -/
def execRoceAckReceive (qpn psn : BitVec 24) (s : State) : Answer := .next (s.ackUpTo qpn.toNat psn)

/-- The oldest READ of a list is replaced by what is left of it. -/
def putRead (rest : List OutMsg) : List OutMsg → List OutMsg
  | [] => []
  | o :: r => if o.kind == .read then rest ++ r else o :: putRead rest r

/-- READ_RESPONSE_RECEIVE: data of the oldest READ, in order; what was sent before it is acknowledged too (R388, R389). -/
def execReadResponseReceive (qpn : BitVec 24) (data : Bytes) (s : State) : Answer :=
  .next (match s.qp? qpn.toNat with
    | none => s
    | some q =>
      match q.out.find? (fun o => o.kind == .read) with
      | none => s
      | some o =>
        if q.state != .connected then s
        else
          let s := s.ackUpTo qpn.toNat (o.first - 1)
          let got := data.take o.len
          let k := BitVec.ofNat 24 (q.packets got.length)
          let rest : OutMsg := { o with first := o.first + k, va := o.va + BitVec.ofNat 64 got.length, len := o.len - got.length }
          let old := ((s.qp? qpn.toNat).map (·.out)).getD []
          let left := putRead (if o.len ≤ got.length then [] else [rest]) old
          let s := s.modQp qpn.toNat (fun x =>
            { x with acked := o.first + k - 1, retriesLeft := x.retry, timer := s.now, out := left })
          let s := s.sendNew qpn.toNat old left
          match o.use with
          | .dmov core slot => (s.modXfer core slot (readPhase got)).sendAsked core slot
          | _ => s)

/-- What of a message is sent again after a PSN (R383): from the packet that follows. -/
def OutMsg.after (o : OutMsg) (q : Qp) : OutMsg :=
  let k := psnDist o.first (q.acked + 1)
  if psnDist o.first o.last < k then o
  else { o with first := q.acked + 1, va := o.va + BitVec.ofNat 64 (k * q.mtuBytes), data := o.data.drop (k * q.mtuBytes) }

/-- Go back N: everything not acknowledged is sent again, at the cost of a retry; without one left the queue pair goes to the
error state (R383). -/
def State.resend (s : State) (qpn : BitVec 24) : State :=
  match s.qp? qpn.toNat with
  | none => s
  | some q =>
    if q.state != .connected || !s.carries q || q.out.isEmpty then s
    else if q.retriesLeft = 0 then s.qpError qpn.toNat
    else
      let s := s.setQp qpn.toNat { q with retriesLeft := q.retriesLeft - 1, timer := s.now }
      (underWay q.out 16).foldl (fun t o => t.emit (.rdma qpn (o.after q))) s

/-- NAK_RECEIVE: the messages before its PSN are acknowledged. -/
def execNakReceive (qpn psn : BitVec 24) (kind : NakKind) (s : State) : Answer :=
  let t := s.ackUpTo qpn.toNat (psn - 1)
  .next (match kind with
    | .sequence => t.resend qpn
    | .rnr => t.resend qpn
    | .invalidRequest => t.qpError qpn.toNat
    | .accessError => t.qpError qpn.toNat)

/-- The ACK timeout of a queue pair has passed: 4.096 µs × 2^T since it was started (R383). -/
def State.ackLate (s : State) (qpn : Nat) : Bool :=
  match s.qp? qpn with
  | some q => decide (q.timer.toNat + 4096 * 2 ^ q.tmo ≤ s.time)
  | none => false

/-- ACK_TIMEOUT. -/
def execAckTimeout (qpn : BitVec 24) (s : State) : Answer := .next (if s.ackLate qpn.toNat then s.resend qpn else s)

/-! ### Rate control (R390; log 19) -/

/-- The value of an FP32 word, and the word of a value. -/
def fpVal (w : W32) : Num := fp32F.decode w.toNat
def fpWord (v : Num) : W32 := BitVec.ofNat 32 (toFp32 false v).code

/-- g as a value. -/
def CcParams.g (c : CcParams) : Num := .fin false 1 (-(c.gLog2 : Int))

/-- (1 - g) × α. -/
def CcParams.decay (c : CcParams) (alpha : Num) : Num := f32Mul (f32Add (.ofInt 1) c.g.negate) alpha

/-- A queue pair changed by its owner's parameters, while it is in service. -/
def State.modRate (s : State) (qpn : BitVec 24) (f : CcParams → Nat → Qp → Qp) : State :=
  s.modQp qpn.toNat (fun q => if q.state == .connected then f (s.ccOf q.owner) (s.lineMbps q.mac.val) q else q)

/-- CNP_RECEIVE. -/
def execCnpReceive (qpn : BitVec 24) (s : State) : Answer :=
  .next (s.modRate qpn (fun c _ q =>
    let a := fpVal q.alpha
    let cut := f32Mul (fpVal q.rc) (f32Add (.ofInt 1) (a.scale2 (-1)).negate)
    let low := Num.ofInt c.rmin
    { q with rt := q.rc, rc := fpWord (if cut.lt low then low else cut), alpha := fpWord (f32Add (c.decay a) c.g), rounds := 0,
             alphaFrom := s.now, incFrom := s.now }))

/-- A period of a queue pair's rate control is over: so many microseconds of its owner's setting since it began, at the connection, at
the last CNP or at the end of the period before (R390). -/
def State.rateDue (s : State) (qpn : BitVec 24) (since : Qp → W64) (us : CcParams → Nat) : Bool :=
  match s.qp? qpn.toNat with
  | some q => (since q).toNat + 1000 * us (s.ccOf q.owner) ≤ s.time
  | none => false

/-- CC_ALPHA_PERIOD: an alpha period without CNP has passed. -/
def execCcAlphaPeriod (qpn : BitVec 24) (s : State) : Answer :=
  .next (if s.rateDue qpn Qp.alphaFrom CcParams.alphaUs then
    s.modRate qpn (fun c _ q => { q with alpha := fpWord (c.decay (fpVal q.alpha)), alphaFrom := s.now })
  else s)

/-- CC_INCREASE_PERIOD: an increase period without CNP has passed. -/
def execCcIncreasePeriod (qpn : BitVec 24) (s : State) : Answer :=
  .next (if s.rateDue qpn Qp.incFrom CcParams.incUs then
    s.modRate qpn (fun c line q =>
      let up := f32Add (fpVal q.rt) (.ofInt c.rai)
      let top := Num.ofInt line
      let rt := if c.f < q.rounds + 1 then (if top.lt up then top else up) else fpVal q.rt
      { q with rounds := q.rounds + 1, rt := fpWord rt, rc := fpWord (f32 ((f32Add rt (fpVal q.rc)).scale2 (-1))), incFrom := s.now })
  else s)

end Sys2Proof.Machine
end

