-- ==== Sys2Proof/Machine/NetWire.lean ====
section
/-! DEFINITION. The Ethernet ports at work: RTP and RTCP packets, the MACs' own protocols, flow control, lanes and links
(R379 to R382, R391, R394 to R397, R401, R406 to R409, R458; log 24). -/

namespace Sys2Proof.Machine

/-! ### Counts and flow control (R380, R391, R458) -/

/-- A frame is discarded and counted. -/
def State.discardFrame (s : State) (m : Nat) : State := s.modMac m (fun x => { x with discarded := x.discarded + 1 })

/-- A frame is for the MAC: one of its own addresses, and untagged or tagged with its VLAN (R380). -/
def State.ownFrame (s : State) (m : Nat) (dst : BitVec 128) (vlan : BitVec 12) : Bool :=
  let x := s.mac m
  ((x.ip4 != 0 && dst == mapped4 x.ip4) || (x.ip6 != 0 && dst == x.ip6)) && (vlan == 0 || vlan.toNat == x.vlan.toNat)

/-- A packet that fails its network check is discarded and counted with the MAC's errors (R458). -/
def State.badFrame (s : State) (m : Nat) : State := s.modMac m (fun x => { x with errors := x.errors + 1 })

/-- PFC is enabled for a priority of a port (R407). -/
def Port.pfcOn (x : Port) (prio : Nat) : Bool := bit x.ctl.toNat (53 + prio)

/-- A receive buffer above 75 % of its 512 KiB share makes the port send pause for an enabled priority (R391). -/
def State.pauseAbove (s : State) (p prio fill : Nat) : State :=
  if (s.port p).pfcOn prio && 3 * 0x80000 < 4 * fill then s.emit (.pause (Fin.ofNat 4 p) (Fin.ofNat 8 prio)) else s

/-- Since when pause has held a priority, or its watchdog has ignored pause. -/
def Port.pfcSince (x : Port) (prio : Nat) : Nat := (tabGet x.pfcFrom 0 prio).toNat

/-- PAUSE_FRAME_RECEIVE: pause holds an enabled priority's transmission, unless its watchdog ignores pause. -/
def execPauseFrameReceive (p : Fin 4) (prio : Fin 8) (hold : Bool) (rxFill : Nat) (s : State) : Answer :=
  let s := s.pauseAbove p.val prio.val rxFill
  .next (s.modPort p.val (fun x =>
    if x.pfcOn prio.val && !x.pfcWd.getLsbD prio.val then
      { x with held := if hold then x.held ||| BitVec.ofNat 8 (2 ^ prio.val) else x.held &&& ~~~BitVec.ofNat 8 (2 ^ prio.val),
               pfcFrom := if hold && !x.held.getLsbD prio.val then tabPut x.pfcFrom prio.val s.now else x.pfcFrom }
    else x))

/-- PFC_WATCHDOG: pause has held a priority for longer than 100 ms. -/
def execPfcWatchdog (p : Fin 4) (prio : Fin 8) (s : State) : Answer :=
  let x := s.port p.val
  let b := BitVec.ofNat 8 (2 ^ prio.val)
  if x.held.getLsbD prio.val && !x.pfcWd.getLsbD prio.val && x.pfcSince prio.val + 100000000 < s.time then
    .next ((s.setPort p.val { x with pfcWd := x.pfcWd ||| b, held := x.held &&& ~~~b,
                                     pfcFrom := tabPut x.pfcFrom prio.val s.now }).raiseDev 0x8705
      (pack [b1 p.val, b1 prio.val]))
  else .next s

/-- PFC_WATCHDOG_END: its second is over. -/
def execPfcWatchdogEnd (p : Fin 4) (prio : Fin 8) (s : State) : Answer :=
  let x := s.port p.val
  if x.pfcWd.getLsbD prio.val && x.pfcSince prio.val + 1000000000 ≤ s.time then
    .next (s.setPort p.val { x with pfcWd := x.pfcWd &&& ~~~BitVec.ofNat 8 (2 ^ prio.val) })
  else .next s

/-! ### RTP intake (R394 to R397) -/

/-- The 32-bit left-justified word of a sample in network order (R349, R395). -/
def rtpWord (n : Nat) (b : Bytes) : Bytes := b4 (netToNat (b.take n) * 2 ^ (32 - 8 * n))

/-- The samples of a payload, each the words of its channels; `none` where it holds none or no whole number of them. -/
def rtpSamples (b payload : Bytes) : Option (List Bytes) :=
  let n := if le b 4 1 = 0 then 2 else 3
  let ch := max 1 (bndChannelsIn b)
  let size := n * ch
  if payload.isEmpty || payload.length % size ≠ 0 || 8192 < payload.length then none
  else some ((List.range (payload.length / size)).map (fun i =>
    (List.range ch).flatMap (fun c => rtpWord n (payload.drop (i * size + c * n)))))

/-- The streams whose binding a packet matches but for its SSRC (R395). -/
def State.rtpMatches (s : State) (k : RtpPacket) : List (Nat × Stream) :=
  s.streams.filter (fun (e : Nat × Stream) =>
    let x := e.2
    let flt := netToNat (slice x.binding 0x30 16)
    x.state != .closed && (x.shadow.isNone || (x.shadow.map (·.adopted)).getD false) && x.srcKind == 1
      && rtpMac x.source == k.mac.val && rtpPort x.source == k.dstPort.toNat && le x.binding 2 1 == k.payloadType.toNat
      && (flt == 0 || flt == k.src.toNat))

/-- A packet is discarded and counted with the stream it is for. -/
def State.rtpOther (s : State) (i : Nat) : State :=
  s.modStream i (fun x => { x with intake := { x.intake with otherCnt := x.intake.otherCnt + 1 } })

/-- Where a timestamp lies in stream time (R395). -/
def Stream.rtpStart (x : Stream) (ts : W32) : Int :=
  let d := (ts - x.intake.ts0.getD ts - BitVec.ofNat 32 x.sampleCount.toNat).toInt
  (x.sampleCount.toNat : Int) + d

/-- The first sample of a stream starts its time: TS0 (R395). -/
def Stream.startTs (x : Stream) (ts : W32) (at' : Nat) : Stream :=
  { x with intake := { x.intake with ts0 := some (ts - BitVec.ofNat 32 at') } }

/-- The samples of a packet from its place in stream time on: those of accepted chunks, those 4 or more chunks ahead and those
beyond a drain's end are discarded and counted, those already present discarded; nothing is kept while the pool is full
(R397, R409). Samples that are discarded leave the stall time running (DESIGN CHOICE, log 42). -/
def State.placeSamples (s : State) (i n : Nat) (start : Int) (ws : List Bytes) (arrival : W64) : State :=
  let x := s.stream i
  let lo := x.sampleCount.toNat
  let far := lo + 4 * n
  let stop := x.intake.stopAt.getD far
  let all : List (Int × Bytes) := (List.range ws.length).map (fun (j : Nat) => (start + (j : Int), ws.getD j []))
  let late := all.any (fun e => e.1 < lo)
  let early := all.any (fun e => (far : Int) ≤ e.1)
  let beyond := all.any (fun e => (stop : Int) ≤ e.1 && e.1 < far)
  let take := all.filter (fun e => (lo : Int) ≤ e.1 && e.1 < ((min far stop : Nat) : Int))
  let new := take.filter (fun e => (tabGet? x.intake.samples e.1.toNat).isNone)
  let k := { x.intake with lateCnt := x.intake.lateCnt + flag late, earlyCnt := x.intake.earlyCnt + flag early,
                           otherCnt := x.intake.otherCnt + flag beyond }
  let s := s.setStream i { x with intake := k }
  match new, new.getLast? with
  | first :: _, some last =>
    let samples := new.foldl (fun t e => tabPut t e.1.toNat e.2) k.samples
    let kept := k.kept ++ [⟨first.1.toNat, last.1.toNat, arrival⟩]
    let t := s.setStream i { x with lastSample := arrival, intake := { k with samples := samples, kept := kept } }
    if poolBytes < t.poolUse then (s.rtpOther i).poolCheck else t.poolCheck
  | _, _ => s

/-- Every chunk of which a sample is kept is accepted at once (R396, R397). -/
def State.acceptKept (s : State) (i : Nat) : Nat → State
  | 0 => s
  | k + 1 =>
    let x := s.stream i
    if x.takesInput && !x.intake.samples.isEmpty then (s.acceptSampled i (bndGapReset x.binding)).acceptKept i k else s

/-- A mark for the frame that holds a sample. -/
def Stream.addMark (x : Stream) (t m : Nat) : Stream :=
  { x with intake := { x.intake with marks := tabPut x.intake.marks t (tabGet x.intake.marks 0 t ||| m) } }

/-- A jump: the unaccepted chunks are accepted, and the first early packet starts the next one (R397). -/
def State.rtpJump (s : State) (i n : Nat) (e : EarlyPacket) : State :=
  let s := s.modStream i (fun x => { x with intake := { x.intake with early := none } })
  let s := s.acceptKept i 5
  let x := s.stream i
  if !x.takesInput then s else
  let lo := x.sampleCount.toNat
  let old := x.intake.ts0.getD 0 + BitVec.ofNat 32 lo
  let s := s.setStream i ((x.startTs e.ts lo).addMark lo 4)
  let s := s.raiseStream 0x8503 i (pack [b8 lo, b4 old.toNat, b4 e.ts.toNat])
  match rtpSamples x.binding e.payload with
  | some ws => s.placeSamples i n lo ws e.arrival
  | none => s

/-- The chunk a new sender starts: the first from the oldest unaccepted one of which no sample is kept. -/
def Stream.nextFree (x : Stream) (n c : Nat) : Nat → Nat
  | 0 => c
  | k + 1 => if x.intake.samples.any (fun e => decide (c ≤ e.1 ∧ e.1 < c + n)) then x.nextFree n (c + n) k else c

/-- A new SSRC is adopted: its packet starts the next chunk (R397). -/
def State.rtpFollow (s : State) (i n : Nat) (ssrc ts : W32) : State :=
  let x := s.stream i
  let c := x.nextFree n x.sampleCount.toNat 4
  let old := x.intake.ssrc
  let k := { x.intake with ssrc := ssrc, early := none, samples := x.intake.samples.filter (fun e => e.1 < c),
                           kept := x.intake.kept.filter (fun e => e.first < c) }
  let s := s.setStream i (({ x with intake := k }.startTs ts c).addMark c 5)
  s.raiseStream 0x8504 i (pack [b8 c, b4 old.toNat, b4 ssrc.toNat])

/-- A packet with the stream's SSRC: early ones are held against, the others placed (R397). -/
def State.rtpTake (s : State) (i n : Nat) (k : RtpPacket) (ws : List Bytes) : State :=
  let x := s.stream i
  let x := if x.intake.ts0.isSome then x else x.startTs k.timestamp x.sampleCount.toNat
  let start := x.rtpStart k.timestamp
  let s := s.setStream i x
  if (x.sampleCount.toNat + 4 * n : Int) ≤ start then
    match x.intake.early with
    | some e =>
      if k.timestamp = e.ts + BitVec.ofNat 32 e.samples then
        let s := s.rtpJump i n e
        if (s.stream i).takesInput then s.placeSamples i n ((s.stream i).rtpStart k.timestamp) ws s.now else s
      else s.modStream i (fun y => { y with intake := { y.intake with earlyCnt := y.intake.earlyCnt + 1,
                                                                      early := some ⟨k.timestamp, ws.length, k.payload, s.now⟩ } })
    | none => s.modStream i (fun y => { y with intake := { y.intake with earlyCnt := y.intake.earlyCnt + 1,
                                                                         early := some ⟨k.timestamp, ws.length, k.payload, s.now⟩ } })
  else
    (s.modStream i (fun y => { y with intake := { y.intake with early := none } })).placeSamples i n start ws s.now

/-- The priority of RTP traffic of an owner (R391). -/
def State.rtpPrio (s : State) (o : Nat) : Nat := bits (s.ccOf o).prio.toNat 16 8

/-- RTP_PACKET. -/
def execRtpPacket (k : RtpPacket) (s : State) : Answer :=
  let cands := s.rtpMatches k
  let own := cands.find? (fun (e : Nat × Stream) => e.2.intake.ssrc == k.ssrc)
  let follow := cands.filter (fun (e : Nat × Stream) => bndFollow e.2.binding)
  let owner := ((own.or cands.head?).map (fun (e : Nat × Stream) => e.2.part.val)).getD 16
  let s := s.pauseAbove (k.mac.val / 4) (s.rtpPrio owner) k.rxFill
  .next (if !k.checksOk then s.badFrame k.mac.val
    else if !s.ownFrame k.mac.val k.dst k.vlan then s.discardFrame k.mac.val
    else match own, follow, cands with
      | some (i, x), _, _ =>
        match rtpSamples x.binding k.payload with
        | some ws =>
          let n := s.nextChunkSamples x
          if x.takesInput && n ≠ 0 then s.rtpTake i n k ws else s.rtpOther i
        | none => s.rtpOther i
      | none, [(i, x)], _ =>
        match rtpSamples x.binding k.payload with
        | some ws =>
          let n := s.nextChunkSamples x
          if x.takesInput && x.intake.stopAt.isNone && n ≠ 0 then (s.rtpFollow i n k.ssrc k.timestamp).rtpTake i n k ws
          else s.rtpOther i
        | none => s.rtpOther i
      | none, _, [(i, _)] => s.rtpOther i
      | none, _, _ => s.discardFrame k.mac.val)

/-! ### RTCP (R394) -/

/-- RTCP_PACKET: reports are counted and discarded, a BYE of a stream's sender raises an event. -/
def execRtcpPacket (mac : Fin 16) (src : BitVec 128) (dstPort : BitVec 16) (ssrc : BitVec 32) (kind : RtcpKind) (s : State) :
    Answer :=
  let s := s.modMac mac.val (fun x => { x with rtcpCnt := x.rtcpCnt + 1 })
  let hit := s.streams.find? (fun (e : Nat × Stream) =>
    let x := e.2
    let flt := netToNat (slice x.binding 0x30 16)
    x.state != .closed && x.srcKind == 1 && rtpMac x.source == mac.val && rtpPort x.source + 1 == dstPort.toNat
      && x.intake.ssrc == ssrc && (flt == 0 || flt == src.toNat))
  .next (match kind, hit with
    | .bye, some (i, _) => s.raiseStream 0x8505 i (b4 ssrc.toNat)
    | _, _ => s)

/-- RTCP_SENDER_REPORT: every 5 s for an RTP sink. -/
def execRtcpSenderReport (i : Fin 16384) (s : State) : Answer :=
  let x := s.stream i.val
  let m := rtpMac x.sink
  if x.sinkKind = 1 && x.state != .closed && x.state != .opening && (x.shadow.isNone || (x.shadow.map (·.adopted)).getD false) then
    if (s.mac m).up then
      let b := x.binding
      let ts := if bndAlign b && x.srcKind = 1 && bndRateOut b = x.sampleRate.toNat then x.intake.ts0.getD 0
        else BitVec.ofNat 32 (le b 0x10 4)
      let size := (if le b 6 1 = 0 then 2 else 3) * max 1 (bndChannelsOut b)
      let s := s.needHop m (BitVec.ofNat 128 (netToNat (slice b 0x20 16)))
      .next (s.depart (.rtcp (Fin.ofNat 16 m) (slice b 0x20 16) (BitVec.ofNat 16 (le b 0xC 2 + 1)) (BitVec.ofNat 32 (rtpSsrc x.sink))
        (ts + BitVec.ofNat 32 x.outlet.sent) (BitVec.ofNat 32 x.outlet.packets) (BitVec.ofNat 32 (x.outlet.sent * size))) (some (s.rtpMark x)))
    else .next (s.discardFrame m)
  else .next s

/-! ### The MACs' own protocols (R380) -/

/-- ARP_REQUEST. -/
def execArpRequest (mac : Fin 16) (target sender : BitVec 32) (senderMac : BitVec 48) (s : State) : Answer :=
  let x := s.mac mac.val
  if target = x.ip4 && x.ip4 ≠ 0 then .next (s.emit (.arpReply mac target (Config.macAddr mac.val) sender senderMac))
  else .next (s.discardFrame mac.val)

/-- NEIGHBOUR_SOLICITATION. -/
def execNeighbourSolicitation (mac : Fin 16) (target sender : BitVec 128) (senderMac : BitVec 48) (s : State) : Answer :=
  let x := s.mac mac.val
  if target = x.ip6 && x.ip6 ≠ 0 then .next (s.emit (.ndReply mac target (Config.macAddr mac.val) sender senderMac))
  else .next (s.discardFrame mac.val)

/-- ICMP_ECHO_REQUEST, ICMPv6 too; an IPv4 address in mapped form. -/
def execIcmpEchoRequest (mac : Fin 16) (dst src : BitVec 128) (payload : Bytes) (s : State) : Answer :=
  if s.ownFrame mac.val dst 0 then .next (s.emit (.echoReply mac dst src payload))
  else .next (s.discardFrame mac.val)

/-- UNMATCHED_FRAME. -/
def execUnmatchedFrame (mac : Fin 16) (checksOk : Bool) (s : State) : Answer :=
  if checksOk then .next (s.discardFrame mac.val) else .next (s.badFrame mac.val)

/-- NEXT_HOP_RESOLUTION_REPLY: an answer to a question of the MAC's own; another one is discarded. -/
def execNextHopResolutionReply (mac : Fin 16) (ip : BitVec 128) (hwAddr : BitVec 48) (s : State) : Answer :=
  let x := s.mac mac.val
  if x.resolving.contains ip then
    .next (s.setMac mac.val { x with resolving := x.resolving.filter (· != ip),
                                     hops := x.hops.filter (fun h => h.1 != ip) ++ [(ip, hwAddr)] })
  else .next (s.discardFrame mac.val)

/-! ### Lanes and links (R379, R381, R382, R406) -/

/-- The MAC whose data a lane carries under the breakout in force. -/
def State.laneMac (s : State) (p lane : Nat) : Nat :=
  4 * p + (match (s.port p).breakout.toNat with
    | 0 => 0
    | 1 => lane / 2
    | _ => lane)

/-- The MAC of a failed lane goes down; where lanes remain it retrains at the next lower breakout rate. -/
def State.laneMacDown (s : State) (p lane : Nat) : State :=
  let m := s.laneMac p lane
  let s := s.macDown m 1
  s.modMac m (fun x => { x with laneDown := true,
                                degraded := if (s.port p).breakout.toNat + x.degraded < 2 then x.degraded + 1 else x.degraded })

/-- A lane fails (R381): its code is driven where the spare is free, else its MAC goes down. A failing spare lane is no longer
available, and takes with it the MAC whose lane it carries. -/
def State.laneFails (s : State) (p : Nat) (lane : Fin 5) : State :=
  let x := s.port p
  let s := s.setPort p { x with laneFault := satAdd x.laneFault 1 }
  let x := s.port p
  if lane.val = 4 then
    match x.spareState.toNat with
    | 1 =>
      let s := s.setPort p { x with spareState := 3, failing := none, retire := none }
      match x.retire with
      | some m => s.fail m stNoResource
      | none => s.laneMacDown p ((x.failing.map (·.1.val)).getD 0)
    | 2 => (s.setPort p { x with spareState := 3 }).laneMacDown p x.spareFor.toNat
    | _ => s.setPort p { x with spareState := 3 }
  else if x.spareState = 2 && x.spareFor.toNat = lane.val || x.failing.map (·.1) = some lane then s
  else if x.spareOn && x.spareState = 0 then
    let code := BitVec.ofNat 3 lane.val
    (s.setPort p { x with spareState := 1, failing := some (lane, s.now), laneMap := code }).emit (.laneMap (Fin.ofNat 4 p) code)
  else s.laneMacDown p lane.val

/-- LANE_LOCK_LOSS. -/
def execLaneLockLoss (p : Fin 4) (lane : Fin 5) (s : State) : Answer := .next (s.laneFails p.val lane)

/-- LANE_SER_WINDOW: symbol errors of a 10 µs window above LANE_SER_LIMIT. -/
def execLaneSerWindow (p : Fin 4) (lane : Fin 5) (errors : Nat) (s : State) : Answer :=
  if bits (s.port p.val).ctl.toNat 32 16 < errors then .next (s.laneFails p.val lane) else .next s

/-- LANE_MAP_ANSWER: the lane's traffic moves to lane 4; RTP packets sent from 100 µs before detection are sent again
(R382). A fault is then recovered (R467, R473), a retirement answered. -/
def execLaneMapAnswer (p : Fin 4) (s : State) : Answer :=
  let x := s.port p.val
  match x.failing with
  | none => .next s
  | some (lane, t) =>
    let s := s.setPort p.val { x with spareState := 2, spareFor := BitVec.ofNat 2 lane.val, failing := none,
                                      recorded := some lane, retire := none }
    let s := s.wear (unitId 9 p.val lane.val) (physOf 0 0 0 4) 1 0 0xFFFF (physOf 0 0 0 lane.val)
    let s := s.raiseDev 0x8703 (pack [b1 p.val, b1 lane.val])
    let m := s.laneMac p.val lane.val
    let again := (s.mac m).recent.filter (fun r => t.toNat ≤ r.1.toNat + 100000)
    let s := again.foldl (fun u r => u.depart (.rtpAgain (Fin.ofNat 16 m) r.2.2) (some r.2.1)) s
    match x.retire with
    | some k => .next ((s.wear (unitId 9 p.val lane.val) (physOf 0 0 0 lane.val) 2 0 0xFFFF 0).ok k [])
    | none => .next (s.recoveredNow none ⟨9, BitVec.ofNat 64 (unitId 9 p.val lane.val), 0, .nothing, true⟩ (physOf 0 0 0 lane.val) 0xFFFF)

/-- LANE_MAP_TIMEOUT: the partner has not answered within 20 µs. -/
def execLaneMapTimeout (p : Fin 4) (s : State) : Answer :=
  let x := s.port p.val
  match x.failing with
  | none => .next s
  | some (lane, t) =>
    if s.time < t.toNat + 20000 then .next s
    else
      let s := (s.setPort p.val { x with spareState := 0, failing := none, laneMap := 7, retire := none }).emit (.laneMap p 7)
      match x.retire with
      | some m => .next (s.fail m stNoResource)
      | none => .next (s.laneMacDown p.val lane.val)

/-- The first link-up of a port takes the breakout and SPARE_EN that CTL holds, and the recorded spare (R381, R406). -/
def Port.trained (x : Port) : Port :=
  let on := bit x.ctl.toNat 61
  let y := { x with breakout := BitVec.ofNat 2 (bits x.ctl.toNat 62 2), spareOn := on }
  match x.recorded with
  | some l => if on then { y with spareState := 2, spareFor := BitVec.ofNat 2 l.val, failing := none } else y
  | none => y

/-- LINK_UP: a MAC's link training completes. -/
def execLinkUp (mac : Fin 16) (s : State) : Answer :=
  let p := mac.val / 4
  let down := (List.range 4).all (fun k => !(s.mac (4 * p + k)).up)
  let s1 := if down then s.modPort p Port.trained else s
  if s.dev.mode.code < 3 || s.pwr.serdesLost || (s.mac mac.val).up
      || breakoutMacs (s1.port p).breakout.toNat ≤ mac.val % 4 then .next s
  else
    let s2 := s1.modMac mac.val (fun x => { x with up := true, laneDown := false })
    .next (s2.raiseDev 0x8702 (pack [b1 mac.val, b2 (s2.lineMbps mac.val / 1000)]))

/-- LINK_DOWN: a MAC loses its link. -/
def execLinkDown (mac : Fin 16) (s : State) : Answer := .next (s.macDown mac.val 0)

end Sys2Proof.Machine
end

