-- ==== Sys2Proof/Machine/Mgmt.lean ====
section
/-! DEFINITION. Register writes, the management service and the board sideband: REGISTER_WRITE to MEM_ERR_LAST_CLEAR,
MGMT_READ to SMBUS_HEALTH (R12 to R18, R119, R138, R139, R301, R303, R304, R336, R337, R371, R374, R402 to R404, R407, R417,
R451 to R453; log 24). -/

namespace Sys2Proof.Machine

/-! ### Register writes (R15 to R18) -/

/-- AUD.PORT[n].CTL: RATE_THRESH 0 is reserved; no two ports of a group hold one position, no group more than 8 ports
(R344, R371, R372). -/
def State.writePortCtl (s : State) (n v : Nat) : State :=
  let x := s.aport n
  let g := bits v 60 4
  let k := bits v 57 3
  let clash := (List.range 16).any (fun j => j != n && (s.aport j).groupNo == g && (s.aport j).member == k)
  if s.groupRuns x.groupNo || s.groupRuns g then s
  else
    let c := if bits v 48 8 = 0 then x.ctl else setBits x.ctl 48 8 (bits v 48 8)
    let c := setBits c 56 1 (bits v 56 1)
    let c := if clash then c else setBits (setBits c 60 4 g) 57 3 k
    s.setAport n { x with ctl := c }

/-- AUD.GROUP[g].CTL: fields out of range keep their values, and both WORD and SLOT16 where SLOT16 is written with a WORD that it
does not serve (R17, R371, R374). -/
def AGroup.writeCtl (x : AGroup) (v : Nat) : W64 :=
  let keep := fun (c : W64) (lo len : Nat) (ok : Bool) => if ok then setBits c lo len (bits v lo len) else c
  let pair := !(bit v 42 && bits v 43 2 != 0)
  let c := keep x.ctl 46 18 (8000 ≤ bits v 46 18 && bits v 46 18 ≤ 192000)
  let c := keep c 45 1 true
  let c := keep c 42 1 pair
  let c := keep c 43 2 (pair && bits v 43 2 != 3)
  let c := keep c 38 4 true
  let c := keep c 24 8 true
  keep c 14 10 (5 ≤ bits v 14 10 && bits v 14 10 ≤ 500)

/-- MEM.SCRUB.CTL (R337). -/
def scrubWrite (c : W64) (v : Nat) : W64 :=
  let c := setBits c 62 2 (bits v 62 2)
  if 8 ≤ bits v 0 4 && bits v 0 4 ≤ 14 then setBits c 0 4 (bits v 0 4) else c

/-- NET.PORT[p].CTL (R407). -/
def portWrite (c : W64) (v : Nat) : W64 :=
  let c := if bits v 62 2 = 3 then c else setBits c 62 2 (bits v 62 2)
  let c := setBits c 53 9 (bits v 53 9)
  if bits v 32 16 = 0 then c else setBits c 32 16 (bits v 32 16)

/-- LOST bits cleared by ones (R453). -/
def State.clearLost (s : State) (v : W64) : State :=
  (List.range 64).foldl (fun t m => if v.getLsbD m then t.modMail m (fun x => { x with lost := false }) else t) s

/-- MEM.ERR.LAST cleared by a one in VALID (R336). -/
def State.clearLast (s : State) (v : W64) : State :=
  if v.getLsbD 63 then { s with health := { s.health with last := 0 } } else s

/-- A 64-bit write to a register of the device control block; `all` lets writes of WO fields act (Lortus and the hub). Read-only
registers, and offsets that name none, ignore it. -/
def State.ctlWrite (s : State) (off : Nat) (v : W64) (all : Bool) : State :=
  let n := v.toNat
  if off = 0x1000 then (if all then s.ringDoorbell (Fin.ofNat 64 (bits n 0 6)) else s)
  else if off = 0x1010 then s.clearLost v
  else if off = 0x10010 then s.clearLast v
  else if off = 0x10018 then { s with health := { s.health with scrubCtl := scrubWrite s.health.scrubCtl n } }
  else if 0x20000 ≤ off && off < 0x20100 then
    if off % 16 = 0 then s.writePortCtl ((off - 0x20000) / 16) n else s
  else if 0x20100 ≤ off && off < 0x20300 then
    let g := (off - 0x20100) / 32
    let x := s.group g
    if off % 32 = 0 then (if s.groupRuns g then s else s.setGroup g { x with ctl := x.writeCtl n })
    else if off % 32 = 8 then s.writeMask g n all
    else if off % 32 = 24 then s.setGroup g (x.helioWrite (s.groupRuns g) n)
    else s
  else if 0x30000 ≤ off && off < 0x30040 then
    if off % 16 = 0 then s.modPort ((off - 0x30000) / 16) (fun x => { x with ctl := portWrite x.ctl n }) else s
  else s

/-- REGISTER_WRITE: of a core's window or the device control block; every other address holds no register (R301). -/
def execRegisterWrite (a : DevAddr) (v : W64) (s : State) : Answer :=
  .next (if a.toNat % 8 ≠ 0 then s
    else match regionOf a.toNat with
      | .core n off => s.modCore n (fun c => c.regWrite off v)
      | .control off => s.ctlWrite off v true
      | _ => s)

/-- The number of a core's running instruction that has an identity; 0, no instruction's, where none runs any more. -/
def Core.runOf (c : Core) (id : NanIdent) : Nat :=
  let hit := fun (q : QEntry) => opTagOf q.w == id.opTag && q.pc == id.pc
  (((c.runs.map (·.q)) ++ (c.gate.map (·.q)).toList).find? hit).elim 0 (·.no)

/-- NAN_ID_CLEAR: a NaN that passes in the same core cycle is latched, and VALID ends 1 (R16, R119); a trap halts the core at the
end of the instruction it names, at once where that has ended (R118). -/
def execNanIdClear (c : Fin 1536) (v : W64) (raced : Option NanIdent) (s : State) : Answer :=
  let s := s.modCore c.val (fun k => k.regWrite 0xF0100 v)
  match raced with
  | some id => .next ((s.sawNan c.val id.tileQueue ((s.core c.val).runOf id) id.opTag id.pc).trapHalt c.val)
  | none => .next s

/-- MBX_LOST_CLEAR: bits that hardware sets in the same hub cycle end set (R16). -/
def execMbxLostClear (v raced : W64) (s : State) : Answer :=
  .next ((List.range 64).foldl (fun t m => if raced.getLsbD m then t.setLost (Fin.ofNat 64 m) else t) (s.clearLost v))

/-- MEM_ERR_LAST_CLEAR: an error in the same hub cycle is counted and latched (R16, R336). -/
def execMemErrLastClear (v : W64) (raced : Option MemError) (s : State) : Answer :=
  match raced with
  | some e => .next ((s.clearLast v).memError e)
  | none => .next (s.clearLast v)

/-! ### The management service (R402) -/

/-- The response of a request: the same header with its STATUS, and data. -/
def mgmtPacket (r : MgmtRequest) (status : Nat) (data : Bytes) : Bytes :=
  b1 r.op.toNat ++ b1 status ++ b2 r.tag.toNat ++ b2 r.length.toNat ++ b2 r.reserved.toNat ++ b8 r.addr.toNat ++ data

/-- An address is in the allow list; a list that was never set lets every source in (log 24). -/
def Mgmt.allows (x : Mgmt) (src : BitVec 128) : Bool :=
  match x.allow with
  | none => true
  | some l => l.any (fun e => src.toNat / 2 ^ (128 - min 128 e.2) == e.1.toNat / 2 ^ (128 - min 128 e.2))

end Sys2Proof.Machine

namespace Sys2Proof
open Sys2Proof.Machine

/-- A field of the header holds a reserved encoding. -/
def MgmtRequest.reservedField (r : MgmtRequest) : Bool :=
  r.status != 0 || r.reserved != 0 || r.length.toNat % 8 != 0 || r.length.toNat < 8 || 1024 < r.length.toNat
    || !([1, 2, 3].contains r.op.toNat)
    || (if r.op = 3 then 63 < r.addr.toNat else r.addr.toNat % 8 != 0)
    || (r.op == 2 && r.data.length != r.length.toNat)

/-- The range of a request lies in the mailbox region, or in the device control block (R303). -/
def MgmtRequest.inMailboxes (r : MgmtRequest) : Bool := mbxBase ≤ r.addr.toNat && r.addr.toNat + r.length.toNat ≤ mbxTop
def MgmtRequest.inControl (r : MgmtRequest) : Bool := ctlBase ≤ r.addr.toNat && r.addr.toNat + r.length.toNat ≤ ctlTop

end Sys2Proof

namespace Sys2Proof.Machine

/-- Offsets of the device control block whose register has an RW field: what the management port may write (R303). -/
def ctlWritable (off : Nat) : Bool :=
  off == 0x10018 || (0x20000 ≤ off && off < 0x20100 && off % 16 == 0)
    || (0x20100 ≤ off && off < 0x20300 && (off % 32 == 0 || off % 32 == 8 || off % 32 == 24))
    || (0x30000 ≤ off && off < 0x30040 && off % 16 == 0)

/-- What a first request answers and does: STATUS, data, state; a write that one of its words may not make is refused whole
(R304). -/
def State.mgmtAct (s : State) (r : MgmtRequest) : Nat × Bytes × State :=
  let a := r.addr.toNat
  let n := r.length.toNat
  if r.reservedField then (2, [], s)
  else if r.op = 3 then (0, [], s.ringDoorbell (Fin.ofNat 64 a))
  else if r.op = 1 then
    if r.inMailboxes || r.inControl then (0, s.bus a n, s) else (1, [], s)
  else if r.inMailboxes then (0, [], s.outerWrite a r.data)
  else if !r.inControl || !(List.range (n / 8)).all (fun k => ctlWritable (a - ctlBase + 8 * k)) then (1, [], s)
  else (0, [], (List.range (n / 8)).foldl (fun t k =>
    t.ctlWrite (a - ctlBase + 8 * k) (BitVec.ofNat 64 (le r.data (8 * k) 8)) false) s)

/-- A request is served from FW_LOAD on (R527), to an allowed source, once; within 1 s a repeated TAG of the source receives its
first response again. -/
def State.mgmtServe (s : State) (r : MgmtRequest) : State :=
  if s.dev.mode.code < 2 || !s.mgmt.allows r.src then s
  else
    let held := s.mgmt.answered.filter (fun e => s.time < e.2.2.1.toNat + 1000000000)
    match held.find? (fun e => e.1 == r.src && e.2.1 == r.tag) with
    | some e => ({ s with mgmt := { s.mgmt with answered := held } }).emit (.mgmt r.src e.2.2.2)
    | none =>
      let (st, data, t) := s.mgmtAct r
      let p := mgmtPacket r st data
      ({ t with mgmt := { t.mgmt with answered := held ++ [(r.src, r.tag, s.now, p)] } }).emit (.mgmt r.src p)

/-- MGMT_READ, and requests with a reserved OP. -/
def execMgmtRead (r : MgmtRequest) (s : State) : Answer := .next (if r.op = 2 || r.op = 3 then s else s.mgmtServe r)

/-- MGMT_WRITE. -/
def execMgmtWrite (r : MgmtRequest) (s : State) : Answer := .next (if r.op = 2 then s.mgmtServe r else s)

/-- MGMT_DOORBELL. -/
def execMgmtDoorbell (r : MgmtRequest) (s : State) : Answer := .next (if r.op = 3 then s.mgmtServe r else s)

/-! ### The board sideband (R403, R404) -/

/-- The sideband's 7-bit address: 0x58 plus the straps (R403). -/
def sidebandAddr : BitVec 7 := 0x58 + Config.slotId.setWidth 7

/-- A block read answers from ROM_BOOT on. -/
def State.sideband (s : State) (bs : Bytes) : State := if s.dev.mode = .off then s else s.emit (.smbus sidebandAddr bs)

/-- Data that are available from READY on; before, status 1 and zeros. -/
def State.sidebandLate (s : State) (bs : Bytes) : State :=
  s.sideband (if s.dev.mode.code < 4 then 1 :: zeros bs.length else 0 :: bs)

/-- SMBUS_IDENTITY: PART_NO and SERIAL. -/
def execSmbusIdentity (s : State) : Answer := .next (s.sideband (0 :: (partNo ++ serialNo)))

/-- SMBUS_STATE. -/
def execSmbusState (s : State) : Answer := .next (s.sideband (0 :: b1 s.dev.mode.code))

/-- SMBUS_TEMPERATURE. -/
def execSmbusTemperature (s : State) : Answer := .next (s.sidebandLate (i2 s.pwr.hottest ++ i2 s.pwr.coolant))

/-- SMBUS_POWER. -/
def execSmbusPower (s : State) : Answer := .next (s.sidebandLate (b2 s.pwr.inputMv.toNat ++ b2 s.pwr.powerW.toNat))

/-- SMBUS_HEALTH. -/
def execSmbusHealth (s : State) : Answer :=
  .next (s.sidebandLate (b2 s.spares.lost.length ++ b1 s.spareLowClusters.length ++ b1 s.degradedQuads ++ b2 s.failedMacs
    ++ b1 s.sup.working.toNat ++ b1 (min 255 s.retiring.length)))

end Sys2Proof.Machine
end

