-- ==== Sys2Proof/Machine/Health.lean ====
section
/-! DEFINITION. Memory commands and memory health, single faults as they are reported, wear and retirement: MEM_TIER_MOVE,
MEM_QUERY, SRAM_SCRUB, HBM_PATROL, REMAP_COPY_DONE, TIER_COPY_DONE, SINGLE_FAULT_REPORT, AGEING_SAMPLE, SPARE_QUERY,
WEAR_READ and UNIT_RETIRE (R42, R322 to R337, R467 to R485). -/

namespace Sys2Proof.Machine

/-! ### Moves between the tiers (R267, R330, R331) -/

/-- Sizes of MEM_TIER_MOVE's parameters. -/
def tierSizes : List Nat := [4, 1, 1, 1, 2, 2]

/-- The pages a MEM_TIER_MOVE names: layer and page of each. -/
def tierPages (pg : Bytes) : List (Nat × Nat) :=
  let v := par tierSizes pg
  (List.range (v 2)).flatMap (fun l => (List.range (v 5)).map (fun k => (v 1 + l, v 4 + k)))

/-- What R423 checks of MEM_TIER_MOVE. -/
def specMemTierMove : CmdSpec := CmdSpec.stream 0x801 tierSizes (fun pg => if par tierSizes pg 3 ≤ 1 then none else some 0x46)

/-- MEM_TIER_MOVE: pages the table does not hold are skipped at once, the others wait for a step start. -/
def execMemTierMove (m : Fin 64) (s : State) : Answer :=
  .next (s.runCmd m specMemTierMove (fun pg t =>
    let i := le pg 0x40 4 % 2 ^ 14
    let x := t.stream i
    if x.state = .opening || x.pageTable = 0 then t.fail m stState
    else if t.streamBusy i || !x.drainMbx.isEmpty then t.fail m stBusy
    else
      let all := tierPages pg
      let todo := all.filter (fun v => v.1 < t.ptLayers x && v.2 < t.ptMaxPages x)
      let c : TierCmd := ⟨m, Fin.ofNat 16384 i, par tierSizes pg 3 == 1, todo, 0, all.length - todo.length⟩
      let t := (t.modPart x.part.val (fun q => { q with tierCmds := q.tierCmds ++ [c] })).background m
      if todo.isEmpty then t.answerTier x.part.val else t))

/-- TIER_COPY_DONE: the page lies at its new slot, or a failed check of the source ends the move (R331). -/
def execTierCopyDone (i : Fin 16384) (layer page : Nat) (checkOk : Bool) (s : State) : Answer :=
  let p := (s.stream i.val).part.val
  match s.part? p with
  | none => .next s
  | some q =>
    let mine := fun (v : TierMove) => v.stream == i && v.layer == layer && v.page == page && v.phase == 0
    match q.moves.find? mine with
    | none => .next s
    | some v =>
      if checkOk && s.good v.oldSlot q.kvSlotBytes then
        let moves := q.moves.map (fun w => if mine w then { w with phase := 1 } else w)
        .next ((s.writeRaw v.newSlot (s.read v.oldSlot q.kvSlotBytes)).setPart p { q with moves := moves })
      else
        let q := q.giveSlots [(v.toLp, v.newSlot)]
        let q := { q with moves := q.moves.filter (fun w => !mine w),
                          tierCmds := q.tierCmds.map (fun c => if some c.mbx = v.mbx then { c with skipped := c.skipped + 1 } else c) }
        let b := s.firstBad v.oldSlot q.kvSlotBytes
        let s := (s.setPart p q).memError ⟨errKind b, false, BitVec.ofNat 48 b⟩
        let s := if errKind b = 4 then s.lpFailure b else s
        .next ((s.raise 0x8801 p 0 0 (pack [b1 (errKind b).toNat, b1 0, b8 b])).answerTier p)

/-- MEM_QUERY: the registers of R333 in its order. -/
def memRegs : List Nat :=
  [0x10000, 0x10008, 0x10010, 0x10018] ++ (List.range 4).map (fun k => 0x10100 + 8 * k)
    ++ (List.range 48).map (fun k => 0x10200 + 8 * k) ++ (List.range 48).map (fun k => 0x10400 + 8 * k)

/-- What R423 checks of MEM_QUERY. -/
def specMemQuery : CmdSpec := .plain 0x802

/-- MEM_QUERY. -/
def execMemQuery (m : Fin 64) (s : State) : Answer :=
  .next (s.runCmd m specMemQuery (fun _ t => t.ok m (memRegs.flatMap (fun off => b8 (t.ctlReg off).toNat))))

/-! ### SRAM scrubbing (R322 to R325) -/

/-- The SRAM unit that holds an address, where its bank is powered: kind, number and bank (R301, R481). -/
def State.sramUnit (s : State) (a : Nat) : Option (Nat × Nat × Nat) :=
  match regionOf (backing a) with
  | .cluster n off => if off < 0x800000 && (s.cluster n).banksOn.getLsbD (off / 0x20000) then some (4, n, off / 0x20000) else none
  | .core n off =>
    if off < 0x80000 then (if (s.core n).segOn.getLsbD (off / 0x10000) then some (3, n, coreBank off) else none)
    else if off < 0x90000 then (if (s.coreOwner n).isSome then some (2, n, 0) else none) else none
  | .hub off => some (6, off / 0x40000, 0)
  | _ => none

/-- The first address of the spare-replaceable row that holds an address (R325). -/
def rowOf (kind a : Nat) : Nat := if kind = 3 then a / 16 * 16 else a / 32 * 32

/-- The key under which errors of a bit column of a bank are noted, and of a row of a pseudo-channel. -/
def columnKey (kind a b col : Nat) : Nat := 2 ^ 62 + bankKey kind a b * 2 ^ 16 + col % 2 ^ 16
def hbmRowKey (p : Place) : Nat := 2 ^ 61 + (32 * p.chip + p.chan) * 2 ^ 40 + Config.hbmRow p.offset % 2 ^ 40

/-- A corrected error is noted for its row or column; answers whether it is the second within 24 hours, which has it replaced. -/
def State.rowError (s : State) (row : Nat) : Bool × State :=
  let h := s.health
  let recent := (tabGet h.rowErrs [] row).filter (fun t => s.time < t.toNat + 86400000000000)
  if recent.isEmpty then (false, { s with health := { h with rowErrs := tabPut h.rowErrs row [s.now] } })
  else (true, { s with health := { h with rowErrs := tabDel h.rowErrs row } })

/-- A repair of a row, or of a column, is made: at once for hub SRAM and unowned units, at the owner's next step boundary otherwise
(R325, R539). -/
def State.planRepair (s : State) (kind a b : Nat) (col : Bool) : State :=
  if kind = 6 then (s.repairBank 6 a 0 0xFFFF col).getD s
  else
    let u := unitId kind a b + flag col
    let owner := if kind = 4 then (s.clusterOwner a).map (·.val) else s.coreOwner a
    match owner with
    | some p => (s.modPart p (fun q => { q with unitWaits := q.unitWaits ++ [⟨BitVec.ofNat 64 u, none, none⟩] })).idleBoundary p
    | none => s.repairScratch u

/-- Firmware data that no spare row can hold any more is lost (R432). -/
def State.firmwareLost (s : State) (a : Nat) : Bool :=
  fwData ≤ backing a && backing a < hubTop &&
    s.bankSpent (bankKey 6 ((backing a - hubBase) / 0x40000) 0) 6

/-- An uncorrectable word found by scrubbing. Within the work of a running pass it is a fault of the bank (R324, R341). -/
def State.scrubLost (s : State) (a : DevAddr) (kind n b : Nat) : State :=
  let p := s.partOfAddr a.toNat
  let s := s.uncorrectable 1 true a p
  let f : FaultReport := ⟨if kind = 4 then 3 else if kind = 3 then 2 else if kind = 2 then 1 else 4,
    BitVec.ofNat 64 (unitId kind n b), a, s.hubLost a.toNat, true⟩
  let uses := fun c => if kind = 4 then c / 32 == n else c == n
  let busy := (p.map (fun k => s.runsOn k uses || s.replayUses k uses)).getD false
  if kind = 6 then if s.firmwareLost a.toNat then s.enterFaulted 3 else s.hubWordFault f n
  else if busy then
    if kind = 4 then s.clusterBankFault f n b else if kind = 3 then s.coreBankFault { f with lost := .nothing } n
    else s.coreUnitFault { f with lost := .nothing } n
  else
    let s := s.clearWord a
    let s := match p with
      | some k => s.modPart k (fun q => { q with rebuild := q.rebuild ++ [if kind = 4 then 1536 + n else n] })
      | none => s
    s.planRepair kind n b false

/-- SRAM_SCRUB: one access width is read, corrected and written back (R323). -/
def execSramScrub (a : DevAddr) (r : ScrubResult) (s : State) : Answer :=
  if s.dev.mode.code < 3 || !s.health.scrubCtl.getLsbD 63 then .next s
  else match s.sramUnit a.toNat with
    | none => .next s
    | some (kind, n, b) =>
      match r with
      | .clean => .next s
      | .corrected byAccess col =>
        let s := s.memError ⟨0, !byAccess, a⟩
        if kind = 2 then .next s
        else
          let (row, s) := s.rowError (rowOf kind (backing a.toNat))
          let (column, s) := s.rowError (columnKey kind n b col)
          .next (if row then s.planRepair kind n b false else if column then s.planRepair kind n b true else s)
      | .uncorrectable => .next (s.scrubLost a kind n b)

/-! ### HBM3E patrol (R326 to R328) -/

/-- The sector code corrects a sector, in a read or by the patrol: counted and latched, noted for the pseudo-channel; the second of
a row within 24 hours has the row repaired softly (R310, R326, R327). -/
def State.sectorCorrected (s : State) (scrub : Bool) (a : DevAddr) : State :=
  let s := s.memError ⟨2, scrub, a⟩
  let p := s.hbmNow a.toNat
  let c := 32 * p.chip + p.chan
  let h := s.health
  let recent := (tabGet h.pcErrs [] c).filter (fun t => s.time < t.toNat + 3600000000000)
  let s := { s with health := { h with pcErrs := tabPut h.pcErrs c (recent ++ [s.now]) } }
  let (again, s) := s.rowError (hbmRowKey p)
  if again then s.softRepair p.chip p.chan else s

/-- A sector cannot be corrected: counted, latched and reported, its row repaired softly (R326, R336). -/
def State.sectorLost (s : State) (a : DevAddr) : State :=
  let s := s.memError ⟨3, true, a⟩
  let s := { s with badSpans := if a.toNat < hbmResTop then s.badSpans ++ [a.toNat / 256] else s.badSpans }
  let s := s.raise 0x8801 ((s.partOfAddr a.toNat).getD 0xFF) 0 0 (pack [b1 3, b1 1, b8 a.toNat])
  s.softRepair (s.hbmNow a.toNat).chip (s.hbmNow a.toNat).chan

/-- More than 1,000 sectors of a pseudo-channel were corrected within one hour (R327). -/
def State.degrading (s : State) (stack pc : Nat) : Bool :=
  1000 < ((tabGet s.health.pcErrs [] (32 * stack + pc)).filter (fun t => s.time < t.toNat + 3600000000000)).length

/-- A degrading pseudo-channel is copied to the remap spare, or its quadrant is degraded (R327, R328). -/
def State.remapDegrading (s : State) (stack pc : Nat) : State :=
  let q := stack / 3 % 4
  let x := s.quad q
  if x.remapState = 0 then
    s.setQuad q { x with remapState := 1, stack := BitVec.ofNat 2 (stack % 3), pc := BitVec.ofNat 5 pc }
  else if x.stack.toNat = stack % 3 && x.pc.toNat = pc then s
  else if x.remapState = 3 then s
  else (s.setQuad q { x with remapState := 3 }).raiseDev 0x8903 (pack [b1 q, b1 0])

/-- In MAINTENANCE Lortus turns a quadrant's soft repairs into hard ones (R326). -/
def State.hardenRows (s : State) (q : Nat) : State :=
  let x := s.quad q
  if s.dev.mode = .maintenance then
    s.setQuad q { x with pprHard := satAdd x.pprHard x.pprSoft.toNat, pprSoft := 0 }
  else s

/-- HBM_PATROL: one patrol of a pseudo-channel. -/
def execHbmPatrol (stack : Fin 12) (pc : Fin 32) (r : PatrolResult) (s : State) : Answer :=
  if s.dev.mode.code < 3 || !s.health.scrubCtl.getLsbD 62 then .next s
  else
    let s := r.byRead.foldl (State.sectorCorrected · false) s
    let s := r.corrected.foldl (State.sectorCorrected · true) s
    let s := r.uncorrectable.foldl State.sectorLost s
    let s := (if r.uncorrectable.isEmpty then s else s.mendLost).hardenRows (stack.val / 3)
    if r.failed then .next (s.remapFailed stack.val pc.val).mendLost
    else if r.exhausted || s.degrading stack.val pc.val then .next (s.remapDegrading stack.val pc.val)
    else .next s

/-- REMAP_COPY_DONE: the copy has finished and the remap is recorded (R327). -/
def execRemapCopyDone (q : Fin 4) (s : State) : Answer :=
  let x := s.quad q.val
  if x.remapState = 1 then
    let stack := 3 * q.val + x.stack.toNat
    let s := (s.setQuad q.val { x with remapState := 2 }).wear (unitId 7 stack x.pc.toNat) 0 4 0 0xFFFF 0
    .next (s.raiseDev 0x8802 (pack [b1 stack, b1 x.pc.toNat, b1 0]))
  else .next s

/-! ### Supervisors out of service (R411, R432, R467, R484) -/

/-- A supervisor no longer works: the standby or a loading spare is replaced, the primary fails over. -/
def State.supervisorGone (s : State) (n : Nat) : State :=
  let u := s.sup
  let w := u.working &&& ~~~ BitVec.ofNat 4 (2 ^ n)
  let f : FaultReport := ⟨10, BitVec.ofNat 64 (supUnit n), 0, .nothing, true⟩
  if !u.working.getLsbD n then s
  else if n = u.primary.val then s.primaryFails
  else
    let off := { s with sup := { u with working := w } }
    let off := if u.standbyValid && n == u.standby.val then
        { off with sup := { off.sup with standbyValid := false } }.loadSpare
      else if u.loading.map (·.val) = some n then off.loadSpare else off
    off.recoveredNow none f 0 0xFFFF

/-! ### Ageing and retirement (R42, R483) -/

/-- An island past its retirement threshold is marked; a spare takes its place at the owner's next boundary, at once without
an owner; while no spare is free its clock is lowered within R40, at the marking and at each boundary that finds none. -/
def State.retireIsland (s : State) (core : Nat) : State :=
  if (s.core core).retirePending then s
  else
    let s := s.modCore core (fun c => { c with retirePending := true })
    let u : UnitWait := ⟨BitVec.ofNat 64 (unitId 0xB core 0), none, none⟩
    let s := if (s.freePositions (core / 32)).isEmpty then s.slowIsland core else s
    match s.coreOwner core with
    | some p => (s.modPart p (fun q => { q with unitWaits := q.unitWaits ++ [u] })).idleBoundary p
    | none => (s.retireNow u).getD (s.slowIsland core)

/-- AGEING_SAMPLE: slowdown in 0.001 %, stored when it has moved by 0.100 % since the last stored sample (R483). -/
def execAgeingSample (c : Fin 1536) (slowdown : Nat) (s : State) : Answer :=
  if s.dev.mode.code < 3 then .next s
  else
    let last := (s.core c.val).slowdown
    let s := if last + 100 ≤ slowdown || slowdown + 100 ≤ last then
        (s.modCore c.val (fun k => { k with slowdown := slowdown })).wear (unitId 0xB c.val 0) (s.corePhys c.val 0) 6 0 c.val slowdown
      else s
    .next (if 5000 ≤ slowdown then s.retireIsland c.val else s)

/-! ### Single faults (R467) -/

/-- SINGLE_FAULT_REPORT: the rows of R467 from 0. -/
def execSingleFaultReport (f : FaultReport) (s : State) : Answer :=
  let a := bits f.unit.toNat 32 16
  if s.dev.mode.code < 3 then .next s
  else match f.cls.val with
    | 9 => .next (s.laneFails (a % 4) (Fin.ofNat 5 (bits f.unit.toNat 16 16)))
    | 10 => .next (if a < 4 then s.supervisorGone a else s)
    | 11 => .next (if a < 1536 then s.retireIsland a else s)
    | 4 =>
      if s.firmwareLost f.addr.toNat then
        .next ((s.uncorrectable 1 false f.addr none).enterFaulted 3)
      else .next (s.unitFault f)
    | _ => .next (s.unitFault f)

/-! ### SPARE_QUERY and WEAR_READ (R485) -/

/-- The logical core that a physical core serves. -/
def State.servedBy (s : State) (cl pos : Nat) : Option Nat :=
  (List.range 32).findSome? (fun k => if s.posOf (32 * cl + k) = pos && !s.spares.lost.contains (32 * cl + k) then some (32 * cl + k) else none)

/-- A record of kind 9. -/
def spareRecord (unit phys status core power : Nat) : Bytes := unitRecord unit phys 9 status core 0 power

/-- The spare tile of a physical core that has not failed. -/
def State.tileRecord (s : State) (cl pos : Nat) : Bytes :=
  let ph := 34 * cl + pos
  let core := (s.servedBy cl pos).getD 0xFFFF
  let (b, st) := match tabGet? s.spares.spareTile ph with
    | none => (0xFFFF, 0)
    | some (some t) => (t.val, 1)
    | some none => (0xFFFF, 2)
  spareRecord (unitId 1 core b) (physOfCore ph 16) st core s.powerMin

/-- A spare core position: 32 or 33 of a cluster. -/
def State.coreRecord (s : State) (cl pos : Nat) : Bytes :=
  let ph := 34 * cl + pos
  let core := (s.servedBy cl pos).getD 0xFFFF
  let st := if s.spares.failedCores.contains ph then 2 else if core = 0xFFFF then 0 else 1
  spareRecord (unitId 2 core 0) (physOfCore ph 0) st core s.powerMin

/-- A port's spare lane. -/
def State.laneRecord (s : State) (p : Nat) : Bytes :=
  let st := match (s.port p).spareState.toNat with
    | 0 => 0
    | 3 => 2
    | _ => 1
  spareRecord (unitId 9 p 4) (physOf 0 0 0 4) st 0xFFFF s.powerMin

/-- A supervisor: available as a spare, in a role, or not working. -/
def State.supRecord (s : State) (n : Nat) : Bytes :=
  let u := s.sup
  let st := if !u.working.getLsbD n then 2
    else if n = u.primary.val || (u.standbyValid && n == u.standby.val) || u.loading.map (·.val) = some n then 1 else 0
  spareRecord (supUnit n) 0 st 0xFFFF s.powerMin

/-- The records of SPARE_QUERY. -/
def State.spareRecords (s : State) : List Bytes :=
  (List.range 48).flatMap (fun cl =>
    ((List.range 34).filter (fun k => !s.spares.failedCores.contains (34 * cl + k))).map (fun k => s.tileRecord cl k))
  ++ (List.range 48).flatMap (fun cl => [32, 33].map (fun k => s.coreRecord cl k))
  ++ (List.range 4).map s.laneRecord ++ (List.range 4).map s.supRecord

/-- Bytes go to DST and LENGTH answers (R433, R485). -/
def State.sendList (s : State) (m : Fin 64) (dst : Nat) (data : Bytes) (ok : Bool) : State :=
  match s.hostWrite m (BitVec.ofNat 64 dst) data ok with
  | some t => t.ok m (b4 data.length)
  | none => s.fail m stRemote

/-- What R423 checks of SPARE_QUERY. -/
def specSpareQuery : CmdSpec := CmdSpec.ctl 0x903 [8] (fun pg => if domainOk (le pg 0x40 8) then none else some 0x40)

/-- SPARE_QUERY. -/
def execSpareQuery (m : Fin 64) (ok : Bool) (s : State) : Answer :=
  .next (s.runCmd m specSpareQuery (fun pg t => t.sendList m (le pg 0x40 8) (t.spareRecords.flatMap id) ok))

/-- What R423 checks of WEAR_READ. -/
def specWearRead : CmdSpec := CmdSpec.ctl 0x904 [4, 8] (fun pg => if domainOk (le pg 0x48 8) then none else some 0x48)

/-- WEAR_READ: records from number OFFSET, at most 64 KiB. -/
def execWearRead (m : Fin 64) (ok : Bool) (s : State) : Answer :=
  .next (s.runCmd m specWearRead (fun pg t =>
    let l := (t.flash.wear.filter (fun r => le pg 0x40 4 ≤ le r 24 4)).take 2048
    t.sendList m (le pg 0x48 8) (l.flatMap id) ok))

/-! ### UNIT_RETIRE (R484) -/

/-- A unit identifier is well formed: an assigned kind, its numbers in range, every other bit zero (R481). -/
def unitOk (u : Nat) : Bool :=
  let a := bits u 32 16
  let b := bits u 16 16
  bits u 48 8 == 0 && bits u 0 16 == 0 && (match bits u 56 8 with
    | 1 => a < 1536 && b < 16
    | 2 => a < 1536 && b == 0
    | 3 => a < 1536 && b == 0
    | 4 => a < 48 && b < 64
    | 5 => a < 48 && b == 0
    | 6 => a < 256 && b == 0
    | 7 => a < 12 && b < 32
    | 8 => a < 8 && b < 4
    | 9 => a < 4 && b < 5
    | 0xA => a < 4 && b == 0
    | 0xB => a < 1536 && b == 0
    | _ => false)

/-- A supervisor is retired at once; the response follows when a spare is standby. -/
def State.retireSup (s : State) (m : Fin 64) (n : Nat) : State :=
  let u := s.sup
  let off := fun (t : State) => ({ t with sup := { t.sup with working := t.sup.working &&& ~~~ BitVec.ofNat 4 (2 ^ n) } }).wear
    (supUnit n) 0 2 0 0xFFFF 0
  let wait := fun (t : State) => ({ t with sup := { t.sup with retireMbx := some m } }).background m
  let spare := (List.range 4).any (fun k => u.working.getLsbD k && k != u.primary.val && k != n
    && !(u.standbyValid && k == u.standby.val))
  let isStandby := u.standbyValid && n == u.standby.val
  if !u.working.getLsbD n then s.fail m stState
  else if u.retireMbx.isSome then s.fail m stBusy
  else if n = u.primary.val then
    if u.standbyValid && spare then wait ((off (s.takeover 2 true))) else s.fail m stNoResource
  else if isStandby then
    if spare then wait ((off { s with sup := { u with standbyValid := false } }).loadSpare) else s.fail m stNoResource
  else if u.loading.map (·.val) = some n then ((off s).loadSpare).ok m []
  else (off s).ok m []

/-- A lane's traffic is moved to the spare lane, as after a failure (R381, R484). -/
def State.retireLane (s : State) (m : Fin 64) (p lane : Nat) : State :=
  let x := s.port p
  if lane < 4 && x.spareOn && x.spareState == 0 then
    let code := BitVec.ofNat 3 lane
    ((s.setPort p { x with spareState := 1, failing := some (Fin.ofNat 5 lane, s.now), laneMap := code, retire := some m }).emit
      (.laneMap (Fin.ofNat 4 p) code)).background m
  else s.fail m stNoResource

/-- A tile or core: lost ones are refused, an owned one waits for its partition's boundary. -/
def State.retireCore (s : State) (m : Fin 64) (u : Nat) : State :=
  let core := bits u 32 16
  let w : UnitWait := ⟨BitVec.ofNat 64 u, some m, none⟩
  let spare := !(s.freePositions (core / 32)).isEmpty || (bits u 56 8 == 1 && s.spareTileFree (s.physCore core))
  if s.spares.lost.contains core then s.fail m stState
  else if !spare then s.fail m stNoResource
  else match s.coreOwner core with
    | some p => ((s.modPart p (fun q => { q with unitWaits := q.unitWaits ++ [w] })).background m).idleBoundary p
    | none => match s.retireNow w with
      | some t => t.ok m []
      | none => s.fail m stNoResource

/-- The unit's replacement waits already. -/
def State.retireWaits (s : State) (u : Nat) : Bool :=
  s.parts.any (fun q => q.2.unitWaits.any (fun w => w.unit.toNat == u && w.mbx.isSome))

/-- What R423 checks of UNIT_RETIRE. -/
def specUnitRetire : CmdSpec := CmdSpec.ctl 0x905 [8] (fun pg => if unitOk (le pg 0x40 8) then none else some 0x40)

/-- UNIT_RETIRE. -/
def execUnitRetire (m : Fin 64) (s : State) : Answer :=
  .next (s.runCmd m specUnitRetire (fun pg t =>
    let u := le pg 0x40 8
    let a := bits u 32 16
    let b := bits u 16 16
    match bits u 56 8 with
    | 1 => if t.retireWaits u then t.fail m stBusy else t.retireCore m u
    | 2 => if t.retireWaits u then t.fail m stBusy else t.retireCore m u
    | 9 => t.retireLane m a b
    | 0xA => t.retireSup m a
    | _ => t.fail m stTarget))

end Sys2Proof.Machine
end

