-- ==== Sys2Proof/Machine/SelfTests.lean ====
section
/-! DEFINITION. Self-tests: TEST_START, TEST_COMPLETE and TEST_RESULT (R486 to R489). -/

namespace Sys2Proof.Machine

/-- The test that applies to a kind of unit: 1 logic, 2 memory, 0 none (R486). -/
def testOf (kind : Nat) : Nat :=
  if [1, 2, 5, 0xA].contains kind then 1 else if [3, 4, 6, 7, 8].contains kind then 2 else 0

/-- The units of a kind (R481), those of lost cores apart (R26). -/
def State.unitsOf (s : State) (kind : Nat) : List Nat :=
  let cores := (List.range 1536).filter (fun c => !s.spares.lost.contains c)
  let grid := fun (n k : Nat) => (List.range n).flatMap (fun a => (List.range k).map (fun b => unitId kind a b))
  match kind with
  | 1 => cores.flatMap (fun c => (List.range 16).map (fun b => unitId 1 c b))
  | 2 => cores.map (fun c => unitId 2 c 0)
  | 3 => cores.map (fun c => unitId 3 c 0)
  | 4 => grid 48 64
  | 5 => grid 48 1
  | 6 => grid 256 1
  | 7 => grid 12 32
  | 8 => grid 8 4
  | 0xA => grid 4 1
  | _ => []

/-- The units a TEST_START names. -/
def State.testUnits (s : State) (scope kind unit : Nat) : List Nat :=
  match scope with
  | 0 => [unit]
  | 1 => s.unitsOf (bits unit 56 8)
  | _ => ([1, 2, 3, 4, 5, 6, 7, 8, 0xA].filter (fun k => kind == 3 || testOf k == kind)).flatMap s.unitsOf

/-- How a unit can be tested (R487). -/
inductive TestWay where
  | inPlace
  | roll (part : Nat)
  | neither
  deriving DecidableEq, Repr

/-- The way of a unit in the present state: in place in MAINTENANCE and where no partition owns it, rolled where a spare serves
for it. -/
def State.testWay (s : State) (unit : Nat) : TestWay :=
  let kind := bits unit 56 8
  let a := bits unit 32 16
  let spareCore := !(s.freePositions (a / 32)).isEmpty
  if s.dev.mode = .maintenance then .inPlace
  else match kind with
    | 0xA =>
      let u := s.sup
      let role := a == u.primary.val || (u.standbyValid && a == u.standby.val) || u.loading.map (·.val) == some a
      let spare := (List.range 4).any (fun k => u.working.getLsbD k && k != u.primary.val && !(u.standbyValid && k == u.standby.val))
      if !role || (u.standbyValid && spare) then .inPlace else .neither
    | 4 => if (s.clusterOwner a).isNone then .inPlace else .neither
    | 5 => if (s.clusterOwner a).isNone then .inPlace else .neither
    | 6 => if s.parts.isEmpty then .inPlace else .neither
    | 7 => .neither
    | 8 => .neither
    | _ =>
      if s.spares.lost.contains a then .neither
      else match s.coreOwner a with
        | none => .inPlace
        | some p => if (if kind = 1 then s.spareTileFree (s.physCore a) else spareCore) then .roll p else .neither

/-- The unit waits for the boundary at which a test rolls it. -/
def State.rollWaits (s : State) (unit : Nat) : Bool :=
  s.parts.any (fun q => q.2.unitWaits.any (fun w => w.unit.toNat == unit && w.test.isSome))

/-- A supervisor serves in a role, or loads Lortus to do so. -/
def State.supServes (s : State) (n : Nat) : Bool :=
  let u := s.sup
  n == u.primary.val || (u.standbyValid && n == u.standby.val) || u.loading.map (·.val) == some n

/-- Sizes of TEST_START's parameters. -/
def testSizes : List Nat := [1, 1, 8]

/-- The first faulty field of TEST_START: SCOPE, KIND, UNIT, or a pairing R486 does not name. -/
def testRange (pg : Bytes) : Option Nat :=
  let scope := par testSizes pg 0
  let kind := par testSizes pg 1
  let u := par testSizes pg 2
  if scope > 2 then some 0x40
  else if kind = 0 || kind > 3 then some 0x41
  else if scope = 2 then none
  else if scope = 0 && !unitOk u then some 0x48
  else if bits u 48 8 ≠ 0 || bits u 0 16 ≠ 0 then some 0x48
  else if testOf (bits u 56 8) = 0 then some 0x48
  else if testOf (bits u 56 8) ≠ kind then some 0x41
  else none

/-- What R423 checks of TEST_START. -/
def specTestStart : CmdSpec := .ctl 0x901 testSizes testRange

/-- TEST_START: in place at once, rolled at the owner's next step boundary (R487). -/
def execTestStart (m : Fin 64) (s : State) : Answer :=
  .next (s.runCmd m specTestStart (fun pg t =>
    let scope := par testSizes pg 0
    if scope = 2 && t.dev.mode != .maintenance then t.fail m stState
    else
      let l := t.testUnits scope (par testSizes pg 1) (par testSizes pg 2)
      if l.any (fun u => t.underTest u || t.testWay u == .neither) then t.fail m stBusy
      else
        let v : SelfTest := ⟨BitVec.ofNat 32 t.nextTest, some m, par testSizes pg 1, l.map (BitVec.ofNat 64), [], []⟩
        let keep := t.tests.filter (fun w => w.mbx.isSome || decide (t.nextTest < w.id.toNat + 16))
        let ways := l.filterMap (fun u => match t.testWay u with
          | .roll p => some (p, u)
          | _ => none)
        let t := ({ t with tests := keep ++ [v], nextTest := t.nextTest + 1 }).background m
        let t := ways.foldl (fun r w => r.modPart w.1 (fun q =>
          { q with unitWaits := q.unitWaits ++ [⟨BitVec.ofNat 64 w.2, none, some v.id.toNat⟩] })) t
        ((List.range 16).foldl (fun r p => if ways.any (fun w => w.1 == p) then r.idleBoundary p else r) t).rollSups))

/-- The memory a test has covered holds zero with valid check values (R487). -/
def State.zeroUnit (s : State) (unit : Nat) : State :=
  { s with mem := s.mem.filter (fun c => s.memUnit c.1 != unit),
           badSpans := s.badSpans.filter (fun k => s.memUnit (256 * k) != unit) }

/-- A unit in a test can be tested now; one that came to serve a partition meanwhile cannot. -/
def State.stillTestable (s : State) (unit : Nat) : Bool :=
  match s.testWay unit with
  | .inPlace => true
  | _ => false

/-- The partitions whose units wait to roll come to their boundary again. -/
def State.nextRolls (s : State) : State :=
  (List.range 16).foldl (fun t p => match t.part? p with
    | some q => if q.unitWaits.any (fun w => w.test.isSome) then t.idleBoundary p else t
    | none => t) s

/-- TEST_COMPLETE: one unit's test ends with its signature (R487, R489). -/
def execTestComplete (test : Nat) (unit signature : W64) (s : State) : Answer :=
  let u := unit.toNat
  let kind := bits u 56 8
  let a := bits u 32 16
  match s.tests.find? (fun t => t.id.toNat == test && t.mbx.isSome && t.todo.contains unit) with
  | none => .next s
  | some t =>
    if s.rollWaits u then .next s
    else
      let pass := signature == Config.testSignature kind (testOf kind)
      let st := if pass then 0 else 1
      match t.rolled.find? (fun r => r.1 == unit) with
      | some r =>
        let s := if pass then s.returnRolled unit r.2 else s
        .next ((s.endUnitTest t.id unit (physOfCore r.2 (if kind = 1 then bits u 16 16 else 0)) st signature.toNat).nextRolls)
      | none =>
        if kind = 0xA then
          if s.supServes a && s.dev.mode != .maintenance then .next s
          else
            let s := s.endUnitTest t.id unit 0 st signature.toNat
            let s := if pass then s else s.supervisorGone a
            let s := if s.sup.standbyValid || s.sup.loading.isSome then s else s.loadSpare
            .next s.rollSups
        else if s.stillTestable u then
          let s := if testOf kind = 2 then s.zeroUnit u else s
          .next ((s.endUnitTest t.id unit (s.physUnit u) st signature.toNat).nextRolls)
        else .next ((s.endUnitTest t.id unit (s.physUnit u) 2 0).nextRolls)

/-- The overall digest of a test (R489). -/
def SelfTest.digest (t : SelfTest) : Bytes :=
  let l := sortByKey (fun r => le r 0 8) t.records
  shake256 64 (l.flatMap (fun r => patch r 24 (zeros 8)))

/-- Sizes of TEST_RESULT's parameters. -/
def testResultSizes : List Nat := [4, 8]

/-- What R423 checks of TEST_RESULT. -/
def specTestResult : CmdSpec := CmdSpec.ctl 0x902 testResultSizes (fun pg => if domainOk (par testResultSizes pg 1) then none else some 0x48)

/-- TEST_RESULT: of the last 16 tests (R489). -/
def execTestResult (m : Fin 64) (ok : Bool) (s : State) : Answer :=
  .next (s.runCmd m specTestResult (fun pg t =>
    match t.tests.find? (fun v => v.id.toNat == par testResultSizes pg 0 && decide (t.nextTest ≤ v.id.toNat + 16)) with
    | none => t.respond m stParam 0x40 []
    | some v =>
      if v.mbx.isSome then t.fail m stBusy
      else
        let l := sortByKey (fun r => le r 0 8) v.records
        let failed := (l.filter (fun r => le r 13 1 == 1)).length
        let out := pack [b4 l.length, b4 failed, v.digest]
        if par testResultSizes pg 1 = 0 then t.ok m out
        else match t.hostWrite m (BitVec.ofNat 64 (par testResultSizes pg 1)) (l.flatMap id) ok with
          | some t => t.ok m out
          | none => t.fail m stRemote))

end Sys2Proof.Machine
end

