-- ==== Sys2Proof/Machine/Telem.lean ====
section
/-! DEFINITION. The telemetry commands TELEM_READ, TELEM_SEEING_CFG and TELEM_SENSORS (R85, R433). -/

namespace Sys2Proof.Machine

/-- The telemetry counters as TELEM_READ writes them: no rule lists them (log 25). -/
def State.telemetry (s : State) : Bytes :=
  (List.range Config.telemetryLength).map (fun n => Config.telemetryByte n s.time)

/-- What R423 checks of TELEM_READ. -/
def specTelemRead : CmdSpec := CmdSpec.ctl 0xB01 [8] (fun pg => if domainOk (le pg 0x40 8) then none else some 0x40)

/-- TELEM_READ. -/
def execTelemRead (m : Fin 64) (ok : Bool) (s : State) : Answer :=
  .next (s.runCmd m specTelemRead (fun pg t => t.sendList m (le pg 0x40 8) t.telemetry ok))

/-- Sizes of TELEM_SEEING_CFG's parameters. -/
def seeingSizes : List Nat := [1, 2, 4, 8]

/-- A seeing report that has just been set (R85). -/
def Seeing.start (ring : W64) (entries period : Nat) (first : SeeingTally) : Seeing :=
  { toSeeingTally := first, ring := ring, entries := entries, period := period, recordNo := 0, due := [] }

/-- What R423 checks of TELEM_SEEING_CFG. -/
def specTelemSeeingCfg : CmdSpec := CmdSpec.partition 0xB02 seeingSizes (fun pg =>
    if par seeingSizes pg 1 = 0 then some 0x42
    else if !powTwoIn (par seeingSizes pg 2) 2 65536 then some 0x44
    else if !domainOk (par seeingSizes pg 3) then some 0x48 else none)

/-- TELEM_SEEING_CFG. -/
def execTelemSeeingCfg (m : Fin 64) (s : State) : Answer :=
  .next (s.runCmd m specTelemSeeingCfg (fun pg t =>
    let p := par seeingSizes pg 0
    let ring := BitVec.ofNat 64 (par seeingSizes pg 3)
    match t.live? p with
    | none => t.fail m stState
    | some q =>
      if devOf ring = t.dev.deviceNo.toNat then t.fail m stTarget
      else (t.setPart p { q with seeing := some (Seeing.start ring (par seeingSizes pg 2) (par seeingSizes pg 1)
        (t.beginTally q q.stepNo)) }).ok m []))

/-- The hottest sensor of a quadrant: its fabric island and its cores. -/
def State.quadTemp (s : State) (q : Nat) : Int :=
  ((s.pwr.coreTemp.filter (fun c => c.1 / 384 == q)).map (·.2)).foldl max (s.pwr.fabricTemp.getD q 0)

/-- What R423 checks of TELEM_SENSORS. -/
def specTelemSensors : CmdSpec := .plain 0xB03

/-- TELEM_SENSORS. -/
def execTelemSensors (m : Fin 64) (s : State) : Answer :=
  .next (s.runCmd m specTelemSensors (fun _ t => t.ok m (pack [(List.range 4).flatMap (fun q => i2 (t.quadTemp q)), i2 t.pwr.hubTemp,
    i2 t.pwr.coolant, b2 t.pwr.inputMv.toNat, b2 t.pwr.powerW.toNat])))

end Sys2Proof.Machine
end

