-- ==== Sys2Proof/Machine/Security.lean ====
section
/-! DEFINITION. Identity, firmware images, attestation and the anti-rollback counter: SEC_IDENTITY, SEC_QUOTE, SEC_FW_UPDATE,
SEC_FW_ACTIVATE, SEC_COUNTER_ADVANCE and FUSE_BLOW_DONE (R493 to R510). -/

namespace Sys2Proof.Machine

/-! ### Keys and certificates (R493, R496) -/

/-- "IVX3-DIK" and "IVX3-ALIAS". -/
def dikLabel : Bytes := [0x49, 0x56, 0x58, 0x33, 0x2D, 0x44, 0x49, 0x4B]
def aliasLabel : Bytes := [0x49, 0x56, 0x58, 0x33, 0x2D, 0x41, 0x4C, 0x49, 0x41, 0x53]

/-- Seeds of the device identity key and the alias key. -/
def dikSeed (uds : Bytes) : Bytes := (digest64 (uds ++ dikLabel)).take 57
def aliasSeedOf (uds mFw : Bytes) : Bytes := (digest64 (uds ++ mFw ++ aliasLabel)).take 57

/-- The signed part of an alias certificate. -/
def aliasBody (dikPub mFw aliasPub : Bytes) : Bytes :=
  b2 2 ++ b2 1 ++ zeros 4 ++ (digest64 dikPub).take 8 ++ serialNo ++ mFw ++ aliasPub ++ zeros 7

/-- The alias certificate, signed by the DIK. -/
def aliasCertificate (seed mFw aliasPub : Bytes) : Bytes :=
  let body := aliasBody (edPublic seed) mFw aliasPub
  body ++ edSign seed body ++ zeros 14

/-- The device certificate as flash holds it, 288 bytes. -/
def State.deviceCertificate (s : State) : Bytes := padTo 288 (s.flash.deviceCert.take 288)

/-! ### Firmware images (R498, R500) -/

/-- SEC_VERSION and FW_VERSION of an image, its measurement. -/
def fwSec (b : Bytes) : Nat := le b 6 1
def fwVer (b : Bytes) : Nat := le b 8 4
def fwMeasure (b : Bytes) : Bytes := digest64 (slice b 0 0x80)

/-- The first failure of R500 and of R505's length, as a status. -/
def fwFault (root : Bytes) (counter : Nat) (b : Bytes) (total : Nat) : Option Nat :=
  let n := le b 0xC 4
  let form := 256 ≤ b.length && le b 0 4 == 0x46574C4F && le b 4 2 == 1 && zeroField b 7 1 && zeroField b 0x50 48
    && zeroField b 0xF2 14 && fwSec b ≤ 64 && n % 256 == 0 && within n 256 33554176 && total == 256 + n && b.length == total
  if !form then some stParam
  else if fwSec b < counter then some stCounter
  else if !edVerify root (slice b 0 0x80) (slice b 0x80 114) then some stSignature
  else if digest64 (slice b 256 n) != slice b 0x10 64 then some stDigest
  else none

/-- A slot passes the ROM's check. A flash slot holds what follows its image too, so only the image's bytes count. -/
def State.slotPasses (s : State) (b : Bool) : Bool :=
  let x := s.flash.fw b
  (fwFault s.sec.rootKey s.sec.counter x.bytes x.bytes.length).isNone

/-! ### SEC_IDENTITY and SEC_QUOTE -/

/-- What R423 checks of SEC_IDENTITY. -/
def specSecIdentity : CmdSpec := CmdSpec.ctl 0xA01 [8] (fun pg => if domainOk (le pg 0x40 8) then none else some 0x40)

/-- SEC_IDENTITY (R497). -/
def execSecIdentity (m : Fin 64) (ok : Bool) (s : State) : Answer :=
  .next (s.runCmd m specSecIdentity (fun pg t =>
    let dst := le pg 0x40 8
    if dst = 0 then t.ok m (pack [t.sec.dikPub, b4 0])
    else match t.hostWrite m (BitVec.ofNat 64 dst) (t.deviceCertificate ++ t.sec.aliasCert) ok with
      | some t => t.ok m (pack [t.sec.dikPub, b4 576])
      | none => t.fail m stRemote))

/-- Bytes 0x000 to 0x50F of a quote (R509). -/
def State.quoteBody (s : State) (nonce : Bytes) (seq : Nat) : Bytes :=
  let cfg := s.currentCfg
  let part := fun p => match (s.live? p).bind (·.served?) with
    | some o => o.digest
    | none => zeros 64
  b2 0x41 ++ b2 1 ++ b1 s.sec.counter ++ b1 s.dev.mode.code ++ b1 s.sup.primary.val ++ zeros 1 ++ b4 s.sec.fwVersion.toNat
    ++ b4 s.cfgVersion ++ serialNo ++ nonce ++ Config.romMeasure ++ s.sec.mFw
    ++ ((cfg.map (fun c => slice c.image 0x40 64)).getD (zeros 64)) ++ (List.range 16).flatMap part ++ b8 seq
    ++ b2 (bitmap ((List.range 16).filter (fun p => (s.live? p).isSome))) ++ zeros 6

/-- A quote signed by the alias key. -/
def State.quote (s : State) (nonce : Bytes) (seq : Nat) : Bytes :=
  let body := s.quoteBody nonce seq
  body ++ edSign s.sec.aliasSeed body ++ zeros 14

/-- Sizes of SEC_QUOTE's parameters. -/
def secQuoteSizes : List Nat := [32, 8]

/-- What R423 checks of SEC_QUOTE. -/
def specSecQuote : CmdSpec := CmdSpec.ctl 0xA02 secQuoteSizes (fun pg => if domainOk (par secQuoteSizes pg 1) then none else some 0x60)

/-- SEC_QUOTE. -/
def execSecQuote (m : Fin 64) (ok : Bool) (s : State) : Answer :=
  .next (s.runCmd m specSecQuote (fun pg t =>
    let seq := t.sec.quoteSeq.toNat + 1
    let all := t.quote (parB secQuoteSizes pg 0) seq ++ t.sec.aliasCert ++ t.deviceCertificate
    match t.hostWrite m (BitVec.ofNat 64 (par secQuoteSizes pg 1)) all ok with
    | some t => ({ t with sec := { t.sec with quoteSeq := BitVec.ofNat 64 seq } }).ok m (b4 2000)
    | none => t.fail m stRemote))

/-! ### Updating firmware (R505, R506) -/

/-- The command on whose behalf a flash write runs. -/
def FlashOp.mbx : FlashOp → Option (Fin 64)
  | .cfgStage m _ _ _ => some m
  | .cfgFree m _ => some m
  | .fwSegment m _ _ _ _ _ => some m
  | .boot m _ _ => m
  | _ => none

/-- A command works on a firmware slot (R422). -/
def State.fwBusy (s : State) : Bool :=
  s.sec.blowTo.isSome || s.flash.ops.any (fun o => match o with
    | .fwSegment _ _ _ _ _ _ => true
    | .boot (some _) _ _ => true
    | _ => false)

/-- ACTIVE and TRIAL as the boot record reads once the writes under way are done. -/
def Flash.bootAhead (f : Flash) : Bool × Option Bool :=
  f.ops.foldl (fun b o => match o with
    | .boot _ a t => (a, t)
    | _ => b) (f.bootRec.active, f.bootRec.trial)

/-- Sizes of SEC_FW_UPDATE's parameters. -/
def fwSizes : List Nat := [2, 4, 4, 4, 8]

/-- The slot that is not running. -/
def State.idleSlot (s : State) : Bool := !(s.sec.running.getD false)

/-- Bytes of the image in the slot not running. -/
def State.fwReceived (s : State) : Nat :=
  let x := s.flash.fw s.idleSlot
  if x.state == .receiving then x.bytes.length else 0

/-- A segment's fault against what the slot has received. -/
def State.fwSegFault (s : State) (flags off n total : Nat) : Option Nat :=
  let x := s.flash.fw s.idleSlot
  let had := if bit flags 1 then 0 else s.fwReceived
  let tot := if had = 0 then total else x.total
  if off ≠ had then some 0x44
  else if total ≠ tot || total > 2 ^ 25 then some 0x4C
  else if tot < had + n then some 0x48
  else if bit flags 0 && had + n ≠ tot then some 0x40
  else none

/-- The first segment sets the slot to RECEIVING, with nothing received yet (R505). -/
def State.openFwSlot (s : State) (b : Bool) (off total : Nat) : State :=
  if off = 0 then { s with flash := s.flash.setFw b ⟨.receiving, [], total⟩ } else s

/-- What R423 checks of SEC_FW_UPDATE. -/
def specSecFwUpdate : CmdSpec := CmdSpec.ctl 0xA03 fwSizes (fun pg =>
    if par fwSizes pg 0 > 3 then some 0x40
    else if !within (par fwSizes pg 2) 1 4194304 then some 0x48
    else if !domainOk (par fwSizes pg 4) then some 0x50 else none)

/-- SEC_FW_UPDATE: the segment is read and its write begins; the first clears a TRIAL mark on the slot. -/
def execSecFwUpdate (m : Fin 64) (host : Option Bytes) (s : State) : Answer :=
  .next (s.runCmd m specSecFwUpdate (fun pg t =>
    let flags := par fwSizes pg 0
    let off := par fwSizes pg 1
    let n := par fwSizes pg 2
    let total := par fwSizes pg 3
    let b := t.idleSlot
    if t.fwBusy then t.fail m stBusy
    else match t.fwSegFault flags off n total with
      | some d => t.respond m stParam d []
      | none =>
        let got := if t.hostReach m (BitVec.ofNat 64 (par fwSizes pg 4)) then host.bind (fun d => if d.length = n then some d else none) else none
        match got with
        | none => t.fail m stRemote
        | some d =>
          let rec' := t.flash.bootAhead
          let t := t.openFwSlot b off total
          let t := if off = 0 && rec'.2 = some b then t.flashOp (.boot (some m) rec'.1 none) else t
          (t.flashOp (.fwSegment m b off d total (bit flags 0))).background m))

/-- What R423 checks of SEC_FW_ACTIVATE. -/
def specSecFwActivate : CmdSpec := CmdSpec.ctl 0xA04 [1] (fun pg => if le pg 0x40 1 ≤ 1 then none else some 0x40)

/-- SEC_FW_ACTIVATE. -/
def execSecFwActivate (m : Fin 64) (s : State) : Answer :=
  .next (s.runCmd m specSecFwActivate (fun pg t =>
    let b := le pg 0x40 1 == 1
    let rec' := t.flash.bootAhead
    if t.fwBusy then t.fail m stBusy
    else if b = t.idleSlot then
      if (t.flash.fw b).state == .verified then (t.flashOp (.boot (some m) rec'.1 (some b))).background m else t.fail m stTarget
    else if rec'.2.isSome then (t.flashOp (.boot (some m) rec'.1 none)).background m
    else t.ok m []))

/-- A segment has been written: RECEIVED is answered, after the last one with the outcome of the check (R505). -/
def State.segmentWritten (s : State) (m : Fin 64) (b : Bool) (last : Bool) : State :=
  let x := s.flash.fw b
  let n := x.bytes.length
  if !last then s.ok m (b4 n)
  else match fwFault s.sec.rootKey s.sec.counter x.bytes x.total with
    | none => ({ s with flash := s.flash.setFw b { x with state := .verified } }).ok m (b4 n)
    | some st => ({ s with flash := s.flash.setFw b ⟨.empty, [], 0⟩ }).fail m st

/-! ### The anti-rollback counter (R507, R508) -/

/-- What R423 checks of SEC_COUNTER_ADVANCE. -/
def specSecCounterAdvance : CmdSpec := { CmdSpec.ctl 0xA05 [1] (fun _ => none) with
    range := fun t pg => if t.sec.counter < le pg 0x40 1 && le pg 0x40 1 ≤ 64 then none else some 0x40 }

/-- SEC_COUNTER_ADVANCE: slots below VALUE are to become EMPTY before any fuse blows. -/
def execSecCounterAdvance (m : Fin 64) (s : State) : Answer :=
  .next (s.runCmd m specSecCounterAdvance (fun pg t =>
    let v := le pg 0x40 1
    let below := [false, true].filter (fun b => (t.flash.fw b).state == .verified && fwSec (t.flash.fw b).bytes < v)
    let rec' := t.flash.bootAhead
    if t.dev.mode = .serving then t.fail m stState
    else if t.fwBusy || [false, true].any (fun b => (t.flash.fw b).state == .receiving) then t.fail m stBusy
    else if t.sec.secVersion < v then t.fail m stCounter
    else
      let t := { t with sec := { t.sec with blowTo := some (v, m) } }
      let t := if (rec'.2.map (fun b => below.contains b)).getD false then t.flashOp (.boot (some m) rec'.1 none) else t
      (below.foldl (fun u b => u.flashOp (.fwEmpty b)) t).background m))

/-- The slots below VALUE have been dealt with. -/
def State.fusesReady (s : State) : Bool := s.flash.ops.all (fun o => match o with
  | .fwEmpty _ => false
  | .boot (some _) _ _ => false
  | _ => true)

/-- FUSE_BLOW_DONE: one bit is blown and read back. -/
def execFuseBlowDone (s : State) : Answer :=
  match s.sec.blowTo with
  | none => .next s
  | some (v, m) =>
    if !s.fusesReady then .next s
    else
      let n := s.sec.counter + 1
      let s := { s with sec := { s.sec with counter := n } }
      if n < v then .next s else .next (({ s with sec := { s.sec with blowTo := none } }).ok m [])

end Sys2Proof.Machine
end

