-- ==== Sys2Proof/Machine/Boot.lean ====
section
/-! DEFINITION. Start-up and flash: ROM_BOOT, FW_LOAD_COMPLETE, INIT_COMPLETE and FLASH_WRITE_DONE (R434 to R443, R499 to
R505, R524 to R527). -/

namespace Sys2Proof.Machine

/-! ### The end of a flash write (R438, R440, R505) -/

/-- A flash write of a firmware or boot record command has ended without a fault: the command goes on with its next write, its
fuses, or its answer. -/
def State.bootDone (s : State) (m : Fin 64) : State :=
  if s.flash.ops.any (fun o => o.mbx == some m) || s.sec.blowTo.map (·.2) = some m then s else s.ok m []

/-- A flash write of a firmware command has failed: what it still had to write is dropped, the slot it fills is EMPTY. -/
def State.fwFailed (s : State) (m : Fin 64) : State :=
  let slot := s.flash.ops.findSome? (fun o => match o with
    | .fwSegment k b _ _ _ _ => if k = m then some b else none
    | _ => none)
  let f := { s.flash with ops := s.flash.ops.filter (fun o => o.mbx != some m && (match o with
    | .fwEmpty _ => false
    | _ => true)) }
  let f := match slot with
    | some b => f.setFw b ⟨.empty, [], 0⟩
    | none => f
  let sec := if s.sec.blowTo.map (·.2) = some m then { s.sec with blowTo := none } else s.sec
  ({ s with flash := f, sec := sec }).fail m stFlash

/-- FLASH_WRITE_DONE: the first of the writes under way completes, or fails after retries. -/
def execFlashWriteDone (ok : Bool) (s : State) : Answer :=
  match s.flash.ops with
  | [] => .next s
  | o :: rest =>
    let s := { s with flash := { s.flash with ops := rest } }
    let t := if ok then s.flashDone o else s
    match o with
    | .cfgStage m k v _ => .next (if ok then t.ok m (pack [b4 v.toNat, b1 k.val]) else t.fail m stFlash)
    | .cfgFree m _ => .next (if ok then t.ok m [] else t.fail m stFlash)
    | .journal r => .next (t.journalDone r.kind ok)
    | .fwSegment m b _ _ _ last =>
      .next (if ok then t.segmentWritten m b last
        else ({ t with flash := t.flash.setFw b ⟨.empty, [], 0⟩ }).fail m stFlash)
    | .boot (some m) _ _ => .next (if ok then t.bootDone m else t.fwFailed m)
    | .boot none _ _ => .next t
    | .fwEmpty _ =>
      match t.sec.blowTo with
      | some (_, m) => .next (if ok then t else t.fwFailed m)
      | none => .next t
    | .wear _ => .next t

/-! ### The boot ROM (R501, R502) -/

/-- The ROM starts the image of a slot: keys are derived, the alias certificate is signed, FW_LOAD begins. -/
def State.startFirmware (s : State) (b trial : Bool) : State :=
  let img := (s.flash.fw b).bytes
  let mFw := fwMeasure img
  let seed := dikSeed s.sec.uds
  let seed2 := aliasSeedOf s.sec.uds mFw
  let s := { s with sec := { s.sec with
    running := some b, mFw := mFw, fwVersion := BitVec.ofNat 32 (fwVer img), secVersion := fwSec img,
    dikPub := edPublic seed, aliasCert := aliasCertificate seed mFw (edPublic seed2), aliasSeed := seed2, trialRun := trial } }
  s.setMode .fwLoad

/-- ROM_BOOT: the TRIAL slot, else the ACTIVE one, else the other; neither leaves the device in ROM_BOOT until a reset. -/
def execRomBoot (s : State) : Answer :=
  if s.dev.mode != .romBoot || !s.dev.faultN then .next s
  else
    let r := s.flash.bootRec
    let first := r.trial.getD r.active
    if s.slotPasses first then
      let f := if r.trial.isSome then s.flash.setBoot r.active none else s.flash
      .next (({ s with flash := f }).startFirmware first r.trial.isSome)
    else if s.slotPasses (!first) then
      .next (({ s with flash := s.flash.setBoot (!first) none }).startFirmware (!first) false)
    else .next { s with dev := { s.dev with faultN := false } }

/-! ### INIT (R442, R526) -/

/-- Lortus resolves the journal: PREPARE is abandoned, SEAL is completed. -/
def Flash.resolve (f : Flash) : Flash :=
  match f.journal.getLast? with
  | some r =>
    match r.kind with
    | .prepare => f.journalWrite { r with kind := .abandon }
    | .seal => (f.sealSlots r.slot r.prevSlot r.rollback).journalWrite { r with kind := .done }
    | _ => f
  | none => f

/-- The slot to run: the CURRENT one, or the newest loadable HISTORY version in its place with event 0x8205. `none` when no
version is loadable. -/
def State.loadable (s : State) : Option State :=
  match s.currentSlot with
  | none => none
  | some (k, c) =>
    if digestOk c.image then some s
    else
      let old := ((List.finRange 8).filter (fun j => (s.flash.cfg.get j).state == .history && digestOk (s.flash.cfg.get j).image))
      let best := old.foldl (fun (b : Option (Fin 8)) j => match b with
        | none => some j
        | some i => if (s.flash.cfg.get i).version.toNat < (s.flash.cfg.get j).version.toNat then some j else b) none
      best.map (fun j =>
        let v := s.flash.cfg.get j
        let f := (s.flash.setCfg k CfgSlot.empty).setCfg j { v with state := .current }
        ({ s with flash := f }).raiseDev 0x8205 (pack [b4 c.version.toNat, b4 v.version.toNat]))

/-- The device section and the audio sections of the CURRENT version apply, the audio pins are configured (R437, R526). -/
def State.applyCurrent (s : State) : State :=
  match s.currentCfg with
  | none => s
  | some c =>
    let d := deviceSect c.image
    let s := { s with dev := { s.dev with deviceNo := BitVec.ofNat 13 (le d 0 2), deviceNoNext := none, audioPinsOn := true },
                      pwr := { s.pwr with capW := BitVec.ofNat 12 (le d 2 2) } }
    (List.range 16).foldl (fun t g => match sectOf c.image 3 g with
      | some b =>
        let u := t.modGroup g (fun x => { x with cfgSection := some b })
        (u.applyAudioSection g).getD u
      | none => t) s

/-- Recorded lane-map codes are driven before the links train (R381). -/
def State.driveLanes (s : State) : State :=
  (List.range 4).foldl (fun t p => match (t.port p).recorded with
    | some l =>
      let code := BitVec.ofNat 3 l.val
      (t.modPort p (fun x => { x with laneMap := code })).emit (.laneMap (Fin.ofNat 4 p) code)
    | none => t) s

/-- The wear record of a thermal trip (R520; the kind of record is open, log 29). -/
def State.recordTrip (s : State) : State :=
  if s.dev.tripRecord then
    ({ s with dev := { s.dev with tripRecord := false } }).wear 0 0 7 0 0xFFFF 0
  else s

/-- FW_LOAD_COMPLETE: Lortus runs and the actions of INIT take place. -/
def execFwLoadComplete (s : State) : Answer :=
  if s.dev.mode != .fwLoad then .next s
  else
    let s := s.setMode .init
    if !s.flash.journalOk then .next (s.enterFaulted 2)
    else
      let s := { s with flash := s.flash.resolve }
      match s.loadable with
      | none => .next (s.enterFaulted 1)
      | some s => .next ((s.zero hbmTop (hbmResTop - hbmTop)).driveLanes.applyCurrent.recordTrip)

/-- INIT_COMPLETE: READY; a TRIAL image that has come this far becomes ACTIVE (R503). -/
def execInitComplete (s : State) : Answer :=
  if s.dev.mode != .init then .next s
  else
    let s := s.setMode .ready
    let s := { s with dev := { s.dev with reachedReady := true } }
    match s.sec.trialRun, s.sec.running with
    | true, some b => .next (({ s with sec := { s.sec with trialRun := false } }).flashOp (.boot none b none))
    | _, _ => .next s

end Sys2Proof.Machine
end

