-- ==== Sys2Proof/Machine/Rings.lean ====
section
/-! DEFINITION. Event rings: DEV_EVT_RING, EVENT_RING_CONS_REREAD and DOORBELL_PACKET (R425 to R428). -/

namespace Sys2Proof.Machine

/-- Sizes of DEV_EVT_RING's parameters. -/
def ringSizes : List Nat := [1, 1, 2, 4, 4, 4, 8, 8]

/-- The first faulty field of DEV_EVT_RING. -/
def ringRange (pg : Bytes) : Option Nat :=
  let v := par ringSizes pg
  if v 0 > 15 then some 0x40
  else if v 1 > 16 then some 0x41
  else if v 2 > 3 then some 0x42
  else if !powTwoIn (v 3) 16 65536 then some 0x44
  else if !domainOk (v 6) then some 0x50
  else if !domainOk (v 7) then some 0x58
  else none

/-- What R423 checks of DEV_EVT_RING. -/
def specDevEvtRing : CmdSpec := CmdSpec.shared 0x104 ringSizes (fun s o pg => (s.ring (le pg 0x40 1)).owner.toNat == o && le pg 0x41 1 == o)
    ringRange

/-- DEV_EVT_RING (R425, R433); a ring written with ENABLE 0 needs no queue pair (log 30). -/
def execDevEvtRing (m : Fin 64) (s : State) : Answer :=
  .next (s.runCmd m specDevEvtRing (fun pg t =>
    let v := par ringSizes pg
    let on := bit (v 2) 0
    let dev := t.dev.deviceNo.toNat
    let host := v 6 / 2 ^ 51
    let qpGood := match t.qp? (v 4) with
      | some q => q.owner == v 1 && (q.state != .connected || q.peer.toNat == host)
      | none => false
    if host = dev || v 7 / 2 ^ 51 = dev || (on && !qpGood) then t.fail m stTarget
    else
      let r : Ring := { Ring.cold with enabled := on, packets := on && bit (v 2) 1, owner := BitVec.ofNat 5 (v 1),
                                       entries := if on then v 3 else 16, addr := BitVec.ofNat 64 (v 6),
                                       consAddr := BitVec.ofNat 64 (v 7), mask := BitVec.ofNat 32 (v 5),
                                       qpn := BitVec.ofNat 24 (v 4) }
      ((t.cutRing (v 0) r).endResets).ok m []))

/-- The host's count is read again while records wait; what now fits is written (R427). -/
def execEventRingConsReread (r : Fin 16) (count : W64) (s : State) : Answer :=
  let x := s.ring r.val
  if x.enabled && !x.waiting.isEmpty then
    .next ((s.setRing r.val { x with cons := count.toNat }).drainRing x.waiting.length r.val).endResets
  else .next s

/-- A withheld doorbell packet leaves once the 10 µs are over, with the newest SEQ written (R428). -/
def execDoorbellPacket (r : Fin 16) (s : State) : Answer :=
  let x := s.ring r.val
  let due := match x.lastPacket with
    | some t => t.toNat + 10000 ≤ s.time
    | none => true
  if x.withheld && due then .next (s.bellPacket r.val ((x.seq.toNat + 2 ^ 32 - 1 - x.waiting.length) % 2 ^ 32)) else .next s

end Sys2Proof.Machine
end

