-- ==== Sys2Proof/Machine/Dispatch.lean ====
section
/-! DEFINITION. One arm per command, one direct call of its meaning. -/

namespace Sys2Proof.Machine

def exec (i : Instr) (s : State) : Host.Outcome State Fault Refusal :=
  match i with
  | .mailboxDoorbell m => Sys2Proof.Machine.execMailboxDoorbell m s
  | .devInfo m => Sys2Proof.Machine.execDevInfo m s
  | .devStateSet m => Sys2Proof.Machine.execDevStateSet m s
  | .devReset m => Sys2Proof.Machine.execDevReset m s
  | .devEvtRing m => Sys2Proof.Machine.execDevEvtRing m s
  | .devMbxBind m => Sys2Proof.Machine.execDevMbxBind m s
  | .devSupSwap m => Sys2Proof.Machine.execDevSupSwap m s
  | .devHealth m => Sys2Proof.Machine.execDevHealth m s
  | .devPowerCap m => Sys2Proof.Machine.execDevPowerCap m s
  | .cfgStage m host => Sys2Proof.Machine.execCfgStage m host s
  | .cfgCommit m => Sys2Proof.Machine.execCfgCommit m s
  | .cfgRollback m => Sys2Proof.Machine.execCfgRollback m s
  | .cfgList m => Sys2Proof.Machine.execCfgList m s
  | .cfgRead m ok => Sys2Proof.Machine.execCfgRead m ok s
  | .cfgDiscard m => Sys2Proof.Machine.execCfgDiscard m s
  | .partCreate m => Sys2Proof.Machine.execPartCreate m s
  | .partDestroy m => Sys2Proof.Machine.execPartDestroy m s
  | .partReset m => Sys2Proof.Machine.execPartReset m s
  | .partQuery m => Sys2Proof.Machine.execPartQuery m s
  | .modelLoad m host image => Sys2Proof.Machine.execModelLoad m host image s
  | .modelUnload m => Sys2Proof.Machine.execModelUnload m s
  | .modelQuery m => Sys2Proof.Machine.execModelQuery m s
  | .streamOpen m peer => Sys2Proof.Machine.execStreamOpen m peer s
  | .streamClose m => Sys2Proof.Machine.execStreamClose m s
  | .streamDrain m => Sys2Proof.Machine.execStreamDrain m s
  | .streamMigrate m => Sys2Proof.Machine.execStreamMigrate m s
  | .streamAdopt m => Sys2Proof.Machine.execStreamAdopt m s
  | .streamQuery m => Sys2Proof.Machine.execStreamQuery m s
  | .streamMirror m peer => Sys2Proof.Machine.execStreamMirror m peer s
  | .audGroupConfig m => Sys2Proof.Machine.execAudGroupConfig m s
  | .audPortStart m => Sys2Proof.Machine.execAudPortStart m s
  | .audPortStop m => Sys2Proof.Machine.execAudPortStop m s
  | .audPortRestart m => Sys2Proof.Machine.execAudPortRestart m s
  | .audSlotMask m => Sys2Proof.Machine.execAudSlotMask m s
  | .audGainSet m => Sys2Proof.Machine.execAudGainSet m s
  | .audMuteSet m => Sys2Proof.Machine.execAudMuteSet m s
  | .audBypassSet m => Sys2Proof.Machine.execAudBypassSet m s
  | .netPortConfig m => Sys2Proof.Machine.execNetPortConfig m s
  | .netAddrSet m => Sys2Proof.Machine.execNetAddrSet m s
  | .netQpCreate m => Sys2Proof.Machine.execNetQpCreate m s
  | .netQpConnect m => Sys2Proof.Machine.execNetQpConnect m s
  | .netQpDestroy m => Sys2Proof.Machine.execNetQpDestroy m s
  | .netQpQuery m => Sys2Proof.Machine.execNetQpQuery m s
  | .netCcConfig m => Sys2Proof.Machine.execNetCcConfig m s
  | .netMgmtConfig m => Sys2Proof.Machine.execNetMgmtConfig m s
  | .memTierMove m => Sys2Proof.Machine.execMemTierMove m s
  | .memQuery m => Sys2Proof.Machine.execMemQuery m s
  | .testStart m => Sys2Proof.Machine.execTestStart m s
  | .testResult m ok => Sys2Proof.Machine.execTestResult m ok s
  | .spareQuery m ok => Sys2Proof.Machine.execSpareQuery m ok s
  | .wearRead m ok => Sys2Proof.Machine.execWearRead m ok s
  | .unitRetire m => Sys2Proof.Machine.execUnitRetire m s
  | .secIdentity m ok => Sys2Proof.Machine.execSecIdentity m ok s
  | .secQuote m ok => Sys2Proof.Machine.execSecQuote m ok s
  | .secFwUpdate m host => Sys2Proof.Machine.execSecFwUpdate m host s
  | .secFwActivate m => Sys2Proof.Machine.execSecFwActivate m s
  | .secCounterAdvance m => Sys2Proof.Machine.execSecCounterAdvance m s
  | .telemRead m ok => Sys2Proof.Machine.execTelemRead m ok s
  | .telemSeeingCfg m => Sys2Proof.Machine.execTelemSeeingCfg m s
  | .telemSensors m => Sys2Proof.Machine.execTelemSensors m s
  | .nop c w => Sys2Proof.Machine.execNop c w s
  | .end_ c w => Sys2Proof.Machine.execEnd c w s
  | .br c w => Sys2Proof.Machine.execBr c w s
  | .beq c w => Sys2Proof.Machine.execBeq c w s
  | .bne c w => Sys2Proof.Machine.execBne c w s
  | .blt c w => Sys2Proof.Machine.execBlt c w s
  | .bge c w => Sys2Proof.Machine.execBge c w s
  | .loop c w => Sys2Proof.Machine.execLoop c w s
  | .xset c w => Sys2Proof.Machine.execXset c w s
  | .xaddi c w => Sys2Proof.Machine.execXaddi c w s
  | .xadd c w => Sys2Proof.Machine.execXadd c w s
  | .xsub c w => Sys2Proof.Machine.execXsub c w s
  | .xmuli c w => Sys2Proof.Machine.execXmuli c w s
  | .xshl c w => Sys2Proof.Machine.execXshl c w s
  | .xshr c w => Sys2Proof.Machine.execXshr c w s
  | .xand c w => Sys2Proof.Machine.execXand c w s
  | .xld c w => Sys2Proof.Machine.execXld c w s
  | .wait c w => Sys2Proof.Machine.execWait c w s
  | .waitm c w => Sys2Proof.Machine.execWaitm c w s
  | .sync c w => Sys2Proof.Machine.execSync c w s
  | .ppoint c w => Sys2Proof.Machine.execPpoint c w s
  | .fsig c w => Sys2Proof.Machine.execFsig c w s
  | .mmul c w => Sys2Proof.Machine.execMmul c w s
  | .vfp c w => Sys2Proof.Machine.execVfp c w s
  | .vbf c w => Sys2Proof.Machine.execVbf c w s
  | .vint c w => Sys2Proof.Machine.execVint c w s
  | .vcvt c w => Sys2Proof.Machine.execVcvt c w s
  | .vfunc c w => Sys2Proof.Machine.execVfunc c w s
  | .vred c w => Sys2Proof.Machine.execVred c w s
  | .vbc c w => Sys2Proof.Machine.execVbc c w s
  | .vside c w => Sys2Proof.Machine.execVside c w s
  | .vqrd c w => Sys2Proof.Machine.execVqrd c w s
  | .vld c w => Sys2Proof.Machine.execVld c w s
  | .vst c w => Sys2Proof.Machine.execVst c w s
  | .gcfg c w => Sys2Proof.Machine.execGcfg c w s
  | .grun c w => Sys2Proof.Machine.execGrun c w s
  | .dmov c w hop => Sys2Proof.Machine.execDmov c w hop s
  | .reservedOpcode c w => Sys2Proof.Machine.execReservedOpcode c w s
  | .waitSatisfied c e => Sys2Proof.Machine.execWaitSatisfied c e s
  | .waitmReread c e => Sys2Proof.Machine.execWaitmReread c e s
  | .mmulPassEnd c run parity => Sys2Proof.Machine.execMmulPassEnd c run parity s
  | .tileQueueWrite c residue => Sys2Proof.Machine.execTileQueueWrite c residue s
  | .mmulComplete c run => Sys2Proof.Machine.execMmulComplete c run s
  | .grunComplete c => Sys2Proof.Machine.execGrunComplete c s
  | .dmovComplete c slot => Sys2Proof.Machine.execDmovComplete c slot s
  | .preemptRequest ctx => Sys2Proof.Machine.execPreemptRequest ctx s
  | .parkedResume ctx => Sys2Proof.Machine.execParkedResume ctx s
  | .latePointTimeout ctx => Sys2Proof.Machine.execLatePointTimeout ctx s
  | .remoteTimeout c what => Sys2Proof.Machine.execRemoteTimeout c what s
  | .localWaitWatchdog c e => Sys2Proof.Machine.execLocalWaitWatchdog c e s
  | .queueReadWatchdog c e => Sys2Proof.Machine.execQueueReadWatchdog c e s
  | .chunkAccept k => Sys2Proof.Machine.execChunkAccept k s
  | .jitterAcceptTimeout k => Sys2Proof.Machine.execJitterAcceptTimeout k s
  | .archiveWriteDone k => Sys2Proof.Machine.execArchiveWriteDone k s
  | .stepStart p => Sys2Proof.Machine.execStepStart p s
  | .stalledResidencyRelease k => Sys2Proof.Machine.execStalledResidencyRelease k s
  | .passStart p => Sys2Proof.Machine.execPassStart p s
  | .contextEnd ctx => Sys2Proof.Machine.execContextEnd ctx s
  | .outputRelease k exitOk => Sys2Proof.Machine.execOutputRelease k exitOk s
  | .hostRingSinkWrite k => Sys2Proof.Machine.execHostRingSinkWrite k s
  | .sinkConsReread k count => Sys2Proof.Machine.execSinkConsReread k count s
  | .stateCommitFlip k => Sys2Proof.Machine.execStateCommitFlip k s
  | .seeingPeriodEnd p counts => Sys2Proof.Machine.execSeeingPeriodEnd p counts s
  | .stallTimeout k => Sys2Proof.Machine.execStallTimeout k s
  | .orphanTimeout k => Sys2Proof.Machine.execOrphanTimeout k s
  | .singleFaultReport f => Sys2Proof.Machine.execSingleFaultReport f s
  | .replayReloadDone p => Sys2Proof.Machine.execReplayReloadDone p s
  | .sramScrub a r => Sys2Proof.Machine.execSramScrub a r s
  | .hbmPatrol stack pc r => Sys2Proof.Machine.execHbmPatrol stack pc r s
  | .remapCopyDone q => Sys2Proof.Machine.execRemapCopyDone q s
  | .extentZeroingDone p => Sys2Proof.Machine.execExtentZeroingDone p s
  | .tierCopyDone k layer page checkOk => Sys2Proof.Machine.execTierCopyDone k layer page checkOk s
  | .testComplete test unit signature => Sys2Proof.Machine.execTestComplete test unit signature s
  | .ageingSample c slowdown => Sys2Proof.Machine.execAgeingSample c slowdown s
  | .islandClockSettle c => Sys2Proof.Machine.execIslandClockSettle c s
  | .mirrorStateSend k => Sys2Proof.Machine.execMirrorStateSend k s
  | .inboundSend qpn payload ce => Sys2Proof.Machine.execInboundSend qpn payload ce s
  | .inboundRdmaWrite qpn va key data ce => Sys2Proof.Machine.execInboundRdmaWrite qpn va key data ce s
  | .inboundWriteImmediate qpn va key imm data ce => Sys2Proof.Machine.execInboundWriteImmediate qpn va key imm data ce s
  | .inboundRdmaRead qpn va key len ce => Sys2Proof.Machine.execInboundRdmaRead qpn va key len ce s
  | .inboundFetchAdd qpn va key add ce => Sys2Proof.Machine.execInboundFetchAdd qpn va key add ce s
  | .inboundCompareSwap qpn va key cmp swap ce => Sys2Proof.Machine.execInboundCompareSwap qpn va key cmp swap ce s
  | .roceAckReceive qpn psn => Sys2Proof.Machine.execRoceAckReceive qpn psn s
  | .readResponseReceive qpn data => Sys2Proof.Machine.execReadResponseReceive qpn data s
  | .nakReceive qpn psn kind => Sys2Proof.Machine.execNakReceive qpn psn kind s
  | .ackTimeout qpn => Sys2Proof.Machine.execAckTimeout qpn s
  | .cnpReceive qpn => Sys2Proof.Machine.execCnpReceive qpn s
  | .ccAlphaPeriod qpn => Sys2Proof.Machine.execCcAlphaPeriod qpn s
  | .ccIncreasePeriod qpn => Sys2Proof.Machine.execCcIncreasePeriod qpn s
  | .rtpPacket pkt => Sys2Proof.Machine.execRtpPacket pkt s
  | .rtcpPacket mac src dstPort ssrc kind => Sys2Proof.Machine.execRtcpPacket mac src dstPort ssrc kind s
  | .rtcpSenderReport k => Sys2Proof.Machine.execRtcpSenderReport k s
  | .arpRequest mac target sender senderMac => Sys2Proof.Machine.execArpRequest mac target sender senderMac s
  | .neighbourSolicitation mac target sender senderMac => Sys2Proof.Machine.execNeighbourSolicitation mac target sender senderMac s
  | .icmpEchoRequest mac dst src payload => Sys2Proof.Machine.execIcmpEchoRequest mac dst src payload s
  | .unmatchedFrame mac checksOk => Sys2Proof.Machine.execUnmatchedFrame mac checksOk s
  | .pauseFrameReceive p prio hold rxFill => Sys2Proof.Machine.execPauseFrameReceive p prio hold rxFill s
  | .pfcWatchdog p prio => Sys2Proof.Machine.execPfcWatchdog p prio s
  | .pfcWatchdogEnd p prio => Sys2Proof.Machine.execPfcWatchdogEnd p prio s
  | .laneLockLoss p lane => Sys2Proof.Machine.execLaneLockLoss p lane s
  | .laneSerWindow p lane errors => Sys2Proof.Machine.execLaneSerWindow p lane errors s
  | .laneMapAnswer p => Sys2Proof.Machine.execLaneMapAnswer p s
  | .laneMapTimeout p => Sys2Proof.Machine.execLaneMapTimeout p s
  | .linkUp mac => Sys2Proof.Machine.execLinkUp mac s
  | .linkDown mac => Sys2Proof.Machine.execLinkDown mac s
  | .mgmtRead r => Sys2Proof.Machine.execMgmtRead r s
  | .mgmtWrite r => Sys2Proof.Machine.execMgmtWrite r s
  | .mgmtDoorbell r => Sys2Proof.Machine.execMgmtDoorbell r s
  | .smbusIdentity => Sys2Proof.Machine.execSmbusIdentity s
  | .smbusState => Sys2Proof.Machine.execSmbusState s
  | .smbusTemperature => Sys2Proof.Machine.execSmbusTemperature s
  | .smbusPower => Sys2Proof.Machine.execSmbusPower s
  | .smbusHealth => Sys2Proof.Machine.execSmbusHealth s
  | .eventRingConsReread r count => Sys2Proof.Machine.execEventRingConsReread r count s
  | .doorbellPacket r => Sys2Proof.Machine.execDoorbellPacket r s
  | .heartbeat => Sys2Proof.Machine.execHeartbeat s
  | .heartbeatMiss ownFault => Sys2Proof.Machine.execHeartbeatMiss ownFault s
  | .spareSupervisorReady n => Sys2Proof.Machine.execSpareSupervisorReady n s
  | .audioWireFrame g words slips => Sys2Proof.Machine.execAudioWireFrame g words slips s
  | .crossingTimeout g slot => Sys2Proof.Machine.execCrossingTimeout g slot s
  | .bypassReleaseHold g slot => Sys2Proof.Machine.execBypassReleaseHold g slot s
  | .intakeAudioAccept k => Sys2Proof.Machine.execIntakeAudioAccept k s
  | .audioClockLoss g => Sys2Proof.Machine.execAudioClockLoss g s
  | .audioClockReturn g => Sys2Proof.Machine.execAudioClockReturn g s
  | .rateMeasurement port rateMhz => Sys2Proof.Machine.execRateMeasurement port rateMhz s
  | .heliostatUpdate g => Sys2Proof.Machine.execHeliostatUpdate g s
  | .registerWrite a v => Sys2Proof.Machine.execRegisterWrite a v s
  | .nanIdClear c v raced => Sys2Proof.Machine.execNanIdClear c v raced s
  | .mbxLostClear v raced => Sys2Proof.Machine.execMbxLostClear v raced s
  | .memErrLastClear v raced => Sys2Proof.Machine.execMemErrLastClear v raced s
  | .audMaskCommit g v => Sys2Proof.Machine.execAudMaskCommit g v s
  | .audHelioWrite g v => Sys2Proof.Machine.execAudHelioWrite g v s
  | .powerStart => Sys2Proof.Machine.execPowerStart s
  | .powerFail => Sys2Proof.Machine.execPowerFail s
  | .powerMeasure mean1ms mean10ms inputMv => Sys2Proof.Machine.execPowerMeasure mean1ms mean10ms inputMv s
  | .limiterStep => Sys2Proof.Machine.execLimiterStep s
  | .powerCapCheck => Sys2Proof.Machine.execPowerCapCheck s
  | .thermalSample t => Sys2Proof.Machine.execThermalSample t s
  | .thermalThrottleStep c => Sys2Proof.Machine.execThermalThrottleStep c s
  | .thermalTripRelease => Sys2Proof.Machine.execThermalTripRelease s
  | .resetNAssert => Sys2Proof.Machine.execResetNAssert s
  | .warmNAssert => Sys2Proof.Machine.execWarmNAssert s
  | .systemReferenceLost => Sys2Proof.Machine.execSystemReferenceLost s
  | .systemReferenceReturn => Sys2Proof.Machine.execSystemReferenceReturn s
  | .serdesReferenceLost => Sys2Proof.Machine.execSerdesReferenceLost s
  | .serdesReferenceReturn => Sys2Proof.Machine.execSerdesReferenceReturn s
  | .romBoot => Sys2Proof.Machine.execRomBoot s
  | .fwLoadComplete => Sys2Proof.Machine.execFwLoadComplete s
  | .initComplete => Sys2Proof.Machine.execInitComplete s
  | .stateBuffersReady k => Sys2Proof.Machine.execStateBuffersReady k s
  | .flashWriteDone ok => Sys2Proof.Machine.execFlashWriteDone ok s
  | .fuseBlowDone => Sys2Proof.Machine.execFuseBlowDone s
  | .scratchReloadDone p => Sys2Proof.Machine.execScratchReloadDone p s
  | .nextHopResolutionReply mac ip hwAddr => Sys2Proof.Machine.execNextHopResolutionReply mac ip hwAddr s

end Sys2Proof.Machine
end

