-- ==== Sys2Proof/Machine/Step.lean ====
section
/-! DEFINITION. One step: the command at the front of the queue, or one hub cycle when none waits. -/

namespace Sys2Proof.Machine

/-- One hub cycle without an input (R49; log 2): the cycle counter and the time with input power advance. -/
def State.tick (s : State) : State :=
  { s with now := s.now + 1,
           dev := if s.dev.mode = .off then s.dev else { s.dev with powerNs := s.dev.powerNs + 1 } }

/-- Take the command at the front of the queue and run it with the queue's rest; an empty queue idles for one cycle. -/
def step (s : State) : Host.Outcome State Fault Refusal :=
  match s.pending with
  | [] => .next s.tick
  | c :: rest => exec c { s with pending := rest }

/-- The state with the command that a table word spells in front of its queue; no word spells one. -/
def State.withFetchWord (s : State) (nbits w : Nat) : State :=
  match decodeTableWord nbits w with
  | some c => { s with pending := c :: s.pending }
  | none => s

end Sys2Proof.Machine
end

