-- ==== Sys2Proof/Safety.lean ====
section
/-! DEFINITION. What counts as a safe run, and the vocabulary of the statements: an instruction that issues and completes, a
mailbox command that passes its checks, a response, what stays as it was. -/

namespace Sys2Proof.Machine

/-- The step at a state answers a next state. -/
def Runs (s : State) : Prop := ∃ t, step s = .next t

/-- `k` steps from a state all answer next states. -/
def SafeFor : Nat → State → Prop
  | 0, _ => True
  | k + 1, s => ∃ t, step s = .next t ∧ SafeFor k t

/-! ### Instructions of a core -/

/-- No instruction whose NaN traps has ended: none traps, or the one that does still runs (R118). -/
abbrev Core.NoTrapEnds (k : Core) : Prop :=
  (k.trapDue.all (fun v => k.gate.map (·.q.no) == some v.1 || k.runs.any (fun r => r.q.no == v.1))) = true

/-- A core issues an instruction whose header wait is satisfied: it runs a context, its sequencer is not stopped (R199, R212). -/
def State.Issues (s : State) (c op : Nat) (w : InstrWord) : Prop :=
  (s.core c).issuing = true ∧ (s.core c).waitOk (s.issueEntry c op w) = true

/-- As `Issues`, for an engine whose queue is empty, between no trap and its halt (R118, R155, R199). -/
def State.IssuesTo (s : State) (c op : Nat) (w : InstrWord) (e : Engine) : Prop :=
  s.Issues c op w ∧ (s.core c).queue e = [] ∧ (s.core c).NoTrapEnds

/-- The core past an instruction: its wait count is taken, the PC is the next one (R192, R212). -/
def State.issued (s : State) (c op : Nat) (w : InstrWord) : Core := ((s.core c).takeWait (s.issueEntry c op w)).advance

/-- The core with SFLAG one higher under SEN, at a time that the local watchdog goes by (R212, R216). -/
def Core.signalled (k : Core) (w : InstrWord) (now : W64) : Core :=
  if sen w then { k with f := flagSet k.f (sflag w) (k.flagOf (sflag w) + 1), flagAt := tabPut k.flagAt (sflag w) now } else k

/-- The signal does not take its flag above 65,535 (R212). -/
def Core.SignalFits (k : Core) (w : InstrWord) : Prop := sen w = true → k.flagOf (sflag w) < 65535

/-- A C-format instruction writes `f` of the registers to Xd, completes, and does nothing else (R197, R198). -/
def WritesXd (i : Fin 1536 → InstrWord → Instr) (op : Nat) (f : Vector W64 16 → InstrWord → W64) : Prop :=
  ∀ (s : State) (c : Fin 1536) (w : InstrWord), s.Issues c.val op w → cLegal w = true →
    (s.issued c.val op w).SignalFits w →
    exec (i c w) s = .next (s.setCore c.val
      (Core.signalled { s.issued c.val op w with x := xSet (s.core c.val).x (cXd w) (f (s.core c.val).x w) } w s.now))

/-- A branch goes to IMM[15:0] where its condition holds and to the next instruction elsewhere; it leaves the registers as
`x` says and does nothing else (R197, R198). -/
def BranchesOn (i : Fin 1536 → InstrWord → Instr) (op : Nat) (x : Vector W64 16 → InstrWord → Vector W64 16)
    (taken : Vector W64 16 → InstrWord → Bool) : Prop :=
  ∀ (s : State) (c : Fin 1536) (w : InstrWord), s.Issues c.val op w → s.branchLegal c.val w = true →
    (s.issued c.val op w).SignalFits w →
    exec (i c w) s = .next (s.setCore c.val
      (Core.signalled { s.issued c.val op w with
        x := x (s.core c.val).x w,
        pc := if taken (s.core c.val).x w then BitVec.ofNat 16 (fld w 0 16) else (s.core c.val).pc + 1 } w s.now))

/-- The state in which an instruction's engine executes it: the core is past it, its queue is empty again. -/
def State.executing (s : State) (c op : Nat) (w : InstrWord) : State := s.setCore c (s.issued c op w)

/-- The completion of an instruction on its core: SFLAG is one higher under SEN (R212). -/
def State.completed (s : State) (c : Nat) (w : InstrWord) : State := s.modCore c (fun k => k.signalled w s.now)

/-- A vector instruction writes `f` to the enabled lanes of its destination, draws `draws` free values, completes, and does
nothing else (R206). `f` sees the state, the core and the free value; it answers a lane and how many values were saturated. -/
def VectorWrites (i : Fin 1536 → InstrWord → Instr) (op draws : Nat) (ok : InstrWord → Bool)
    (f : State → Nat → InstrWord → Nat → Nat → W32 × Nat) : Prop :=
  ∀ (s : State) (c : Fin 1536) (w : InstrWord), s.IssuesTo c.val op w .vector → vLegal op w = true → ok w = true →
    (s.issued c.val op w).SignalFits w →
    exec (i c w) s = .next ((({ s.executing c.val op w with freeCtr := s.freeCtr + draws }).mapLanes c.val w
      (f s c.val w (Config.freeNat s.freeCtr))).completed c.val w)

/-- Lane `k` of the source that a selector names. -/
def State.lane (s : State) (c : Nat) (w : InstrWord) (sel k : Nat) : W32 := (s.lanes c sel (vImm w)).getD k 0

/-- The core that issues an instruction row; none for the other commands. -/
def issuerOf : Instr → Option (Fin 1536)
  | .nop c _ => some c
  | .end_ c _ => some c
  | .br c _ => some c
  | .beq c _ => some c
  | .bne c _ => some c
  | .blt c _ => some c
  | .bge c _ => some c
  | .loop c _ => some c
  | .xset c _ => some c
  | .xaddi c _ => some c
  | .xadd c _ => some c
  | .xsub c _ => some c
  | .xmuli c _ => some c
  | .xshl c _ => some c
  | .xshr c _ => some c
  | .xand c _ => some c
  | .xld c _ => some c
  | .wait c _ => some c
  | .waitm c _ => some c
  | .sync c _ => some c
  | .ppoint c _ => some c
  | .fsig c _ => some c
  | .mmul c _ => some c
  | .vfp c _ => some c
  | .vbf c _ => some c
  | .vint c _ => some c
  | .vcvt c _ => some c
  | .vfunc c _ => some c
  | .vred c _ => some c
  | .vbc c _ => some c
  | .vside c _ => some c
  | .vqrd c _ => some c
  | .vld c _ => some c
  | .vst c _ => some c
  | .gcfg c _ => some c
  | .grun c _ => some c
  | .dmov c _ _ => some c
  | .reservedOpcode c _ => some c
  | _ => none

/-! ### Mailbox commands -/

/-- The state once Lortus has taken the first command in doorbell order (R422). -/
def State.popped (s : State) : State := { s with bells := s.bells.tail }

/-- Lortus takes the command of a mailbox and every check of R423 passes: the mailbox is busy and first in doorbell order,
its copied page carries the code. -/
def State.Takes (s : State) (m : Fin 64) (c : CmdSpec) : Prop :=
  (s.mail m).busy = true ∧ s.bells.head? = some m ∧ le (s.mail m).copy 0 2 = c.code ∧ s.popped.checkCmd (s.mail m) c = none

/-- The copied command page of a mailbox. -/
def State.page (s : State) (m : Fin 64) : Bytes := (s.mail m).copy

/-- Only event rings, queue pairs and what leaves the device differ: what a record or a message sent costs (R385, R427). -/
def OnlySent (s t : State) : Prop := t = { s with rings := t.rings, qps := t.qps, wire := t.wire }

/-- The response page of the command in a mailbox (R416, R419). -/
def State.respOf (s : State) (m : Fin 64) (status detail : Nat) (data : Bytes) : Bytes :=
  respPage (le (s.page m) 0 2) status detail (le (s.page m) 8 8) (le (s.page m) 0x18 4) (flag (s.mail m).takeover) data

/-- `t` is `s` once the command of mailbox `m` has been answered: the response is kept, without RESP_ADDR it stands in the
response page and the mailbox is busy no longer, unless its completion record waits for its ring (R419), and nothing else
differs but rings, queue pairs and what was sent. -/
def Replied (s t : State) (m : Fin 64) (status detail : Nat) (data : Bytes) : Prop :=
  (t.mail m).kept = some (BitVec.ofNat 32 (le (s.page m) 0x18 4), s.respOf m status detail data) ∧
  (bit (le (s.page m) 2 2) 1 = false →
    ((t.mail m).busy = true → bit (le (s.page m) 2 2) 0 = true ∧ (t.ring (le (s.page m) 6 1)).waiting ≠ []) ∧
    t.read (respPageAddr m) 4096 = s.respOf m status detail data) ∧
  (∀ n : Nat, n ≠ m.val → t.mail n = s.mail n) ∧
  (∀ a, ¬ (backing (respPageAddr m) ≤ a ∧ a < backing (respPageAddr m) + 4096) → memGet t.mem a = memGet s.mem a) ∧
  t = { s with mem := t.mem, badSpans := t.badSpans, mbx := t.mbx, rings := t.rings, qps := t.qps, wire := t.wire }

/-- A mailbox command's mailbox and what R423 checks of it; none for the other commands. -/
def specOf : Instr → Option (Fin 64 × CmdSpec)
  | .devInfo m => some (m, specDevInfo)
  | .devStateSet m => some (m, specDevStateSet)
  | .devReset m => some (m, specDevReset)
  | .devEvtRing m => some (m, specDevEvtRing)
  | .devMbxBind m => some (m, specDevMbxBind)
  | .devSupSwap m => some (m, specDevSupSwap)
  | .devHealth m => some (m, specDevHealth)
  | .devPowerCap m => some (m, specDevPowerCap)
  | .cfgStage m _ => some (m, specCfgStage)
  | .cfgCommit m => some (m, specCfgCommit)
  | .cfgRollback m => some (m, specCfgRollback)
  | .cfgList m => some (m, specCfgList)
  | .cfgRead m _ => some (m, specCfgRead)
  | .cfgDiscard m => some (m, specCfgDiscard)
  | .partCreate m => some (m, specPartCreate)
  | .partDestroy m => some (m, specPartDestroy)
  | .partReset m => some (m, specPartReset)
  | .partQuery m => some (m, specPartQuery)
  | .modelLoad m _ _ => some (m, specModelLoad)
  | .modelUnload m => some (m, specModelUnload)
  | .modelQuery m => some (m, specModelQuery)
  | .streamOpen m _ => some (m, specStreamOpen)
  | .streamClose m => some (m, specStreamClose)
  | .streamDrain m => some (m, specStreamDrain)
  | .streamMigrate m => some (m, specStreamMigrate)
  | .streamAdopt m => some (m, specStreamAdopt)
  | .streamQuery m => some (m, specStreamQuery)
  | .streamMirror m _ => some (m, specStreamMirror)
  | .audGroupConfig m => some (m, specAudGroupConfig)
  | .audPortStart m => some (m, specAudPortStart)
  | .audPortStop m => some (m, specAudPortStop)
  | .audPortRestart m => some (m, specAudPortRestart)
  | .audSlotMask m => some (m, specAudSlotMask)
  | .audGainSet m => some (m, specAudGainSet)
  | .audMuteSet m => some (m, specAudMuteSet)
  | .audBypassSet m => some (m, specAudBypassSet)
  | .netPortConfig m => some (m, specNetPortConfig)
  | .netAddrSet m => some (m, specNetAddrSet)
  | .netQpCreate m => some (m, specNetQpCreate)
  | .netQpConnect m => some (m, specNetQpConnect)
  | .netQpDestroy m => some (m, specNetQpDestroy)
  | .netQpQuery m => some (m, specNetQpQuery)
  | .netCcConfig m => some (m, specNetCcConfig)
  | .netMgmtConfig m => some (m, specNetMgmtConfig)
  | .memTierMove m => some (m, specMemTierMove)
  | .memQuery m => some (m, specMemQuery)
  | .testStart m => some (m, specTestStart)
  | .testResult m _ => some (m, specTestResult)
  | .spareQuery m _ => some (m, specSpareQuery)
  | .wearRead m _ => some (m, specWearRead)
  | .unitRetire m => some (m, specUnitRetire)
  | .secIdentity m _ => some (m, specSecIdentity)
  | .secQuote m _ => some (m, specSecQuote)
  | .secFwUpdate m _ => some (m, specSecFwUpdate)
  | .secFwActivate m => some (m, specSecFwActivate)
  | .secCounterAdvance m => some (m, specSecCounterAdvance)
  | .telemRead m _ => some (m, specTelemRead)
  | .telemSeeingCfg m => some (m, specTelemSeeingCfg)
  | .telemSensors m => some (m, specTelemSensors)
  | _ => none

/-- Where the command's own conditions hold, it is answered with a status and data; its effect stands and nothing else differs
(R419). The conditions, the effect and the data are of the mailbox, the page and the state. -/
def Answers (i : Fin 64 → Instr) (c : CmdSpec) (status : Nat) (holds : Fin 64 → Bytes → State → Prop)
    (effect : Fin 64 → Bytes → State → State) (data : Fin 64 → Bytes → State → Bytes) : Prop :=
  ∀ (s : State) (m : Fin 64), s.Takes m c → holds m (s.page m) s.popped →
    ∃ t, exec (i m) s = .next t ∧
      Replied (effect m (s.page m) s.popped) t m status 0 (data m (s.page m) s.popped)

/-- Where the command's own conditions hold, it is answered with OK and no data. -/
def Effects (i : Fin 64 → Instr) (c : CmdSpec) (holds : Fin 64 → Bytes → State → Prop)
    (effect : Fin 64 → Bytes → State → State) : Prop := Answers i c 0 holds effect (fun _ _ _ => [])

/-- Where the command's own conditions hold, it is answered with a failure and has no effect. -/
def Rejects (i : Fin 64 → Instr) (c : CmdSpec) (status : Nat) (holds : Fin 64 → Bytes → State → Prop) : Prop :=
  Answers i c status holds (fun _ _ s => s) (fun _ _ _ => [])

/-- The command answers with data of the state, which it leaves as it is. -/
def Queries (i : Fin 64 → Instr) (c : CmdSpec) (holds : Fin 64 → Bytes → State → Prop) (data : Fin 64 → Bytes → State → Bytes) :
    Prop := Answers i c 0 holds (fun _ _ s => s) data

/-- Where the command's own conditions hold, its first effect stands and it goes on in the background (R422). -/
def Begins (i : Fin 64 → Instr) (c : CmdSpec) (holds : Fin 64 → Bytes → State → Prop)
    (effect : Fin 64 → Bytes → State → State) : Prop :=
  ∀ (s : State) (m : Fin 64), s.Takes m c → holds m (s.page m) s.popped →
    exec (i m) s = .next ((effect m (s.page m) s.popped).background m)

/-- A mailbox command past the checks of R423: where its own checks fail, in the order of `why`, it is answered with that status and
DETAIL and has no effect; else it is answered with OK and its data, its effect stands and nothing else differs (R419, R423). -/
def Acts (i : Fin 64 → Instr) (c : CmdSpec) (why : Fin 64 → Bytes → State → Option (Nat × Nat))
    (effect : Fin 64 → Bytes → State → State) (data : Fin 64 → Bytes → State → Bytes) : Prop :=
  ∀ (s : State) (m : Fin 64), s.Takes m c →
    (∀ st d : Nat, why m (s.page m) s.popped = some (st, d) →
      ∃ t, exec (i m) s = .next t ∧ Replied s.popped t m st d []) ∧
    (why m (s.page m) s.popped = none →
      ∃ t, exec (i m) s = .next t ∧
        Replied (effect m (s.page m) s.popped) t m 0 0 (data m (s.page m) s.popped))

/-- As `Acts`, for a command that goes on in the background once its first effect stands (R422). -/
def Starts (i : Fin 64 → Instr) (c : CmdSpec) (why : Fin 64 → Bytes → State → Option (Nat × Nat))
    (effect : Fin 64 → Bytes → State → State) : Prop :=
  ∀ (s : State) (m : Fin 64), s.Takes m c →
    (∀ st d : Nat, why m (s.page m) s.popped = some (st, d) →
      ∃ t, exec (i m) s = .next t ∧ Replied s.popped t m st d []) ∧
    (why m (s.page m) s.popped = none → exec (i m) s = .next ((effect m (s.page m) s.popped).background m))

/-- No data in the response. -/
def noData (_ : Fin 64) (_ : Bytes) (_ : State) : Bytes := []

/-- A command reads or writes host memory (R433): an own queue pair to the named endpoint, the state once the write is sent. -/
def State.sentTo (s : State) (m : Fin 64) (dst : Nat) (data : Bytes) : State :=
  (s.writeDomain (s.mail m).owner.toNat (BitVec.ofNat 64 dst) data .other).getD s

/-! ### Messages -/

/-- Messages go out on queue pair `n`, which is `q` in the state before: they stand behind those it still holds, and leave at once while
no more than 16 READs are outstanding before them (R383), with the mark of the owner's RoCE data (R391). -/
def Sends (s t : State) (n : Nat) (q : Qp) (ms : List OutMsg) : Prop :=
  (∃ u : Qp, t.qp? n = some u ∧ u.out = q.out ++ ms ∧ u.state = q.state) ∧
  ((q.out.filter (fun m => m.kind == .read)).length ≤ 16 →
    t.wire = (ms.map (fun o => (⟨.rdma (BitVec.ofNat 24 n) o, some ((s.ccOf q.owner).mark 0)⟩ : Sent))).reverse ++ s.wire)

/-! ### Clocks -/

/-- `t` is `s` once Lortus has lowered clocks in the order of R40: of the islands above their floor those that come first are lower
than before and no lower than their floor, by a free amount; no other island has another target (log 18). -/
def State.LowersClocks (s t : State) : Prop :=
  ∀ (c : Nat), c < 1536 → ∀ first : Prop, (first ↔ s.clockFloor c < (s.core c).targetMhz ∧
      ∀ d : Nat, d < 1536 → s.clockFloor d < (s.core d).targetMhz → s.capRank c ≤ s.capRank d) →
    (first → s.clockFloor c ≤ (t.core c).targetMhz ∧ (t.core c).targetMhz < (s.core c).targetMhz) ∧
    (¬ first → (t.core c).targetMhz = (s.core c).targetMhz)

/-! ### Streams -/

/-- The deadline of a chunk accepted at `now` behind the pending ones `old` (R64, R65). -/
def dueOf (cls : Fin 3) (w now : Nat) (old : List Chunk) : Option Nat :=
  if cls = 2 then none
  else match old.getLast? with
    | some c => c.deadline.map (· + w)
    | none => some (now + (if cls = 0 then 2 * w else 8 * w))

/-- `u` is `s` once the next chunk of stream `i`, `n` samples, has been accepted: it stands behind the pending chunks, the
oldest of 16 pending ones is dropped, counted and marked (R51, R64, R65, R80, R354); no other stream, core or context differs. -/
def Accepted (s u : State) (i n : Nat) (q : Partition) (im : ImageInfo) (gap : Bool) : Prop :=
  let x := s.stream i
  let full : Bool := decide (16 ≤ x.chunks.length)
  let old := if full then x.chunks.tail else x.chunks
  let data := x.nextChunk n (max 1 im.samplesPerFrame) gap
  (u.stream i).chunks = old ++ [⟨x.nextChunkNo, n / max 1 im.samplesPerFrame, data.2, x.sampleCount, s.now,
    dueOf x.cls q.w s.time old, false, decide (x.presentIn n < n), false, data.1⟩] ∧
  (u.stream i).sampleCount = x.sampleCount + BitVec.ofNat 64 n ∧
  (u.stream i).nextChunkNo = x.nextChunkNo + 1 ∧
  (u.stream i).state = (if x.state = .stalled then .active else x.state) ∧
  (u.stream i).gap = (x.gap || full) ∧
  (u.stream i).chunksLost = (if full then satAdd x.chunksLost 1 else x.chunksLost) ∧
  (u.stream i).handle = x.handle ∧ (u.stream i).commitSide = x.commitSide ∧
  (x.sinkKind ≠ 2 → u.mem = s.mem) ∧
  (∀ j : Nat, j ≠ i → u.stream j = s.stream j) ∧ u.cores = s.cores ∧ u.ctxs = s.ctxs ∧ u.parts = s.parts ∧ u.mbx = s.mbx

end Sys2Proof.Machine
end

