-- ==== Sys2Proof/Certificates/Slice0/Obligations.lean ====
section
/-! DEFINITION. The statements for the provers. -/

open Sys2Proof Sys2Proof.Machine

/-- For every command c and state s, a step of s with c at the front of its queue is exec of c on s with the queue's
rest. An empty queue idles for one hub cycle (the model's choice, log 2): the cycle counter goes on, so does the time
with input power unless the device is off, and nothing else changes. -/
def Obligations.StepRunsFrontCommand : Prop :=
  (∀ (s : State) (c : Instr) (r : List Instr), step { s with pending := c :: r } = exec c { s with pending := r }) ∧
  ∀ s : State, s.pending = [] →
    ∃ t, step s = .next t ∧ t.now = s.now + 1 ∧
      t.dev = (if s.dev.mode = .off then s.dev else { s.dev with powerNs := s.dev.powerNs + 1 }) ∧
      t = { s with now := t.now, dev := t.dev }

/-- Each instruction, issued with its header wait satisfied and a legal encoding, completes: Xd holds the result
modulo 2^64, the PC is the next one, the wait count is taken from WFLAG, SFLAG is one higher under SEN, and the whole
rest of the device is as it was. IMM is sign-extended for XSET and zero-extended elsewhere (XADDI: log 6). X0 always
reads 0 and ignores writes; a write to any other register reads back and leaves the other fifteen alone. -/
def Obligations.ScalarArithmeticWritesXd : Prop :=
  WritesXd .xset 0x08 (fun _ w => (BitVec.ofNat 48 (fld w 0 48)).signExtend 64) ∧
  WritesXd .xaddi 0x09 (fun x w => xGet x (fld w 80 4) + BitVec.ofNat 64 (fld w 0 48)) ∧
  WritesXd .xadd 0x0A (fun x w => xGet x (fld w 80 4) + xGet x (fld w 76 4)) ∧
  WritesXd .xsub 0x0B (fun x w => xGet x (fld w 80 4) - xGet x (fld w 76 4)) ∧
  WritesXd .xmuli 0x0C (fun x w => xGet x (fld w 80 4) * BitVec.ofNat 64 (fld w 0 48)) ∧
  WritesXd .xshl 0x0D (fun x w => xGet x (fld w 80 4) <<< fld w 0 6) ∧
  WritesXd .xshr 0x0E (fun x w => xGet x (fld w 80 4) >>> fld w 0 6) ∧
  WritesXd .xand 0x0F (fun x w => xGet x (fld w 80 4) &&& xGet x (fld w 76 4)) ∧
  (∀ (x : Vector W64 16) (v : W64), xGet x 0 = 0 ∧ xSet x 0 v = x ∧
    ∀ d : Nat, 1 ≤ d → d < 16 → xGet (xSet x d v) d = v ∧ ∀ k : Nat, k < 16 → k ≠ d → xGet (xSet x d v) k = xGet x k)

/-- Each branch with a legal encoding and a target within the program segment completes: the PC is IMM[15:0] where the
condition holds, else the next one; BLT and BGE compare signed; LOOP takes 1 from Xd first. Nothing else in the device
changes but the wait count taken and the signal given. -/
def Obligations.BranchesGoWhereTheConditionSays : Prop :=
  BranchesOn .br 0x02 (fun x _ => x) (fun _ _ => true) ∧
  BranchesOn .beq 0x03 (fun x _ => x) (fun x w => xGet x (fld w 80 4) == xGet x (fld w 76 4)) ∧
  BranchesOn .bne 0x04 (fun x _ => x) (fun x w => xGet x (fld w 80 4) != xGet x (fld w 76 4)) ∧
  BranchesOn .blt 0x05 (fun x _ => x) (fun x w => (xGet x (fld w 80 4)).slt (xGet x (fld w 76 4))) ∧
  BranchesOn .bge 0x06 (fun x _ => x) (fun x w => !(xGet x (fld w 80 4)).slt (xGet x (fld w 76 4))) ∧
  BranchesOn .loop 0x07 (fun x w => xSet x (fld w 84 4) (xGet x (fld w 84 4) - 1))
    (fun x w => xGet (xSet x (fld w 84 4) (xGet x (fld w 84 4) - 1)) (fld w 84 4) != 0)

/-- NOP moves past itself; so does PPOINT in a Vermilion or Ochre context and in an Umber one without a request. END
on a quiet core of a running context ends the core's part and the context notes it. XLD with an aligned offset in the
powered scratch loads the 64-bit word at Xa + IMM into Xd. Nothing else changes but the PC, the issue number and the
two flags. -/
def Obligations.SequencerInstructionsComplete : Prop :=
  ∀ (s : State) (c : Fin 1536) (w : InstrWord),
    (s.Issues c.val 0x00 w → cLegal w = true → (s.issued c.val 0x00 w).SignalFits w →
      exec (.nop c w) s = .next ((s.executing c.val 0x00 w).completed c.val w)) ∧
    (∀ x, (s.ctxOf c.val).bind s.ctx? = some x → (x.umber && x.preempt.isSome) = false →
      s.Issues c.val 0x1B w → headerOk w = true → (s.issued c.val 0x1B w).SignalFits w →
      exec (.ppoint c w) s = .next ((s.executing c.val 0x1B w).completed c.val w)) ∧
    (∀ id x, s.Issues c.val 0x01 w → cLegal w = true → (s.core c.val).quiet = true → (s.core c.val).trapDue = none → s.ctxOf c.val = some id →
      s.ctx? id = some x → x.state = .running → (s.issued c.val 0x01 w).SignalFits w →
      exec (.end_ c w) s = .next ((s.setCore c.val (Core.signalled { s.issued c.val 0x01 w with seq := .ended } w s.now)).setCtx id
        { x with endedCores := x.endedCores ++ [c.val] })) ∧
    (∀ off, off = (xGet (s.core c.val).x (fld w 80 4) + BitVec.ofNat 64 (fld w 0 48)).toNat → off % 8 = 0 →
      s.Issues c.val 0x10 w → cLegal w = true → s.scratchOk c.val off 8 = true → s.good (coreWin c.val + off) 8 = true →
      (s.issued c.val 0x10 w).SignalFits w →
      exec (.xld c w) s = .next (s.setCore c.val (Core.signalled { s.issued c.val 0x10 w with
        x := xSet (s.core c.val).x (fld w 84 4) (BitVec.ofNat 64 (s.readNat (coreWin c.val + off) 8)) } w s.now)))

/-- SYNC is an issue barrier: where an engine queue holds an instruction, an engine runs or a DMOV is in flight, issue
stops behind it; where every queue is empty and every engine idle it completes at once. -/
def Obligations.SyncWaitsForQuietCore : Prop :=
  ∀ (s : State) (c : Fin 1536) (w : InstrWord), s.Issues c.val 0x1A w → headerOk w = true → (s.core c.val).NoTrapEnds →
    ((s.core c.val).quiet = true → (s.issued c.val 0x1A w).SignalFits w →
      exec (.sync c w) s = .next ((s.executing c.val 0x1A w).completed c.val w)) ∧
    ((s.core c.val).quiet = false →
      ∃ q, exec (.sync c w) s = .next (s.setCore c.val { s.issued c.val 0x1A w with seq := .barrier q }) ∧
        (({ s.issued c.val 0x1A w with seq := .barrier q } : Core).issuing = false))

/-- While the sequencer waits on a header wait, is at an issue barrier, has ended, is halted or runs no context, none
of the 38 instruction rows has any effect. -/
def Obligations.NothingIssuesBehindBarrier : Prop :=
  ∀ (s : State) (i : Instr) (c : Fin 1536), issuerOf i = some c → (s.core c.val).issuing = false → exec i s = .next s

/-- The effect of RESERVED_OPCODE, and of NOP, XADD, BR and VFP with an illegal encoding or target, is a context fault
with code 3 that names the logical core, the PC and the OP_TAG of the instruction. -/
def Obligations.IllegalInstructionFaultsItsContext : Prop :=
  ∀ (s : State) (c : Fin 1536) (id : Nat), (s.core c.val).issuing = true → s.ctxOf c.val = some id →
    (∀ w : BitVec 128, opcodes.contains (w.toNat / 2 ^ 120) = false →
      exec (.reservedOpcode c w) s = .next (s.contextFault id 3 c.val (s.core c.val).pc.toNat (opTagOf (w.setWidth 120)).toNat)) ∧
    (∀ w : InstrWord, cLegal w = false →
      exec (.nop c w) s = .next (s.contextFault id 3 c.val (s.core c.val).pc.toNat (opTagOf w).toNat) ∧
      exec (.xadd c w) s = .next (s.contextFault id 3 c.val (s.core c.val).pc.toNat (opTagOf w).toNat)) ∧
    (∀ w : InstrWord, s.branchLegal c.val w = false →
      exec (.br c w) s = .next (s.contextFault id 3 c.val (s.core c.val).pc.toNat (opTagOf w).toNat)) ∧
    (∀ w : InstrWord, vLegal 0x30 w = false →
      exec (.vfp c w) s = .next (s.contextFault id 3 c.val (s.core c.val).pc.toNat (opTagOf w).toNat))

/-- In a context without a pre-emption request: an unsatisfied WAIT stays at the head of the queue that ENG names and
a check of the wait does not move it; the sequencer goes on behind it only where LSD is 0. A satisfied WAIT takes its
count, completes, and issue goes on. -/
def Obligations.WaitOccupiesItsQueueUntilSatisfied : Prop :=
  ∀ (s : State) (c : Fin 1536) (w : InstrWord) (x : Context), (s.core c.val).issuing = true → headerOk w = true →
    (s.core c.val).queue (engOf w) = [] → (s.core c.val).NoTrapEnds → (s.core c.val).noPark = none → (s.ctxOf c.val).bind s.ctx? = some x → x.preempt = none → x.state = .running →
    ((s.core c.val).waitOk (s.issueEntry c.val 0x18 w) = false →
      ∃ k, exec (.wait c w) s = .next (s.setCore c.val k) ∧ k.queue (engOf w) = [s.issueEntry c.val 0x18 w] ∧
        k.issuing = (lsdOf w == 0) ∧ k.pc = (s.core c.val).pc + 1 ∧ k.f = (s.core c.val).f ∧ k.x = (s.core c.val).x ∧
        exec (.waitSatisfied c (engOf w)) (s.setCore c.val k) = .next (s.setCore c.val k)) ∧
    ((s.core c.val).waitOk (s.issueEntry c.val 0x18 w) = true → (s.issued c.val 0x18 w).SignalFits w →
      exec (.wait c w) s = .next ((s.executing c.val 0x18 w).completed c.val w))

/-- When the flag of a WAIT at a queue head, or of a sequencer-class instruction that stalls issue, has reached its
count, the instruction executes: the count is subtracted from the flag, and issue goes on. A NOP that waited completes
with its signal. -/
def Obligations.HeldInstructionExecutesWhenFlagSuffices : Prop :=
  ∀ (s : State) (c : Fin 1536) (q : QEntry), (s.core c.val).ctx.isSome = true → (s.core c.val).NoTrapEnds → (s.core c.val).waitOk q = true →
    (∀ e : Engine, e ≠ .seq → (s.core c.val).queue e = [q] → q.op = 0x18 → (s.core c.val).seq = .running →
      (((s.core c.val).takeWait q).setQueue e []).SignalFits q.w →
      exec (.waitSatisfied c e) s = .next ((s.setCore c.val (((s.core c.val).takeWait q).setQueue e [])).completed c.val q.w)) ∧
    ((s.core c.val).seq = .waitHdr q →
      exec (.waitSatisfied c .seq) s = .next (runSeq c.val q (s.setCore c.val { (s.core c.val).takeWait q with seq := .running })) ∧
      (q.op = 0x00 → ((s.core c.val).takeWait q).SignalFits q.w →
        exec (.waitSatisfied c .seq) s =
          .next ((s.setCore c.val { (s.core c.val).takeWait q with seq := .running }).completed c.val q.w)))

/-- In a context without a pre-emption request, with an aligned word that the program may read: WAITM completes at
issue where the 64-bit word at ADDR + X[XO] compares with X[XV]; else it stays at the head of its queue with its
header wait served, and each re-read completes it once the comparison holds; a live set stops issue until then. -/
def Obligations.WaitmCompletesWhenWordCompares : Prop :=
  ∀ (s : State) (c : Fin 1536) (x : Context) (e : Engine) (q : QEntry) (k : Core) (p n : Nat) (v : W64),
    (s.ctxOf c.val).bind s.ctx? = some x → x.preempt = none → x.state = .running → e ≠ .seq →
    ∀ t, t = s.setCore c.val (k.setQueue e [q]) → t.passOf c.val = some (p, n) → t.waitmRead p q = .word v → k.ctx = (s.core c.val).ctx →
    k.ctx.isSome = true → k.NoTrapEnds → k.noPark = none → q.op = 0x19 → q.w = clearWait q.w → k.SignalFits q.w →
    (k.seq = .running ∨ ∃ b, k.seq = .barrier b ∧ b.no = q.no ∧ b.op = 0x19) →
    ((wmHolds q v = true → exec (.waitmReread c e) t =
        .next ((s.setCore c.val { k.setQueue e [] with seq := .running }).completed c.val q.w)) ∧
      (wmHolds q v = false → exec (.waitmReread c e) t = .next t)) ∧
    (∀ w : InstrWord, e = engOf w → s.IssuesTo c.val 0x19 w e → waitmLegal w = true →
      q = { s.issueEntry c.val 0x19 w with w := clearWait w } →
      k = { s.issued c.val 0x19 w with seq := if lsdOf w = 0 then .running else .barrier (s.issueEntry c.val 0x19 w) } →
      (wmHolds q v = true → exec (.waitm c w) s =
        .next ((s.setCore c.val { k.setQueue e [] with seq := .running }).completed c.val q.w)) ∧
      (wmHolds q v = false → exec (.waitm c w) s = .next t))

/-- FSIG runs on the DMA queue. Where no DMOV of this unit to the target core's scratch is in flight, the flag of the
target core, which runs the same context, is one higher, and FSIG completes. Where one is in flight FSIG waits at the
head of the queue. -/
def Obligations.FsigSignalsAfterEarlierMoves : Prop :=
  ∀ (s : State) (c : Fin 1536) (w : InstrWord) (id : Nat) (x : Context), s.IssuesTo c.val 0x1C w .dma → headerOk w = true →
    s.ctxOf c.val = some id → s.ctx? id = some x → x.cores.contains (fld w 32 11) = true →
    (((s.core c.val).dma.all (fun t => s.xferDest t != some (1, fld w 32 11))) = true →
      ((s.executing c.val 0x1C w).core (fld w 32 11)).ctx = (s.core c.val).ctx →
      ((s.executing c.val 0x1C w).core (fld w 32 11)).flagOf (fld w 27 5) < 65535 →
      ∀ t, t = (s.executing c.val 0x1C w).modCore (fld w 32 11) (fun k =>
          { k with f := flagSet k.f (fld w 27 5) (k.flagOf (fld w 27 5) + 1), flagAt := tabPut k.flagAt (fld w 27 5) s.now }) →
        (t.core c.val).SignalFits w → exec (.fsig c w) s = .next (t.completed c.val w)) ∧
    (((s.core c.val).dma.all (fun t => s.xferDest t != some (1, fld w 32 11))) = false →
      exec (.fsig c w) s = .next (s.setCore c.val { (s.core c.val).advance with qD := [s.issueEntry c.val 0x1C w] }))

/-- Each instruction, issued to an empty vector queue with its wait satisfied and a legal encoding, completes: every
enabled lane of DST is the operation on the same lanes of its sources (VINT shifts of 32 or more and the unstated
results of VCVT are free values, log 3), the values saturated are counted, SFLAG is one higher under SEN, and nothing
else changes. -/
def Obligations.VectorArithmeticWritesEnabledLanes : Prop :=
  VectorWrites .vfp 0x30 0 (fun w => !isCompare 0x30 w && vVop w != 6)
    (fun s c w _ k => fpLane (vOvf w) (vVop w) (s.lane c w (vSa w) k) (s.lane c w (vSb w) k) (s.lane c w (vSc w) k)) ∧
  VectorWrites .vfp 0x30 0 (fun w => vVop w == 6)
    (fun s c w _ k => selLane false (vOvf w) (((s.core c).m.get (Fin.ofNat 4 (vSc w - 0x90))).getLsbD k) (s.lane c w (vSa w) k) (s.lane c w (vSb w) k)) ∧
  VectorWrites .vbf 0x31 0 (fun w => !isCompare 0x31 w && vVop w != 6)
    (fun s c w _ k => pairLane (vOvf w) (vVop w) (s.lane c w (vSa w) k) (s.lane c w (vSb w) k) (s.lane c w (vSc w) k)) ∧
  VectorWrites .vbf 0x31 0 (fun w => vVop w == 6)
    (fun s c w _ k => selLane true (vOvf w) (((s.core c).m.get (Fin.ofNat 4 (vSc w - 0x90))).getLsbD k) (s.lane c w (vSa w) k) (s.lane c w (vSb w) k)) ∧
  VectorWrites .vint 0x32 1 (fun _ => true)
    (fun s c w free k => (intOp (vVop w) (s.lane c w (vSa w) k) (s.lane c w (vSb w) k) (BitVec.ofNat 32 (bits free (32 * k) 32)), 0)) ∧
  VectorWrites .vcvt 0x33 1 (fun _ => true)
    (fun s c w free k =>
      let r := cvtLane (vVop w % 16) (vVop w / 16) (vOvf w) (s.lane c w (vSa w) k) (BitVec.ofNat 32 (bits free (32 * k) 32))
      (r.1, flag r.2)) ∧
  VectorWrites .vfunc 0x34 0 (fun _ => true)
    (fun s c w _ k =>
      let r := fnEval ((vfunc (vVop w)).getD .exp2) false (vOvf w) (s.lane c w (vSa w) k)
      (BitVec.ofNat 32 r.code, flag r.sat)) ∧
  VectorWrites .vbc 0x36 0 (fun _ => true) (fun s c w _ _ => (s.lane c w (vSa w) (fld w 0 7), 0))

/-- A compare writes the enabled bits of M0 to M3 (a BF16 pair whose halves differ has a free bit, log 3); VRED writes
the tree reduction of each segment; VSIDE, with a readable correction descriptor whose range lies in its tensors, adds
to each lane 8r + j of its half the products of the escaped elements. Each completes and changes nothing else. -/
def Obligations.VectorComparesReductionsAndCorrections : Prop :=
  ∀ (s : State) (c : Fin 1536) (w : InstrWord),
    (s.IssuesTo c.val 0x30 w .vector → vLegal 0x30 w = true → isCompare 0x30 w = true → (s.issued c.val 0x30 w).SignalFits w →
      exec (.vfp c w) s = .next ((({ s.executing c.val 0x30 w with freeCtr := s.freeCtr + 1 }).modCore c.val (fun k =>
        { k with m := k.m.setIfInBounds (vDst w - 0x90) (mixMask (k.maskOf (fld w 45 3))
            (fun i => fpCompare (vVop w) (ofFp32 (s.lane c.val w (vSa w) i)) (ofFp32 (s.lane c.val w (vSb w) i)))
            (k.m.get (Fin.ofNat 4 (vDst w - 0x90)))) })).completed c.val w)) ∧
    (s.IssuesTo c.val 0x31 w .vector → vLegal 0x31 w = true → isCompare 0x31 w = true → (s.issued c.val 0x31 w).SignalFits w →
      exec (.vbf c w) s = .next ((({ s.executing c.val 0x31 w with freeCtr := s.freeCtr + 1 }).modCore c.val (fun k =>
        { k with m := k.m.setIfInBounds (vDst w - 0x90) (mixMask (k.maskOf (fld w 45 3))
            (fun i => pairCompare (vVop w) (s.lane c.val w (vSa w) i) (s.lane c.val w (vSb w) i) (bit (Config.freeNat s.freeCtr) i))
            (k.m.get (Fin.ofNat 4 (vDst w - 0x90)))) })).completed c.val w)) ∧
    (s.IssuesTo c.val 0x35 w .vector → vLegal 0x35 w = true → (s.issued c.val 0x35 w).SignalFits w →
      exec (.vred c w) s =
        .next (((s.executing c.val 0x35 w).runRed c.val (s.issueEntry c.val 0x35 w)).completed c.val w)) ∧
    (∀ t b p n wd ad, s.IssuesTo c.val 0x37 w .vector → vLegal 0x37 w = true → t = s.executing c.val 0x37 w →
      (s.issued c.val 0x37 w).SignalFits w → b = t.descBytes c.val (fld w 0 13) → t.passOf c.val = some (p, n) →
      t.descOk c.val (fld w 0 13) 64 = true → le b 0 2 < 8192 → le b 2 2 < 8192 → le b 0x14 44 = 0 →
      t.descOk c.val (le b 0 2) 64 = true → t.descOk c.val (le b 2 2) 64 = true →
      (Desc.parse (t.descBytes c.val (le b 0 2))).bind t.localDesc = some wd →
      (Desc.parse (t.descBytes c.val (le b 2 2))).bind t.localDesc = some ad →
      le b 4 4 + 8 ≤ wd.dim1 → le b 8 4 + le b 0xC 4 ≤ wd.dim0 → le b 0xC 4 ≤ ad.dim0 →
      ∀ cols need, cols = min 8 (ad.dim1 - le b 0x10 4) →
      need = (List.range 8).flatMap (fun r => wd.ranges (wd.dim0 * (le b 4 4 + r) + le b 8 4) (le b 0xC 4) wd.side)
        ++ (List.range cols).flatMap (fun j => ad.ranges (ad.dim0 * (le b 0x10 4 + j)) (le b 0xC 4) ad.side) →
      t.mayReadAll p need = true → t.badRange need = none →
      (List.range 8).all (fun r => wd.escapesFit t.bus wd.side (le b 8 4) (le b 8 4 + le b 0xC 4) (le b 4 4 + r) 0) = true →
      (List.range cols).all (fun j => ad.escapesFit t.bus ad.side 0 (le b 0xC 4) (le b 0x10 4 + j) 0) = true →
      exec (.vside c w) s = .next ((t.mapLanes c.val w (fun i =>
        if 64 * (vVop w % 2) ≤ i && i < 64 * (vVop w % 2) + 64 && (i - 64 * (vVop w % 2)) % 8 < cols then
          corrLane wd ad t.bus (vOvf w) (le b 4 4 + (i - 64 * (vVop w % 2)) / 8)
            (le b 0x10 4 + (i - 64 * (vVop w % 2)) % 8) (le b 8 4) (le b 0xC 4) 0 ((t.lanes c.val (vSa w) 0).getD i 0, 0)
        else ((t.lanes c.val (vSa w) 0).getD i 0, 0))).completed c.val w))

/-- A write of lanes by a vector instruction: the enabled lanes of the destination, a working register or an
operand-cache row, hold the new values, the masked-off lanes their old ones; every other source, every byte of memory
outside the row, every other core and the rest of the device are as they were. -/
def Obligations.LanesWrittenReadBackAlone : Prop :=
  ∀ (s : State) (c : Fin 1536) (w : InstrWord) (f : Nat → W32 × Nat) (t : State), selReg (vDst w) = true →
    t = s.mapLanes c.val w f →
    (∀ imm, t.lanes c.val (vDst w) imm = (List.range 128).map (fun i =>
      if ((s.core c.val).maskOf (fld w 45 3)).getLsbD i then (f i).1 else (s.lanes c.val (vDst w) imm).getD i 0)) ∧
    (∀ sel imm, selSrc sel = true → sel ≠ vDst w → t.lanes c.val sel imm = s.lanes c.val sel imm) ∧
    (∀ a, (vDst w ≤ 0x7F → ¬ (rowAddrOf c.val (vDst w) ≤ a ∧ a < rowAddrOf c.val (vDst w) + 512)) → memGet t.mem a = memGet s.mem a) ∧
    (0x7F < vDst w → t.mem = s.mem) ∧
    t.core c.val = { s.core c.val with v := (t.core c.val).v, fsat := (t.core c.val).fsat } ∧
    (∀ n, n ≠ c.val → t.core n = s.core n) ∧
    t = { s with mem := t.mem, badSpans := t.badSpans, cores := t.cores }

/-- VQRD: with enough entries in the vector engine's order, the first goes to lanes 0 to 63 and, with N = 1, the
second to lanes 64 to 127, which one entry leaves unchanged; the entries leave the queue and the gate pipeline's order
is as it was. With a legal descriptor whose elements the context may reach: VLD writes FP32, BF16 pairs or INT32 by
LOADAS into the enabled lanes; VST writes the enabled lanes as elements from X[XO], converted by the descriptor's
format, and counts them at the store port. Each completes. A NaN in the values stored is latched with its step and an
event, or sets MORE; where the context traps, it faults with code 1 once the VST has completed. -/
def Obligations.VectorLoadsAndStoresMoveElements : Prop :=
  (∀ (s : State) (c : Fin 1536) (w : InstrWord) (e : TqEntry) (l : List TqEntry), s.IssuesTo c.val 0x40 w .vector →
    vmLegal 0x40 w = true → (s.issued c.val 0x40 w).SignalFits w → (s.core c.val).tq.filter (fun e => !e.gate) = e :: l →
    (fld w 59 1 = 1 → l ≠ []) →
    ∃ tq, exec (.vqrd c w) s = .next ((s.setCore c.val { s.issued c.val 0x40 w with
        tq := tq, v := (s.core c.val).v.setIfInBounds (vmReg w - 0x80) (e.data.take 64 ++
          (if fld w 59 1 = 1 then (l.headD e).data.take 64
           else (((s.core c.val).v.get (Fin.ofNat 8 (vmReg w - 0x80))).drop 64).take 64)) }).completed c.val w) ∧
      tq.filter (fun e => !e.gate) = l.drop (fld w 59 1) ∧ tq.filter (·.gate) = (s.core c.val).tq.filter (·.gate)) ∧
  (∀ (s : State) (c : Fin 1536) (w : InstrWord) (t : State) (d : Desc) (p n lo : Nat),
    lo = (xGet (s.core c.val).x (fld w 63 4)).toNat →
    (s.IssuesTo c.val 0x41 w .vector → vmLegal 0x41 w = true → (s.issued c.val 0x41 w).SignalFits w →
      t = s.executing c.val 0x41 w → t.passOf c.val = some (p, n) → t.descOk c.val (vmDesc w) 64 = true →
      (Desc.parse (t.descBytes c.val (vmDesc w))).bind t.localDesc = some d →
      (d.vldRaw || d.loadAs == 0x01 || d.loadAs == 0xFF || d.loadAs == 0x00) = true →
      ∀ len need, len = (if d.loadAs = 0x01 then 256 else 128) → need = d.ranges lo len (fld w 56 1 == 1 && d.side) →
      t.mayReadAll p need = true → t.badRange need = none →
      d.spanFits t.bus (fld w 56 1 == 1) lo len = true →
      ∀ mask rs, mask = (s.core c.val).maskOf (fld w 60 3) → rs = vldLanes d t.bus w lo mask →
      exec (.vld c w) s = .next (((t.setLanes c.val (vmReg w) mask (rs.map (·.1))).modCore c.val (fun k =>
        { k with fsat := satAdd k.fsat (rs.foldl (fun a r => a + r.2) 0) })).completed c.val w)) ∧
    (s.IssuesTo c.val 0x42 w .vector → vmLegal 0x42 w = true → t = s.executing c.val 0x42 w → t.passOf c.val = some (p, n) →
      t.descOk c.val (vmDesc w) 64 = true → (Desc.parse (t.descBytes c.val (vmDesc w))).bind t.localDesc = some d →
      (isMx d.fmt && decide (lo % 32 ≠ 0)) = false →
      ∀ vs acc u, vs = vstValues w ((s.core c.val).maskOf (fld w 60 3)) (t.lanes c.val (vmReg w) 0) →
      t.mayWriteAll p (d.ranges lo vs.length ((vstModes w).esc && d.side)) = true →
      acc = convertStore d t.bus ((vstModes w).fromInt (fld w 47 2 == 2) d.fmt) s.freeCtr (s.core c.val).gen lo vs →
      t.refusedRun (runsOf (overlay t.busByte acc.writes.reverse)) = none →
      u = (State.storeRuns { t with freeCtr := s.freeCtr + 1 } (runsOf (overlay t.busByte acc.writes.reverse))).modCore
        c.val (fun k => k.tally acc (tagOf (fld w 49 7))) → (u.core c.val).SignalFits w →
      (acc.nan = false → exec (.vst c w) s = .next (u.completed c.val w)) ∧
      (acc.nan = true → (u.core c.val).nanId.getLsbD 63 = true → exec (.vst c w) s =
        .next ((u.modCore c.val (fun k => { k with nanId := k.nanId ||| BitVec.ofNat 64 (2 ^ 61) })).completed c.val w)) ∧
      (∀ (id : Nat) (x : Context) (pc op : BitVec 16), acc.nan = true → (u.core c.val).nanId.getLsbD 63 = false → s.ctxOf c.val = some id →
        s.ctx? id = some x → (s.core c.val).gate = none → (s.core c.val).runs = [] → (s.core c.val).trapDue = none →
        pc = (s.core c.val).pc → op = opTagOf w → ∃ v : State,
        OnlySent (u.modCore c.val (fun k => { k with
          nanId := nanRecord false x.trap c.val id op pc, nanStep := x.step,
          trapDue := if x.trap then some ((s.core c.val).issueNo, op, pc) else none })) v ∧
        (x.trap = false → exec (.vst c w) s = .next (v.completed c.val w)) ∧
        (x.trap = true → exec (.vst c w) s =
          .next ((((v.completed c.val w).coreFault c.val 1 pc op).pump 8 c.val .vector).settleCore c.val)))))

/-- An MMUL that none of the conditions of R204 faults, and whose group shares no tile with a running MMUL, starts:
its run is added with no pass done, the weights of its first pass in one register bank and those of its second in the
other. It completes, with its signal, when its last pass has ended and no finished block of it waits to enter the tile
queue. Nothing else changes. -/
def Obligations.MatrixInstructionStartsItsRun : Prop :=
  ∀ (s : State) (c : Fin 1536) (w : InstrWord),
    (∀ t wb ab wd ad p n, s.IssuesTo c.val 0x20 w .matrix → headerOk w = true → fld w 16 7 = 0 → 1 ≤ mmPasses w →
      mmGroupOk w = true → (s.core c.val).mmulBlocked w = false → t = s.executing c.val 0x20 w →
      wb = t.descBytes c.val (mmWd w) → ab = t.descBytes c.val (mmAd w) → t.descOk c.val (mmWd w) 64 = true →
      t.descOk c.val (mmAd w) 64 = true → t.passOf c.val = some (p, n) → (Desc.parse wb).bind t.localDesc = some wd →
      (Desc.parse ab).bind t.localDesc = some ad → t.mmulFault c.val p (s.issueEntry c.val 0x20 w) wd ad = 0 →
      t.badRange (wd.passRanges (s.issueEntry c.val 0x20 w) wd.packing 0 ++ wd.passRanges (s.issueEntry c.val 0x20 w) wd.packing 1) = none →
      exec (.mmul c w) s = .next (s.setCore c.val { s.issued c.val 0x20 w with
        runs := (s.core c.val).runs ++ [⟨s.issueEntry c.val 0x20 w, wb, ab, 0, s.time, false,
          t.loadBank wd (s.issueEntry c.val 0x20 w) wd.packing 0, t.loadBank wd (s.issueEntry c.val 0x20 w) wd.packing 1⟩],
        tiles := (mmGroup w).foldl (fun a k => tabPut a k { (s.core c.val).tile k with undrained := none }) (s.core c.val).tiles })) ∧
    (∀ r, (s.core c.val).runs.find? (fun v => v.q.no == r.q.no) = some r → mmPasses r.q.w ≤ r.pass →
      (s.core c.val).finished.all (fun f => f.entry.run != r.q.no) = true → (s.core c.val).qM = [] →
      (s.core c.val).seq = .running → (s.core c.val).trapDue = none → (s.core c.val).ctx.isSome = true → (s.core c.val).SignalFits r.q.w →
      exec (.mmulComplete c r.q.no) s = .next ((s.setCore c.val { s.core c.val with
        runs := (s.core c.val).runs.filter (fun v => v.q.no != r.q.no),
        fedV := if fld r.q.w 29 1 = 1 then (s.core c.val).fedV else s.now,
        fedG := if fld r.q.w 29 1 = 1 then s.now else (s.core c.val).fedG }).completed c.val r.q.w))

/-- A pass with readable operands, no parity failure and no block held, after what countStall counts (log 43): for
tile position pos, row and batch entry e below Bt, the accumulator entry is the one of before updated with weight row
X[XW] + 8 pos + row, read from the register bank in use, and activation entry X[XA] + e over the pass's reduction
elements; the first pass of start mode writes it. The banks switch, and the one left takes the weights of the pass
after the next. The last pass with drain enabled finishes one block per tile and eight batch entries. Only this core
and its partition's seeing counts change. -/
def Obligations.MatrixPassUpdatesEveryEntry : Prop :=
  ∀ (s u : State) (c : Fin 1536) (no : Nat) (r : MmulRun) (wd ad : Desc) (cls : TileClass), u = s.countStall c.val →
    (u.core c.val).runs.find? (fun v => v.q.no == no) = some r → r.pass < mmPasses r.q.w → (u.core c.val).stalled r = false →
    (Desc.parse r.wd).bind u.localDesc = some wd → (Desc.parse r.ad).bind u.localDesc = some ad → tileClass wd.eff = some cls →
    u.badRange (wd.passRanges r.q wd.packing (r.pass + 2)
      ++ (List.range (mmBt r.q.w)).flatMap (fun e =>
        ad.ranges (ad.dim0 * (mmEntry r.q + e) + 8 * cls.p * r.pass) (8 * cls.p) false)) = none →
    (u.core c.val).qM = [] → (u.core c.val).seq = .running → (u.core c.val).NoTrapEnds →
    ∃ t, exec (.mmulPassEnd c no none) s = .next t ∧ t = { u with cores := t.cores, freeCtr := u.freeCtr + 1 } ∧
      (∀ n, n ≠ c.val → t.core n = s.core n) ∧
      (r.pass + 1 < mmPasses r.q.w → (t.core c.val).finished = finOrder (u.core c.val).finished ∧
        (t.core c.val).runs = (u.core c.val).runs.map (fun v => if v.q.no = r.q.no then
          { r with pass := r.pass + 1, start := s.time, bank := !r.bank,
                   bank0 := if r.bank then r.bank0 else u.loadBank wd r.q wd.packing (r.pass + 2),
                   bank1 := if r.bank then u.loadBank wd r.q wd.packing (r.pass + 2) else r.bank1 } else v) ∧
        ∀ pos < mmTiles r.q.w, ∀ row < 8, ∀ e < mmBt r.q.w, ∀ k bank, k = mmTiles r.q.w * fld r.q.w 32 2 + pos →
          bank = runsReader (if r.bank then r.bank1 else r.bank0) →
          tabGet ((t.core c.val).tile k).acc ⟨0, 0, false⟩ (accKey row e) =
            accStep wd ad bank u.bus
              (wd.tileRow bank (fld r.q.w 28 1 == 1) (mmElem r.q + 8 * cls.p * r.pass) (mmRow r.q + 8 * pos + row) (8 * cls.p))
              (ad.tileRow u.bus (fld r.q.w 27 1 == 1) (8 * cls.p * r.pass) (mmEntry r.q + e) (8 * cls.p))
              cls (mmRow r.q + 8 * pos + row) (mmEntry r.q + e) (mmElem r.q) r.pass (mmStart r.q.w && r.pass == 0)
              (tabGet ((u.core c.val).tile k).acc ⟨0, 0, false⟩ (accKey row e))) ∧
      (r.pass + 1 = mmPasses r.q.w → mmDrain r.q.w = true →
        (t.core c.val).finished.length = (u.core c.val).finished.length + mmBlocks r.q.w * mmTiles r.q.w)

/-- Blocks enter in order of finishing while the queue has a free slot; saturated INT32 entries are counted as they
are written, and HIGH_WATER follows the occupancy. Nothing else changes while no reader waits but what countStall
counts: the core cycles for which a group has stalled since the last count, none where none has (log 43). -/
def Obligations.FinishedBlockEntersTileQueue : Prop :=
  (∀ (s : State) (c : Fin 1536) (residue : Bool) (t : State), t = s.countStall c.val → (s.core c.val).gate = none →
    (s.core c.val).qV = [] → (s.core c.val).seq = .running → (s.core c.val).trapDue = none →
    ((s.core c.val).finished = [] → exec (.tileQueueWrite c residue) s = .next t) ∧
    (∀ (f : FinBlock) (l : List FinBlock), (s.core c.val).finished = f :: l → (residue && f.entry.isInt) = false →
      32 ≤ (s.core c.val).tq.length → exec (.tileQueueWrite c residue) s = .next t)) ∧
  ∀ (s : State) (c : Fin 1536) (f : FinBlock) (l : List FinBlock) (residue : Bool), (s.core c.val).finished = f :: l →
    (residue && f.entry.isInt) = false → (s.core c.val).tq.length < 32 → f.entry.hasNan = false → (s.core c.val).gate = none →
    (s.core c.val).qV = [] → (s.core c.val).seq = .running → (s.core c.val).trapDue = none → ∀ t, t = s.countStall c.val →
    exec (.tileQueueWrite c residue) s = .next (t.setCore c.val { t.core c.val with
      finished := l, tq := (s.core c.val).tq ++ [f.entry], isat := satAdd (s.core c.val).isat f.sats,
      highWater := max (s.core c.val).highWater ((s.core c.val).tq.length + 1) }) ∧
    ((s.core c.val).stallCycles s.time = 0 → t = s) ∧ (t.core c.val).finished = f :: l

/-- GCFG with legal stage words writes them into its slot. GRUN with a loaded slot and a legal descriptor becomes the
running gate instruction with COUNT entries to read and no parameter record held. It completes, with its signal, when
no entry is left. Nothing else changes. -/
def Obligations.GateSlotsLoadAndGateRunsComplete : Prop :=
  ∀ (s : State) (c : Fin 1536) (w : InstrWord),
    (∀ t ws, s.IssuesTo c.val 0x50 w .gate → gcfgLegal w = true → (s.core c.val).gate = none → (s.issued c.val 0x50 w).SignalFits w →
      t = s.executing c.val 0x50 w → t.scratchOk c.val (gcfgAddr w) (8 * gcfgStages w) = true →
      t.good (coreWin c.val + gcfgAddr w) (8 * gcfgStages w) = true →
      ws = (List.range (gcfgStages w)).map (fun k => BitVec.ofNat 64 (t.readNat (coreWin c.val + gcfgAddr w + 8 * k) 8)) →
      ws.all stageOk = true →
      exec (.gcfg c w) s = .next ((s.setCore c.val { s.issued c.val 0x50 w with
        slots := (s.core c.val).slots.setIfInBounds (gcfgSlot w) ws }).completed c.val w)) ∧
    (∀ t d, s.IssuesTo c.val 0x51 w .gate → grunLegal w = true → (s.core c.val).gate = none → t = s.executing c.val 0x51 w →
      ((s.core c.val).slots.get (Fin.ofNat 8 (grunSlot w))) ≠ [] → t.scratchOk c.val (64 * grunDesc w) 128 = true →
      GateDesc.parse (t.read (coreWin c.val + 64 * grunDesc w) 128) = some d → (s.core c.val).tq.find? (·.gate) = none →
      exec (.grun c w) s = .next (s.setCore c.val { s.issued c.val 0x51 w with
        gate := some ⟨s.issueEntry c.val 0x51 w, t.read (coreWin c.val + 64 * grunDesc w) 128, grunCount w, [], s.now⟩ })) ∧
    (∀ g, (s.core c.val).gate = some g → g.left = 0 → (s.core c.val).trapDue = none → (s.core c.val).qG = [] → (s.core c.val).seq = .running →
      (s.core c.val).ctx.isSome = true → (s.core c.val).SignalFits g.q.w →
      exec (.grunComplete c) s = .next ((s.setCore c.val { s.core c.val with gate := none }).completed c.val g.q.w))

/-- A DMOV whose ends the context may reach, one of them on another device where a queue pair serves it, takes a free
slot and moves no byte of this device yet; its transit checks count resends. When its data have arrived and no earlier
transfer to the same unit is in flight, the converted elements are written at the destination and counted at the store
port, the slot is free, DFFLAG is one higher under DFEN, the flag word is written under FW, and SFLAG is one higher
under SEN. Nothing else changes. -/
def Obligations.MovesStartAndLand : Prop :=
  ∀ (s : State) (c : Fin 1536),
    (∀ w t desc a b la lb p n slot, s.IssuesTo c.val 0x60 w .dma → dmovLegal w = true → t = s.executing c.val 0x60 w →
      desc = t.descBytes c.val (dmSd w) ++ t.descBytes c.val (dmDd w) ++ t.descBytes c.val (dmDd w + 1) →
      t.descOk c.val (dmSd w) 64 = true → t.descOk c.val (dmDd w) (if dmFw w then 128 else 64) = true →
      t.passOf c.val = some (p, n) → s.freeSlot c.val = some slot → dmDescs (s.issueEntry c.val 0x60 w) desc = some (a, b) →
      (dmDfen w = true → t.inContext c.val (dmDfcore w) = true) → a.count = b.count → b.zeroStride = false →
      (dmFw w = true → le desc 144 48 = 0 ∧ ∃ v : Nat, t.localAddr (le desc 128 8) = some v ∧ t.mayWrite p v 8 = true ∧
        t.isRemote (le desc 128 8) = false) → t.isRemote a.addr = false → t.isRemote b.addr = false →
      t.localDesc a = some la → t.localDesc b = some lb →
      t.mayReadAll p (la.allRanges ((dmModes w).esc && la.side)) = true →
      t.mayWriteAll p (lb.allRanges ((dmModes w).esc && lb.side)) = true → sourceFits la t.bus (dmModes w).esc = true →
      exec (.dmov c w .clean) s = .next (s.setCore c.val { s.issued c.val 0x60 w with
        dma := (s.core c.val).dma ++ [⟨slot, (s.core c.val).dmaSeq, s.issueEntry c.val 0x60 w, desc, .localMove, s.now⟩],
        dmaSeq := (s.core c.val).dmaSeq + 1 })) ∧
    (∀ w t desc a b la p n slot qn q, s.IssuesTo c.val 0x60 w .dma → dmovLegal w = true → t = s.executing c.val 0x60 w →
      desc = t.descBytes c.val (dmSd w) ++ t.descBytes c.val (dmDd w) ++ t.descBytes c.val (dmDd w + 1) →
      t.descOk c.val (dmSd w) 64 = true → t.descOk c.val (dmDd w) 64 = true → dmFw w = false →
      t.passOf c.val = some (p, n) → s.freeSlot c.val = some slot → dmDescs (s.issueEntry c.val 0x60 w) desc = some (a, b) →
      (dmDfen w = true → t.inContext c.val (dmDfcore w) = true) → a.count = b.count → b.zeroStride = false →
      (t.isRemote a.addr = false → t.isRemote b.addr = true → t.localDesc a = some la → t.qpFor p (b.addr / 2 ^ 51) = some (qn, q) →
        t.mayReadAll p (la.allRanges ((dmModes w).esc && la.side)) = true → sourceFits la t.bus (dmModes w).esc = true →
        t.badRange (la.allRanges ((dmModes w).esc && la.side)) = none → b.paramRanges = [] →
        (moveAcc (s.issueEntry c.val 0x60 w) la b t.bus (fun _ n => zeros n) s.freeCtr (s.core c.val).gen).nan = false →
        ∃ (u : State) (k : Nat), exec (.dmov c w .clean) s = .next u ∧ u.mem = s.mem ∧ (u.core c.val).pc = (s.core c.val).pc + 1 ∧
          (u.core c.val).dma = (s.core c.val).dma ++
            [⟨slot, (s.core c.val).dmaSeq, s.issueEntry c.val 0x60 w, desc, .sending k, s.now⟩]) ∧
      (t.isRemote a.addr = true → t.isRemote b.addr = false → t.localDesc b = some la → t.qpFor p (a.addr / 2 ^ 51) = some (qn, q) →
        t.mayWriteAll p (la.allRanges ((dmModes w).esc && la.side)) = true → a.allRanges ((dmModes w).esc && a.side) ≠ [] →
        (∀ r ∈ a.allRanges ((dmModes w).esc && a.side), r.2 ≠ 0) →
        ∃ (u : State) (k : Nat), exec (.dmov c w .clean) s = .next u ∧ u.mem = s.mem ∧ (u.core c.val).pc = (s.core c.val).pc + 1 ∧
          (u.core c.val).dma = (s.core c.val).dma ++
            [⟨slot, (s.core c.val).dmaSeq, s.issueEntry c.val 0x60 w, desc, .reading [] k, s.now⟩])) ∧
    (∀ (w : InstrWord) (t : State) (n : Nat), (s.core c.val).issuing = true → exec (.dmov c w .clean) s = .next t →
      exec (.dmov c w (.resent n)) s =
        .next { t with health := { t.health with hopResend := satAdd t.health.hopResend (min n 2) } }) ∧
    (∀ x la lb a b acc u, x.phase = .localMove → (s.core c.val).dma.find? (fun t => t.slot == x.slot) = some x →
      (s.ctxOf c.val).isSome = true → s.behind c.val x = false → dmDescs x.q x.desc = some (a, b) →
      s.localDesc a = some la → s.localDesc b = some lb →
      s.badRange (la.allRanges ((dmModes x.q.w).esc && la.side)) = none →
      acc = moveAcc x.q la lb s.bus s.bus s.freeCtr (s.core c.val).gen → acc.nan = false → (s.core c.val).qD = [] → (s.core c.val).seq = .running → (s.core c.val).NoTrapEnds →
      s.refusedRun (runsOf (overlay s.busByte acc.writes.reverse)) = none →
      u = (State.storeRuns { s with freeCtr := s.freeCtr + 1 } (runsOf (overlay s.busByte acc.writes.reverse))).modCore
        c.val (fun k => { k.tally acc (tagOf (fld x.q.w 44 7)) with dma := k.dma.filter (fun v => v.slot != x.slot) }) →
      ∀ (k n m : Nat) (y z : State), k = dmDfcore x.q.w → n = dmDfflag x.q.w →
      (dmDfen x.q.w = true → (u.core k).ctx = (s.core c.val).ctx ∧ (u.core k).flagOf n < 65535) →
      y = (if dmDfen x.q.w then u.modCore k (fun v => { v with f := flagSet v.f n (v.flagOf n + 1), flagAt := tabPut v.flagAt n s.now })
        else u) →
      (dmFw x.q.w = true → ((s.ctxOf c.val).bind s.ctx?).isSome = true ∧ s.localAddr (le x.desc 128 8) = some m ∧
        y.refusedRun [(m, slice x.desc 136 8)] = none) →
      z = (if dmFw x.q.w then y.busWrite m (slice x.desc 136 8) else y) →
      (z.core c.val).SignalFits x.q.w → exec (.dmovComplete c x.slot) s = .next (z.completed c.val x.q.w))

/-- PREEMPT_REQUEST on a running Umber context without a request records it with its time; a core that waits at a WAIT
with a live set and holds nothing else is saved: PC, X, F, V, M, the bytes of the live set and the waiting instruction
are kept, the core stops, memory stays, and a context of that one core is saved. PARKED_RESUME of a saved context
whose cores are free puts every core back: registers, PC and flags as saved, the live set written, the generator
seeded anew, nothing else in memory changed. LATE_POINT_TIMEOUT raises event 0x8C03 with context, core and PC once,
and only when 40,000 core cycles have passed. -/
def Obligations.PreemptionParksAndResumes : Prop :=
  (∀ (s : State) (id : BitVec 16), (s.ctx? id.toNat = none ∨ (∃ x : Context, s.ctx? id.toNat = some x ∧
      (x.umber = false ∨ x.state ≠ .running ∨ x.preempt.isSome = true)) → exec (.preemptRequest id) s = .next s) ∧
    (s.ctx? id.toNat = none ∨ (∃ x : Context, s.ctx? id.toNat = some x ∧ (x.state = .running ∨
      (∃ v ∈ x.savedCores, (s.core v.1).ctx.isSome = true ∨ v.1 ∈ s.spares.lost ∨
        (x.state = .parked ∧ s.remoteDone x.part.val v.2 = false)))) → exec (.parkedResume id) s = .next s) ∧
    (s.ctx? id.toNat = none ∨ (∃ x : Context, s.ctx? id.toNat = some x ∧ (x.preempt = none ∨ x.lateRaised = true)) →
      exec (.latePointTimeout id) s = .next s)) ∧
  (∀ (s : State) (id : BitVec 16) (x : Context), s.ctx? id.toNat = some x → x.umber = true → x.state = .running →
    x.preempt = none →
    exec (.preemptRequest id) s = .next ((s.setCtx id.toNat { x with preempt := some s.now }).trySave id.toNat) ∧
    ((∀ c : Nat, c ∈ x.cores → (s.core c).seq = .running) →
      exec (.preemptRequest id) s = .next (s.setCtx id.toNat { x with preempt := some s.now })) ∧
    (∀ (c : Nat) (q : QEntry) (es : List (Nat × Nat)), x.cores = [c] → (s.core c).ctx = some id → (s.core c).seq = .barrier q →
      q.op = 0x18 → ∀ e : Engine, e = engOf q.w → (s.core c).queue e = [q] → lsdOf q.w ≠ 0 → (s.core c).dma = [] → (s.core c).noPark = none →
      (s.core c).savable c (some e) q false = true → liveSet (s.descBytes c (lsdOf q.w)) = some es → x.savedCores = [] →
      ∃ t, exec (.preemptRequest id) s = .next t ∧ t.core c = (s.core c).stop .idle ∧ t.mem = s.mem ∧
        t.ctx? id.toNat = some { x with state := .saved, preempt := none, lateRaised := false, savedCores := [(c,
          ⟨(s.core c).pc, (s.core c).x, (s.core c).f, (s.core c).v, (s.core c).m,
            es.map (fun v => (v.1, s.read (coreWin c + v.1) v.2)), some (e, q), false, []⟩)] })) ∧
  (∀ (s : State) (id : BitVec 16) (x : Context), s.ctx? id.toNat = some x → x.state = .saved →
    (∀ v : Nat × SavedCore, v ∈ x.savedCores → (s.core v.1).ctx = none ∧ s.spares.lost.contains v.1 = false ∧ v.2.again = none) →
    exec (.parkedResume id) s = .next (x.savedCores.foldl (fun t v => t.resumeCore id.toNat x v.1 v.2)
      (s.setCtx id.toNat { x with state := .running, savedCores := [] }))) ∧
  (∀ (s : State) (id c : Nat) (x : Context) (v : SavedCore), v.again = none →
    (∀ d : Nat, d ≠ c → (s.resumeCore id x c v).core d = s.core d) ∧
    (s.resumeCore id x c v).core c = { (s.core c).stop .running with
      pc := v.pc, x := v.x, f := v.f, v := v.v, m := v.m, gen := lfsrSeed x.seed x.step c, ctx := some (BitVec.ofNat 16 id),
      photAtPass := (s.core c).phot, watchdog := false } ∧
    (∀ a, (∀ e : Nat × Bytes, e ∈ v.live → ¬ (backing (coreWin c + e.1) ≤ a ∧ a < backing (coreWin c + e.1) + e.2.length)) →
      memGet (s.resumeCore id x c v).mem a = memGet s.mem a)) ∧
  (∀ (s : State) (id : BitVec 16) (x : Context) (c : Nat) (at' : W64), s.ctx? id.toNat = some x → x.preempt = some at' →
    x.cores.find? (fun k => (s.core k).ctx == some id) = some c →
    (x.lateRaised = false → at'.toNat + 40000 * 1000 / max 1 (s.core c).effectiveMhz ≤ s.time →
      exec (.latePointTimeout id) s = .next ((s.setCtx id.toNat { x with lateRaised := true }).raisePart 0x8C03 x.part.val
        (pack [b2 id.toNat, b2 c, b2 (s.core c).pc.toNat]))) ∧
    ((x.lateRaised = true ∨ s.time < at'.toNat + 40000 * 1000 / max 1 (s.core c).effectiveMhz) →
      exec (.latePointTimeout id) s = .next s))

/-- LOCAL_WAIT_WATCHDOG on a wait that only local work can satisfy once 2^22 core cycles have passed since it began
and since its flag last grew, QUEUE_READ_WATCHDOG on a VQRD 2^20 core cycles after it and the last MMUL for it, while
no MMUL and no entry can feed it, and REMOTE_TIMEOUT on a transfer or a WAITM of another device's word that has waited
for the remote timeout each raise a context fault that names the logical core, the PC and the OP_TAG. -/
def Obligations.WaitTimeoutsFaultTheContext : Prop :=
  (∀ (s : State) (c : Fin 1536) (e : Engine), (s.ctxOf c.val = none → e ≠ .seq → exec (.localWaitWatchdog c e) s = .next s) ∧
    ((s.core c.val).seq = .running → exec (.localWaitWatchdog c .seq) s = .next s) ∧
    (((s.core c.val).queue e) = [] → e ≠ .seq → exec (.localWaitWatchdog c e) s = .next s) ∧
    ((s.core c.val).qV = [] → exec (.queueReadWatchdog c .vector) s = .next s) ∧
    ((s.core c.val).gate = none → exec (.queueReadWatchdog c .gate) s = .next s) ∧
    (∀ slot : Fin 16, (s.core c.val).dma = [] → (∀ x ∈ s.ctxs, x.2.savedCores = []) → exec (.remoteTimeout c (.transfer slot)) s = .next s)) ∧
  ∀ (s : State) (c : Fin 1536) (id p n : Nat), s.ctxOf c.val = some id → s.passOf c.val = some (p, n) →
    (∀ q : QEntry, (s.core c.val).seq = .waitHdr q → (s.core c.val).waitOk q = false →
      s.remoteWait c.val q = false → s.waited (s.core c.val) (2 ^ 22) ((s.core c.val).waitFrom q) = true →
      exec (.localWaitWatchdog c .seq) s = .next (s.contextFault id 6 c.val q.pc.toNat (opTagOf q.w).toNat)) ∧
    (∀ (e : Engine) (q : QEntry), e ≠ .seq → ((s.core c.val).queue e).head? = some q → wcnt q.w ≠ 0 →
      (s.core c.val).waitOk q = false → s.remoteWait c.val q = false →
      s.waited (s.core c.val) (2 ^ 22) ((s.core c.val).waitFrom q) = true →
      exec (.localWaitWatchdog c e) s = .next (s.contextFault id 6 c.val q.pc.toNat (opTagOf q.w).toNat)) ∧
    (∀ q : QEntry, (s.core c.val).qV.head? = some q → q.op = 0x40 → (s.core c.val).waitOk q = true →
      (s.core c.val).occ false = 0 → (s.core c.val).qM = [] → (s.core c.val).runs = [] → (s.core c.val).finished = [] →
      s.waited (s.core c.val) (2 ^ 20) (max q.since.toNat (s.core c.val).fedV.toNat) = true →
      ∃ t, exec (.queueReadWatchdog c .vector) s = .next t ∧
        t = (s.setCore c.val { s.core c.val with watchdog := true }).contextFault id 6 c.val q.pc.toNat (opTagOf q.w).toNat) ∧
    (∀ (slot : Fin 16) (x : DmaXfer) (h : Partition), s.part? p = some h →
      (s.core c.val).dma.find? (fun t => t.slot == slot && t.remote && !t.arrived && t.issued.toNat + h.remoteNs ≤ s.time) = some x →
      exec (.remoteTimeout c (.transfer slot)) s = .next (s.contextFault id 2 c.val x.q.pc.toNat (opTagOf x.q.w).toNat)) ∧
    (∀ (e : Engine) (q : QEntry) (v : W64) (h : Partition), s.part? p = some h → ((s.core c.val).queue e).head? = some q →
      isRmt q = true → q.since.toNat + h.remoteNs ≤ s.time → s.waitmRead p q = .word v → wmHolds q v = false →
      exec (.remoteTimeout c (.waitm e)) s = .next (s.contextFault id 2 c.val q.pc.toNat (opTagOf q.w).toNat))

/-- Teardown: every core that runs the context halts with its queues, engines and transfers empty; each of the
context's streams without a close waiting is ORPHANED with the fault code and the time, and keeps its count, its
pending chunks and its committed side; other streams, cores, contexts and all of memory stay. -/
def Obligations.FaultTearsTheContextDown : Prop :=
  ∀ (s : State) (id code core pc tag : Nat) (x : Context), s.ctx? id = some x →
    (∀ i : Fin 16384, i ∈ x.streams → (s.stream i.val).closeReq = false) →
    ∀ t, t = s.teardown id code core pc tag →
    t.ctx? id = none ∧ (∀ k : Nat, k ≠ id → t.ctx? k = s.ctx? k) ∧ t.mem = s.mem ∧
    (∀ c : Nat, c ∈ x.cores → (s.core c).ctx = some (BitVec.ofNat 16 id) →
      t.core c = { (s.core c).stop .halted with phot := (s.core c).photAtPass }) ∧
    (∀ c : Nat, (c ∉ x.cores ∨ (s.core c).ctx ≠ some (BitVec.ofNat 16 id)) → t.core c = s.core c) ∧
    (∀ i : Fin 16384, i ∈ x.streams → (t.stream i.val).state = .orphaned ∧
      (t.stream i.val).faultCode = BitVec.ofNat 16 code ∧ (t.stream i.val).orphanSince = s.now ∧
      (t.stream i.val).sampleCount = (s.stream i.val).sampleCount ∧ (t.stream i.val).chunks = (s.stream i.val).chunks ∧
      (t.stream i.val).commitSide = (s.stream i.val).commitSide) ∧
    (∀ k : Nat, (∀ i : Fin 16384, i ∈ x.streams → i.val ≠ k) → t.stream k = s.stream k)

/-- For a stream that takes input, in the shape of the image in service or, with none, of the one last in service:
CHUNK_ACCEPT, JITTER_ACCEPT_TIMEOUT at its moment and INTAKE_AUDIO_ACCEPT append the next chunk with its number, first
sample, acceptance time and payload; its deadline is acceptance + 2W (Vermilion) or + 8W (Ochre), none (Umber), or the
last pending one's + W; SAMPLE_COUNT grows by the chunk; a STALLED stream becomes ACTIVE; with 16 pending the oldest
is dropped, CHUNKS_LOST counts it and GAP is set. What follows at an idle boundary of the partition is settle. With a
sample missing, for a stream of another source, or while it takes no input, nothing is accepted. -/
def Obligations.ChunksAreAcceptedWithTheirDeadline : Prop :=
  (∀ (s : State) (i : Fin 16384) (x : Stream), x = s.stream i.val → (x.takesInput = false ∨ s.nextChunkSamples x = 0 →
      exec (.chunkAccept i) s = .next s ∧ exec (.jitterAcceptTimeout i) s = .next s ∧ exec (.intakeAudioAccept i) s = .next s) ∧
    (x.srcKind ≠ 1 → exec (.chunkAccept i) s = .next s ∧ exec (.jitterAcceptTimeout i) s = .next s) ∧
    (x.srcKind ≠ 2 → exec (.intakeAudioAccept i) s = .next s) ∧
    (x.jitterMoment (s.nextChunkSamples x) = none → exec (.jitterAcceptTimeout i) s = .next s)) ∧
  ∀ (s : State) (i : Fin 16384) (x : Stream) (q : Partition) (im : ImageInfo) (n : Nat), x = s.stream i.val →
    s.part? x.part.val = some q → q.shape? = some im → n = chunkSamples q.l x.sampleRate.toNat → n ≠ 0 → x.takesInput = true →
    (x.srcKind = 1 → x.presentIn n = n →
      ∃ u : State, exec (.chunkAccept i) s = .next (u.settle x.part.val) ∧ Accepted s u i.val n q im (bndGapReset x.binding)) ∧
    (x.srcKind = 1 → x.presentIn n ≠ n → exec (.chunkAccept i) s = .next s) ∧
    (∀ t : Int, x.srcKind = 1 → x.jitterMoment n = some t →
      (t ≤ s.time → ∃ u : State, exec (.jitterAcceptTimeout i) s = .next (u.settle x.part.val) ∧
        Accepted s u i.val n q im (bndGapReset x.binding)) ∧
      (s.time < t → exec (.jitterAcceptTimeout i) s = .next s)) ∧
    (x.srcKind = 2 → x.presentIn n = n →
      ∃ u : State, exec (.intakeAudioAccept i) s = .next (u.settle x.part.val) ∧
        Accepted s u i.val n q im (s.group (audGroup x.source)).gapReset) ∧
    (x.srcKind = 2 → x.presentIn n ≠ n → exec (.intakeAudioAccept i) s = .next s)

/-- ARCHIVE_WRITE_DONE writes the oldest unarchived chunk's slot, at slot CHUNK_NO mod 16 of the stream's ring, and
marks that chunk archived. STATE_COMMIT_FLIP, once the stream's results are stored, its outputs released and the
overflow decision taken, flips COMMIT_SIDE, writes COMMIT_STEP, takes the chunk from the pending ones, counts it and
writes DONE with the step into its slot; before that it does nothing. -/
def Obligations.ArchiveAndCommitWriteTheirSlots : Prop :=
  (∀ (s : State) (i : Fin 16384) (x : Stream), x = s.stream i.val →
    ((s.part? x.part.val).bind (·.shape?) = none ∨ (∀ c ∈ x.chunks, c.archived = true) → exec (.archiveWriteDone i) s = .next s) ∧
    ((s.part? x.part.val).bind (·.image?) = none ∨ s.workOf i.val = none ∨ (∃ e : WorkEntry, s.workOf i.val = some e ∧ e.committed = true) →
      exec (.stateCommitFlip i) s = .next s)) ∧
  ∀ (s : State) (i : Fin 16384) (x : Stream) (im : ImageInfo), x = s.stream i.val → (s.part? x.part.val).bind (·.shape?) = some im →
    (∀ c d : Chunk, x.chunks.find? (fun k => !k.archived) = some c →
      d = { c with archived := true, mirrored := x.mirrorSide.isSome } →
      ∃ u : State, exec (.archiveWriteDone i) s = .next (u.settle x.part.val) ∧
        u.mem = memWrite s.mem (backing (x.archAddr + im.slotBytes * (c.no % 16))) (d.slot x.handle.toNat) ∧
        u.stream i.val = { x with chunks := x.chunks.map (fun (k : Chunk) => if k.no = c.no then d else k) } ∧
        (∀ j : Nat, j ≠ i.val → u.stream j = s.stream j) ∧ u.parts = s.parts ∧ u.cores = s.cores ∧ u.ctxs = s.ctxs) ∧
    (∀ e : WorkEntry, s.workOf i.val = some e → (s.part? x.part.val).bind (·.image?) = some im →
      (e.stored = true → e.committed = false → e.outIdx = im.outRecords → s.decided x.part.val = true →
        ∃ u : State, exec (.stateCommitFlip i) s = .next (u.settle x.part.val) ∧
          u.stream i.val = { x with
            commitSide := !x.commitSide, commitStep := BitVec.ofNat 48 (s.stepOf x.part.val),
            chunks := x.chunks.filter (fun (c : Chunk) => c.no != e.chunkNo),
            oldestAccept := (((x.chunks.filter (fun (c : Chunk) => c.no != e.chunkNo)).head?).map (·.accept)).getD 0,
            chunksDone := x.chunksDone + 1, lastDone := s.now } ∧
          (x.chunks.any (fun (c : Chunk) => c.no == e.chunkNo) = true →
            u.mem = memWrite s.mem (backing (e.chunkAddr - 0x40 + 0x20)) (natToBytes 8 (2 ^ 63 + s.stepOf x.part.val))) ∧
          (x.chunks.any (fun (c : Chunk) => c.no == e.chunkNo) = false → u.mem = s.mem) ∧
          (∀ j : Nat, j ≠ i.val → u.stream j = s.stream j) ∧ u.cores = s.cores ∧ u.ctxs = s.ctxs) ∧
      ((e.stored = false ∨ e.outIdx ≠ im.outRecords ∨ s.decided x.part.val = false) → exec (.stateCommitFlip i) s = .next s))

/-- An OPENING stream becomes ACTIVE and a waiting STREAM_OPEN is answered with the handle; an ACTIVE stream without
pending chunks becomes STALLED when its stall time has passed since its last chunk and sample, and not before; 16
steps later its residency is released; an ORPHANED stream whose orphan timeout has passed, a shadow's since its last
record, is CLOSED and keeps its generation; a mirrored stream's committed image and then its commit record go to the
peer in that order (their layout is the model's, log 26). -/
def Obligations.StreamStatesChangeAtTheirTimes : Prop :=
  (∀ (s : State) (i : Fin 16384) (x y : Stream), x = s.stream i.val → x.state = .opening →
    y = { x with state := .active, lastSample := s.now, lastDone := s.now } →
    (x.openMbx = none ∨ (x.mirrorSide.map (·.imageSent)) = some false → exec (.stateBuffersReady i) s = .next (s.setStream i.val y)) ∧
    (∀ m : Fin 64, x.openMbx = some m → (x.mirrorSide.map (·.imageSent)) ≠ some false →
      ∃ t : State, exec (.stateBuffersReady i) s = .next t ∧
        Replied (s.setStream i.val { y with openMbx := none }) t m 0 0 (b4 x.handle.toNat))) ∧
  (∀ (s : State) (i : Fin 16384) (x : Stream), x = s.stream i.val →
    (x.state ≠ .opening → exec (.stateBuffersReady i) s = .next s) ∧
    (s.part? x.part.val = none → exec (.stallTimeout i) s = .next s ∧ exec (.orphanTimeout i) s = .next s) ∧
    (x.state ≠ .active → exec (.stallTimeout i) s = .next s) ∧ (x.state ≠ .orphaned → exec (.orphanTimeout i) s = .next s) ∧
    (x.state ≠ .stalled ∨ s.stepOf x.part.val < x.stalledStep.toNat + 16 → exec (.stalledResidencyRelease i) s = .next s) ∧
    (x.mirrorSide = none ∨ x.state = .closed ∨ x.state = .opening → exec (.mirrorStateSend i) s = .next s)) ∧
  (∀ (s : State) (i : Fin 16384) (x : Stream) (q : Partition) (t0 : W64), x = s.stream i.val → s.part? x.part.val = some q →
    t0 = (match x.shadow with
      | some h => h.lastRecord
      | none => x.orphanSince) →
    (x.state = .active → x.chunks = [] → max x.lastDone.toNat x.lastSample.toNat + q.stallNs ≤ s.time →
      exec (.stallTimeout i) s = .next (s.setStream i.val { x with state := .stalled, stalledStep := q.stepNo })) ∧
    ((x.chunks ≠ [] ∨ s.time < max x.lastDone.toNat x.lastSample.toNat + q.stallNs) → exec (.stallTimeout i) s = .next s) ∧
    (x.state = .stalled → x.stalledStep.toNat + 16 ≤ s.stepOf x.part.val →
      exec (.stalledResidencyRelease i) s = .next (s.setStream i.val { x with resCluster := 63 })) ∧
    (x.state = .orphaned → t0.toNat + q.orphanNs ≤ s.time →
      ∃ t : State, exec (.orphanTimeout i) s = .next t ∧ (t.stream i.val).state = .closed ∧ (t.stream i.val).chunks = [] ∧
        (t.stream i.val).handle = x.handle ∧ (t.stream i.val).gen = x.gen) ∧
    (x.state = .orphaned → s.time < t0.toNat + q.orphanNs → exec (.orphanTimeout i) s = .next s)) ∧
  (∀ (s : State) (i : Fin 16384) (x : Stream) (v : MirrorSide) (n : Nat) (q : Qp), x = s.stream i.val → x.mirrorSide = some v →
    x.state ≠ .closed → x.state ≠ .opening →
    (s.good x.committedAt (x.stateUnits.toNat * 4096) = false →
      ∃ t : State, exec (.mirrorStateSend i) s = .next t ∧ t = { s with health := t.health }) ∧
    (s.good x.committedAt (x.stateUnits.toNat * 4096) = true → s.qpFor 16 v.peer.toNat = none →
      exec (.mirrorStateSend i) s = .next s) ∧
    (s.good x.committedAt (x.stateUnits.toNat * 4096) = true → s.qpFor 16 v.peer.toNat = some (n, q) →
      ∃ (t : State) (a b : OutMsg), exec (.mirrorStateSend i) s = .next t ∧ OnlySent s t ∧ Sends s t n q [a, b] ∧
        a.data = Config.mirrorBytes (.image v.shadow (s.read x.committedAt (x.stateUnits.toNat * 4096))) ∧
        b.data = Config.mirrorBytes (.commit v.shadow x.commitStep x.releasedSeq x.nextOutSeq)))

/-- STEP_START at a due moment, in SERVING with an image and no step: the step has the partition's number, the work
list in the order of R71 placed by R72, and its slices in the work-list region; else no page table changes and only
streams without pages come to wait. PASS_START starts the next pass; each of its contexts, but for one that stays
parked, has the registers of R193 on every core, at the entry of the Umber job where all its streams are Umber (log
42). CONTEXT_END, when every core has ended, frees the cores and marks the context's entries stored.
REPLAY_RELOAD_DONE runs the interrupted pass again and counts the replay with its time. SCRATCH_RELOAD_DONE answers
PART_RESET, over the refusing queue pairs of the partition too, after the records that wait in the command's ring;
with RESP_ADDR, or a completion record that waits, the reset ends after them. -/
def Obligations.StepsAndPassesRun : Prop :=
  (∀ (s t : State) (p : Fin 16) (q0 q : Partition) (im : ImageInfo) (l : List WorkEntry), s.part? p.val = some q0 →
    q0.step = none → q0.image?.isSome = true → s.dev.mode = .serving → q0.zeroing = none → q0.resetting = none →
    t = ((s.idleBoundary p.val).resumeOrphans p.val ((((s.idleBoundary p.val).part? p.val).map Partition.w).getD 0)
      ((((s.idleBoundary p.val).part? p.val).map Partition.policyHold).getD false)).kvStart p.val →
    t.part? p.val = some q → q.image? = some im →
    ∀ gs : List Nat, gs = (passGroupsOf q.sect im).filter (fun g => t.groupServes im g) →
    l = t.orderEntries im (t.placeAll q im gs (t.listOrder p.val im (gs.length * im.groupSlots)) 0 []) →
    (l ≠ [] → t.startDue q im l = true →
      ∃ (u : State) (r : StepRun), exec (.stepStart p) s = .next u ∧ (u.part? p.val).bind (·.step) = some r ∧ r.no = q.stepNo ∧
        r.list = l ∧ r.passOn = false ∧ r.cur = 0 ∧ r.decided = false ∧ r.replay = none ∧
        u.read r.sliceBase (l.flatMap (fun e => u.sliceEntry im e)).length = l.flatMap (fun e => u.sliceEntry im e)) ∧
    ((l = [] ∨ t.startDue q im l = false) → exec (.stepStart p) s = .next (s.noteLacks p.val))) ∧
  (∀ (s : State) (p : Fin 16), (s.part? p.val = none ∨ s.dev.mode ≠ .serving ∨ (∃ q : Partition, s.part? p.val = some q ∧
      (q.step.isSome = true ∨ q.image? = none ∨ q.zeroing.isSome = true ∨ q.resetting.isSome = true)) →
      exec (.stepStart p) s = .next s) ∧
    ((s.part? p.val).bind (·.step) = none → exec (.passStart p) s = .next s ∧ exec (.replayReloadDone p) s = .next s) ∧
    (s.dev.mode ≠ .serving → exec (.passStart p) s = .next s) ∧
    (∀ r : StepRun, (s.part? p.val).bind (·.step) = some r → r.replay = none → exec (.replayReloadDone p) s = .next s) ∧
    ((∀ m : Fin 64, (s.part? p.val).bind (·.resetting) ≠ some (m, false)) → exec (.scratchReloadDone p) s = .next s)) ∧
  (∀ (s : State) (id : BitVec 16), s.ctx? id.toNat = none → exec (.contextEnd id) s = .next s) ∧
  (∀ (s : State) (p : Fin 16) (r : StepRun), (s.part? p.val).bind (·.step) = some r →
    (s.dev.mode = .serving → r.passOn = false → r.replay = none → r.cur < r.passes →
      exec (.passStart p) s = .next ((s.startPass p.val r.cur false).settle p.val)) ∧
    ((r.passOn = true ∨ r.replay.isSome = true ∨ r.passes ≤ r.cur) → exec (.passStart p) s = .next s)) ∧
  (∀ (s t : State) (p k g : Nat) (im : ImageInfo) (r : StepRun), t = s.startContext p im r k g →
    r.list.any (fun e => e.pass == k && e.group == g && !e.gone && !e.committed) = true →
    s.ctxs.any (fun v => v.2.part.val == p && v.2.group == g && v.2.pass == k) = false →
    ∃ (id slice count : Nat) (x : Context), t.ctx? id = some x ∧ x.state = .running ∧ x.step = r.no ∧ x.cores = groupCores im g ∧
      x.umber = (r.list.filter (fun e => e.pass == k && e.group == g && !e.gone && !e.committed)).all
        (fun e => (s.stream e.stream.val).cls.val == 2) ∧
      ∀ c : Nat, c ∈ groupCores im g → (t.core c).ctx = some (BitVec.ofNat 16 id) ∧ (t.core c).seq = .running ∧
        (t.core c).pc = (if x.umber then im.umberPc else im.entryPc) ∧ (t.core c).f = Vector.replicate 32 0 ∧ (t.core c).m = Vector.replicate 4 0 ∧
        (t.core c).slots = (s.core c).slots ∧
        (t.core c).x = #v[0, r.no.setWidth 64, BitVec.ofNat 64 slice, BitVec.ofNat 64 count, BitVec.ofNat 64 c,
          BitVec.ofNat 64 id, 0, 0, 0, 0, 0, 0, 0, 0, 0, 0]) ∧
  (∀ (s : State) (id : BitVec 16) (x : Context), s.ctx? id.toNat = some x →
    ((∀ c : Nat, c ∈ x.cores → c ∈ x.endedCores) →
      ∃ u : State, exec (.contextEnd id) s = .next (u.settle x.part.val) ∧ u.ctx? id.toNat = none ∧ u.mem = s.mem ∧
        (∀ c : Nat, c ∈ x.cores → (u.core c).seq = .idle ∧ (u.core c).ctx = none) ∧
        (∀ c : Nat, c ∉ x.cores → u.core c = s.core c) ∧
        (∀ r : StepRun, (s.part? x.part.val).bind (·.step) = some r →
          ∃ v, (u.part? x.part.val).bind (·.step) = some v ∧ v.list = r.list.map (fun e =>
            if e.pass == x.pass && e.group == x.group && !e.gone then { e with stored := true } else e))) ∧
    ((∃ c : Nat, c ∈ x.cores ∧ c ∉ x.endedCores) → exec (.contextEnd id) s = .next s)) ∧
  (∀ (s : State) (p : Fin 16) (q : Partition) (r : StepRun) (v : Replay), s.part? p.val = some q → q.step = some r →
    q.image?.isSome = true → r.replay = some v →
    (r.passOn = true → exec (.replayReloadDone p) s = .next s) ∧
    (r.passOn = false → (∀ n : Nat, (s.cluster n).failedBanks = []) →
      ∃ (t : State) (u : StepRun) (us : Nat), us = (s.time - v.passStart.toNat) / 1000 ∧
        exec (.replayReloadDone p) s = .next t ∧ (t.part? p.val).bind (·.step) = some u ∧ u.passOn = true ∧ u.running = v.pass ∧
        u.again = true ∧ u.replay = r.more.head? ∧ u.no = r.no ∧
        t.health = { s.health with replayCnt := satAdd s.health.replayCnt 1, lastUs := BitVec.ofNat 16 (min us 65535),
                                   maxUs := BitVec.ofNat 16 (max s.health.maxUs.toNat (min us 65535)) })) ∧
  (∀ (s : State) (p : Fin 16) (m : Fin 64), (s.part? p.val).bind (·.resetting) = some (m, false) →
    (∀ bs ∈ (s.ring (le (s.page m) 6 1)).waiting, le bs 12 1 ≠ m.val) →
    (bit (le (s.page m) 2 2) 1 = true → devOf (BitVec.ofNat 64 (le (s.page m) 0x10 8)) ≠ s.dev.deviceNo.toNat →
      (∃ (k : Nat) (q : Qp), (k, q) ∈ s.qps ∧ q.owner = (s.mail m).owner.toNat ∧ q.state = .connected ∧
        q.peer.toNat = devOf (BitVec.ofNat 64 (le (s.page m) 0x10 8)) ∧ (q.refuse = false ∨ q.owner = p.val)) →
      (s.mail m).busy = true →
      ∃ t : State, exec (.scratchReloadDone p) s = .next t ∧ (t.part? p.val).bind (·.resetting) = some (m, true) ∧
        t.read (respPageAddr m) 4096 = s.respOf m 0 0 []) ∧
    (bit (le (s.page m) 2 2) 1 = false →
      ∃ u v : State, exec (.scratchReloadDone p) s = .next (v.resetAfter m) ∧ Replied u v m 0 0 [] ∧
        (bit (le (s.page m) 2 2) 0 = false → v.resetAfter m = v.finishReset m) ∧
        (u.part? p.val).bind (·.resetting) = some (m, true) ∧ u.mail m.val = s.mail m.val ∧
        ∀ i : Nat, u.stream i = s.stream i ∨ u.stream i = { s.stream i with resCluster := 63 }))

/-- OUTPUT_RELEASE: with k = RELEASED_SEQ + 1 - N0, a record numbered n is discarded when n - N0 is below k modulo
2^32, and released otherwise: NEXT_OUT_SEQ and RELEASED_SEQ move, the last record past the deadline counts as late. A
failed exit check is counted and the pass is replayed. HOST_RING_SINK_WRITE writes the oldest waiting record's body
and then its header into entry OUT_SEQ mod RING_ENTRIES, where that entry is not known as unread and a queue pair
serves, else nothing; a re-read consumer count is taken. SEEING_PERIOD_END writes the record of the oldest period that
has ended to its entry or skips it, and its number is used up. -/
def Obligations.OutputsAreReleasedOnce : Prop :=
  (∀ (s : State) (i : Fin 16384) (x : Stream) (ok : Bool), x = s.stream i.val → (s.workOf i.val = none ∨
      (s.part? x.part.val).bind (·.image?) = none ∨ s.dev.mode ≠ .serving ∨ s.decided x.part.val = false ∨
      (∃ e im, s.workOf i.val = some e ∧ (s.part? x.part.val).bind (·.image?) = some im ∧ (e.stored = false ∨ im.outRecords ≤ e.outIdx)) →
      exec (.outputRelease i ok) s = .next s) ∧
    (x.outlet.waiting = [] → exec (.hostRingSinkWrite i) s = .next s) ∧
    (x.sinkKind ≠ 3 ∨ x.outlet.waiting = [] → ∀ c : W64, exec (.sinkConsReread i c) s = .next s)) ∧
  (∀ (s : State) (i : Fin 16384) (x : Stream) (e : WorkEntry) (im : ImageInfo) (ok : Bool) (k : W32) (a : Nat), x = s.stream i.val →
    s.workOf i.val = some e → (s.part? x.part.val).bind (·.image?) = some im → s.dev.mode = .serving → e.stored = true →
    e.outIdx < im.outRecords → s.decided x.part.val = true → k = x.releasedSeq + 1 - e.n0 →
    a = e.outAddr + e.outIdx * alignUp 256 im.outBytes →
    (ok = true → s.good a im.outBytes = true → (x.nextOutSeq - e.n0).toNat < k.toNat →
      ∃ u : State, exec (.outputRelease i ok) s = .next (u.settle x.part.val) ∧
        u.stream i.val = { x with nextOutSeq := x.nextOutSeq + 1 } ∧ u.wire = s.wire ∧ u.mem = s.mem) ∧
    (ok = true → s.good a im.outBytes = true → k.toNat ≤ (x.nextOutSeq - e.n0).toNat →
      ∃ u : State, exec (.outputRelease i ok) s = .next (u.settle x.part.val) ∧
        (u.stream i.val).nextOutSeq = x.nextOutSeq + 1 ∧ (u.stream i.val).releasedSeq = x.nextOutSeq ∧
        (u.stream i.val).late = (match e.deadline with
          | some d => if e.outIdx + 1 = im.outRecords ∧ d < s.time then satAdd x.late 1 else x.late
          | none => x.late) ∧
        (∀ j : Nat, j ≠ i.val → u.stream j = s.stream j) ∧ u.cores = s.cores ∧ u.ctxs = s.ctxs) ∧
    ((ok = false ∨ s.good a im.outBytes = false) →
      exec (.outputRelease i ok) s = .next (({ s with
        health := { s.health with exitFail := satAdd s.health.exitFail 1 } }).badData x.part.val e.pass a im.outBytes))) ∧
  (∀ (s : State) (i : Fin 16384) (x : Stream) (seq : W32) (bs : Bytes) (rest : List (W32 × Bytes)) (n at' : Nat), x = s.stream i.val →
    x.outlet.waiting = (seq, bs) :: rest → n = bndRingEntries x.binding →
    at' = bndRingAddr x.binding + seq.toNat % n * bndEntryBytes x.binding →
    (∀ (k : Nat) (q : Qp), tabGet x.outlet.entries 0 (seq.toNat % n) ≤ x.outlet.cons.toNat → s.qpFor x.part.val (ringPeer x.sink) = some (k, q) →
      ∃ (t : State) (a b : OutMsg), exec (.hostRingSinkWrite i) s = .next t ∧
        Sends s t k q [a, b] ∧
        a.data = bs.take (bndEntryBytes x.binding - 16) ∧ a.va = q.remoteVa (BitVec.ofNat 64 at' + 16) ∧
        b.data = b4 x.handle.toNat ++ b4 seq.toNat ++ b4 bs.length ++ zeros 4 ∧ b.va = q.remoteVa (BitVec.ofNat 64 at') ∧
        t.stream i.val =
          { x with outlet := { x.outlet with waiting := rest, written := x.outlet.written + 1, entries := tabPut x.outlet.entries (seq.toNat % n) (x.outlet.written + 1) } } ∧ t.mem = s.mem) ∧
    ((x.outlet.cons.toNat < tabGet x.outlet.entries 0 (seq.toNat % n) ∨ s.qpFor x.part.val (ringPeer x.sink) = none) →
      exec (.hostRingSinkWrite i) s = .next s) ∧
    (∀ c : W64, x.sinkKind = 3 →
      exec (.sinkConsReread i c) s = .next (s.setStream i.val { x with outlet := { x.outlet with cons := c } }))) ∧
  (∀ (s : State) (p : Fin 16) (c : SeeingCounts), (s.part? p.val).bind (·.seeing) = none → exec (.seeingPeriodEnd p c) s = .next s) ∧
  (∀ (s : State) (p : Fin 16) (c : SeeingCounts) (q : Partition) (g : Seeing), s.part? p.val = some q → q.seeing = some g →
    (g.due = [] → exec (.seeingPeriodEnd p c) s = .next s) ∧
    (∀ (d : SeeingTally) (rest : List SeeingTally), g.due = d :: rest → ∃ t : State, exec (.seeingPeriodEnd p c) s = .next t ∧
      t.part? p.val = some { q with seeing := some { g with recordNo := (g.recordNo + 1) % 2 ^ 32, due := rest } } ∧
      (s.qpFor 16 (devOf (g.ring + BitVec.ofNat 64 (128 * (g.recordNo % max 1 g.entries)))) = none → t.wire = s.wire) ∧
      (∀ (n : Nat) (u : Qp), s.qpFor 16 (devOf (g.ring + BitVec.ofNat 64 (128 * (g.recordNo % max 1 g.entries)))) = some (n, u) →
        ∃ a : OutMsg, Sends s t n u [a] ∧ a.data = seeingRecord p.val g.recordNo d c)))

/-- SINGLE_FAULT_REPORT of a tile with a free spare tile: the spare takes its place and the repair is recorded; a
running pass on the core is stopped, keeps its streams and memory, and waits for its replay. Before INIT it has no
effect. A report of a DRAM row repairs it, of a ring link marks the quadrant, of a hub link or port without contexts
counts, of a lane, a supervisor or an ageing island does what LANE_LOCK_LOSS, HEARTBEAT_MISS or a retirement does.
SRAM_SCRUB counts and latches a corrected word and leaves the rest. HBM_PATROL counts what it corrected, remaps a
pseudo-channel whose soft repair is exhausted with a copy and a failed one, whose data are lost, at once.
AGEING_SAMPLE stores a sample that moved by 0.100 %. ISLAND_CLOCK_SETTLE puts the requested clock, under the limits in
force, into effect. -/
def Obligations.SingleFaultsAreRepaired : Prop :=
  (∀ (s : State) (f : FaultReport), s.dev.mode.code < 3 → exec (.singleFaultReport f) s = .next s) ∧
  (∀ (s : State) (f : FaultReport) (a b : Nat), 3 ≤ s.dev.mode.code → a = bits f.unit.toNat 32 16 → b = bits f.unit.toNat 16 16 →
    (f.cls.val ≤ 2 → 1536 ≤ a → exec (.singleFaultReport f) s = .next s) ∧ (f.cls = 3 → 48 ≤ a → exec (.singleFaultReport f) s = .next s) ∧
    (f.cls = 5 → f.repairable = true → f.lost = .nothing → s.partOfAddr f.addr.toNat = none → ∃ (t : State) (v w : Bytes),
      exec (.singleFaultReport f) s = .next t ∧ OnlySent (({ s with
        health := (s.memError ⟨3, false, f.addr⟩).health, flash := { s.flash with ops := s.flash.ops ++ [.wear v, .wear w] } } : State).setQuad
          (a / 3 % 4) { s.quad (a / 3 % 4) with pprSoft := satAdd (s.quad (a / 3 % 4)).pprSoft 1 }) t) ∧
    (f.cls = 7 → s.partOfAddr f.addr.toNat = none → ∃ (t : State) (w : Bytes), exec (.singleFaultReport f) s = .next t ∧
      OnlySent (({ s with
        health := { s.health with linkFail := satAdd s.health.linkFail 1 },
        flash := { s.flash with ops := s.flash.ops ++ [.wear w] } } : State).setQuad (a % 4) { s.quad (a % 4) with ringDown := true }) t) ∧
    (f.cls = 8 → s.ctxs = [] → ∃ t : State, exec (.singleFaultReport f) s = .next t ∧ OnlySent { s with
      health := { s.health with linkFail := satAdd s.health.linkFail 1 }, freeCtr := s.freeCtr + 1 } t) ∧
    (f.cls = 9 → exec (.singleFaultReport f) s = exec (.laneLockLoss (Fin.ofNat 4 (a % 4)) (Fin.ofNat 5 b)) s) ∧
    (f.cls = 10 → (4 ≤ a ∨ s.sup.working.getLsbD a = false → exec (.singleFaultReport f) s = .next s) ∧
      (a < 4 → s.sup.working.getLsbD a = true → a = s.sup.primary.val → s.dev.mode.code ≤ 6 →
        exec (.singleFaultReport f) s = exec (.heartbeatMiss true) s) ∧
      (a < 4 → s.sup.working.getLsbD a = true → a ≠ s.sup.primary.val → a ≠ s.sup.standby.val → s.sup.loading = none →
        ∃ (t : State) (w : Bytes), exec (.singleFaultReport f) s = .next t ∧ OnlySent { s with
          sup := { s.sup with working := s.sup.working &&& ~~~ BitVec.ofNat 4 (2 ^ a) },
          flash := { s.flash with ops := s.flash.ops ++ [.wear w] } } t)) ∧
    (f.cls = 11 → (1536 ≤ a ∨ (s.core a).retirePending = true → exec (.singleFaultReport f) s = .next s) ∧
      (∀ (p : Nat) (q : Partition), a < 1536 → (s.core a).retirePending = false → s.coreOwner a = some p → s.part? p = some q →
        q.step.isSome = true → s.freePositions (a / 32) ≠ [] → exec (.singleFaultReport f) s = .next
          ((s.setCore a { s.core a with retirePending := true }).setPart p { q with
            unitWaits := q.unitWaits ++ [⟨BitVec.ofNat 64 (unitId 0xB a 0), none, none⟩] })))) ∧
  (∀ (s : State) (f : FaultReport) (c : Nat), c = bits f.unit.toNat 32 16 → f.cls = 0 → c < 1536 →
    s.spareTileFree (s.physCore c) = true →
    (3 ≤ s.dev.mode.code → ∀ sp : SpareMap,
      sp = { s.spares with spareTile := tabPut s.spares.spareTile (s.physCore c) (some (Fin.ofNat 16 (bits f.unit.toNat 16 16))) } →
      (s.coreOwner c = none → ∃ (t : State) (a b : Bytes), exec (.singleFaultReport f) s = .next t ∧
        OnlySent ({ s with spares := sp, flash := { s.flash with ops := s.flash.ops ++ [.wear a, .wear b] } } : State) t ∧
        le a 12 1 = 1 ∧ le b 12 1 = 7) ∧
      (∀ (p : Nat) (q : Partition) (r : StepRun), s.coreOwner c = some p → s.part? p = some q → q.step = some r →
        r.passOn = true → r.again = false → r.replay = none → s.runsOn p (· == c) = true →
        ∃ t : State, exec (.singleFaultReport f) s = .next t ∧ t.spares = sp ∧ t.mem = s.mem ∧ t.streams = s.streams ∧
          t.liveContexts p = (s.liveContexts p).filter (fun x => x.2.state == .parked) ∧ (t.part? p).bind (·.step) = some { r with
            passOn := false, replay := some ⟨f, ((s.liveContexts p).filter (fun x => x.2.state != .parked)).map
              (fun (x : Nat × Context) => BitVec.ofNat 16 x.1), r.running, r.passStart⟩ }))) ∧
  (∀ (s : State) (a : DevAddr) (r : ScrubResult), s.dev.mode.code < 3 ∨ s.health.scrubCtl.getLsbD 63 = false ∨ s.sramUnit a.toNat = none →
    exec (.sramScrub a r) s = .next s) ∧
  (∀ (s : State) (k : Fin 12) (c : Fin 32) (r : PatrolResult), s.dev.mode.code < 3 ∨ s.health.scrubCtl.getLsbD 62 = false →
    exec (.hbmPatrol k c r) s = .next s) ∧
  (∀ (s : State) (a : DevAddr) (k n b : Nat), 3 ≤ s.dev.mode.code → s.health.scrubCtl.getLsbD 63 = true →
    s.sramUnit a.toNat = some (k, n, b) →
    exec (.sramScrub a .clean) s = .next s ∧
    ((k = 3 ∨ k = 4) → s.partOfAddr a.toNat = none → (if k = 4 then (s.clusterOwner n).isNone else (s.coreOwner n).isNone) = true →
      exec (.sramScrub a .uncorrectable) s = .next (((s.uncorrectable 1 true a none).clearWord a).repairScratch (unitId k n b))) ∧
    (∀ (byAccess : Bool) (col : Nat), (k ≠ 2 → tabGet s.health.rowErrs [] (rowOf k (backing a.toNat)) = [] ∧
        tabGet s.health.rowErrs [] (columnKey k n b col) = []) → ∃ t : State, exec (.sramScrub a (.corrected byAccess col)) s = .next t ∧
      t.health.ceCnt = satAdd s.health.ceCnt 1 ∧ t.health.last = latchError s.health.last ⟨0, !byAccess, a⟩ ∧
      t = { s with health := t.health })) ∧
  (∀ (s : State) (k : Fin 12) (c : Fin 32) (r : PatrolResult) (x : QuadHealth), 3 ≤ s.dev.mode.code →
    s.health.scrubCtl.getLsbD 62 = true → s.dev.mode ≠ .maintenance → r.uncorrectable = [] → r.byRead = [] → x = s.quad (k.val / 3) →
    (tabGet s.health.pcErrs [] (32 * k.val + c.val)).length < 1000 →
    (r.failed = false → r.exhausted = false →
      (r.corrected = [] → exec (.hbmPatrol k c r) s = .next s) ∧
      (∀ a : DevAddr, r.corrected = [a] → tabGet s.health.rowErrs [] (hbmRowKey (s.hbmNow a.toNat)) = [] →
        ∃ t : State, exec (.hbmPatrol k c r) s = .next t ∧ t = { s with health := t.health } ∧ ∃ rows errs,
          t.health = { (s.memError ⟨2, true, a⟩).health with rowErrs := rows, pcErrs := errs })) ∧
    (r.corrected = [] → r.failed = false → r.exhausted = true → x.remapState = 0 →
      exec (.hbmPatrol k c r) s = .next (s.setQuad (k.val / 3) { x with
        remapState := 1, stack := BitVec.ofNat 2 (k.val % 3), pc := BitVec.ofNat 5 c.val })) ∧
    (r.corrected = [] → r.failed = true → x.remapState = 0 → ∃ (t : State) (w : Bytes), exec (.hbmPatrol k c r) s = .next t.mendLost ∧
      OnlySent (({ s with
        lostPcs := ⟨k.val, c.val, []⟩ :: s.lostPcs.filter (fun l => !(l.stack == k.val && l.pc == c.val)),
        flash := { s.flash with ops := s.flash.ops ++ [.wear w] } } : State).setQuad (k.val / 3) { x with
        remapState := 2, stack := BitVec.ofNat 2 (k.val % 3), pc := BitVec.ofNat 5 c.val }) t)) ∧
  (∀ (s : State) (c : Fin 1536) (v : Nat), (s.dev.mode.code < 3 → exec (.ageingSample c v) s = .next s) ∧
    (3 ≤ s.dev.mode.code → 5000 ≤ v → (s.core c.val).slowdown < v + 100 → v < (s.core c.val).slowdown + 100 → ∀ f : FaultReport, f.cls = 11 →
      f.unit.toNat = unitId 0xB c.val 0 → exec (.ageingSample c v) s = exec (.singleFaultReport f) s)) ∧
  (∀ (s : State) (c : Fin 1536) (v : Nat), 3 ≤ s.dev.mode.code → v < 5000 →
    ((s.core c.val).slowdown < v + 100 → v < (s.core c.val).slowdown + 100 → exec (.ageingSample c v) s = .next s) ∧
    (((s.core c.val).slowdown + 100 ≤ v ∨ v + 100 ≤ (s.core c.val).slowdown) →
      ∃ w : Bytes, le w 12 1 = 6 ∧ exec (.ageingSample c v) s = .next (({ s with
        flash := { s.flash with ops := s.flash.ops ++ [.wear w] } } : State).setCore c.val { s.core c.val with slowdown := v }))) ∧
  (∀ (s : State) (c : Fin 1536) (k : Core), k = { s.core c.val with settling := none } →
    ((s.core c.val).settling.isSome = true →
      exec (.islandClockSettle c) s = .next (s.setCore c.val { k with effectiveMhz := k.clockMhz })) ∧
    ((s.core c.val).settling = none → exec (.islandClockSettle c) s = .next s))

/-- REMAP_COPY_DONE engages the remap and records it. EXTENT_ZEROING_DONE ends a destruction: the partition is gone,
all of its extents read zero and nothing else of memory changed, and PART_DESTROY is answered; or a creation: the
partition has its epoch, its areas and its clusters, and PART_CREATE answers with their addresses and keys.
TIER_COPY_DONE writes the page to its new slot, or gives the slot back where the page fails its check. TEST_COMPLETE,
here of a unit tested in place, appends its record with pass or fail by the signature (expected signatures: Config,
log 25) and answers after the last unit. -/
def Obligations.BackgroundWorkEnds : Prop :=
  (∀ (s : State) (q : Fin 4), (s.quad q.val).remapState ≠ 1 → exec (.remapCopyDone q) s = .next s) ∧
  (∀ (s : State) (p : Fin 16), s.part? p.val = none → exec (.extentZeroingDone p) s = .next s) ∧
  (∀ (s : State) (i : Fin 16384) (l k : Nat) (ok : Bool), (s.part? (s.stream i.val).part.val = none ∨
      (∃ q : Partition, s.part? (s.stream i.val).part.val = some q ∧
        q.moves.find? (fun w => w.stream == i && w.layer == l && w.page == k && w.phase == 0) = none)) →
    exec (.tierCopyDone i l k ok) s = .next s) ∧
  (∀ (s : State) (n : Nat) (unit sig : W64), s.tests.find? (fun t => t.id.toNat == n && t.mbx.isSome && t.todo.contains unit) = none →
    exec (.testComplete n unit sig) s = .next s) ∧
  (∀ (s : State) (q : Fin 4), (s.quad q.val).remapState = 1 → ∃ (t : State) (w : Bytes), exec (.remapCopyDone q) s = .next t ∧
    OnlySent (({ s with flash := { s.flash with ops := s.flash.ops ++ [.wear w] } } : State).setQuad q.val { s.quad q.val with remapState := 2 }) t) ∧
  (∀ (s : State) (p : Fin 16) (q : Partition) (m : Fin 64), s.part? p.val = some q →
    (q.zeroing = none → exec (.extentZeroingDone p) s = .next s) ∧
    (q.zeroing = some (.destroy m) → (∀ x : Extent, x ∈ q.hbm ++ q.lp → x.addr % gib = 0 ∧ x.addr + x.gib * gib ≤ lpTop) →
      ∃ t u : State, exec (.extentZeroingDone p) s = .next t ∧ Replied u t m 0 0 [] ∧ u.part? p.val = none ∧
        (∀ k : Nat, k ≠ p.val → u.part? k = s.part? k) ∧
        (∀ (x : Extent) (a : Nat), x ∈ q.hbm ++ q.lp → x.addr ≤ a → a < x.addr + x.gib * gib → memGet u.mem a = 0) ∧
        (∀ a : Nat, (∀ x : Extent, x ∈ q.hbm ++ q.lp → a < x.addr ∨ x.addr + x.gib * gib ≤ a) → memGet u.mem a = memGet s.mem a)) ∧
    (q.zeroing = some (.create m) → ∀ (z w1 w2 : State) (e : BitVec 24) (tab dir : Nat),
      s.zeroNew p.val q = (e, z) → z.alloc p.val 4096 8192 = some (tab, w1) → w1.alloc p.val 4096 131072 = some (dir, w2) →
      (∀ k : Nat × Partition, k ∈ s.parts → ∀ o : Fin 64, k.2.zeroing ≠ some (.destroy o)) →
      ∃ t u : State, exec (.extentZeroingDone p) s = .next t ∧
        Replied u t m 0 0 (pack [b8 tab, b8 dir, b4 (rKey 1 p.val e).toNat, b4 (rKey 3 p.val e).toNat]) ∧
        (u.part? p.val).map (·.zeroing) = some none ∧ (u.part? p.val).map (·.epoch) = some e ∧
        ∀ cl : Nat, cl ∈ clustersOf q.sect → (u.cluster cl).owner = some p)) ∧
  (∀ (s : State) (i : Fin 16384) (l k : Nat) (q : Partition) (v : TierMove), s.part? (s.stream i.val).part.val = some q →
    q.moves.find? (fun w => w.stream == i && w.layer == l && w.page == k && w.phase == 0) = some v →
    (s.good v.oldSlot q.kvSlotBytes = false → exec (.tierCopyDone i l k true) s = exec (.tierCopyDone i l k false) s) ∧
    (v.mbx = none → q.tierCmds = [] → ∃ t u : State, exec (.tierCopyDone i l k false) s = .next t ∧ t.mem = s.mem ∧ u.parts = t.parts ∧
      u = s.setPart (s.stream i.val).part.val { q.giveSlots [(v.toLp, v.newSlot)] with
        moves := q.moves.filter (fun w => !(w.stream == i && w.layer == l && w.page == k && w.phase == 0)) }) ∧
    (s.good v.oldSlot q.kvSlotBytes = true → exec (.tierCopyDone i l k true) s = .next ((s.writeRaw v.newSlot (s.read v.oldSlot q.kvSlotBytes)).setPart (s.stream i.val).part.val
      { q with moves := q.moves.map (fun w =>
        if w.stream == i && w.layer == l && w.page == k && w.phase == 0 then { w with phase := 1 } else w) }))) ∧
  (∀ (s : State) (v : SelfTest) (unit sig : W64), s.dev.mode = .maintenance → bits unit.toNat 56 8 = 5 → v.rolled = [] →
    s.tests.find? (fun t => t.id.toNat == v.id.toNat && t.mbx.isSome && t.todo.contains unit) = some v →
    s.tests.find? (fun t => t.id == v.id) = some v →
    (∀ (p : Nat) (q : Partition), s.part? p = some q → ∀ w : UnitWait, w ∈ q.unitWaits → w.test = none) →
    s.rollWaits unit.toNat = false →
    ∃ (t : State) (r : Bytes) (w : SelfTest), exec (.testComplete v.id.toNat unit sig) s = .next t ∧
      t.tests.find? (fun x => x.id == v.id) = some w ∧ w.records = v.records ++ [r] ∧
      w.todo = v.todo.filter (fun u => u != unit) ∧ w.mbx = (if w.todo = [] then none else v.mbx) ∧
      le r 12 1 = 5 ∧ le r 13 1 = (if sig = Config.testSignature 5 1 then 0 else 1))

/-- Off, a doorbell has no effect. In ROM_BOOT, FW_LOAD and INIT, on a mailbox without an owner and on a busy one it
sets LOST only. Else the page is copied, the mailbox becomes busy, and the command waits behind earlier ones; an
unassigned code is answered UNKNOWN_COMMAND; a SEQ already answered is answered again from what is kept, with FLAGS
bit 1, and does not run: to RESP_ADDR where the new page asks for it and a queue pair serves, else with FLAGS bit 2
where it asks; the mailbox is then busy only until its copy is acknowledged or while its completion record waits. -/
def Obligations.DoorbellsAreTaken : Prop :=
  ∀ (s : State) (m : Fin 64) (x y : Mailbox), x = s.mail m →
    y = { x with busy := true, copy := s.read (cmdPage m) 4096, running := false, takeover := false } →
    (s.dev.mode.code = 0 → exec (.mailboxDoorbell m) s = .next s) ∧
    (s.dev.mode.code ≠ 0 → (s.dev.mode.code ≤ 3 ∨ x.owner = 31 ∨ x.busy = true) →
      exec (.mailboxDoorbell m) s = .next (s.setMail m { x with lost := true })) ∧
    (3 < s.dev.mode.code → x.owner ≠ 31 → x.busy = false →
      (∀ k : W32 × Bytes, x.kept = some k → k.1.toNat ≠ le y.copy 0x18 4) →
      (cmdCodes.contains (le y.copy 0 2) = true →
        exec (.mailboxDoorbell m) s = .next { s.setMail m y with bells := s.bells ++ [m] }) ∧
      (cmdCodes.contains (le y.copy 0 2) = false →
        ∃ t : State, exec (.mailboxDoorbell m) s = .next t ∧ Replied (s.setMail m y) t m 1 0 [])) ∧
    (3 < s.dev.mode.code → x.owner ≠ 31 → x.busy = false →
      ∀ (k : W32 × Bytes) (a : Nat) (sent : Bool) (page : Bytes), x.kept = some k → k.1.toNat = le y.copy 0x18 4 →
      a = devOf (BitVec.ofNat 64 (le y.copy 0x10 8)) →
      sent = (bit (le y.copy 2 2) 1 && a != s.dev.deviceNo.toNat && (s.qpFor x.owner.toNat a).isSome) →
      page = (if bit (le y.copy 2 2) 1 && !sent then withFlags (withFlags k.2 (· + 2)) (· + 4) else withFlags k.2 (· + 2)) →
      ∃ t : State, exec (.mailboxDoorbell m) s = .next t ∧ t.read (respPageAddr m) page.length = page ∧
        (t.mail m).kept = x.kept ∧ (t.mail m).lost = x.lost ∧ (∀ n : Nat, n ≠ m.val → t.mail n = s.mail n) ∧ t.bells = s.bells ∧
        (sent = true → (t.mail m).busy = true) ∧
        (sent = false → (t.mail m).busy = true → bit (le y.copy 2 2) 0 = true ∧ (t.ring (le y.copy 6 1)).waiting ≠ []))

/-- A command runs only from a busy mailbox that is first in doorbell order and whose copied page carries its code.
The checks come in the order owner (DENIED: a partition's mailbox may issue the commands that P marks, for what is its
own and on a ring of its own), header fields, then gaps and ranges (INVALID_PARAM with the offset of the first faulty
field), device state (WRONG_STATE), stream handle (STALE_HANDLE); the first failure is the answer, and nothing else
happens. -/
def Obligations.ChecksComeBeforeCommands : Prop :=
  (∀ (s : State) (i : Instr) (m : Fin 64) (c : CmdSpec), specOf i = some (m, c) →
    (((s.mail m).busy = false ∨ s.bells.head? ≠ some m ∨ le (s.page m) 0 2 ≠ c.code) → exec i s = .next s) ∧
    (∀ st d : Nat, (s.mail m).busy = true → s.bells.head? = some m → le (s.page m) 0 2 = c.code →
      s.popped.checkCmd (s.mail m) c = some (st, d) →
      ∃ t, exec i s = .next t ∧ Replied s.popped t m st d [])) ∧
  (∀ (s : State) (x : Mailbox) (c : CmdSpec) (may : Prop),
    (may ↔ x.owner = 16 ∨ (c.part = true ∧ c.own s x.owner.toNat x.copy = true ∧
      (bit (le x.copy 2 2) 0 = true → le x.copy 6 1 ≤ 15 → (s.ring (le x.copy 6 1)).owner = x.owner))) →
    (¬ may → s.checkCmd x c = some (9, 0)) ∧
    (may → ∀ f : Nat, headerFault x.copy c.sizes = some f → s.checkCmd x c = some (2, f)) ∧
    (may → headerFault x.copy c.sizes = none →
      (∀ f : Nat, gapFault x.copy 0x40 c.sizes = some f → (∀ r : Nat, c.range s x.copy = some r → f ≤ r) →
        s.checkCmd x c = some (2, f)) ∧
      (∀ f : Nat, c.range s x.copy = some f → (∀ g : Nat, gapFault x.copy 0x40 c.sizes = some g → f ≤ g) →
        s.checkCmd x c = some (2, f)) ∧
      (gapFault x.copy 0x40 c.sizes = none →
        (c.range s x.copy = none → served s.dev.mode c.code = false → s.checkCmd x c = some (3, 0)) ∧
        (c.range s x.copy = none → served s.dev.mode c.code = true →
          (∀ h : Nat, c.handle = some h → s.checkCmd x c = if s.stale (le x.copy h 4) then some (4, 0) else none) ∧
          (c.handle = none → s.checkCmd x c = none)))))

/-- The 59 rows: code, whether a partition mailbox may issue it, and where its parameters end when laid out under
R415. -/
def Obligations.CommandsAreThoseOfTheTable : Prop :=
  ∀ (i : Instr) (m : Fin 64) (c : CmdSpec), specOf i = some (m, c) → (c.code, c.part, paramsEnd c.sizes) ∈ ([
      (0x101, false, 0x40), (0x102, false, 0x41), (0x103, false, 0x41), (0x104, true, 0x60), (0x105, false, 0x42),
      (0x106, false, 0x40), (0x107, false, 0x40), (0x108, false, 0x42), (0x201, false, 0x58), (0x202, false, 0x44),
      (0x203, false, 0x40), (0x204, false, 0x40), (0x205, false, 0x50), (0x206, false, 0x44), (0x301, false, 0xD8),
      (0x302, false, 0x41), (0x303, true, 0x41), (0x304, true, 0x41), (0x401, true, 0xA8), (0x402, true, 0x88),
      (0x403, true, 0x41), (0x501, true, 0xE0), (0x502, true, 0x44), (0x503, true, 0x44), (0x504, true, 0x46),
      (0x505, true, 0x44), (0x506, true, 0x44), (0x507, true, 0x47), (0x601, false, 0xE0), (0x602, true, 0x41),
      (0x603, true, 0x41), (0x604, true, 0x41), (0x605, true, 0x44), (0x606, true, 0x44), (0x607, true, 0x43),
      (0x608, true, 0x46), (0x701, false, 0x50), (0x702, false, 0x70), (0x703, true, 0x50), (0x704, true, 0x78),
      (0x705, true, 0x44), (0x706, true, 0x44), (0x707, false, 0x58), (0x708, false, 0x1D8), (0x801, true, 0x4C),
      (0x802, false, 0x40), (0x901, false, 0x50), (0x902, false, 0x50), (0x903, false, 0x48), (0x904, false, 0x50),
      (0x905, false, 0x48), (0xA01, false, 0x48), (0xA02, false, 0x68), (0xA03, false, 0x58), (0xA04, false, 0x41),
      (0xA05, false, 0x41), (0xB01, false, 0x48), (0xB02, true, 0x50), (0xB03, false, 0x40)] : List (Nat × Bool × Nat))

/-- Each query that passes R423 answers OK with the fields of the command table, packed under R415, and leaves
everything but its response as it was. PART_QUERY of a partition that does not exist answers zeros; MODEL_QUERY of one
is WRONG_STATE; NET_QP_QUERY of an unknown queue pair is INVALID_TARGET (log 24). -/
def Obligations.QueriesAnswerFromTheState : Prop :=
  Queries .devInfo specDevInfo (fun _ _ _ => True) (fun _ _ s => pack [partNo, serialNo, b1 s.dev.mode.code, b1 s.sup.primary.val,
    b2 s.dev.deviceNo.toNat, b4 s.sec.fwVersion.toNat, b4 s.cfgVersion,
    (List.range 16).flatMap (fun k => b8 (Config.macAddr k).toNat)]) ∧
  Queries .devHealth specDevHealth (fun _ _ _ => True) (fun _ _ s => pack [b2 s.spares.lost.length, b2 s.failedMacs,
    b1 s.degradedQuads, b1 s.sup.working.toNat, b8 (bitmap s.spareLowClusters), b8 (bitmap (s.retiring.map (· / 32)))]) ∧
  Queries .cfgList specCfgList (fun _ _ _ => True) (fun _ _ s => pack [
    b4 ((s.flash.journal.getLast?.map (fun r => r.kind.code)).getD 0 * 2 ^ 29 + s.flash.journalCnt),
    s.flash.cfg.toList.flatMap CfgSlot.entry]) ∧
  Queries .partQuery specPartQuery (fun _ pg s => (s.live? (le pg 0x40 1)).isNone = true) (fun _ _ _ => zeros 80) ∧
  (∀ q : Partition, Queries .partQuery specPartQuery (fun _ pg s => s.live? (le pg 0x40 1) = some q) (fun _ pg s => pack [
    b1 (if q.served?.isSome then 2 else 1), b2 (s.openStreams (le pg 0x40 1)).length, b1 (flag q.overAdmitted),
    b8 q.stepNo.toNat, padTo 64 (((q.served?).map (·.digest)).getD (zeros 64))])) ∧
  (∀ q : Partition, Queries .modelQuery specModelQuery (fun _ pg s => s.live? (le pg 0x40 1) = some q) (fun _ _ _ => pack [
    b1 q.img0.state.code, b8 q.img0.received, b8 q.img0.total, padTo 64 q.img0.digest,
    b1 q.img1.state.code, b8 q.img1.received, b8 q.img1.total, padTo 64 q.img1.digest])) ∧
  Rejects .modelQuery specModelQuery 3 (fun _ pg s => s.live? (le pg 0x40 1) = none) ∧
  Queries .streamQuery specStreamQuery (fun _ _ _ => True) (fun _ pg s =>
    (s.stream (le pg 0x40 4 % 2 ^ 14)).image (s.stepOf (s.stream (le pg 0x40 4 % 2 ^ 14)).part.val)) ∧
  (∀ q : Qp, Queries .netQpQuery specNetQpQuery (fun _ pg s => s.qp? (le pg 0x40 4) = some q) (fun _ _ _ => pack [
    b1 q.state.code, b4 q.sqNext.toNat, b4 q.acked.toNat,
    b4 (toIntRange 0 (2 ^ 32 - 1) (fp32F.decode q.rc.toNat)).1.toNat, b4 q.alpha.toNat])) ∧
  Rejects .netQpQuery specNetQpQuery 7 (fun _ pg s => s.qp? (le pg 0x40 4) = none) ∧
  Queries .memQuery specMemQuery (fun _ _ _ => True) (fun _ _ s => memRegs.flatMap (fun off => b8 (s.ctlReg off).toNat)) ∧
  Queries .telemSensors specTelemSensors (fun _ _ _ => True) (fun _ _ s => pack [(List.range 4).flatMap (fun q => i2 (s.quadTemp q)),
    i2 s.pwr.hubTemp, i2 s.pwr.coolant, b2 s.pwr.inputMv.toNat, b2 s.pwr.powerW.toNat])

/-- DEV_STATE_SET changes READY and MAINTENANCE while no partition exists, else WRONG_STATE; DEV_RESET answers first,
then resets into ROM_BOOT with source 2; DEV_EVT_RING sets a ring up anew, enabled only on an own queue pair to the
ring's host, else INVALID_TARGET, or disabled, and what waited for the old ring is not written (log 41); DEV_MBX_BIND
binds an idle mailbox without a queue pair, or its own from the end of the command on, else WRONG_STATE; DEV_SUP_SWAP
makes the standby primary and answers with it, BUSY without a valid standby; DEV_POWER_CAP sets CAP_W. -/
def Obligations.DeviceCommandsAct : Prop :=
  Acts .devStateSet specDevStateSet (fun _ _ s => if s.parts = [] then none else some (3, 0))
    (fun _ pg s => s.setMode (if le pg 0x40 1 = 4 then .ready else .maintenance)) noData ∧
  (∀ (s : State) (m : Fin 64), s.Takes m specDevReset → ∃ t : State, Replied s.popped t m 0 0 [] ∧
    exec (.devReset m) s = .next (t.resetNow (le (s.page m) 0x40 1 == 0) 2)) ∧
  (∀ (t : State) (cold : Bool), (t.resetNow cold 2).dev.mode = .romBoot ∧ (t.resetNow cold 2).dev.resetSource = 2 ∧
    (t.resetNow cold 2).dev.resetKind = (if cold ∨ t.dev.reachedReady = false then 0 else 1)) ∧
  Acts .devEvtRing specDevEvtRing (fun _ pg s => if le pg 0x50 8 / 2 ^ 51 = s.dev.deviceNo.toNat ∨
      le pg 0x58 8 / 2 ^ 51 = s.dev.deviceNo.toNat ∨ (bit (le pg 0x42 2) 0 = true ∧ (s.qp? (le pg 0x48 4)).all (fun q =>
        q.owner != le pg 0x41 1 || (q.state == .connected && q.peer.toNat != le pg 0x50 8 / 2 ^ 51)) = true) then some (7, 0) else none)
    (fun _ pg s => (s.cutRing (le pg 0x40 1) { Ring.cold with
      enabled := bit (le pg 0x42 2) 0, packets := bit (le pg 0x42 2) 0 && bit (le pg 0x42 2) 1,
      owner := BitVec.ofNat 5 (le pg 0x41 1), entries := if bit (le pg 0x42 2) 0 then le pg 0x44 4 else 16,
      addr := BitVec.ofNat 64 (le pg 0x50 8), consAddr := BitVec.ofNat 64 (le pg 0x58 8),
      mask := BitVec.ofNat 32 (le pg 0x4C 4), qpn := BitVec.ofNat 24 (le pg 0x48 4) }).endResets) noData ∧
  (∀ (s : State) (n : Nat) (r : Ring), ((s.ring n).waiting = [] → s.cutRing n r = s.setRing n r) ∧
    ((∀ v ∈ s.parts, v.2.resetting = none) → s.endResets = s)) ∧
  Acts .devMbxBind specDevMbxBind (fun m pg s => if s.qpBound (le pg 0x40 1) = true ∨
      (le pg 0x40 1 ≠ m.val ∧ (s.mail (le pg 0x40 1)).busy = true) then some (3, 0) else none)
    (fun m pg s => s.modMail (le pg 0x40 1) (fun x => if le pg 0x40 1 = m.val then
      { x with rebind := some (BitVec.ofNat 5 (le pg 0x41 1)) } else { x with owner := BitVec.ofNat 5 (le pg 0x41 1) })) noData ∧
  Acts .devSupSwap specDevSupSwap (fun _ _ s => if s.sup.standbyValid then none else some (8, 0)) (fun _ _ s => s.takeover 1 false)
    (fun _ _ s => b1 s.sup.standby.val) ∧
  (∀ (s : State) (cause : Nat), (s.takeover cause false).sup.primary = s.sup.standby ∧
    (s.takeover cause false).sup.standbyValid = false ∧ (s.takeover cause false).sup.working = s.sup.working ∧
    (s.takeover cause false).sup.takeovers = satAdd s.sup.takeovers 1) ∧
  Acts .devPowerCap specDevPowerCap (fun _ _ _ => none)
    (fun _ pg s => { s with pwr := { s.pwr with capW := BitVec.ofNat 12 (le pg 0x40 2) } }) noData

/-- A CFG_STAGE segment from the page or from SRC is added to what was taken; the values in its answer before the last
segment are open. A whole valid image starts the write of its slot; a segment or image that fails a check is answered
with the check's status and the staging of an image that fails ends. CFG_COMMIT of a STAGED version and CFG_ROLLBACK
to the newest HISTORY version begin by writing PREPARE to the journal, or answer with the first check that fails.
CFG_READ returns bytes in the response or by RDMA. CFG_DISCARD starts freeing a STAGED slot. -/
def Obligations.ConfigurationCommandsAct : Prop :=
  (∀ (s : State) (m : Fin 64) (host : Option Bytes) (pg : Bytes) (off n src : Nat) (seg taken : Bytes), s.Takes m specCfgStage →
    pg = s.page m → off = le pg 0x44 4 → n = le pg 0x48 4 → src = le pg 0x50 8 →
    (s.popped.cfgBusy = true → ∃ t, exec (.cfgStage m host) s = .next t ∧ Replied s.popped t m 8 0 []) ∧
    (s.popped.cfgBusy = false → ∀ d : Nat, stageSegFault s.flash.staging off n (le pg 0x4C 4) (le pg 0x40 2 = 1) = some d →
      ∃ t, exec (.cfgStage m host) s = .next t ∧ Replied s.popped t m 2 d []) ∧
    (s.popped.cfgBusy = false → stageSegFault s.flash.staging off n (le pg 0x4C 4) (le pg 0x40 2 = 1) = none →
      (src ≠ 0 → (s.popped.hostReach m (BitVec.ofNat 64 src) = false ∨ ∀ b : Bytes, host = some b → b.length ≠ n) →
        ∃ t, exec (.cfgStage m host) s = .next t ∧ Replied s.popped t m 12 0 []) ∧
      ((src = 0 ∧ seg = slice pg 0x80 n) ∨
          (src ≠ 0 ∧ s.popped.hostReach m (BitVec.ofNat 64 src) = true ∧ host = some seg ∧ seg.length = n) →
        taken = (if off = 0 then seg else (s.flash.staging.map (·.taken)).getD [] ++ seg) →
        (le pg 0x40 2 = 0 → ∃ t, exec (.cfgStage m host) s = .next t ∧
          Replied { s.popped with
            freeCtr := s.freeCtr + 1,
            flash := { s.flash with staging := some (Staging.mk taken (le pg 0x4C 4)) } } t m 0 0
            (pack [b4 (Config.freeNat s.freeCtr), b1 (Config.freeNat s.freeCtr / 2 ^ 32)])) ∧
        (le pg 0x40 2 = 1 → ∀ u : State, u = { s.popped with flash := { s.flash with staging := none } } →
          (∀ (st : Nat) (d : Option Nat), u.stageFault taken = some (st, d) →
            exec (.cfgStage m host) s = .next (u.failImage m st d)) ∧
          (u.stageFault taken = none →
            (∀ (k : Nat) (v : State), u.stageSlot = some (k, v) → exec (.cfgStage m host) s =
              .next ((v.flashOp (.cfgStage m (Fin.ofNat 8 k) (BitVec.ofNat 32 (le taken 8 4)) taken)).background m)) ∧
            (u.stageSlot = none → ∃ t, exec (.cfgStage m host) s = .next t ∧ Replied u t m 10 0 [])))))) ∧
  (∀ (s : State) (m : Fin 64) (v : Option (Fin 8 × CfgSlot)) (rollback : Bool) (i : Instr),
    ((i = .cfgCommit m ∧ s.Takes m specCfgCommit ∧ rollback = false ∧ v = s.popped.slotOf (le (s.page m) 0x40 4)) ∨
      (i = .cfgRollback m ∧ s.Takes m specCfgRollback ∧ rollback = true ∧ v = s.popped.newestHistory)) →
    (∀ st : Nat, (if s.popped.cfgBusy then some 8 else match v with
        | none => some (if rollback then 3 else 7)
        | some (_, c) => if (rollback = false ∧ c.state ≠ .staged) ∨ (rollback = true ∧ s.popped.leavesOut c.image = true) then some 3
          else if s.popped.changesBusy c.image then some 8 else if digestOk c.image then none else some 11) = some st →
      ∃ t, exec i s = .next t ∧ Replied s.popped t m st 0 []) ∧
    (∀ (k : Fin 8) (c : CfgSlot), v = some (k, c) → s.popped.cfgBusy = false → (rollback = false → c.state = .staged) →
      (rollback = true → s.popped.leavesOut c.image = false) → s.popped.changesBusy c.image = false → digestOk c.image = true →
      ∃ (u : State) (j : Commit), exec i s = .next (u.background m) ∧ j.mbx = m ∧ j.version = c.version ∧ j.slot = k ∧
        j.phase = .prepare ∧ j.rollback = rollback ∧ u = { s.popped with
          commit := some j, flash := { s.flash with ops := s.flash.ops ++ [.journal (j.journalRec .prepare)] } })) ∧
  (∀ (s : State) (m : Fin 64) (ok : Bool) (pg : Bytes), s.Takes m specCfgRead → pg = s.page m →
    (s.popped.slotOf (le pg 0x40 4) = none → ∃ t, exec (.cfgRead m ok) s = .next t ∧ Replied s.popped t m 7 0 []) ∧
    (∀ (k : Fin 8) (c : CfgSlot), s.popped.slotOf (le pg 0x40 4) = some (k, c) →
      (c.image.length ≤ le pg 0x44 4 → ∃ t, exec (.cfgRead m ok) s = .next t ∧ Replied s.popped t m 2 0x44 []) ∧
      (le pg 0x44 4 < c.image.length →
        (le pg 0x48 8 = 0 → ∃ t, exec (.cfgRead m ok) s = .next t ∧ Replied s.popped t m 0 0
          (padTo 0x40 (b4 ((c.image.drop (le pg 0x44 4)).take 3968).length) ++ (c.image.drop (le pg 0x44 4)).take 3968)) ∧
        (le pg 0x48 8 ≠ 0 → ok = true → s.popped.hostReach m (BitVec.ofNat 64 (le pg 0x48 8)) = true →
          ∃ t, exec (.cfgRead m ok) s = .next t ∧ Replied (s.popped.sentTo m (le pg 0x48 8) (c.image.drop (le pg 0x44 4))) t m 0 0
            (b4 (c.image.length - le pg 0x44 4))) ∧
        (le pg 0x48 8 ≠ 0 → (ok = false ∨ s.popped.hostReach m (BitVec.ofNat 64 (le pg 0x48 8)) = false) →
          ∃ t, exec (.cfgRead m ok) s = .next t ∧ Replied s.popped t m 12 0 [])))) ∧
  Starts .cfgDiscard specCfgDiscard (fun _ pg s =>
      if (s.commit.map (·.version.toNat)) = some (le pg 0x40 4) then some (8, 0) else match s.slotOf (le pg 0x40 4) with
      | none => some (7, 0)
      | some (_, c) => if c.state ≠ .staged then some (3, 0)
        else if ({ s with commit := none } : State).cfgBusy = true then some (8, 0) else none)
    (fun m pg s => match s.slotOf (le pg 0x40 4) with
      | none => s
      | some (j, _) => s.flashOp (.cfgFree m j))

/-- PART_CREATE of a defined partition whose extents and clusters are free takes its extents and goes on with zeroing;
BUSY while a commit changes it, WRONG_STATE where it exists or has no section, NO_RESOURCE for what is taken or too
small. PART_DESTROY takes the partition down, marks it as being destroyed and goes on. PART_RESET drops its step and
contexts, closes its streams, counts the reset and goes on. MODEL_LOAD takes a segment that continues or begins an
image into its slot's copy, answers the count of an old one, and on the last makes the image LOADED or puts it in
service, or empties the slot with the failed check's status. MODEL_UNLOAD empties a slot not in service and named by
no version. -/
def Obligations.PartitionAndImageCommandsAct : Prop :=
  Starts .partCreate specPartCreate (fun _ pg s =>
      if s.commitChanges (le pg 0x40 1) = true ∨ (s.part? (le pg 0x40 1)).any (fun q => !q.settled) = true then some (8, 0)
      else if (s.part? (le pg 0x40 1)).isSome = true ∨ s.currentCfg.bind (fun c => sectOf c.image 2 (le pg 0x40 1)) = none then some (3, 0)
      else if s.parts.any (fun q => q.2.held.any (fun a => (extsOf pg false ++ extsOf pg true).any (fun b => a.meets b))) = true ∨
        (extsOf pg false ++ extsOf pg true).any s.meetsSpare = true ∨
        extBytes (extsOf pg false) < 8192 + 131072 + par createSizes pg 6 * minSlot ∨
        extBytes (extsOf pg true) < par createSizes pg 7 * minSlot ∨ s.lpRoom (extsOf pg true) = false ∨
        (∃ c ∈ clustersOf ((s.currentCfg.bind (fun c => sectOf c.image 2 (le pg 0x40 1))).getD []), (s.clusterOwner c).isSome = true)
      then some (10, 0) else none)
    (fun m pg s => s.setPart (le pg 0x40 1)
      (newPartition pg m ((s.currentCfg.bind (fun c => sectOf c.image 2 (le pg 0x40 1))).getD []))) ∧
  Starts .partDestroy specPartDestroy (fun _ pg s => match s.part? (le pg 0x40 1) with
      | none => some (3, 0)
      | some q => if q.settled = false ∨ s.commitChanges (le pg 0x40 1) = true then some (8, 0) else none)
    (fun m pg s => s.takeDown (le pg 0x40 1) m) ∧
  (∀ (s : State) (p : Nat) (m : Fin 64) (q : Partition), s.part? p = some q →
    (∀ x, (((((s.abortLoads p).dropStep p).zeroArchive p).zeroAudio p).wipeStreams p).part? p = some x → x.unitWaits = []) →
    (((s.takeDown p m).part? p).map (·.zeroing)) = some (some (.destroy m))) ∧
  (∀ (s : State) (m : Fin 64) (p : Nat), s.Takes m specPartReset → p = le (s.page m) 0x40 1 →
    (s.popped.part? p = none → ∃ t, exec (.partReset m) s = .next t ∧ Replied s.popped t m 3 0 []) ∧
    (∀ q : Partition, s.popped.part? p = some q →
      (q.settled = false → ∃ t, exec (.partReset m) s = .next t ∧ Replied s.popped t m 8 0 []) ∧
      (q.settled = true → ∃ u : State, exec (.partReset m) s = .next (u.background m) ∧
        ((u.part? p).map (·.resetting)) = some (some (m, false)) ∧ ((u.part? p).bind (·.step)) = none ∧ u.liveContexts p = [] ∧
        u.dev.partResets = satAdd s.dev.partResets 1 ∧ ∀ i : Nat, (u.stream i).part.val = p → (u.stream i).state = .closed))) ∧
  (∀ (s : State) (m : Fin 64) (host : Option Bytes) (im : ImageInfo) (pg dig : Bytes) (p off n total : Nat), s.Takes m specModelLoad →
    pg = s.page m → p = le pg 0x40 1 → off = par loadSizes pg 2 → n = le pg 0x50 4 → total = le pg 0x58 8 → dig = parB loadSizes pg 6 →
    (s.popped.live? p = none → ∃ t, exec (.modelLoad m host im) s = .next t ∧ Replied s.popped t m 3 0 []) ∧
    (∀ (q : Partition) (own : Option Bool) (got : Nat), s.popped.live? p = some q →
      own = [false, true].find? (fun b => (q.img b).state == .loading && (q.img b).digest == dig) →
      got = (own.map (fun b => (q.img b).received)).getD 0 →
      (q.settled = false → ∃ t, exec (.modelLoad m host im) s = .next t ∧ Replied s.popped t m 8 0 []) ∧
      (q.settled = true →
        (own.isSome = true → off < got → (off = 0 → bit (le pg 0x41 1) 0 = false) →
          ∃ t, exec (.modelLoad m host im) s = .next t ∧ Replied s.popped t m 0 0 (pack [b8 got, b1 1])) ∧
        (got ≤ off → off ≠ 0 → ∀ d : Option Nat, d = (match own with
            | none => some (loadOff 2)
            | some b => if off ≠ got then some (loadOff 2) else if total ≠ (q.img b).total then some (loadOff 4)
              else if total < got + n then some (loadOff 3) else none) → ∀ f : Nat, d = some f →
          ∃ t, exec (.modelLoad m host im) s = .next t ∧ Replied s.popped t m 2 f []) ∧
        (off = 0 → (own.isSome = true → got = 0 ∨ bit (le pg 0x41 1) 0 = true) →
          (s.popped.loadSlot p q dig (bit (le pg 0x41 1) 0) = none → ∃ t, exec (.modelLoad m host im) s = .next t ∧
            Replied s.popped t m (if q.img0.state = .loading ∨ q.img1.state = .loading then 8 else 3) 0 []) ∧
          ((s.popped.loadSlot p q dig (bit (le pg 0x41 1) 0)).isSome = true → total < n →
            ∃ t, exec (.modelLoad m host im) s = .next t ∧ Replied s.popped t m 2 (loadOff 3) [])) ∧
        (∀ b : Bool, (off ≠ 0 ∧ own = some b ∧ off = got ∧ total = (q.img b).total ∧ got + n ≤ total) ∨
            (off = 0 ∧ (own.isSome = true → got = 0 ∨ bit (le pg 0x41 1) 0 = true) ∧
              s.popped.loadSlot p q dig (bit (le pg 0x41 1) 0) = some b ∧ n ≤ total) →
          ((s.popped.hostReach m (BitVec.ofNat 64 (le pg 0x60 8)) = false ∨ ∀ v : Bytes, host = some v → v.length ≠ n) →
            ∃ t, exec (.modelLoad m host im) s = .next t ∧ Replied s.popped t m 12 0 []) ∧
          (∀ bs : Bytes, host = some bs → bs.length = n → s.popped.hostReach m (BitVec.ofNat 64 (le pg 0x60 8)) = true →
            (off = 0 → s.popped.beginLoad p b total dig = none →
              ∃ t, exec (.modelLoad m host im) s = .next t ∧ Replied s.popped t m 10 0 []) ∧
            (∀ (u w : State) (r : Partition) (o : ImageSlot),
              (if off = 0 then s.popped.beginLoad p b total dig else some s.popped) = some u → u.part? p = some r →
              (off = 0 → r.img b = ⟨.loading, 0, total, dig, [], none, (r.img b).area⟩) ∧
              (o = { r.img b with received := (r.img b).received + n, bytes := (r.img b).bytes ++ bs } →
                w = (u.writeRaw (o.area + off) bs).setPart p (r.setImg b o) →
                (o.received ≠ o.total → ∃ t, exec (.modelLoad m host im) s = .next t ∧
                  Replied w t m 0 0 (pack [b8 o.received, b1 1])) ∧
                (o.received = o.total → ∀ q' : Partition, q' = r.setImg b o →
                  (∀ st d : Nat, w.imageStops p q' o im = some (st, d) → ∃ t, exec (.modelLoad m host im) s = .next t ∧
                    Replied ((w.discardLoad p o st).emptySlot p b) t m st d []) ∧
                  (w.imageStops p q' o im = none → ∀ (x : State) (now : Bool),
                    x = w.setPart p (q'.setImg b { o with state := .loaded, info := some im }) →
                    now = (q'.image?.isNone && ((secDigest q'.sect).all (· == 0) || secDigest q'.sect == o.digest)) →
                    ∃ t, exec (.modelLoad m host im) s = .next t ∧
                      Replied (if now then x.goInService p b else x.repower p) t m 0 0
                        (pack [b8 o.total, b1 (if now then 3 else 2)])))))))))) ∧
  (∀ (s : State) (m : Fin 64) (p : Nat) (dig : Bytes), s.Takes m specModelUnload → p = le (s.page m) 0x40 1 →
    dig = parB [1, 64] (s.page m) 1 →
    (s.popped.live? p = none → ∃ t, exec (.modelUnload m) s = .next t ∧ Replied s.popped t m 3 0 []) ∧
    (∀ (q : Partition) (v : Option Bool), s.popped.live? p = some q →
      v = [false, true].find? (fun k => (q.img k).state != .empty && (q.img k).digest == dig) →
      (∀ st : Nat, (if q.settled = false then some 8 else match v with
          | none => some 7
          | some b => if (q.img b).state = .inService ∨ s.popped.namesImage p dig = true then some 3 else none) = some st →
        ∃ t, exec (.modelUnload m) s = .next t ∧ Replied s.popped t m st 0 []) ∧
      (∀ b : Bool, q.settled = true → v = some b → (q.img b).state ≠ .inService → s.popped.namesImage p dig = false →
        ∃ t, exec (.modelUnload m) s = .next t ∧
          Replied (((s.popped.discardLoad p (q.img b) stAborted).emptySlot p b).repower p) t m 0 0 [])))

/-- STREAM_OPEN past its checks takes a CLOSED entry with the next generation: state OPENING, counters 0, RELEASED_SEQ
0xFFFFFFFF; buffers, binding and slots are set, a peer is asked for a shadow with MIRROR, and it goes on until
STATE_BUFFERS_READY. A failed check gives its status and leaves no entry. STREAM_CLOSE and STREAM_DRAIN tell the
shards of a sequence and wait for the step's end, a drain stopping at the chunk boundary that the last received sample
needs; STREAM_MIGRATE waits for the step start; STREAM_ADOPT lifts the hold, and a shadow's bindings take effect;
STREAM_MIRROR asks the peer for a shadow and goes on until it holds the image, or with ENABLE 0 ends mirroring. -/
def Obligations.StreamCommandsAct : Prop :=
  (∀ (s u : State) (m : Fin 64) (peer : PeerReply) (p : Nat) (e : Option Nat), s.Takes m specStreamOpen → p = le (s.page m) 0x40 1 →
    s.popped.pickEntry = (e, u) →
    (s.popped.live? p = none → ∃ t, exec (.streamOpen m peer) s = .next t ∧ Replied s.popped t m 7 0 []) ∧
    (∀ q : Partition, s.popped.live? p = some q →
      (q.settled = false → ∃ t, exec (.streamOpen m peer) s = .next t ∧ Replied s.popped t m 8 0 []) ∧
      (q.settled = true → q.image? = none → ∃ t, exec (.streamOpen m peer) s = .next t ∧ Replied s.popped t m 3 0 []) ∧
      (q.settled = true → ∀ im : ImageInfo, q.image? = some im →
        (∀ st d : Nat, s.popped.openFault p q im (s.page m) = some (st, d) →
          ∃ t, exec (.streamOpen m peer) s = .next t ∧ Replied s.popped t m st d []) ∧
        (s.popped.openFault p q im (s.page m) = none →
          (e = none → ∃ t, exec (.streamOpen m peer) s = .next t ∧ Replied u t m 5 0 []) ∧
          (∀ (i : Nat) (x : Stream), e = some i → x = openEntry (u.stream i) i (s.page m) q im (some m) →
            (x.state = .opening ∧ x.gen = nextGen (u.stream i).gen ∧ x.handle = BitVec.ofNat 32 (x.gen.toNat * 2 ^ 14 + i) ∧
              x.releasedSeq = 0xFFFFFFFF ∧ x.nextOutSeq = 0 ∧ x.sampleCount = 0 ∧ x.chunks = [] ∧ (u.stream i).state = .closed) ∧
            ((u.setStream i x).placeStream p i im = none → ∃ t, exec (.streamOpen m peer) s = .next t ∧ Replied u t m 10 0 []) ∧
            (∀ v : State, (u.setStream i x).placeStream p i im = some v →
              (x.mirror = false → exec (.streamOpen m peer) s = .next (((v.writeOpening i im).bindSlots i).background m)) ∧
              (x.mirror = true → ∀ w : State, w = v.askShadow i q.mirrorPeer peer →
                (∀ h : W32, peer = .shadowReady h → v.mirrorFits i = true →
                  exec (.streamOpen m peer) s = .next ((((w.modStream i (fun y => { y with
                    mirrorSide := some (MirrorSide.mk (BitVec.ofNat 13 q.mirrorPeer) h false none) })).writeOpening i im).bindSlots i).background m)) ∧
                (∀ st : Nat, (peer = .noImage ∧ st = 7) ∨ (peer = .admissionDenied ∧ st = 6) ∨
                    (v.mirrorFits i = false ∧ (∃ h : W32, peer = .shadowReady h) ∧ st = 10) →
                  ∃ t, exec (.streamOpen m peer) s = .next t ∧ Replied ((({ (w.dropTable p i).release p (w.stream i).stateAddr.toNat with
                    archHeld := ((w.dropTable p i).release p (w.stream i).stateAddr.toNat).archHeld.filter
                      (fun h => h.1 != (w.stream i).archAddr) } : State).setStream i (u.stream i))) t m st 0 [])))))))) ∧
  (∀ (s : State) (m : Fin 64) (i : Nat) (x : Stream), i = le (s.page m) 0x40 4 % 2 ^ 14 → x = s.stream i →
    (s.Takes m specStreamClose →
      (x.state = .closed ∨ x.state = .orphaned → ∃ t, exec (.streamClose m) s = .next t ∧ Replied s.popped t m 3 0 []) ∧
      (x.state ≠ .closed → x.state ≠ .orphaned →
        (s.popped.streamBusy i = true → ∃ t, exec (.streamClose m) s = .next t ∧ Replied s.popped t m 8 0 []) ∧
        (s.popped.streamBusy i = false → exec (.streamClose m) s = .next ((((s.popped.setStream i { x with
          closeReq := true, closeMbx := x.closeMbx ++ [m] }).endShards i).background m).settle x.part.val)))) ∧
    (s.Takes m specStreamDrain →
      (x.state = .closed ∨ x.state = .orphaned → ∃ t, exec (.streamDrain m) s = .next t ∧ Replied s.popped t m 3 0 []) ∧
      (x.state ≠ .closed → x.state ≠ .orphaned →
        (s.popped.streamBusy i = true ∨ x.drainMbx ≠ [] → ∃ t, exec (.streamDrain m) s = .next t ∧ Replied s.popped t m 8 0 []) ∧
        (s.popped.streamBusy i = false → x.drainMbx = [] → ∀ stop : Option Nat,
          stop = (if x.state = .draining then x.intake.stopAt else if x.presentIn (s.nextChunkSamples x) = 0 then none
            else some (x.sampleCount.toNat + s.nextChunkSamples x)) →
          exec (.streamDrain m) s = .next ((((s.popped.setStream i { x with
            drain := true, state := .draining, drainMbx := [m], intake := { x.intake with stopAt := stop } }).endShards i).background
              m).settle x.part.val)))) ∧
    (s.Takes m specStreamMigrate →
      (x.state = .closed → ∃ t, exec (.streamMigrate m) s = .next t ∧ Replied s.popped t m 3 0 []) ∧
      (x.state ≠ .closed →
        (s.popped.streamBusy i = true ∨ x.drainMbx ≠ [] → ∃ t, exec (.streamMigrate m) s = .next t ∧ Replied s.popped t m 8 0 []) ∧
        (s.popped.streamBusy i = false → x.drainMbx = [] → exec (.streamMigrate m) s = .next (((s.popped.setStream i { x with
          migrate := some ((le (s.page m) 0x44 2, m) : Nat × Fin 64) }).background m).idleBoundary x.part.val))))) ∧
  (∀ (s : State) (i : Nat), OnlySent s (s.endShards i)) ∧
  Acts .streamAdopt specStreamAdopt (fun _ pg s => if (s.stream (le pg 0x40 4 % 2 ^ 14)).state ≠ .orphaned then some (3, 0)
      else if s.streamBusy (le pg 0x40 4 % 2 ^ 14) then some (8, 0)
      else if (s.stream (le pg 0x40 4 % 2 ^ 14)).shadow.isSome ∧ s.slotsFree (s.stream (le pg 0x40 4 % 2 ^ 14)).sink
        (some (le pg 0x40 4 % 2 ^ 14)) = false then some (7, 0) else none)
    (fun _ pg s => match (s.stream (le pg 0x40 4 % 2 ^ 14)).shadow with
      | none => s.modStream (le pg 0x40 4 % 2 ^ 14) (fun x => { x with orphanHold := false, resume := true })
      | some h => ((s.modStream (le pg 0x40 4 % 2 ^ 14) (fun x => { x with
          orphanHold := false, resume := true, faultCode := 0, mirror := false, shadow := some { h with adopted := true } })).writeRaw
          (bindingTable + 128 * (le pg 0x40 4 % 2 ^ 14)) (s.stream (le pg 0x40 4 % 2 ^ 14)).binding).bindSlots (le pg 0x40 4 % 2 ^ 14))
    noData ∧
  (∀ (s w : State) (m : Fin 64) (peer : PeerReply) (i : Nat) (x : Stream), s.Takes m specStreamMirror →
    i = le (s.page m) 0x40 4 % 2 ^ 14 → x = s.stream i → w = s.popped.askShadow i (le (s.page m) 0x44 2) peer →
    (∀ st : Nat, (if x.state = .closed then some 3 else if s.popped.streamBusy i = true ∨ x.drainMbx ≠ [] then some 8
        else if le (s.page m) 0x46 1 = 0 then none else if x.mirrorSide.isSome = true ∨ x.shadow.isSome = true then some 3
        else if s.popped.qpFor 16 (le (s.page m) 0x44 2) = none then some 7 else none) = some st →
      ∃ t, exec (.streamMirror m peer) s = .next t ∧ Replied s.popped t m st 0 []) ∧
    (x.state ≠ .closed → s.popped.streamBusy i = false → x.drainMbx = [] →
      (le (s.page m) 0x46 1 = 0 → ∃ t u, exec (.streamMirror m peer) s = .next t ∧
        OnlySent (s.popped.setStream i { x with mirror := false, mirrorSide := none }) u ∧ Replied u t m 0 0 []) ∧
      (le (s.page m) 0x46 1 = 1 → x.mirrorSide = none → x.shadow = none → (s.popped.qpFor 16 (le (s.page m) 0x44 2)).isSome = true →
        (∀ h : W32, peer = .shadowReady h → s.popped.mirrorFits i = true →
          exec (.streamMirror m peer) s = .next ((w.modStream i (fun y => { y with
            mirror := true, mirrorSide := some (MirrorSide.mk (BitVec.ofNat 13 (le (s.page m) 0x44 2)) h false (some m)) })).background m)) ∧
        (∀ st : Nat, (peer = .noImage ∧ st = 7) ∨ (peer = .admissionDenied ∧ st = 6) ∨
            (s.popped.mirrorFits i = false ∧ (∃ h : W32, peer = .shadowReady h) ∧ st = 10) →
          ∃ t, exec (.streamMirror m peer) s = .next t ∧ Replied w t m st 0 []))))

/-- AUD_GROUP_CONFIG writes the group's registers while none of its ports runs, else WRONG_STATE; AUD_PORT_START and
AUD_PORT_RESTART make the port start at the next boundary; AUD_PORT_STOP stops its two channels at crossings and goes
on; AUD_SLOT_MASK writes and commits a mask and goes on until it applies; AUD_GAIN_SET, AUD_MUTE_SET and
AUD_BYPASS_SET change a slot at its crossing while its port runs, and at once otherwise (log 31). A slot without a
port or a port outside the share is INVALID_TARGET, one on which a command waits BUSY, a port in the wrong state
WRONG_STATE. -/
def Obligations.AudioCommandsAct : Prop :=
  Acts .audGroupConfig specAudGroupConfig (fun _ pg s => if s.groupBusy (GroupConf.ofPage pg) (le pg 0x40 1) then some (3, 0)
      else if (s.touched (GroupConf.ofPage pg) (le pg 0x40 1)).any s.portBusy then some (8, 0)
      else if s.leftOutFault (GroupConf.ofPage pg) (le pg 0x40 1) then some (2, 0x42) else none)
    (fun _ pg s => s.configureGroup (GroupConf.ofPage pg) (le pg 0x40 1)) noData ∧
  Acts .audPortStart specAudPortStart (fun m pg s => if s.audShare m (le pg 0x40 1) = false then some (7, 0)
      else if s.portBusy (le pg 0x40 1) then some (8, 0)
      else if (s.aport (le pg 0x40 1)).run || (s.aport (le pg 0x40 1)).startPend then some (3, 0)
      else if s.groupRuns (s.aport (le pg 0x40 1)).groupNo = false ∧ s.applyAudioSection (s.aport (le pg 0x40 1)).groupNo = none
        then some (3, 0) else none)
    (fun _ pg s => (if s.groupRuns (s.aport (le pg 0x40 1)).groupNo then s
        else (s.applyAudioSection (s.aport (le pg 0x40 1)).groupNo).getD s).modAport (le pg 0x40 1)
      (fun p => { p with startPend := true, swap := false })) noData ∧
  Starts .audPortStop specAudPortStop (fun m pg s => if s.audShare m (le pg 0x40 1) = false then some (7, 0)
      else if s.portBusy (le pg 0x40 1) then some (8, 0) else if (s.aport (le pg 0x40 1)).run then none else some (3, 0))
    (fun m pg s => ((s.aport (le pg 0x40 1)).slotPair.foldl (fun u k => u.modSlot (s.aport (le pg 0x40 1)).groupNo k (fun y =>
        y.request (s.group (s.aport (le pg 0x40 1)).groupNo).rampFrames .stop none (fun z => { z with on := false }))) s).setAport
        (le pg 0x40 1) { s.aport (le pg 0x40 1) with stopPend := some (some m) }) ∧
  Acts .audPortRestart specAudPortRestart (fun m pg s => if s.audShare m (le pg 0x40 1) = false then some (7, 0)
      else if s.portBusy (le pg 0x40 1) then some (8, 0) else if (s.aport (le pg 0x40 1)).run then none else some (3, 0))
    (fun _ pg s => ((s.aport (le pg 0x40 1)).slotPair.foldl (fun u k => u.modSlot (s.aport (le pg 0x40 1)).groupNo k (fun y =>
        { y with on := false, change := none })) s).setAport (le pg 0x40 1)
        { s.aport (le pg 0x40 1) with run := false, startPend := true, swap := false, fresh := true }) noData ∧
  Starts .audSlotMask specAudSlotMask (fun m pg s => if s.audShareGroup m (le pg 0x40 1) = false then some (7, 0)
      else if (List.range 16).any (s.slotBusy (le pg 0x40 1)) then some (8, 0) else none)
    (fun m pg s => s.modGroup (le pg 0x40 1) (fun x => { x with
      shadow := BitVec.ofNat 16 (le pg 0x42 2), pending := some (BitVec.ofNat 16 (le pg 0x42 2)), maskMbx := x.maskMbx ++ [m] })) ∧
  (∀ (s : State) (m : Fin 64) (i : Instr) (pg : Bytes) (g k : Nat) (kind : ChangeKind) (f : ASlot → ASlot), pg = s.page m →
    g = le pg 0x40 1 → k = le pg 0x41 1 →
    ((i = .audGainSet m ∧ s.Takes m specAudGainSet ∧ kind = .gain ∧ f = (fun y => { y with gain := signedOf 16 (le pg 0x42 2) })) ∨
      (i = .audMuteSet m ∧ s.Takes m specAudMuteSet ∧ kind = (if le pg 0x42 1 = 1 then .muteOn else .muteOff) ∧
        f = (fun y => { y with mute := le pg 0x42 1 == 1 }))) →
    (∀ st : Nat, (match s.popped.slotPort g k with
        | none => some 7
        | some n => if s.popped.audShare m n = false then some 7 else if s.popped.slotBusy g k then some 8 else none) = some st →
      ∃ t, exec i s = .next t ∧ Replied s.popped t m st 0 []) ∧
    (∀ n : Nat, s.popped.slotPort g k = some n → s.popped.audShare m n = true → s.popped.slotBusy g k = false →
      (s.popped.slotRuns g k = false → ∃ t, exec i s = .next t ∧
        Replied (s.popped.modSlot g k (fun x => { f x with change := none })) t m 0 0 []) ∧
      (s.popped.slotRuns g k = true →
        exec i s = .next ((s.popped.modSlot g k (fun x => x.request (s.group g).rampFrames kind (some m) f)).background m)))) ∧
  (∀ (s : State) (m : Fin 64) (pg : Bytes) (g k : Nat) (y : ASlot) (p : Bool) (f : ASlot → ASlot), s.Takes m specAudBypassSet →
    pg = s.page m → g = le pg 0x40 1 → k = le pg 0x41 1 → y = (s.group g).slot k →
    p = (if le pg 0x42 1 = 0 then false else if le pg 0x42 1 = 2 then true else if y.mode = 1 then y.prog else true) →
    f = (fun x => { x with mode := le pg 0x42 1, holdMs := le pg 0x44 2, prog := p, good := 0 }) →
    (∀ st : Nat, (match s.popped.slotPort g k with
        | none => some 7
        | some n => if s.popped.audShare m n = false then some 7 else if s.popped.slotBusy g k then some 8
          else if (s.aport n).isOutput then none else some 7) = some st →
      ∃ t, exec (.audBypassSet m) s = .next t ∧ Replied s.popped t m st 0 []) ∧
    (∀ n : Nat, s.popped.slotPort g k = some n → s.popped.audShare m n = true → s.popped.slotBusy g k = false →
      (s.aport n).isOutput = true →
      (p = y.prog → ∃ t, exec (.audBypassSet m) s = .next t ∧ Replied (s.popped.modSlot g k f) t m 0 0 []) ∧
      (p ≠ y.prog → s.popped.slotRuns g k = false → ∃ t, exec (.audBypassSet m) s = .next t ∧
        Replied (s.popped.modSlot g k (fun x => { f x with change := none })) t m 0 0 []) ∧
      (p ≠ y.prog → s.popped.slotRuns g k = true → exec (.audBypassSet m) s = .next ((s.popped.modSlot g k (fun x =>
        x.request (s.group g).rampFrames (if p then .engage else .release) (some m) f)).background m))))

/-- NET_PORT_CONFIG writes the port's CTL and takes its links down until they come up; NET_ADDR_SET sets a MAC's
addresses; NET_QP_CREATE makes a queue pair in the state created and answers its number and keys (control's intake
key, which no rule gives, is open); INVALID_TARGET for a MAC or mailbox that is not the owner's, NO_RESOURCE beyond
the quota; NET_QP_CONNECT connects one that is not connected to a peer not yet connected, with the parameters given
and the rate at line speed, and rings that waited are written; NET_QP_DESTROY removes one; NET_CC_CONFIG and
NET_MGMT_CONFIG store their parameters. An unknown queue pair is INVALID_TARGET. -/
def Obligations.NetworkCommandsAct : Prop :=
  Acts .netPortConfig specNetPortConfig (fun _ _ _ => none) (fun _ pg s =>
    (List.range 4).foldl (fun u k => (u.macDown (4 * le pg 0x40 1 + k) 0).modMac (4 * le pg 0x40 1 + k) (fun x => { x with degraded := 0 }))
      (s.modPort (le pg 0x40 1) (fun x => { x with ctl := BitVec.ofNat 64 (le pg 0x48 8) }))) noData ∧
  Acts .netAddrSet specNetAddrSet (fun _ _ _ => none) (fun _ pg s => s.modMac (le pg 0x40 1) (fun x => { x with
    vlan := BitVec.ofNat 16 (le pg 0x44 2), prefix4 := BitVec.ofNat 8 (le pg 0x41 1), prefix6 := BitVec.ofNat 8 (le pg 0x42 1),
    ip4 := BitVec.ofNat 32 (le pg 0x48 4), gw4 := BitVec.ofNat 32 (le pg 0x4C 4),
    ip6 := BitVec.ofNat 128 (le pg 0x50 16), gw6 := BitVec.ofNat 128 (le pg 0x60 16) })) noData ∧
  (∀ (s v : State) (m : Fin 64) (o : Nat) (n : Option Nat) (part : Option Partition), s.Takes m specNetQpCreate → o = le (s.page m) 0x40 1 →
    part = s.part? o → s.popped.newQpn = (n, v) →
    (∀ st : Nat, (if (o ≠ 16 ∧ (part.map (fun q => q.macs.getLsbD (le (s.page m) 0x41 1))).getD false = false) ∨
          (List.range 64).any (fun k => (BitVec.ofNat 64 (le (s.page m) 0x48 8)).getLsbD k && (s.mail k).owner.toNat != o) = true then some 7
        else if part.any (fun q => !q.settled) = true then some 8
        else if (part.map (·.qpQuota)).getD 65536 ≤ (s.qps.filter (fun x => x.2.owner == o)).length then some 10 else none) = some st →
      ∃ t, exec (.netQpCreate m) s = .next t ∧ Replied s.popped t m st 0 []) ∧
    ((o ≠ 16 → part.any (fun q => q.macs.getLsbD (le (s.page m) 0x41 1)) = true) →
      (∀ k : Nat, k < 64 → (BitVec.ofNat 64 (le (s.page m) 0x48 8)).getLsbD k = true → (s.mail k).owner.toNat = o) →
      (∀ q, part = some q → q.settled = true) → (s.qps.filter (fun x => x.2.owner == o)).length < (part.map (·.qpQuota)).getD 65536 →
      (n = none → ∃ t, exec (.netQpCreate m) s = .next t ∧ Replied v t m 10 0 []) ∧
      (∀ k : Nat, n = some k → ∃ (t u : State) (x : Qp), exec (.netQpCreate m) s = .next t ∧ u.qp? k = some x ∧
        x.state = .created ∧ x.owner = o ∧ x.mac.val = le (s.page m) 0x41 1 ∧ x.mailboxes = BitVec.ofNat 64 (le (s.page m) 0x48 8) ∧
        (∀ j : Nat, j ≠ k → u.qp? j = s.qp? j) ∧
        u = { s.popped with qps := u.qps, deadQps := s.deadQps.filter (fun d => d.toNat != k), freeCtr := u.freeCtr } ∧
        (∀ q : Partition, part = some q →
          Replied u t m 0 0 (pack [b4 k, b4 (rKey 1 o q.epoch).toNat, b4 (rKey 2 o s.mbxEpoch).toNat, b4 (rKey 3 o q.epoch).toNat])) ∧
        (part = none → ∃ f : Nat,
          Replied u t m 0 0 (pack [b4 k, b4 (rKey 4 0 s.mirrorEpoch).toNat, b4 (rKey 2 o s.mbxEpoch).toNat, b4 f]))))) ∧
  (∀ (s : State) (m : Fin 64) (n : Nat), s.Takes m specNetQpConnect → n = le (s.page m) 0x40 4 →
    (∀ st : Nat, (match s.qp? n with
        | none => some 7
        | some q => if le (s.page m) 0x44 2 = s.dev.deviceNo.toNat ∨ (s.qpFor q.owner (le (s.page m) 0x44 2)).isSome = true then some 7
          else if q.state = .connected then some 3 else if (s.part? q.owner).any (fun x => !x.settled) = true then some 8
          else none) = some st →
      ∃ t, exec (.netQpConnect m) s = .next t ∧ Replied s.popped t m st 0 []) ∧
    (∀ q : Qp, s.qp? n = some q → le (s.page m) 0x44 2 ≠ s.dev.deviceNo.toNat → s.qpFor q.owner (le (s.page m) 0x44 2) = none →
      q.state ≠ .connected → (∀ p, s.part? q.owner = some p → p.settled = true) →
      ∃ (t u v : State) (x : Qp), exec (.netQpConnect m) s = .next t ∧ x = { q with
          state := .connected, peer := BitVec.ofNat 13 (le (s.page m) 0x44 2), host := le (s.page m) 0x46 1 == 1,
          mtu := le (s.page m) 0x47 1, tmo := le (s.page m) 0x48 1, retry := le (s.page m) 0x49 1, retriesLeft := le (s.page m) 0x49 1,
          remoteQpn := BitVec.ofNat 24 (le (s.page m) 0x4C 4), sqNext := BitVec.ofNat 24 (le (s.page m) 0x50 4),
          acked := BitVec.ofNat 24 (le (s.page m) 0x50 4) - 1, rqNext := BitVec.ofNat 24 (le (s.page m) 0x54 4),
          remoteKey := BitVec.ofNat 32 (le (s.page m) 0x58 4), vaBase := BitVec.ofNat 64 (le (s.page m) 0x60 8),
          remoteIp := BitVec.ofNat 128 (le (s.page m) 0x68 16), out := [], rc := rateWord (s.lineMbps q.mac.val),
          rt := rateWord (s.lineMbps q.mac.val), alpha := 0x3F800000, rounds := 0, lastCnpSent := none } ∧
        v = (s.popped.setQp n x).needHop x.mac.val x.remoteIp ∧ u = v.drainRings n ∧ Replied u t m 0 0 [])) ∧
  Acts .netQpDestroy specNetQpDestroy (fun _ pg s => if (s.qp? (le pg 0x40 4)).isSome then none else some (7, 0))
    (fun _ pg s => s.destroyQp (le pg 0x40 4) false) noData ∧
  (∀ (s : State) (n : Nat) (k : Bool) (q : Qp), s.qp? n = some q → q.out = [] → q.owner ≠ 16 → s.dev.deviceNoNext = none →
    (s.destroyQp n k).qp? n = none ∧ ∀ j : Nat, j ≠ n → (s.destroyQp n k).qp? j = s.qp? j) ∧
  Acts .netCcConfig specNetCcConfig (fun _ _ _ => none) (fun _ pg s => { s with
    cc := tabPut s.cc (le pg 0x40 1) (CcParams.mk (le pg 0x41 1) (le pg 0x42 1) (le pg 0x44 2) (le pg 0x46 2) (le pg 0x48 2)
      (le pg 0x4A 2) (le pg 0x4C 2) (BitVec.ofNat 32 (le pg 0x50 4)) (BitVec.ofNat 32 (le pg 0x54 4))) }) noData ∧
  Acts .netMgmtConfig specNetMgmtConfig (fun _ _ _ => none) (fun _ pg s => { s with mgmt := { s.mgmt with
    prefix4 := BitVec.ofNat 8 (le pg 0x40 1), prefix6 := BitVec.ofNat 8 (le pg 0x41 1), udpPort := BitVec.ofNat 16 (le pg 0x42 2),
    ip4 := BitVec.ofNat 32 (le pg 0x44 4), ip6 := BitVec.ofNat 128 (le pg 0x48 16),
    allow := some ((List.range 16).filterMap (fun k => if (slice pg (0x58 + 24 * k) 24).all (· == 0) then none
      else some (BitVec.ofNat 128 (le pg (0x58 + 24 * k) 16), le pg (0x58 + 24 * k + 16) 1))) } }) noData

/-- MEM_TIER_MOVE queues the pages its table holds for the next step start and skips the others; TEST_START makes a
test of the units named and goes on, over the whole device only in MAINTENANCE, BUSY where a unit is under test or
cannot be tested; TEST_RESULT answers counts and digest of a finished test, BUSY before; SPARE_QUERY and WEAR_READ
write records to DST and answer their length, REMOTE_ERROR where the transfer fails; UNIT_RETIRE replaces an unowned
tile or core at once and an owned one at its partition's boundary, moves a lane to the spare lane, takes a supervisor
out of service, its role going on first; other units are INVALID_TARGET, a unit without a spare NO_RESOURCE. -/
def Obligations.ServiceCommandsAct : Prop :=
  (∀ (s : State) (m : Fin 64) (i : Nat) (x : Stream), s.Takes m specMemTierMove → i = le (s.page m) 0x40 4 % 2 ^ 14 → x = s.stream i →
    (x.state = .opening ∨ x.pageTable = 0 → ∃ t, exec (.memTierMove m) s = .next t ∧ Replied s.popped t m 3 0 []) ∧
    (x.state ≠ .opening → x.pageTable ≠ 0 →
      (s.popped.streamBusy i = true ∨ x.drainMbx ≠ [] → ∃ t, exec (.memTierMove m) s = .next t ∧ Replied s.popped t m 8 0 []) ∧
      (s.popped.streamBusy i = false → x.drainMbx = [] → ∃ (c : TierCmd) (w : State),
        w = (s.popped.modPart x.part.val (fun q => { q with tierCmds := q.tierCmds ++ [c] })).background m ∧
        exec (.memTierMove m) s = .next (if c.todo = [] then w.answerTier x.part.val else w) ∧ c.mbx = m ∧ c.stream.val = i ∧
        c.moved = 0 ∧ c.toLp = (le (s.page m) 0x46 1 == 1) ∧
        c.todo = (tierPages (s.page m)).filter (fun v => v.1 < s.ptLayers x && v.2 < s.ptMaxPages x) ∧
        c.skipped + c.todo.length = (tierPages (s.page m)).length))) ∧
  (∀ (s : State) (m : Fin 64) (l : List Nat), s.Takes m specTestStart →
    l = s.popped.testUnits (le (s.page m) 0x40 1) (le (s.page m) 0x41 1) (le (s.page m) 0x48 8) →
    (le (s.page m) 0x40 1 = 2 → s.dev.mode ≠ .maintenance →
      ∃ t, exec (.testStart m) s = .next t ∧ Replied s.popped t m 3 0 []) ∧
    ((le (s.page m) 0x40 1 = 2 → s.dev.mode = .maintenance) →
      (l.any (fun u => s.underTest u || s.popped.testWay u == .neither) = true →
        ∃ t, exec (.testStart m) s = .next t ∧ Replied s.popped t m 8 0 []) ∧
      (l.any (fun u => s.underTest u || s.popped.testWay u == .neither) = false → ∃ (u w : State) (v : SelfTest) (ways : List (Nat × Nat)),
        ways = l.filterMap (fun k => match s.popped.testWay k with
          | .roll p => some (p, k)
          | _ => none) ∧
        v ∈ u.tests ∧ v.mbx = some m ∧ v.id = BitVec.ofNat 32 s.nextTest ∧ v.kind = le (s.page m) 0x41 1 ∧
        v.todo = l.map (BitVec.ofNat 64) ∧ v.records = [] ∧ v.rolled = [] ∧ u = { s.popped with tests := u.tests, nextTest := s.nextTest + 1 } ∧
        w = ways.foldl (fun r k => r.modPart k.1 (fun q => { q with
          unitWaits := q.unitWaits ++ [UnitWait.mk (BitVec.ofNat 64 k.2) none (some v.id.toNat)] })) (u.background m) ∧
        exec (.testStart m) s = .next (((List.range 16).foldl (fun r p => if ways.any (fun k => k.1 == p) then r.idleBoundary p else r)
          w).rollSups) ∧
        (s.dev.mode = .maintenance → exec (.testStart m) s = .next (u.background m))))) ∧
  (∀ (s : State) (m : Fin 64) (ok : Bool), s.Takes m specTestResult →
    (s.tests.find? (fun x => x.id.toNat == le (s.page m) 0x40 4 && decide (s.nextTest ≤ x.id.toNat + 16)) = none →
      ∃ t, exec (.testResult m ok) s = .next t ∧ Replied s.popped t m 2 0x40 []) ∧
    (∀ v : SelfTest, s.tests.find? (fun x => x.id.toNat == le (s.page m) 0x40 4 && decide (s.nextTest ≤ x.id.toNat + 16)) = some v →
      (v.mbx.isSome = true → ∃ t, exec (.testResult m ok) s = .next t ∧ Replied s.popped t m 8 0 []) ∧
      (v.mbx = none → ∀ (l : List Bytes) (out : Bytes), l = sortByKey (fun r => le r 0 8) v.records →
        out = pack [b4 l.length, b4 (l.filter (fun r => le r 13 1 == 1)).length, v.digest] →
        (le (s.page m) 0x48 8 = 0 → ∃ t, exec (.testResult m ok) s = .next t ∧ Replied s.popped t m 0 0 out) ∧
        (le (s.page m) 0x48 8 ≠ 0 →
          (ok = true → s.popped.hostReach m (BitVec.ofNat 64 (le (s.page m) 0x48 8)) = true → ∃ t,
            exec (.testResult m ok) s = .next t ∧ Replied (s.popped.sentTo m (le (s.page m) 0x48 8) (l.flatMap id)) t m 0 0 out) ∧
          ((ok = false ∨ s.popped.hostReach m (BitVec.ofNat 64 (le (s.page m) 0x48 8)) = false) →
            ∃ t, exec (.testResult m ok) s = .next t ∧ Replied s.popped t m 12 0 []))))) ∧
  (∀ ok : Bool,
    Acts (fun m => .spareQuery m ok) specSpareQuery
      (fun m pg s => if ok && s.hostReach m (BitVec.ofNat 64 (le pg 0x40 8)) then none else some (12, 0))
      (fun m pg s => s.sentTo m (le pg 0x40 8) (s.spareRecords.flatMap id)) (fun _ _ s => b4 (s.spareRecords.flatMap id).length) ∧
    Acts (fun m => .wearRead m ok) specWearRead
      (fun m pg s => if ok && s.hostReach m (BitVec.ofNat 64 (le pg 0x48 8)) then none else some (12, 0))
      (fun m pg s => s.sentTo m (le pg 0x48 8) (((s.flash.wear.filter (fun r => le pg 0x40 4 ≤ le r 24 4)).take 2048).flatMap id))
      (fun _ pg s => b4 (((s.flash.wear.filter (fun r => le pg 0x40 4 ≤ le r 24 4)).take 2048).flatMap id).length)) ∧
  (∀ (s : State) (m : Fin 64) (u core : Nat), s.Takes m specUnitRetire → u = le (s.page m) 0x40 8 → core = bits u 32 16 →
    ((bits u 56 8 = 1 ∨ bits u 56 8 = 2) →
      (∀ st : Nat, (if s.popped.retireWaits u then some 8 else if s.spares.lost.contains core then some 3
          else if s.popped.freePositions (core / 32) = [] ∧ ¬ (bits u 56 8 = 1 ∧ s.popped.spareTileFree (s.popped.physCore core) = true)
            then some 10
          else if s.coreOwner core = none ∧ s.popped.retireNow ⟨BitVec.ofNat 64 u, some m, none⟩ = none then some 10 else none) = some st →
        ∃ t, exec (.unitRetire m) s = .next t ∧ Replied s.popped t m st 0 []) ∧
      (s.popped.retireWaits u = false → s.spares.lost.contains core = false →
        (s.popped.freePositions (core / 32) ≠ [] ∨ (bits u 56 8 = 1 ∧ s.popped.spareTileFree (s.popped.physCore core) = true)) →
        (∀ v : State, s.coreOwner core = none → s.popped.retireNow ⟨BitVec.ofNat 64 u, some m, none⟩ = some v →
          ∃ t : State, exec (.unitRetire m) s = .next t ∧ Replied v t m 0 0 []) ∧
        (∀ p : Nat, s.coreOwner core = some p → exec (.unitRetire m) s = .next (((s.popped.modPart p (fun q => { q with
          unitWaits := q.unitWaits ++ [UnitWait.mk (BitVec.ofNat 64 u) (some m) none] })).background m).idleBoundary p)))) ∧
    (bits u 56 8 = 9 → ∀ (x : Port) (lane : Nat), x = s.port core → lane = bits u 16 16 →
      (lane < 4 → x.spareOn = true → x.spareState = 0 → exec (.unitRetire m) s = .next (((s.popped.setPort core { x with
        spareState := 1, failing := some (Fin.ofNat 5 lane, s.now), laneMap := BitVec.ofNat 3 lane, retire := some m }).emit
          (.laneMap (Fin.ofNat 4 core) (BitVec.ofNat 3 lane))).background m)) ∧
      ((4 ≤ lane ∨ x.spareOn = false ∨ x.spareState ≠ 0) →
        ∃ t, exec (.unitRetire m) s = .next t ∧ Replied s.popped t m 10 0 [])) ∧
    (bits u 56 8 = 0xA → ∀ (y : Sups) (spare : Bool) (off : State → State), y = s.sup →
      spare = (List.range 4).any (fun k => y.working.getLsbD k && k != y.primary.val && k != core &&
        !(y.standbyValid && k == y.standby.val)) →
      off = (fun t => ({ t with sup := { t.sup with working := t.sup.working &&& ~~~ BitVec.ofNat 4 (2 ^ core) } } : State).wear
        (supUnit core) 0 2 0 0xFFFF 0) →
      (y.working.getLsbD core = false → ∃ t, exec (.unitRetire m) s = .next t ∧ Replied s.popped t m 3 0 []) ∧
      (y.working.getLsbD core = true →
        (y.retireMbx.isSome = true → ∃ t, exec (.unitRetire m) s = .next t ∧ Replied s.popped t m 8 0 []) ∧
        (y.retireMbx = none → ∀ w : State → State,
          w = (fun t => ({ t with sup := { t.sup with retireMbx := some m } } : State).background m) →
          (core = y.primary.val → y.standbyValid = true → spare = true →
            exec (.unitRetire m) s = .next (w (off (s.popped.takeover 2 true)))) ∧
          (core ≠ y.primary.val → y.standbyValid = true → core = y.standby.val → spare = true →
            exec (.unitRetire m) s = .next (w (off { s.popped with sup := { y with standbyValid := false } }).loadSpare)) ∧
          ((core = y.primary.val ∧ y.standbyValid = false) ∨
              ((core = y.primary.val ∨ (y.standbyValid = true ∧ core = y.standby.val)) ∧ spare = false) →
            ∃ t, exec (.unitRetire m) s = .next t ∧ Replied s.popped t m 10 0 []) ∧
          (core ≠ y.primary.val → ¬ (y.standbyValid = true ∧ core = y.standby.val) → ∃ t, exec (.unitRetire m) s = .next t ∧
            Replied (if y.loading.map (·.val) = some core then (off s.popped).loadSpare else off s.popped) t m 0 0 [])))) ∧
    (¬ bits u 56 8 ∈ [1, 2, 9, 0xA] → ∃ t, exec (.unitRetire m) s = .next t ∧ Replied s.popped t m 7 0 []))

/-- SEC_IDENTITY answers the public key and, with DST, writes both certificates; SEC_QUOTE writes quote and
certificates, 2,000 bytes, and numbers the quote; SEC_FW_UPDATE starts writing a segment to the slot that does not
run, a TRIAL mark on it cleared first; SEC_FW_ACTIVATE marks that slot TRIAL if it is VERIFIED, else INVALID_TARGET,
and on the running slot clears a TRIAL mark; SEC_COUNTER_ADVANCE empties VERIFIED slots below VALUE first, their TRIAL
mark cleared; FUSE_BLOW_DONE adds one to the counter and answers at VALUE; a VALUE above the running image's
SEC_VERSION is refused with status 17, a counter command in SERVING with WRONG_STATE. -/
def Obligations.SecurityCommandsAct : Prop :=
  (∀ ok : Bool,
    Acts (fun m => .secIdentity m ok) specSecIdentity (fun m pg s => if le pg 0x40 8 = 0 ∨
        (ok = true ∧ s.hostReach m (BitVec.ofNat 64 (le pg 0x40 8)) = true) then none else some (12, 0))
      (fun m pg s => if le pg 0x40 8 = 0 then s else s.sentTo m (le pg 0x40 8) (s.deviceCertificate ++ s.sec.aliasCert))
      (fun _ pg s => pack [s.sec.dikPub, b4 (if le pg 0x40 8 = 0 then 0 else 576)]) ∧
    Acts (fun m => .secQuote m ok) specSecQuote
      (fun m pg s => if ok && s.hostReach m (BitVec.ofNat 64 (le pg 0x60 8)) then none else some (12, 0))
      (fun m pg s => { s.sentTo m (le pg 0x60 8) (s.quote (slice pg 0x40 32) (s.sec.quoteSeq.toNat + 1) ++ s.sec.aliasCert ++
        s.deviceCertificate) with sec := { s.sec with quoteSeq := BitVec.ofNat 64 (s.sec.quoteSeq.toNat + 1) } }) (fun _ _ _ => b4 2000)) ∧
  (∀ host : Option Bytes, Starts (fun m => .secFwUpdate m host) specSecFwUpdate (fun m pg s => if s.fwBusy then some (8, 0)
      else match s.fwSegFault (le pg 0x40 2) (le pg 0x44 4) (le pg 0x48 4) (le pg 0x4C 4) with
      | some d => some (2, d)
      | none => if s.hostReach m (BitVec.ofNat 64 (le pg 0x50 8)) = true ∧ host.any (fun b => b.length == le pg 0x48 4) = true
        then none else some (12, 0))
    (fun m pg s => (((fun t : State => if le pg 0x44 4 = 0 ∧ s.flash.bootAhead.2 = some s.idleSlot then t.flashOp
      (.boot (some m) s.flash.bootAhead.1 none) else t) (if le pg 0x44 4 = 0 then { s with
        flash := s.flash.setFw s.idleSlot ⟨.receiving, [], le pg 0x4C 4⟩ } else s)).flashOp (.fwSegment m s.idleSlot (le pg 0x44 4) (host.getD []) (le pg 0x4C 4) (bit (le pg 0x40 2) 0))))) ∧
  (∀ (s : State) (m : Fin 64) (b : Bool), s.Takes m specSecFwActivate → b = (le (s.page m) 0x40 1 == 1) →
    (s.popped.fwBusy = true → ∃ t, exec (.secFwActivate m) s = .next t ∧ Replied s.popped t m 8 0 []) ∧
    (s.popped.fwBusy = false →
      (b = s.idleSlot → (s.flash.fw b).state = .verified →
        exec (.secFwActivate m) s = .next ((s.popped.flashOp (.boot (some m) s.flash.bootAhead.1 (some b))).background m)) ∧
      (b = s.idleSlot → (s.flash.fw b).state ≠ .verified →
        ∃ t, exec (.secFwActivate m) s = .next t ∧ Replied s.popped t m 7 0 []) ∧
      (b ≠ s.idleSlot → s.flash.bootAhead.2.isSome = true →
        exec (.secFwActivate m) s = .next ((s.popped.flashOp (.boot (some m) s.flash.bootAhead.1 none)).background m)) ∧
      (b ≠ s.idleSlot → s.flash.bootAhead.2 = none → ∃ t, exec (.secFwActivate m) s = .next t ∧ Replied s.popped t m 0 0 []))) ∧
  (∀ (s : State) (m : Fin 64) (v : Nat), s.Takes m specSecCounterAdvance → v = le (s.page m) 0x40 1 →
    (∀ st : Nat, (if s.dev.mode = .serving then some 3
        else if s.popped.fwBusy = true ∨ (s.flash.fw false).state = .receiving ∨ (s.flash.fw true).state = .receiving then some 8
        else if s.sec.secVersion < v then some 17 else none) = some st →
      ∃ t, exec (.secCounterAdvance m) s = .next t ∧ Replied s.popped t m st 0 []) ∧
    (s.dev.mode ≠ .serving → s.popped.fwBusy = false → (∀ b : Bool, (s.flash.fw b).state ≠ .receiving) → v ≤ s.sec.secVersion →
      ∃ u : State, exec (.secCounterAdvance m) s = .next (u.background m) ∧ u.sec = { s.sec with blowTo := some (v, m) } ∧
        u = { s.popped with sec := u.sec, flash := u.flash } ∧ u.flash = { s.flash with ops := u.flash.ops } ∧
        ∀ b : Bool, (s.flash.fw b).state = .verified → fwSec (s.flash.fw b).bytes < v →
          .fwEmpty b ∈ u.flash.ops ∧ u.flash.bootAhead.2 ≠ some b)) ∧
  (∀ s : State, (s.sec.blowTo = none ∨ s.fusesReady = false → exec .fuseBlowDone s = .next s) ∧
    ∀ (v : Nat) (m : Fin 64), s.sec.blowTo = some (v, m) → s.fusesReady = true →
      (s.sec.counter + 1 < v → exec .fuseBlowDone s = .next { s with sec := { s.sec with counter := s.sec.counter + 1 } }) ∧
      (v ≤ s.sec.counter + 1 → ∃ t : State, exec .fuseBlowDone s = .next t ∧
        Replied { s with sec := { s.sec with counter := s.sec.counter + 1, blowTo := none } } t m 0 0 []))

/-- TELEM_READ answers the number of bytes written (which counters they are no rule lists: log 25), REMOTE_ERROR where
the transfer fails. TELEM_SEEING_CFG starts a report with RECORD_NO 0 and counts of 0 at the partition's step; of a
partition that does not exist it is WRONG_STATE (log 24), for a ring on the device itself INVALID_TARGET. -/
def Obligations.TelemetryCommandsAct : Prop :=
  (∀ ok : Bool, Acts (fun m => .telemRead m ok) specTelemRead
    (fun m pg s => if ok && s.hostReach m (BitVec.ofNat 64 (le pg 0x40 8)) then none else some (12, 0))
    (fun m pg s => s.sentTo m (le pg 0x40 8) s.telemetry) (fun _ _ s => b4 s.telemetry.length)) ∧
  Acts .telemSeeingCfg specTelemSeeingCfg (fun _ pg s => if s.live? (le pg 0x40 1) = none then some (3, 0)
      else if le pg 0x48 8 / 2 ^ 51 = s.dev.deviceNo.toNat then some (7, 0) else none)
    (fun _ pg s => s.modPart (le pg 0x40 1) (fun q => { q with
      seeing := some (Seeing.start (BitVec.ofNat 64 (le pg 0x48 8)) (le pg 0x44 4) (le pg 0x42 2) (s.beginTally q q.stepNo)) })) noData ∧
  (∀ (s : State) (q : Partition) (n : BitVec 48), s.beginTally q n = SeeingTally.begin n
    (q.cores.any (fun c => (s.core c).floorHeld)) (q.cores.any (fun c => (s.core c).thermHalf.isSome)))

/-- A request to no queue pair or to one out of service is dropped, or refused where a reset or PART_DESTROY took it.
In service: an empty SEND rings the lowest bound mailbox and one of 8 bytes the one it names, RNR with LOST where it
is busy; 64 to 4,096 bytes go to the page of the first free bound mailbox; other lengths are invalid. A WRITE, READ or
atomic under the owner's current key in its own extents, or a WRITE to a bound mailbox or a shadow's areas, takes
effect; any other is refused with the error state; data that fail their check are not sent. A chunk record at the
intake with the next number becomes the stream's next chunk; one below it is discarded, one above raises an event, any
that breaks R399 is discarded and counted. A CE mark is answered by one CNP per interval. -/
def Obligations.RdmaRequestsAreAnswered : Prop :=
  (∀ (s : State) (n : BitVec 24) (va : W64) (key imm : BitVec 32) (d : Bytes) (k : Nat) (x y : W64) (ce : Bool) (i : Instr),
    (i = .inboundSend n d ce ∨ i = .inboundRdmaWrite n va key d ce ∨ i = .inboundWriteImmediate n va key imm d ce ∨
      i = .inboundRdmaRead n va key k ce ∨ i = .inboundFetchAdd n va key x ce ∨ i = .inboundCompareSwap n va key x y ce) →
    (s.qp? n.toNat = none → exec i s = .next (if n ∈ s.deadQps then s.emit (.nak n .accessError) else s)) ∧
    (∀ q : Qp, s.qp? n.toNat = some q → (q.refuse = true → exec i s = .next (s.nakFatal n .accessError)) ∧
      (q.refuse = false → q.state ≠ .connected → exec i s = .next s))) ∧
  (∀ (s : State) (n : BitVec 24) (q : Qp), (s.notify n q false = s) ∧
    ((∀ t0 : W64, q.lastCnpSent = some t0 → t0.toNat + (s.ccOf q.owner).cnpUs * 1000 ≤ s.time) →
      s.notify n q true = (s.modQp n.toNat (fun v => { v with lastCnpSent := some s.now })).emit (.cnp n)) ∧
    (∀ t0 : W64, q.lastCnpSent = some t0 → s.time < t0.toNat + (s.ccOf q.owner).cnpUs * 1000 → s.notify n q true = s)) ∧
  (∀ (s t : State) (n : BitVec 24) (q : Qp) (ce : Bool), s.qp? n.toNat = some q → q.refuse = false → q.state = .connected →
    t = s.notify n q ce →
    (∀ (d : Bytes) (free : Fin 64 → Prop), (∀ m : Fin 64, free m ↔ q.mailboxes.getLsbD m.val = true ∧ (t.mail m.val).busy = false) →
      (q.mailboxes = 0 → exec (.inboundSend n d ce) s = .next (t.nakFatal n .invalidRequest)) ∧
      (∀ m : Fin 64, q.mailboxes.getLsbD m.val = true →
        ((d = [] ∧ ∀ j : Nat, j < m.val → q.mailboxes.getLsbD j = false) ∨ d = b1 m.val ++ zeros 7 →
          ((t.mail m.val).busy = false → exec (.inboundSend n d ce) s = .next ((t.acknowledge n q d.length).ringDoorbell m)) ∧
          ((t.mail m.val).busy = true → exec (.inboundSend n d ce) s = .next ((t.setLost m).emit (.nak n .rnr)))) ∧
        (64 ≤ d.length → d.length ≤ 4096 → free m → (∀ j : Fin 64, j < m → ¬ free j) → exec (.inboundSend n d ce) s =
          .next (((t.acknowledge n q d.length).outerWrite (cmdPage m) d).ringDoorbell m))) ∧
      (64 ≤ d.length → d.length ≤ 4096 → q.mailboxes ≠ 0 → (∀ j : Fin 64, ¬ free j) →
        exec (.inboundSend n d ce) s = .next (t.emit (.nak n .rnr))) ∧
      ((0 < d.length ∧ d.length < 64 ∧ ∀ m : Fin 64, q.mailboxes.getLsbD m.val = true → d ≠ b1 m.val ++ zeros 7) ∨ 4096 < d.length →
        exec (.inboundSend n d ce) s = .next (t.nakFatal n .invalidRequest))) ∧
    (∀ (va : W64) (key : BitVec 32) (a : Nat), a = va.toNat % 2 ^ 48 →
      (∀ (d : Bytes) (own boxes mirror : Prop),
        (own ↔ t.vaOk va = true ∧ t.keyOk q 1 key = true ∧ t.inOwn q a d.length = true) →
        (boxes ↔ t.vaOk va = true ∧ t.keyOk q 2 key = true ∧ q.inBoxes a d.length = true) →
        (mirror ↔ t.vaOk va = true ∧ t.keyOk q 4 key = true) →
        (own ∨ boxes → exec (.inboundRdmaWrite n va key d ce) s = .next ((t.acknowledge n q d.length).outerWrite a d)) ∧
        (¬ own → ¬ boxes → ¬ mirror → exec (.inboundRdmaWrite n va key d ce) s = .next (t.nakFatal n .accessError)) ∧
        (¬ own → ¬ boxes → mirror →
          (∀ r : Config.MirrorRecord, Config.mirrorRecord d = some r →
            (if r.asks then a = (Config.mirrorAddr r).toNat else t.inMirror a d.length = true) →
            exec (.inboundRdmaWrite n va key d ce) s = .next ((t.acknowledge n q d.length).mirrorRecord q.peer.toNat r)) ∧
          ((∀ r : Config.MirrorRecord, Config.mirrorRecord d = some r →
              ¬ (if r.asks then a = (Config.mirrorAddr r).toNat else t.inMirror a d.length = true)) → exec (.inboundRdmaWrite n va key d ce) s =
            .next (if t.inMirror a d.length then (t.acknowledge n q d.length).outerWrite a d else t.nakFatal n .accessError)))) ∧
      (∀ (k : Nat) (x y : W64), (t.vaOk va = false ∨ t.keyOk q 1 key = false →
          exec (.inboundRdmaRead n va key k ce) s = .next (t.nakFatal n .accessError) ∧
          exec (.inboundFetchAdd n va key x ce) s = .next (t.nakFatal n .accessError) ∧
          exec (.inboundCompareSwap n va key x y ce) s = .next (t.nakFatal n .accessError)) ∧
        (t.inOwn q a k = false → exec (.inboundRdmaRead n va key k ce) s = .next (t.nakFatal n .accessError)) ∧
        (t.inOwn q a 8 = false ∨ a % 8 ≠ 0 → exec (.inboundFetchAdd n va key x ce) s = .next (t.nakFatal n .accessError) ∧
          exec (.inboundCompareSwap n va key x y ce) s = .next (t.nakFatal n .accessError))) ∧
      (t.vaOk va = true → t.keyOk q 1 key = true →
        (∀ k : Nat, t.inOwn q a k = true →
          (t.good a k = true → exec (.inboundRdmaRead n va key k ce) s =
            .next ((t.takePsns n q k).emit (.readResponse n (t.read a k)))) ∧
          (t.good a k = false → exec (.inboundRdmaRead n va key k ce) s = .next (t.badResponse q.owner a k))) ∧
        (∀ old x y : W64, t.inOwn q a 8 = true → a % 8 = 0 → old = BitVec.ofNat 64 (t.readNat a 8) →
          (t.good a 8 = true →
            exec (.inboundFetchAdd n va key x ce) s =
              .next (((t.takePsns n q 8).writeNat a 8 (old + x).toNat).emit (.atomicResponse n old)) ∧
            exec (.inboundCompareSwap n va key x y ce) s =
              .next (((t.takePsns n q 8).writeNat a 8 (if old = x then y else old).toNat).emit (.atomicResponse n old))) ∧
          (t.good a 8 = false → exec (.inboundFetchAdd n va key x ce) s = .next (t.badResponse q.owner a 8) ∧
            exec (.inboundCompareSwap n va key x y ce) s = .next (t.badResponse q.owner a 8)))) ∧
      (∀ (imm : BitVec 32) (d : Bytes) (u : State), u = t.acknowledge n q d.length →
        (a ≠ intakePort → exec (.inboundWriteImmediate n va key imm d ce) s = .next (t.nakFatal n .invalidRequest)) ∧
        (a = intakePort → t.vaOk va = false ∨ t.keyOk q 3 key = false →
          exec (.inboundWriteImmediate n va key imm d ce) s = .next (t.nakFatal n .accessError)) ∧
        (a = intakePort → t.vaOk va = true → t.keyOk q 3 key = true →
          exec (.inboundWriteImmediate n va key imm d ce) s = .next (u.chunkRecord q imm d))))) ∧
  (∀ (s : State) (q : Qp) (imm : BitVec 32) (d : Bytes) (j : Nat) (x : Stream), j = imm.toNat % 2 ^ 14 → x = s.stream j →
    (s.stale imm.toNat = true → s.chunkRecord q imm d = s.modMac q.mac.val (fun v => { v with discarded := v.discarded + 1 })) ∧
    (s.stale imm.toNat = false → (s.part? x.part.val).bind (·.shape?) = none → s.chunkRecord q imm d =
      s.modStream j (fun v => { v with intake := { v.intake with otherCnt := v.intake.otherCnt + 1 } })) ∧
    (∀ (r : Partition) (im : ImageInfo) (old : List Chunk) (named room : Prop), s.stale imm.toNat = false →
      s.part? x.part.val = some r → r.shape? = some im → old = (if 16 ≤ x.chunks.length then x.chunks.tail else x.chunks) →
      (named ↔ x.srcKind = 3 ∧ ringPeer x.source = q.peer.toNat ∧ x.part.val = q.owner ∧ x.takesInput = true ∧
        recordOk im imm d = true) →
      (room ↔ s.poolUse + alignUp 256 (le d 4 2 * im.bytesPerFrame + alignUp 64 (le d 4 2)) ≤ poolBytes) →
      (¬ named → s.chunkRecord q imm d =
        s.modStream j (fun v => { v with intake := { v.intake with otherCnt := v.intake.otherCnt + 1 } })) ∧
      (named → ¬ room → s.chunkRecord q imm d =
        (s.modStream j (fun v => { v with intake := { v.intake with otherCnt := v.intake.otherCnt + 1 } })).poolCheck) ∧
      (named → room → le d 8 8 < x.intake.nextSeq.toNat → s.chunkRecord q imm d = s) ∧
      (named → room → x.intake.nextSeq.toNat < le d 8 8 → OnlySent s (s.chunkRecord q imm d)) ∧
      (named → room → le d 8 8 = x.intake.nextSeq.toNat → ∃ u : State, s.chunkRecord q imm d = u.settle x.part.val ∧
        (u.stream j).intake.nextSeq = x.intake.nextSeq + 1 ∧
        (u.stream j).chunks = old ++ [⟨x.nextChunkNo, le d 4 2, slice d 0x40 (le d 4 2), x.sampleCount,
          s.now, dueOf x.cls r.w s.time old, false, false, false, d.drop (64 + alignUp 64 (le d 4 2))⟩] ∧
        (u.stream j).sampleCount = x.sampleCount + BitVec.ofNat 64 (le d 4 2 * im.samplesPerFrame))))

/-- An acknowledgement of messages under way takes those it covers, up to a READ, from the queue in order, completes
them and restores the retries; one of nothing new does nothing. Once the ACK timeout has passed, every message under
way is sent again from the packet that follows and a retry is taken, or the queue pair goes to the error state without
one; a NAK acknowledges what is before its PSN and then sends again or, a fatal one, ends the queue pair; READ data go
to the oldest READ and complete it when they are all there. A CNP sets the target to the rate, cuts the rate by half
of alpha, not below the least rate, and raises alpha; both periods begin again; an alpha period that is over lowers
alpha; an increase period that is over counts a round and moves the rate half-way to the target, which grows by R_AI
beyond F rounds, not above the line rate. That rates and alpha are FP32 words is the model's choice (log 19). -/
def Obligations.AcknowledgementsResendsAndRates : Prop :=
  (∀ (s : State) (n p : BitVec 24) (d : Bytes) (k : NakKind), s.qp? n.toNat = none → exec (.roceAckReceive n p) s = .next s ∧
    exec (.readResponseReceive n d) s = .next s ∧ exec (.nakReceive n p k) s = .next s ∧ exec (.ackTimeout n) s = .next s ∧
    exec (.cnpReceive n) s = .next s ∧ exec (.ccAlphaPeriod n) s = .next s ∧ exec (.ccIncreasePeriod n) s = .next s) ∧
  (∀ (s : State) (n : BitVec 24) (q : Qp), s.qp? n.toNat = some q →
    (∀ (psn top : BitVec 24) (done left : List OutMsg) (u : State), q.out = done ++ left →
      (∀ o ∈ done, o.kind ≠ .read ∧ psnDist q.acked o.last ≤ psnDist q.acked psn) →
      (∀ (o : OutMsg) (r : List OutMsg), left = o :: r → o.kind = .read ∨ psnDist q.acked psn < psnDist q.acked o.last) →
      top = (match left with
        | o :: _ => if o.kind = .read ∧ psnDist q.acked (o.first - 1) < psnDist q.acked psn then o.first - 1 else psn
        | [] => psn) →
      u = (s.setQp n.toNat { q with out := left, acked := top, retriesLeft := q.retry, timer := s.now }).sendNew n.toNat q.out left →
      (q.state ≠ .connected ∨ psnDist q.acked psn = 0 ∨ psnDist q.acked (q.sqNext - 1) < psnDist q.acked psn →
        exec (.roceAckReceive n psn) s = .next s) ∧
      (q.state = .connected → psnDist q.acked psn ≠ 0 → psnDist q.acked psn ≤ psnDist q.acked (q.sqNext - 1) →
        exec (.roceAckReceive n psn) s = .next (done.foldl State.messageDone u) ∧
        ((∀ o ∈ done, o.use = .other) → exec (.roceAckReceive n psn) s = .next u))) ∧
    (s.time < q.timer.toNat + 4096 * 2 ^ q.tmo → exec (.ackTimeout n) s = .next s) ∧
    (q.timer.toNat + 4096 * 2 ^ q.tmo ≤ s.time →
      (q.state ≠ .connected ∨ s.carries q = false ∨ q.out = [] → exec (.ackTimeout n) s = .next s) ∧
      (q.state = .connected → s.carries q = true → q.out ≠ [] →
        (0 < q.retriesLeft → ∃ t : State, exec (.ackTimeout n) s = .next t ∧
          t = { s with qps := tabPut s.qps n.toNat { q with retriesLeft := q.retriesLeft - 1, timer := s.now }, wire := t.wire } ∧
          t.wire = ((underWay q.out 16).map (fun (o : OutMsg) => (⟨.rdma n (o.after q), some ((s.ccOf q.owner).mark 0)⟩ : Sent))).reverse ++
            s.wire) ∧
        (q.retriesLeft = 0 → exec (.ackTimeout n) s = .next (s.qpError n.toNat)))) ∧
    (∀ (p : BitVec 24) (u : State), exec (.roceAckReceive n (p - 1)) s = .next u →
      exec (.nakReceive n p .accessError) s = .next (u.qpError n.toNat) ∧
      exec (.nakReceive n p .invalidRequest) s = .next (u.qpError n.toNat) ∧
      exec (.nakReceive n p .sequence) s = .next (u.resend n) ∧ exec (.nakReceive n p .rnr) s = .next (u.resend n) ∧
      (u.ackLate n.toNat = true → exec (.ackTimeout n) u = .next (u.resend n))) ∧
    (∀ d : Bytes, q.state ≠ .connected ∨ (∀ o ∈ q.out, o.kind ≠ .read) → exec (.readResponseReceive n d) s = .next s) ∧
    (∀ (d got : Bytes) (o o' : OutMsg) (pre post : List OutMsg) (u : State) (x : Qp) (k : BitVec 24), q.state = .connected →
      q.out.find? (fun v => v.kind == .read) = some o → exec (.roceAckReceive n (o.first - 1)) s = .next u →
      u.qp? n.toNat = some x → x.out = pre ++ o' :: post → o'.kind = .read → (∀ v ∈ pre, v.kind ≠ .read) →
      got = d.take o.len → k = BitVec.ofNat 24 (q.packets got.length) →
      ∀ left : List OutMsg, left = pre ++ (if o.len ≤ d.length then [] else [{ o with
          first := o.first + k, va := o.va + BitVec.ofNat 64 got.length, len := o.len - got.length }]) ++ post →
      ∀ v : State, v = (u.setQp n.toNat { x with acked := o.first + k - 1, retriesLeft := x.retry, timer := u.now, out := left }).sendNew
          n.toNat x.out left →
      ((∀ (c : Nat) (slot : Fin 16), o.use ≠ .dmov c slot) →
        exec (.readResponseReceive n d) s = .next v) ∧
      (∀ (c : Nat) (slot : Fin 16), o.use = .dmov c slot →
        exec (.readResponseReceive n d) s = .next ((v.modXfer c slot (readPhase got)).sendAsked c slot))) ∧
    (q.state ≠ .connected → ∀ i : Instr, (i = .cnpReceive n ∨ i = .ccAlphaPeriod n ∨ i = .ccIncreasePeriod n) →
      ∃ t : State, exec i s = .next t ∧ t = { s with qps := t.qps } ∧ t.qp? n.toNat = some q) ∧
    (q.state = .connected → ∀ (c : CcParams) (a cut : Machine.Num), c = s.ccOf q.owner → a = fpVal q.alpha →
      cut = f32Mul (fpVal q.rc) (f32Add (.ofInt 1) (a.scale2 (-1)).negate) →
      exec (.cnpReceive n) s = .next (s.setQp n.toNat { q with
        rt := q.rc, rc := fpWord (if cut.lt (.ofInt c.rmin) then .ofInt c.rmin else cut),
        alpha := fpWord (f32Add (f32Mul (f32Add (.ofInt 1) (Machine.Num.fin false 1 (-(c.gLog2 : Int))).negate) a) (.fin false 1 (-(c.gLog2 : Int)))),
        rounds := 0, alphaFrom := s.now, incFrom := s.now }) ∧
      (s.time < q.alphaFrom.toNat + 1000 * c.alphaUs → exec (.ccAlphaPeriod n) s = .next s) ∧
      (s.time < q.incFrom.toNat + 1000 * c.incUs → exec (.ccIncreasePeriod n) s = .next s) ∧
      (q.alphaFrom.toNat + 1000 * c.alphaUs ≤ s.time → exec (.ccAlphaPeriod n) s = .next (s.setQp n.toNat { q with
        alpha := fpWord (f32Mul (f32Add (.ofInt 1) (Machine.Num.fin false 1 (-(c.gLog2 : Int))).negate) a), alphaFrom := s.now })) ∧
      (∀ v up : Machine.Num, q.incFrom.toNat + 1000 * c.incUs ≤ s.time → up = f32Add (fpVal q.rt) (.ofInt c.rai) →
        v = (if q.rounds + 1 ≤ c.f then fpVal q.rt
          else if (Machine.Num.ofInt (s.lineMbps q.mac.val)).lt up then .ofInt (s.lineMbps q.mac.val) else up) →
        exec (.ccIncreasePeriod n) s = .next (s.setQp n.toNat { q with
          rounds := q.rounds + 1, rt := fpWord v, rc := fpWord (f32 ((f32Add v (fpVal q.rc)).scale2 (-1))), incFrom := s.now }))))

/-- A packet that fails its check, is not for its MAC or matches no stream is discarded and counted; one with the SSRC
of a matching stream, or of the one following stream, is taken by it while it takes input; else it is counted with the
stream. One 4 or more chunks ahead is held and counted early; one whose first sample is the next is kept: its samples
stand at their stream times and its arrival is recorded, unless the pool is full; samples of accepted chunks, too far
ahead or beyond a drain's end are not kept. An RTCP packet is counted, a BYE may raise an event besides; a sender
report carries the sink's SSRC, time, packet and octet counts. -/
def Obligations.RtpAndRtcpPacketsAct : Prop :=
  (∀ (s : State) (p prio fill : Nat), s.pauseAbove p prio fill =
    if bit (s.port p).ctl.toNat (53 + prio) = true ∧ 3 * 0x80000 < 4 * fill then s.emit (.pause (Fin.ofNat 4 p) (Fin.ofNat 8 prio)) else s) ∧
  (∀ (s u : State) (k : RtpPacket) (own : Option (Nat × Stream)), own = (s.rtpMatches k).find? (fun (e : Nat × Stream) => e.2.intake.ssrc == k.ssrc) →
    u = s.pauseAbove (k.mac.val / 4) (s.rtpPrio (((own.or (s.rtpMatches k).head?).map (fun (e : Nat × Stream) => e.2.part.val)).getD 16)) k.rxFill →
    (k.checksOk = false → exec (.rtpPacket k) s = .next (u.badFrame k.mac.val)) ∧
    (k.checksOk = true → s.ownFrame k.mac.val k.dst k.vlan = false → exec (.rtpPacket k) s = .next (u.discardFrame k.mac.val)) ∧
    (k.checksOk = true → s.ownFrame k.mac.val k.dst k.vlan = true →
      (∀ (i n : Nat) (x : Stream), own = some (i, x) → n = s.nextChunkSamples x →
        (rtpSamples x.binding k.payload = none ∨ x.takesInput = false ∨ n = 0 → exec (.rtpPacket k) s = .next (u.rtpOther i)) ∧
        (∀ ws : List Bytes, rtpSamples x.binding k.payload = some ws → x.takesInput = true → n ≠ 0 →
          exec (.rtpPacket k) s = .next (u.rtpTake i n k ws))) ∧
      (∀ (i n : Nat) (x : Stream), own = none → (s.rtpMatches k).filter (fun (e : Nat × Stream) => bndFollow e.2.binding) = [(i, x)] →
        n = s.nextChunkSamples x →
        (rtpSamples x.binding k.payload = none ∨ x.takesInput = false ∨ x.intake.stopAt.isSome = true ∨ n = 0 →
          exec (.rtpPacket k) s = .next (u.rtpOther i)) ∧
        (∀ ws : List Bytes, rtpSamples x.binding k.payload = some ws → x.takesInput = true → x.intake.stopAt = none → n ≠ 0 →
          exec (.rtpPacket k) s = .next ((u.rtpFollow i n k.ssrc k.timestamp).rtpTake i n k ws))) ∧
      (own = none → ((s.rtpMatches k).filter (fun (e : Nat × Stream) => bndFollow e.2.binding)).length ≠ 1 →
        ((s.rtpMatches k).length ≠ 1 → exec (.rtpPacket k) s = .next (u.discardFrame k.mac.val)) ∧
        ∀ (i : Nat) (x : Stream), s.rtpMatches k = [(i, x)] → exec (.rtpPacket k) s = .next (u.rtpOther i)))) ∧
  (∀ (s : State) (i n : Nat) (k : RtpPacket) (ws : List Bytes) (x y : Stream), x = s.stream i →
    y = (if x.intake.ts0.isSome then x else x.startTs k.timestamp x.sampleCount.toNat) →
    ((x.sampleCount.toNat + 4 * n : Int) ≤ y.rtpStart k.timestamp →
      (∀ e : EarlyPacket, x.intake.early = some e → k.timestamp ≠ e.ts + BitVec.ofNat 32 e.samples) →
      ∃ t : State, s.rtpTake i n k ws = t ∧ t = { s with streams := t.streams } ∧ (∀ j : Nat, j ≠ i → t.stream j = s.stream j) ∧
        t.stream i = { y with intake := { y.intake with
          earlyCnt := x.intake.earlyCnt + 1, early := some ⟨k.timestamp, ws.length, k.payload, s.now⟩ } }) ∧
    (y.rtpStart k.timestamp < (x.sampleCount.toNat + 4 * n : Int) → s.rtpTake i n k ws =
      ((s.setStream i y).modStream i (fun z => { z with intake := { z.intake with early := none } })).placeSamples i n
        (y.rtpStart k.timestamp) ws s.now)) ∧
  (∀ (s : State) (i n lo : Nat) (ws : List Bytes) (x y : Stream) (now : W64), x = s.stream i → lo = x.sampleCount.toNat → ws ≠ [] →
    ws.length ≤ 4 * n → x.intake.stopAt = none → (∀ j : Nat, j < ws.length → tabGet? x.intake.samples (lo + j) = none) →
    y = { x with
      lastSample := now,
      intake := { x.intake with
        samples := (List.range ws.length).foldl (fun (t : Tab Bytes) j => tabPut t (lo + j) (ws.getD j [])) x.intake.samples,
        kept := x.intake.kept ++ [⟨lo, lo + ws.length - 1, now⟩] } } →
    ((s.setStream i y).poolUse ≤ poolBytes → ∃ t : State, s.placeSamples i n lo ws now = t.poolCheck ∧ t.stream i = y ∧
      (∀ j : Nat, j ≠ i → t.stream j = s.stream j) ∧ t = { s with streams := t.streams }) ∧
    (poolBytes < (s.setStream i y).poolUse → ∃ t : State, s.placeSamples i n lo ws now = t.poolCheck ∧
      t.stream i = { x with intake := { x.intake with otherCnt := x.intake.otherCnt + 1 } } ∧ t = { s with streams := t.streams })) ∧
  (∀ (s : State) (i n lo : Nat) (start : Int) (ws : List Bytes) (x z : Stream) (now : W64), x = s.stream i → lo = x.sampleCount.toNat →
    z = (s.placeSamples i n start ws now).stream i → (∀ j : Nat, j < ws.length → start + (j : Int) < lo ∨
      (x.intake.stopAt.getD (lo + 4 * n) : Int) ≤ start + (j : Int) ∨ (lo + 4 * n : Int) ≤ start + (j : Int)) →
    z.intake.samples = x.intake.samples ∧ z.intake.kept = x.intake.kept ∧ z.lastSample = x.lastSample ∧
    z.intake.lateCnt = x.intake.lateCnt + flag ((List.range ws.length).any (fun j => decide (start + (j : Int) < lo))) ∧
    z.intake.earlyCnt = x.intake.earlyCnt + flag ((List.range ws.length).any (fun j => decide ((lo + 4 * n : Int) ≤ start + (j : Int))))) ∧
  (∀ (s : State) (mac : Fin 16) (src : BitVec 128) (port : BitVec 16) (ssrc : W32) (u : State),
    u = s.modMac mac.val (fun (x : Mac) => { x with rtcpCnt := x.rtcpCnt + 1 }) →
    exec (.rtcpPacket mac src port ssrc .senderReport) s = .next u ∧
    exec (.rtcpPacket mac src port ssrc .receiverReport) s = .next u ∧
    ∃ t : State, exec (.rtcpPacket mac src port ssrc .bye) s = .next t ∧ OnlySent u t) ∧
  (∀ (s : State) (i : Fin 16384) (x : Stream) (m size : Nat) (sends : Prop), x = s.stream i.val → m = rtpMac x.sink →
    (sends ↔ x.sinkKind = 1 ∧ x.state ≠ .closed ∧ x.state ≠ .opening ∧ ∀ h, x.shadow = some h → h.adopted = true) →
    size = (if le x.binding 6 1 = 0 then 2 else 3) * max 1 (bndChannelsOut x.binding) →
    (¬ sends → exec (.rtcpSenderReport i) s = .next s) ∧
    (sends → (s.mac m).up = false → exec (.rtcpSenderReport i) s = .next (s.discardFrame m)) ∧
    (sends → (s.mac m).up = true → ∀ ts : W32,
      ts = (if bndAlign x.binding = true ∧ x.srcKind = 1 ∧ bndRateOut x.binding = x.sampleRate.toNat then x.intake.ts0.getD 0
        else BitVec.ofNat 32 (le x.binding 0x10 4)) → ∃ t : State, exec (.rtcpSenderReport i) s = .next t ∧
      t.wire.head? = some ⟨.rtcp (Fin.ofNat 16 m) (slice x.binding 0x20 16) (BitVec.ofNat 16 (le x.binding 0xC 2 + 1))
        (BitVec.ofNat 32 (rtpSsrc x.sink)) (ts + BitVec.ofNat 32 x.outlet.sent)
        (BitVec.ofNat 32 x.outlet.packets) (BitVec.ofNat 32 (x.outlet.sent * size)),
        some ⟨BitVec.ofNat 6 (le x.binding 0x18 1), ((s.ccOf x.part.val).mark 2).prio⟩⟩ ∧
      t.streams = s.streams ∧ t.mem = s.mem))

/-- A received pause holds an enabled priority, its release frees it, a buffer above 75 % of its share sends pause; a
watchdog whose 100 ms have passed marks the priority and frees it, its end after 1 s clears the mark. A failing lane
with a free spare drives its code, counted; else its MAC goes down and may retrain lower; a failing spare lane is no
longer available; a symbol-error window acts above LANE_SER_LIMIT only; the partner's answer engages the spare and
writes the wear record; no answer takes the MAC down; a retirement that waits is answered. A link that comes up or
goes down sets its MAC and raises an event; the first of a port takes the breakout and the recorded spare. That a
timeout drives code 7 and frees the spare is the model's choice (log 34). -/
def Obligations.LanesLinksAndPauseAct : Prop :=
  (∀ (s : State) (p : Fin 4) (prio : Fin 8) (x : Port) (b : BitVec 8), x = s.port p.val → b = BitVec.ofNat 8 (2 ^ prio.val) →
    (∀ (f : Nat) (u : State), u = s.pauseAbove p.val prio.val f →
      (bit x.ctl.toNat (53 + prio.val) = true → x.pfcWd.getLsbD prio.val = false →
        exec (.pauseFrameReceive p prio true f) s = .next (u.setPort p.val { x with
          held := x.held ||| b,
          pfcFrom := if x.held.getLsbD prio.val then x.pfcFrom else tabPut x.pfcFrom prio.val s.now }) ∧
        exec (.pauseFrameReceive p prio false f) s = .next (u.setPort p.val { x with held := x.held &&& ~~~b })) ∧
      (bit x.ctl.toNat (53 + prio.val) = false ∨ x.pfcWd.getLsbD prio.val = true → ∀ hold : Bool,
        exec (.pauseFrameReceive p prio hold f) s = .next (u.setPort p.val x))) ∧
    (x.held.getLsbD prio.val = true → x.pfcWd.getLsbD prio.val = false → x.pfcSince prio.val + 100000000 < s.time →
      ∃ t : State, exec (.pfcWatchdog p prio) s = .next t ∧ OnlySent (s.setPort p.val { x with
        pfcWd := x.pfcWd ||| b, held := x.held &&& ~~~b, pfcFrom := tabPut x.pfcFrom prio.val s.now }) t) ∧
    (x.held.getLsbD prio.val = false ∨ x.pfcWd.getLsbD prio.val = true ∨ s.time ≤ x.pfcSince prio.val + 100000000 →
      exec (.pfcWatchdog p prio) s = .next s) ∧
    (x.pfcWd.getLsbD prio.val = true → x.pfcSince prio.val + 1000000000 ≤ s.time →
      exec (.pfcWatchdogEnd p prio) s = .next (s.setPort p.val { x with pfcWd := x.pfcWd &&& ~~~b })) ∧
    (x.pfcWd.getLsbD prio.val = false ∨ s.time < x.pfcSince prio.val + 1000000000 → exec (.pfcWatchdogEnd p prio) s = .next s)) ∧
  (∀ (s t : State) (p l m : Nat), t = s.laneMacDown p l →
    m = 4 * p + (if (s.port p).breakout = 0 then 0 else if (s.port p).breakout = 1 then l / 2 else l) →
    OnlySent (s.setMac m { s.mac m with up := false, laneDown := true, degraded := (s.mac m).degraded +
      if (s.port p).breakout.toNat + (s.mac m).degraded < 2 then 1 else 0 }) t) ∧
  (∀ (s : State) (p : Fin 4) (x y : Port), x = s.port p.val → y = { x with laneFault := satAdd x.laneFault 1 } →
    (∀ lane : Fin 5, lane.val < 4 →
      ((x.spareState = 2 ∧ x.spareFor.toNat = lane.val) ∨ (∃ d : W64, x.failing = some (lane, d)) →
        exec (.laneLockLoss p lane) s = .next (s.setPort p.val y)) ∧
      (¬ (x.spareState = 2 ∧ x.spareFor.toNat = lane.val) → (∀ d : W64, x.failing ≠ some (lane, d)) →
        (x.spareOn = true → x.spareState = 0 → exec (.laneLockLoss p lane) s = .next ((s.setPort p.val { y with
          spareState := 1, failing := some (lane, s.now), laneMap := BitVec.ofNat 3 lane.val }).emit
          (.laneMap p (BitVec.ofNat 3 lane.val)))) ∧
        (x.spareOn = false ∨ x.spareState ≠ 0 → exec (.laneLockLoss p lane) s =
          .next ((s.setPort p.val y).laneMacDown p.val lane.val)))) ∧
    (∀ lane : Fin 5, lane.val = 4 →
      (x.spareState = 2 → exec (.laneLockLoss p lane) s = .next ((s.setPort p.val { y with spareState := 3 }).laneMacDown p.val x.spareFor.toNat)) ∧
      (x.spareState = 0 ∨ x.spareState = 3 → exec (.laneLockLoss p lane) s = .next (s.setPort p.val { y with spareState := 3 })) ∧
      (x.spareState = 1 → ∀ u : State, u = s.setPort p.val { y with spareState := 3, failing := none, retire := none } →
        (x.retire = none → exec (.laneLockLoss p lane) s = .next (u.laneMacDown p.val ((x.failing.map (·.1.val)).getD 0))) ∧
        ∀ m : Fin 64, x.retire = some m → ∃ t : State, exec (.laneLockLoss p lane) s = .next t ∧ Replied u t m stNoResource 0 [])) ∧
    (∀ (lane : Fin 5) (n : Nat), (bits x.ctl.toNat 32 16 < n → exec (.laneSerWindow p lane n) s = exec (.laneLockLoss p lane) s) ∧
      (n ≤ bits x.ctl.toNat 32 16 → exec (.laneSerWindow p lane n) s = .next s)) ∧
    (x.failing = none → exec (.laneMapAnswer p) s = .next s ∧ exec (.laneMapTimeout p) s = .next s) ∧
    (∀ (lane : Fin 5) (d : W64), x.failing = some (lane, d) → s.time < d.toNat + 20000 → exec (.laneMapTimeout p) s = .next s) ∧
    (∀ (lane : Fin 5) (d : W64) (u v : State), x.failing = some (lane, d) →
      u = { s.setPort p.val { x with
          spareState := 2, spareFor := BitVec.ofNat 2 lane.val, failing := none, recorded := some lane, retire := none } with
        flash := { s.flash with ops := s.flash.ops ++ [.wear (unitRecord (unitId 9 p.val lane.val) (physOf 0 0 0 4) 1 0 0xFFFF
          (physOf 0 0 0 lane.val) s.powerMin)] } } →
      v = s.setPort p.val { x with spareState := 0, failing := none, laneMap := 7, retire := none } →
      (x.retire = none → (∃ t : State, exec (.laneMapAnswer p) s = .next t ∧ OnlySent { u with
          flash := { u.flash with ops := u.flash.ops ++ [.wear (unitRecord (unitId 9 p.val lane.val)
            (physOf 0 0 0 lane.val) 7 0 0xFFFF 0 s.powerMin)] } } t) ∧
        (d.toNat + 20000 ≤ s.time → exec (.laneMapTimeout p) s = .next ((v.emit (.laneMap p 7)).laneMacDown p.val lane.val))) ∧
      (∀ m : Fin 64, x.retire = some m → (∃ t : State, exec (.laneMapAnswer p) s = .next t ∧
          Replied { u with flash := { u.flash with ops := u.flash.ops ++ [.wear (unitRecord (unitId 9 p.val lane.val)
            (physOf 0 0 0 lane.val) 2 0 0xFFFF 0 s.powerMin)] } } t m 0 0 []) ∧
        (d.toNat + 20000 ≤ s.time → ∃ t : State, exec (.laneMapTimeout p) s = .next t ∧ Replied v t m stNoResource 0 [])))) ∧
  (∀ (s : State) (m : Fin 16),
    ((s.mac m.val).up = true → ∃ t : State, exec (.linkDown m) s = .next t ∧
      OnlySent (s.setMac m.val { s.mac m.val with up := false }) t) ∧
    ((s.mac m.val).up = false → exec (.linkDown m) s = .next s) ∧
    (∀ (u : State) (x : Port) (first : Prop), x = s.port (m.val / 4) →
      (first ↔ ∀ k : Nat, k / 4 = m.val / 4 → (s.mac k).up = false) → (¬ first → u = s) → (first → u = s.setPort (m.val / 4) x.trained) →
      (s.dev.mode.code < 3 ∨ s.pwr.serdesLost = true ∨ (s.mac m.val).up = true ∨
        breakoutMacs (u.port (m.val / 4)).breakout.toNat ≤ m.val % 4 → exec (.linkUp m) s = .next s) ∧
      (3 ≤ s.dev.mode.code → s.pwr.serdesLost = false → (s.mac m.val).up = false →
        m.val % 4 < breakoutMacs (u.port (m.val / 4)).breakout.toNat →
        ∃ t : State, exec (.linkUp m) s = .next t ∧ OnlySent (u.setMac m.val { s.mac m.val with up := true, laneDown := false }) t))) ∧
  (∀ x y : Port, y = { x with breakout := BitVec.ofNat 2 (bits x.ctl.toNat 62 2), spareOn := bit x.ctl.toNat 61 } →
    ((x.recorded = none ∨ bit x.ctl.toNat 61 = false) → x.trained = y) ∧
    ∀ l : Fin 5, x.recorded = some l → bit x.ctl.toNat 61 = true →
      x.trained = { y with spareState := 2, spareFor := BitVec.ofNat 2 l.val, failing := none })

/-- For every MAC: an ARP request, a neighbour solicitation and an echo request for its own set address are answered
with its hardware address or the payload, with no other effect; for another address the frame is discarded and
counted, as are other frames; a frame that fails its check counts as an error; a reply to a question of the MAC's own
is remembered as its next hop. -/
def Obligations.MacsAnswerForTheirAddresses : Prop :=
  ∀ (s : State) (m : Fin 16) (x : Mac) (drop : State), x = s.mac m.val → drop = s.setMac m.val { x with discarded := x.discarded + 1 } →
    (∀ (a b : BitVec 32) (h : BitVec 48),
      (a = x.ip4 → a ≠ 0 → exec (.arpRequest m a b h) s = .next (s.emit (.arpReply m a (Config.macAddr m.val) b h))) ∧
      (a ≠ x.ip4 ∨ a = 0 → exec (.arpRequest m a b h) s = .next drop)) ∧
    (∀ (a b : BitVec 128) (h : BitVec 48),
      (a = x.ip6 → a ≠ 0 → exec (.neighbourSolicitation m a b h) s = .next (s.emit (.ndReply m a (Config.macAddr m.val) b h))) ∧
      (a ≠ x.ip6 ∨ a = 0 → exec (.neighbourSolicitation m a b h) s = .next drop)) ∧
    (∀ (a b : BitVec 128) (d : Bytes) (own : Prop), (own ↔ a = mapped4 x.ip4 ∧ x.ip4 ≠ 0 ∨ a = x.ip6 ∧ x.ip6 ≠ 0) →
      (own → exec (.icmpEchoRequest m a b d) s = .next (s.emit (.echoReply m a b d))) ∧
      (¬ own → exec (.icmpEchoRequest m a b d) s = .next drop)) ∧
    exec (.unmatchedFrame m true) s = .next drop ∧
    exec (.unmatchedFrame m false) s = .next (s.setMac m.val { x with errors := x.errors + 1 }) ∧
    (∀ (a : BitVec 128) (h : BitVec 48),
      (a ∈ x.resolving → ∃ t : State, exec (.nextHopResolutionReply m a h) s = .next t ∧
        t = { s with macs := t.macs } ∧ (t.mac m.val).hops = x.hops.filter (fun e => e.1 != a) ++ [(a, h)] ∧
        a ∉ (t.mac m.val).resolving) ∧
      (a ∉ x.resolving → exec (.nextHopResolutionReply m a h) s = .next drop))

/-- For a request of an allowed source, from FW_LOAD on: a read inside the mailbox region or the device control block
answers the bytes, elsewhere STATUS 1 (refused); a write into the mailbox region writes, one of registers with RW
fields reaches them, any other is refused whole; a doorbell rings the mailbox; a reserved encoding gives STATUS 2;
each answer carries the request's header. The same TAG of the source again within the second is answered with the
first response and not performed again. That an allow list never set lets every source in is the model's choice (log
24). -/
def Obligations.ManagementServiceAnswers : Prop :=
  ∀ (s : State) (r : MgmtRequest) (i : Instr),
    (r.op = 2 ∨ r.op = 3 → exec (.mgmtRead r) s = .next s) ∧ (r.op ≠ 2 → exec (.mgmtWrite r) s = .next s) ∧
    (r.op ≠ 3 → exec (.mgmtDoorbell r) s = .next s) ∧
    ((i = .mgmtRead r ∧ r.op ≠ 2 ∧ r.op ≠ 3 ∨ i = .mgmtWrite r ∧ r.op = 2 ∨ i = .mgmtDoorbell r ∧ r.op = 3) →
      (s.dev.mode.code < 2 ∨ s.mgmt.allows r.src = false → exec i s = .next s) ∧
      (2 ≤ s.dev.mode.code → s.mgmt.allows r.src = true →
        ∀ held, held = s.mgmt.answered.filter (fun e => decide (s.time < e.2.2.1.toNat + 1000000000)) →
        (∀ e, held.find? (fun e => e.1 == r.src && e.2.1 == r.tag) = some e →
          exec i s = .next (({ s with mgmt := { s.mgmt with answered := held } }).emit (.mgmt r.src e.2.2.2))) ∧
        (held.find? (fun e => e.1 == r.src && e.2.1 == r.tag) = none →
          ∀ (t : State) (st : Nat) (d p : Bytes) (a : Nat), a = r.addr.toNat - ctlBase → p = mgmtPacket r st d →
          ((r.reservedField = true ∧ st = 2 ∧ d = [] ∧ t = s) ∨
           (r.reservedField = false ∧
             ((r.op = 1 ∧ (r.inMailboxes || r.inControl) = true ∧ st = 0 ∧ d = s.bus r.addr.toNat r.length.toNat ∧ t = s) ∨
              (r.op = 1 ∧ (r.inMailboxes || r.inControl) = false ∧ st = 1 ∧ d = [] ∧ t = s) ∨
              (r.op = 2 ∧ r.inMailboxes = true ∧ st = 0 ∧ d = [] ∧ t = s.outerWrite r.addr.toNat r.data) ∨
              (r.op = 2 ∧ r.inMailboxes = false ∧ (r.inControl = false ∨ ∃ k : Nat, k < r.length.toNat / 8 ∧
                ctlWritable (a + 8 * k) = false) ∧ st = 1 ∧ d = [] ∧ t = s) ∨
              (r.op = 2 ∧ r.inMailboxes = false ∧ r.inControl = true ∧ (∀ k : Nat, k < r.length.toNat / 8 →
                ctlWritable (a + 8 * k) = true) ∧ st = 0 ∧ d = [] ∧ t = (List.range (r.length.toNat / 8)).foldl (fun v k =>
                  v.ctlWrite (a + 8 * k) (BitVec.ofNat 64 (le r.data (8 * k) 8)) false) s) ∨
              (r.op = 3 ∧ st = 0 ∧ d = [] ∧ t = s.ringDoorbell (Fin.ofNat 64 r.addr.toNat))))) →
          exec i s = .next (({ t with mgmt := { t.mgmt with
            answered := held ++ [(r.src, r.tag, s.now, p)] } }).emit (.mgmt r.src p)))))

/-- Each block read of the sideband answers at address 0x58 plus the straps with its status byte and data: identity
and state from ROM_BOOT on, the others with status 1 and zeros before READY. A re-read count is stored and waiting
records leave in order, each completion record freeing its mailbox; a withheld doorbell packet leaves after 10 µs.
Missing heartbeats make the standby primary, counted, with contexts, streams and cores as they were; without a standby
the device is FAULTED with cause 4 and FAULT_N low; a spare that has loaded becomes the standby. -/
def Obligations.SidebandRingsAndSupervisorsAct : Prop :=
  (∀ s : State, s.dev.mode = .off → exec .smbusIdentity s = .next s ∧ exec .smbusState s = .next s ∧
    exec .smbusTemperature s = .next s ∧ exec .smbusPower s = .next s ∧ exec .smbusHealth s = .next s) ∧
  (∀ s : State, s.dev.mode ≠ .off →
    exec .smbusIdentity s = .next (s.emit (.smbus sidebandAddr (0 :: (partNo ++ serialNo)))) ∧
    exec .smbusState s = .next (s.emit (.smbus sidebandAddr [0, BitVec.ofNat 8 s.dev.mode.code])) ∧
    (s.dev.mode.code < 4 →
      exec .smbusTemperature s = .next (s.emit (.smbus sidebandAddr (1 :: zeros 4))) ∧ exec .smbusPower s = .next (s.emit (.smbus sidebandAddr (1 :: zeros 4))) ∧
      exec .smbusHealth s = .next (s.emit (.smbus sidebandAddr (1 :: zeros 8)))) ∧
    (4 ≤ s.dev.mode.code →
      exec .smbusTemperature s = .next (s.emit (.smbus sidebandAddr (0 :: (i2 s.pwr.hottest ++ i2 s.pwr.coolant)))) ∧
      exec .smbusPower s = .next (s.emit (.smbus sidebandAddr (0 :: (b2 s.pwr.inputMv.toNat ++ b2 s.pwr.powerW.toNat)))) ∧
      exec .smbusHealth s = .next (s.emit (.smbus sidebandAddr (0 :: (b2 s.spares.lost.length ++ b1 s.spareLowClusters.length ++
        b1 s.degradedQuads ++ b2 s.failedMacs ++ b1 s.sup.working.toNat ++ b1 (min 255 s.retiring.length))))))) ∧
  (∀ (s : State) (r : Fin 16) (x : Ring) (count : W64), x = s.ring r.val →
    (x.enabled = true → x.waiting ≠ [] →
      ∃ (t : State) (done : List Bytes), exec (.eventRingConsReread r count) s = .next t.endResets ∧
        ((∀ v ∈ s.parts, v.2.resetting = none) → t.endResets = t) ∧
        t = { s with rings := t.rings, qps := t.qps, wire := t.wire, mbx := t.mbx } ∧
        (t.ring r.val).cons = count.toNat ∧ x.waiting = done ++ (t.ring r.val).waiting ∧
        (∀ bs ∈ done, le bs 0 2 = 1 → (t.mail (le bs 12 1)).busy = false) ∧
        (∀ m : Nat, (∀ bs ∈ done, le bs 0 2 = 1 → le bs 12 1 ≠ m) → t.mail m = s.mail m)) ∧
    (x.enabled = false ∨ x.waiting = [] → exec (.eventRingConsReread r count) s = .next s) ∧
    (x.withheld = false ∨ x.packets = false ∨ (∃ last : W64, x.lastPacket = some last ∧ s.time < last.toNat + 10000) ∨
      (∀ q : Qp, s.qp? x.qpn.toNat = some q → q.state ≠ .connected ∨ s.carries q = false) → exec (.doorbellPacket r) s = .next s) ∧
    (∀ q : Qp, x.withheld = true → x.packets = true → (∀ last : W64, x.lastPacket = some last → last.toNat + 10000 ≤ s.time) →
      s.qp? x.qpn.toNat = some q → q.state = .connected → s.carries q = true →
      ∃ (t : State) (o : OutMsg), exec (.doorbellPacket r) s = .next t ∧ OnlySent s t ∧
        Sends s t x.qpn.toNat q [o] ∧ o.kind = .send ∧ o.data.length = 16 ∧
        (t.ring r.val).withheld = false ∧ (t.ring r.val).lastPacket = some s.now)) ∧
  (∀ s : State, s.dev.mode.code < 3 ∨ s.sup.standbyValid = false → exec .heartbeat s = .next s) ∧
  (∀ (s : State) (own : Bool), s.dev.mode.code < 3 ∨ s.dev.mode = .faulted → exec (.heartbeatMiss own) s = .next s) ∧
  (∀ s : State, 3 ≤ s.dev.mode.code → s.sup.standbyValid = true →
    exec .heartbeat s = .next (s.emit (.heartbeat s.sup.primary s.sup.standby)) ∧
    (s.dev.mode ≠ .faulted → ∀ own : Bool, ∃ t : State, exec (.heartbeatMiss own) s = .next t ∧ t.sup.primary = s.sup.standby ∧
      t.sup.standbyValid = false ∧ t.sup.takeovers = satAdd s.sup.takeovers 1 ∧ t.dev = s.dev ∧ t.parts = s.parts ∧
      t.cores = s.cores ∧ t.streams = s.streams)) ∧
  (∀ s : State, 3 ≤ s.dev.mode.code → s.dev.mode.code ≤ 6 → s.sup.standbyValid = false → ∀ own : Bool,
    ∃ t : State, exec (.heartbeatMiss own) s = .next t ∧ t.dev.mode = .faulted ∧ t.dev.faultCause = 4 ∧ t.dev.faultN = false ∧
      t.ctxs = []) ∧
  (∀ (s : State) (n : Fin 4),
    (s.sup.loading = some n → ∃ (u v : State), exec (.spareSupervisorReady n) s = .next u.rollSups ∧
      v = { s with sup := { s.sup with standby := n, standbyValid := true, loading := none, retireMbx := none } } ∧
      (s.sup.retireMbx = none → u = v) ∧ (∀ m : Fin 64, s.sup.retireMbx = some m → Replied v u m 0 0 []) ∧
      (s.tests = [] → u.rollSups = u)) ∧
    (s.sup.loading ≠ some n → exec (.spareSupervisorReady n) s = .next s))

/-- A wire frame of a group with its clock advances its frame number by one and makes a committed mask the active one;
without clock, pins or members nothing happens. After T_zc a change without a crossing begins its ramp with event
0x860A; an AUTO slot whose check has held RELEASE_HOLD requests release. A slave's lost clock marks group and ports,
its return clears the mark. A rate within its threshold is stored, one beyond it becomes the new reference with an
event. The heliostat updates after its interval and keeps STEER within 200 ppm. -/
def Obligations.AudioPortsAndGroupsAct : Prop :=
  (∀ (s : State) (g : Fin 16) (x : AGroup) (words : List WireWords) (slips : WireSlips), x = s.group g.val →
    ((s.dev.audioPinsOn = true ∧ x.clockLost = false ∧ s.members g.val ≠ []) →
      ∃ t : State, exec (.audioWireFrame g words slips) s = .next t ∧ (t.group g.val).frame = x.frame + 1 ∧
        (t.group g.val).pending = none ∧ (t.group g.val).active = x.pending.getD x.active) ∧
    ((s.dev.audioPinsOn = false ∨ x.clockLost = true ∨ s.members g.val = []) →
      exec (.audioWireFrame g words slips) s = .next s)) ∧
  (∀ (s : State) (g k : Fin 16) (x : AGroup) (y : ASlot), x = s.group g.val → y = x.slot k.val →
    (∀ (n : Nat) (c : Change), s.slotPort g.val k.val = some n → (s.aport n).run = true → x.clockLost = false → y.change = some c →
      c.ramp = none → x.zcFrames ≤ c.waited → exec (.crossingTimeout g k) s =
        .next ((s.setGroup g.val { x with slots := tabPut x.slots k.val { y with change := some { c with ramp := some 0 } } }).portEvent
          n 0x860A y.stream [b1 k.val, b1 c.kind.code])) ∧
    ((s.slotRuns g.val k.val = false ∨ x.clockLost = true ∨ y.change = none ∨
        ∃ c : Change, y.change = some c ∧ (c.ramp.isSome = true ∨ c.waited < x.zcFrames)) →
      exec (.crossingTimeout g k) s = .next s) ∧
    (y.mode = 1 → y.on = true → y.prog = true → 1 ≤ y.good → y.holdMs * x.rateHz ≤ y.good * 1000 → s.slotRuns g.val k.val = true →
      x.clockLost = false →
      exec (.bypassReleaseHold g k) s =
        .next (s.modSlot g.val k.val (fun z => z.request x.rampFrames .release none (fun v => { v with prog := false }))) ∧
      (y.change = none → exec (.bypassReleaseHold g k) s = .next (s.setGroup g.val { x with
        slots := tabPut x.slots k.val { y with
          prog := false,
          change := some ⟨.release, y.steady, ({ y with prog := false } : ASlot).steady, 0, none, none⟩ } }))) ∧
    ((y.mode ≠ 1 ∨ y.on = false ∨ y.prog = false ∨ y.good = 0 ∨ y.good * 1000 < y.holdMs * x.rateHz ∨
        s.slotRuns g.val k.val = false ∨ x.clockLost = true) → exec (.bypassReleaseHold g k) s = .next s)) ∧
  (∀ (s : State) (g : Fin 16) (x : AGroup), x = s.group g.val → s.members g.val ≠ [] → s.dev.audioPinsOn = true →
    (x.master = false → x.clockLost = false → ∃ t : State, exec (.audioClockLoss g) s = .next t ∧
      t.group g.val = { x with clockLost := true, returned := false } ∧
      (∀ n ∈ s.members g.val, t.aport n = { s.aport n with clockLost := true }) ∧
      (∀ n : Nat, n ∉ s.members g.val → t.aport n = s.aport n) ∧ t.mem = s.mem ∧ t.streams = s.streams) ∧
    (x.clockLost = true → ∃ t : State, exec (.audioClockReturn g) s = .next t ∧
      t.group g.val = { x with clockLost := false, returned := true } ∧
      (∀ n ∈ s.members g.val, t.aport n = { s.aport n with clockLost := false }) ∧ t.mem = s.mem ∧ t.streams = s.streams) ∧
    (x.clockLost = false → exec (.audioClockReturn g) s = .next s)) ∧
  (∀ (s : State) (g : Fin 16), ((s.group g.val).master = true ∨ (s.group g.val).clockLost = true ∨ s.members g.val = [] ∨
    s.dev.audioPinsOn = false) → exec (.audioClockLoss g) s = .next s) ∧
  (∀ (s : State) (n : Fin 16) (v : BitVec 28), (s.aport n.val).run = false → exec (.rateMeasurement n v) s = .next s) ∧
  (∀ (s : State) (n : Fin 16) (p : APort) (v : BitVec 28), p = s.aport n.val → p.run = true →
    (p.reference = none → exec (.rateMeasurement n v) s = .next (s.setAport n.val { p with rate := v, reference := some v })) ∧
    (∀ r : BitVec 28, p.reference = some r →
      (((v.toNat - r.toNat) + (r.toNat - v.toNat)) * 10000 ≤ p.thresh * r.toNat →
        exec (.rateMeasurement n v) s = .next (s.setAport n.val { p with rate := v })) ∧
      (p.thresh * r.toNat < ((v.toNat - r.toNat) + (r.toNat - v.toNat)) * 10000 → exec (.rateMeasurement n v) s =
        .next ((s.setAport n.val { p with rate := v, reference := some v }).portEvent n.val 0x8601 none
          [b4 v.toNat, b4 r.toNat])))) ∧
  (∀ (s : State) (g : Fin 16), ((s.group g.val).enable = false ∨ (s.group g.val).master = false) →
    exec (.heliostatUpdate g) s = .next s) ∧
  (∀ (s : State) (g : Fin 16) (x : AGroup), x = s.group g.val → x.enable = true → x.master = true →
    (2 ^ x.updateLog2 ≤ x.levelCnt → ∃ t : State, exec (.heliostatUpdate g) s = .next t ∧ t.group g.val = x.steerUpdate.1 ∧
      (t.group g.val).levelSum = 0 ∧ (t.group g.val).levelCnt = 0 ∧ -20000 ≤ (t.group g.val).steer ∧
      (t.group g.val).steer ≤ 20000 ∧ OnlySent (s.setGroup g.val x.steerUpdate.1) t) ∧
    (x.levelCnt < 2 ^ x.updateLog2 → exec (.heliostatUpdate g) s = .next s))

/-- A core's tag control register takes the value written; the control registers of scrubbing, network ports, audio
ports and groups take each field that holds no reserved encoding and keep the others, the audio ones only while no
member runs; ones clear NaN identity, LOST and the last memory error, zeros leave them; the doorbell register rings a
mailbox; status registers ignore writes; a mask write stores a legal SHADOW and commits it with COMMIT; HELIO takes
ENABLE, SLOT and TARGET at any time, the gains and SLEW only while no member runs, and never STEER. A W1C bit that
hardware sets in the cycle of the write that clears it ends set, before a trap of the NaN acts (R118) where the
context traps. -/
def Obligations.RegisterWritesActAsTheirMapSays : Prop :=
  (∀ (s : State) (c : Fin 1536) (v : W64) (a : DevAddr), a.toNat = coreWin c.val + 0xF0200 →
    exec (.registerWrite a v) s = .next (s.setCore c.val { s.core c.val with tagCtl := v })) ∧
  (∀ (s : State) (a : DevAddr) (v : W64), (a.toNat % 8 ≠ 0 ∨
      ((∀ n off : Nat, regionOf a.toNat ≠ .core n off) ∧ ∀ off : Nat, regionOf a.toNat ≠ .control off)) →
    exec (.registerWrite a v) s = .next s) ∧
  (∀ (s : State) (a : DevAddr) (v : W64), a.toNat = ctlBase + 0x10018 → ∃ w : W64,
    exec (.registerWrite a v) s = .next { s with health := { s.health with scrubCtl := w } } ∧
    bits w.toNat 62 2 = bits v.toNat 62 2 ∧ bits w.toNat 4 58 = bits s.health.scrubCtl.toNat 4 58 ∧
    bits w.toNat 0 4 = (if 8 ≤ bits v.toNat 0 4 ∧ bits v.toNat 0 4 ≤ 14 then bits v.toNat 0 4 else bits s.health.scrubCtl.toNat 0 4)) ∧
  (∀ (s : State) (p : Fin 4) (a : DevAddr) (v : W64) (x : Port), x = s.port p.val → a.toNat = ctlBase + 0x30000 + 16 * p.val →
    ∃ w : W64, exec (.registerWrite a v) s = .next (s.setPort p.val { x with ctl := w }) ∧
      bits w.toNat 62 2 = (if bits v.toNat 62 2 = 3 then bits x.ctl.toNat 62 2 else bits v.toNat 62 2) ∧
      bits w.toNat 53 9 = bits v.toNat 53 9 ∧ bits w.toNat 48 5 = bits x.ctl.toNat 48 5 ∧ bits w.toNat 0 32 = bits x.ctl.toNat 0 32 ∧
      bits w.toNat 32 16 = (if bits v.toNat 32 16 = 0 then bits x.ctl.toNat 32 16 else bits v.toNat 32 16)) ∧
  (∀ (s : State) (n : Fin 16) (a : DevAddr) (v : W64) (x : APort) (clash : Bool), x = s.aport n.val →
    a.toNat = ctlBase + 0x20000 + 16 * n.val →
    clash = (List.range 16).any (fun j => j != n.val && (s.aport j).groupNo == bits v.toNat 60 4 && (s.aport j).member == bits v.toNat 57 3) →
    ((s.groupRuns x.groupNo = true ∨ s.groupRuns (bits v.toNat 60 4) = true) → exec (.registerWrite a v) s = .next s) ∧
    (s.groupRuns x.groupNo = false → s.groupRuns (bits v.toNat 60 4) = false → ∃ w : W64,
      exec (.registerWrite a v) s = .next (s.setAport n.val { x with ctl := w }) ∧
      bits w.toNat 57 7 = (if clash then bits x.ctl.toNat 57 7 else bits v.toNat 57 7) ∧ bits w.toNat 56 1 = bits v.toNat 56 1 ∧
      bits w.toNat 48 8 = (if bits v.toNat 48 8 = 0 then bits x.ctl.toNat 48 8 else bits v.toNat 48 8) ∧
      bits w.toNat 0 48 = bits x.ctl.toNat 0 48)) ∧
  (∀ (s : State) (g : Fin 16) (a : DevAddr) (v : W64) (x : AGroup), x = s.group g.val → a.toNat = ctlBase + 0x20100 + 32 * g.val →
    (s.groupRuns g.val = true → exec (.registerWrite a v) s = .next s) ∧
    (s.groupRuns g.val = false → ∃ w : W64, exec (.registerWrite a v) s = .next (s.setGroup g.val { x with ctl := w }) ∧
      bits w.toNat 46 18 = (if 8000 ≤ bits v.toNat 46 18 ∧ bits v.toNat 46 18 ≤ 192000 then bits v.toNat 46 18 else bits x.ctl.toNat 46 18) ∧
      bits w.toNat 45 1 = bits v.toNat 45 1 ∧ bits w.toNat 38 4 = bits v.toNat 38 4 ∧ bits w.toNat 24 8 = bits v.toNat 24 8 ∧
      (bits v.toNat 42 1 = 1 → bits v.toNat 43 2 ≠ 0 → bits w.toNat 42 3 = bits x.ctl.toNat 42 3) ∧
      ((bits v.toNat 42 1 = 0 ∨ bits v.toNat 43 2 = 0) → bits w.toNat 42 1 = bits v.toNat 42 1 ∧
        bits w.toNat 43 2 = if bits v.toNat 43 2 = 3 then bits x.ctl.toNat 43 2 else bits v.toNat 43 2) ∧
      bits w.toNat 32 6 = bits x.ctl.toNat 32 6 ∧ bits w.toNat 0 14 = bits x.ctl.toNat 0 14 ∧
      bits w.toNat 14 10 = (if 5 ≤ bits v.toNat 14 10 ∧ bits v.toNat 14 10 ≤ 500 then bits v.toNat 14 10 else bits x.ctl.toNat 14 10))) ∧
  (∀ (s : State) (c : Fin 1536) (v : W64),
    (v.getLsbD 63 = true → exec (.nanIdClear c v none) s =
      .next (s.setCore c.val { s.core c.val with nanId := 0, nanStep := 0 })) ∧
    (v.getLsbD 63 = false → exec (.nanIdClear c v none) s = .next (s.setCore c.val (s.core c.val)))) ∧
  (∀ (s : State) (v : W64) (m : Fin 64), ∃ t : State, exec (.mbxLostClear v 0) s = .next t ∧ t = { s with mbx := t.mbx } ∧
    t.mail m.val = { s.mail m.val with lost := (s.mail m.val).lost && !v.getLsbD m.val }) ∧
  (∀ (s : State) (v : W64),
    (v.getLsbD 63 = true → exec (.memErrLastClear v none) s = .next { s with health := { s.health with last := 0 } }) ∧
    (v.getLsbD 63 = false → exec (.memErrLastClear v none) s = .next s)) ∧
  (∀ (s : State) (a : DevAddr) (v : W64), a.toNat = ctlBase + 0x1000 →
    exec (.registerWrite a v) s = .next (s.ringDoorbell (Fin.ofNat 64 (v.toNat % 64)))) ∧
  (∀ (s : State) (a : DevAddr) (v : W64), a.toNat = ctlBase ∨ a.toNat = ctlBase + 8 ∨ a.toNat = ctlBase + 0x1008 ∨
    a.toNat = ctlBase + 0x10000 ∨ a.toNat = ctlBase + 0x40000 ∨ a.toNat = ctlBase + 0x50000 ∨ a.toNat = ctlBase + 0x50008 →
    exec (.registerWrite a v) s = .next s) ∧
  (∀ (s : State) (g : Fin 16) (v : W64) (x : AGroup) (n : Nat), x = s.group g.val → n = v.toNat / 2 ^ 48 % 2 ^ 16 →
    (s.maskOk g.val n = true → exec (.audMaskCommit g v) s = .next (s.setGroup g.val { x with
      shadow := BitVec.ofNat 16 n, pending := if v.getLsbD 0 then some (BitVec.ofNat 16 n) else x.pending })) ∧
    (s.maskOk g.val n = false → exec (.audMaskCommit g v) s = .next (s.setGroup g.val { x with
      pending := if v.getLsbD 0 then some x.shadow else x.pending }))) ∧
  (∀ (s : State) (g : Fin 16) (v : W64), ∃ t : State, exec (.audHelioWrite g v) s = .next t ∧
    (t.group g.val).enable = v.getLsbD 63 ∧ (t.group g.val).steerSlot = bits v.toNat 42 4 ∧
    (t.group g.val).target = (if 64 ≤ bits v.toNat 29 13 ∧ bits v.toNat 29 13 ≤ 4000 then bits v.toNat 29 13
      else (s.group g.val).target) ∧
    (t.group g.val).integ = (if bits v.toNat 42 4 = (s.group g.val).steerSlot then (s.group g.val).integ else 0) ∧
    (s.groupRuns g.val = true → (t.group g.val).kp = (s.group g.val).kp ∧ (t.group g.val).ki = (s.group g.val).ki ∧
      (t.group g.val).slew = (s.group g.val).slew ∧ (t.group g.val).updateLog2 = (s.group g.val).updateLog2) ∧
    (s.groupRuns g.val = false → (t.group g.val).kp = bits v.toNat 21 8 ∧ (t.group g.val).ki = bits v.toNat 13 8 ∧
      (t.group g.val).slew = bits v.toNat 5 8 ∧ (t.group g.val).updateLog2 =
        if 8 ≤ bits v.toNat 0 5 ∧ bits v.toNat 0 5 ≤ 16 then bits v.toNat 0 5 else (s.group g.val).updateLog2) ∧
    (t.group g.val).steer = (s.group g.val).steer ∧ (t.group g.val).frame = (s.group g.val).frame ∧ t.mem = s.mem) ∧
  (∀ (s : State) (v raced : W64) (m : Fin 64), ∃ t : State, exec (.mbxLostClear v raced) s = .next t ∧
    ((t.mail m.val).lost = true ↔ raced.getLsbD m.val = true ∨ (s.mail m.val).lost = true ∧ v.getLsbD m.val = false)) ∧
  (∀ (s : State) (v : W64) (e : MemError), ∃ t : State, exec (.memErrLastClear v (some e)) s = .next t ∧
    t.health.last.getLsbD 63 = true) ∧
  (∀ (s : State) (c : Fin 1536) (v : W64) (id : NanIdent),
    ∃ t : State, exec (.nanIdClear c v (some id)) s = .next (t.trapHalt c.val) ∧ (t.core c.val).nanId.getLsbD 63 = true ∧
      ((∀ x : Context, (s.core c.val).ctx.bind (fun k => s.ctx? k.toNat) = some x → x.trap = false) → (s.core c.val).trapDue = none →
        t.trapHalt c.val = t))

/-- Power start is a cold reset into ROM_BOOT unless a trip is latched; a failing input leaves OFF with volatile
contents lost; a measurement stores input voltage and mean power and sets the limiter above 1,400 W, clears it below
1,350 W; the limiter lowers every core by 25 MHz a step down to 200 MHz and gives back 1 MHz a step; below the cap no
miss, no floor and no closed admission remain and clocks only rise; above it the first cores in the order of R40 are
lowered, none below its floor; with no clock left to lower the miss is marked, Vermilion floors are reported and their
partitions admit no new streams. How far Lortus moves a clock is free (log 18). An OFF device does none of it. -/
def Obligations.PowerAndClocksFollowMeasurements : Prop :=
  (∀ s : State, (s.dev.mode = .off → s.dev.tripLatched = false → ∃ t : State, exec .powerStart s = .next t ∧
      t.dev.mode = .romBoot ∧ t.dev.resetKind = 0 ∧ t.dev.resetSource = 0 ∧ t.now = s.now ∧ t.flash.cfg = s.flash.cfg) ∧
    (s.dev.mode ≠ .off ∨ s.dev.tripLatched = true → exec .powerStart s = .next s)) ∧
  (∀ s : State, (s.dev.mode ≠ .off → ∃ t : State, exec .powerFail s = .next t ∧ t.dev.mode = .off ∧ t.mem = [] ∧
      t.dev.pwrGood = false ∧ t.parts = [] ∧ t.ctxs = [] ∧ t.streams = [] ∧ t.qps = [] ∧ t.bells = [] ∧ t.flash.ops = []) ∧
    (s.dev.mode = .off → exec .powerFail s = .next { s with dev := { s.dev with tripLatched := false, thermtripN := true } })) ∧
  (∀ (s : State) (a b mv : Nat), (s.dev.mode = .off → exec (.powerMeasure a b mv) s = .next s) ∧
    (s.dev.mode ≠ .off → ∃ t : State, exec (.powerMeasure a b mv) s = .next t ∧
      t = { s with pwr := t.pwr } ∧ t.pwr.powerW.toNat = min b 4095 ∧ t.pwr.inputMv.toNat = min mv 65535 ∧
      (1400 < a → t.pwr.limiter = true) ∧ (a < 1350 → t.pwr.limiter = false) ∧
      (1350 ≤ a → a ≤ 1400 → t.pwr.limiter = s.pwr.limiter) ∧ t.pwr.capW = s.pwr.capW ∧ t.pwr.stage = s.pwr.stage)) ∧
  (∀ s : State, (s.dev.mode = .off → exec .limiterStep s = .next s) ∧ (s.dev.mode ≠ .off →
    (s.pwr.limiter = true → ∃ t : State, exec .limiterStep s = .next t ∧
      (∀ c : Nat, c < 1536 → (t.core c).limLimit = some (max 200 ((s.core c).clockMhz - 25)) ∧
        (t.core c).pc = (s.core c).pc ∧ (t.core c).targetMhz = (s.core c).targetMhz) ∧ t.mem = s.mem) ∧
    (s.pwr.limiter = false → ∃ t : State, exec .limiterStep s = .next t ∧ t = { s with cores := t.cores } ∧
      (∀ c l : Nat, (s.core c).limLimit = some l →
        (t.core c).limLimit = (if (s.core c).targetMhz ≤ l + 1 then none else some (l + 1))) ∧
      ∀ c : Nat, (s.core c).limLimit = none → t.core c = s.core c))) ∧
  (∀ s : State, s.dev.mode.code < 3 → exec .powerCapCheck s = .next s) ∧
  (∀ s : State, 3 ≤ s.dev.mode.code → s.pwr.capW = 0 ∨ s.pwr.powerW.toNat ≤ s.pwr.capW.toNat →
    ∃ t : State, exec .powerCapCheck s = .next t ∧ t.pwr = { s.pwr with capMiss := false } ∧ t.mem = s.mem ∧
      (∀ (p : Nat) (q : Partition), t.part? p = some q → q.noAdmit = false) ∧
      ∀ c : Nat, (t.core c).floorHeld = false ∧ (s.core c).targetMhz ≤ (t.core c).targetMhz ∧
        (t.core c).targetMhz ≤ max 800 (s.core c).targetMhz ∧
        (s.pwr.capW ≠ 0 ∨ s.pwr.lortusHot ≠ [] ∨ (s.core c).retirePending = true →
          (t.core c).targetMhz = (s.core c).targetMhz)) ∧
  (∀ s : State, 3 ≤ s.dev.mode.code → s.pwr.capW ≠ 0 → s.pwr.capW.toNat < s.pwr.powerW.toNat →
    ∃ t : State, exec .powerCapCheck s = .next t ∧ t.mem = s.mem ∧ s.LowersClocks t ∧
      ((∃ c : Nat, c < 1536 ∧ s.clockFloor c < (s.core c).targetMhz) → t.pwr = s.pwr) ∧
      ((∀ c : Nat, c < 1536 → (s.core c).targetMhz ≤ s.clockFloor c) → t.pwr = { s.pwr with capMiss := true } ∧
        (∀ c : Nat, c < 1536 → s.guarded c = true → (t.core c).floorHeld = true) ∧
        ∀ (p : Nat) (q : Partition), t.part? p = some q → (q.noAdmit = true ↔ 0 < s.countClass p 0)))

/-- An island at 115 degC or above, or at 110 degC for 10 ms, trips the device: OFF, latched, THERMTRIP_N low; any
other sample sets the stage by 95/93 degC and 105/103 degC and the stacks by 85 and 95 degC, and from 95 degC on
Lortus lowers the first clocks in the order of R40. A hot core steps down 50 MHz to no less than 200 MHz, no other
core changes; a cool one steps up half a MHz to its target. A latched trip with the coolant below 45 degC is released
by a cold reset with source 4 (R533 lists it so). A stopped reference is marked, the SerDes reference takes every MAC
down. An OFF device does none of it; it reads the coolant while a trip is latched. -/
def Obligations.TemperaturesAndReferencesAct : Prop :=
  (∀ (s : State) (x : TempSample), (s.dev.mode = .off → s.dev.tripLatched = false → exec (.thermalSample x) s = .next s) ∧
    (s.dev.mode = .off → s.dev.tripLatched = true → exec (.thermalSample x) s = .next { s with pwr := { s.pwr with coolant := x.coolant } }) ∧
    (s.dev.mode ≠ .off →
    ((∃ e ∈ sampleIslands x, 1150 ≤ e.2) ∨ (∃ e ∈ s.pwr.hot110, e.2.toNat + 10000000 ≤ s.time ∧
        ∀ v ∈ sampleIslands x, v.1 = e.1 → 1100 ≤ v.2) → ∃ t : State, exec (.thermalSample x) s = .next t ∧ t.dev.mode = .off ∧
      t.dev.tripLatched = true ∧ t.dev.thermtripN = false ∧ t.pwr.coolant = x.coolant ∧ t.mem = []) ∧
    ((∀ e ∈ sampleIslands x, e.2 < 1150) → (∀ e ∈ s.pwr.hot110, e.2.toNat + 10000000 ≤ s.time →
        ∃ v ∈ sampleIslands x, v.1 = e.1 ∧ v.2 < 1100) → ∃ t : State, exec (.thermalSample x) s = .next t ∧
      t.dev = s.dev ∧ t.mem = s.mem ∧ t.pwr.coolant = x.coolant ∧ t.pwr.hubTemp = x.hub ∧ t.pwr.limiter = s.pwr.limiter ∧
      (∀ e ∈ sampleIslands x, (950 ≤ e.2 ∨ (e.1 ∈ s.pwr.lortusHot ∧ 930 < e.2) → e.1 ∈ t.pwr.lortusHot) ∧
        (e.1 < 4000 → 1050 ≤ e.2 ∨ (e.1 ∈ s.pwr.throttled ∧ 1030 < e.2) → e.1 ∈ t.pwr.throttled) ∧
        ((∀ v ∈ sampleIslands x, v.1 = e.1 → v.2 ≤ 930 ∨ (e.1 ∉ s.pwr.lortusHot ∧ v.2 < 950)) → e.1 ∉ t.pwr.lortusHot) ∧
        (e.1 < 4000 → (∀ v ∈ sampleIslands x, v.1 = e.1 → v.2 ≤ 1030 ∨ (e.1 ∉ s.pwr.throttled ∧ v.2 < 1050)) →
          e.1 ∉ t.pwr.throttled)) ∧
      (∀ n : Nat, (4000 + n ∈ t.pwr.throttled ↔ ∃ h : Int, x.hbmStacks[n]? = some h ∧ 950 ≤ h) ∧
        (4000 + n ∈ t.pwr.refresh2 ↔ ∃ h : Int, x.hbmStacks[n]? = some h ∧ 850 ≤ h)) ∧
      t.pwr.stage = (if t.pwr.throttled ≠ [] then 2 else if t.pwr.lortusHot ≠ [] then 1 else 0) ∧
      (t.pwr.lortusHot = [] ∨ s.dev.mode.code < 3 → t.cores = s.cores) ∧
      (t.pwr.lortusHot ≠ [] → 3 ≤ s.dev.mode.code → s.LowersClocks t)))) ∧
  (∀ (s : State) (c : Fin 1536) (k : Core), k = s.core c.val →
    (s.dev.mode = .off → exec (.thermalThrottleStep c) s = .next s) ∧ (s.dev.mode ≠ .off →
    (s.coreHot c.val = true → ∃ t : State, exec (.thermalThrottleStep c) s = .next t ∧
      (t.core c.val).thermHalf = some (max 400 (min (k.thermHalf.getD (2 * k.clockMhz)) (2 * k.clockMhz) - 100)) ∧
      (∀ j : Nat, j ≠ c.val → t.core j = s.core j) ∧ t.mem = s.mem) ∧
    (s.coreHot c.val = false → (s.coreCool c.val = false ∨ k.thermHalf = none → exec (.thermalThrottleStep c) s = .next s) ∧
      (s.coreCool c.val = true → ∀ h : Nat, k.thermHalf = some h →
        ∃ t : State, exec (.thermalThrottleStep c) s = .next t ∧ t = { s with cores := t.cores } ∧
          (t.core c.val).thermHalf = (if 2 * k.targetMhz ≤ h + 1 then none else some (h + 1)) ∧
          (∀ j : Nat, j ≠ c.val → t.core j = s.core j))))) ∧
  (∀ s : State,
    (s.dev.mode = .off → s.dev.tripLatched = true → s.pwr.coolant < 450 → ∃ t : State, exec .thermalTripRelease s = .next t ∧
      t.dev.mode = .romBoot ∧ t.dev.tripLatched = false ∧ t.dev.thermtripN = true ∧ t.dev.resetSource = 4) ∧
    (s.dev.mode ≠ .off ∨ s.dev.tripLatched = false ∨ 450 ≤ s.pwr.coolant → exec .thermalTripRelease s = .next s)) ∧
  (∀ s : State, (s.dev.mode = .off → exec .systemReferenceLost s = .next s ∧ exec .systemReferenceReturn s = .next s ∧
      exec .serdesReferenceLost s = .next s ∧ exec .serdesReferenceReturn s = .next s) ∧ (s.dev.mode ≠ .off →
    exec .systemReferenceLost s = .next { s with pwr := { s.pwr with refLost := true } } ∧
    exec .systemReferenceReturn s = .next { s with pwr := { s.pwr with refLost := false } } ∧
    exec .serdesReferenceReturn s = .next { s with pwr := { s.pwr with serdesLost := false } } ∧
    ∃ t : State, exec .serdesReferenceLost s = .next t ∧ t.pwr.serdesLost = true ∧ t.mem = s.mem ∧
      ∀ m : Nat, m < 16 → (t.mac m).up = false))

/-- RESET_N is a cold reset, WARM_N a warm one after the first READY, both into ROM_BOOT with partitions, contexts,
streams and queue pairs gone; DRAM contents below the cluster windows, flash and the cycle counter stay; a warm reset
keeps the error counts. The ROM starts the TRIAL or ACTIVE slot that passes, else the other, else FAULT_N goes low.
FW_LOAD resolves the journal and ends in INIT with the CURRENT version's device section applied, or that of the newest
loadable HISTORY version, or FAULTED 2 (journal) or 1 (no version); INIT ends in READY and a TRIAL image becomes
ACTIVE. -/
def Obligations.ResetsAndStartUpTakeTheirCourse : Prop :=
  (∀ s : State, (s.dev.mode = .off → exec .resetNAssert s = .next s ∧ exec .warmNAssert s = .next s) ∧ (s.dev.mode ≠ .off →
    (∃ t : State, exec .resetNAssert s = .next t ∧ t.dev.mode = .romBoot ∧ t.dev.resetKind = 0 ∧ t.dev.resetSource = 1 ∧
      t.parts = [] ∧ t.ctxs = [] ∧ t.streams = [] ∧ t.qps = [] ∧ t.now = s.now ∧ t.flash.ops = [] ∧
      (s.flash.ops = [] → t.flash.cfg = s.flash.cfg) ∧ ∀ a : Nat, a < clusterBase → memGet t.mem a = memGet s.mem a) ∧
    (∃ t : State, exec .warmNAssert s = .next t ∧ t.dev.mode = .romBoot ∧ t.dev.resetSource = 3 ∧ t.parts = [] ∧ t.qps = [] ∧
      t.dev.resetKind = (if s.dev.reachedReady then 1 else 0) ∧ t.dev.powerNs = s.dev.powerNs ∧
      (s.dev.reachedReady = true → t.health.ceCnt = s.health.ceCnt ∧ t.health.last = s.health.last) ∧
      (s.dev.reachedReady = false → t.health.ceCnt = 0 ∧ t.health.last = 0)))) ∧
  (∀ s : State, (s.dev.mode ≠ .romBoot ∨ s.dev.faultN = false → exec .romBoot s = .next s) ∧
    (s.dev.mode = .romBoot → s.dev.faultN = true → ∀ b : Bool, b = s.flash.bootRec.trial.getD s.flash.bootRec.active →
      (s.slotPasses b = true → ∃ t : State, exec .romBoot s = .next t ∧ t.dev.mode = .fwLoad ∧ t.sec.running = some b ∧
        t.sec.trialRun = s.flash.bootRec.trial.isSome ∧ t.sec.secVersion = fwSec (s.flash.fw b).bytes ∧ t.mem = s.mem ∧
        t.flash = (if s.flash.bootRec.trial.isSome then s.flash.setBoot s.flash.bootRec.active none else s.flash)) ∧
      (s.slotPasses b = false → s.slotPasses (!b) = true → ∃ t : State, exec .romBoot s = .next t ∧ t.dev.mode = .fwLoad ∧
        t.sec.running = some (!b) ∧ t.sec.trialRun = false ∧ t.flash = s.flash.setBoot (!b) none ∧ t.mem = s.mem) ∧
      (s.slotPasses b = false → s.slotPasses (!b) = false →
        exec .romBoot s = .next { s with dev := { s.dev with faultN := false } }))) ∧
  (∀ s : State, (s.dev.mode ≠ .fwLoad → exec .fwLoadComplete s = .next s) ∧ (s.dev.mode = .fwLoad →
    (s.flash.journalOk = false → ∃ t : State, exec .fwLoadComplete s = .next t ∧ t.dev.mode = .faulted ∧ t.dev.faultCause = 2 ∧
      t.flash = s.flash) ∧
    (∀ r : State, s.flash.journalOk = true → r = { s with flash := s.flash.resolve } →
      (∀ (k : Fin 8) (c : CfgSlot), r.currentSlot = some (k, c) →
        (digestOk c.image = true → ∃ t : State, exec .fwLoadComplete s = .next t ∧ t.dev.mode = .init ∧
          t.dev.deviceNo = BitVec.ofNat 13 (le (deviceSect c.image) 0 2) ∧
          t.pwr.capW = BitVec.ofNat 12 (le (deviceSect c.image) 2 2) ∧ t.dev.audioPinsOn = true ∧ t.flash.cfg = r.flash.cfg) ∧
        (digestOk c.image = false → ∀ (j : Fin 8) (v : CfgSlot), v = r.flash.cfg.get j → v.state = .history →
          digestOk v.image = true → (∀ i : Fin 8, (r.flash.cfg.get i).state = .history → digestOk (r.flash.cfg.get i).image = true →
            (r.flash.cfg.get i).version.toNat < v.version.toNat ∨ ((r.flash.cfg.get i).version = v.version ∧ j ≤ i)) →
          ∃ t : State, exec .fwLoadComplete s = .next t ∧ t.dev.mode = .init ∧ t.dev.audioPinsOn = true ∧
            t.flash.cfg = (r.flash.cfg.set k CfgSlot.empty).set j { v with state := .current } ∧
            ∀ w : CfgSlot, t.currentCfg = some w → t.dev.deviceNo = BitVec.ofNat 13 (le (deviceSect w.image) 0 2)) ∧
        (digestOk c.image = false →
          (∀ i : Fin 8, (r.flash.cfg.get i).state = .history → digestOk (r.flash.cfg.get i).image = false) →
          ∃ t : State, exec .fwLoadComplete s = .next t ∧ t.dev.mode = .faulted ∧ t.dev.faultCause = 1)) ∧
      (r.currentSlot = none → ∃ t : State, exec .fwLoadComplete s = .next t ∧ t.dev.mode = .faulted ∧ t.dev.faultCause = 1)))) ∧
  (∀ (f : Flash) (x : JournalRec), f.journal.getLast? = some x →
    (x.kind = .prepare → f.resolve.journal = f.journal ++ [{ x with kind := .abandon }] ∧ f.resolve.cfg = f.cfg) ∧
    (x.kind = .seal → f.resolve.journal = f.journal ++ [{ x with kind := .done }] ∧
      f.resolve.cfg = (f.sealSlots x.slot x.prevSlot x.rollback).cfg) ∧
    (x.kind = .done ∨ x.kind = .abandon → f.resolve = f)) ∧
  (∀ s : State, (s.dev.mode ≠ .init → exec .initComplete s = .next s) ∧ (s.dev.mode = .init →
    ∃ t : State, exec .initComplete s = .next t ∧ t.dev.mode = .ready ∧ t.dev.reachedReady = true ∧ t.mem = s.mem ∧
    (∀ b : Bool, s.sec.trialRun = true → s.sec.running = some b → t.sec.trialRun = false ∧
      t.flash.ops = s.flash.ops ++ [.boot none b none]) ∧
    (s.sec.trialRun = false ∨ s.sec.running = none → t.flash = s.flash ∧ t.sec = s.sec)))

/-- The end of a flash write answers the command it belongs to, or begins the command's next write: a staged or
discarded version; a commit, whose PREPARE is followed by SEAL when the sections can be reserved and by ABANDON when
not, whose SEAL makes the version CURRENT and whose DONE answers OK; a firmware segment, the last one with the outcome
of its check; a boot record. A write that fails answers FLASH_ERROR and the change is not made; a failing SEAL is
abandoned, from SEAL on the commit completes whatever happens (R441), a failing DONE record too. -/
def Obligations.FlashWritesAnswerTheirCommands : Prop :=
  (∀ (s : State) (ok : Bool), s.flash.ops = [] → exec (.flashWriteDone ok) s = .next s) ∧
  (∀ (s t d : State) (o : FlashOp) (r : List FlashOp), s.flash.ops = o :: r → t = { s with flash := { s.flash with ops := r } } →
    d = t.flashDone o →
    (∀ (m : Fin 64) (k : Fin 8) (v : W32) (img : Bytes), o = .cfgStage m k v img →
      (∃ u : State, exec (.flashWriteDone true) s = .next u ∧
        Replied { t with flash := t.flash.unstage.setCfg k ⟨.staged, v, img⟩ } u m 0 0 (pack [b4 v.toNat, b1 k.val])) ∧
      ∃ u : State, exec (.flashWriteDone false) s = .next u ∧ Replied t u m stFlash 0 []) ∧
    (∀ (m : Fin 64) (k : Fin 8), o = .cfgFree m k →
      (∃ u : State, exec (.flashWriteDone true) s = .next u ∧
        Replied { t with flash := t.flash.setCfg k CfgSlot.empty } u m 0 0 []) ∧
      ∃ u : State, exec (.flashWriteDone false) s = .next u ∧ Replied t u m stFlash 0 []) ∧
    (∀ x : JournalRec, o = .journal x →
      (s.commit = none → exec (.flashWriteDone true) s = .next d ∧ exec (.flashWriteDone false) s = .next t) ∧
      (∀ c : Commit, s.commit = some c →
        (x.kind = .prepare →
          (∃ u : State, exec (.flashWriteDone false) s = .next u ∧ Replied { t with commit := none } u c.mbx stFlash 0 []) ∧
          ∃ u : State, exec (.flashWriteDone true) s = .next u ∧ u.flash.cfg = s.flash.cfg ∧
            u.flash.journal = s.flash.journal ++ [x] ∧
            (d.canReserve (s.flash.cfg.get c.slot).image = true → u.commit = some { c with phase := .seal } ∧
              u.flash.ops = r ++ [.journal (c.journalRec .seal)]) ∧
            (d.canReserve (s.flash.cfg.get c.slot).image = false → u.commit = some { c with phase := .abandon stNoResource } ∧
              u.flash.ops = r ++ [.journal (c.journalRec .abandon)])) ∧
        (x.kind = .seal →
          (∃ u : State, exec (.flashWriteDone false) s = .next u ∧ u.commit = some { c with phase := .abandon stFlash } ∧
            u.flash.ops = r ++ [.journal (c.journalRec .abandon)] ∧ u.flash.cfg = s.flash.cfg) ∧
          ∃ u : State, exec (.flashWriteDone true) s = .next u ∧
            u.flash.cfg = (s.flash.sealSlots c.slot c.prevSlot c.rollback).cfg ∧ u.flash.journal = s.flash.journal ++ [x]) ∧
        (x.kind = .abandon → ∀ st : Nat, (c.phase = .abandon st ∨ (st = stFlash ∧ ∀ y : Nat, c.phase ≠ .abandon y)) →
          (∃ u : State, exec (.flashWriteDone true) s = .next u ∧ Replied { d with commit := none } u c.mbx st 0 []) ∧
          ∃ u : State, exec (.flashWriteDone false) s = .next u ∧ Replied { t with commit := none } u c.mbx st 0 []) ∧
        (x.kind = .done →
          (∃ u : State, exec (.flashWriteDone true) s = .next u ∧
            Replied { d with commit := none } u c.mbx 0 0 (if c.rollback then b4 c.version.toNat else [])) ∧
          ∃ u : State, exec (.flashWriteDone false) s = .next u ∧
            Replied { t with commit := none } u c.mbx 0 0 (if c.rollback then b4 c.version.toNat else [])))) ∧
    (∀ (m : Fin 64) (b last : Bool) (off total : Nat) (data : Bytes) (y : FwSlot), o = .fwSegment m b off data total last →
      y = ⟨.receiving, (t.flash.fw b).bytes.take off ++ data, total⟩ →
      (∃ u : State, exec (.flashWriteDone false) s = .next u ∧
        Replied { t with flash := t.flash.setFw b ⟨.empty, [], 0⟩ } u m stFlash 0 []) ∧
      ∃ u : State, exec (.flashWriteDone true) s = .next u ∧
        (last = false → Replied { t with flash := t.flash.setFw b y } u m 0 0 (b4 y.bytes.length)) ∧
        (last = true → fwFault s.sec.rootKey s.sec.counter y.bytes total = none →
          Replied { t with flash := t.flash.setFw b { y with state := .verified } } u m 0 0 (b4 y.bytes.length)) ∧
        ∀ st : Nat, last = true → fwFault s.sec.rootKey s.sec.counter y.bytes total = some st →
          Replied { t with flash := t.flash.setFw b ⟨.empty, [], 0⟩ } u m st 0 []) ∧
    (∀ (m : Option (Fin 64)) (active : Bool) (trial : Option Bool), o = .boot m active trial →
      (m = none → exec (.flashWriteDone true) s = .next d ∧ exec (.flashWriteDone false) s = .next t) ∧
      (∀ n : Fin 64, m = some n →
        ((∃ p ∈ r, p.mbx = some n) ∨ s.sec.blowTo.map (·.2) = some n → exec (.flashWriteDone true) s = .next d) ∧
        ((∀ p ∈ r, p.mbx ≠ some n) → s.sec.blowTo.map (·.2) ≠ some n →
          ∃ u : State, exec (.flashWriteDone true) s = .next u ∧ Replied d u n 0 0 []) ∧
        ∃ u v : State, exec (.flashWriteDone false) s = .next u ∧ Replied v u n stFlash 0 [] ∧
          v = { t with flash := v.flash, sec := v.sec } ∧ (∀ p ∈ v.flash.ops, p.mbx ≠ some n) ∧ v.flash.cfg = s.flash.cfg)) ∧
    (∀ b : Bool, o = .fwEmpty b → d = { t with flash := t.flash.setFw b ⟨.empty, [], 0⟩ } ∧
      exec (.flashWriteDone true) s = .next d ∧
      (s.sec.blowTo = none → exec (.flashWriteDone false) s = .next t) ∧
      ∀ (v : Nat) (n : Fin 64), s.sec.blowTo = some (v, n) →
        ∃ u w : State, exec (.flashWriteDone false) s = .next u ∧ Replied w u n stFlash 0 [] ∧
          w = { t with flash := w.flash, sec := w.sec } ∧ w.sec.blowTo = none) ∧
    (∀ b : Bytes, o = .wear b → exec (.flashWriteDone true) s = .next d ∧ exec (.flashWriteDone false) s = .next t))

/-- State.reset has no partition, context, stream, queue pair or waiting command; mailboxes 0 to 3 are control's and
the others unassigned; error, check and replay registers, LOST and BUSY read zero; MEM.SCRUB.CTL, port and group
registers read the reset values of their maps; every core's NaN identity and tag control are zero. -/
def Obligations.ResetStateIsRomBoot : Prop :=
  State.reset.dev.mode = .romBoot ∧ State.reset.pending = [] ∧ State.reset.parts = [] ∧ State.reset.ctxs = [] ∧
  State.reset.streams = [] ∧ State.reset.qps = [] ∧ State.reset.bells = [] ∧
  (∀ m : Fin 64, State.reset.regOwner m.val = if m.val ≤ 3 then 16 else 31) ∧
  State.reset.ctlReg 0x1008 = 0 ∧ State.reset.ctlReg 0x1010 = 0 ∧ State.reset.ctlReg 0x10000 = 0 ∧ State.reset.ctlReg 0x10008 = 0 ∧
  State.reset.ctlReg 0x10010 = 0 ∧ State.reset.ctlReg 0x10018 = BitVec.ofNat 64 (2 ^ 63 + 2 ^ 62 + 12) ∧
  State.reset.ctlReg 0x40000 = 0 ∧ State.reset.ctlReg 0x40008 = 0 ∧ State.reset.ctlReg 0x50008 = 0 ∧
  (∀ n : Fin 16, bits (State.reset.ctlReg (0x20000 + 16 * n.val)).toNat 60 4 = n.val ∧
    bits (State.reset.ctlReg (0x20000 + 16 * n.val)).toNat 48 8 = 10 ∧ State.reset.ctlReg (0x20008 + 16 * n.val) = 0) ∧
  (∀ g : Fin 16, bits (State.reset.ctlReg (0x20100 + 32 * g.val)).toNat 46 18 = 48000 ∧
    State.reset.ctlReg (0x20108 + 32 * g.val) = 0 ∧ State.reset.ctlReg (0x20110 + 32 * g.val) = 0 ∧
    bits (State.reset.ctlReg (0x20118 + 32 * g.val)).toNat 29 13 = 2048) ∧
  (∀ p : Fin 4, bits (State.reset.ctlReg (0x30000 + 16 * p.val)).toNat 32 16 = 512 ∧
    bits (State.reset.ctlReg (0x30000 + 16 * p.val)).toNat 61 1 = 1 ∧ State.reset.ctlReg (0x30008 + 16 * p.val) = 0) ∧
  (∀ c : Fin 1536, (State.reset.core c.val).nanId = 0 ∧ (State.reset.core c.val).tagCtl = 0 ∧ (State.reset.core c.val).ctx = none)

/-- Addresses strictly rise and no listed byte is what an unlisted address reads as. That an unwritten byte reads zero
is the model's choice (log 5). -/
def Obligations.ResetMemoryIsCanonical : Prop :=
  Memory.wf State.reset.mem

/-- Whatever command stands in front of the queue, or none: if memory is canonical before a step it is canonical after
it, so equal memories are equal data in every state the device reaches. -/
def Obligations.MemoryStaysCanonical : Prop :=
  ∀ s t : State, Memory.wf s.mem → step s = .next t → Memory.wf t.mem

/-- No command of the table ends in a fault or a refusal: a failed check, a context fault, a wait and a case without
effect are next states. What each command does is said by the statements of its family. -/
def Obligations.EveryCommandCompletes : Prop :=
  ∀ (i : Instr) (s : State), ∃ t : State, exec i s = .next t
end

