-- ==== Sys2Proof/Laws/Tables.lean ====
section
/-! SUPPORT. Tables and bytes: what is written reads back, every other entry is unchanged. -/

namespace Sys2Proof.Machine

@[simp] theorem tabGet?_tabPut_same {α : Type} (t : Tab α) (i : Nat) (a : α) : tabGet? (tabPut t i a) i = some a := by
  induction t with
  | nil => simp [tabPut, tabGet?]
  | cons e r ih =>
    obtain ⟨j, b⟩ := e
    simp only [tabPut]
    split_ifs with h1 h2
    · simp [tabGet?]
    · simp [tabGet?]
    · have : ¬ j = i := fun h => h2 h.symm
      simp [tabGet?, this, ih]

theorem tabGet?_tabPut_ne {α : Type} (t : Tab α) {i k : Nat} (a : α) (h : k ≠ i) :
    tabGet? (tabPut t i a) k = tabGet? t k := by
  have hi : ¬ i = k := fun e => h e.symm
  induction t with
  | nil => simp [tabPut, tabGet?, hi]
  | cons e r ih =>
    obtain ⟨j, b⟩ := e
    simp only [tabPut]
    split_ifs with h1 h2
    · simp [tabGet?, hi]
    · subst h2; simp [tabGet?, hi]
    · simp [tabGet?, ih]

@[simp] theorem tabGet_tabPut_same {α : Type} (t : Tab α) (d : α) (i : Nat) (a : α) : tabGet (tabPut t i a) d i = a := by
  simp [tabGet]

theorem tabGet_tabPut_ne {α : Type} (t : Tab α) (d : α) {i k : Nat} (a : α) (h : k ≠ i) :
    tabGet (tabPut t i a) d k = tabGet t d k := by
  simp [tabGet, tabGet?_tabPut_ne t a h]

@[simp] theorem length_natToBytes (n v : Nat) : (natToBytes n v).length = n := by
  induction n generalizing v with
  | zero => rfl
  | succ n ih => simp [natToBytes, ih]

theorem bytesToNat_natToBytes (n v : Nat) (h : v < 256 ^ n) : bytesToNat (natToBytes n v) = v := by
  induction n generalizing v with
  | zero => simp at h; simp [natToBytes, bytesToNat, h]
  | succ n ih =>
    have h' : v / 256 < 256 ^ n := by
      rw [Nat.pow_succ] at h
      omega
    simp only [natToBytes, bytesToNat, ih _ h', BitVec.toNat_ofNat]
    omega

end Sys2Proof.Machine
end

