-- ==== Sys2Proof/Laws/State.lean ====
section
/-! SUPPORT. What each update of the state leaves alone, and reading back what it sets: one lemma a field. -/

namespace Sys2Proof.Machine

/-! ### setCore -/
@[simp] theorem State.setCore_pending (s : State) (n : Nat) (c : Core) : (s.setCore n c).pending = s.pending := rfl
@[simp] theorem State.setCore_freeCtr (s : State) (n : Nat) (c : Core) : (s.setCore n c).freeCtr = s.freeCtr := rfl
@[simp] theorem State.setCore_wire (s : State) (n : Nat) (c : Core) : (s.setCore n c).wire = s.wire := rfl
@[simp] theorem State.setCore_now (s : State) (n : Nat) (c : Core) : (s.setCore n c).now = s.now := rfl
@[simp] theorem State.setCore_mem (s : State) (n : Nat) (c : Core) : (s.setCore n c).mem = s.mem := rfl
@[simp] theorem State.setCore_badSpans (s : State) (n : Nat) (c : Core) : (s.setCore n c).badSpans = s.badSpans := rfl
@[simp] theorem State.setCore_lostPcs (s : State) (n : Nat) (c : Core) : (s.setCore n c).lostPcs = s.lostPcs := rfl
@[simp] theorem State.setCore_knownZero (s : State) (n : Nat) (c : Core) : (s.setCore n c).knownZero = s.knownZero := rfl
@[simp] theorem State.setCore_dev (s : State) (n : Nat) (c : Core) : (s.setCore n c).dev = s.dev := rfl
@[simp] theorem State.setCore_sup (s : State) (n : Nat) (c : Core) : (s.setCore n c).sup = s.sup := rfl
@[simp] theorem State.setCore_sec (s : State) (n : Nat) (c : Core) : (s.setCore n c).sec = s.sec := rfl
@[simp] theorem State.setCore_pwr (s : State) (n : Nat) (c : Core) : (s.setCore n c).pwr = s.pwr := rfl
@[simp] theorem State.setCore_flash (s : State) (n : Nat) (c : Core) : (s.setCore n c).flash = s.flash := rfl
@[simp] theorem State.setCore_commit (s : State) (n : Nat) (c : Core) : (s.setCore n c).commit = s.commit := rfl
@[simp] theorem State.setCore_mbx (s : State) (n : Nat) (c : Core) : (s.setCore n c).mbx = s.mbx := rfl
@[simp] theorem State.setCore_bells (s : State) (n : Nat) (c : Core) : (s.setCore n c).bells = s.bells := rfl
@[simp] theorem State.setCore_mbxEpoch (s : State) (n : Nat) (c : Core) : (s.setCore n c).mbxEpoch = s.mbxEpoch := rfl
@[simp] theorem State.setCore_mirrorEpoch (s : State) (n : Nat) (c : Core) : (s.setCore n c).mirrorEpoch = s.mirrorEpoch := rfl
@[simp] theorem State.setCore_rings (s : State) (n : Nat) (c : Core) : (s.setCore n c).rings = s.rings := rfl
@[simp] theorem State.setCore_idleIslands (s : State) (n : Nat) (c : Core) : (s.setCore n c).idleIslands = s.idleIslands := rfl
@[simp] theorem State.setCore_spares (s : State) (n : Nat) (c : Core) : (s.setCore n c).spares = s.spares := rfl
@[simp] theorem State.setCore_clusters (s : State) (n : Nat) (c : Core) : (s.setCore n c).clusters = s.clusters := rfl
@[simp] theorem State.setCore_quads (s : State) (n : Nat) (c : Core) : (s.setCore n c).quads = s.quads := rfl
@[simp] theorem State.setCore_health (s : State) (n : Nat) (c : Core) : (s.setCore n c).health = s.health := rfl
@[simp] theorem State.setCore_parts (s : State) (n : Nat) (c : Core) : (s.setCore n c).parts = s.parts := rfl
@[simp] theorem State.setCore_ctxs (s : State) (n : Nat) (c : Core) : (s.setCore n c).ctxs = s.ctxs := rfl
@[simp] theorem State.setCore_streams (s : State) (n : Nat) (c : Core) : (s.setCore n c).streams = s.streams := rfl
@[simp] theorem State.setCore_closeCtr (s : State) (n : Nat) (c : Core) : (s.setCore n c).closeCtr = s.closeCtr := rfl
@[simp] theorem State.setCore_aports (s : State) (n : Nat) (c : Core) : (s.setCore n c).aports = s.aports := rfl
@[simp] theorem State.setCore_agroups (s : State) (n : Nat) (c : Core) : (s.setCore n c).agroups = s.agroups := rfl
@[simp] theorem State.setCore_ports (s : State) (n : Nat) (c : Core) : (s.setCore n c).ports = s.ports := rfl
@[simp] theorem State.setCore_macs (s : State) (n : Nat) (c : Core) : (s.setCore n c).macs = s.macs := rfl
@[simp] theorem State.setCore_qps (s : State) (n : Nat) (c : Core) : (s.setCore n c).qps = s.qps := rfl
@[simp] theorem State.setCore_deadQps (s : State) (n : Nat) (c : Core) : (s.setCore n c).deadQps = s.deadQps := rfl
@[simp] theorem State.setCore_lastEpochs (s : State) (n : Nat) (c : Core) : (s.setCore n c).lastEpochs = s.lastEpochs := rfl
@[simp] theorem State.setCore_cc (s : State) (n : Nat) (c : Core) : (s.setCore n c).cc = s.cc := rfl
@[simp] theorem State.setCore_mgmt (s : State) (n : Nat) (c : Core) : (s.setCore n c).mgmt = s.mgmt := rfl
@[simp] theorem State.setCore_poolLow (s : State) (n : Nat) (c : Core) : (s.setCore n c).poolLow = s.poolLow := rfl
@[simp] theorem State.setCore_archHeld (s : State) (n : Nat) (c : Core) : (s.setCore n c).archHeld = s.archHeld := rfl
@[simp] theorem State.setCore_tests (s : State) (n : Nat) (c : Core) : (s.setCore n c).tests = s.tests := rfl
@[simp] theorem State.setCore_nextTest (s : State) (n : Nat) (c : Core) : (s.setCore n c).nextTest = s.nextTest := rfl
@[simp] theorem State.setCore_core_same (s : State) (n : Nat) (c : Core) : (s.setCore n c).core n = c := by
  simp [State.setCore, State.core]
theorem State.setCore_core_ne (s : State) {n k : Nat} (c : Core) (h : k ≠ n) : (s.setCore n c).core k = s.core k := by
  simp [State.setCore, State.core, tabGet_tabPut_ne _ _ _ h]

/-! ### setStream -/
@[simp] theorem State.setStream_pending (s : State) (i : Nat) (x : Stream) : (s.setStream i x).pending = s.pending := rfl
@[simp] theorem State.setStream_freeCtr (s : State) (i : Nat) (x : Stream) : (s.setStream i x).freeCtr = s.freeCtr := rfl
@[simp] theorem State.setStream_wire (s : State) (i : Nat) (x : Stream) : (s.setStream i x).wire = s.wire := rfl
@[simp] theorem State.setStream_now (s : State) (i : Nat) (x : Stream) : (s.setStream i x).now = s.now := rfl
@[simp] theorem State.setStream_mem (s : State) (i : Nat) (x : Stream) : (s.setStream i x).mem = s.mem := rfl
@[simp] theorem State.setStream_badSpans (s : State) (i : Nat) (x : Stream) : (s.setStream i x).badSpans = s.badSpans := rfl
@[simp] theorem State.setStream_lostPcs (s : State) (i : Nat) (x : Stream) : (s.setStream i x).lostPcs = s.lostPcs := rfl
@[simp] theorem State.setStream_knownZero (s : State) (i : Nat) (x : Stream) : (s.setStream i x).knownZero = s.knownZero := rfl
@[simp] theorem State.setStream_dev (s : State) (i : Nat) (x : Stream) : (s.setStream i x).dev = s.dev := rfl
@[simp] theorem State.setStream_sup (s : State) (i : Nat) (x : Stream) : (s.setStream i x).sup = s.sup := rfl
@[simp] theorem State.setStream_sec (s : State) (i : Nat) (x : Stream) : (s.setStream i x).sec = s.sec := rfl
@[simp] theorem State.setStream_pwr (s : State) (i : Nat) (x : Stream) : (s.setStream i x).pwr = s.pwr := rfl
@[simp] theorem State.setStream_flash (s : State) (i : Nat) (x : Stream) : (s.setStream i x).flash = s.flash := rfl
@[simp] theorem State.setStream_commit (s : State) (i : Nat) (x : Stream) : (s.setStream i x).commit = s.commit := rfl
@[simp] theorem State.setStream_mbx (s : State) (i : Nat) (x : Stream) : (s.setStream i x).mbx = s.mbx := rfl
@[simp] theorem State.setStream_bells (s : State) (i : Nat) (x : Stream) : (s.setStream i x).bells = s.bells := rfl
@[simp] theorem State.setStream_mbxEpoch (s : State) (i : Nat) (x : Stream) : (s.setStream i x).mbxEpoch = s.mbxEpoch := rfl
@[simp] theorem State.setStream_mirrorEpoch (s : State) (i : Nat) (x : Stream) : (s.setStream i x).mirrorEpoch = s.mirrorEpoch := rfl
@[simp] theorem State.setStream_rings (s : State) (i : Nat) (x : Stream) : (s.setStream i x).rings = s.rings := rfl
@[simp] theorem State.setStream_cores (s : State) (i : Nat) (x : Stream) : (s.setStream i x).cores = s.cores := rfl
@[simp] theorem State.setStream_idleIslands (s : State) (i : Nat) (x : Stream) : (s.setStream i x).idleIslands = s.idleIslands := rfl
@[simp] theorem State.setStream_spares (s : State) (i : Nat) (x : Stream) : (s.setStream i x).spares = s.spares := rfl
@[simp] theorem State.setStream_clusters (s : State) (i : Nat) (x : Stream) : (s.setStream i x).clusters = s.clusters := rfl
@[simp] theorem State.setStream_quads (s : State) (i : Nat) (x : Stream) : (s.setStream i x).quads = s.quads := rfl
@[simp] theorem State.setStream_health (s : State) (i : Nat) (x : Stream) : (s.setStream i x).health = s.health := rfl
@[simp] theorem State.setStream_parts (s : State) (i : Nat) (x : Stream) : (s.setStream i x).parts = s.parts := rfl
@[simp] theorem State.setStream_ctxs (s : State) (i : Nat) (x : Stream) : (s.setStream i x).ctxs = s.ctxs := rfl
@[simp] theorem State.setStream_closeCtr (s : State) (i : Nat) (x : Stream) : (s.setStream i x).closeCtr = s.closeCtr := rfl
@[simp] theorem State.setStream_aports (s : State) (i : Nat) (x : Stream) : (s.setStream i x).aports = s.aports := rfl
@[simp] theorem State.setStream_agroups (s : State) (i : Nat) (x : Stream) : (s.setStream i x).agroups = s.agroups := rfl
@[simp] theorem State.setStream_ports (s : State) (i : Nat) (x : Stream) : (s.setStream i x).ports = s.ports := rfl
@[simp] theorem State.setStream_macs (s : State) (i : Nat) (x : Stream) : (s.setStream i x).macs = s.macs := rfl
@[simp] theorem State.setStream_qps (s : State) (i : Nat) (x : Stream) : (s.setStream i x).qps = s.qps := rfl
@[simp] theorem State.setStream_deadQps (s : State) (i : Nat) (x : Stream) : (s.setStream i x).deadQps = s.deadQps := rfl
@[simp] theorem State.setStream_lastEpochs (s : State) (i : Nat) (x : Stream) : (s.setStream i x).lastEpochs = s.lastEpochs := rfl
@[simp] theorem State.setStream_cc (s : State) (i : Nat) (x : Stream) : (s.setStream i x).cc = s.cc := rfl
@[simp] theorem State.setStream_mgmt (s : State) (i : Nat) (x : Stream) : (s.setStream i x).mgmt = s.mgmt := rfl
@[simp] theorem State.setStream_poolLow (s : State) (i : Nat) (x : Stream) : (s.setStream i x).poolLow = s.poolLow := rfl
@[simp] theorem State.setStream_archHeld (s : State) (i : Nat) (x : Stream) : (s.setStream i x).archHeld = s.archHeld := rfl
@[simp] theorem State.setStream_tests (s : State) (i : Nat) (x : Stream) : (s.setStream i x).tests = s.tests := rfl
@[simp] theorem State.setStream_nextTest (s : State) (i : Nat) (x : Stream) : (s.setStream i x).nextTest = s.nextTest := rfl
@[simp] theorem State.setStream_stream_same (s : State) (i : Nat) (x : Stream) : (s.setStream i x).stream i = x := by
  simp [State.setStream, State.stream]
theorem State.setStream_stream_ne (s : State) {i k : Nat} (x : Stream) (h : k ≠ i) : (s.setStream i x).stream k = s.stream k := by
  simp [State.setStream, State.stream, tabGet_tabPut_ne _ _ _ h]

/-! ### setPart -/
@[simp] theorem State.setPart_pending (s : State) (p : Nat) (x : Partition) : (s.setPart p x).pending = s.pending := rfl
@[simp] theorem State.setPart_freeCtr (s : State) (p : Nat) (x : Partition) : (s.setPart p x).freeCtr = s.freeCtr := rfl
@[simp] theorem State.setPart_wire (s : State) (p : Nat) (x : Partition) : (s.setPart p x).wire = s.wire := rfl
@[simp] theorem State.setPart_now (s : State) (p : Nat) (x : Partition) : (s.setPart p x).now = s.now := rfl
@[simp] theorem State.setPart_mem (s : State) (p : Nat) (x : Partition) : (s.setPart p x).mem = s.mem := rfl
@[simp] theorem State.setPart_badSpans (s : State) (p : Nat) (x : Partition) : (s.setPart p x).badSpans = s.badSpans := rfl
@[simp] theorem State.setPart_lostPcs (s : State) (p : Nat) (x : Partition) : (s.setPart p x).lostPcs = s.lostPcs := rfl
@[simp] theorem State.setPart_knownZero (s : State) (p : Nat) (x : Partition) : (s.setPart p x).knownZero = s.knownZero := rfl
@[simp] theorem State.setPart_dev (s : State) (p : Nat) (x : Partition) : (s.setPart p x).dev = s.dev := rfl
@[simp] theorem State.setPart_sup (s : State) (p : Nat) (x : Partition) : (s.setPart p x).sup = s.sup := rfl
@[simp] theorem State.setPart_sec (s : State) (p : Nat) (x : Partition) : (s.setPart p x).sec = s.sec := rfl
@[simp] theorem State.setPart_pwr (s : State) (p : Nat) (x : Partition) : (s.setPart p x).pwr = s.pwr := rfl
@[simp] theorem State.setPart_flash (s : State) (p : Nat) (x : Partition) : (s.setPart p x).flash = s.flash := rfl
@[simp] theorem State.setPart_commit (s : State) (p : Nat) (x : Partition) : (s.setPart p x).commit = s.commit := rfl
@[simp] theorem State.setPart_mbx (s : State) (p : Nat) (x : Partition) : (s.setPart p x).mbx = s.mbx := rfl
@[simp] theorem State.setPart_bells (s : State) (p : Nat) (x : Partition) : (s.setPart p x).bells = s.bells := rfl
@[simp] theorem State.setPart_mbxEpoch (s : State) (p : Nat) (x : Partition) : (s.setPart p x).mbxEpoch = s.mbxEpoch := rfl
@[simp] theorem State.setPart_mirrorEpoch (s : State) (p : Nat) (x : Partition) : (s.setPart p x).mirrorEpoch = s.mirrorEpoch := rfl
@[simp] theorem State.setPart_rings (s : State) (p : Nat) (x : Partition) : (s.setPart p x).rings = s.rings := rfl
@[simp] theorem State.setPart_cores (s : State) (p : Nat) (x : Partition) : (s.setPart p x).cores = s.cores := rfl
@[simp] theorem State.setPart_idleIslands (s : State) (p : Nat) (x : Partition) : (s.setPart p x).idleIslands = s.idleIslands := rfl
@[simp] theorem State.setPart_spares (s : State) (p : Nat) (x : Partition) : (s.setPart p x).spares = s.spares := rfl
@[simp] theorem State.setPart_clusters (s : State) (p : Nat) (x : Partition) : (s.setPart p x).clusters = s.clusters := rfl
@[simp] theorem State.setPart_quads (s : State) (p : Nat) (x : Partition) : (s.setPart p x).quads = s.quads := rfl
@[simp] theorem State.setPart_health (s : State) (p : Nat) (x : Partition) : (s.setPart p x).health = s.health := rfl
@[simp] theorem State.setPart_ctxs (s : State) (p : Nat) (x : Partition) : (s.setPart p x).ctxs = s.ctxs := rfl
@[simp] theorem State.setPart_streams (s : State) (p : Nat) (x : Partition) : (s.setPart p x).streams = s.streams := rfl
@[simp] theorem State.setPart_closeCtr (s : State) (p : Nat) (x : Partition) : (s.setPart p x).closeCtr = s.closeCtr := rfl
@[simp] theorem State.setPart_aports (s : State) (p : Nat) (x : Partition) : (s.setPart p x).aports = s.aports := rfl
@[simp] theorem State.setPart_agroups (s : State) (p : Nat) (x : Partition) : (s.setPart p x).agroups = s.agroups := rfl
@[simp] theorem State.setPart_ports (s : State) (p : Nat) (x : Partition) : (s.setPart p x).ports = s.ports := rfl
@[simp] theorem State.setPart_macs (s : State) (p : Nat) (x : Partition) : (s.setPart p x).macs = s.macs := rfl
@[simp] theorem State.setPart_qps (s : State) (p : Nat) (x : Partition) : (s.setPart p x).qps = s.qps := rfl
@[simp] theorem State.setPart_deadQps (s : State) (p : Nat) (x : Partition) : (s.setPart p x).deadQps = s.deadQps := rfl
@[simp] theorem State.setPart_lastEpochs (s : State) (p : Nat) (x : Partition) : (s.setPart p x).lastEpochs = s.lastEpochs := rfl
@[simp] theorem State.setPart_cc (s : State) (p : Nat) (x : Partition) : (s.setPart p x).cc = s.cc := rfl
@[simp] theorem State.setPart_mgmt (s : State) (p : Nat) (x : Partition) : (s.setPart p x).mgmt = s.mgmt := rfl
@[simp] theorem State.setPart_poolLow (s : State) (p : Nat) (x : Partition) : (s.setPart p x).poolLow = s.poolLow := rfl
@[simp] theorem State.setPart_archHeld (s : State) (p : Nat) (x : Partition) : (s.setPart p x).archHeld = s.archHeld := rfl
@[simp] theorem State.setPart_tests (s : State) (p : Nat) (x : Partition) : (s.setPart p x).tests = s.tests := rfl
@[simp] theorem State.setPart_nextTest (s : State) (p : Nat) (x : Partition) : (s.setPart p x).nextTest = s.nextTest := rfl
@[simp] theorem State.setPart_part_same (s : State) (p : Nat) (x : Partition) : (s.setPart p x).part? p = some x :=
  tabGet?_tabPut_same _ _ _
theorem State.setPart_part_ne (s : State) {p k : Nat} (x : Partition) (h : k ≠ p) : (s.setPart p x).part? k = s.part? k :=
  tabGet?_tabPut_ne _ _ h

/-! ### setCtx -/
@[simp] theorem State.setCtx_pending (s : State) (k : Nat) (x : Context) : (s.setCtx k x).pending = s.pending := rfl
@[simp] theorem State.setCtx_freeCtr (s : State) (k : Nat) (x : Context) : (s.setCtx k x).freeCtr = s.freeCtr := rfl
@[simp] theorem State.setCtx_wire (s : State) (k : Nat) (x : Context) : (s.setCtx k x).wire = s.wire := rfl
@[simp] theorem State.setCtx_now (s : State) (k : Nat) (x : Context) : (s.setCtx k x).now = s.now := rfl
@[simp] theorem State.setCtx_mem (s : State) (k : Nat) (x : Context) : (s.setCtx k x).mem = s.mem := rfl
@[simp] theorem State.setCtx_badSpans (s : State) (k : Nat) (x : Context) : (s.setCtx k x).badSpans = s.badSpans := rfl
@[simp] theorem State.setCtx_lostPcs (s : State) (k : Nat) (x : Context) : (s.setCtx k x).lostPcs = s.lostPcs := rfl
@[simp] theorem State.setCtx_knownZero (s : State) (k : Nat) (x : Context) : (s.setCtx k x).knownZero = s.knownZero := rfl
@[simp] theorem State.setCtx_dev (s : State) (k : Nat) (x : Context) : (s.setCtx k x).dev = s.dev := rfl
@[simp] theorem State.setCtx_sup (s : State) (k : Nat) (x : Context) : (s.setCtx k x).sup = s.sup := rfl
@[simp] theorem State.setCtx_sec (s : State) (k : Nat) (x : Context) : (s.setCtx k x).sec = s.sec := rfl
@[simp] theorem State.setCtx_pwr (s : State) (k : Nat) (x : Context) : (s.setCtx k x).pwr = s.pwr := rfl
@[simp] theorem State.setCtx_flash (s : State) (k : Nat) (x : Context) : (s.setCtx k x).flash = s.flash := rfl
@[simp] theorem State.setCtx_commit (s : State) (k : Nat) (x : Context) : (s.setCtx k x).commit = s.commit := rfl
@[simp] theorem State.setCtx_mbx (s : State) (k : Nat) (x : Context) : (s.setCtx k x).mbx = s.mbx := rfl
@[simp] theorem State.setCtx_bells (s : State) (k : Nat) (x : Context) : (s.setCtx k x).bells = s.bells := rfl
@[simp] theorem State.setCtx_mbxEpoch (s : State) (k : Nat) (x : Context) : (s.setCtx k x).mbxEpoch = s.mbxEpoch := rfl
@[simp] theorem State.setCtx_mirrorEpoch (s : State) (k : Nat) (x : Context) : (s.setCtx k x).mirrorEpoch = s.mirrorEpoch := rfl
@[simp] theorem State.setCtx_rings (s : State) (k : Nat) (x : Context) : (s.setCtx k x).rings = s.rings := rfl
@[simp] theorem State.setCtx_cores (s : State) (k : Nat) (x : Context) : (s.setCtx k x).cores = s.cores := rfl
@[simp] theorem State.setCtx_idleIslands (s : State) (k : Nat) (x : Context) : (s.setCtx k x).idleIslands = s.idleIslands := rfl
@[simp] theorem State.setCtx_spares (s : State) (k : Nat) (x : Context) : (s.setCtx k x).spares = s.spares := rfl
@[simp] theorem State.setCtx_clusters (s : State) (k : Nat) (x : Context) : (s.setCtx k x).clusters = s.clusters := rfl
@[simp] theorem State.setCtx_quads (s : State) (k : Nat) (x : Context) : (s.setCtx k x).quads = s.quads := rfl
@[simp] theorem State.setCtx_health (s : State) (k : Nat) (x : Context) : (s.setCtx k x).health = s.health := rfl
@[simp] theorem State.setCtx_parts (s : State) (k : Nat) (x : Context) : (s.setCtx k x).parts = s.parts := rfl
@[simp] theorem State.setCtx_streams (s : State) (k : Nat) (x : Context) : (s.setCtx k x).streams = s.streams := rfl
@[simp] theorem State.setCtx_closeCtr (s : State) (k : Nat) (x : Context) : (s.setCtx k x).closeCtr = s.closeCtr := rfl
@[simp] theorem State.setCtx_aports (s : State) (k : Nat) (x : Context) : (s.setCtx k x).aports = s.aports := rfl
@[simp] theorem State.setCtx_agroups (s : State) (k : Nat) (x : Context) : (s.setCtx k x).agroups = s.agroups := rfl
@[simp] theorem State.setCtx_ports (s : State) (k : Nat) (x : Context) : (s.setCtx k x).ports = s.ports := rfl
@[simp] theorem State.setCtx_macs (s : State) (k : Nat) (x : Context) : (s.setCtx k x).macs = s.macs := rfl
@[simp] theorem State.setCtx_qps (s : State) (k : Nat) (x : Context) : (s.setCtx k x).qps = s.qps := rfl
@[simp] theorem State.setCtx_deadQps (s : State) (k : Nat) (x : Context) : (s.setCtx k x).deadQps = s.deadQps := rfl
@[simp] theorem State.setCtx_lastEpochs (s : State) (k : Nat) (x : Context) : (s.setCtx k x).lastEpochs = s.lastEpochs := rfl
@[simp] theorem State.setCtx_cc (s : State) (k : Nat) (x : Context) : (s.setCtx k x).cc = s.cc := rfl
@[simp] theorem State.setCtx_mgmt (s : State) (k : Nat) (x : Context) : (s.setCtx k x).mgmt = s.mgmt := rfl
@[simp] theorem State.setCtx_poolLow (s : State) (k : Nat) (x : Context) : (s.setCtx k x).poolLow = s.poolLow := rfl
@[simp] theorem State.setCtx_archHeld (s : State) (k : Nat) (x : Context) : (s.setCtx k x).archHeld = s.archHeld := rfl
@[simp] theorem State.setCtx_tests (s : State) (k : Nat) (x : Context) : (s.setCtx k x).tests = s.tests := rfl
@[simp] theorem State.setCtx_nextTest (s : State) (k : Nat) (x : Context) : (s.setCtx k x).nextTest = s.nextTest := rfl
@[simp] theorem State.setCtx_ctx_same (s : State) (k : Nat) (x : Context) : (s.setCtx k x).ctx? k = some x :=
  tabGet?_tabPut_same _ _ _
theorem State.setCtx_ctx_ne (s : State) {k j : Nat} (x : Context) (h : j ≠ k) : (s.setCtx k x).ctx? j = s.ctx? j :=
  tabGet?_tabPut_ne _ _ h

/-! ### setMail -/
@[simp] theorem State.setMail_pending (s : State) (m : Nat) (x : Mailbox) : (s.setMail m x).pending = s.pending := rfl
@[simp] theorem State.setMail_freeCtr (s : State) (m : Nat) (x : Mailbox) : (s.setMail m x).freeCtr = s.freeCtr := rfl
@[simp] theorem State.setMail_wire (s : State) (m : Nat) (x : Mailbox) : (s.setMail m x).wire = s.wire := rfl
@[simp] theorem State.setMail_now (s : State) (m : Nat) (x : Mailbox) : (s.setMail m x).now = s.now := rfl
@[simp] theorem State.setMail_mem (s : State) (m : Nat) (x : Mailbox) : (s.setMail m x).mem = s.mem := rfl
@[simp] theorem State.setMail_badSpans (s : State) (m : Nat) (x : Mailbox) : (s.setMail m x).badSpans = s.badSpans := rfl
@[simp] theorem State.setMail_lostPcs (s : State) (m : Nat) (x : Mailbox) : (s.setMail m x).lostPcs = s.lostPcs := rfl
@[simp] theorem State.setMail_knownZero (s : State) (m : Nat) (x : Mailbox) : (s.setMail m x).knownZero = s.knownZero := rfl
@[simp] theorem State.setMail_dev (s : State) (m : Nat) (x : Mailbox) : (s.setMail m x).dev = s.dev := rfl
@[simp] theorem State.setMail_sup (s : State) (m : Nat) (x : Mailbox) : (s.setMail m x).sup = s.sup := rfl
@[simp] theorem State.setMail_sec (s : State) (m : Nat) (x : Mailbox) : (s.setMail m x).sec = s.sec := rfl
@[simp] theorem State.setMail_pwr (s : State) (m : Nat) (x : Mailbox) : (s.setMail m x).pwr = s.pwr := rfl
@[simp] theorem State.setMail_flash (s : State) (m : Nat) (x : Mailbox) : (s.setMail m x).flash = s.flash := rfl
@[simp] theorem State.setMail_commit (s : State) (m : Nat) (x : Mailbox) : (s.setMail m x).commit = s.commit := rfl
@[simp] theorem State.setMail_bells (s : State) (m : Nat) (x : Mailbox) : (s.setMail m x).bells = s.bells := rfl
@[simp] theorem State.setMail_mbxEpoch (s : State) (m : Nat) (x : Mailbox) : (s.setMail m x).mbxEpoch = s.mbxEpoch := rfl
@[simp] theorem State.setMail_mirrorEpoch (s : State) (m : Nat) (x : Mailbox) : (s.setMail m x).mirrorEpoch = s.mirrorEpoch := rfl
@[simp] theorem State.setMail_rings (s : State) (m : Nat) (x : Mailbox) : (s.setMail m x).rings = s.rings := rfl
@[simp] theorem State.setMail_cores (s : State) (m : Nat) (x : Mailbox) : (s.setMail m x).cores = s.cores := rfl
@[simp] theorem State.setMail_idleIslands (s : State) (m : Nat) (x : Mailbox) : (s.setMail m x).idleIslands = s.idleIslands := rfl
@[simp] theorem State.setMail_spares (s : State) (m : Nat) (x : Mailbox) : (s.setMail m x).spares = s.spares := rfl
@[simp] theorem State.setMail_clusters (s : State) (m : Nat) (x : Mailbox) : (s.setMail m x).clusters = s.clusters := rfl
@[simp] theorem State.setMail_quads (s : State) (m : Nat) (x : Mailbox) : (s.setMail m x).quads = s.quads := rfl
@[simp] theorem State.setMail_health (s : State) (m : Nat) (x : Mailbox) : (s.setMail m x).health = s.health := rfl
@[simp] theorem State.setMail_parts (s : State) (m : Nat) (x : Mailbox) : (s.setMail m x).parts = s.parts := rfl
@[simp] theorem State.setMail_ctxs (s : State) (m : Nat) (x : Mailbox) : (s.setMail m x).ctxs = s.ctxs := rfl
@[simp] theorem State.setMail_streams (s : State) (m : Nat) (x : Mailbox) : (s.setMail m x).streams = s.streams := rfl
@[simp] theorem State.setMail_closeCtr (s : State) (m : Nat) (x : Mailbox) : (s.setMail m x).closeCtr = s.closeCtr := rfl
@[simp] theorem State.setMail_aports (s : State) (m : Nat) (x : Mailbox) : (s.setMail m x).aports = s.aports := rfl
@[simp] theorem State.setMail_agroups (s : State) (m : Nat) (x : Mailbox) : (s.setMail m x).agroups = s.agroups := rfl
@[simp] theorem State.setMail_ports (s : State) (m : Nat) (x : Mailbox) : (s.setMail m x).ports = s.ports := rfl
@[simp] theorem State.setMail_macs (s : State) (m : Nat) (x : Mailbox) : (s.setMail m x).macs = s.macs := rfl
@[simp] theorem State.setMail_qps (s : State) (m : Nat) (x : Mailbox) : (s.setMail m x).qps = s.qps := rfl
@[simp] theorem State.setMail_deadQps (s : State) (m : Nat) (x : Mailbox) : (s.setMail m x).deadQps = s.deadQps := rfl
@[simp] theorem State.setMail_lastEpochs (s : State) (m : Nat) (x : Mailbox) : (s.setMail m x).lastEpochs = s.lastEpochs := rfl
@[simp] theorem State.setMail_cc (s : State) (m : Nat) (x : Mailbox) : (s.setMail m x).cc = s.cc := rfl
@[simp] theorem State.setMail_mgmt (s : State) (m : Nat) (x : Mailbox) : (s.setMail m x).mgmt = s.mgmt := rfl
@[simp] theorem State.setMail_poolLow (s : State) (m : Nat) (x : Mailbox) : (s.setMail m x).poolLow = s.poolLow := rfl
@[simp] theorem State.setMail_archHeld (s : State) (m : Nat) (x : Mailbox) : (s.setMail m x).archHeld = s.archHeld := rfl
@[simp] theorem State.setMail_tests (s : State) (m : Nat) (x : Mailbox) : (s.setMail m x).tests = s.tests := rfl
@[simp] theorem State.setMail_nextTest (s : State) (m : Nat) (x : Mailbox) : (s.setMail m x).nextTest = s.nextTest := rfl
@[simp] theorem State.setMail_mail_same (s : State) (m : Nat) (x : Mailbox) : (s.setMail m x).mail m = x := by
  simp [State.setMail, State.mail]
theorem State.setMail_mail_ne (s : State) {m k : Nat} (x : Mailbox) (h : k ≠ m) : (s.setMail m x).mail k = s.mail k := by
  simp [State.setMail, State.mail, tabGet_tabPut_ne _ _ _ h]

/-! ### setRing -/
@[simp] theorem State.setRing_pending (s : State) (r : Nat) (x : Ring) : (s.setRing r x).pending = s.pending := rfl
@[simp] theorem State.setRing_freeCtr (s : State) (r : Nat) (x : Ring) : (s.setRing r x).freeCtr = s.freeCtr := rfl
@[simp] theorem State.setRing_wire (s : State) (r : Nat) (x : Ring) : (s.setRing r x).wire = s.wire := rfl
@[simp] theorem State.setRing_now (s : State) (r : Nat) (x : Ring) : (s.setRing r x).now = s.now := rfl
@[simp] theorem State.setRing_mem (s : State) (r : Nat) (x : Ring) : (s.setRing r x).mem = s.mem := rfl
@[simp] theorem State.setRing_badSpans (s : State) (r : Nat) (x : Ring) : (s.setRing r x).badSpans = s.badSpans := rfl
@[simp] theorem State.setRing_lostPcs (s : State) (r : Nat) (x : Ring) : (s.setRing r x).lostPcs = s.lostPcs := rfl
@[simp] theorem State.setRing_knownZero (s : State) (r : Nat) (x : Ring) : (s.setRing r x).knownZero = s.knownZero := rfl
@[simp] theorem State.setRing_dev (s : State) (r : Nat) (x : Ring) : (s.setRing r x).dev = s.dev := rfl
@[simp] theorem State.setRing_sup (s : State) (r : Nat) (x : Ring) : (s.setRing r x).sup = s.sup := rfl
@[simp] theorem State.setRing_sec (s : State) (r : Nat) (x : Ring) : (s.setRing r x).sec = s.sec := rfl
@[simp] theorem State.setRing_pwr (s : State) (r : Nat) (x : Ring) : (s.setRing r x).pwr = s.pwr := rfl
@[simp] theorem State.setRing_flash (s : State) (r : Nat) (x : Ring) : (s.setRing r x).flash = s.flash := rfl
@[simp] theorem State.setRing_commit (s : State) (r : Nat) (x : Ring) : (s.setRing r x).commit = s.commit := rfl
@[simp] theorem State.setRing_mbx (s : State) (r : Nat) (x : Ring) : (s.setRing r x).mbx = s.mbx := rfl
@[simp] theorem State.setRing_bells (s : State) (r : Nat) (x : Ring) : (s.setRing r x).bells = s.bells := rfl
@[simp] theorem State.setRing_mbxEpoch (s : State) (r : Nat) (x : Ring) : (s.setRing r x).mbxEpoch = s.mbxEpoch := rfl
@[simp] theorem State.setRing_mirrorEpoch (s : State) (r : Nat) (x : Ring) : (s.setRing r x).mirrorEpoch = s.mirrorEpoch := rfl
@[simp] theorem State.setRing_cores (s : State) (r : Nat) (x : Ring) : (s.setRing r x).cores = s.cores := rfl
@[simp] theorem State.setRing_idleIslands (s : State) (r : Nat) (x : Ring) : (s.setRing r x).idleIslands = s.idleIslands := rfl
@[simp] theorem State.setRing_spares (s : State) (r : Nat) (x : Ring) : (s.setRing r x).spares = s.spares := rfl
@[simp] theorem State.setRing_clusters (s : State) (r : Nat) (x : Ring) : (s.setRing r x).clusters = s.clusters := rfl
@[simp] theorem State.setRing_quads (s : State) (r : Nat) (x : Ring) : (s.setRing r x).quads = s.quads := rfl
@[simp] theorem State.setRing_health (s : State) (r : Nat) (x : Ring) : (s.setRing r x).health = s.health := rfl
@[simp] theorem State.setRing_parts (s : State) (r : Nat) (x : Ring) : (s.setRing r x).parts = s.parts := rfl
@[simp] theorem State.setRing_ctxs (s : State) (r : Nat) (x : Ring) : (s.setRing r x).ctxs = s.ctxs := rfl
@[simp] theorem State.setRing_streams (s : State) (r : Nat) (x : Ring) : (s.setRing r x).streams = s.streams := rfl
@[simp] theorem State.setRing_closeCtr (s : State) (r : Nat) (x : Ring) : (s.setRing r x).closeCtr = s.closeCtr := rfl
@[simp] theorem State.setRing_aports (s : State) (r : Nat) (x : Ring) : (s.setRing r x).aports = s.aports := rfl
@[simp] theorem State.setRing_agroups (s : State) (r : Nat) (x : Ring) : (s.setRing r x).agroups = s.agroups := rfl
@[simp] theorem State.setRing_ports (s : State) (r : Nat) (x : Ring) : (s.setRing r x).ports = s.ports := rfl
@[simp] theorem State.setRing_macs (s : State) (r : Nat) (x : Ring) : (s.setRing r x).macs = s.macs := rfl
@[simp] theorem State.setRing_qps (s : State) (r : Nat) (x : Ring) : (s.setRing r x).qps = s.qps := rfl
@[simp] theorem State.setRing_deadQps (s : State) (r : Nat) (x : Ring) : (s.setRing r x).deadQps = s.deadQps := rfl
@[simp] theorem State.setRing_lastEpochs (s : State) (r : Nat) (x : Ring) : (s.setRing r x).lastEpochs = s.lastEpochs := rfl
@[simp] theorem State.setRing_cc (s : State) (r : Nat) (x : Ring) : (s.setRing r x).cc = s.cc := rfl
@[simp] theorem State.setRing_mgmt (s : State) (r : Nat) (x : Ring) : (s.setRing r x).mgmt = s.mgmt := rfl
@[simp] theorem State.setRing_poolLow (s : State) (r : Nat) (x : Ring) : (s.setRing r x).poolLow = s.poolLow := rfl
@[simp] theorem State.setRing_archHeld (s : State) (r : Nat) (x : Ring) : (s.setRing r x).archHeld = s.archHeld := rfl
@[simp] theorem State.setRing_tests (s : State) (r : Nat) (x : Ring) : (s.setRing r x).tests = s.tests := rfl
@[simp] theorem State.setRing_nextTest (s : State) (r : Nat) (x : Ring) : (s.setRing r x).nextTest = s.nextTest := rfl
@[simp] theorem State.setRing_ring_same (s : State) (r : Nat) (x : Ring) : (s.setRing r x).ring r = x := by
  simp [State.setRing, State.ring]
theorem State.setRing_ring_ne (s : State) {r k : Nat} (x : Ring) (h : k ≠ r) : (s.setRing r x).ring k = s.ring k := by
  simp [State.setRing, State.ring, tabGet_tabPut_ne _ _ _ h]

/-! ### setCluster -/
@[simp] theorem State.setCluster_pending (s : State) (n : Nat) (x : ClusterState) : (s.setCluster n x).pending = s.pending := rfl
@[simp] theorem State.setCluster_freeCtr (s : State) (n : Nat) (x : ClusterState) : (s.setCluster n x).freeCtr = s.freeCtr := rfl
@[simp] theorem State.setCluster_wire (s : State) (n : Nat) (x : ClusterState) : (s.setCluster n x).wire = s.wire := rfl
@[simp] theorem State.setCluster_now (s : State) (n : Nat) (x : ClusterState) : (s.setCluster n x).now = s.now := rfl
@[simp] theorem State.setCluster_mem (s : State) (n : Nat) (x : ClusterState) : (s.setCluster n x).mem = s.mem := rfl
@[simp] theorem State.setCluster_badSpans (s : State) (n : Nat) (x : ClusterState) : (s.setCluster n x).badSpans = s.badSpans := rfl
@[simp] theorem State.setCluster_lostPcs (s : State) (n : Nat) (x : ClusterState) : (s.setCluster n x).lostPcs = s.lostPcs := rfl
@[simp] theorem State.setCluster_knownZero (s : State) (n : Nat) (x : ClusterState) : (s.setCluster n x).knownZero = s.knownZero := rfl
@[simp] theorem State.setCluster_dev (s : State) (n : Nat) (x : ClusterState) : (s.setCluster n x).dev = s.dev := rfl
@[simp] theorem State.setCluster_sup (s : State) (n : Nat) (x : ClusterState) : (s.setCluster n x).sup = s.sup := rfl
@[simp] theorem State.setCluster_sec (s : State) (n : Nat) (x : ClusterState) : (s.setCluster n x).sec = s.sec := rfl
@[simp] theorem State.setCluster_pwr (s : State) (n : Nat) (x : ClusterState) : (s.setCluster n x).pwr = s.pwr := rfl
@[simp] theorem State.setCluster_flash (s : State) (n : Nat) (x : ClusterState) : (s.setCluster n x).flash = s.flash := rfl
@[simp] theorem State.setCluster_commit (s : State) (n : Nat) (x : ClusterState) : (s.setCluster n x).commit = s.commit := rfl
@[simp] theorem State.setCluster_mbx (s : State) (n : Nat) (x : ClusterState) : (s.setCluster n x).mbx = s.mbx := rfl
@[simp] theorem State.setCluster_bells (s : State) (n : Nat) (x : ClusterState) : (s.setCluster n x).bells = s.bells := rfl
@[simp] theorem State.setCluster_mbxEpoch (s : State) (n : Nat) (x : ClusterState) : (s.setCluster n x).mbxEpoch = s.mbxEpoch := rfl
@[simp] theorem State.setCluster_mirrorEpoch (s : State) (n : Nat) (x : ClusterState) : (s.setCluster n x).mirrorEpoch = s.mirrorEpoch := rfl
@[simp] theorem State.setCluster_rings (s : State) (n : Nat) (x : ClusterState) : (s.setCluster n x).rings = s.rings := rfl
@[simp] theorem State.setCluster_cores (s : State) (n : Nat) (x : ClusterState) : (s.setCluster n x).cores = s.cores := rfl
@[simp] theorem State.setCluster_idleIslands (s : State) (n : Nat) (x : ClusterState) : (s.setCluster n x).idleIslands = s.idleIslands := rfl
@[simp] theorem State.setCluster_spares (s : State) (n : Nat) (x : ClusterState) : (s.setCluster n x).spares = s.spares := rfl
@[simp] theorem State.setCluster_quads (s : State) (n : Nat) (x : ClusterState) : (s.setCluster n x).quads = s.quads := rfl
@[simp] theorem State.setCluster_health (s : State) (n : Nat) (x : ClusterState) : (s.setCluster n x).health = s.health := rfl
@[simp] theorem State.setCluster_parts (s : State) (n : Nat) (x : ClusterState) : (s.setCluster n x).parts = s.parts := rfl
@[simp] theorem State.setCluster_ctxs (s : State) (n : Nat) (x : ClusterState) : (s.setCluster n x).ctxs = s.ctxs := rfl
@[simp] theorem State.setCluster_streams (s : State) (n : Nat) (x : ClusterState) : (s.setCluster n x).streams = s.streams := rfl
@[simp] theorem State.setCluster_closeCtr (s : State) (n : Nat) (x : ClusterState) : (s.setCluster n x).closeCtr = s.closeCtr := rfl
@[simp] theorem State.setCluster_aports (s : State) (n : Nat) (x : ClusterState) : (s.setCluster n x).aports = s.aports := rfl
@[simp] theorem State.setCluster_agroups (s : State) (n : Nat) (x : ClusterState) : (s.setCluster n x).agroups = s.agroups := rfl
@[simp] theorem State.setCluster_ports (s : State) (n : Nat) (x : ClusterState) : (s.setCluster n x).ports = s.ports := rfl
@[simp] theorem State.setCluster_macs (s : State) (n : Nat) (x : ClusterState) : (s.setCluster n x).macs = s.macs := rfl
@[simp] theorem State.setCluster_qps (s : State) (n : Nat) (x : ClusterState) : (s.setCluster n x).qps = s.qps := rfl
@[simp] theorem State.setCluster_deadQps (s : State) (n : Nat) (x : ClusterState) : (s.setCluster n x).deadQps = s.deadQps := rfl
@[simp] theorem State.setCluster_lastEpochs (s : State) (n : Nat) (x : ClusterState) : (s.setCluster n x).lastEpochs = s.lastEpochs := rfl
@[simp] theorem State.setCluster_cc (s : State) (n : Nat) (x : ClusterState) : (s.setCluster n x).cc = s.cc := rfl
@[simp] theorem State.setCluster_mgmt (s : State) (n : Nat) (x : ClusterState) : (s.setCluster n x).mgmt = s.mgmt := rfl
@[simp] theorem State.setCluster_poolLow (s : State) (n : Nat) (x : ClusterState) : (s.setCluster n x).poolLow = s.poolLow := rfl
@[simp] theorem State.setCluster_archHeld (s : State) (n : Nat) (x : ClusterState) : (s.setCluster n x).archHeld = s.archHeld := rfl
@[simp] theorem State.setCluster_tests (s : State) (n : Nat) (x : ClusterState) : (s.setCluster n x).tests = s.tests := rfl
@[simp] theorem State.setCluster_nextTest (s : State) (n : Nat) (x : ClusterState) : (s.setCluster n x).nextTest = s.nextTest := rfl
@[simp] theorem State.setCluster_cluster_same (s : State) (n : Nat) (x : ClusterState) : (s.setCluster n x).cluster n = x := by
  simp [State.setCluster, State.cluster]
theorem State.setCluster_cluster_ne (s : State) {n k : Nat} (x : ClusterState) (h : k ≠ n) : (s.setCluster n x).cluster k = s.cluster k := by
  simp [State.setCluster, State.cluster, tabGet_tabPut_ne _ _ _ h]

/-! ### setQuad -/
@[simp] theorem State.setQuad_pending (s : State) (q : Nat) (x : QuadHealth) : (s.setQuad q x).pending = s.pending := rfl
@[simp] theorem State.setQuad_freeCtr (s : State) (q : Nat) (x : QuadHealth) : (s.setQuad q x).freeCtr = s.freeCtr := rfl
@[simp] theorem State.setQuad_wire (s : State) (q : Nat) (x : QuadHealth) : (s.setQuad q x).wire = s.wire := rfl
@[simp] theorem State.setQuad_now (s : State) (q : Nat) (x : QuadHealth) : (s.setQuad q x).now = s.now := rfl
@[simp] theorem State.setQuad_mem (s : State) (q : Nat) (x : QuadHealth) : (s.setQuad q x).mem = s.mem := rfl
@[simp] theorem State.setQuad_badSpans (s : State) (q : Nat) (x : QuadHealth) : (s.setQuad q x).badSpans = s.badSpans := rfl
@[simp] theorem State.setQuad_lostPcs (s : State) (q : Nat) (x : QuadHealth) : (s.setQuad q x).lostPcs = s.lostPcs := rfl
@[simp] theorem State.setQuad_knownZero (s : State) (q : Nat) (x : QuadHealth) : (s.setQuad q x).knownZero = s.knownZero := rfl
@[simp] theorem State.setQuad_dev (s : State) (q : Nat) (x : QuadHealth) : (s.setQuad q x).dev = s.dev := rfl
@[simp] theorem State.setQuad_sup (s : State) (q : Nat) (x : QuadHealth) : (s.setQuad q x).sup = s.sup := rfl
@[simp] theorem State.setQuad_sec (s : State) (q : Nat) (x : QuadHealth) : (s.setQuad q x).sec = s.sec := rfl
@[simp] theorem State.setQuad_pwr (s : State) (q : Nat) (x : QuadHealth) : (s.setQuad q x).pwr = s.pwr := rfl
@[simp] theorem State.setQuad_flash (s : State) (q : Nat) (x : QuadHealth) : (s.setQuad q x).flash = s.flash := rfl
@[simp] theorem State.setQuad_commit (s : State) (q : Nat) (x : QuadHealth) : (s.setQuad q x).commit = s.commit := rfl
@[simp] theorem State.setQuad_mbx (s : State) (q : Nat) (x : QuadHealth) : (s.setQuad q x).mbx = s.mbx := rfl
@[simp] theorem State.setQuad_bells (s : State) (q : Nat) (x : QuadHealth) : (s.setQuad q x).bells = s.bells := rfl
@[simp] theorem State.setQuad_mbxEpoch (s : State) (q : Nat) (x : QuadHealth) : (s.setQuad q x).mbxEpoch = s.mbxEpoch := rfl
@[simp] theorem State.setQuad_mirrorEpoch (s : State) (q : Nat) (x : QuadHealth) : (s.setQuad q x).mirrorEpoch = s.mirrorEpoch := rfl
@[simp] theorem State.setQuad_rings (s : State) (q : Nat) (x : QuadHealth) : (s.setQuad q x).rings = s.rings := rfl
@[simp] theorem State.setQuad_cores (s : State) (q : Nat) (x : QuadHealth) : (s.setQuad q x).cores = s.cores := rfl
@[simp] theorem State.setQuad_idleIslands (s : State) (q : Nat) (x : QuadHealth) : (s.setQuad q x).idleIslands = s.idleIslands := rfl
@[simp] theorem State.setQuad_spares (s : State) (q : Nat) (x : QuadHealth) : (s.setQuad q x).spares = s.spares := rfl
@[simp] theorem State.setQuad_clusters (s : State) (q : Nat) (x : QuadHealth) : (s.setQuad q x).clusters = s.clusters := rfl
@[simp] theorem State.setQuad_health (s : State) (q : Nat) (x : QuadHealth) : (s.setQuad q x).health = s.health := rfl
@[simp] theorem State.setQuad_parts (s : State) (q : Nat) (x : QuadHealth) : (s.setQuad q x).parts = s.parts := rfl
@[simp] theorem State.setQuad_ctxs (s : State) (q : Nat) (x : QuadHealth) : (s.setQuad q x).ctxs = s.ctxs := rfl
@[simp] theorem State.setQuad_streams (s : State) (q : Nat) (x : QuadHealth) : (s.setQuad q x).streams = s.streams := rfl
@[simp] theorem State.setQuad_closeCtr (s : State) (q : Nat) (x : QuadHealth) : (s.setQuad q x).closeCtr = s.closeCtr := rfl
@[simp] theorem State.setQuad_aports (s : State) (q : Nat) (x : QuadHealth) : (s.setQuad q x).aports = s.aports := rfl
@[simp] theorem State.setQuad_agroups (s : State) (q : Nat) (x : QuadHealth) : (s.setQuad q x).agroups = s.agroups := rfl
@[simp] theorem State.setQuad_ports (s : State) (q : Nat) (x : QuadHealth) : (s.setQuad q x).ports = s.ports := rfl
@[simp] theorem State.setQuad_macs (s : State) (q : Nat) (x : QuadHealth) : (s.setQuad q x).macs = s.macs := rfl
@[simp] theorem State.setQuad_qps (s : State) (q : Nat) (x : QuadHealth) : (s.setQuad q x).qps = s.qps := rfl
@[simp] theorem State.setQuad_deadQps (s : State) (q : Nat) (x : QuadHealth) : (s.setQuad q x).deadQps = s.deadQps := rfl
@[simp] theorem State.setQuad_lastEpochs (s : State) (q : Nat) (x : QuadHealth) : (s.setQuad q x).lastEpochs = s.lastEpochs := rfl
@[simp] theorem State.setQuad_cc (s : State) (q : Nat) (x : QuadHealth) : (s.setQuad q x).cc = s.cc := rfl
@[simp] theorem State.setQuad_mgmt (s : State) (q : Nat) (x : QuadHealth) : (s.setQuad q x).mgmt = s.mgmt := rfl
@[simp] theorem State.setQuad_poolLow (s : State) (q : Nat) (x : QuadHealth) : (s.setQuad q x).poolLow = s.poolLow := rfl
@[simp] theorem State.setQuad_archHeld (s : State) (q : Nat) (x : QuadHealth) : (s.setQuad q x).archHeld = s.archHeld := rfl
@[simp] theorem State.setQuad_tests (s : State) (q : Nat) (x : QuadHealth) : (s.setQuad q x).tests = s.tests := rfl
@[simp] theorem State.setQuad_nextTest (s : State) (q : Nat) (x : QuadHealth) : (s.setQuad q x).nextTest = s.nextTest := rfl
@[simp] theorem State.setQuad_quad_same (s : State) (q : Nat) (x : QuadHealth) : (s.setQuad q x).quad q = x := by
  simp [State.setQuad, State.quad]
theorem State.setQuad_quad_ne (s : State) {q k : Nat} (x : QuadHealth) (h : k ≠ q) : (s.setQuad q x).quad k = s.quad k := by
  simp [State.setQuad, State.quad, tabGet_tabPut_ne _ _ _ h]

/-! ### setAport -/
@[simp] theorem State.setAport_pending (s : State) (n : Nat) (x : APort) : (s.setAport n x).pending = s.pending := rfl
@[simp] theorem State.setAport_freeCtr (s : State) (n : Nat) (x : APort) : (s.setAport n x).freeCtr = s.freeCtr := rfl
@[simp] theorem State.setAport_wire (s : State) (n : Nat) (x : APort) : (s.setAport n x).wire = s.wire := rfl
@[simp] theorem State.setAport_now (s : State) (n : Nat) (x : APort) : (s.setAport n x).now = s.now := rfl
@[simp] theorem State.setAport_mem (s : State) (n : Nat) (x : APort) : (s.setAport n x).mem = s.mem := rfl
@[simp] theorem State.setAport_badSpans (s : State) (n : Nat) (x : APort) : (s.setAport n x).badSpans = s.badSpans := rfl
@[simp] theorem State.setAport_lostPcs (s : State) (n : Nat) (x : APort) : (s.setAport n x).lostPcs = s.lostPcs := rfl
@[simp] theorem State.setAport_knownZero (s : State) (n : Nat) (x : APort) : (s.setAport n x).knownZero = s.knownZero := rfl
@[simp] theorem State.setAport_dev (s : State) (n : Nat) (x : APort) : (s.setAport n x).dev = s.dev := rfl
@[simp] theorem State.setAport_sup (s : State) (n : Nat) (x : APort) : (s.setAport n x).sup = s.sup := rfl
@[simp] theorem State.setAport_sec (s : State) (n : Nat) (x : APort) : (s.setAport n x).sec = s.sec := rfl
@[simp] theorem State.setAport_pwr (s : State) (n : Nat) (x : APort) : (s.setAport n x).pwr = s.pwr := rfl
@[simp] theorem State.setAport_flash (s : State) (n : Nat) (x : APort) : (s.setAport n x).flash = s.flash := rfl
@[simp] theorem State.setAport_commit (s : State) (n : Nat) (x : APort) : (s.setAport n x).commit = s.commit := rfl
@[simp] theorem State.setAport_mbx (s : State) (n : Nat) (x : APort) : (s.setAport n x).mbx = s.mbx := rfl
@[simp] theorem State.setAport_bells (s : State) (n : Nat) (x : APort) : (s.setAport n x).bells = s.bells := rfl
@[simp] theorem State.setAport_mbxEpoch (s : State) (n : Nat) (x : APort) : (s.setAport n x).mbxEpoch = s.mbxEpoch := rfl
@[simp] theorem State.setAport_mirrorEpoch (s : State) (n : Nat) (x : APort) : (s.setAport n x).mirrorEpoch = s.mirrorEpoch := rfl
@[simp] theorem State.setAport_rings (s : State) (n : Nat) (x : APort) : (s.setAport n x).rings = s.rings := rfl
@[simp] theorem State.setAport_cores (s : State) (n : Nat) (x : APort) : (s.setAport n x).cores = s.cores := rfl
@[simp] theorem State.setAport_idleIslands (s : State) (n : Nat) (x : APort) : (s.setAport n x).idleIslands = s.idleIslands := rfl
@[simp] theorem State.setAport_spares (s : State) (n : Nat) (x : APort) : (s.setAport n x).spares = s.spares := rfl
@[simp] theorem State.setAport_clusters (s : State) (n : Nat) (x : APort) : (s.setAport n x).clusters = s.clusters := rfl
@[simp] theorem State.setAport_quads (s : State) (n : Nat) (x : APort) : (s.setAport n x).quads = s.quads := rfl
@[simp] theorem State.setAport_health (s : State) (n : Nat) (x : APort) : (s.setAport n x).health = s.health := rfl
@[simp] theorem State.setAport_parts (s : State) (n : Nat) (x : APort) : (s.setAport n x).parts = s.parts := rfl
@[simp] theorem State.setAport_ctxs (s : State) (n : Nat) (x : APort) : (s.setAport n x).ctxs = s.ctxs := rfl
@[simp] theorem State.setAport_streams (s : State) (n : Nat) (x : APort) : (s.setAport n x).streams = s.streams := rfl
@[simp] theorem State.setAport_closeCtr (s : State) (n : Nat) (x : APort) : (s.setAport n x).closeCtr = s.closeCtr := rfl
@[simp] theorem State.setAport_agroups (s : State) (n : Nat) (x : APort) : (s.setAport n x).agroups = s.agroups := rfl
@[simp] theorem State.setAport_ports (s : State) (n : Nat) (x : APort) : (s.setAport n x).ports = s.ports := rfl
@[simp] theorem State.setAport_macs (s : State) (n : Nat) (x : APort) : (s.setAport n x).macs = s.macs := rfl
@[simp] theorem State.setAport_qps (s : State) (n : Nat) (x : APort) : (s.setAport n x).qps = s.qps := rfl
@[simp] theorem State.setAport_deadQps (s : State) (n : Nat) (x : APort) : (s.setAport n x).deadQps = s.deadQps := rfl
@[simp] theorem State.setAport_lastEpochs (s : State) (n : Nat) (x : APort) : (s.setAport n x).lastEpochs = s.lastEpochs := rfl
@[simp] theorem State.setAport_cc (s : State) (n : Nat) (x : APort) : (s.setAport n x).cc = s.cc := rfl
@[simp] theorem State.setAport_mgmt (s : State) (n : Nat) (x : APort) : (s.setAport n x).mgmt = s.mgmt := rfl
@[simp] theorem State.setAport_poolLow (s : State) (n : Nat) (x : APort) : (s.setAport n x).poolLow = s.poolLow := rfl
@[simp] theorem State.setAport_archHeld (s : State) (n : Nat) (x : APort) : (s.setAport n x).archHeld = s.archHeld := rfl
@[simp] theorem State.setAport_tests (s : State) (n : Nat) (x : APort) : (s.setAport n x).tests = s.tests := rfl
@[simp] theorem State.setAport_nextTest (s : State) (n : Nat) (x : APort) : (s.setAport n x).nextTest = s.nextTest := rfl
@[simp] theorem State.setAport_aport_same (s : State) (n : Nat) (x : APort) : (s.setAport n x).aport n = x := by
  simp [State.setAport, State.aport]
theorem State.setAport_aport_ne (s : State) {n k : Nat} (x : APort) (h : k ≠ n) : (s.setAport n x).aport k = s.aport k := by
  simp [State.setAport, State.aport, tabGet_tabPut_ne _ _ _ h]

/-! ### setGroup -/
@[simp] theorem State.setGroup_pending (s : State) (g : Nat) (x : AGroup) : (s.setGroup g x).pending = s.pending := rfl
@[simp] theorem State.setGroup_freeCtr (s : State) (g : Nat) (x : AGroup) : (s.setGroup g x).freeCtr = s.freeCtr := rfl
@[simp] theorem State.setGroup_wire (s : State) (g : Nat) (x : AGroup) : (s.setGroup g x).wire = s.wire := rfl
@[simp] theorem State.setGroup_now (s : State) (g : Nat) (x : AGroup) : (s.setGroup g x).now = s.now := rfl
@[simp] theorem State.setGroup_mem (s : State) (g : Nat) (x : AGroup) : (s.setGroup g x).mem = s.mem := rfl
@[simp] theorem State.setGroup_badSpans (s : State) (g : Nat) (x : AGroup) : (s.setGroup g x).badSpans = s.badSpans := rfl
@[simp] theorem State.setGroup_lostPcs (s : State) (g : Nat) (x : AGroup) : (s.setGroup g x).lostPcs = s.lostPcs := rfl
@[simp] theorem State.setGroup_knownZero (s : State) (g : Nat) (x : AGroup) : (s.setGroup g x).knownZero = s.knownZero := rfl
@[simp] theorem State.setGroup_dev (s : State) (g : Nat) (x : AGroup) : (s.setGroup g x).dev = s.dev := rfl
@[simp] theorem State.setGroup_sup (s : State) (g : Nat) (x : AGroup) : (s.setGroup g x).sup = s.sup := rfl
@[simp] theorem State.setGroup_sec (s : State) (g : Nat) (x : AGroup) : (s.setGroup g x).sec = s.sec := rfl
@[simp] theorem State.setGroup_pwr (s : State) (g : Nat) (x : AGroup) : (s.setGroup g x).pwr = s.pwr := rfl
@[simp] theorem State.setGroup_flash (s : State) (g : Nat) (x : AGroup) : (s.setGroup g x).flash = s.flash := rfl
@[simp] theorem State.setGroup_commit (s : State) (g : Nat) (x : AGroup) : (s.setGroup g x).commit = s.commit := rfl
@[simp] theorem State.setGroup_mbx (s : State) (g : Nat) (x : AGroup) : (s.setGroup g x).mbx = s.mbx := rfl
@[simp] theorem State.setGroup_bells (s : State) (g : Nat) (x : AGroup) : (s.setGroup g x).bells = s.bells := rfl
@[simp] theorem State.setGroup_mbxEpoch (s : State) (g : Nat) (x : AGroup) : (s.setGroup g x).mbxEpoch = s.mbxEpoch := rfl
@[simp] theorem State.setGroup_mirrorEpoch (s : State) (g : Nat) (x : AGroup) : (s.setGroup g x).mirrorEpoch = s.mirrorEpoch := rfl
@[simp] theorem State.setGroup_rings (s : State) (g : Nat) (x : AGroup) : (s.setGroup g x).rings = s.rings := rfl
@[simp] theorem State.setGroup_cores (s : State) (g : Nat) (x : AGroup) : (s.setGroup g x).cores = s.cores := rfl
@[simp] theorem State.setGroup_idleIslands (s : State) (g : Nat) (x : AGroup) : (s.setGroup g x).idleIslands = s.idleIslands := rfl
@[simp] theorem State.setGroup_spares (s : State) (g : Nat) (x : AGroup) : (s.setGroup g x).spares = s.spares := rfl
@[simp] theorem State.setGroup_clusters (s : State) (g : Nat) (x : AGroup) : (s.setGroup g x).clusters = s.clusters := rfl
@[simp] theorem State.setGroup_quads (s : State) (g : Nat) (x : AGroup) : (s.setGroup g x).quads = s.quads := rfl
@[simp] theorem State.setGroup_health (s : State) (g : Nat) (x : AGroup) : (s.setGroup g x).health = s.health := rfl
@[simp] theorem State.setGroup_parts (s : State) (g : Nat) (x : AGroup) : (s.setGroup g x).parts = s.parts := rfl
@[simp] theorem State.setGroup_ctxs (s : State) (g : Nat) (x : AGroup) : (s.setGroup g x).ctxs = s.ctxs := rfl
@[simp] theorem State.setGroup_streams (s : State) (g : Nat) (x : AGroup) : (s.setGroup g x).streams = s.streams := rfl
@[simp] theorem State.setGroup_closeCtr (s : State) (g : Nat) (x : AGroup) : (s.setGroup g x).closeCtr = s.closeCtr := rfl
@[simp] theorem State.setGroup_aports (s : State) (g : Nat) (x : AGroup) : (s.setGroup g x).aports = s.aports := rfl
@[simp] theorem State.setGroup_ports (s : State) (g : Nat) (x : AGroup) : (s.setGroup g x).ports = s.ports := rfl
@[simp] theorem State.setGroup_macs (s : State) (g : Nat) (x : AGroup) : (s.setGroup g x).macs = s.macs := rfl
@[simp] theorem State.setGroup_qps (s : State) (g : Nat) (x : AGroup) : (s.setGroup g x).qps = s.qps := rfl
@[simp] theorem State.setGroup_deadQps (s : State) (g : Nat) (x : AGroup) : (s.setGroup g x).deadQps = s.deadQps := rfl
@[simp] theorem State.setGroup_lastEpochs (s : State) (g : Nat) (x : AGroup) : (s.setGroup g x).lastEpochs = s.lastEpochs := rfl
@[simp] theorem State.setGroup_cc (s : State) (g : Nat) (x : AGroup) : (s.setGroup g x).cc = s.cc := rfl
@[simp] theorem State.setGroup_mgmt (s : State) (g : Nat) (x : AGroup) : (s.setGroup g x).mgmt = s.mgmt := rfl
@[simp] theorem State.setGroup_poolLow (s : State) (g : Nat) (x : AGroup) : (s.setGroup g x).poolLow = s.poolLow := rfl
@[simp] theorem State.setGroup_archHeld (s : State) (g : Nat) (x : AGroup) : (s.setGroup g x).archHeld = s.archHeld := rfl
@[simp] theorem State.setGroup_tests (s : State) (g : Nat) (x : AGroup) : (s.setGroup g x).tests = s.tests := rfl
@[simp] theorem State.setGroup_nextTest (s : State) (g : Nat) (x : AGroup) : (s.setGroup g x).nextTest = s.nextTest := rfl
@[simp] theorem State.setGroup_group_same (s : State) (g : Nat) (x : AGroup) : (s.setGroup g x).group g = x := by
  simp [State.setGroup, State.group]
theorem State.setGroup_group_ne (s : State) {g k : Nat} (x : AGroup) (h : k ≠ g) : (s.setGroup g x).group k = s.group k := by
  simp [State.setGroup, State.group, tabGet_tabPut_ne _ _ _ h]

/-! ### setPort -/
@[simp] theorem State.setPort_pending (s : State) (p : Nat) (x : Port) : (s.setPort p x).pending = s.pending := rfl
@[simp] theorem State.setPort_freeCtr (s : State) (p : Nat) (x : Port) : (s.setPort p x).freeCtr = s.freeCtr := rfl
@[simp] theorem State.setPort_wire (s : State) (p : Nat) (x : Port) : (s.setPort p x).wire = s.wire := rfl
@[simp] theorem State.setPort_now (s : State) (p : Nat) (x : Port) : (s.setPort p x).now = s.now := rfl
@[simp] theorem State.setPort_mem (s : State) (p : Nat) (x : Port) : (s.setPort p x).mem = s.mem := rfl
@[simp] theorem State.setPort_badSpans (s : State) (p : Nat) (x : Port) : (s.setPort p x).badSpans = s.badSpans := rfl
@[simp] theorem State.setPort_lostPcs (s : State) (p : Nat) (x : Port) : (s.setPort p x).lostPcs = s.lostPcs := rfl
@[simp] theorem State.setPort_knownZero (s : State) (p : Nat) (x : Port) : (s.setPort p x).knownZero = s.knownZero := rfl
@[simp] theorem State.setPort_dev (s : State) (p : Nat) (x : Port) : (s.setPort p x).dev = s.dev := rfl
@[simp] theorem State.setPort_sup (s : State) (p : Nat) (x : Port) : (s.setPort p x).sup = s.sup := rfl
@[simp] theorem State.setPort_sec (s : State) (p : Nat) (x : Port) : (s.setPort p x).sec = s.sec := rfl
@[simp] theorem State.setPort_pwr (s : State) (p : Nat) (x : Port) : (s.setPort p x).pwr = s.pwr := rfl
@[simp] theorem State.setPort_flash (s : State) (p : Nat) (x : Port) : (s.setPort p x).flash = s.flash := rfl
@[simp] theorem State.setPort_commit (s : State) (p : Nat) (x : Port) : (s.setPort p x).commit = s.commit := rfl
@[simp] theorem State.setPort_mbx (s : State) (p : Nat) (x : Port) : (s.setPort p x).mbx = s.mbx := rfl
@[simp] theorem State.setPort_bells (s : State) (p : Nat) (x : Port) : (s.setPort p x).bells = s.bells := rfl
@[simp] theorem State.setPort_mbxEpoch (s : State) (p : Nat) (x : Port) : (s.setPort p x).mbxEpoch = s.mbxEpoch := rfl
@[simp] theorem State.setPort_mirrorEpoch (s : State) (p : Nat) (x : Port) : (s.setPort p x).mirrorEpoch = s.mirrorEpoch := rfl
@[simp] theorem State.setPort_rings (s : State) (p : Nat) (x : Port) : (s.setPort p x).rings = s.rings := rfl
@[simp] theorem State.setPort_cores (s : State) (p : Nat) (x : Port) : (s.setPort p x).cores = s.cores := rfl
@[simp] theorem State.setPort_idleIslands (s : State) (p : Nat) (x : Port) : (s.setPort p x).idleIslands = s.idleIslands := rfl
@[simp] theorem State.setPort_spares (s : State) (p : Nat) (x : Port) : (s.setPort p x).spares = s.spares := rfl
@[simp] theorem State.setPort_clusters (s : State) (p : Nat) (x : Port) : (s.setPort p x).clusters = s.clusters := rfl
@[simp] theorem State.setPort_quads (s : State) (p : Nat) (x : Port) : (s.setPort p x).quads = s.quads := rfl
@[simp] theorem State.setPort_health (s : State) (p : Nat) (x : Port) : (s.setPort p x).health = s.health := rfl
@[simp] theorem State.setPort_parts (s : State) (p : Nat) (x : Port) : (s.setPort p x).parts = s.parts := rfl
@[simp] theorem State.setPort_ctxs (s : State) (p : Nat) (x : Port) : (s.setPort p x).ctxs = s.ctxs := rfl
@[simp] theorem State.setPort_streams (s : State) (p : Nat) (x : Port) : (s.setPort p x).streams = s.streams := rfl
@[simp] theorem State.setPort_closeCtr (s : State) (p : Nat) (x : Port) : (s.setPort p x).closeCtr = s.closeCtr := rfl
@[simp] theorem State.setPort_aports (s : State) (p : Nat) (x : Port) : (s.setPort p x).aports = s.aports := rfl
@[simp] theorem State.setPort_agroups (s : State) (p : Nat) (x : Port) : (s.setPort p x).agroups = s.agroups := rfl
@[simp] theorem State.setPort_macs (s : State) (p : Nat) (x : Port) : (s.setPort p x).macs = s.macs := rfl
@[simp] theorem State.setPort_qps (s : State) (p : Nat) (x : Port) : (s.setPort p x).qps = s.qps := rfl
@[simp] theorem State.setPort_deadQps (s : State) (p : Nat) (x : Port) : (s.setPort p x).deadQps = s.deadQps := rfl
@[simp] theorem State.setPort_lastEpochs (s : State) (p : Nat) (x : Port) : (s.setPort p x).lastEpochs = s.lastEpochs := rfl
@[simp] theorem State.setPort_cc (s : State) (p : Nat) (x : Port) : (s.setPort p x).cc = s.cc := rfl
@[simp] theorem State.setPort_mgmt (s : State) (p : Nat) (x : Port) : (s.setPort p x).mgmt = s.mgmt := rfl
@[simp] theorem State.setPort_poolLow (s : State) (p : Nat) (x : Port) : (s.setPort p x).poolLow = s.poolLow := rfl
@[simp] theorem State.setPort_archHeld (s : State) (p : Nat) (x : Port) : (s.setPort p x).archHeld = s.archHeld := rfl
@[simp] theorem State.setPort_tests (s : State) (p : Nat) (x : Port) : (s.setPort p x).tests = s.tests := rfl
@[simp] theorem State.setPort_nextTest (s : State) (p : Nat) (x : Port) : (s.setPort p x).nextTest = s.nextTest := rfl
@[simp] theorem State.setPort_port_same (s : State) (p : Nat) (x : Port) : (s.setPort p x).port p = x := by
  simp [State.setPort, State.port]
theorem State.setPort_port_ne (s : State) {p k : Nat} (x : Port) (h : k ≠ p) : (s.setPort p x).port k = s.port k := by
  simp [State.setPort, State.port, tabGet_tabPut_ne _ _ _ h]

/-! ### setMac -/
@[simp] theorem State.setMac_pending (s : State) (m : Nat) (x : Mac) : (s.setMac m x).pending = s.pending := rfl
@[simp] theorem State.setMac_freeCtr (s : State) (m : Nat) (x : Mac) : (s.setMac m x).freeCtr = s.freeCtr := rfl
@[simp] theorem State.setMac_wire (s : State) (m : Nat) (x : Mac) : (s.setMac m x).wire = s.wire := rfl
@[simp] theorem State.setMac_now (s : State) (m : Nat) (x : Mac) : (s.setMac m x).now = s.now := rfl
@[simp] theorem State.setMac_mem (s : State) (m : Nat) (x : Mac) : (s.setMac m x).mem = s.mem := rfl
@[simp] theorem State.setMac_badSpans (s : State) (m : Nat) (x : Mac) : (s.setMac m x).badSpans = s.badSpans := rfl
@[simp] theorem State.setMac_lostPcs (s : State) (m : Nat) (x : Mac) : (s.setMac m x).lostPcs = s.lostPcs := rfl
@[simp] theorem State.setMac_knownZero (s : State) (m : Nat) (x : Mac) : (s.setMac m x).knownZero = s.knownZero := rfl
@[simp] theorem State.setMac_dev (s : State) (m : Nat) (x : Mac) : (s.setMac m x).dev = s.dev := rfl
@[simp] theorem State.setMac_sup (s : State) (m : Nat) (x : Mac) : (s.setMac m x).sup = s.sup := rfl
@[simp] theorem State.setMac_sec (s : State) (m : Nat) (x : Mac) : (s.setMac m x).sec = s.sec := rfl
@[simp] theorem State.setMac_pwr (s : State) (m : Nat) (x : Mac) : (s.setMac m x).pwr = s.pwr := rfl
@[simp] theorem State.setMac_flash (s : State) (m : Nat) (x : Mac) : (s.setMac m x).flash = s.flash := rfl
@[simp] theorem State.setMac_commit (s : State) (m : Nat) (x : Mac) : (s.setMac m x).commit = s.commit := rfl
@[simp] theorem State.setMac_mbx (s : State) (m : Nat) (x : Mac) : (s.setMac m x).mbx = s.mbx := rfl
@[simp] theorem State.setMac_bells (s : State) (m : Nat) (x : Mac) : (s.setMac m x).bells = s.bells := rfl
@[simp] theorem State.setMac_mbxEpoch (s : State) (m : Nat) (x : Mac) : (s.setMac m x).mbxEpoch = s.mbxEpoch := rfl
@[simp] theorem State.setMac_mirrorEpoch (s : State) (m : Nat) (x : Mac) : (s.setMac m x).mirrorEpoch = s.mirrorEpoch := rfl
@[simp] theorem State.setMac_rings (s : State) (m : Nat) (x : Mac) : (s.setMac m x).rings = s.rings := rfl
@[simp] theorem State.setMac_cores (s : State) (m : Nat) (x : Mac) : (s.setMac m x).cores = s.cores := rfl
@[simp] theorem State.setMac_idleIslands (s : State) (m : Nat) (x : Mac) : (s.setMac m x).idleIslands = s.idleIslands := rfl
@[simp] theorem State.setMac_spares (s : State) (m : Nat) (x : Mac) : (s.setMac m x).spares = s.spares := rfl
@[simp] theorem State.setMac_clusters (s : State) (m : Nat) (x : Mac) : (s.setMac m x).clusters = s.clusters := rfl
@[simp] theorem State.setMac_quads (s : State) (m : Nat) (x : Mac) : (s.setMac m x).quads = s.quads := rfl
@[simp] theorem State.setMac_health (s : State) (m : Nat) (x : Mac) : (s.setMac m x).health = s.health := rfl
@[simp] theorem State.setMac_parts (s : State) (m : Nat) (x : Mac) : (s.setMac m x).parts = s.parts := rfl
@[simp] theorem State.setMac_ctxs (s : State) (m : Nat) (x : Mac) : (s.setMac m x).ctxs = s.ctxs := rfl
@[simp] theorem State.setMac_streams (s : State) (m : Nat) (x : Mac) : (s.setMac m x).streams = s.streams := rfl
@[simp] theorem State.setMac_closeCtr (s : State) (m : Nat) (x : Mac) : (s.setMac m x).closeCtr = s.closeCtr := rfl
@[simp] theorem State.setMac_aports (s : State) (m : Nat) (x : Mac) : (s.setMac m x).aports = s.aports := rfl
@[simp] theorem State.setMac_agroups (s : State) (m : Nat) (x : Mac) : (s.setMac m x).agroups = s.agroups := rfl
@[simp] theorem State.setMac_ports (s : State) (m : Nat) (x : Mac) : (s.setMac m x).ports = s.ports := rfl
@[simp] theorem State.setMac_qps (s : State) (m : Nat) (x : Mac) : (s.setMac m x).qps = s.qps := rfl
@[simp] theorem State.setMac_deadQps (s : State) (m : Nat) (x : Mac) : (s.setMac m x).deadQps = s.deadQps := rfl
@[simp] theorem State.setMac_lastEpochs (s : State) (m : Nat) (x : Mac) : (s.setMac m x).lastEpochs = s.lastEpochs := rfl
@[simp] theorem State.setMac_cc (s : State) (m : Nat) (x : Mac) : (s.setMac m x).cc = s.cc := rfl
@[simp] theorem State.setMac_mgmt (s : State) (m : Nat) (x : Mac) : (s.setMac m x).mgmt = s.mgmt := rfl
@[simp] theorem State.setMac_poolLow (s : State) (m : Nat) (x : Mac) : (s.setMac m x).poolLow = s.poolLow := rfl
@[simp] theorem State.setMac_archHeld (s : State) (m : Nat) (x : Mac) : (s.setMac m x).archHeld = s.archHeld := rfl
@[simp] theorem State.setMac_tests (s : State) (m : Nat) (x : Mac) : (s.setMac m x).tests = s.tests := rfl
@[simp] theorem State.setMac_nextTest (s : State) (m : Nat) (x : Mac) : (s.setMac m x).nextTest = s.nextTest := rfl
@[simp] theorem State.setMac_mac_same (s : State) (m : Nat) (x : Mac) : (s.setMac m x).mac m = x := by
  simp [State.setMac, State.mac]
theorem State.setMac_mac_ne (s : State) {m k : Nat} (x : Mac) (h : k ≠ m) : (s.setMac m x).mac k = s.mac k := by
  simp [State.setMac, State.mac, tabGet_tabPut_ne _ _ _ h]

/-! ### setQp -/
@[simp] theorem State.setQp_pending (s : State) (q : Nat) (x : Qp) : (s.setQp q x).pending = s.pending := rfl
@[simp] theorem State.setQp_freeCtr (s : State) (q : Nat) (x : Qp) : (s.setQp q x).freeCtr = s.freeCtr := rfl
@[simp] theorem State.setQp_wire (s : State) (q : Nat) (x : Qp) : (s.setQp q x).wire = s.wire := rfl
@[simp] theorem State.setQp_now (s : State) (q : Nat) (x : Qp) : (s.setQp q x).now = s.now := rfl
@[simp] theorem State.setQp_mem (s : State) (q : Nat) (x : Qp) : (s.setQp q x).mem = s.mem := rfl
@[simp] theorem State.setQp_badSpans (s : State) (q : Nat) (x : Qp) : (s.setQp q x).badSpans = s.badSpans := rfl
@[simp] theorem State.setQp_lostPcs (s : State) (q : Nat) (x : Qp) : (s.setQp q x).lostPcs = s.lostPcs := rfl
@[simp] theorem State.setQp_knownZero (s : State) (q : Nat) (x : Qp) : (s.setQp q x).knownZero = s.knownZero := rfl
@[simp] theorem State.setQp_dev (s : State) (q : Nat) (x : Qp) : (s.setQp q x).dev = s.dev := rfl
@[simp] theorem State.setQp_sup (s : State) (q : Nat) (x : Qp) : (s.setQp q x).sup = s.sup := rfl
@[simp] theorem State.setQp_sec (s : State) (q : Nat) (x : Qp) : (s.setQp q x).sec = s.sec := rfl
@[simp] theorem State.setQp_pwr (s : State) (q : Nat) (x : Qp) : (s.setQp q x).pwr = s.pwr := rfl
@[simp] theorem State.setQp_flash (s : State) (q : Nat) (x : Qp) : (s.setQp q x).flash = s.flash := rfl
@[simp] theorem State.setQp_commit (s : State) (q : Nat) (x : Qp) : (s.setQp q x).commit = s.commit := rfl
@[simp] theorem State.setQp_mbx (s : State) (q : Nat) (x : Qp) : (s.setQp q x).mbx = s.mbx := rfl
@[simp] theorem State.setQp_bells (s : State) (q : Nat) (x : Qp) : (s.setQp q x).bells = s.bells := rfl
@[simp] theorem State.setQp_mbxEpoch (s : State) (q : Nat) (x : Qp) : (s.setQp q x).mbxEpoch = s.mbxEpoch := rfl
@[simp] theorem State.setQp_mirrorEpoch (s : State) (q : Nat) (x : Qp) : (s.setQp q x).mirrorEpoch = s.mirrorEpoch := rfl
@[simp] theorem State.setQp_rings (s : State) (q : Nat) (x : Qp) : (s.setQp q x).rings = s.rings := rfl
@[simp] theorem State.setQp_cores (s : State) (q : Nat) (x : Qp) : (s.setQp q x).cores = s.cores := rfl
@[simp] theorem State.setQp_idleIslands (s : State) (q : Nat) (x : Qp) : (s.setQp q x).idleIslands = s.idleIslands := rfl
@[simp] theorem State.setQp_spares (s : State) (q : Nat) (x : Qp) : (s.setQp q x).spares = s.spares := rfl
@[simp] theorem State.setQp_clusters (s : State) (q : Nat) (x : Qp) : (s.setQp q x).clusters = s.clusters := rfl
@[simp] theorem State.setQp_quads (s : State) (q : Nat) (x : Qp) : (s.setQp q x).quads = s.quads := rfl
@[simp] theorem State.setQp_health (s : State) (q : Nat) (x : Qp) : (s.setQp q x).health = s.health := rfl
@[simp] theorem State.setQp_parts (s : State) (q : Nat) (x : Qp) : (s.setQp q x).parts = s.parts := rfl
@[simp] theorem State.setQp_ctxs (s : State) (q : Nat) (x : Qp) : (s.setQp q x).ctxs = s.ctxs := rfl
@[simp] theorem State.setQp_streams (s : State) (q : Nat) (x : Qp) : (s.setQp q x).streams = s.streams := rfl
@[simp] theorem State.setQp_closeCtr (s : State) (q : Nat) (x : Qp) : (s.setQp q x).closeCtr = s.closeCtr := rfl
@[simp] theorem State.setQp_aports (s : State) (q : Nat) (x : Qp) : (s.setQp q x).aports = s.aports := rfl
@[simp] theorem State.setQp_agroups (s : State) (q : Nat) (x : Qp) : (s.setQp q x).agroups = s.agroups := rfl
@[simp] theorem State.setQp_ports (s : State) (q : Nat) (x : Qp) : (s.setQp q x).ports = s.ports := rfl
@[simp] theorem State.setQp_macs (s : State) (q : Nat) (x : Qp) : (s.setQp q x).macs = s.macs := rfl
@[simp] theorem State.setQp_deadQps (s : State) (q : Nat) (x : Qp) : (s.setQp q x).deadQps = s.deadQps := rfl
@[simp] theorem State.setQp_lastEpochs (s : State) (q : Nat) (x : Qp) : (s.setQp q x).lastEpochs = s.lastEpochs := rfl
@[simp] theorem State.setQp_cc (s : State) (q : Nat) (x : Qp) : (s.setQp q x).cc = s.cc := rfl
@[simp] theorem State.setQp_mgmt (s : State) (q : Nat) (x : Qp) : (s.setQp q x).mgmt = s.mgmt := rfl
@[simp] theorem State.setQp_poolLow (s : State) (q : Nat) (x : Qp) : (s.setQp q x).poolLow = s.poolLow := rfl
@[simp] theorem State.setQp_archHeld (s : State) (q : Nat) (x : Qp) : (s.setQp q x).archHeld = s.archHeld := rfl
@[simp] theorem State.setQp_tests (s : State) (q : Nat) (x : Qp) : (s.setQp q x).tests = s.tests := rfl
@[simp] theorem State.setQp_nextTest (s : State) (q : Nat) (x : Qp) : (s.setQp q x).nextTest = s.nextTest := rfl
@[simp] theorem State.setQp_qp_same (s : State) (q : Nat) (x : Qp) : (s.setQp q x).qp? q = some x :=
  tabGet?_tabPut_same _ _ _
theorem State.setQp_qp_ne (s : State) {q k : Nat} (x : Qp) (h : k ≠ q) : (s.setQp q x).qp? k = s.qp? k :=
  tabGet?_tabPut_ne _ _ h

/-! ### emit -/
@[simp] theorem State.emit_pending (s : State) (o : Output) : (s.emit o).pending = s.pending := rfl
@[simp] theorem State.emit_freeCtr (s : State) (o : Output) : (s.emit o).freeCtr = s.freeCtr := rfl
@[simp] theorem State.emit_now (s : State) (o : Output) : (s.emit o).now = s.now := rfl
@[simp] theorem State.emit_mem (s : State) (o : Output) : (s.emit o).mem = s.mem := rfl
@[simp] theorem State.emit_badSpans (s : State) (o : Output) : (s.emit o).badSpans = s.badSpans := rfl
@[simp] theorem State.emit_lostPcs (s : State) (o : Output) : (s.emit o).lostPcs = s.lostPcs := rfl
@[simp] theorem State.emit_knownZero (s : State) (o : Output) : (s.emit o).knownZero = s.knownZero := rfl
@[simp] theorem State.emit_dev (s : State) (o : Output) : (s.emit o).dev = s.dev := rfl
@[simp] theorem State.emit_sup (s : State) (o : Output) : (s.emit o).sup = s.sup := rfl
@[simp] theorem State.emit_sec (s : State) (o : Output) : (s.emit o).sec = s.sec := rfl
@[simp] theorem State.emit_pwr (s : State) (o : Output) : (s.emit o).pwr = s.pwr := rfl
@[simp] theorem State.emit_flash (s : State) (o : Output) : (s.emit o).flash = s.flash := rfl
@[simp] theorem State.emit_commit (s : State) (o : Output) : (s.emit o).commit = s.commit := rfl
@[simp] theorem State.emit_mbx (s : State) (o : Output) : (s.emit o).mbx = s.mbx := rfl
@[simp] theorem State.emit_bells (s : State) (o : Output) : (s.emit o).bells = s.bells := rfl
@[simp] theorem State.emit_mbxEpoch (s : State) (o : Output) : (s.emit o).mbxEpoch = s.mbxEpoch := rfl
@[simp] theorem State.emit_mirrorEpoch (s : State) (o : Output) : (s.emit o).mirrorEpoch = s.mirrorEpoch := rfl
@[simp] theorem State.emit_rings (s : State) (o : Output) : (s.emit o).rings = s.rings := rfl
@[simp] theorem State.emit_cores (s : State) (o : Output) : (s.emit o).cores = s.cores := rfl
@[simp] theorem State.emit_idleIslands (s : State) (o : Output) : (s.emit o).idleIslands = s.idleIslands := rfl
@[simp] theorem State.emit_spares (s : State) (o : Output) : (s.emit o).spares = s.spares := rfl
@[simp] theorem State.emit_clusters (s : State) (o : Output) : (s.emit o).clusters = s.clusters := rfl
@[simp] theorem State.emit_quads (s : State) (o : Output) : (s.emit o).quads = s.quads := rfl
@[simp] theorem State.emit_health (s : State) (o : Output) : (s.emit o).health = s.health := rfl
@[simp] theorem State.emit_parts (s : State) (o : Output) : (s.emit o).parts = s.parts := rfl
@[simp] theorem State.emit_ctxs (s : State) (o : Output) : (s.emit o).ctxs = s.ctxs := rfl
@[simp] theorem State.emit_streams (s : State) (o : Output) : (s.emit o).streams = s.streams := rfl
@[simp] theorem State.emit_closeCtr (s : State) (o : Output) : (s.emit o).closeCtr = s.closeCtr := rfl
@[simp] theorem State.emit_aports (s : State) (o : Output) : (s.emit o).aports = s.aports := rfl
@[simp] theorem State.emit_agroups (s : State) (o : Output) : (s.emit o).agroups = s.agroups := rfl
@[simp] theorem State.emit_ports (s : State) (o : Output) : (s.emit o).ports = s.ports := rfl
@[simp] theorem State.emit_macs (s : State) (o : Output) : (s.emit o).macs = s.macs := rfl
@[simp] theorem State.emit_qps (s : State) (o : Output) : (s.emit o).qps = s.qps := rfl
@[simp] theorem State.emit_deadQps (s : State) (o : Output) : (s.emit o).deadQps = s.deadQps := rfl
@[simp] theorem State.emit_lastEpochs (s : State) (o : Output) : (s.emit o).lastEpochs = s.lastEpochs := rfl
@[simp] theorem State.emit_cc (s : State) (o : Output) : (s.emit o).cc = s.cc := rfl
@[simp] theorem State.emit_mgmt (s : State) (o : Output) : (s.emit o).mgmt = s.mgmt := rfl
@[simp] theorem State.emit_poolLow (s : State) (o : Output) : (s.emit o).poolLow = s.poolLow := rfl
@[simp] theorem State.emit_archHeld (s : State) (o : Output) : (s.emit o).archHeld = s.archHeld := rfl
@[simp] theorem State.emit_tests (s : State) (o : Output) : (s.emit o).tests = s.tests := rfl
@[simp] theorem State.emit_nextTest (s : State) (o : Output) : (s.emit o).nextTest = s.nextTest := rfl

/-! ### depart -/
@[simp] theorem State.depart_pending (s : State) (o : Output) (k : Option Mark) : (s.depart o k).pending = s.pending := rfl
@[simp] theorem State.depart_freeCtr (s : State) (o : Output) (k : Option Mark) : (s.depart o k).freeCtr = s.freeCtr := rfl
@[simp] theorem State.depart_now (s : State) (o : Output) (k : Option Mark) : (s.depart o k).now = s.now := rfl
@[simp] theorem State.depart_mem (s : State) (o : Output) (k : Option Mark) : (s.depart o k).mem = s.mem := rfl
@[simp] theorem State.depart_badSpans (s : State) (o : Output) (k : Option Mark) : (s.depart o k).badSpans = s.badSpans := rfl
@[simp] theorem State.depart_lostPcs (s : State) (o : Output) (k : Option Mark) : (s.depart o k).lostPcs = s.lostPcs := rfl
@[simp] theorem State.depart_knownZero (s : State) (o : Output) (k : Option Mark) : (s.depart o k).knownZero = s.knownZero := rfl
@[simp] theorem State.depart_dev (s : State) (o : Output) (k : Option Mark) : (s.depart o k).dev = s.dev := rfl
@[simp] theorem State.depart_sup (s : State) (o : Output) (k : Option Mark) : (s.depart o k).sup = s.sup := rfl
@[simp] theorem State.depart_sec (s : State) (o : Output) (k : Option Mark) : (s.depart o k).sec = s.sec := rfl
@[simp] theorem State.depart_pwr (s : State) (o : Output) (k : Option Mark) : (s.depart o k).pwr = s.pwr := rfl
@[simp] theorem State.depart_flash (s : State) (o : Output) (k : Option Mark) : (s.depart o k).flash = s.flash := rfl
@[simp] theorem State.depart_commit (s : State) (o : Output) (k : Option Mark) : (s.depart o k).commit = s.commit := rfl
@[simp] theorem State.depart_mbx (s : State) (o : Output) (k : Option Mark) : (s.depart o k).mbx = s.mbx := rfl
@[simp] theorem State.depart_bells (s : State) (o : Output) (k : Option Mark) : (s.depart o k).bells = s.bells := rfl
@[simp] theorem State.depart_mbxEpoch (s : State) (o : Output) (k : Option Mark) : (s.depart o k).mbxEpoch = s.mbxEpoch := rfl
@[simp] theorem State.depart_mirrorEpoch (s : State) (o : Output) (k : Option Mark) : (s.depart o k).mirrorEpoch = s.mirrorEpoch := rfl
@[simp] theorem State.depart_rings (s : State) (o : Output) (k : Option Mark) : (s.depart o k).rings = s.rings := rfl
@[simp] theorem State.depart_cores (s : State) (o : Output) (k : Option Mark) : (s.depart o k).cores = s.cores := rfl
@[simp] theorem State.depart_idleIslands (s : State) (o : Output) (k : Option Mark) : (s.depart o k).idleIslands = s.idleIslands := rfl
@[simp] theorem State.depart_spares (s : State) (o : Output) (k : Option Mark) : (s.depart o k).spares = s.spares := rfl
@[simp] theorem State.depart_clusters (s : State) (o : Output) (k : Option Mark) : (s.depart o k).clusters = s.clusters := rfl
@[simp] theorem State.depart_quads (s : State) (o : Output) (k : Option Mark) : (s.depart o k).quads = s.quads := rfl
@[simp] theorem State.depart_health (s : State) (o : Output) (k : Option Mark) : (s.depart o k).health = s.health := rfl
@[simp] theorem State.depart_parts (s : State) (o : Output) (k : Option Mark) : (s.depart o k).parts = s.parts := rfl
@[simp] theorem State.depart_ctxs (s : State) (o : Output) (k : Option Mark) : (s.depart o k).ctxs = s.ctxs := rfl
@[simp] theorem State.depart_streams (s : State) (o : Output) (k : Option Mark) : (s.depart o k).streams = s.streams := rfl
@[simp] theorem State.depart_closeCtr (s : State) (o : Output) (k : Option Mark) : (s.depart o k).closeCtr = s.closeCtr := rfl
@[simp] theorem State.depart_aports (s : State) (o : Output) (k : Option Mark) : (s.depart o k).aports = s.aports := rfl
@[simp] theorem State.depart_agroups (s : State) (o : Output) (k : Option Mark) : (s.depart o k).agroups = s.agroups := rfl
@[simp] theorem State.depart_ports (s : State) (o : Output) (k : Option Mark) : (s.depart o k).ports = s.ports := rfl
@[simp] theorem State.depart_macs (s : State) (o : Output) (k : Option Mark) : (s.depart o k).macs = s.macs := rfl
@[simp] theorem State.depart_qps (s : State) (o : Output) (k : Option Mark) : (s.depart o k).qps = s.qps := rfl
@[simp] theorem State.depart_deadQps (s : State) (o : Output) (k : Option Mark) : (s.depart o k).deadQps = s.deadQps := rfl
@[simp] theorem State.depart_lastEpochs (s : State) (o : Output) (k : Option Mark) : (s.depart o k).lastEpochs = s.lastEpochs := rfl
@[simp] theorem State.depart_cc (s : State) (o : Output) (k : Option Mark) : (s.depart o k).cc = s.cc := rfl
@[simp] theorem State.depart_mgmt (s : State) (o : Output) (k : Option Mark) : (s.depart o k).mgmt = s.mgmt := rfl
@[simp] theorem State.depart_poolLow (s : State) (o : Output) (k : Option Mark) : (s.depart o k).poolLow = s.poolLow := rfl
@[simp] theorem State.depart_archHeld (s : State) (o : Output) (k : Option Mark) : (s.depart o k).archHeld = s.archHeld := rfl
@[simp] theorem State.depart_tests (s : State) (o : Output) (k : Option Mark) : (s.depart o k).tests = s.tests := rfl
@[simp] theorem State.depart_nextTest (s : State) (o : Output) (k : Option Mark) : (s.depart o k).nextTest = s.nextTest := rfl

/-! ### writeRaw -/
@[simp] theorem State.writeRaw_pending (s : State) (a : Nat) (bs : Bytes) : (s.writeRaw a bs).pending = s.pending := rfl
@[simp] theorem State.writeRaw_freeCtr (s : State) (a : Nat) (bs : Bytes) : (s.writeRaw a bs).freeCtr = s.freeCtr := rfl
@[simp] theorem State.writeRaw_wire (s : State) (a : Nat) (bs : Bytes) : (s.writeRaw a bs).wire = s.wire := rfl
@[simp] theorem State.writeRaw_now (s : State) (a : Nat) (bs : Bytes) : (s.writeRaw a bs).now = s.now := rfl
@[simp] theorem State.writeRaw_knownZero (s : State) (a : Nat) (bs : Bytes) : (s.writeRaw a bs).knownZero = s.knownZero := rfl
@[simp] theorem State.writeRaw_dev (s : State) (a : Nat) (bs : Bytes) : (s.writeRaw a bs).dev = s.dev := rfl
@[simp] theorem State.writeRaw_sup (s : State) (a : Nat) (bs : Bytes) : (s.writeRaw a bs).sup = s.sup := rfl
@[simp] theorem State.writeRaw_sec (s : State) (a : Nat) (bs : Bytes) : (s.writeRaw a bs).sec = s.sec := rfl
@[simp] theorem State.writeRaw_pwr (s : State) (a : Nat) (bs : Bytes) : (s.writeRaw a bs).pwr = s.pwr := rfl
@[simp] theorem State.writeRaw_flash (s : State) (a : Nat) (bs : Bytes) : (s.writeRaw a bs).flash = s.flash := rfl
@[simp] theorem State.writeRaw_commit (s : State) (a : Nat) (bs : Bytes) : (s.writeRaw a bs).commit = s.commit := rfl
@[simp] theorem State.writeRaw_mbx (s : State) (a : Nat) (bs : Bytes) : (s.writeRaw a bs).mbx = s.mbx := rfl
@[simp] theorem State.writeRaw_bells (s : State) (a : Nat) (bs : Bytes) : (s.writeRaw a bs).bells = s.bells := rfl
@[simp] theorem State.writeRaw_mbxEpoch (s : State) (a : Nat) (bs : Bytes) : (s.writeRaw a bs).mbxEpoch = s.mbxEpoch := rfl
@[simp] theorem State.writeRaw_mirrorEpoch (s : State) (a : Nat) (bs : Bytes) : (s.writeRaw a bs).mirrorEpoch = s.mirrorEpoch := rfl
@[simp] theorem State.writeRaw_rings (s : State) (a : Nat) (bs : Bytes) : (s.writeRaw a bs).rings = s.rings := rfl
@[simp] theorem State.writeRaw_cores (s : State) (a : Nat) (bs : Bytes) : (s.writeRaw a bs).cores = s.cores := rfl
@[simp] theorem State.writeRaw_idleIslands (s : State) (a : Nat) (bs : Bytes) : (s.writeRaw a bs).idleIslands = s.idleIslands := rfl
@[simp] theorem State.writeRaw_spares (s : State) (a : Nat) (bs : Bytes) : (s.writeRaw a bs).spares = s.spares := rfl
@[simp] theorem State.writeRaw_clusters (s : State) (a : Nat) (bs : Bytes) : (s.writeRaw a bs).clusters = s.clusters := rfl
@[simp] theorem State.writeRaw_quads (s : State) (a : Nat) (bs : Bytes) : (s.writeRaw a bs).quads = s.quads := rfl
@[simp] theorem State.writeRaw_health (s : State) (a : Nat) (bs : Bytes) : (s.writeRaw a bs).health = s.health := rfl
@[simp] theorem State.writeRaw_parts (s : State) (a : Nat) (bs : Bytes) : (s.writeRaw a bs).parts = s.parts := rfl
@[simp] theorem State.writeRaw_ctxs (s : State) (a : Nat) (bs : Bytes) : (s.writeRaw a bs).ctxs = s.ctxs := rfl
@[simp] theorem State.writeRaw_streams (s : State) (a : Nat) (bs : Bytes) : (s.writeRaw a bs).streams = s.streams := rfl
@[simp] theorem State.writeRaw_closeCtr (s : State) (a : Nat) (bs : Bytes) : (s.writeRaw a bs).closeCtr = s.closeCtr := rfl
@[simp] theorem State.writeRaw_aports (s : State) (a : Nat) (bs : Bytes) : (s.writeRaw a bs).aports = s.aports := rfl
@[simp] theorem State.writeRaw_agroups (s : State) (a : Nat) (bs : Bytes) : (s.writeRaw a bs).agroups = s.agroups := rfl
@[simp] theorem State.writeRaw_ports (s : State) (a : Nat) (bs : Bytes) : (s.writeRaw a bs).ports = s.ports := rfl
@[simp] theorem State.writeRaw_macs (s : State) (a : Nat) (bs : Bytes) : (s.writeRaw a bs).macs = s.macs := rfl
@[simp] theorem State.writeRaw_qps (s : State) (a : Nat) (bs : Bytes) : (s.writeRaw a bs).qps = s.qps := rfl
@[simp] theorem State.writeRaw_deadQps (s : State) (a : Nat) (bs : Bytes) : (s.writeRaw a bs).deadQps = s.deadQps := rfl
@[simp] theorem State.writeRaw_lastEpochs (s : State) (a : Nat) (bs : Bytes) : (s.writeRaw a bs).lastEpochs = s.lastEpochs := rfl
@[simp] theorem State.writeRaw_cc (s : State) (a : Nat) (bs : Bytes) : (s.writeRaw a bs).cc = s.cc := rfl
@[simp] theorem State.writeRaw_mgmt (s : State) (a : Nat) (bs : Bytes) : (s.writeRaw a bs).mgmt = s.mgmt := rfl
@[simp] theorem State.writeRaw_poolLow (s : State) (a : Nat) (bs : Bytes) : (s.writeRaw a bs).poolLow = s.poolLow := rfl
@[simp] theorem State.writeRaw_archHeld (s : State) (a : Nat) (bs : Bytes) : (s.writeRaw a bs).archHeld = s.archHeld := rfl
@[simp] theorem State.writeRaw_tests (s : State) (a : Nat) (bs : Bytes) : (s.writeRaw a bs).tests = s.tests := rfl
@[simp] theorem State.writeRaw_nextTest (s : State) (a : Nat) (bs : Bytes) : (s.writeRaw a bs).nextTest = s.nextTest := rfl

/-! ### zero -/
@[simp] theorem State.zero_pending (s : State) (a n : Nat) : (s.zero a n).pending = s.pending := rfl
@[simp] theorem State.zero_freeCtr (s : State) (a n : Nat) : (s.zero a n).freeCtr = s.freeCtr := rfl
@[simp] theorem State.zero_wire (s : State) (a n : Nat) : (s.zero a n).wire = s.wire := rfl
@[simp] theorem State.zero_now (s : State) (a n : Nat) : (s.zero a n).now = s.now := rfl
@[simp] theorem State.zero_knownZero (s : State) (a n : Nat) : (s.zero a n).knownZero = s.knownZero := rfl
@[simp] theorem State.zero_dev (s : State) (a n : Nat) : (s.zero a n).dev = s.dev := rfl
@[simp] theorem State.zero_sup (s : State) (a n : Nat) : (s.zero a n).sup = s.sup := rfl
@[simp] theorem State.zero_sec (s : State) (a n : Nat) : (s.zero a n).sec = s.sec := rfl
@[simp] theorem State.zero_pwr (s : State) (a n : Nat) : (s.zero a n).pwr = s.pwr := rfl
@[simp] theorem State.zero_flash (s : State) (a n : Nat) : (s.zero a n).flash = s.flash := rfl
@[simp] theorem State.zero_commit (s : State) (a n : Nat) : (s.zero a n).commit = s.commit := rfl
@[simp] theorem State.zero_mbx (s : State) (a n : Nat) : (s.zero a n).mbx = s.mbx := rfl
@[simp] theorem State.zero_bells (s : State) (a n : Nat) : (s.zero a n).bells = s.bells := rfl
@[simp] theorem State.zero_mbxEpoch (s : State) (a n : Nat) : (s.zero a n).mbxEpoch = s.mbxEpoch := rfl
@[simp] theorem State.zero_mirrorEpoch (s : State) (a n : Nat) : (s.zero a n).mirrorEpoch = s.mirrorEpoch := rfl
@[simp] theorem State.zero_rings (s : State) (a n : Nat) : (s.zero a n).rings = s.rings := rfl
@[simp] theorem State.zero_cores (s : State) (a n : Nat) : (s.zero a n).cores = s.cores := rfl
@[simp] theorem State.zero_idleIslands (s : State) (a n : Nat) : (s.zero a n).idleIslands = s.idleIslands := rfl
@[simp] theorem State.zero_spares (s : State) (a n : Nat) : (s.zero a n).spares = s.spares := rfl
@[simp] theorem State.zero_clusters (s : State) (a n : Nat) : (s.zero a n).clusters = s.clusters := rfl
@[simp] theorem State.zero_quads (s : State) (a n : Nat) : (s.zero a n).quads = s.quads := rfl
@[simp] theorem State.zero_health (s : State) (a n : Nat) : (s.zero a n).health = s.health := rfl
@[simp] theorem State.zero_parts (s : State) (a n : Nat) : (s.zero a n).parts = s.parts := rfl
@[simp] theorem State.zero_ctxs (s : State) (a n : Nat) : (s.zero a n).ctxs = s.ctxs := rfl
@[simp] theorem State.zero_streams (s : State) (a n : Nat) : (s.zero a n).streams = s.streams := rfl
@[simp] theorem State.zero_closeCtr (s : State) (a n : Nat) : (s.zero a n).closeCtr = s.closeCtr := rfl
@[simp] theorem State.zero_aports (s : State) (a n : Nat) : (s.zero a n).aports = s.aports := rfl
@[simp] theorem State.zero_agroups (s : State) (a n : Nat) : (s.zero a n).agroups = s.agroups := rfl
@[simp] theorem State.zero_ports (s : State) (a n : Nat) : (s.zero a n).ports = s.ports := rfl
@[simp] theorem State.zero_macs (s : State) (a n : Nat) : (s.zero a n).macs = s.macs := rfl
@[simp] theorem State.zero_qps (s : State) (a n : Nat) : (s.zero a n).qps = s.qps := rfl
@[simp] theorem State.zero_deadQps (s : State) (a n : Nat) : (s.zero a n).deadQps = s.deadQps := rfl
@[simp] theorem State.zero_lastEpochs (s : State) (a n : Nat) : (s.zero a n).lastEpochs = s.lastEpochs := rfl
@[simp] theorem State.zero_cc (s : State) (a n : Nat) : (s.zero a n).cc = s.cc := rfl
@[simp] theorem State.zero_mgmt (s : State) (a n : Nat) : (s.zero a n).mgmt = s.mgmt := rfl
@[simp] theorem State.zero_poolLow (s : State) (a n : Nat) : (s.zero a n).poolLow = s.poolLow := rfl
@[simp] theorem State.zero_archHeld (s : State) (a n : Nat) : (s.zero a n).archHeld = s.archHeld := rfl
@[simp] theorem State.zero_tests (s : State) (a n : Nat) : (s.zero a n).tests = s.tests := rfl
@[simp] theorem State.zero_nextTest (s : State) (a n : Nat) : (s.zero a n).nextTest = s.nextTest := rfl

/-! ### memError -/
@[simp] theorem State.memError_pending (s : State) (e : MemError) : (s.memError e).pending = s.pending := rfl
@[simp] theorem State.memError_freeCtr (s : State) (e : MemError) : (s.memError e).freeCtr = s.freeCtr := rfl
@[simp] theorem State.memError_wire (s : State) (e : MemError) : (s.memError e).wire = s.wire := rfl
@[simp] theorem State.memError_now (s : State) (e : MemError) : (s.memError e).now = s.now := rfl
@[simp] theorem State.memError_mem (s : State) (e : MemError) : (s.memError e).mem = s.mem := rfl
@[simp] theorem State.memError_badSpans (s : State) (e : MemError) : (s.memError e).badSpans = s.badSpans := rfl
@[simp] theorem State.memError_lostPcs (s : State) (e : MemError) : (s.memError e).lostPcs = s.lostPcs := rfl
@[simp] theorem State.memError_knownZero (s : State) (e : MemError) : (s.memError e).knownZero = s.knownZero := rfl
@[simp] theorem State.memError_dev (s : State) (e : MemError) : (s.memError e).dev = s.dev := rfl
@[simp] theorem State.memError_sup (s : State) (e : MemError) : (s.memError e).sup = s.sup := rfl
@[simp] theorem State.memError_sec (s : State) (e : MemError) : (s.memError e).sec = s.sec := rfl
@[simp] theorem State.memError_pwr (s : State) (e : MemError) : (s.memError e).pwr = s.pwr := rfl
@[simp] theorem State.memError_flash (s : State) (e : MemError) : (s.memError e).flash = s.flash := rfl
@[simp] theorem State.memError_commit (s : State) (e : MemError) : (s.memError e).commit = s.commit := rfl
@[simp] theorem State.memError_mbx (s : State) (e : MemError) : (s.memError e).mbx = s.mbx := rfl
@[simp] theorem State.memError_bells (s : State) (e : MemError) : (s.memError e).bells = s.bells := rfl
@[simp] theorem State.memError_mbxEpoch (s : State) (e : MemError) : (s.memError e).mbxEpoch = s.mbxEpoch := rfl
@[simp] theorem State.memError_mirrorEpoch (s : State) (e : MemError) : (s.memError e).mirrorEpoch = s.mirrorEpoch := rfl
@[simp] theorem State.memError_rings (s : State) (e : MemError) : (s.memError e).rings = s.rings := rfl
@[simp] theorem State.memError_cores (s : State) (e : MemError) : (s.memError e).cores = s.cores := rfl
@[simp] theorem State.memError_idleIslands (s : State) (e : MemError) : (s.memError e).idleIslands = s.idleIslands := rfl
@[simp] theorem State.memError_spares (s : State) (e : MemError) : (s.memError e).spares = s.spares := rfl
@[simp] theorem State.memError_clusters (s : State) (e : MemError) : (s.memError e).clusters = s.clusters := rfl
@[simp] theorem State.memError_quads (s : State) (e : MemError) : (s.memError e).quads = s.quads := rfl
@[simp] theorem State.memError_parts (s : State) (e : MemError) : (s.memError e).parts = s.parts := rfl
@[simp] theorem State.memError_ctxs (s : State) (e : MemError) : (s.memError e).ctxs = s.ctxs := rfl
@[simp] theorem State.memError_streams (s : State) (e : MemError) : (s.memError e).streams = s.streams := rfl
@[simp] theorem State.memError_closeCtr (s : State) (e : MemError) : (s.memError e).closeCtr = s.closeCtr := rfl
@[simp] theorem State.memError_aports (s : State) (e : MemError) : (s.memError e).aports = s.aports := rfl
@[simp] theorem State.memError_agroups (s : State) (e : MemError) : (s.memError e).agroups = s.agroups := rfl
@[simp] theorem State.memError_ports (s : State) (e : MemError) : (s.memError e).ports = s.ports := rfl
@[simp] theorem State.memError_macs (s : State) (e : MemError) : (s.memError e).macs = s.macs := rfl
@[simp] theorem State.memError_qps (s : State) (e : MemError) : (s.memError e).qps = s.qps := rfl
@[simp] theorem State.memError_deadQps (s : State) (e : MemError) : (s.memError e).deadQps = s.deadQps := rfl
@[simp] theorem State.memError_lastEpochs (s : State) (e : MemError) : (s.memError e).lastEpochs = s.lastEpochs := rfl
@[simp] theorem State.memError_cc (s : State) (e : MemError) : (s.memError e).cc = s.cc := rfl
@[simp] theorem State.memError_mgmt (s : State) (e : MemError) : (s.memError e).mgmt = s.mgmt := rfl
@[simp] theorem State.memError_poolLow (s : State) (e : MemError) : (s.memError e).poolLow = s.poolLow := rfl
@[simp] theorem State.memError_archHeld (s : State) (e : MemError) : (s.memError e).archHeld = s.archHeld := rfl
@[simp] theorem State.memError_tests (s : State) (e : MemError) : (s.memError e).tests = s.tests := rfl
@[simp] theorem State.memError_nextTest (s : State) (e : MemError) : (s.memError e).nextTest = s.nextTest := rfl

/-! ### flashOp -/
@[simp] theorem State.flashOp_pending (s : State) (o : FlashOp) : (s.flashOp o).pending = s.pending := rfl
@[simp] theorem State.flashOp_freeCtr (s : State) (o : FlashOp) : (s.flashOp o).freeCtr = s.freeCtr := rfl
@[simp] theorem State.flashOp_wire (s : State) (o : FlashOp) : (s.flashOp o).wire = s.wire := rfl
@[simp] theorem State.flashOp_now (s : State) (o : FlashOp) : (s.flashOp o).now = s.now := rfl
@[simp] theorem State.flashOp_mem (s : State) (o : FlashOp) : (s.flashOp o).mem = s.mem := rfl
@[simp] theorem State.flashOp_badSpans (s : State) (o : FlashOp) : (s.flashOp o).badSpans = s.badSpans := rfl
@[simp] theorem State.flashOp_lostPcs (s : State) (o : FlashOp) : (s.flashOp o).lostPcs = s.lostPcs := rfl
@[simp] theorem State.flashOp_knownZero (s : State) (o : FlashOp) : (s.flashOp o).knownZero = s.knownZero := rfl
@[simp] theorem State.flashOp_dev (s : State) (o : FlashOp) : (s.flashOp o).dev = s.dev := rfl
@[simp] theorem State.flashOp_sup (s : State) (o : FlashOp) : (s.flashOp o).sup = s.sup := rfl
@[simp] theorem State.flashOp_sec (s : State) (o : FlashOp) : (s.flashOp o).sec = s.sec := rfl
@[simp] theorem State.flashOp_pwr (s : State) (o : FlashOp) : (s.flashOp o).pwr = s.pwr := rfl
@[simp] theorem State.flashOp_commit (s : State) (o : FlashOp) : (s.flashOp o).commit = s.commit := rfl
@[simp] theorem State.flashOp_mbx (s : State) (o : FlashOp) : (s.flashOp o).mbx = s.mbx := rfl
@[simp] theorem State.flashOp_bells (s : State) (o : FlashOp) : (s.flashOp o).bells = s.bells := rfl
@[simp] theorem State.flashOp_mbxEpoch (s : State) (o : FlashOp) : (s.flashOp o).mbxEpoch = s.mbxEpoch := rfl
@[simp] theorem State.flashOp_mirrorEpoch (s : State) (o : FlashOp) : (s.flashOp o).mirrorEpoch = s.mirrorEpoch := rfl
@[simp] theorem State.flashOp_rings (s : State) (o : FlashOp) : (s.flashOp o).rings = s.rings := rfl
@[simp] theorem State.flashOp_cores (s : State) (o : FlashOp) : (s.flashOp o).cores = s.cores := rfl
@[simp] theorem State.flashOp_idleIslands (s : State) (o : FlashOp) : (s.flashOp o).idleIslands = s.idleIslands := rfl
@[simp] theorem State.flashOp_spares (s : State) (o : FlashOp) : (s.flashOp o).spares = s.spares := rfl
@[simp] theorem State.flashOp_clusters (s : State) (o : FlashOp) : (s.flashOp o).clusters = s.clusters := rfl
@[simp] theorem State.flashOp_quads (s : State) (o : FlashOp) : (s.flashOp o).quads = s.quads := rfl
@[simp] theorem State.flashOp_health (s : State) (o : FlashOp) : (s.flashOp o).health = s.health := rfl
@[simp] theorem State.flashOp_parts (s : State) (o : FlashOp) : (s.flashOp o).parts = s.parts := rfl
@[simp] theorem State.flashOp_ctxs (s : State) (o : FlashOp) : (s.flashOp o).ctxs = s.ctxs := rfl
@[simp] theorem State.flashOp_streams (s : State) (o : FlashOp) : (s.flashOp o).streams = s.streams := rfl
@[simp] theorem State.flashOp_closeCtr (s : State) (o : FlashOp) : (s.flashOp o).closeCtr = s.closeCtr := rfl
@[simp] theorem State.flashOp_aports (s : State) (o : FlashOp) : (s.flashOp o).aports = s.aports := rfl
@[simp] theorem State.flashOp_agroups (s : State) (o : FlashOp) : (s.flashOp o).agroups = s.agroups := rfl
@[simp] theorem State.flashOp_ports (s : State) (o : FlashOp) : (s.flashOp o).ports = s.ports := rfl
@[simp] theorem State.flashOp_macs (s : State) (o : FlashOp) : (s.flashOp o).macs = s.macs := rfl
@[simp] theorem State.flashOp_qps (s : State) (o : FlashOp) : (s.flashOp o).qps = s.qps := rfl
@[simp] theorem State.flashOp_deadQps (s : State) (o : FlashOp) : (s.flashOp o).deadQps = s.deadQps := rfl
@[simp] theorem State.flashOp_lastEpochs (s : State) (o : FlashOp) : (s.flashOp o).lastEpochs = s.lastEpochs := rfl
@[simp] theorem State.flashOp_cc (s : State) (o : FlashOp) : (s.flashOp o).cc = s.cc := rfl
@[simp] theorem State.flashOp_mgmt (s : State) (o : FlashOp) : (s.flashOp o).mgmt = s.mgmt := rfl
@[simp] theorem State.flashOp_poolLow (s : State) (o : FlashOp) : (s.flashOp o).poolLow = s.poolLow := rfl
@[simp] theorem State.flashOp_archHeld (s : State) (o : FlashOp) : (s.flashOp o).archHeld = s.archHeld := rfl
@[simp] theorem State.flashOp_tests (s : State) (o : FlashOp) : (s.flashOp o).tests = s.tests := rfl
@[simp] theorem State.flashOp_nextTest (s : State) (o : FlashOp) : (s.flashOp o).nextTest = s.nextTest := rfl

@[simp] theorem State.emit_wire (s : State) (o : Output) : (s.emit o).wire = ⟨o, s.markOf o⟩ :: s.wire := rfl
@[simp] theorem State.depart_wire (s : State) (o : Output) (k : Option Mark) : (s.depart o k).wire = ⟨o, k⟩ :: s.wire := rfl
@[simp] theorem State.flashOp_ops (s : State) (o : FlashOp) : (s.flashOp o).flash.ops = s.flash.ops ++ [o] := rfl

end Sys2Proof.Machine
end

