-- ==== Sys2Proof/Laws/Core.lean ====
section
/-! SUPPORT. What issue, signals and turns of a queue do on a core. -/

namespace Sys2Proof.Machine

theorem tabPut_tabPut {α : Type} (t : Tab α) (i : Nat) (a b : α) : tabPut (tabPut t i a) i b = tabPut t i b := by
  induction t with
  | nil => simp [tabPut]
  | cons e r ih =>
    obtain ⟨j, c⟩ := e
    simp only [tabPut]
    split_ifs with h1 h2
    · simp [tabPut]
    · simp [tabPut]
    · simp [tabPut, h1, h2, ih]

@[simp] theorem State.setCore_setCore (s : State) (n : Nat) (a b : Core) : (s.setCore n a).setCore n b = s.setCore n b := by
  simp [State.setCore, tabPut_tabPut]

@[simp] theorem State.modCore_setCore (s : State) (n : Nat) (a : Core) (f : Core → Core) :
    (s.setCore n a).modCore n f = s.setCore n (f a) := by
  simp [State.modCore]

@[simp] theorem Core.takeWait_ctx (k : Core) (q : QEntry) : (k.takeWait q).ctx = k.ctx := by
  unfold Core.takeWait; split <;> rfl
@[simp] theorem Core.takeWait_x (k : Core) (q : QEntry) : (k.takeWait q).x = k.x := by
  unfold Core.takeWait; split <;> rfl
@[simp] theorem Core.takeWait_seq (k : Core) (q : QEntry) : (k.takeWait q).seq = k.seq := by
  unfold Core.takeWait; split <;> rfl
@[simp] theorem Core.takeWait_pc (k : Core) (q : QEntry) : (k.takeWait q).pc = k.pc := by
  unfold Core.takeWait; split <;> rfl

/-- The signal of an instruction on a core that runs a context. -/
theorem State.signal_setCore (s : State) (n : Nat) (k : Core) (q : QEntry) (hc : k.ctx.isSome = true) (hf : k.SignalFits q.w) :
    (s.setCore n k).signal n q = s.setCore n (k.signalled q.w s.now) := by
  obtain ⟨id, hid⟩ := Option.isSome_iff_exists.mp hc
  unfold State.signal Core.signalled
  by_cases h : sen q.w = true
  · have hf' := hf h
    have hne : ¬ k.flagOf (sflag q.w) = 65535 := by omega
    simp [h, State.ctxOf, State.incFlag, hid, hne]
  · simp [h]

theorem State.Issues.ctx {s : State} {c op : Nat} {w : InstrWord} (h : s.Issues c op w) :
    (s.issued c op w).ctx.isSome = true := by
  have := h.1
  simp [Core.issuing] at this
  simpa [State.issued, Core.advance] using this.2

/-- A sequencer-class instruction that issues executes at once. -/
theorem State.issueSeq_issues (s : State) (c op : Nat) (w : InstrWord) (run : QEntry → State → State) (h : s.Issues c op w) :
    s.issueSeq c op w true run = run (s.issueEntry c op w) (s.setCore c (s.issued c op w)) := by
  obtain ⟨h1, h2⟩ := h
  simp [State.issueSeq, h1, h2, State.issued]

/-! ### Queues -/

@[simp] theorem Core.queue_setQueue (k : Core) (e : Engine) (l : List QEntry) (he : e ≠ .seq) : (k.setQueue e l).queue e = l := by
  cases e <;> simp_all [Core.setQueue, Core.queue]

@[simp] theorem Core.setQueue_setQueue (k : Core) (e : Engine) (l m : List QEntry) : (k.setQueue e l).setQueue e m = k.setQueue e m := by
  cases e <;> rfl

theorem Core.setQueue_self (k : Core) (e : Engine) : k.setQueue e (k.queue e) = k := by
  cases e <;> rfl

@[simp] theorem Core.queue_advance (k : Core) (e : Engine) : k.advance.queue e = k.queue e := by
  cases e <;> rfl

theorem Core.setQueue_advance (k : Core) (e : Engine) (l : List QEntry) : k.advance.setQueue e l = (k.setQueue e l).advance := by
  cases e <;> rfl

theorem Core.takeWait_advance (k : Core) (q : QEntry) : (k.advance).takeWait q = (k.takeWait q).advance := by
  unfold Core.takeWait; split <;> rfl

theorem Core.takeWait_setQueue (k : Core) (e : Engine) (l : List QEntry) (q : QEntry) :
    (k.setQueue e l).takeWait q = (k.takeWait q).setQueue e l := by
  unfold Core.takeWait; cases e <;> split <;> rfl

@[simp] theorem Core.queue_takeWait (k : Core) (e : Engine) (q : QEntry) : (k.takeWait q).queue e = k.queue e := by
  unfold Core.takeWait; cases e <;> split <;> rfl

@[simp] theorem Core.seq_setQueue (k : Core) (e : Engine) (l : List QEntry) : (k.setQueue e l).seq = k.seq := by
  cases e <;> rfl

@[simp] theorem Core.ctx_setQueue (k : Core) (e : Engine) (l : List QEntry) : (k.setQueue e l).ctx = k.ctx := by
  cases e <;> rfl

/-- What the head of a queue does when it is no WAITM: the core has taken its wait and the queue has moved on. -/
def State.headEffect (s : State) (c : Nat) (q : QEntry) : State :=
  match q.op with
  | 0x18 => (s.signal c q).endBarrier c q
  | 0x1C => s.runFsig c q
  | 0x20 => s.startMmul c q
  | 0x50 => (s.runGcfg c q).signal c q
  | 0x51 => s.startGrun c q
  | 0x60 => s.startDmov c q
  | _ => (s.runVector c q).signal c q

theorem State.runHead_eq (s : State) (c : Nat) (e : Engine) (q : QEntry) (h : q.op ≠ 0x19) :
    s.runHead c e q = (true, ((s.modCore c (fun k => k.takeWait q)).modCore c (fun k => k.pop e s.now)).headEffect c q) := by
  simp only [State.runHead, h, if_false]
  rfl

theorem State.pump_succ (n : Nat) (s : State) (c : Nat) (e : Engine) :
    State.pump (n + 1) s c e = match ((s.core c).queue e).head? with
      | none => s
      | some q => if s.headReady c q then
          (if (s.runHead c e q).1 then State.pump n ((s.runHead c e q).2.trapHalt c) c e else (s.runHead c e q).2.trapHalt c)
          else s := rfl

/-- A legal instruction for an engine with an empty queue, ready to execute, executes at once. -/
theorem State.issueTo_issues (s : State) (c op : Nat) (w : InstrWord) (e : Engine) (he : e ≠ .seq) (h : s.IssuesTo c op w e)
    (hop : op ≠ 0x19)
    (hr : (s.setCore c ((s.core c).advance.setQueue e [s.issueEntry c op w])).headReady c (s.issueEntry c op w) = true) :
    s.issueTo c op w e true false =
      (State.pump 8 (((s.executing c op w).headEffect c (s.issueEntry c op w)).trapHalt c) c e).settleCore c := by
  obtain ⟨⟨h1, -⟩, h3, -⟩ := h
  have hq : (s.issueEntry c op w).op = op := rfl
  simp only [State.issueTo, h1, h3, Bool.not_true, Bool.false_eq_true, if_false, List.length_nil, Nat.not_le_of_lt (by decide : 0 < 8),
    List.nil_append, State.turn]
  rw [if_pos (by rw [Core.queue_setQueue _ _ _ he]; rfl)]
  rw [State.pump_succ]
  simp only [State.setCore_core_same, Core.queue_setQueue _ _ _ he, List.head?_cons, hr, if_true]
  rw [State.runHead_eq _ _ _ _ (by simpa [hq] using hop)]
  simp only [State.modCore_setCore, State.executing, State.issued, if_true]
  rw [Core.takeWait_setQueue, Core.takeWait_advance]
  simp only [Core.pop, Core.queue_setQueue _ _ _ he, List.tail_cons, Core.setQueue_setQueue]
  have hk : ((s.core c).takeWait (s.issueEntry c op w)).advance.setQueue e [] =
      ((s.core c).takeWait (s.issueEntry c op w)).advance := by
    have := Core.setQueue_self ((s.core c).takeWait (s.issueEntry c op w)).advance e
    rwa [Core.queue_advance, Core.queue_takeWait, h3] at this
  rw [hk]

/-- While no instruction whose NaN traps has ended nothing halts the core (R118). -/
theorem State.trapHalt_none (s : State) (c : Nat) (h : (s.core c).NoTrapEnds) : s.trapHalt c = s := by
  unfold State.trapHalt
  unfold Core.NoTrapEnds at h
  dsimp only
  split
  · rfl
  · rename_i no tag pc hd
    rw [hd] at h
    exact if_pos h

/-- A core whose sequencer is not at a barrier and that no trap halts needs nothing settled. -/
theorem State.settleCore_running (s : State) (c : Nat) (h : ∀ q, (s.core c).seq ≠ .barrier q) (ht : (s.core c).NoTrapEnds) :
    s.settleCore c = s := by
  unfold State.settleCore
  rw [State.trapHalt_none s c ht]
  dsimp only
  split
  · rename_i q _ hq _
    exact absurd hq (h q)
  · rfl

/-- A queue that is empty does not move. -/
theorem State.pump_empty (s : State) (c n : Nat) (e : Engine) (h : (s.core c).queue e = []) : State.pump n s c e = s := by
  cases n with
  | zero => rfl
  | succ n => simp [State.pump, h]

/-! ### Stores where nothing fails its check -/

/-- With no bad span and no lost pseudo-channel no span fails. -/
theorem State.failing_none {s : State} (h : s.badSpans = []) (k : s.lostPcs = []) (b n : Nat) : s.failing b n = [] := by
  simp [State.failing, h, k]

/-- Then no store of a program is refused. -/
theorem State.refusedRun_none {s : State} (h : s.badSpans = []) (k : s.lostPcs = []) (l : List (Nat × Bytes)) :
    s.refusedRun l = none := by
  simp [State.refusedRun, State.refuses, State.failing_none h k]

/-- A write that needs nothing of a failing span is performed. -/
theorem State.outerWrite_eq {s : State} {a : Nat} {bs : Bytes} (h : s.refuses a bs.length = false) :
    s.outerWrite a bs = s.writeRaw a bs := by
  simp [State.outerWrite, h]

end Sys2Proof.Machine
end

