-- ==== Sys2Proof/Laws/Memory.lean ====
section
/-! SUPPORT. Memory: every operation keeps the canonical form; a read after a write; a write leaves other bytes alone. -/

namespace Sys2Proof.Machine

theorem memWfFrom_mono {lo hi : Nat} (h : lo ≤ hi) {m : List Host.Cell} (w : memWfFrom hi m = true) :
    memWfFrom lo m = true := by
  cases m with
  | nil => rfl
  | cons c r =>
    obtain ⟨a, v⟩ := c
    simp only [memWfFrom, Bool.and_eq_true, decide_eq_true_eq] at w ⊢
    exact ⟨⟨le_trans h w.1.1, w.1.2⟩, w.2⟩

/-- Filtering keeps the canonical form. -/
theorem memWfFrom_filter (p : Host.Cell → Bool) {lo : Nat} {m : List Host.Cell} (w : memWfFrom lo m = true) :
    memWfFrom lo (m.filter p) = true := by
  induction m generalizing lo with
  | nil => rfl
  | cons c r ih =>
    obtain ⟨a, v⟩ := c
    simp only [memWfFrom, Bool.and_eq_true, decide_eq_true_eq] at w
    by_cases hp : p (a, v)
    · simp only [List.filter_cons, hp, if_true, memWfFrom, Bool.and_eq_true, decide_eq_true_eq]
      exact ⟨w.1, ih w.2⟩
    · simp only [List.filter_cons, hp]
      exact memWfFrom_mono (Nat.le_succ_of_le w.1.1) (ih w.2)

/-- A canonical list below a bound, followed by a canonical list from that bound on, is canonical. -/
theorem memWfFrom_append {lo mid : Nat} {m n : List Host.Cell} (w : memWfFrom lo m = true) (hm : ∀ c ∈ m, c.1 < mid)
    (hlo : lo ≤ mid) (wn : memWfFrom mid n = true) : memWfFrom lo (m ++ n) = true := by
  induction m generalizing lo with
  | nil => exact memWfFrom_mono hlo wn
  | cons c r ih =>
    obtain ⟨a, v⟩ := c
    simp only [memWfFrom, Bool.and_eq_true, decide_eq_true_eq] at w
    simp only [List.cons_append, memWfFrom, Bool.and_eq_true, decide_eq_true_eq]
    have ha : a < mid := hm (a, v) List.mem_cons_self
    exact ⟨w.1, ih w.2 (fun c hc => hm c (List.mem_cons_of_mem _ hc)) ha⟩

theorem memWfFrom_cellsOf (bs : Bytes) (a : Nat) : memWfFrom a (cellsOf a bs) = true := by
  induction bs generalizing a with
  | nil => rfl
  | cons b bs ih =>
    simp only [cellsOf]
    split_ifs with h
    · exact memWfFrom_mono (Nat.le_succ a) (ih (a + 1))
    · have h' : ¬ b = 0#8 := h
      simp [memWfFrom, h', ih (a + 1)]

theorem cellsOf_bound (bs : Bytes) (a : Nat) : ∀ c ∈ cellsOf a bs, a ≤ c.1 ∧ c.1 < a + bs.length := by
  induction bs generalizing a with
  | nil => simp [cellsOf]
  | cons b bs ih =>
    intro c hc
    simp only [cellsOf] at hc
    simp only [List.length_cons]
    split_ifs at hc with h
    · have := ih (a + 1) c hc; omega
    · rcases List.mem_cons.mp hc with rfl | hc
      · simp
      · have := ih (a + 1) c hc; omega

/-- A canonical list all of whose addresses reach a bound is canonical from that bound. -/
theorem memWfFrom_raise {lo mid : Nat} {m : List Host.Cell} (w : memWfFrom lo m = true) (hm : ∀ c ∈ m, mid ≤ c.1) :
    memWfFrom mid m = true := by
  cases m with
  | nil => rfl
  | cons c r =>
    obtain ⟨a, v⟩ := c
    simp only [memWfFrom, Bool.and_eq_true, decide_eq_true_eq] at w ⊢
    exact ⟨⟨hm (a, v) List.mem_cons_self, w.1.2⟩, w.2⟩

/-- Writing bytes keeps the canonical form. -/
theorem memWrite_wf {m : List Host.Cell} (h : Memory.wf m) (a : Nat) (bs : Bytes) : Memory.wf (memWrite m a bs) := by
  unfold Memory.wf at *
  unfold memWrite
  have low := memWfFrom_filter (fun c => decide (c.1 < a)) h
  have mid := memWfFrom_cellsOf bs a
  have high := memWfFrom_filter (fun c => decide (a + bs.length ≤ c.1)) h
  have high' : memWfFrom (a + bs.length) (m.filter (fun c => decide (a + bs.length ≤ c.1))) = true :=
    memWfFrom_raise high (fun c hc => by simpa using (List.mem_filter.mp hc).2)
  rw [List.append_assoc]
  refine memWfFrom_append low (fun c hc => by simpa using (List.mem_filter.mp hc).2) (Nat.zero_le _) ?_
  exact memWfFrom_append mid (fun c hc => (cellsOf_bound bs a c hc).2) (Nat.le_add_right _ _) high'

/-- Zeroing keeps the canonical form. -/
theorem memZero_wf {m : List Host.Cell} (h : Memory.wf m) (a n : Nat) : Memory.wf (memZero m a n) :=
  memWfFrom_filter _ h

/-- Keeping some cells keeps the canonical form. -/
theorem memFilter_wf {m : List Host.Cell} (h : Memory.wf m) (p : Host.Cell → Bool) : Memory.wf (m.filter p) :=
  memWfFrom_filter p h

theorem memGet_append_of_miss {m n : List Host.Cell} {a : Nat} (h : ∀ c ∈ m, c.1 ≠ a) : memGet (m ++ n) a = memGet n a := by
  induction m with
  | nil => rfl
  | cons c r ih =>
    obtain ⟨b, v⟩ := c
    have hb : ¬ b = a := h (b, v) List.mem_cons_self
    simp only [List.cons_append, memGet, hb, if_false]
    exact ih (fun c hc => h c (List.mem_cons_of_mem _ hc))

theorem memGet_of_miss {m : List Host.Cell} {a : Nat} (h : ∀ c ∈ m, c.1 ≠ a) : memGet m a = 0 := by
  have := memGet_append_of_miss (n := []) h
  simpa [memGet] using this

theorem memGet_filter_keep {m : List Host.Cell} {p : Host.Cell → Bool} {a : Nat} (h : ∀ v, p (a, v) = true) :
    memGet (m.filter p) a = memGet m a := by
  induction m with
  | nil => rfl
  | cons c r ih =>
    obtain ⟨b, v⟩ := c
    by_cases hb : b = a
    · subst hb; simp [h v, memGet]
    · by_cases hp : p (b, v)
      · simp [hp, memGet, hb, ih]
      · simp [hp, memGet, hb, ih]

theorem memGet_append_of_right_miss {m n : List Host.Cell} {a : Nat} (h : ∀ c ∈ n, c.1 ≠ a) : memGet (m ++ n) a = memGet m a := by
  induction m with
  | nil => simpa [memGet] using memGet_of_miss h
  | cons c r ih =>
    obtain ⟨b, v⟩ := c
    by_cases hb : b = a
    · simp [memGet, hb]
    · simp [memGet, hb, ih]

/-- A byte outside the bytes written reads as before. -/
theorem memGet_memWrite_out (m : List Host.Cell) (a : Nat) (bs : Bytes) (k : Nat) (h : k < a ∨ a + bs.length ≤ k) :
    memGet (memWrite m a bs) k = memGet m k := by
  unfold memWrite
  have miss : ∀ c ∈ cellsOf a bs, c.1 ≠ k := fun c hc => by have := cellsOf_bound bs a c hc; omega
  rw [List.append_assoc]
  rcases h with h | h
  · have r : ∀ c ∈ cellsOf a bs ++ m.filter (fun c => decide (a + bs.length ≤ c.1)), c.1 ≠ k := by
      intro c hc
      rcases List.mem_append.mp hc with hc | hc
      · exact miss c hc
      · have := (List.mem_filter.mp hc).2; simp at this; omega
    rw [memGet_append_of_right_miss r]
    exact memGet_filter_keep (fun v => by simpa using h)
  · have l : ∀ c ∈ m.filter (fun c => decide (c.1 < a)), c.1 ≠ k := by
      intro c hc
      have := (List.mem_filter.mp hc).2; simp at this; omega
    rw [memGet_append_of_miss l, memGet_append_of_miss miss]
    exact memGet_filter_keep (fun v => by simpa using h)

theorem memGet_cellsOf (bs : Bytes) (a i : Nat) (h : i < bs.length) (n : List Host.Cell) (hn : ∀ c ∈ n, c.1 ≠ a + i) :
    memGet (cellsOf a bs ++ n) (a + i) = bs[i] := by
  induction bs generalizing a i with
  | nil => simp at h
  | cons b bs ih =>
    cases i with
    | zero =>
      simp only [cellsOf, Nat.add_zero, List.getElem_cons_zero]
      split_ifs with hb
      · rw [hb]
        refine memGet_of_miss (fun c hc => ?_)
        rcases List.mem_append.mp hc with hc | hc
        · have := cellsOf_bound bs (a + 1) c hc; omega
        · exact fun e => hn c hc (by omega)
      · simp [memGet]
    | succ i =>
      have hi : i < bs.length := by simpa using h
      have e : a + (i + 1) = a + 1 + i := by omega
      simp only [cellsOf, List.getElem_cons_succ]
      split_ifs with hb
      · rw [e]; exact ih (a + 1) i hi (fun c hc => by have := hn c hc; omega)
      · simp only [List.cons_append, memGet]
        have : ¬ a = a + (i + 1) := by omega
        simp only [this, if_false]
        rw [e]; exact ih (a + 1) i hi (fun c hc => by have := hn c hc; omega)

/-- A byte written reads back. -/
theorem memGet_memWrite_in (m : List Host.Cell) (a : Nat) (bs : Bytes) (i : Nat) (h : i < bs.length) :
    memGet (memWrite m a bs) (a + i) = bs[i] := by
  unfold memWrite
  rw [List.append_assoc]
  have l : ∀ c ∈ m.filter (fun c => decide (c.1 < a)), c.1 ≠ a + i := by
    intro c hc
    have := (List.mem_filter.mp hc).2; simp at this; omega
  rw [memGet_append_of_miss l]
  exact memGet_cellsOf bs a i h _ (fun c hc => by have := (List.mem_filter.mp hc).2; simp at this; omega)

/-- What has just been written is read back. -/
theorem memRead_memWrite (m : List Host.Cell) (a : Nat) (bs : Bytes) : memRead (memWrite m a bs) a bs.length = bs := by
  unfold memRead
  refine List.ext_getElem (by simp) (fun i h1 h2 => ?_)
  simp only [List.getElem_map, List.getElem_range]
  exact memGet_memWrite_in m a bs i h2

/-- A zeroed byte reads zero, another reads as before. -/
theorem memGet_memZero_in (m : List Host.Cell) (a n k : Nat) (h1 : a ≤ k) (h2 : k < a + n) : memGet (memZero m a n) k = 0 := by
  refine memGet_of_miss (fun c hc => ?_)
  have := (List.mem_filter.mp hc).2; simp at this; omega

theorem memGet_memZero_out (m : List Host.Cell) (a n k : Nat) (h : k < a ∨ a + n ≤ k) : memGet (memZero m a n) k = memGet m k :=
  memGet_filter_keep (fun v => by simpa using h)

end Sys2Proof.Machine
end

