-- ==== Sys2Proof/Laws/Mail.lean ====
section
/-! SUPPORT. What records, events and responses change, once for all commands. -/

namespace Sys2Proof.Machine

theorem OnlySent.rfl' (s : State) : OnlySent s s := rfl

theorem OnlySent.trans {s t u : State} (h : OnlySent s t) (k : OnlySent t u) : OnlySent s u := by
  unfold OnlySent at *; rw [k, h]

theorem State.setRing_onlySent (s : State) (n : Nat) (r : Ring) : OnlySent s (s.setRing n r) := rfl

/-- A message changes its queue pair and, where its turn has come, what is sent. -/
theorem State.sendOn_onlySent (s : State) (n : Nat) (q : Qp) (k : MsgKind) (va : W64) (d : Bytes) (len : Nat) (u : MsgUse) :
    OnlySent s (s.sendOn n q k va d len u) := by
  unfold State.sendOn State.sendKeyed
  dsimp only
  repeat' split
  all_goals rfl

theorem State.writeDomainOn_onlySent (s : State) (n : Nat) (q : Qp) (r : Ring) (i : Nat) (k : MsgKind) (va : W64) (d : Bytes) (len : Nat)
    (u : MsgUse) : OnlySent s ((s.setRing i r).sendOn n q k va d len u) :=
  (State.setRing_onlySent s i r).trans (State.sendOn_onlySent ..)

theorem State.bellPacket_onlySent (s : State) (n seq : Nat) : OnlySent s (s.bellPacket n seq) := by
  unfold State.bellPacket
  dsimp only
  repeat' split
  all_goals first
    | rfl
    | exact State.writeDomainOn_onlySent ..

theorem State.putRecord_onlySent {s t : State} {n : Nat} {bs : Bytes} (h : s.putRecord n bs = some t) : OnlySent s t := by
  unfold State.putRecord at h
  dsimp only at h
  split at h
  · split at h
    · injection h with h
      rw [← h]
      exact (State.sendOn_onlySent ..).trans (State.bellPacket_onlySent ..)
    · cases h
  · cases h

theorem State.postRecord_onlySent (s : State) (n : Nat) (bs : Bytes) : OnlySent s (s.postRecord n bs) := by
  unfold State.postRecord
  dsimp only
  split
  · exact State.setRing_onlySent ..
  · split
    · cases h : State.putRecord (s.setRing n { s.ring n with seq := (s.ring n).seq + 1, dropped := 0 }) n _ with
      | none => rw [Option.getD_none]; exact State.setRing_onlySent ..
      | some t => rw [Option.getD_some]; exact (State.setRing_onlySent ..).trans (State.putRecord_onlySent h)
    · exact State.setRing_onlySent ..

/-- An event changes nothing but rings, queue pairs and what is sent. -/
theorem State.raise_onlySent (s : State) (code part tag handle : Nat) (data : Bytes) :
    OnlySent s (s.raise code part tag handle data) := by
  unfold State.raise
  generalize List.range 16 = l
  induction l generalizing s with
  | nil => rfl
  | cons n l ih =>
    rw [List.foldl_cons]
    refine OnlySent.trans ?_ (ih _)
    dsimp only
    split
    · exact State.postRecord_onlySent ..
    · rfl

theorem State.raiseDev_onlySent (s : State) (code : Nat) (data : Bytes) : OnlySent s (s.raiseDev code data) :=
  State.raise_onlySent ..

theorem State.raisePart_onlySent (s : State) (code part : Nat) (data : Bytes) : OnlySent s (s.raisePart code part data) :=
  State.raise_onlySent ..

theorem State.raiseStream_onlySent (s : State) (code i : Nat) (data : Bytes) : OnlySent s (s.raiseStream code i data) :=
  State.raise_onlySent ..

/-- A write over RDMA changes nothing but queue pairs and what is sent. -/
theorem State.writeDomain_onlySent {s t : State} {o : Nat} {a : W64} {d : Bytes} {u : MsgUse}
    (h : s.writeDomain o a d u = some t) : OnlySent s t := by
  unfold State.writeDomain at h
  split at h
  · injection h with h
    rw [← h]; exact State.sendOn_onlySent ..
  · cases h

theorem OnlySent.mem {s t : State} (h : OnlySent s t) : t.mem = s.mem := by rw [h]
theorem OnlySent.mbx {s t : State} (h : OnlySent s t) : t.mbx = s.mbx := by rw [h]
theorem OnlySent.mail {s t : State} (h : OnlySent s t) (n : Nat) : t.mail n = s.mail n := by
  unfold State.mail; rw [h.mbx]
theorem OnlySent.badSpans {s t : State} (h : OnlySent s t) : t.badSpans = s.badSpans := by rw [h]

/-! ### Responses -/

/-- The mailbox once its command has finished (R419, R433). -/
def Mailbox.finished (x : Mailbox) : Mailbox :=
  { x with busy := false, running := false, takeover := false, rebind := none, owner := x.rebind.getD x.owner }

/-- The mailbox while its completion record waits for the ring (R419, R427). -/
def Mailbox.answered (x : Mailbox) : Mailbox := { x with running := false, takeover := false }

/-- What finishing a command changes: the mailbox is free, or its completion record waits (R419). -/
theorem State.finishCmd_eq (s : State) (m : Fin 64) :
    ∃ u, OnlySent s u ∧ (s.finishCmd m = u.setMail m (s.mail m).finished ∨
      (bit (le (s.page m) 2 2) 0 = true ∧ (u.ring (le (s.page m) 6 1)).waiting ≠ [] ∧
        s.finishCmd m = u.setMail m (s.mail m).answered)) := by
  unfold State.finishCmd
  dsimp only
  split
  · rename_i h
    generalize hu : s.postRecord _ _ = u
    have ho : OnlySent s u := by rw [← hu]; exact State.postRecord_onlySent ..
    refine ⟨u, ho, ?_⟩
    split
    · left
      unfold State.freeMail State.modMail Mailbox.finished
      rw [ho.mail]
    · rename_i hw
      right
      refine ⟨?_, ?_, ?_⟩
      · simp only [Bool.and_eq_true] at h
        exact h.1.1.1
      · intro hn
        apply hw
        show (u.ring (le (s.mail m).copy 6 1)).waiting.isEmpty = true
        unfold State.page at hn
        rw [hn]; rfl
      · unfold State.modMail Mailbox.answered
        rw [ho.mail]
  · exact ⟨s, OnlySent.rfl' s, Or.inl rfl⟩

theorem State.read_writeRaw (s : State) (a : Nat) (bs : Bytes) : (s.writeRaw a bs).read a bs.length = bs := by
  simp [State.read, State.writeRaw, memRead_memWrite]

theorem length_padTo (n : Nat) (bs : Bytes) : (padTo n bs).length = n := by
  simp only [padTo, zeros, List.length_take, List.length_append, List.length_replicate]
  omega

theorem length_respPage (code status detail tag seq flags : Nat) (data : Bytes) :
    (respPage code status detail tag seq flags data).length = 4096 := length_padTo ..

theorem length_withFlags (page : Bytes) (f : Nat → Nat) (h : page.length = 4096) : (withFlags page f).length = 4096 := by
  simp only [withFlags, patch, List.length_append, List.length_take, List.length_drop, b4, length_natToBytes, h]
  omega

/-- A write outside HBM3E touches no failed pseudo-channel. -/
theorem State.writeRaw_lostPcs (s : State) (a : Nat) (bs : Bytes) (h : hbmResTop ≤ backing a) :
    (s.writeRaw a bs).lostPcs = s.lostPcs := by
  have e : ∀ (b n : Nat), hbmResTop ≤ b → LostPc.mend b n = id := fun b n hb => by
    funext l; exact if_pos (Or.inl hb)
  unfold State.writeRaw
  dsimp only
  rw [e _ _ h, List.map_id]

theorem respPage_outside (m : Fin 64) : hbmResTop ≤ backing (respPageAddr m) := by
  have h := m.isLt
  have e : respPageAddr m = 17523466567680 + m.val * 8192 + 4096 := rfl
  have e1 : mbxBase = 17523466567680 := rfl
  have e2 : mbxTop = 17523467091968 := rfl
  have e3 : mbxPages = 17042495242240 := rfl
  have e4 : hbmResTop = 1649267441664 := rfl
  have : (decide (mbxBase ≤ respPageAddr m) && decide (respPageAddr m < mbxTop)) = true := by
    simp only [Bool.and_eq_true, decide_eq_true_eq]; omega
  unfold backing
  rw [if_pos this]; omega

/-- What a write of a whole response page changes, whatever is sent with it. -/
theorem State.writePage_frame {s u : State} {m : Fin 64} {page : Bytes} (hl : page.length = 4096)
    (h : OnlySent (s.writeRaw (respPageAddr m) page) u) :
    u.read (respPageAddr m) 4096 = page ∧ (∀ n, u.mail n = s.mail n) ∧
    (∀ a, ¬ (backing (respPageAddr m) ≤ a ∧ a < backing (respPageAddr m) + 4096) → memGet u.mem a = memGet s.mem a) ∧
    u = { s with mem := u.mem, badSpans := u.badSpans, rings := u.rings, qps := u.qps, wire := u.wire } := by
  refine ⟨?_, fun n => ?_, fun a ha => ?_, ?_⟩
  · have := State.read_writeRaw s (respPageAddr m) page
    rw [hl] at this
    rw [← this]
    unfold State.read
    rw [h.mem]
  · rw [h.mail]; rfl
  · rw [h.mem]
    exact memGet_memWrite_out _ _ _ _ (by omega)
  · have e := State.writeRaw_lostPcs s (respPageAddr m) page (respPage_outside m)
    unfold OnlySent at h
    rw [h, e]
    rfl

/-- A completed command, whatever its status: the response is kept and delivered, nothing else changes. -/
theorem State.respond_replied (s : State) (m : Fin 64) (status detail : Nat) (data : Bytes) :
    Replied s (s.respond m status detail data) m status detail data := by
  have hlen : (s.respOf m status detail data).length = 4096 := length_respPage ..
  set x : Mailbox := { s.mail m with kept := some (BitVec.ofNat 32 (le (s.page m) 0x18 4), s.respOf m status detail data) } with hx
  set s1 := s.setMail m x with hs1
  have e : s.respond m status detail data = s1.deliver m (s.respOf m status detail data) := by
    simp [State.respond, State.respondX, State.respOf, State.page, hs1, hx, flag]
  have hm1 : s1.mail m = x := State.setMail_mail_same ..
  have hne : ∀ n : Nat, n ≠ m.val → s1.mail n = s.mail n := fun n hn => State.setMail_mail_ne _ _ hn
  have fin : ∀ page : Bytes, page.length = 4096 → ∀ t, t = (s1.writeRaw (respPageAddr m) page).finishCmd m →
      (t.mail m).kept = x.kept ∧
      ((t.mail m).busy = true → bit (le (s.page m) 2 2) 0 = true ∧ (t.ring (le (s.page m) 6 1)).waiting ≠ []) ∧
      t.read (respPageAddr m) 4096 = page ∧ (∀ n : Nat, n ≠ m.val → t.mail n = s.mail n) ∧
      (∀ a, ¬ (backing (respPageAddr m) ≤ a ∧ a < backing (respPageAddr m) + 4096) → memGet t.mem a = memGet s.mem a) ∧
      t = { s with mem := t.mem, badSpans := t.badSpans, mbx := t.mbx, rings := t.rings, qps := t.qps, wire := t.wire } := by
    intro page hp t ht
    obtain ⟨u, hu, hf⟩ := State.finishCmd_eq (s1.writeRaw (respPageAddr m) page) m
    obtain ⟨f1, f2, f3, f4⟩ := State.writePage_frame hp hu
    have hmm : (s1.writeRaw (respPageAddr m) page).mail m = x := hm1
    have hpp : (s1.writeRaw (respPageAddr m) page).page m = s.page m := by unfold State.page; rw [hmm]
    rw [hmm, hpp] at hf
    have rest : ∀ y : Mailbox, t = u.setMail m y → (∀ n : Nat, n ≠ m.val → t.mail n = s.mail n) ∧
        (∀ a, ¬ (backing (respPageAddr m) ≤ a ∧ a < backing (respPageAddr m) + 4096) → memGet t.mem a = memGet s.mem a) ∧
        t = { s with mem := t.mem, badSpans := t.badSpans, mbx := t.mbx, rings := t.rings, qps := t.qps, wire := t.wire } := by
      intro y hy
      rw [hy]
      refine ⟨fun n hn => ?_, f3, ?_⟩
      · rw [State.setMail_mail_ne _ _ hn, f2, hne n hn]
      · rw [f4]; rfl
    rcases hf with hf | ⟨hb, hw, hf⟩
    · rw [hf] at ht
      obtain ⟨r1, r2, r3⟩ := rest _ ht
      refine ⟨by rw [ht]; simp [Mailbox.finished], fun h => ?_, by rw [ht]; exact f1, r1, r2, r3⟩
      rw [ht] at h; simp [Mailbox.finished] at h
    · rw [hf] at ht
      obtain ⟨r1, r2, r3⟩ := rest _ ht
      refine ⟨by rw [ht]; simp [Mailbox.answered], fun _ => ⟨hb, ?_⟩, by rw [ht]; exact f1, r1, r2, r3⟩
      rw [ht]; exact hw
  rw [e]
  unfold State.deliver
  have hpg : (s1.mail m).copy = s.page m := by rw [hm1]; rfl
  dsimp only
  rw [hpg]
  by_cases hb : bit (le (s.page m) 2 2) 1 = true
  · rw [if_pos hb]
    split
    · rename_i t ht
      have ht' : OnlySent (s1.writeRaw (respPageAddr m) (s.respOf m status detail data)) t := by
        split at ht
        · cases ht
        · exact State.writeDomain_onlySent ht
      obtain ⟨f1, f2, f3, f4⟩ := State.writePage_frame hlen ht'
      refine ⟨by rw [f2, hm1], fun h => ?_, fun n hn => by rw [f2, hne n hn], f3, ?_⟩
      · rw [hb] at h; cases h
      · rw [f4]; rfl
    · obtain ⟨g1, g2, g3, g4, g5, g6⟩ := fin _ (length_withFlags _ _ hlen) _ rfl
      refine ⟨by rw [g1], fun h => ?_, g4, g5, g6⟩
      rw [hb] at h; cases h
  · rw [if_neg hb]
    obtain ⟨g1, g2, g3, g4, g5, g6⟩ := fin _ hlen _ rfl
    exact ⟨by rw [g1], fun _ => ⟨g2, g3⟩, g4, g5, g6⟩

/-- A command that Lortus takes runs its body (R422, R423). -/
theorem State.runCmd_takes (s : State) (m : Fin 64) (c : CmdSpec) (body : Bytes → State → State) (h : s.Takes m c) :
    s.runCmd m c body = body (s.page m) s.popped := by
  obtain ⟨h1, h2, h3, h4⟩ := h
  unfold State.popped at h4
  simp [State.runCmd, h1, h2, h3, h4, State.page, State.popped]

end Sys2Proof.Machine
end

