-- ==== Sys2Proof/WellFormed.lean ====
section
/-! DEFINITION. Which terms of `Instr` spell an input that the outside can present. Numbers of units are bounded by their
types already; these are the checks that types do not make. The meanings do not rely on them. -/

namespace Sys2Proof

/-- No port is named twice. -/
def portsDistinct : List WireWords → Bool
  | [] => true
  | w :: r => r.all (fun v => v.port != w.port) && portsDistinct r

/-- A command that the outside can present: a packet no longer than its protocol carries (R380, R394, R402, R417), one
temperature per sensor (R519), word-clock frames that name a port once (R342), host data no longer than a segment
(R438, R445, R505), measured values that fit their registers (R532). -/
def Instr.wf : Instr → Bool
  | .cfgStage _ (some d) => d.length ≤ 65536
  | .modelLoad _ (some d) _ => d.length ≤ 268435456
  | .secFwUpdate _ (some d) => d.length ≤ 4194304
  | .rtpPacket p => p.payload.length ≤ 9216
  | .inboundSend _ p _ => p.length ≤ 1048576
  | .mgmtRead r => r.data.length ≤ 1024
  | .mgmtWrite r => r.data.length ≤ 1024
  | .mgmtDoorbell r => r.data.length ≤ 1024
  | .icmpEchoRequest _ _ _ p => p.length ≤ 9216
  | .thermalSample t => t.fabrics.length == 4 && t.hbmStacks.length == 12 && t.cores.all (fun c => c.1 < 1536)
  | .powerMeasure a b v => a < 4096 && b < 4096 && v < 65536
  | .audioWireFrame _ w _ => portsDistinct w
  | _ => true

end Sys2Proof
end

