-- ==== Sys2Proof/Tests/Slice0.lean ====
section
/-! SUPPORT. The model's own tests. -/

namespace Sys2Proof.Tests
open Sys2Proof.Machine

theorem test_wf_refuses_long_rtp :
    (Instr.rtpPacket ⟨0, 0, 0, 0, 0, 0, 0, 0, List.replicate 9217 0, true, 0⟩).wf = false := by
  simp only [Instr.wf, List.length_replicate]; decide

theorem test_wf_refuses_two_words_for_one_port : (Instr.audioWireFrame 0 [⟨3, 0, 0⟩, ⟨3, 0, 0⟩] ⟨[], []⟩).wf = false := by decide

theorem test_wf_refuses_missing_sensor : (Instr.thermalSample ⟨[], [0, 0, 0], 0, List.replicate 12 0, 0⟩).wf = false := by decide

theorem test_wf_refuses_wide_power : (Instr.powerMeasure 4096 0 0).wf = false := by decide

/-! The expected values below are the spec's own worked examples; each docstring names its rule or chapter. -/

/-- 00_scope.md, the example after R11: the scratch of logical core 5. -/
theorem test_core_window : coreWin 5 = 0x0F1000500000 := by decide +kernel
/-- 01_architecture.md: the scratch of logical core 1000. -/
theorem test_core_window_1000 : coreWin 1000 = 0x0F103E800000 := by decide +kernel
/-- 10_memory.md, the example after R310: the byte at 0x00B4_3D09_0E10 lies at 10,666,512 in pseudo-channel 22 of stack 7, the
check value of its span at 0x0176_00F4_2438. -/
theorem test_memory_place :
    hbmPlace 0x00B43D090E10 = ⟨7, 22, 10666512⟩ ∧ checkAddr 0x00B43D090E10 = some 0x017600F42438 := by decide +kernel
/-- R197 and R198: words written out from the encoding: OPCODE in bits 127:120 names the instruction, the rest goes with it. -/
theorem test_core_words :
    decodeCoreWord 3 .clean 0x08000000003000000000000000000005 = .xset 3 0x3000000000000000000005 ∧
    decodeCoreWord 3 .clean 0x01000000000000000000000000000000 = .end_ 3 0 ∧
    decodeCoreWord 3 .clean 0x200A312194FE07F0580023F0B4000080 = .mmul 3 0x0A312194FE07F0580023F0B4000080 ∧
    decodeCoreWord 3 .clean 0xFF000000000000000000000000000000 = .reservedOpcode 3 0xFF000000000000000000000000000000 := by
  decide +kernel
/-- 04_quantisation.md, step 101: A_win = 61.0 with Q = 448 and h = 4 gives K = −1. -/
theorem test_scale_step_101 : deriveK 0x42740000 4 0 = -1 := by decide +kernel
/-- Step 102: A_win = 300.0 gives K = 1. -/
theorem test_scale_step_102 : deriveK 0x43960000 4 0 = 1 := by decide +kernel
/-- Step 101: AMAX 244.0 under S = 0.25 is a(101) = 61.0; step 102: 600.0 under 0.5 is 300.0. -/
theorem test_true_magnitudes :
    trueMagnitude 0x43740000 0x3E800000 = 0x42740000 ∧ trueMagnitude 0x44160000 0x3F000000 = 0x43960000 := by
  decide +kernel
/-- Step 103: a(103) = 58.0 with S = 2 and U = 2 is underrange; a(101) with S = 0.25 is not. -/
theorem test_underrange : isUnder 0x42680000 4 2 0 1 = true ∧ isUnder 0x42740000 4 2 0 (-2) = false := by decide +kernel
/-- R131: with the magnitudes 40.0 and 9.0 escaped, 3.1 (FP32 0x40466666) gives E2M1 the scale code 126; R112 alone
gives 130 for 40.0. -/
theorem test_escape_scale :
    mxScaleCode (fp32F.decode 0x40466666) 2 = 126 ∧ mxScaleCode (fp32F.decode 0x42200000) 2 = 130 := by decide +kernel
/-- 07_recurrence.md: 0.99900001 rounds to 1.0 in BF16, and the residue −0.00099999 to −1.0234375 × 2^−10. -/
theorem test_residue_step :
    (bf16F.round false none (fp32F.decode 0x3F7FBE77)).code = 0x3F80 ∧
    (bf16F.round false none ((fp32F.decode 0x3F7FBE77).add (fp32F.decode 0xBF800000))).code = 0xBA83 := by decide +kernel
/-- 06_core_programs.md: the fields of MMUL 0, word 0x200A_3121_94FE_07F0_5800_23F0_B400_0080. -/
theorem test_mmul_fields :
    let w : InstrWord := 0x0A312194FE07F0580023F0B4000080
    opTagOf w = 0x0A31 ∧ wcnt w = 1 ∧ wflag w = 1 ∧ sen w = true ∧ sflag w = 5 ∧ headerOk w = true ∧ mmWd w = 0x1FC0 ∧
      mmAd w = 0x1FC1 ∧ mmPasses w = 8 ∧ mmBt w = 64 ∧ mmTiles w = 16 ∧ mmStart w = true ∧ mmDrain w = false ∧
      fld w 58 4 = 6 ∧ fld w 54 4 = 0 ∧ fld w 23 4 = 8 := by decide +kernel

end Sys2Proof.Tests
end

