-- ==== Sys2Proof/Tests/Worlds.lean ====
section
/-! SUPPORT. Small states in which the witnesses of the statements stand: a partition with an image in service, a core that runs
a context of it, mailboxes with a command, ports and streams. No number of theirs is more than an example. -/

namespace Sys2Proof.Tests
open Sys2Proof.Machine

/-- A number from its fields, each with its lowest bit or byte. -/
def sumAt (base : Nat) (fs : List (Nat × Nat)) : Nat := fs.foldl (fun a f => a + f.2 * base ^ f.1) 0

/-- An instruction word from its fields. -/
def iw (fs : List (Nat × Nat)) : InstrWord := BitVec.ofNat 120 (sumAt 2 fs)

/-- Bytes from their fields. -/
def page (n : Nat) (fs : List (Nat × Nat)) : Bytes := natToBytes n (sumAt 256 fs)

/-- An image: one sample per frame, one channel, one output of 4 bytes, chunks of 2 frames. -/
def img : ImageInfo where
  tokens := false
  samplesPerFrame := 1
  chunkFrames := 48
  chIn := 1
  chOut := 1
  sameCount := true
  bytesPerFrame := 4
  inFmt := 0
  maxPayload := 192
  outRecords := 1
  outBytes := 256
  outFmt := 0
  layout := 0
  ops := []
  stochasticState := false
  nonSatState := false
  tFixedNs := 1000
  tPassNs := 1000
  groupCores := 1
  groupSlots := 1
  passSet := [0]
  entryPc := 0
  seed := 1
  umberPc := 16
  umberSeed := 2
  nanTrap := false
  tagEnable := 0
  tags := []
  umberTags := []
  program := List.replicate 256 0
  weights := []
  segments := 255
  banks := 0
  attn := none
  windows := []
  scoreBytes := 0
  statsBytes := 0

/-- A partition section: W 1 ms, L 1 ms, 600 MHz, quota 16, time limits of 100 µs and 1 ms, cluster 0. -/
def sect : Bytes := page 256 [(4, 2), (6, 2), (8, 600), (10, 16), (0x12, 1), (0x14, 1), (0x16, 1), (0x20, 1)]

/-- A partition with its image in service, whose extent is the first GiB of HBM3E. -/
def part : Partition where
  hbm := [⟨1, 0⟩]
  lp := []
  macs := 1
  audPorts := 1
  qpQuota := 4
  kvHbm := []
  kvLp := []
  kvHbmSlots := 0
  kvLpSlots := 0
  kvSlotBytes := 0
  kvAll := []
  epoch := 5
  scaleTable := 0x1000000
  directory := 0x2000000
  outArea := 0x3000000
  outLen := 0x100000
  scoreArea := 0
  scoreLen := 0
  statsArea := 0
  statsLen := 0
  sect := sect
  nextSect := none
  img0 := ⟨.inService, 64, 64, List.replicate 64 7, [], some img, 0x8000000⟩
  img1 := ⟨.empty, 0, 0, [], [], none, 0⟩
  lastImage := some img
  pastRings := []
  stepNo := 9
  step := none
  intervals := []
  overAdmitted := false
  noAdmit := false
  zeroing := none
  resetting := none
  seeing := none
  places := []
  moves := []
  tierCmds := []
  unitWaits := []
  rebuild := []

/-- A device in service, with partition 0 on cluster 0. -/
def device : State := { State.reset with
  now := 1000000000
  dev := { State.reset.dev with mode := .serving, reachedReady := true, audioPinsOn := true }
  clusters := [(0, { ClusterState.cold with fixed := false, owner := some 0 })]
  parts := [(0, part)] }

/-- A context of partition 0 on core 0. -/
def ctx : Context := ⟨0, 0, [0], true, 9, 0, [], 0, 1, false, .running, none, false, [], []⟩

/-- A core that runs context 7. -/
def core : Core := { Core.cold with seq := .running, ctx := some 7, segOn := 255 }

/-- The device while core 0 runs context 7. -/
def onCore (k : Core) : State := { device with cores := [(0, k)], ctxs := [(7, ctx)] }

/-- A finished block of integers for the vector engine. -/
def block : TqEntry := ⟨List.replicate 64 0, 0, 0, 0, false, true, 255, 0, 0, 0⟩

/-- A tile queue with one free slot. -/
def fullQueue : List TqEntry := List.replicate 31 block

/-- A 16-bit tensor of 8 × 64 elements at an offset of the core's scratch. -/
def tensor (off : Nat) : Bytes :=
  page 64 [(0, coreWin 0 + off), (8, 1), (9, 0xFF), (0xC, 8), (0x10, 64), (0x14, 1), (0x18, 16)]

/-- What its descriptor spells. -/
def tensorDesc (off : Nat) : Desc := ⟨coreWin 0 + off, 1, 0xFF, 0, false, false, 8, 64, 1, 16, 0, 0, 0, 0, 0⟩

/-- A core whose scratch holds descriptors 0 and 2 of tensors and the correction descriptor 1 of the first. -/
def withTensors (k : Core) : State :=
  (((onCore k).writeRaw (coreWin 0) (tensor 0x1000)).writeRaw (coreWin 0 + 64) (page 20 [(0xC, 8)])).writeRaw (coreWin 0 + 128)
    (tensor 0x4000)

/-- An open stream on RTP input at 1 kHz without a sink: one sample per chunk. -/
def stream : Stream := { Stream.empty with
  state := .active
  cls := 1
  handle := 3
  source := BitVec.ofNat 64 (2 ^ 60)
  sampleRate := 1000
  stateUnits := 1
  stateAddr := 0x4000000
  archAddr := 0x5000000 }

/-- The device while stream 3 is open. -/
def withStream (x : Stream) : State := { device with streams := [(3, x)] }

/-- An accepted chunk whose slot has been written. -/
def chunk : Chunk := ⟨0, 1, [0], 0, 0, none, true, false, false, [1, 0, 0, 0]⟩

/-- The place of stream 3 in step 9, its state stored. -/
def entry : WorkEntry := ⟨3, 0, 0, 0, 0, true, 1, none, 0x5000040, 0x4000000, 0x4001000, 0x3000000, 0, 0, true, false, false⟩

/-- Step 9, before its first pass. -/
def stepRun : StepRun := ⟨9, [entry], 1, 0, false, 0, 0, true, false, none, 0, 0, false, []⟩

/-- The device while step 9 is in progress. -/
def stepping (x : Stream) (r : StepRun) : State := { withStream x with parts := [(0, { part with step := some r })] }

/-- A connected queue pair of an owner to the host, device 1. -/
def qp (owner : Nat) : Qp where
  owner := owner
  mac := 0
  mailboxes := 0
  state := .connected
  peer := 1
  host := true
  mtu := 4096
  tmo := 14
  retry := 7
  retriesLeft := 7
  remoteQpn := 99
  sqNext := 0
  acked := 0xFFFFFF
  rqNext := 0
  remoteKey := 5
  vaBase := 0
  remoteIp := 1
  out := []
  timer := 0
  rc := 0x447A0000
  rt := 0x447A0000
  alpha := 0
  rounds := 0
  alphaFrom := 0
  incFrom := 0
  lastCnpSent := none
  refuse := false

/-- A state with that queue pair. -/
def withQp (s : State) (owner : Nat) : State := { s with qps := [(0, qp owner)] }

/-- A state in which a mailbox of an owner is busy with a page and first in doorbell order. -/
def mailed (s : State) (m : Nat) (owner : BitVec 5) (pg : Bytes) : State :=
  { s with mbx := [(m, ⟨owner, false, true, pg, false, false, none, none⟩)], bells := [Fin.ofNat 64 m] }

/-- A command page: CODE, a DATA_LEN that covers every parameter used here, other fields. -/
def cmd (code : Nat) (fs : List (Nat × Nat)) : Bytes := page 0x240 ([(0, code), (4, 0x200)] ++ fs)

/-- A state in which control's mailbox 0 is the next to be served. -/
def asked (s : State) (code : Nat) (fs : List (Nat × Nat)) : State := mailed s 0 16 (cmd code fs)

/-- The device without partitions. -/
def bare : State := { device with parts := [], clusters := [] }

/-- The device in a state of service. -/
def inMode (s : State) (m : DevMode) : State := { s with dev := { s.dev with mode := m } }

/-- Some state meets a command's checks and the conditions that a statement names. -/
abbrev Meets (c : CmdSpec) (holds : Fin 64 → Bytes → State → Prop) : Prop :=
  ∃ (s : State) (m : Fin 64), s.Takes m c ∧ holds m (s.page m) s.popped

/-- The number that bytes spell. -/
def leNat (b : Bytes) : Nat := le b 0 b.length

/-- Without partitions, and a CURRENT version with a section of partition 0. -/
def defined : State := { bare with flash := { bare.flash with
  cfg := bare.flash.cfg.set 0 ⟨.current, 1, [0x58, 0x43, 0x46, 0x47, 1, 0, 1, 0] ++ zeros 120 ++
    [2, 0, 0, 0, 0, 9, 0, 0] ++ sect ++ zeros 2048⟩ } }

/-- A firmware image that passes the check of the boot ROM under the neutral point as root key: its body of 256 zeros, its
digest (SHAKE256, computed apart from the model), a signature whose R is the neutral point and whose S is 0. -/
def firmware : Bytes := page 256 [(0, 0x46574C4F), (4, 1), (8, 7), (0xC, 256), (0x10, 0x50935cdb8656eeeb64dccfdbcb91c1a35ae7020be9eac5864590d0a3b5a96c77e8d33486c879d1fb98410ff64df06c4986798174e7e7f93e15fb6029cab0d1fa), (0x80, 1)] ++ zeros 256

theorem device_banks : ∀ n : Nat, (device.cluster n).failedBanks = []
  | 0 => rfl
  | n + 1 => by simp [State.cluster, device, tabGet, tabGet?, ClusterState.cold]

end Sys2Proof.Tests
end

