-- ==== Sys2Proof/Tests/WitnessCommands.lean ====
section
/-! SUPPORT. The hypotheses of the statements about mailbox commands can be met. -/

namespace Sys2Proof.Tests
open Sys2Proof.Machine

set_option Elab.async false

/-- What the clauses of DoorbellsAreTaken ask can be met. -/
theorem met_DoorbellsAreTaken :
    (∃ s : State, ∃ m : Fin 64, ∃ x : Mailbox, ∃ y : Mailbox, x = s.mail m ∧ y =
      { x with busy := true, copy := s.read (cmdPage m) 4096, running := false, takeover := false } ∧ s.dev.mode.code =
      0) ∧
    (∃ s : State, ∃ m : Fin 64, ∃ x : Mailbox, ∃ y : Mailbox, x = s.mail m ∧ y =
      { x with busy := true, copy := s.read (cmdPage m) 4096, running := false, takeover := false } ∧ s.dev.mode.code ≠ 0
      ∧ (s.dev.mode.code ≤ 3 ∨ x.owner = 31 ∨ x.busy = true)) ∧
    (∃ s : State, ∃ m : Fin 64, ∃ x : Mailbox, ∃ y : Mailbox, x = s.mail m ∧ y =
      { x with busy := true, copy := s.read (cmdPage m) 4096, running := false, takeover := false } ∧ 3 < s.dev.mode.code
      ∧ x.owner ≠ 31 ∧ x.busy = false ∧ (∀ k : W32 × Bytes, x.kept = some k → k.1.toNat ≠ le y.copy 0x18 4) ∧
      cmdCodes.contains (le y.copy 0 2) = true) ∧
    (∃ s : State, ∃ m : Fin 64, ∃ x : Mailbox, ∃ y : Mailbox, x = s.mail m ∧ y =
      { x with busy := true, copy := s.read (cmdPage m) 4096, running := false, takeover := false } ∧ 3 < s.dev.mode.code
      ∧ x.owner ≠ 31 ∧ x.busy = false ∧ (∀ k : W32 × Bytes, x.kept = some k → k.1.toNat ≠ le y.copy 0x18 4) ∧
      cmdCodes.contains (le y.copy 0 2) = false) ∧
    (∃ s : State, ∃ m : Fin 64, ∃ x : Mailbox, ∃ y : Mailbox, ∃ k : W32 × Bytes, ∃ a : Nat, ∃ sent : Bool, ∃ page :
      Bytes, x = s.mail m ∧ y =
      { x with busy := true, copy := s.read (cmdPage m) 4096, running := false, takeover := false } ∧ 3 < s.dev.mode.code
      ∧ x.owner ≠ 31 ∧ x.busy = false ∧ x.kept = some k ∧ k.1.toNat = le y.copy 0x18 4 ∧ a = devOf (BitVec.ofNat 64 (le
      y.copy 0x10 8)) ∧ sent = (bit (le y.copy 2 2) 1 && a != s.dev.deviceNo.toNat && (s.qpFor x.owner.toNat a).isSome) ∧
      page = (if bit (le y.copy 2 2) 1 && !sent then withFlags (withFlags k.2 (· + 2)) (· + 4) else withFlags k.2 (· +
      2))) :=
  ⟨⟨{ device with dev := { device.dev with mode := .off } }, 0, _, _, rfl, rfl, (by decide +kernel)⟩,
   ⟨device, 4, _, _, rfl, rfl, (by decide +kernel), (by decide +kernel)⟩,
   ⟨device.writeRaw (cmdPage 0) [1, 1], 0, _, _, rfl, rfl, (by decide +kernel), (by decide +kernel), (by decide +kernel), (fun k h => nomatch (show (none : Option (W32 × Bytes)) = some k from h)), (by decide +kernel)⟩,
   ⟨device, 0, _, _, rfl, rfl, (by decide +kernel), (by decide +kernel), (by decide +kernel), (fun k h => nomatch (show (none : Option (W32 × Bytes)) = some k from h)), (by decide +kernel)⟩,
   ⟨{ device with mbx := [(0, { Mailbox.cold 0 with kept := some (0, zeros 4096) })] }, 0, _, _, ((0, zeros 4096) : W32 × Bytes), _, _, _, rfl, rfl, (by decide +kernel), (by decide +kernel), (by decide +kernel), rfl, (by decide +kernel), rfl, rfl, rfl⟩⟩

/-- What the clauses of ChecksComeBeforeCommands ask can be met. -/
theorem met_ChecksComeBeforeCommands :
    (∃ s : State, ∃ i : Instr, ∃ m : Fin 64, ∃ c : CmdSpec, specOf i = some (m, c) ∧ ((s.mail m).busy = false ∨
      s.bells.head? ≠ some m ∨ le (s.page m) 0 2 ≠ c.code)) ∧
    (∃ s : State, ∃ i : Instr, ∃ m : Fin 64, ∃ c : CmdSpec, ∃ st : Nat, ∃ d : Nat, specOf i = some (m, c) ∧ (s.mail
      m).busy = true ∧ s.bells.head? = some m ∧ le (s.page m) 0 2 = c.code ∧ s.popped.checkCmd (s.mail m) c = some (st,
      d)) ∧
    (∃ s : State, ∃ x : Mailbox, ∃ c : CmdSpec, ∃ may : Prop, (may ↔ x.owner = 16 ∨ (c.part = true ∧ c.own s
      x.owner.toNat x.copy = true ∧ (bit (le x.copy 2 2) 0 = true → le x.copy 6 1 ≤ 15 → (s.ring (le x.copy 6 1)).owner =
      x.owner))) ∧ ¬ may) ∧
    (∃ s : State, ∃ x : Mailbox, ∃ c : CmdSpec, ∃ may : Prop, ∃ f : Nat, (may ↔ x.owner = 16 ∨ (c.part = true ∧ c.own s
      x.owner.toNat x.copy = true ∧ (bit (le x.copy 2 2) 0 = true → le x.copy 6 1 ≤ 15 → (s.ring (le x.copy 6 1)).owner =
      x.owner))) ∧ may ∧ headerFault x.copy c.sizes = some f) ∧
    (∃ s : State, ∃ x : Mailbox, ∃ c : CmdSpec, ∃ may : Prop, ∃ f : Nat, (may ↔ x.owner = 16 ∨ (c.part = true ∧ c.own s
      x.owner.toNat x.copy = true ∧ (bit (le x.copy 2 2) 0 = true → le x.copy 6 1 ≤ 15 → (s.ring (le x.copy 6 1)).owner =
      x.owner))) ∧ may ∧ headerFault x.copy c.sizes = none ∧ gapFault x.copy 0x40 c.sizes = some f ∧
      (∀ r : Nat, c.range s x.copy = some r → f ≤ r)) ∧
    (∃ s : State, ∃ x : Mailbox, ∃ c : CmdSpec, ∃ may : Prop, ∃ f : Nat, (may ↔ x.owner = 16 ∨ (c.part = true ∧ c.own s
      x.owner.toNat x.copy = true ∧ (bit (le x.copy 2 2) 0 = true → le x.copy 6 1 ≤ 15 → (s.ring (le x.copy 6 1)).owner =
      x.owner))) ∧ may ∧ headerFault x.copy c.sizes = none ∧ c.range s x.copy =
      some f ∧ (∀ g : Nat, gapFault x.copy 0x40 c.sizes = some g → f ≤ g)) ∧
    (∃ s : State, ∃ x : Mailbox, ∃ c : CmdSpec, ∃ may : Prop, (may ↔ x.owner = 16 ∨ (c.part = true ∧ c.own s
      x.owner.toNat x.copy = true ∧ (bit (le x.copy 2 2) 0 = true → le x.copy 6 1 ≤ 15 → (s.ring (le x.copy 6 1)).owner =
      x.owner))) ∧ may ∧ headerFault x.copy c.sizes = none ∧ gapFault x.copy 0x40 c.sizes = none ∧ c.range s x.copy =
      none ∧ served s.dev.mode c.code = false) ∧
    (∃ s : State, ∃ x : Mailbox, ∃ c : CmdSpec, ∃ may : Prop, ∃ h : Nat, (may ↔ x.owner = 16 ∨ (c.part = true ∧ c.own s
      x.owner.toNat x.copy = true ∧ (bit (le x.copy 2 2) 0 = true → le x.copy 6 1 ≤ 15 → (s.ring (le x.copy 6 1)).owner =
      x.owner))) ∧ may ∧ headerFault x.copy c.sizes = none ∧ gapFault x.copy 0x40 c.sizes = none ∧ c.range s x.copy =
      none ∧ served s.dev.mode c.code = true ∧ c.handle = some h) ∧
    (∃ s : State, ∃ x : Mailbox, ∃ c : CmdSpec, ∃ may : Prop, (may ↔ x.owner = 16 ∨ (c.part = true ∧ c.own s
      x.owner.toNat x.copy = true ∧ (bit (le x.copy 2 2) 0 = true → le x.copy 6 1 ≤ 15 → (s.ring (le x.copy 6 1)).owner =
      x.owner))) ∧ may ∧ headerFault x.copy c.sizes = none ∧ gapFault x.copy 0x40 c.sizes = none ∧ c.range s x.copy =
      none ∧ served s.dev.mode c.code = true ∧ c.handle = none) :=
  ⟨⟨bare, .devInfo 0, 0, _, rfl, (Or.inl (by decide +kernel))⟩,
   ⟨asked bare 0x102 [(0x40, 9)], .devStateSet 0, 0, specDevStateSet, 2, 0x40, rfl, (by decide +kernel), (by decide +kernel), (by decide +kernel), (by decide +kernel)⟩,
   ⟨device, ⟨3, false, true, cmd 0x101 [], false, false, none, none⟩, specDevInfo, False, ⟨False.elim, by decide +kernel⟩, id⟩,
   ⟨device, ⟨16, false, true, cmd 0x102 [(7, 1)], false, false, none, none⟩, specDevStateSet, True, 7, ⟨fun _ => Or.inl (by decide +kernel), fun _ => trivial⟩, trivial, (by decide +kernel)⟩,
   ⟨device, ⟨16, false, true, cmd 0x201 [(0x42, 1), (0x48, 64), (0x4C, 128)], false, false, none, none⟩, specCfgStage, True, 0x42, ⟨fun _ => Or.inl (by decide +kernel), fun _ => trivial⟩, trivial, (by decide +kernel), (by decide +kernel), (fun r h => nomatch (h.symm.trans (show _ = none by decide +kernel) : some r = none))⟩,
   ⟨bare, ⟨16, false, true, cmd 0x102 [(0x40, 9)], false, false, none, none⟩, specDevStateSet, True, 0x40, ⟨fun _ => Or.inl (by decide +kernel), fun _ => trivial⟩, trivial, (by decide +kernel), (by decide +kernel), (fun g h => nomatch (h.symm.trans (show _ = none by decide +kernel) : some g = none))⟩,
   ⟨inMode bare .faulted, ⟨16, false, true, cmd 0x102 [(0x40, 4)], false, false, none, none⟩, specDevStateSet, True, ⟨fun _ => Or.inl (by decide +kernel), fun _ => trivial⟩, trivial, (by decide +kernel), (by decide +kernel), (by decide +kernel), (by decide +kernel)⟩,
   ⟨bare, ⟨16, false, true, cmd 0x502 [(0x40, 3)], false, false, none, none⟩, specStreamClose, True, 0x40, ⟨fun _ => Or.inl (by decide +kernel), fun _ => trivial⟩, trivial, (by decide +kernel), (by decide +kernel), (by decide +kernel), (by decide +kernel), (by decide +kernel)⟩,
   ⟨bare, ⟨16, false, true, cmd 0x102 [(0x40, 4)], false, false, none, none⟩, specDevStateSet, True, ⟨fun _ => Or.inl (by decide +kernel), fun _ => trivial⟩, trivial, (by decide +kernel), (by decide +kernel), (by decide +kernel), (by decide +kernel), (by decide +kernel)⟩⟩

/-- What the clauses of CommandsAreThoseOfTheTable ask can be met. -/
theorem met_CommandsAreThoseOfTheTable :
    ∃ i : Instr, ∃ m : Fin 64, ∃ c : CmdSpec, specOf i = some (m, c) :=
  ⟨.devInfo 0, 0, _, rfl⟩

/-- What the clauses of QueriesAnswerFromTheState ask can be met. -/
theorem met_QueriesAnswerFromTheState :
    (Meets specDevInfo (fun _ _ _ => True)) ∧
    (Meets specDevHealth (fun _ _ _ => True)) ∧
    (Meets specCfgList (fun _ _ _ => True)) ∧
    (Meets specPartQuery (fun _ pg s => (s.live? (le pg 0x40 1)).isNone = true)) ∧
    (∃ q : Partition, Meets specPartQuery (fun _ pg s => s.live? (le pg 0x40 1) = some q)) ∧
    (∃ q : Partition, Meets specModelQuery (fun _ pg s => s.live? (le pg 0x40 1) = some q)) ∧
    (Meets specModelQuery (fun _ pg s => s.live? (le pg 0x40 1) = none)) ∧
    (Meets specStreamQuery (fun _ _ _ => True)) ∧
    (∃ q : Qp, Meets specNetQpQuery (fun _ pg s => s.qp? (le pg 0x40 4) = some q)) ∧
    (Meets specNetQpQuery (fun _ pg s => s.qp? (le pg 0x40 4) = none)) ∧
    (Meets specMemQuery (fun _ _ _ => True)) ∧
    (Meets specTelemSensors (fun _ _ _ => True)) :=
  ⟨⟨asked bare 0x101 [], 0, ⟨by decide +kernel, by decide +kernel, by decide +kernel, by decide +kernel⟩, trivial⟩,
   ⟨asked bare 0x107 [], 0, ⟨by decide +kernel, by decide +kernel, by decide +kernel, by decide +kernel⟩, trivial⟩,
   ⟨asked bare 0x204 [], 0, ⟨by decide +kernel, by decide +kernel, by decide +kernel, by decide +kernel⟩, trivial⟩,
   ⟨asked bare 0x304 [(0x40, 1)], 0, ⟨by decide +kernel, by decide +kernel, by decide +kernel, by decide +kernel⟩, (by decide +kernel)⟩,
   ⟨part, ⟨asked device 0x304 [], 0, ⟨by decide +kernel, by decide +kernel, by decide +kernel, by decide +kernel⟩, (by decide +kernel)⟩⟩,
   ⟨part, ⟨asked device 0x403 [], 0, ⟨by decide +kernel, by decide +kernel, by decide +kernel, by decide +kernel⟩, (by decide +kernel)⟩⟩,
   ⟨asked bare 0x403 [], 0, ⟨by decide +kernel, by decide +kernel, by decide +kernel, by decide +kernel⟩, (by decide +kernel)⟩,
   ⟨asked (withStream { stream with gen := 1 }) 0x506 [(0x40, 0x4003)], 0, ⟨by decide +kernel, by decide +kernel, by decide +kernel, by decide +kernel⟩, trivial⟩,
   ⟨qp 0, ⟨asked (withQp device 0) 0x706 [], 0, ⟨by decide +kernel, by decide +kernel, by decide +kernel, by decide +kernel⟩, (by decide +kernel)⟩⟩,
   ⟨asked device 0x706 [], 0, ⟨by decide +kernel, by decide +kernel, by decide +kernel, by decide +kernel⟩, (by decide +kernel)⟩,
   ⟨asked bare 0x802 [], 0, ⟨by decide +kernel, by decide +kernel, by decide +kernel, by decide +kernel⟩, trivial⟩,
   ⟨asked bare 0xB03 [], 0, ⟨by decide +kernel, by decide +kernel, by decide +kernel, by decide +kernel⟩, trivial⟩⟩

/-- What the clauses of DeviceCommandsAct ask can be met. -/
theorem met_DeviceCommandsAct :
    (Meets specDevStateSet (fun _ _ s => ((if s.parts = [] then none else some (3, 0)) : Option (Nat × Nat)) = none)) ∧
    (Meets specDevStateSet (fun _ _ s => ((if s.parts = [] then none else some (3, 0)) : Option (Nat × Nat)).isSome =
      true)) ∧
    (∃ s : State, ∃ m : Fin 64, s.Takes m specDevReset) ∧
    ((Meets specDevEvtRing (fun _ pg s => ((if le pg 0x50 8 / 2 ^ 51 = s.dev.deviceNo.toNat ∨ le pg 0x58 8 / 2 ^ 51 =
      s.dev.deviceNo.toNat ∨ (bit (le pg 0x42 2) 0 = true ∧ (s.qp? (le pg 0x48 4)).all (fun q => q.owner != le pg 0x41 1
      || (q.state == .connected && q.peer.toNat != le pg 0x50 8 / 2 ^ 51)) = true) then some (7, 0) else none) : Option
      (Nat × Nat)) = none))) ∧
    ((Meets specDevEvtRing (fun _ pg s => ((if le pg 0x50 8 / 2 ^ 51 = s.dev.deviceNo.toNat ∨ le pg 0x58 8 / 2 ^ 51 =
      s.dev.deviceNo.toNat ∨ (bit (le pg 0x42 2) 0 = true ∧ (s.qp? (le pg 0x48 4)).all (fun q => q.owner != le pg 0x41 1
      || (q.state == .connected && q.peer.toNat != le pg 0x50 8 / 2 ^ 51)) = true) then some (7, 0) else none) : Option
      (Nat × Nat)).isSome = true))) ∧
    (∃ s : State, ∃ n : Nat, (s.ring n).waiting = []) ∧
    (∃ s : State, (∀ v ∈ s.parts, v.2.resetting = none)) ∧
    ((Meets specDevMbxBind (fun m pg s => ((if s.qpBound (le pg 0x40 1) = true ∨ (le pg 0x40 1 ≠ m.val ∧ (s.mail (le pg
      0x40 1)).busy = true) then some (3, 0) else none) : Option (Nat × Nat)) = none))) ∧
    ((Meets specDevMbxBind (fun m pg s => ((if s.qpBound (le pg 0x40 1) = true ∨ (le pg 0x40 1 ≠ m.val ∧ (s.mail (le pg
      0x40 1)).busy = true) then some (3, 0) else none) : Option (Nat × Nat)).isSome = true))) ∧
    (Meets specDevSupSwap (fun _ _ s => ((if s.sup.standbyValid then none else some (8, 0)) : Option (Nat × Nat)) =
      none)) ∧
    (Meets specDevSupSwap (fun _ _ s => ((if s.sup.standbyValid then none else some (8, 0)) : Option (Nat × Nat)).isSome
      = true)) ∧
    (Meets specDevPowerCap (fun _ _ _ => True)) :=
  ⟨⟨asked bare 0x102 [(0x40, 6)], 0, ⟨by decide +kernel, by decide +kernel, by decide +kernel, by decide +kernel⟩, (by decide +kernel)⟩,
   ⟨asked device 0x102 [(0x40, 6)], 0, ⟨by decide +kernel, by decide +kernel, by decide +kernel, by decide +kernel⟩, (by decide +kernel)⟩,
   ⟨asked bare 0x103 [(0x40, 1)], 0, ⟨by decide +kernel, by decide +kernel, by decide +kernel, by decide +kernel⟩⟩,
   ⟨asked (withQp device 16) 0x104 [(0x41, 16), (0x42, 1), (0x44, 16), (0x50, 2 ^ 51), (0x58, 2 ^ 51 + 64)], 0, ⟨by decide +kernel, by decide +kernel, by decide +kernel, by decide +kernel⟩, (by decide +kernel)⟩,
   ⟨asked device 0x104 [(0x41, 16), (0x42, 1), (0x44, 16), (0x50, 2 ^ 51), (0x58, 2 ^ 51 + 64)], 0, ⟨by decide +kernel, by decide +kernel, by decide +kernel, by decide +kernel⟩, (by decide +kernel)⟩,
   ⟨device, 3, (by decide +kernel)⟩,
   ⟨device, (by decide +kernel)⟩,
   ⟨asked device 0x105 [(0x40, 5), (0x41, 16)], 0, ⟨by decide +kernel, by decide +kernel, by decide +kernel, by decide +kernel⟩, (by decide +kernel)⟩,
   ⟨asked { device with qps := [(0, { qp 16 with mailboxes := 32 })] } 0x105 [(0x40, 5), (0x41, 16)], 0, ⟨by decide +kernel, by decide +kernel, by decide +kernel, by decide +kernel⟩, (by decide +kernel)⟩,
   ⟨asked bare 0x106 [], 0, ⟨by decide +kernel, by decide +kernel, by decide +kernel, by decide +kernel⟩, (by decide +kernel)⟩,
   ⟨asked { bare with sup := { bare.sup with standbyValid := false } } 0x106 [], 0, ⟨by decide +kernel, by decide +kernel, by decide +kernel, by decide +kernel⟩, (by decide +kernel)⟩,
   ⟨asked bare 0x108 [(0x40, 900)], 0, ⟨by decide +kernel, by decide +kernel, by decide +kernel, by decide +kernel⟩, trivial⟩⟩

/-- What the clauses of ConfigurationCommandsAct ask can be met. -/
theorem met_ConfigurationCommandsAct :
    (∃ s : State, ∃ m : Fin 64, ∃ pg : Bytes, ∃ off : Nat, ∃ n : Nat, ∃ src : Nat, s.Takes m specCfgStage ∧ pg = s.page m
      ∧ off = le pg 0x44 4 ∧ n = le pg 0x48 4 ∧ src = le pg 0x50 8 ∧ s.popped.cfgBusy = true) ∧
    (∃ s : State, ∃ m : Fin 64, ∃ pg : Bytes, ∃ off : Nat, ∃ n : Nat, ∃ src : Nat, ∃ d : Nat, s.Takes m specCfgStage ∧ pg
      = s.page m ∧ off = le pg 0x44 4 ∧ n = le pg 0x48 4 ∧ src = le pg 0x50 8 ∧ s.popped.cfgBusy = false ∧ stageSegFault
      s.flash.staging off n (le pg 0x4C 4) (le pg 0x40 2 = 1) = some d) ∧
    (∃ s : State, ∃ m : Fin 64, ∃ host : Option Bytes, ∃ pg : Bytes, ∃ off : Nat, ∃ n : Nat, ∃ src : Nat, s.Takes m
      specCfgStage ∧ pg = s.page m ∧ off = le pg 0x44 4 ∧ n = le pg 0x48 4 ∧ src = le pg 0x50 8 ∧ s.popped.cfgBusy =
      false ∧ stageSegFault s.flash.staging off n (le pg 0x4C 4) (le pg 0x40 2 = 1) = none ∧ src ≠ 0 ∧
      (s.popped.hostReach m (BitVec.ofNat 64 src) = false ∨ ∀ b : Bytes, host = some b → b.length ≠ n)) ∧
    (∃ s : State, ∃ m : Fin 64, ∃ host : Option Bytes, ∃ pg : Bytes, ∃ off : Nat, ∃ n : Nat, ∃ src : Nat, ∃ seg : Bytes,
      ∃ taken : Bytes, s.Takes m specCfgStage ∧ pg = s.page m ∧ off = le pg 0x44 4 ∧ n = le pg 0x48 4 ∧ src = le pg 0x50
      8 ∧ s.popped.cfgBusy = false ∧ stageSegFault s.flash.staging off n (le pg 0x4C 4) (le pg 0x40 2 = 1) = none ∧ ((src
      = 0 ∧ seg = slice pg 0x80 n) ∨ (src ≠ 0 ∧ s.popped.hostReach m (BitVec.ofNat 64 src) = true ∧ host = some seg ∧
      seg.length = n)) ∧ taken = (if off = 0 then seg else (s.flash.staging.map (·.taken)).getD [] ++ seg) ∧ le pg 0x40 2
      = 0) ∧
    (∃ s : State, ∃ m : Fin 64, ∃ host : Option Bytes, ∃ pg : Bytes, ∃ off : Nat, ∃ n : Nat, ∃ src : Nat, ∃ seg : Bytes,
      ∃ taken : Bytes, ∃ u : State, ∃ st : Nat, ∃ d : Option Nat, s.Takes m specCfgStage ∧ pg = s.page m ∧ off = le pg
      0x44 4 ∧ n = le pg 0x48 4 ∧ src = le pg 0x50 8 ∧ s.popped.cfgBusy = false ∧ stageSegFault s.flash.staging off n (le
      pg 0x4C 4) (le pg 0x40 2 = 1) = none ∧ ((src = 0 ∧ seg = slice pg 0x80 n) ∨ (src ≠ 0 ∧ s.popped.hostReach m
      (BitVec.ofNat 64 src) = true ∧ host = some seg ∧ seg.length = n)) ∧ taken = (if off = 0 then seg else
      (s.flash.staging.map (·.taken)).getD [] ++ seg) ∧ le pg 0x40 2 = 1 ∧ u =
      { s.popped with flash := { s.flash with staging := none } } ∧ u.stageFault taken = some (st, d)) ∧
    (∃ s : State, ∃ m : Fin 64, ∃ host : Option Bytes, ∃ pg : Bytes, ∃ off : Nat, ∃ n : Nat, ∃ src : Nat, ∃ seg : Bytes,
      ∃ taken : Bytes, ∃ u : State, ∃ k : Nat, ∃ v : State, s.Takes m specCfgStage ∧ pg = s.page m ∧ off = le pg 0x44 4 ∧
      n = le pg 0x48 4 ∧ src = le pg 0x50 8 ∧ s.popped.cfgBusy = false ∧ stageSegFault s.flash.staging off n (le pg 0x4C
      4) (le pg 0x40 2 = 1) = none ∧ ((src = 0 ∧ seg = slice pg 0x80 n) ∨ (src ≠ 0 ∧ s.popped.hostReach m (BitVec.ofNat
      64 src) = true ∧ host = some seg ∧ seg.length = n)) ∧ taken = (if off = 0 then seg else (s.flash.staging.map
      (·.taken)).getD [] ++ seg) ∧ le pg 0x40 2 = 1 ∧ u = { s.popped with flash := { s.flash with staging := none } } ∧
      u.stageFault taken = none ∧ u.stageSlot = some (k, v)) ∧
    (∃ s : State, ∃ m : Fin 64, ∃ host : Option Bytes, ∃ pg : Bytes, ∃ off : Nat, ∃ n : Nat, ∃ src : Nat, ∃ seg : Bytes,
      ∃ taken : Bytes, ∃ u : State, s.Takes m specCfgStage ∧ pg = s.page m ∧ off = le pg 0x44 4 ∧ n = le pg 0x48 4 ∧ src
      = le pg 0x50 8 ∧ s.popped.cfgBusy = false ∧ stageSegFault s.flash.staging off n (le pg 0x4C 4) (le pg 0x40 2 = 1) =
      none ∧ ((src = 0 ∧ seg = slice pg 0x80 n) ∨ (src ≠ 0 ∧ s.popped.hostReach m (BitVec.ofNat 64 src) = true ∧ host =
      some seg ∧ seg.length = n)) ∧ taken = (if off = 0 then seg else (s.flash.staging.map (·.taken)).getD [] ++ seg) ∧
      le pg 0x40 2 = 1 ∧ u = { s.popped with flash := { s.flash with staging := none } } ∧ u.stageFault taken = none ∧
      u.stageSlot = none) ∧
    (∃ s : State, ∃ m : Fin 64, ∃ v : Option (Fin 8 × CfgSlot), ∃ rollback : Bool, ∃ i : Instr, ∃ st : Nat, ((i = .cfgCommit m ∧ s.Takes m specCfgCommit ∧ rollback = false ∧ v = s.popped.slotOf (le (s.page m) 0x40 4)) ∨ (i = .cfgRollback m ∧ s.Takes m specCfgRollback ∧ rollback = true ∧ v = s.popped.newestHistory)) ∧ ((if s.popped.cfgBusy then some 8 else match v with | none => some (if rollback then 3 else 7) | some (_, c) => if (rollback = false ∧ c.state ≠ .staged) ∨ (rollback = true ∧ s.popped.leavesOut c.image = true) then some 3 else if s.popped.changesBusy c.image then some 8 else if digestOk c.image then none else some 11) = some st)) ∧
    (∃ s : State, ∃ m : Fin 64, ∃ v : Option (Fin 8 × CfgSlot), ∃ rollback : Bool, ∃ i : Instr, ∃ k : Fin 8, ∃ c :
      CfgSlot, ((i = .cfgCommit m ∧ s.Takes m specCfgCommit ∧ rollback = false ∧ v = s.popped.slotOf (le (s.page m) 0x40
      4)) ∨ (i = .cfgRollback m ∧ s.Takes m specCfgRollback ∧ rollback = true ∧ v = s.popped.newestHistory)) ∧ v = some
      (k, c) ∧ s.popped.cfgBusy = false ∧ (rollback = false → c.state = .staged) ∧ (rollback = true → s.popped.leavesOut
      c.image = false) ∧ s.popped.changesBusy c.image = false ∧ digestOk c.image = true) ∧
    (∃ s : State, ∃ m : Fin 64, ∃ pg : Bytes, s.Takes m specCfgRead ∧ pg = s.page m ∧ s.popped.slotOf (le pg 0x40 4) =
      none) ∧
    (∃ s : State, ∃ m : Fin 64, ∃ pg : Bytes, ∃ k : Fin 8, ∃ c : CfgSlot, s.Takes m specCfgRead ∧ pg = s.page m ∧
      s.popped.slotOf (le pg 0x40 4) = some (k, c) ∧ c.image.length ≤ le pg 0x44 4) ∧
    (∃ s : State, ∃ m : Fin 64, ∃ pg : Bytes, ∃ k : Fin 8, ∃ c : CfgSlot, s.Takes m specCfgRead ∧ pg = s.page m ∧
      s.popped.slotOf (le pg 0x40 4) = some (k, c) ∧ le pg 0x44 4 < c.image.length ∧ le pg 0x48 8 = 0) ∧
    (∃ s : State, ∃ m : Fin 64, ∃ ok : Bool, ∃ pg : Bytes, ∃ k : Fin 8, ∃ c : CfgSlot, s.Takes m specCfgRead ∧ pg =
      s.page m ∧ s.popped.slotOf (le pg 0x40 4) = some (k, c) ∧ le pg 0x44 4 < c.image.length ∧ le pg 0x48 8 ≠ 0 ∧ ok =
      true ∧ s.popped.hostReach m (BitVec.ofNat 64 (le pg 0x48 8)) = true) ∧
    (∃ s : State, ∃ m : Fin 64, ∃ ok : Bool, ∃ pg : Bytes, ∃ k : Fin 8, ∃ c : CfgSlot, s.Takes m specCfgRead ∧ pg =
      s.page m ∧ s.popped.slotOf (le pg 0x40 4) = some (k, c) ∧ le pg 0x44 4 < c.image.length ∧ le pg 0x48 8 ≠ 0 ∧ (ok =
      false ∨ s.popped.hostReach m (BitVec.ofNat 64 (le pg 0x48 8)) = false)) ∧
    (Meets specCfgDiscard (fun _ pg s => ((if (s.commit.map (·.version.toNat)) = some (le pg 0x40 4) then some (8, 0) else match s.slotOf (le pg 0x40 4) with | none => some (7, 0) | some (_, c) => if c.state ≠ .staged then some (3, 0) else if ({ s with commit := none } : State).cfgBusy = true then some (8, 0) else none) : Option (Nat × Nat)) = none)) ∧
    (Meets specCfgDiscard (fun _ pg s => ((if (s.commit.map (·.version.toNat)) = some (le pg 0x40 4) then some (8, 0) else match s.slotOf (le pg 0x40 4) with | none => some (7, 0) | some (_, c) => if c.state ≠ .staged then some (3, 0) else if ({ s with commit := none } : State).cfgBusy = true then some (8, 0) else none) : Option (Nat × Nat)).isSome = true)) :=
  ⟨⟨asked { bare with flash := { bare.flash with ops := [.cfgFree 9 3] } } 0x201 [(0x48, 64), (0x4C, 128)], 0, _, _, _, _, ⟨by decide +kernel, by decide +kernel, by decide +kernel, by decide +kernel⟩, rfl, rfl, rfl, rfl, (by decide +kernel)⟩,
   ⟨asked bare 0x201 [(0x44, 4), (0x48, 64), (0x4C, 128)], 0, _, _, _, _, 0x44, ⟨by decide +kernel, by decide +kernel, by decide +kernel, by decide +kernel⟩, rfl, rfl, rfl, rfl, (by decide +kernel), (by decide +kernel)⟩,
   ⟨asked bare 0x201 [(0x48, 64), (0x4C, 128), (0x50, 2 ^ 51)], 0, none, _, _, _, _, ⟨by decide +kernel, by decide +kernel, by decide +kernel, by decide +kernel⟩, rfl, rfl, rfl, rfl, (by decide +kernel), (by decide +kernel), (by decide +kernel), (by decide +kernel)⟩,
   ⟨asked bare 0x201 [(0x48, 64), (0x4C, 128)], 0, none, _, _, _, _, zeros 64, _, ⟨by decide +kernel, by decide +kernel, by decide +kernel, by decide +kernel⟩, rfl, rfl, rfl, rfl, (by decide +kernel), (by decide +kernel), (Or.inl ⟨by decide +kernel, by decide +kernel⟩), rfl, (by decide +kernel)⟩,
   ⟨asked bare 0x201 [(0x40, 1), (0x48, 64), (0x4C, 64)], 0, none, _, _, _, _, zeros 64, _, _, stDigest, some 0x40, ⟨by decide +kernel, by decide +kernel, by decide +kernel, by decide +kernel⟩, rfl, rfl, rfl, rfl, (by decide +kernel), (by decide +kernel), (Or.inl ⟨by decide +kernel, by decide +kernel⟩), rfl, (by decide +kernel), rfl, (by decide +kernel)⟩,
   ⟨asked { bare with flash := { bare.flash with cfg := Vector.replicate 8 ⟨.free, 0, []⟩ } } 0x201 [(0x40, 1), (0x48, 200), (0x4C, 200), (0x80, leNat factoryImage)], 0, none, _, _, _, _, factoryImage, _, _, _, _, ⟨by decide +kernel, by decide +kernel, by decide +kernel, by decide +kernel⟩, rfl, rfl, rfl, rfl, (by decide +kernel), (by decide +kernel), (Or.inl ⟨by decide +kernel, by decide +kernel⟩), rfl, (by decide +kernel), rfl, (by decide +kernel), rfl⟩,
   ⟨asked { bare with flash := { bare.flash with cfg := Vector.replicate 8 ⟨.staged, 0, []⟩ } } 0x201 [(0x40, 1), (0x48, 200), (0x4C, 200), (0x80, leNat factoryImage)], 0, none, _, _, _, _, factoryImage, _, _, ⟨by decide +kernel, by decide +kernel, by decide +kernel, by decide +kernel⟩, rfl, rfl, rfl, rfl, (by decide +kernel), (by decide +kernel), (Or.inl ⟨by decide +kernel, by decide +kernel⟩), rfl, (by decide +kernel), rfl, (by decide +kernel), rfl⟩,
   ⟨asked bare 0x202 [(0x40, 7)], 0, none, false, .cfgCommit 0, 7, (Or.inl ⟨rfl, ⟨by decide +kernel, by decide +kernel, by decide +kernel, by decide +kernel⟩, rfl, by decide +kernel⟩), (by decide +kernel)⟩,
   ⟨asked { bare with flash := { bare.flash with cfg := bare.flash.cfg.set 1 ⟨.staged, 2, factoryImage⟩ } } 0x202 [(0x40, 2)], 0, some (1, ⟨.staged, 2, factoryImage⟩), false, .cfgCommit 0, 1, (⟨.staged, 2, factoryImage⟩ : CfgSlot), (Or.inl ⟨rfl, ⟨by decide +kernel, by decide +kernel, by decide +kernel, by decide +kernel⟩, rfl, by decide +kernel⟩), (by decide +kernel), (by decide +kernel), (by decide +kernel), (by decide +kernel), (by decide +kernel), (by decide +kernel)⟩,
   ⟨asked bare 0x205 [(0x40, 7)], 0, _, ⟨by decide +kernel, by decide +kernel, by decide +kernel, by decide +kernel⟩, rfl, (by decide +kernel)⟩,
   ⟨asked bare 0x205 [(0x40, 1), (0x44, 4000)], 0, _, 0, ⟨.current, 1, factoryImage⟩, ⟨by decide +kernel, by decide +kernel, by decide +kernel, by decide +kernel⟩, rfl, (by decide +kernel), (by decide +kernel)⟩,
   ⟨asked bare 0x205 [(0x40, 1)], 0, _, 0, ⟨.current, 1, factoryImage⟩, ⟨by decide +kernel, by decide +kernel, by decide +kernel, by decide +kernel⟩, rfl, (by decide +kernel), (by decide +kernel), (by decide +kernel)⟩,
   ⟨asked (withQp bare 16) 0x205 [(0x40, 1), (0x48, 2 ^ 51)], 0, true, _, 0, ⟨.current, 1, factoryImage⟩, ⟨by decide +kernel, by decide +kernel, by decide +kernel, by decide +kernel⟩, rfl, (by decide +kernel), (by decide +kernel), (by decide +kernel), (by decide +kernel), (by decide +kernel)⟩,
   ⟨asked bare 0x205 [(0x40, 1), (0x48, 2 ^ 51)], 0, true, _, 0, ⟨.current, 1, factoryImage⟩, ⟨by decide +kernel, by decide +kernel, by decide +kernel, by decide +kernel⟩, rfl, (by decide +kernel), (by decide +kernel), (by decide +kernel), (by decide +kernel)⟩,
   ⟨asked { bare with flash := { bare.flash with cfg := bare.flash.cfg.set 1 ⟨.staged, 2, factoryImage⟩ } } 0x206 [(0x40, 2)], 0, ⟨by decide +kernel, by decide +kernel, by decide +kernel, by decide +kernel⟩, (by decide +kernel)⟩,
   ⟨asked bare 0x206 [(0x40, 2)], 0, ⟨by decide +kernel, by decide +kernel, by decide +kernel, by decide +kernel⟩, (by decide +kernel)⟩⟩

/-- What the clauses of PartitionAndImageCommandsAct ask can be met. -/
theorem met_PartitionAndImageCommandsAct :
    ((Meets specPartCreate (fun _ pg s => ((if s.commitChanges (le pg 0x40 1) = true ∨ (s.part? (le pg 0x40 1)).any (fun
      q => !q.settled) = true then some (8, 0) else if (s.part? (le pg 0x40 1)).isSome = true ∨ s.currentCfg.bind (fun c
      => sectOf c.image 2 (le pg 0x40 1)) = none then some (3, 0) else if s.parts.any (fun q => q.2.held.any (fun a =>
      (extsOf pg false ++ extsOf pg true).any (fun b => a.meets b))) = true ∨ (extsOf pg false ++ extsOf pg true).any
      s.meetsSpare = true ∨ extBytes (extsOf pg false) < 8192 + 131072 + par createSizes pg 6 * minSlot ∨ extBytes
      (extsOf pg true) < par createSizes pg 7 * minSlot ∨ s.lpRoom (extsOf pg true) = false ∨ (∃ c ∈ clustersOf
      ((s.currentCfg.bind (fun c => sectOf c.image 2 (le pg 0x40 1))).getD []), (s.clusterOwner c).isSome = true) then
      some (10, 0) else none) : Option (Nat × Nat)) = none))) ∧
    ((Meets specPartCreate (fun _ pg s => ((if s.commitChanges (le pg 0x40 1) = true ∨ (s.part? (le pg 0x40 1)).any (fun
      q => !q.settled) = true then some (8, 0) else if (s.part? (le pg 0x40 1)).isSome = true ∨ s.currentCfg.bind (fun c
      => sectOf c.image 2 (le pg 0x40 1)) = none then some (3, 0) else if s.parts.any (fun q => q.2.held.any (fun a =>
      (extsOf pg false ++ extsOf pg true).any (fun b => a.meets b))) = true ∨ (extsOf pg false ++ extsOf pg true).any
      s.meetsSpare = true ∨ extBytes (extsOf pg false) < 8192 + 131072 + par createSizes pg 6 * minSlot ∨ extBytes
      (extsOf pg true) < par createSizes pg 7 * minSlot ∨ s.lpRoom (extsOf pg true) = false ∨ (∃ c ∈ clustersOf
      ((s.currentCfg.bind (fun c => sectOf c.image 2 (le pg 0x40 1))).getD []), (s.clusterOwner c).isSome = true) then
      some (10, 0) else none) : Option (Nat × Nat)).isSome = true))) ∧
    ((Meets specPartDestroy (fun _ pg s => ((match s.part? (le pg 0x40 1) with | none => some (3, 0) | some q => if q.settled = false ∨ s.commitChanges (le pg 0x40 1) = true then some (8, 0) else none) : Option (Nat × Nat)) = none))) ∧
    ((Meets specPartDestroy (fun _ pg s => ((match s.part? (le pg 0x40 1) with | none => some (3, 0) | some q => if q.settled = false ∨ s.commitChanges (le pg 0x40 1) = true then some (8, 0) else none) : Option (Nat × Nat)).isSome = true))) ∧
    (∃ s : State, ∃ p : Nat, ∃ q : Partition, s.part? p = some q ∧ (∀ x, (((((s.abortLoads p).dropStep p).zeroArchive
      p).zeroAudio p).wipeStreams p).part? p = some x → x.unitWaits = [])) ∧
    (∃ s : State, ∃ m : Fin 64, ∃ p : Nat, s.Takes m specPartReset ∧ p = le (s.page m) 0x40 1 ∧ s.popped.part? p = none) ∧
    (∃ s : State, ∃ m : Fin 64, ∃ p : Nat, ∃ q : Partition, s.Takes m specPartReset ∧ p = le (s.page m) 0x40 1 ∧
      s.popped.part? p = some q ∧ q.settled = false) ∧
    (∃ s : State, ∃ m : Fin 64, ∃ p : Nat, ∃ q : Partition, s.Takes m specPartReset ∧ p = le (s.page m) 0x40 1 ∧
      s.popped.part? p = some q ∧ q.settled = true) ∧
    (∃ s : State, ∃ m : Fin 64, ∃ pg : Bytes, ∃ dig : Bytes, ∃ p : Nat, ∃ off : Nat, ∃ n : Nat, ∃ total : Nat, s.Takes m
      specModelLoad ∧ pg = s.page m ∧ p = le pg 0x40 1 ∧ off = par loadSizes pg 2 ∧ n = le pg 0x50 4 ∧ total = le pg 0x58
      8 ∧ dig = parB loadSizes pg 6 ∧ s.popped.live? p = none) ∧
    (∃ s : State, ∃ m : Fin 64, ∃ pg : Bytes, ∃ dig : Bytes, ∃ p : Nat, ∃ off : Nat, ∃ n : Nat, ∃ total : Nat, ∃ q :
      Partition, ∃ own : Option Bool, ∃ got : Nat, s.Takes m specModelLoad ∧ pg = s.page m ∧ p = le pg 0x40 1 ∧ off = par
      loadSizes pg 2 ∧ n = le pg 0x50 4 ∧ total = le pg 0x58 8 ∧ dig = parB loadSizes pg 6 ∧ s.popped.live? p = some q ∧
      own = [false, true].find? (fun b => (q.img b).state == .loading && (q.img b).digest == dig) ∧ got = (own.map (fun b
      => (q.img b).received)).getD 0 ∧ q.settled = false) ∧
    (∃ s : State, ∃ m : Fin 64, ∃ pg : Bytes, ∃ dig : Bytes, ∃ p : Nat, ∃ off : Nat, ∃ n : Nat, ∃ total : Nat, ∃ q :
      Partition, ∃ own : Option Bool, ∃ got : Nat, s.Takes m specModelLoad ∧ pg = s.page m ∧ p = le pg 0x40 1 ∧ off = par
      loadSizes pg 2 ∧ n = le pg 0x50 4 ∧ total = le pg 0x58 8 ∧ dig = parB loadSizes pg 6 ∧ s.popped.live? p = some q ∧
      own = [false, true].find? (fun b => (q.img b).state == .loading && (q.img b).digest == dig) ∧ got = (own.map (fun b
      => (q.img b).received)).getD 0 ∧ q.settled = true ∧ own.isSome = true ∧ off < got ∧ (off = 0 → bit (le pg 0x41 1) 0
      = false)) ∧
    (∃ s : State, ∃ m : Fin 64, ∃ pg : Bytes, ∃ dig : Bytes, ∃ p : Nat, ∃ off : Nat, ∃ n : Nat, ∃ total : Nat, ∃ q : Partition, ∃ own : Option Bool, ∃ got : Nat, ∃ d : Option Nat, ∃ f : Nat, s.Takes m specModelLoad ∧ pg = s.page m ∧ p = le pg 0x40 1 ∧ off = par loadSizes pg 2 ∧ n = le pg 0x50 4 ∧ total = le pg 0x58 8 ∧ dig = parB loadSizes pg 6 ∧ s.popped.live? p = some q ∧ own = [false, true].find? (fun b => (q.img b).state == .loading && (q.img b).digest == dig) ∧ got = (own.map (fun b => (q.img b).received)).getD 0 ∧ q.settled = true ∧ got ≤ off ∧ off ≠ 0 ∧ d = (match own with | none => some (loadOff 2) | some b => if off ≠ got then some (loadOff 2) else if total ≠ (q.img b).total then some (loadOff 4) else if total < got + n then some (loadOff 3) else none) ∧ d = some f) ∧
    (∃ s : State, ∃ m : Fin 64, ∃ pg : Bytes, ∃ dig : Bytes, ∃ p : Nat, ∃ off : Nat, ∃ n : Nat, ∃ total : Nat, ∃ q :
      Partition, ∃ own : Option Bool, ∃ got : Nat, s.Takes m specModelLoad ∧ pg = s.page m ∧ p = le pg 0x40 1 ∧ off = par
      loadSizes pg 2 ∧ n = le pg 0x50 4 ∧ total = le pg 0x58 8 ∧ dig = parB loadSizes pg 6 ∧ s.popped.live? p = some q ∧
      own = [false, true].find? (fun b => (q.img b).state == .loading && (q.img b).digest == dig) ∧ got = (own.map (fun b
      => (q.img b).received)).getD 0 ∧ q.settled = true ∧ off = 0 ∧ (own.isSome = true → got = 0 ∨ bit (le pg 0x41 1) 0 =
      true) ∧ s.popped.loadSlot p q dig (bit (le pg 0x41 1) 0) = none) ∧
    (∃ s : State, ∃ m : Fin 64, ∃ pg : Bytes, ∃ dig : Bytes, ∃ p : Nat, ∃ off : Nat, ∃ n : Nat, ∃ total : Nat, ∃ q :
      Partition, ∃ own : Option Bool, ∃ got : Nat, s.Takes m specModelLoad ∧ pg = s.page m ∧ p = le pg 0x40 1 ∧ off = par
      loadSizes pg 2 ∧ n = le pg 0x50 4 ∧ total = le pg 0x58 8 ∧ dig = parB loadSizes pg 6 ∧ s.popped.live? p = some q ∧
      own = [false, true].find? (fun b => (q.img b).state == .loading && (q.img b).digest == dig) ∧ got = (own.map (fun b
      => (q.img b).received)).getD 0 ∧ q.settled = true ∧ off = 0 ∧ (own.isSome = true → got = 0 ∨ bit (le pg 0x41 1) 0 =
      true) ∧ (s.popped.loadSlot p q dig (bit (le pg 0x41 1) 0)).isSome = true ∧ total < n) ∧
    (∃ s : State, ∃ m : Fin 64, ∃ host : Option Bytes, ∃ pg : Bytes, ∃ dig : Bytes, ∃ p : Nat, ∃ off : Nat, ∃ n : Nat, ∃
      total : Nat, ∃ q : Partition, ∃ own : Option Bool, ∃ got : Nat, ∃ b : Bool, s.Takes m specModelLoad ∧ pg = s.page m
      ∧ p = le pg 0x40 1 ∧ off = par loadSizes pg 2 ∧ n = le pg 0x50 4 ∧ total = le pg 0x58 8 ∧ dig = parB loadSizes pg 6
      ∧ s.popped.live? p = some q ∧ own = [false, true].find? (fun b => (q.img b).state == .loading && (q.img b).digest
      == dig) ∧ got = (own.map (fun b => (q.img b).received)).getD 0 ∧ q.settled = true ∧ ((off ≠ 0 ∧ own = some b ∧ off
      = got ∧ total = (q.img b).total ∧ got + n ≤ total) ∨ (off = 0 ∧ (own.isSome = true → got = 0 ∨ bit (le pg 0x41 1) 0
      = true) ∧ s.popped.loadSlot p q dig (bit (le pg 0x41 1) 0) = some b ∧ n ≤ total)) ∧ (s.popped.hostReach m
      (BitVec.ofNat 64 (le pg 0x60 8)) = false ∨ ∀ v : Bytes, host = some v → v.length ≠ n)) ∧
    (∃ s : State, ∃ m : Fin 64, ∃ host : Option Bytes, ∃ pg : Bytes, ∃ dig : Bytes, ∃ p : Nat, ∃ off : Nat, ∃ n : Nat, ∃
      total : Nat, ∃ q : Partition, ∃ own : Option Bool, ∃ got : Nat, ∃ b : Bool, ∃ bs : Bytes, ∃ u : State, ∃ w : State,
      ∃ r : Partition, ∃ o : ImageSlot, s.Takes m specModelLoad ∧ pg = s.page m ∧ p = le pg 0x40 1 ∧ off = par loadSizes
      pg 2 ∧ n = le pg 0x50 4 ∧ total = le pg 0x58 8 ∧ dig = parB loadSizes pg 6 ∧ s.popped.live? p = some q ∧ own =
      [false, true].find? (fun b => (q.img b).state == .loading && (q.img b).digest == dig) ∧ got = (own.map (fun b =>
      (q.img b).received)).getD 0 ∧ q.settled = true ∧ ((off ≠ 0 ∧ own = some b ∧ off = got ∧ total = (q.img b).total ∧
      got + n ≤ total) ∨ (off = 0 ∧ (own.isSome = true → got = 0 ∨ bit (le pg 0x41 1) 0 = true) ∧ s.popped.loadSlot p q
      dig (bit (le pg 0x41 1) 0) = some b ∧ n ≤ total)) ∧ host = some bs ∧ bs.length = n ∧ s.popped.hostReach m
      (BitVec.ofNat 64 (le pg 0x60 8)) = true ∧ (if off = 0 then s.popped.beginLoad p b total dig else some s.popped) =
      some u ∧ u.part? p = some r ∧ o =
      { r.img b with received := (r.img b).received + n, bytes := (r.img b).bytes ++ bs } ∧ w = (u.writeRaw (o.area +
      off) bs).setPart p (r.setImg b o) ∧ o.received ≠ o.total) ∧
    (∃ s : State, ∃ m : Fin 64, ∃ host : Option Bytes, ∃ im : ImageInfo, ∃ pg : Bytes, ∃ dig : Bytes, ∃ p : Nat, ∃ off :
      Nat, ∃ n : Nat, ∃ total : Nat, ∃ q : Partition, ∃ own : Option Bool, ∃ got : Nat, ∃ b : Bool, ∃ bs : Bytes, ∃ u :
      State, ∃ w : State, ∃ r : Partition, ∃ o : ImageSlot, ∃ q' : Partition, ∃ st : Nat, ∃ d : Nat, s.Takes m
      specModelLoad ∧ pg = s.page m ∧ p = le pg 0x40 1 ∧ off = par loadSizes pg 2 ∧ n = le pg 0x50 4 ∧ total = le pg 0x58
      8 ∧ dig = parB loadSizes pg 6 ∧ s.popped.live? p = some q ∧ own = [false, true].find? (fun b => (q.img b).state ==
      .loading && (q.img b).digest == dig) ∧ got = (own.map (fun b => (q.img b).received)).getD 0 ∧ q.settled = true ∧
      ((off ≠ 0 ∧ own = some b ∧ off = got ∧ total = (q.img b).total ∧ got + n ≤ total) ∨ (off = 0 ∧ (own.isSome = true →
      got = 0 ∨ bit (le pg 0x41 1) 0 = true) ∧ s.popped.loadSlot p q dig (bit (le pg 0x41 1) 0) = some b ∧ n ≤ total)) ∧
      host = some bs ∧ bs.length = n ∧ s.popped.hostReach m (BitVec.ofNat 64 (le pg 0x60 8)) = true ∧ (if off = 0 then
      s.popped.beginLoad p b total dig else some s.popped) = some u ∧ u.part? p = some r ∧ o =
      { r.img b with received := (r.img b).received + n, bytes := (r.img b).bytes ++ bs } ∧ w = (u.writeRaw (o.area +
      off) bs).setPart p (r.setImg b o) ∧ o.received = o.total ∧ q' = r.setImg b o ∧ w.imageStops p q' o im = some (st,
      d)) ∧
    (∃ s : State, ∃ m : Fin 64, ∃ host : Option Bytes, ∃ im : ImageInfo, ∃ pg : Bytes, ∃ dig : Bytes, ∃ p : Nat, ∃ off :
      Nat, ∃ n : Nat, ∃ total : Nat, ∃ q : Partition, ∃ own : Option Bool, ∃ got : Nat, ∃ b : Bool, ∃ bs : Bytes, ∃ u :
      State, ∃ w : State, ∃ r : Partition, ∃ o : ImageSlot, ∃ q' : Partition, ∃ x : State, ∃ now : Bool, s.Takes m
      specModelLoad ∧ pg = s.page m ∧ p = le pg 0x40 1 ∧ off = par loadSizes pg 2 ∧ n = le pg 0x50 4 ∧ total = le pg 0x58
      8 ∧ dig = parB loadSizes pg 6 ∧ s.popped.live? p = some q ∧ own = [false, true].find? (fun b => (q.img b).state ==
      .loading && (q.img b).digest == dig) ∧ got = (own.map (fun b => (q.img b).received)).getD 0 ∧ q.settled = true ∧
      ((off ≠ 0 ∧ own = some b ∧ off = got ∧ total = (q.img b).total ∧ got + n ≤ total) ∨ (off = 0 ∧ (own.isSome = true →
      got = 0 ∨ bit (le pg 0x41 1) 0 = true) ∧ s.popped.loadSlot p q dig (bit (le pg 0x41 1) 0) = some b ∧ n ≤ total)) ∧
      host = some bs ∧ bs.length = n ∧ s.popped.hostReach m (BitVec.ofNat 64 (le pg 0x60 8)) = true ∧ (if off = 0 then
      s.popped.beginLoad p b total dig else some s.popped) = some u ∧ u.part? p = some r ∧ o =
      { r.img b with received := (r.img b).received + n, bytes := (r.img b).bytes ++ bs } ∧ w = (u.writeRaw (o.area +
      off) bs).setPart p (r.setImg b o) ∧ o.received = o.total ∧ q' = r.setImg b o ∧ w.imageStops p q' o im = none ∧ x =
      w.setPart p (q'.setImg b { o with state := .loaded, info := some im }) ∧ now = (q'.image?.isNone && ((secDigest
      q'.sect).all (· == 0) || secDigest q'.sect == o.digest))) ∧
    (∃ s : State, ∃ m : Fin 64, ∃ p : Nat, ∃ dig : Bytes, s.Takes m specModelUnload ∧ p = le (s.page m) 0x40 1 ∧ dig =
      parB [1, 64] (s.page m) 1 ∧ s.popped.live? p = none) ∧
    (∃ s : State, ∃ m : Fin 64, ∃ p : Nat, ∃ dig : Bytes, ∃ q : Partition, ∃ v : Option Bool, ∃ st : Nat, s.Takes m specModelUnload ∧ p = le (s.page m) 0x40 1 ∧ dig = parB [1, 64] (s.page m) 1 ∧ s.popped.live? p = some q ∧ v = [false, true].find? (fun k => (q.img k).state != .empty && (q.img k).digest == dig) ∧ ((if q.settled = false then some 8 else match v with | none => some 7 | some b => if (q.img b).state = .inService ∨ s.popped.namesImage p dig = true then some 3 else none) = some st)) ∧
    (∃ s : State, ∃ m : Fin 64, ∃ p : Nat, ∃ dig : Bytes, ∃ q : Partition, ∃ v : Option Bool, ∃ b : Bool, s.Takes m
      specModelUnload ∧ p = le (s.page m) 0x40 1 ∧ dig = parB [1, 64] (s.page m) 1 ∧ s.popped.live? p = some q ∧ v =
      [false, true].find? (fun k => (q.img k).state != .empty && (q.img k).digest == dig) ∧ q.settled = true ∧ v = some b
      ∧ (q.img b).state ≠ .inService ∧ s.popped.namesImage p dig = false) :=
  ⟨⟨asked defined 0x301 [(0x40, 0), (0x41, 1), (0x58, 2 ^ 48)], 0, ⟨by decide +kernel, by decide +kernel, by decide +kernel, by decide +kernel⟩, (by decide +kernel)⟩,
   ⟨asked bare 0x301 [(0x40, 0), (0x41, 1), (0x58, 2 ^ 48)], 0, ⟨by decide +kernel, by decide +kernel, by decide +kernel, by decide +kernel⟩, (by decide +kernel)⟩,
   ⟨asked device 0x302 [], 0, ⟨by decide +kernel, by decide +kernel, by decide +kernel, by decide +kernel⟩, (by decide +kernel)⟩,
   ⟨asked bare 0x302 [], 0, ⟨by decide +kernel, by decide +kernel, by decide +kernel, by decide +kernel⟩, (by decide +kernel)⟩,
   ⟨device, 0, part, (by decide +kernel), (fun x h => by cases h; rfl)⟩,
   ⟨asked bare 0x303 [], 0, _, ⟨by decide +kernel, by decide +kernel, by decide +kernel, by decide +kernel⟩, rfl, (by decide +kernel)⟩,
   ⟨asked { device with parts := [(0, { part with resetting := some (9, false) })] } 0x303 [], 0, _, { part with resetting := some (9, false) }, ⟨by decide +kernel, by decide +kernel, by decide +kernel, by decide +kernel⟩, rfl, (by decide +kernel), (by decide +kernel)⟩,
   ⟨asked device 0x303 [], 0, _, part, ⟨by decide +kernel, by decide +kernel, by decide +kernel, by decide +kernel⟩, rfl, (by decide +kernel), (by decide +kernel)⟩,
   ⟨asked bare 0x401 [(0x41, 0), (0x48, 0), (0x50, 4), (0x58, 100), (0x60, 2 ^ 51), (0x68, 0)], 0, _, _, _, _, _, _, ⟨by decide +kernel, by decide +kernel, by decide +kernel, by decide +kernel⟩, rfl, rfl, rfl, rfl, rfl, rfl, (by decide +kernel)⟩,
   ⟨asked { device with parts := [(0, { part with resetting := some (9, false) })] } 0x401 [(0x41, 0), (0x48, 0), (0x50, 4), (0x58, 100), (0x60, 2 ^ 51), (0x68, 0)], 0, _, _, _, _, _, _, { part with resetting := some (9, false) }, none, _, ⟨by decide +kernel, by decide +kernel, by decide +kernel, by decide +kernel⟩, rfl, rfl, rfl, rfl, rfl, rfl, (by decide +kernel), (by decide +kernel), rfl, (by decide +kernel)⟩,
   ⟨asked (withQp { device with parts := [(0, { part with img1 := ⟨.loading, 2, 4, natToBytes 64 5, [1, 2], none, 0x9000000⟩ })] } 16) 0x401 [(0x41, 0), (0x48, 0), (0x50, 4), (0x58, 4), (0x60, 2 ^ 51), (0x68, 5)], 0, _, _, _, _, _, _, { part with img1 := ⟨.loading, 2, 4, natToBytes 64 5, [1, 2], none, 0x9000000⟩ }, some true, _, ⟨by decide +kernel, by decide +kernel, by decide +kernel, by decide +kernel⟩, rfl, rfl, rfl, rfl, rfl, rfl, (by decide +kernel), (by decide +kernel), rfl, (by decide +kernel), (by decide +kernel), (by decide +kernel), (by decide +kernel)⟩,
   ⟨asked (withQp { device with parts := [(0, { part with img1 := ⟨.loading, 2, 4, natToBytes 64 5, [1, 2], none, 0x9000000⟩ })] } 16) 0x401 [(0x41, 0), (0x48, 3), (0x50, 1), (0x58, 4), (0x60, 2 ^ 51), (0x68, 5)], 0, _, _, _, _, _, _, { part with img1 := ⟨.loading, 2, 4, natToBytes 64 5, [1, 2], none, 0x9000000⟩ }, some true, _, some 0x48, 0x48, ⟨by decide +kernel, by decide +kernel, by decide +kernel, by decide +kernel⟩, rfl, rfl, rfl, rfl, rfl, rfl, (by decide +kernel), (by decide +kernel), rfl, (by decide +kernel), (by decide +kernel), (by decide +kernel), (by decide +kernel), (by decide +kernel)⟩,
   ⟨asked (withQp { device with parts := [(0, { part with img1 := ⟨.loading, 0, 4, zeros 64, [], none, 0⟩ })] } 16) 0x401 [(0x41, 0), (0x48, 0), (0x50, 4), (0x58, 4), (0x60, 2 ^ 51), (0x68, 5)], 0, _, _, _, _, _, _, { part with img1 := ⟨.loading, 0, 4, zeros 64, [], none, 0⟩ }, none, _, ⟨by decide +kernel, by decide +kernel, by decide +kernel, by decide +kernel⟩, rfl, rfl, rfl, rfl, rfl, rfl, (by decide +kernel), (by decide +kernel), rfl, (by decide +kernel), (by decide +kernel), (by decide +kernel), (by decide +kernel)⟩,
   ⟨asked (withQp { device with parts := [(0, part)] } 16) 0x401 [(0x41, 0), (0x48, 0), (0x50, 5), (0x58, 4), (0x60, 2 ^ 51), (0x68, 5)], 0, _, _, _, _, _, _, part, none, _, ⟨by decide +kernel, by decide +kernel, by decide +kernel, by decide +kernel⟩, rfl, rfl, rfl, rfl, rfl, rfl, (by decide +kernel), (by decide +kernel), rfl, (by decide +kernel), (by decide +kernel), (by decide +kernel), (by decide +kernel), (by decide +kernel)⟩,
   ⟨asked (withQp { device with parts := [(0, { part with img1 := ⟨.loading, 2, 4, natToBytes 64 5, [1, 2], none, 0x9000000⟩ })] } 16) 0x401 [(0x41, 0), (0x48, 2), (0x50, 2), (0x58, 4), (0x60, 2 ^ 51), (0x68, 5)], 0, none, _, _, _, _, _, _, { part with img1 := ⟨.loading, 2, 4, natToBytes 64 5, [1, 2], none, 0x9000000⟩ }, some true, _, true, ⟨by decide +kernel, by decide +kernel, by decide +kernel, by decide +kernel⟩, rfl, rfl, rfl, rfl, rfl, rfl, (by decide +kernel), (by decide +kernel), rfl, (by decide +kernel), (Or.inl (by decide +kernel)), (Or.inr (fun v h => nomatch h))⟩,
   ⟨asked (withQp { device with parts := [(0, { part with img1 := ⟨.loading, 2, 4, natToBytes 64 5, [1, 2], none, 0x9000000⟩ })] } 16) 0x401 [(0x41, 0), (0x48, 2), (0x50, 1), (0x58, 4), (0x60, 2 ^ 51), (0x68, 5)], 0, some [3], _, _, _, _, _, _, { part with img1 := ⟨.loading, 2, 4, natToBytes 64 5, [1, 2], none, 0x9000000⟩ }, some true, _, true, [3], _, _, { part with img1 := ⟨.loading, 2, 4, natToBytes 64 5, [1, 2], none, 0x9000000⟩ }, _, ⟨by decide +kernel, by decide +kernel, by decide +kernel, by decide +kernel⟩, rfl, rfl, rfl, rfl, rfl, rfl, (by decide +kernel), (by decide +kernel), rfl, (by decide +kernel), (Or.inl (by decide +kernel)), (by decide +kernel), (by decide +kernel), (by decide +kernel), (if_neg (by decide +kernel)), (by decide +kernel), rfl, rfl, (by decide +kernel)⟩,
   ⟨asked (withQp { device with parts := [(0, { part with img1 := ⟨.loading, 2, 4, natToBytes 64 5, [1, 2], none, 0x9000000⟩ })] } 16) 0x401 [(0x41, 0), (0x48, 2), (0x50, 2), (0x58, 4), (0x60, 2 ^ 51), (0x68, 5)], 0, some [3, 4], img, _, _, _, _, _, _, { part with img1 := ⟨.loading, 2, 4, natToBytes 64 5, [1, 2], none, 0x9000000⟩ }, some true, _, true, [3, 4], _, _, { part with img1 := ⟨.loading, 2, 4, natToBytes 64 5, [1, 2], none, 0x9000000⟩ }, _, _, stDigest, 0, ⟨by decide +kernel, by decide +kernel, by decide +kernel, by decide +kernel⟩, rfl, rfl, rfl, rfl, rfl, rfl, (by decide +kernel), (by decide +kernel), rfl, (by decide +kernel), (Or.inl (by decide +kernel)), (by decide +kernel), (by decide +kernel), (by decide +kernel), (if_neg (by decide +kernel)), (by decide +kernel), rfl, rfl, (by decide +kernel), rfl, (by decide +kernel)⟩,
   ⟨asked (withQp { device with parts := [(0, { part with img1 := ⟨.loading, 2, 4, natToBytes 64 0xab21984c03840115cacd9b03fca261fdd28e991e773529575a7f1aaa5286764b4eb8315a58efa5a32ae0446253c8f5f7848b25ccbf2259d15a9c51ccc2f2a3dc, [1, 2], none, 0x9000000⟩ })] } 16) 0x401 [(0x41, 0), (0x48, 2), (0x50, 2), (0x58, 4), (0x60, 2 ^ 51), (0x68, 0xab21984c03840115cacd9b03fca261fdd28e991e773529575a7f1aaa5286764b4eb8315a58efa5a32ae0446253c8f5f7848b25ccbf2259d15a9c51ccc2f2a3dc)], 0, some [3, 4], { img with groupCores := 2 }, _, _, _, _, _, _, { part with img1 := ⟨.loading, 2, 4, natToBytes 64 0xab21984c03840115cacd9b03fca261fdd28e991e773529575a7f1aaa5286764b4eb8315a58efa5a32ae0446253c8f5f7848b25ccbf2259d15a9c51ccc2f2a3dc, [1, 2], none, 0x9000000⟩ }, some true, _, true, [3, 4], _, _, { part with img1 := ⟨.loading, 2, 4, natToBytes 64 0xab21984c03840115cacd9b03fca261fdd28e991e773529575a7f1aaa5286764b4eb8315a58efa5a32ae0446253c8f5f7848b25ccbf2259d15a9c51ccc2f2a3dc, [1, 2], none, 0x9000000⟩ }, _, _, _, _, ⟨by decide +kernel, by decide +kernel, by decide +kernel, by decide +kernel⟩, rfl, rfl, rfl, rfl, rfl, rfl, (by decide +kernel), (by decide +kernel), rfl, (by decide +kernel), (Or.inl (by decide +kernel)), (by decide +kernel), (by decide +kernel), (by decide +kernel), (if_neg (by decide +kernel)), (by decide +kernel), rfl, rfl, (by decide +kernel), rfl, (by decide +kernel), rfl, rfl⟩,
   ⟨asked bare 0x402 [], 0, _, _, ⟨by decide +kernel, by decide +kernel, by decide +kernel, by decide +kernel⟩, rfl, rfl, (by decide +kernel)⟩,
   ⟨asked device 0x402 [(0x48, leNat (List.replicate 64 7))], 0, _, _, part, some false, 3, ⟨by decide +kernel, by decide +kernel, by decide +kernel, by decide +kernel⟩, rfl, rfl, (by decide +kernel), (by decide +kernel), (by decide +kernel)⟩,
   ⟨asked { device with parts := [(0, { part with img1 := ⟨.loaded, 64, 64, List.replicate 64 9, [], some img, 0x9000000⟩ })] } 0x402 [(0x48, leNat (List.replicate 64 9))], 0, _, _, { part with img1 := ⟨.loaded, 64, 64, List.replicate 64 9, [], some img, 0x9000000⟩ }, some true, true, ⟨by decide +kernel, by decide +kernel, by decide +kernel, by decide +kernel⟩, rfl, rfl, (by decide +kernel), (by decide +kernel), (by decide +kernel), (by decide +kernel), (by decide +kernel), (by decide +kernel)⟩⟩

/-- What the clauses of StreamCommandsAct ask can be met. -/
theorem met_StreamCommandsAct :
    (∃ s : State, ∃ u : State, ∃ m : Fin 64, ∃ p : Nat, ∃ e : Option Nat, s.Takes m specStreamOpen ∧ p = le (s.page m)
      0x40 1 ∧ s.popped.pickEntry = (e, u) ∧ s.popped.live? p = none) ∧
    (∃ s : State, ∃ u : State, ∃ m : Fin 64, ∃ p : Nat, ∃ e : Option Nat, ∃ q : Partition, s.Takes m specStreamOpen ∧ p =
      le (s.page m) 0x40 1 ∧ s.popped.pickEntry = (e, u) ∧ s.popped.live? p = some q ∧ q.settled = false) ∧
    (∃ s : State, ∃ u : State, ∃ m : Fin 64, ∃ p : Nat, ∃ e : Option Nat, ∃ q : Partition, s.Takes m specStreamOpen ∧ p =
      le (s.page m) 0x40 1 ∧ s.popped.pickEntry = (e, u) ∧ s.popped.live? p = some q ∧ q.settled = true ∧ q.image? =
      none) ∧
    (∃ s : State, ∃ u : State, ∃ m : Fin 64, ∃ p : Nat, ∃ e : Option Nat, ∃ q : Partition, ∃ im : ImageInfo, ∃ st : Nat,
      ∃ d : Nat, s.Takes m specStreamOpen ∧ p = le (s.page m) 0x40 1 ∧ s.popped.pickEntry = (e, u) ∧ s.popped.live? p =
      some q ∧ q.settled = true ∧ q.image? = some im ∧ s.popped.openFault p q im (s.page m) = some (st, d)) ∧
    (∃ s : State, ∃ m : Fin 64, ∃ i : Nat, ∃ x : Stream, i = le (s.page m) 0x40 4 % 2 ^ 14 ∧ x = s.stream i ∧ s.Takes m
      specStreamClose ∧ (x.state = .closed ∨ x.state = .orphaned)) ∧
    (∃ s : State, ∃ m : Fin 64, ∃ i : Nat, ∃ x : Stream, i = le (s.page m) 0x40 4 % 2 ^ 14 ∧ x = s.stream i ∧ s.Takes m
      specStreamClose ∧ x.state ≠ .closed ∧ x.state ≠ .orphaned ∧ s.popped.streamBusy i = true) ∧
    (∃ s : State, ∃ m : Fin 64, ∃ i : Nat, ∃ x : Stream, i = le (s.page m) 0x40 4 % 2 ^ 14 ∧ x = s.stream i ∧ s.Takes m
      specStreamClose ∧ x.state ≠ .closed ∧ x.state ≠ .orphaned ∧ s.popped.streamBusy i = false) ∧
    (∃ s : State, ∃ m : Fin 64, ∃ i : Nat, ∃ x : Stream, i = le (s.page m) 0x40 4 % 2 ^ 14 ∧ x = s.stream i ∧ s.Takes m
      specStreamDrain ∧ (x.state = .closed ∨ x.state = .orphaned)) ∧
    (∃ s : State, ∃ m : Fin 64, ∃ i : Nat, ∃ x : Stream, i = le (s.page m) 0x40 4 % 2 ^ 14 ∧ x = s.stream i ∧ s.Takes m
      specStreamDrain ∧ x.state ≠ .closed ∧ x.state ≠ .orphaned ∧ (s.popped.streamBusy i = true ∨ x.drainMbx ≠ [])) ∧
    (∃ s : State, ∃ m : Fin 64, ∃ i : Nat, ∃ x : Stream, ∃ stop : Option Nat, i = le (s.page m) 0x40 4 % 2 ^ 14 ∧ x =
      s.stream i ∧ s.Takes m specStreamDrain ∧ x.state ≠ .closed ∧ x.state ≠ .orphaned ∧ s.popped.streamBusy i = false ∧
      x.drainMbx = [] ∧ stop = (if x.state = .draining then x.intake.stopAt else if x.presentIn (s.nextChunkSamples x) =
      0 then none else some (x.sampleCount.toNat + s.nextChunkSamples x))) ∧
    (∃ s : State, ∃ m : Fin 64, ∃ i : Nat, ∃ x : Stream, i = le (s.page m) 0x40 4 % 2 ^ 14 ∧ x = s.stream i ∧ s.Takes m
      specStreamMigrate ∧ x.state = .closed) ∧
    (∃ s : State, ∃ m : Fin 64, ∃ i : Nat, ∃ x : Stream, i = le (s.page m) 0x40 4 % 2 ^ 14 ∧ x = s.stream i ∧ s.Takes m
      specStreamMigrate ∧ x.state ≠ .closed ∧ (s.popped.streamBusy i = true ∨ x.drainMbx ≠ [])) ∧
    (∃ s : State, ∃ m : Fin 64, ∃ i : Nat, ∃ x : Stream, i = le (s.page m) 0x40 4 % 2 ^ 14 ∧ x = s.stream i ∧ s.Takes m
      specStreamMigrate ∧ x.state ≠ .closed ∧ s.popped.streamBusy i = false ∧ x.drainMbx = []) ∧
    ((Meets specStreamAdopt (fun _ pg s => ((if (s.stream (le pg 0x40 4 % 2 ^ 14)).state ≠ .orphaned then some (3, 0)
      else if s.streamBusy (le pg 0x40 4 % 2 ^ 14) then some (8, 0) else if (s.stream (le pg 0x40 4 % 2 ^
      14)).shadow.isSome ∧ s.slotsFree (s.stream (le pg 0x40 4 % 2 ^ 14)).sink (some (le pg 0x40 4 % 2 ^ 14)) = false
      then some (7, 0) else none) : Option (Nat × Nat)) = none))) ∧
    ((Meets specStreamAdopt (fun _ pg s => ((if (s.stream (le pg 0x40 4 % 2 ^ 14)).state ≠ .orphaned then some (3, 0)
      else if s.streamBusy (le pg 0x40 4 % 2 ^ 14) then some (8, 0) else if (s.stream (le pg 0x40 4 % 2 ^
      14)).shadow.isSome ∧ s.slotsFree (s.stream (le pg 0x40 4 % 2 ^ 14)).sink (some (le pg 0x40 4 % 2 ^ 14)) = false
      then some (7, 0) else none) : Option (Nat × Nat)).isSome = true))) ∧
    (∃ s : State, ∃ w : State, ∃ m : Fin 64, ∃ peer : PeerReply, ∃ i : Nat, ∃ x : Stream, ∃ st : Nat, s.Takes m
      specStreamMirror ∧ i = le (s.page m) 0x40 4 % 2 ^ 14 ∧ x = s.stream i ∧ w = s.popped.askShadow i (le (s.page m)
      0x44 2) peer ∧ ((if x.state = .closed then some 3 else if s.popped.streamBusy i = true ∨ x.drainMbx ≠ [] then some
      8 else if le (s.page m) 0x46 1 = 0 then none else if x.mirrorSide.isSome = true ∨ x.shadow.isSome = true then some
      3 else if s.popped.qpFor 16 (le (s.page m) 0x44 2) = none then some 7 else none) = some st)) ∧
    (∃ s : State, ∃ w : State, ∃ m : Fin 64, ∃ peer : PeerReply, ∃ i : Nat, ∃ x : Stream, s.Takes m specStreamMirror ∧ i
      = le (s.page m) 0x40 4 % 2 ^ 14 ∧ x = s.stream i ∧ w = s.popped.askShadow i (le (s.page m) 0x44 2) peer ∧ x.state ≠
      .closed ∧ s.popped.streamBusy i = false ∧ x.drainMbx = [] ∧ le (s.page m) 0x46 1 = 0) ∧
    (∃ s : State, ∃ w : State, ∃ m : Fin 64, ∃ peer : PeerReply, ∃ i : Nat, ∃ x : Stream, ∃ h : W32, s.Takes m
      specStreamMirror ∧ i = le (s.page m) 0x40 4 % 2 ^ 14 ∧ x = s.stream i ∧ w = s.popped.askShadow i (le (s.page m)
      0x44 2) peer ∧ x.state ≠ .closed ∧ s.popped.streamBusy i = false ∧ x.drainMbx = [] ∧ le (s.page m) 0x46 1 = 1 ∧
      x.mirrorSide = none ∧ x.shadow = none ∧ (s.popped.qpFor 16 (le (s.page m) 0x44 2)).isSome = true ∧ peer =
      .shadowReady h ∧ s.popped.mirrorFits i = true) ∧
    (∃ s : State, ∃ w : State, ∃ m : Fin 64, ∃ peer : PeerReply, ∃ i : Nat, ∃ x : Stream, ∃ st : Nat, s.Takes m
      specStreamMirror ∧ i = le (s.page m) 0x40 4 % 2 ^ 14 ∧ x = s.stream i ∧ w = s.popped.askShadow i (le (s.page m)
      0x44 2) peer ∧ x.state ≠ .closed ∧ s.popped.streamBusy i = false ∧ x.drainMbx = [] ∧ le (s.page m) 0x46 1 = 1 ∧
      x.mirrorSide = none ∧ x.shadow = none ∧ (s.popped.qpFor 16 (le (s.page m) 0x44 2)).isSome = true ∧ ((peer =
      .noImage ∧ st = 7) ∨ (peer = .admissionDenied ∧ st = 6) ∨ (s.popped.mirrorFits i = false ∧ (∃ h : W32, peer =
      .shadowReady h) ∧ st = 10))) :=
  ⟨⟨asked bare 0x501 [(0x41, 2), (0x44, 48000)], _, 0, _, _, ⟨by decide +kernel, by decide +kernel, by decide +kernel, by decide +kernel⟩, rfl, rfl, (by decide +kernel)⟩,
   ⟨asked { device with parts := [(0, { part with resetting := some (9, false) })] } 0x501 [(0x41, 2), (0x44, 48000)], _, 0, _, _, { part with resetting := some (9, false) }, ⟨by decide +kernel, by decide +kernel, by decide +kernel, by decide +kernel⟩, rfl, rfl, (by decide +kernel), (by decide +kernel)⟩,
   ⟨asked { device with parts := [(0, { part with img0 := ⟨.empty, 0, 0, [], [], none, 0⟩ })] } 0x501 [(0x41, 2), (0x44, 48000)], _, 0, _, _, { part with img0 := ⟨.empty, 0, 0, [], [], none, 0⟩ }, ⟨by decide +kernel, by decide +kernel, by decide +kernel, by decide +kernel⟩, rfl, rfl, (by decide +kernel), (by decide +kernel), (by decide +kernel)⟩,
   ⟨asked device 0x501 [(0x41, 2), (0x42, 1), (0x44, 48000)], _, 0, _, _, part, img, 7, 0, ⟨by decide +kernel, by decide +kernel, by decide +kernel, by decide +kernel⟩, rfl, rfl, (by decide +kernel), (by decide +kernel), (by decide +kernel), (by decide +kernel)⟩,
   ⟨asked (withStream { stream with gen := 1, state := .orphaned }) 0x502 [(0x40, 0x4003)], 0, _, _, rfl, rfl, ⟨by decide +kernel, by decide +kernel, by decide +kernel, by decide +kernel⟩, (Or.inr (by decide +kernel))⟩,
   ⟨asked (withStream { stream with gen := 1, closeReq := true }) 0x502 [(0x40, 0x4003)], 0, _, _, rfl, rfl, ⟨by decide +kernel, by decide +kernel, by decide +kernel, by decide +kernel⟩, (by decide +kernel), (by decide +kernel), (by decide +kernel)⟩,
   ⟨asked (withStream { stream with gen := 1 }) 0x502 [(0x40, 0x4003)], 0, _, _, rfl, rfl, ⟨by decide +kernel, by decide +kernel, by decide +kernel, by decide +kernel⟩, (by decide +kernel), (by decide +kernel), (by decide +kernel)⟩,
   ⟨asked (withStream { stream with gen := 1, state := .orphaned }) 0x503 [(0x40, 0x4003)], 0, _, _, rfl, rfl, ⟨by decide +kernel, by decide +kernel, by decide +kernel, by decide +kernel⟩, (Or.inr (by decide +kernel))⟩,
   ⟨asked (withStream { stream with gen := 1, drainMbx := [4] }) 0x503 [(0x40, 0x4003)], 0, _, _, rfl, rfl, ⟨by decide +kernel, by decide +kernel, by decide +kernel, by decide +kernel⟩, (by decide +kernel), (by decide +kernel), (Or.inr (by decide +kernel))⟩,
   ⟨asked (withStream { stream with gen := 1 }) 0x503 [(0x40, 0x4003)], 0, _, _, _, rfl, rfl, ⟨by decide +kernel, by decide +kernel, by decide +kernel, by decide +kernel⟩, (by decide +kernel), (by decide +kernel), (by decide +kernel), (by decide +kernel), rfl⟩,
   ⟨asked (withStream { stream with gen := 1, state := .closed }) 0x504 [(0x40, 0x4003)], 0, _, _, rfl, rfl, ⟨by decide +kernel, by decide +kernel, by decide +kernel, by decide +kernel⟩, (by decide +kernel)⟩,
   ⟨asked (withStream { stream with gen := 1, drainMbx := [4] }) 0x504 [(0x40, 0x4003)], 0, _, _, rfl, rfl, ⟨by decide +kernel, by decide +kernel, by decide +kernel, by decide +kernel⟩, (by decide +kernel), (Or.inr (by decide +kernel))⟩,
   ⟨asked (withStream { stream with gen := 1 }) 0x504 [(0x40, 0x4003)], 0, _, _, rfl, rfl, ⟨by decide +kernel, by decide +kernel, by decide +kernel, by decide +kernel⟩, (by decide +kernel), (by decide +kernel), (by decide +kernel)⟩,
   ⟨asked (withStream { stream with gen := 1, state := .orphaned }) 0x505 [(0x40, 0x4003)], 0, ⟨by decide +kernel, by decide +kernel, by decide +kernel, by decide +kernel⟩, (by decide +kernel)⟩,
   ⟨asked (withStream { stream with gen := 1 }) 0x505 [(0x40, 0x4003)], 0, ⟨by decide +kernel, by decide +kernel, by decide +kernel, by decide +kernel⟩, (by decide +kernel)⟩,
   ⟨asked (withQp (withStream { stream with gen := 1, state := .closed }) 16) 0x507 [(0x40, 0x4003), (0x44, 1), (0x46, 1)], _, 0, .noImage, _, _, 3, ⟨by decide +kernel, by decide +kernel, by decide +kernel, by decide +kernel⟩, rfl, rfl, rfl, (by decide +kernel)⟩,
   ⟨asked (withQp (withStream { stream with gen := 1 }) 16) 0x507 [(0x40, 0x4003), (0x44, 1)], _, 0, .noImage, _, _, ⟨by decide +kernel, by decide +kernel, by decide +kernel, by decide +kernel⟩, rfl, rfl, rfl, (by decide +kernel), (by decide +kernel), (by decide +kernel), (by decide +kernel)⟩,
   ⟨asked (withQp (withStream { stream with gen := 1 }) 16) 0x507 [(0x40, 0x4003), (0x44, 1), (0x46, 1)], _, 0, .shadowReady 9, _, _, 9, ⟨by decide +kernel, by decide +kernel, by decide +kernel, by decide +kernel⟩, rfl, rfl, rfl, (by decide +kernel), (by decide +kernel), (by decide +kernel), (by decide +kernel), (by decide +kernel), (by decide +kernel), (by decide +kernel), (by decide +kernel), (by decide +kernel)⟩,
   ⟨asked (withQp (withStream { stream with gen := 1 }) 16) 0x507 [(0x40, 0x4003), (0x44, 1), (0x46, 1)], _, 0, .noImage, _, _, 7, ⟨by decide +kernel, by decide +kernel, by decide +kernel, by decide +kernel⟩, rfl, rfl, rfl, (by decide +kernel), (by decide +kernel), (by decide +kernel), (by decide +kernel), (by decide +kernel), (by decide +kernel), (by decide +kernel), (Or.inl ⟨rfl, rfl⟩)⟩⟩

/-- What the clauses of AudioCommandsAct ask can be met. -/
theorem met_AudioCommandsAct :
    (Meets specAudGroupConfig (fun _ pg s => ((if s.groupBusy (GroupConf.ofPage pg) (le pg 0x40 1) then some (3, 0) else
      if (s.touched (GroupConf.ofPage pg) (le pg 0x40 1)).any s.portBusy then some (8, 0) else if s.leftOutFault
      (GroupConf.ofPage pg) (le pg 0x40 1) then some (2, 0x42) else none) : Option (Nat × Nat)) = none)) ∧
    (Meets specAudGroupConfig (fun _ pg s => ((if s.groupBusy (GroupConf.ofPage pg) (le pg 0x40 1) then some (3, 0) else
      if (s.touched (GroupConf.ofPage pg) (le pg 0x40 1)).any s.portBusy then some (8, 0) else if s.leftOutFault
      (GroupConf.ofPage pg) (le pg 0x40 1) then some (2, 0x42) else none) : Option (Nat × Nat)).isSome = true)) ∧
    ((Meets specAudPortStart (fun m pg s => ((if s.audShare m (le pg 0x40 1) = false then some (7, 0) else if s.portBusy
      (le pg 0x40 1) then some (8, 0) else if (s.aport (le pg 0x40 1)).run || (s.aport (le pg 0x40 1)).startPend then
      some (3, 0) else if s.groupRuns (s.aport (le pg 0x40 1)).groupNo = false ∧ s.applyAudioSection (s.aport (le pg 0x40
      1)).groupNo = none then some (3, 0) else none) : Option (Nat × Nat)) = none))) ∧
    ((Meets specAudPortStart (fun m pg s => ((if s.audShare m (le pg 0x40 1) = false then some (7, 0) else if s.portBusy
      (le pg 0x40 1) then some (8, 0) else if (s.aport (le pg 0x40 1)).run || (s.aport (le pg 0x40 1)).startPend then
      some (3, 0) else if s.groupRuns (s.aport (le pg 0x40 1)).groupNo = false ∧ s.applyAudioSection (s.aport (le pg 0x40
      1)).groupNo = none then some (3, 0) else none) : Option (Nat × Nat)).isSome = true))) ∧
    (Meets specAudPortStop (fun m pg s => ((if s.audShare m (le pg 0x40 1) = false then some (7, 0) else if s.portBusy
      (le pg 0x40 1) then some (8, 0) else if (s.aport (le pg 0x40 1)).run then none else some (3, 0)) : Option (Nat ×
      Nat)) = none)) ∧
    (Meets specAudPortStop (fun m pg s => ((if s.audShare m (le pg 0x40 1) = false then some (7, 0) else if s.portBusy
      (le pg 0x40 1) then some (8, 0) else if (s.aport (le pg 0x40 1)).run then none else some (3, 0)) : Option (Nat ×
      Nat)).isSome = true)) ∧
    (Meets specAudPortRestart (fun m pg s => ((if s.audShare m (le pg 0x40 1) = false then some (7, 0) else if s.portBusy
      (le pg 0x40 1) then some (8, 0) else if (s.aport (le pg 0x40 1)).run then none else some (3, 0)) : Option (Nat ×
      Nat)) = none)) ∧
    (Meets specAudPortRestart (fun m pg s => ((if s.audShare m (le pg 0x40 1) = false then some (7, 0) else if s.portBusy
      (le pg 0x40 1) then some (8, 0) else if (s.aport (le pg 0x40 1)).run then none else some (3, 0)) : Option (Nat ×
      Nat)).isSome = true)) ∧
    (Meets specAudSlotMask (fun m pg s => ((if s.audShareGroup m (le pg 0x40 1) = false then some (7, 0) else if
      (List.range 16).any (s.slotBusy (le pg 0x40 1)) then some (8, 0) else none) : Option (Nat × Nat)) = none)) ∧
    (Meets specAudSlotMask (fun m pg s => ((if s.audShareGroup m (le pg 0x40 1) = false then some (7, 0) else if
      (List.range 16).any (s.slotBusy (le pg 0x40 1)) then some (8, 0) else none) : Option (Nat × Nat)).isSome = true)) ∧
    (∃ s : State, ∃ m : Fin 64, ∃ i : Instr, ∃ pg : Bytes, ∃ g : Nat, ∃ k : Nat, ∃ kind : ChangeKind, ∃ f : ASlot → ASlot, ∃ st : Nat, pg = s.page m ∧ g = le pg 0x40 1 ∧ k = le pg 0x41 1 ∧ ((i = .audGainSet m ∧ s.Takes m specAudGainSet ∧ kind = .gain ∧ f = (fun y => { y with gain := signedOf 16 (le pg 0x42 2) })) ∨ (i = .audMuteSet m ∧ s.Takes m specAudMuteSet ∧ kind = (if le pg 0x42 1 = 1 then .muteOn else .muteOff) ∧ f = (fun y => { y with mute := le pg 0x42 1 == 1 }))) ∧ (match s.popped.slotPort g k with | none => some 7 | some n => if s.popped.audShare m n = false then some 7 else if s.popped.slotBusy g k then some 8 else none) = some st) ∧
    (∃ s : State, ∃ m : Fin 64, ∃ i : Instr, ∃ pg : Bytes, ∃ g : Nat, ∃ k : Nat, ∃ kind : ChangeKind, ∃ f : ASlot →
      ASlot, ∃ n : Nat, pg = s.page m ∧ g = le pg 0x40 1 ∧ k = le pg 0x41 1 ∧ ((i = .audGainSet m ∧ s.Takes m
      specAudGainSet ∧ kind = .gain ∧ f = (fun y => { y with gain := signedOf 16 (le pg 0x42 2) })) ∨ (i = .audMuteSet m
      ∧ s.Takes m specAudMuteSet ∧ kind = (if le pg 0x42 1 = 1 then .muteOn else .muteOff) ∧ f = (fun y =>
      { y with mute := le pg 0x42 1 == 1 }))) ∧ s.popped.slotPort g k = some n ∧ s.popped.audShare m n = true ∧
      s.popped.slotBusy g k = false ∧ s.popped.slotRuns g k = false) ∧
    (∃ s : State, ∃ m : Fin 64, ∃ i : Instr, ∃ pg : Bytes, ∃ g : Nat, ∃ k : Nat, ∃ kind : ChangeKind, ∃ f : ASlot →
      ASlot, ∃ n : Nat, pg = s.page m ∧ g = le pg 0x40 1 ∧ k = le pg 0x41 1 ∧ ((i = .audGainSet m ∧ s.Takes m
      specAudGainSet ∧ kind = .gain ∧ f = (fun y => { y with gain := signedOf 16 (le pg 0x42 2) })) ∨ (i = .audMuteSet m
      ∧ s.Takes m specAudMuteSet ∧ kind = (if le pg 0x42 1 = 1 then .muteOn else .muteOff) ∧ f = (fun y =>
      { y with mute := le pg 0x42 1 == 1 }))) ∧ s.popped.slotPort g k = some n ∧ s.popped.audShare m n = true ∧
      s.popped.slotBusy g k = false ∧ s.popped.slotRuns g k = true) ∧
    (∃ s : State, ∃ m : Fin 64, ∃ pg : Bytes, ∃ g : Nat, ∃ k : Nat, ∃ y : ASlot, ∃ p : Bool, ∃ f : ASlot → ASlot, ∃ st : Nat, s.Takes m specAudBypassSet ∧ pg = s.page m ∧ g = le pg 0x40 1 ∧ k = le pg 0x41 1 ∧ y = (s.group g).slot k ∧ p = (if le pg 0x42 1 = 0 then false else if le pg 0x42 1 = 2 then true else if y.mode = 1 then y.prog else true) ∧ f = (fun x => { x with mode := le pg 0x42 1, holdMs := le pg 0x44 2, prog := p, good := 0 }) ∧ (match s.popped.slotPort g k with | none => some 7 | some n => if s.popped.audShare m n = false then some 7 else if s.popped.slotBusy g k then some 8 else if (s.aport n).isOutput then none else some 7) = some st) ∧
    (∃ s : State, ∃ m : Fin 64, ∃ pg : Bytes, ∃ g : Nat, ∃ k : Nat, ∃ y : ASlot, ∃ p : Bool, ∃ f : ASlot → ASlot, ∃ n :
      Nat, s.Takes m specAudBypassSet ∧ pg = s.page m ∧ g = le pg 0x40 1 ∧ k = le pg 0x41 1 ∧ y = (s.group g).slot k ∧ p
      = (if le pg 0x42 1 = 0 then false else if le pg 0x42 1 = 2 then true else if y.mode = 1 then y.prog else true) ∧ f
      = (fun x => { x with mode := le pg 0x42 1, holdMs := le pg 0x44 2, prog := p, good := 0 }) ∧ s.popped.slotPort g k
      = some n ∧ s.popped.audShare m n = true ∧ s.popped.slotBusy g k = false ∧ (s.aport n).isOutput = true ∧ p = y.prog) ∧
    (∃ s : State, ∃ m : Fin 64, ∃ pg : Bytes, ∃ g : Nat, ∃ k : Nat, ∃ y : ASlot, ∃ p : Bool, ∃ f : ASlot → ASlot, ∃ n :
      Nat, s.Takes m specAudBypassSet ∧ pg = s.page m ∧ g = le pg 0x40 1 ∧ k = le pg 0x41 1 ∧ y = (s.group g).slot k ∧ p
      = (if le pg 0x42 1 = 0 then false else if le pg 0x42 1 = 2 then true else if y.mode = 1 then y.prog else true) ∧ f
      = (fun x => { x with mode := le pg 0x42 1, holdMs := le pg 0x44 2, prog := p, good := 0 }) ∧ s.popped.slotPort g k
      = some n ∧ s.popped.audShare m n = true ∧ s.popped.slotBusy g k = false ∧ (s.aport n).isOutput = true ∧ p ≠ y.prog
      ∧ s.popped.slotRuns g k = false) ∧
    (∃ s : State, ∃ m : Fin 64, ∃ pg : Bytes, ∃ g : Nat, ∃ k : Nat, ∃ y : ASlot, ∃ p : Bool, ∃ f : ASlot → ASlot, ∃ n :
      Nat, s.Takes m specAudBypassSet ∧ pg = s.page m ∧ g = le pg 0x40 1 ∧ k = le pg 0x41 1 ∧ y = (s.group g).slot k ∧ p
      = (if le pg 0x42 1 = 0 then false else if le pg 0x42 1 = 2 then true else if y.mode = 1 then y.prog else true) ∧ f
      = (fun x => { x with mode := le pg 0x42 1, holdMs := le pg 0x44 2, prog := p, good := 0 }) ∧ s.popped.slotPort g k
      = some n ∧ s.popped.audShare m n = true ∧ s.popped.slotBusy g k = false ∧ (s.aport n).isOutput = true ∧ p ≠ y.prog
      ∧ s.popped.slotRuns g k = true) :=
  ⟨⟨asked device 0x601 [(0x42, 1), (0x48, AGroup.cold.ctl.toNat), (0x50, 3), (0x58, AGroup.cold.helio.toNat), (0x60, (APort.cold 0).ctl.toNat)], 0, ⟨by decide +kernel, by decide +kernel, by decide +kernel, by decide +kernel⟩, (by decide +kernel)⟩,
   ⟨asked { device with aports := [(0, { APort.cold 0 with run := true })] } 0x601 [(0x42, 1), (0x48, AGroup.cold.ctl.toNat), (0x50, 3), (0x58, AGroup.cold.helio.toNat), (0x60, (APort.cold 0).ctl.toNat)], 0, ⟨by decide +kernel, by decide +kernel, by decide +kernel, by decide +kernel⟩, (by decide +kernel)⟩,
   ⟨asked device 0x602 [], 0, ⟨by decide +kernel, by decide +kernel, by decide +kernel, by decide +kernel⟩, (by decide +kernel)⟩,
   ⟨asked { device with aports := [(0, { APort.cold 0 with run := true })] } 0x602 [], 0, ⟨by decide +kernel, by decide +kernel, by decide +kernel, by decide +kernel⟩, (by decide +kernel)⟩,
   ⟨asked { device with aports := [(0, { APort.cold 0 with run := true })] } 0x603 [], 0, ⟨by decide +kernel, by decide +kernel, by decide +kernel, by decide +kernel⟩, (by decide +kernel)⟩,
   ⟨asked device 0x603 [], 0, ⟨by decide +kernel, by decide +kernel, by decide +kernel, by decide +kernel⟩, (by decide +kernel)⟩,
   ⟨asked { device with aports := [(0, { APort.cold 0 with run := true })] } 0x604 [], 0, ⟨by decide +kernel, by decide +kernel, by decide +kernel, by decide +kernel⟩, (by decide +kernel)⟩,
   ⟨asked device 0x604 [], 0, ⟨by decide +kernel, by decide +kernel, by decide +kernel, by decide +kernel⟩, (by decide +kernel)⟩,
   ⟨asked device 0x605 [(0x42, 3)], 0, ⟨by decide +kernel, by decide +kernel, by decide +kernel, by decide +kernel⟩, (by decide +kernel)⟩,
   ⟨asked { device with agroups := [(0, { AGroup.cold with maskMbx := [4] })] } 0x605 [(0x42, 3)], 0, ⟨by decide +kernel, by decide +kernel, by decide +kernel, by decide +kernel⟩, (by decide +kernel)⟩,
   ⟨asked device 0x606 [(0x41, 5)], 0, .audGainSet 0, _, _, _, .gain, (fun y => { y with gain := signedOf 16 (le (cmd 0x606 [(0x41, 5)]) 0x42 2) }), 7, rfl, rfl, rfl, (Or.inl ⟨rfl, ⟨by decide +kernel, by decide +kernel, by decide +kernel, by decide +kernel⟩, rfl, rfl⟩), (by decide +kernel)⟩,
   ⟨asked device 0x607 [(0x42, 1)], 0, .audMuteSet 0, _, _, _, .muteOn, (fun y => { y with mute := true }), 0, rfl, rfl, rfl, (Or.inr ⟨rfl, ⟨by decide +kernel, by decide +kernel, by decide +kernel, by decide +kernel⟩, rfl, rfl⟩), (by decide +kernel), (by decide +kernel), (by decide +kernel), (by decide +kernel)⟩,
   ⟨asked { device with aports := [(0, { APort.cold 0 with run := true })] } 0x606 [(0x42, 1)], 0, .audGainSet 0, _, _, _, .gain, (fun y => { y with gain := signedOf 16 (le (cmd 0x606 [(0x42, 1)]) 0x42 2) }), 0, rfl, rfl, rfl, (Or.inl ⟨rfl, ⟨by decide +kernel, by decide +kernel, by decide +kernel, by decide +kernel⟩, rfl, rfl⟩), (by decide +kernel), (by decide +kernel), (by decide +kernel), (by decide +kernel)⟩,
   ⟨asked device 0x608 [], 0, _, _, _, _, _, _, 7, ⟨by decide +kernel, by decide +kernel, by decide +kernel, by decide +kernel⟩, rfl, rfl, rfl, rfl, rfl, rfl, (by decide +kernel)⟩,
   ⟨asked { device with aports := [(0, { APort.cold 0 with run := true, ctl := BitVec.ofNat 64 (2 ^ 56 + 10 * 2 ^ 48) })] } 0x608 [], 0, _, _, _, _, _, _, 0, ⟨by decide +kernel, by decide +kernel, by decide +kernel, by decide +kernel⟩, rfl, rfl, rfl, rfl, rfl, rfl, (by decide +kernel), (by decide +kernel), (by decide +kernel), (by decide +kernel), (by decide +kernel)⟩,
   ⟨asked { device with aports := [(0, { APort.cold 0 with ctl := BitVec.ofNat 64 (2 ^ 56 + 10 * 2 ^ 48) })] } 0x608 [(0x42, 2)], 0, _, _, _, _, _, _, 0, ⟨by decide +kernel, by decide +kernel, by decide +kernel, by decide +kernel⟩, rfl, rfl, rfl, rfl, rfl, rfl, (by decide +kernel), (by decide +kernel), (by decide +kernel), (by decide +kernel), (by decide +kernel), (by decide +kernel)⟩,
   ⟨asked { device with aports := [(0, { APort.cold 0 with run := true, ctl := BitVec.ofNat 64 (2 ^ 56 + 10 * 2 ^ 48) })] } 0x608 [(0x42, 2)], 0, _, _, _, _, _, _, 0, ⟨by decide +kernel, by decide +kernel, by decide +kernel, by decide +kernel⟩, rfl, rfl, rfl, rfl, rfl, rfl, (by decide +kernel), (by decide +kernel), (by decide +kernel), (by decide +kernel), (by decide +kernel), (by decide +kernel)⟩⟩

/-- What the clauses of NetworkCommandsAct ask can be met. -/
theorem met_NetworkCommandsAct :
    (Meets specNetPortConfig (fun _ _ _ => True)) ∧
    (Meets specNetAddrSet (fun _ _ _ => True)) ∧
    (∃ s : State, ∃ v : State, ∃ m : Fin 64, ∃ o : Nat, ∃ n : Option Nat, ∃ part : Option Partition, ∃ st : Nat, s.Takes
      m specNetQpCreate ∧ o = le (s.page m) 0x40 1 ∧ part = s.part? o ∧ s.popped.newQpn = (n, v) ∧ ((if (o ≠ 16 ∧
      (part.map (fun q => q.macs.getLsbD (le (s.page m) 0x41 1))).getD false = false) ∨ (List.range 64).any (fun k =>
      (BitVec.ofNat 64 (le (s.page m) 0x48 8)).getLsbD k && (s.mail k).owner.toNat != o) = true then some 7 else if
      part.any (fun q => !q.settled) = true then some 8 else if (part.map (·.qpQuota)).getD 65536 ≤ (s.qps.filter (fun x
      => x.2.owner == o)).length then some 10 else none) = some st)) ∧
    (∃ s : State, ∃ v : State, ∃ m : Fin 64, ∃ o : Nat, ∃ n : Option Nat, ∃ part : Option Partition, ∃ k : Nat, s.Takes m
      specNetQpCreate ∧ o = le (s.page m) 0x40 1 ∧ part = s.part? o ∧ s.popped.newQpn = (n, v) ∧ (o ≠ 16 → part.any (fun
      q => q.macs.getLsbD (le (s.page m) 0x41 1)) = true) ∧ (∀ k : Nat, k < 64 → (BitVec.ofNat 64 (le (s.page m) 0x48
      8)).getLsbD k = true → (s.mail k).owner.toNat = o) ∧ (∀ q, part = some q → q.settled = true) ∧ (s.qps.filter (fun x
      => x.2.owner == o)).length < (part.map (·.qpQuota)).getD 65536 ∧ n = some k) ∧
    (∃ s : State, ∃ m : Fin 64, ∃ n : Nat, ∃ st : Nat, s.Takes m specNetQpConnect ∧ n = le (s.page m) 0x40 4 ∧ ((match s.qp? n with | none => some 7 | some q => if le (s.page m) 0x44 2 = s.dev.deviceNo.toNat ∨ (s.qpFor q.owner (le (s.page m) 0x44 2)).isSome = true then some 7 else if q.state = .connected then some 3 else if (s.part? q.owner).any (fun x => !x.settled) = true then some 8 else none) = some st)) ∧
    (∃ s : State, ∃ m : Fin 64, ∃ n : Nat, ∃ q : Qp, s.Takes m specNetQpConnect ∧ n = le (s.page m) 0x40 4 ∧ s.qp? n =
      some q ∧ le (s.page m) 0x44 2 ≠ s.dev.deviceNo.toNat ∧ s.qpFor q.owner (le (s.page m) 0x44 2) = none ∧ q.state ≠
      .connected ∧ (∀ p, s.part? q.owner = some p → p.settled = true)) ∧
    (Meets specNetQpDestroy (fun _ pg s => ((if (s.qp? (le pg 0x40 4)).isSome then none else some (7, 0)) : Option (Nat ×
      Nat)) = none)) ∧
    (Meets specNetQpDestroy (fun _ pg s => ((if (s.qp? (le pg 0x40 4)).isSome then none else some (7, 0)) : Option (Nat ×
      Nat)).isSome = true)) ∧
    (∃ s : State, ∃ n : Nat, ∃ q : Qp, ∃ j : Nat, s.qp? n = some q ∧ q.out = [] ∧ q.owner ≠ 16 ∧ s.dev.deviceNoNext =
      none ∧ j ≠ n) ∧
    (Meets specNetCcConfig (fun _ _ _ => True)) ∧
    (Meets specNetMgmtConfig (fun _ _ _ => True)) :=
  ⟨⟨asked device 0x701 [(0x48, 2 ^ 32)], 0, ⟨by decide +kernel, by decide +kernel, by decide +kernel, by decide +kernel⟩, trivial⟩,
   ⟨asked device 0x702 [], 0, ⟨by decide +kernel, by decide +kernel, by decide +kernel, by decide +kernel⟩, trivial⟩,
   ⟨asked device 0x703 [(0x41, 5)], _, 0, _, _, _, 7, ⟨by decide +kernel, by decide +kernel, by decide +kernel, by decide +kernel⟩, rfl, rfl, rfl, (by decide +kernel)⟩,
   ⟨asked device 0x703 [], _, 0, _, _, _, _, ⟨by decide +kernel, by decide +kernel, by decide +kernel, by decide +kernel⟩, rfl, rfl, rfl, (fun _ => by decide +kernel), (fun k h => by revert k; decide +kernel), (fun q h => by cases h; rfl), (by decide +kernel), rfl⟩,
   ⟨asked device 0x704 [(0x44, 1), (0x47, 5), (0x48, 14)], 0, _, 7, ⟨by decide +kernel, by decide +kernel, by decide +kernel, by decide +kernel⟩, rfl, (by decide +kernel)⟩,
   ⟨asked { device with qps := [(0, { qp 0 with state := .created })] } 0x704 [(0x44, 1), (0x47, 5), (0x48, 14)], 0, _, { qp 0 with state := .created }, ⟨by decide +kernel, by decide +kernel, by decide +kernel, by decide +kernel⟩, rfl, (by decide +kernel), (by decide +kernel), (by decide +kernel), (by decide +kernel), (fun p h => by cases h; rfl)⟩,
   ⟨asked (withQp device 0) 0x705 [], 0, ⟨by decide +kernel, by decide +kernel, by decide +kernel, by decide +kernel⟩, (by decide +kernel)⟩,
   ⟨asked device 0x705 [], 0, ⟨by decide +kernel, by decide +kernel, by decide +kernel, by decide +kernel⟩, (by decide +kernel)⟩,
   ⟨withQp device 0, 0, qp 0, 1, (by decide +kernel), (by decide +kernel), (by decide +kernel), (by decide +kernel), (by decide +kernel)⟩,
   ⟨asked device 0x707 [(0x41, 8), (0x42, 5), (0x44, 50), (0x46, 55), (0x48, 55), (0x4A, 100), (0x4C, 100), (0x50, 0x102E301A), (0x54, 0x00050603)], 0, ⟨by decide +kernel, by decide +kernel, by decide +kernel, by decide +kernel⟩, trivial⟩,
   ⟨asked device 0x708 [(0x42, 1)], 0, ⟨by decide +kernel, by decide +kernel, by decide +kernel, by decide +kernel⟩, trivial⟩⟩

/-- What the clauses of ServiceCommandsAct ask can be met. -/
theorem met_ServiceCommandsAct :
    (∃ s : State, ∃ m : Fin 64, ∃ i : Nat, ∃ x : Stream, s.Takes m specMemTierMove ∧ i = le (s.page m) 0x40 4 % 2 ^ 14 ∧
      x = s.stream i ∧ (x.state = .opening ∨ x.pageTable = 0)) ∧
    (∃ s : State, ∃ m : Fin 64, ∃ i : Nat, ∃ x : Stream, s.Takes m specMemTierMove ∧ i = le (s.page m) 0x40 4 % 2 ^ 14 ∧
      x = s.stream i ∧ x.state ≠ .opening ∧ x.pageTable ≠ 0 ∧ (s.popped.streamBusy i = true ∨ x.drainMbx ≠ [])) ∧
    (∃ s : State, ∃ m : Fin 64, ∃ i : Nat, ∃ x : Stream, s.Takes m specMemTierMove ∧ i = le (s.page m) 0x40 4 % 2 ^ 14 ∧
      x = s.stream i ∧ x.state ≠ .opening ∧ x.pageTable ≠ 0 ∧ s.popped.streamBusy i = false ∧ x.drainMbx = []) ∧
    (∃ s : State, ∃ m : Fin 64, ∃ l : List Nat, s.Takes m specTestStart ∧ l = s.popped.testUnits (le (s.page m) 0x40 1)
      (le (s.page m) 0x41 1) (le (s.page m) 0x48 8) ∧ le (s.page m) 0x40 1 = 2 ∧ s.dev.mode ≠ .maintenance) ∧
    (∃ s : State, ∃ m : Fin 64, ∃ l : List Nat, s.Takes m specTestStart ∧ l = s.popped.testUnits (le (s.page m) 0x40 1)
      (le (s.page m) 0x41 1) (le (s.page m) 0x48 8) ∧ (le (s.page m) 0x40 1 = 2 → s.dev.mode = .maintenance) ∧ l.any (fun
      u => s.underTest u || s.popped.testWay u == .neither) = true) ∧
    (∃ s : State, ∃ m : Fin 64, ∃ l : List Nat, s.Takes m specTestStart ∧ l = s.popped.testUnits (le (s.page m) 0x40 1)
      (le (s.page m) 0x41 1) (le (s.page m) 0x48 8) ∧ (le (s.page m) 0x40 1 = 2 → s.dev.mode = .maintenance) ∧ l.any (fun
      u => s.underTest u || s.popped.testWay u == .neither) = false) ∧
    (∃ s : State, ∃ m : Fin 64, s.Takes m specTestResult ∧ s.tests.find? (fun x => x.id.toNat == le (s.page m) 0x40 4 && decide (s.nextTest ≤
      x.id.toNat + 16)) =
      none) ∧
    (∃ s : State, ∃ m : Fin 64, ∃ v : SelfTest, s.Takes m specTestResult ∧ s.tests.find? (fun x => x.id.toNat == le (s.page m) 0x40 4 && decide (s.nextTest ≤
      x.id.toNat + 16)) = some v ∧ v.mbx.isSome = true) ∧
    (∃ s : State, ∃ m : Fin 64, ∃ v : SelfTest, ∃ l : List Bytes, ∃ out : Bytes, s.Takes m specTestResult ∧ s.tests.find?
      (fun x => x.id.toNat == le (s.page m) 0x40 4 && decide (s.nextTest ≤
      x.id.toNat + 16)) = some v ∧ v.mbx = none ∧ l = sortByKey (fun r => le r 0 8) v.records
      ∧ out = pack [b4 l.length, b4 (l.filter (fun r => le r 13 1 == 1)).length, v.digest] ∧ le (s.page m) 0x48 8 = 0) ∧
    (∃ s : State, ∃ m : Fin 64, ∃ ok : Bool, ∃ v : SelfTest, ∃ l : List Bytes, ∃ out : Bytes, s.Takes m specTestResult ∧
      s.tests.find? (fun x => x.id.toNat == le (s.page m) 0x40 4 && decide (s.nextTest ≤
      x.id.toNat + 16)) = some v ∧ v.mbx = none ∧ l = sortByKey (fun r => le r
      0 8) v.records ∧ out = pack [b4 l.length, b4 (l.filter (fun r => le r 13 1 == 1)).length, v.digest] ∧ le (s.page m)
      0x48 8 ≠ 0 ∧ ok = true ∧ s.popped.hostReach m (BitVec.ofNat 64 (le (s.page m) 0x48 8)) = true) ∧
    (∃ s : State, ∃ m : Fin 64, ∃ ok : Bool, ∃ v : SelfTest, ∃ l : List Bytes, ∃ out : Bytes, s.Takes m specTestResult ∧
      s.tests.find? (fun x => x.id.toNat == le (s.page m) 0x40 4 && decide (s.nextTest ≤
      x.id.toNat + 16)) = some v ∧ v.mbx = none ∧ l = sortByKey (fun r => le r
      0 8) v.records ∧ out = pack [b4 l.length, b4 (l.filter (fun r => le r 13 1 == 1)).length, v.digest] ∧ le (s.page m)
      0x48 8 ≠ 0 ∧ (ok = false ∨ s.popped.hostReach m (BitVec.ofNat 64 (le (s.page m) 0x48 8)) = false)) ∧
    (∃ ok : Bool, Meets specSpareQuery (fun m pg s => ((if ok && s.hostReach m (BitVec.ofNat 64 (le pg 0x40 8)) then none
      else some (12, 0)) : Option (Nat × Nat)) = none)) ∧
    (∃ ok : Bool, Meets specSpareQuery (fun m pg s => ((if ok && s.hostReach m (BitVec.ofNat 64 (le pg 0x40 8)) then none
      else some (12, 0)) : Option (Nat × Nat)).isSome = true)) ∧
    (∃ ok : Bool, Meets specWearRead (fun m pg s => ((if ok && s.hostReach m (BitVec.ofNat 64 (le pg 0x48 8)) then none
      else some (12, 0)) : Option (Nat × Nat)) = none)) ∧
    (∃ ok : Bool, Meets specWearRead (fun m pg s => ((if ok && s.hostReach m (BitVec.ofNat 64 (le pg 0x48 8)) then none
      else some (12, 0)) : Option (Nat × Nat)).isSome = true)) ∧
    (∃ s : State, ∃ m : Fin 64, ∃ u : Nat, ∃ core : Nat, ∃ st : Nat, s.Takes m specUnitRetire ∧ u = le (s.page m) 0x40 8
      ∧ core = bits u 32 16 ∧ (bits u 56 8 = 1 ∨ bits u 56 8 = 2) ∧ ((if s.popped.retireWaits u then some 8 else if
      s.spares.lost.contains core then some 3 else if s.popped.freePositions (core / 32) = [] ∧ ¬ (bits u 56 8 = 1 ∧
      s.popped.spareTileFree (s.popped.physCore core) = true) then some 10 else if s.coreOwner core = none ∧
      s.popped.retireNow ⟨BitVec.ofNat 64 u, some m, none⟩ = none then some 10 else none) = some st)) ∧
    (∃ s : State, ∃ m : Fin 64, ∃ u : Nat, ∃ core : Nat, ∃ v : State, s.Takes m specUnitRetire ∧ u = le (s.page m) 0x40 8
      ∧ core = bits u 32 16 ∧ (bits u 56 8 = 1 ∨ bits u 56 8 = 2) ∧ s.popped.retireWaits u = false ∧
      s.spares.lost.contains core = false ∧ (s.popped.freePositions (core / 32) ≠ [] ∨ (bits u 56 8 = 1 ∧
      s.popped.spareTileFree (s.popped.physCore core) = true)) ∧ s.coreOwner core = none ∧ s.popped.retireNow
      ⟨BitVec.ofNat 64 u, some m, none⟩ = some v) ∧
    (∃ s : State, ∃ m : Fin 64, ∃ u : Nat, ∃ core : Nat, ∃ p : Nat, s.Takes m specUnitRetire ∧ u = le (s.page m) 0x40 8 ∧
      core = bits u 32 16 ∧ (bits u 56 8 = 1 ∨ bits u 56 8 = 2) ∧ s.popped.retireWaits u = false ∧ s.spares.lost.contains
      core = false ∧ (s.popped.freePositions (core / 32) ≠ [] ∨ (bits u 56 8 = 1 ∧ s.popped.spareTileFree
      (s.popped.physCore core) = true)) ∧ s.coreOwner core = some p) ∧
    (∃ s : State, ∃ m : Fin 64, ∃ u : Nat, ∃ core : Nat, ∃ x : Port, ∃ lane : Nat, s.Takes m specUnitRetire ∧ u = le
      (s.page m) 0x40 8 ∧ core = bits u 32 16 ∧ bits u 56 8 = 9 ∧ x = s.port core ∧ lane = bits u 16 16 ∧ lane < 4 ∧
      x.spareOn = true ∧ x.spareState = 0) ∧
    (∃ s : State, ∃ m : Fin 64, ∃ u : Nat, ∃ core : Nat, ∃ x : Port, ∃ lane : Nat, s.Takes m specUnitRetire ∧ u = le
      (s.page m) 0x40 8 ∧ core = bits u 32 16 ∧ bits u 56 8 = 9 ∧ x = s.port core ∧ lane = bits u 16 16 ∧ (4 ≤ lane ∨
      x.spareOn = false ∨ x.spareState ≠ 0)) ∧
    (∃ s : State, ∃ m : Fin 64, ∃ u : Nat, ∃ core : Nat, ∃ y : Sups, ∃ spare : Bool, ∃ off : State → State, s.Takes m
      specUnitRetire ∧ u = le (s.page m) 0x40 8 ∧ core = bits u 32 16 ∧ bits u 56 8 = 0xA ∧ y = s.sup ∧ spare =
      (List.range 4).any (fun k => y.working.getLsbD k && k != y.primary.val && k != core && !(y.standbyValid && k ==
      y.standby.val)) ∧ off = (fun t =>
      ({ t with sup := { t.sup with working := t.sup.working &&& ~~~ BitVec.ofNat 4 (2 ^ core) } } : State).wear (supUnit
      core) 0 2 0 0xFFFF 0) ∧ y.working.getLsbD core = false) ∧
    (∃ s : State, ∃ m : Fin 64, ∃ u : Nat, ∃ core : Nat, ∃ y : Sups, ∃ spare : Bool, ∃ off : State → State, s.Takes m
      specUnitRetire ∧ u = le (s.page m) 0x40 8 ∧ core = bits u 32 16 ∧ bits u 56 8 = 0xA ∧ y = s.sup ∧ spare =
      (List.range 4).any (fun k => y.working.getLsbD k && k != y.primary.val && k != core && !(y.standbyValid && k ==
      y.standby.val)) ∧ off = (fun t =>
      ({ t with sup := { t.sup with working := t.sup.working &&& ~~~ BitVec.ofNat 4 (2 ^ core) } } : State).wear (supUnit
      core) 0 2 0 0xFFFF 0) ∧ y.working.getLsbD core = true ∧ y.retireMbx.isSome = true) ∧
    (∃ s : State, ∃ m : Fin 64, ∃ u : Nat, ∃ core : Nat, ∃ y : Sups, ∃ spare : Bool, ∃ off : State → State, ∃ w : State →
      State, s.Takes m specUnitRetire ∧ u = le (s.page m) 0x40 8 ∧ core = bits u 32 16 ∧ bits u 56 8 = 0xA ∧ y = s.sup ∧
      spare = (List.range 4).any (fun k => y.working.getLsbD k && k != y.primary.val && k != core && !(y.standbyValid &&
      k == y.standby.val)) ∧ off = (fun t =>
      ({ t with sup := { t.sup with working := t.sup.working &&& ~~~ BitVec.ofNat 4 (2 ^ core) } } : State).wear (supUnit
      core) 0 2 0 0xFFFF 0) ∧ y.working.getLsbD core = true ∧ y.retireMbx = none ∧ w = (fun t =>
      ({ t with sup := { t.sup with retireMbx := some m } } : State).background m) ∧ core = y.primary.val ∧
      y.standbyValid = true ∧ spare = true) ∧
    (∃ s : State, ∃ m : Fin 64, ∃ u : Nat, ∃ core : Nat, ∃ y : Sups, ∃ spare : Bool, ∃ off : State → State, ∃ w : State →
      State, s.Takes m specUnitRetire ∧ u = le (s.page m) 0x40 8 ∧ core = bits u 32 16 ∧ bits u 56 8 = 0xA ∧ y = s.sup ∧
      spare = (List.range 4).any (fun k => y.working.getLsbD k && k != y.primary.val && k != core && !(y.standbyValid &&
      k == y.standby.val)) ∧ off = (fun t =>
      ({ t with sup := { t.sup with working := t.sup.working &&& ~~~ BitVec.ofNat 4 (2 ^ core) } } : State).wear (supUnit
      core) 0 2 0 0xFFFF 0) ∧ y.working.getLsbD core = true ∧ y.retireMbx = none ∧ w = (fun t =>
      ({ t with sup := { t.sup with retireMbx := some m } } : State).background m) ∧ core ≠ y.primary.val ∧
      y.standbyValid = true ∧ core = y.standby.val ∧ spare = true) ∧
    (∃ s : State, ∃ m : Fin 64, ∃ u : Nat, ∃ core : Nat, ∃ y : Sups, ∃ spare : Bool, ∃ off : State → State, ∃ w : State →
      State, s.Takes m specUnitRetire ∧ u = le (s.page m) 0x40 8 ∧ core = bits u 32 16 ∧ bits u 56 8 = 0xA ∧ y = s.sup ∧
      spare = (List.range 4).any (fun k => y.working.getLsbD k && k != y.primary.val && k != core && !(y.standbyValid &&
      k == y.standby.val)) ∧ off = (fun t =>
      ({ t with sup := { t.sup with working := t.sup.working &&& ~~~ BitVec.ofNat 4 (2 ^ core) } } : State).wear (supUnit
      core) 0 2 0 0xFFFF 0) ∧ y.working.getLsbD core = true ∧ y.retireMbx = none ∧ w = (fun t =>
      ({ t with sup := { t.sup with retireMbx := some m } } : State).background m) ∧ ((core = y.primary.val ∧
      y.standbyValid = false) ∨ ((core = y.primary.val ∨ (y.standbyValid = true ∧ core = y.standby.val)) ∧ spare =
      false))) ∧
    (∃ s : State, ∃ m : Fin 64, ∃ u : Nat, ∃ core : Nat, ∃ y : Sups, ∃ spare : Bool, ∃ off : State → State, ∃ w : State →
      State, s.Takes m specUnitRetire ∧ u = le (s.page m) 0x40 8 ∧ core = bits u 32 16 ∧ bits u 56 8 = 0xA ∧ y = s.sup ∧
      spare = (List.range 4).any (fun k => y.working.getLsbD k && k != y.primary.val && k != core && !(y.standbyValid &&
      k == y.standby.val)) ∧ off = (fun t =>
      ({ t with sup := { t.sup with working := t.sup.working &&& ~~~ BitVec.ofNat 4 (2 ^ core) } } : State).wear (supUnit
      core) 0 2 0 0xFFFF 0) ∧ y.working.getLsbD core = true ∧ y.retireMbx = none ∧ w = (fun t =>
      ({ t with sup := { t.sup with retireMbx := some m } } : State).background m) ∧ core ≠ y.primary.val ∧ (¬
      (y.standbyValid = true ∧ core = y.standby.val))) ∧
    (∃ s : State, ∃ m : Fin 64, ∃ u : Nat, ∃ core : Nat, s.Takes m specUnitRetire ∧ u = le (s.page m) 0x40 8 ∧ core =
      bits u 32 16 ∧ ¬ bits u 56 8 ∈ [1, 2, 9, 0xA]) :=
  ⟨⟨asked ((withStream { stream with gen := 1 }).writeRaw 0x6000000 [1, 0, 0, 1, 4, 0]) 0x801 [(0x40, 0x4003), (0x45, 1), (0x4A, 1)], 0, _, _, ⟨by decide +kernel, by decide +kernel, by decide +kernel, by decide +kernel⟩, rfl, rfl, (Or.inr (by decide +kernel))⟩,
   ⟨asked ((withStream { stream with gen := 1, pageTable := 0x6000000, drainMbx := [4] }).writeRaw 0x6000000 [1, 0, 0, 1, 4, 0]) 0x801 [(0x40, 0x4003), (0x45, 1), (0x4A, 1)], 0, _, _, ⟨by decide +kernel, by decide +kernel, by decide +kernel, by decide +kernel⟩, rfl, rfl, (by decide +kernel), (by decide +kernel), (Or.inr (by decide +kernel))⟩,
   ⟨asked ((withStream { stream with gen := 1, pageTable := 0x6000000 }).writeRaw 0x6000000 [1, 0, 0, 1, 4, 0]) 0x801 [(0x40, 0x4003), (0x45, 1), (0x4A, 1)], 0, _, _, ⟨by decide +kernel, by decide +kernel, by decide +kernel, by decide +kernel⟩, rfl, rfl, (by decide +kernel), (by decide +kernel), (by decide +kernel), (by decide +kernel)⟩,
   ⟨asked device 0x901 [(0x40, 2), (0x41, 1)], 0, _, ⟨by decide +kernel, by decide +kernel, by decide +kernel, by decide +kernel⟩, rfl, (by decide +kernel), (by decide +kernel)⟩,
   ⟨asked { (inMode bare .maintenance) with tests := [⟨8, none, 1, [5 * 2 ^ 56], [], []⟩] } 0x901 [(0x41, 1), (0x48, 5 * 2 ^ 56)], 0, _, ⟨by decide +kernel, by decide +kernel, by decide +kernel, by decide +kernel⟩, rfl, (fun _ => by decide +kernel), (by decide +kernel)⟩,
   ⟨asked (inMode bare .maintenance) 0x901 [(0x41, 1), (0x48, 5 * 2 ^ 56)], 0, _, ⟨by decide +kernel, by decide +kernel, by decide +kernel, by decide +kernel⟩, rfl, (fun _ => by decide +kernel), (by decide +kernel)⟩,
   ⟨asked device 0x902 [(0x40, 8)], 0, ⟨by decide +kernel, by decide +kernel, by decide +kernel, by decide +kernel⟩, (by decide +kernel)⟩,
   ⟨asked { (withQp device 16) with tests := [⟨8, some 7, 1, [], [], []⟩] } 0x902 [(0x40, 8)], 0, ⟨8, some 7, 1, [], [], []⟩, ⟨by decide +kernel, by decide +kernel, by decide +kernel, by decide +kernel⟩, (by decide +kernel), (by decide +kernel)⟩,
   ⟨asked { (withQp device 16) with tests := [⟨8, none, 1, [], [], []⟩] } 0x902 [(0x40, 8)], 0, ⟨8, none, 1, [], [], []⟩, _, _, ⟨by decide +kernel, by decide +kernel, by decide +kernel, by decide +kernel⟩, (by decide +kernel), (by decide +kernel), rfl, rfl, (by decide +kernel)⟩,
   ⟨asked { (withQp device 16) with tests := [⟨8, none, 1, [], [], []⟩] } 0x902 [(0x40, 8), (0x48, 2 ^ 51)], 0, true, ⟨8, none, 1, [], [], []⟩, _, _, ⟨by decide +kernel, by decide +kernel, by decide +kernel, by decide +kernel⟩, (by decide +kernel), (by decide +kernel), rfl, rfl, (by decide +kernel), (by decide +kernel), (by decide +kernel)⟩,
   ⟨asked { (withQp device 16) with tests := [⟨8, none, 1, [], [], []⟩] } 0x902 [(0x40, 8), (0x48, 2 ^ 51)], 0, false, ⟨8, none, 1, [], [], []⟩, _, _, ⟨by decide +kernel, by decide +kernel, by decide +kernel, by decide +kernel⟩, (by decide +kernel), (by decide +kernel), rfl, rfl, (by decide +kernel), (by decide +kernel)⟩,
   ⟨true, ⟨asked (withQp device 16) 0x903 [(0x40, 2 ^ 51)], 0, ⟨by decide +kernel, by decide +kernel, by decide +kernel, by decide +kernel⟩, (by decide +kernel)⟩⟩,
   ⟨true, ⟨asked device 0x903 [], 0, ⟨by decide +kernel, by decide +kernel, by decide +kernel, by decide +kernel⟩, (by decide +kernel)⟩⟩,
   ⟨true, ⟨asked (withQp device 16) 0x904 [(0x48, 2 ^ 51)], 0, ⟨by decide +kernel, by decide +kernel, by decide +kernel, by decide +kernel⟩, (by decide +kernel)⟩⟩,
   ⟨true, ⟨asked device 0x904 [], 0, ⟨by decide +kernel, by decide +kernel, by decide +kernel, by decide +kernel⟩, (by decide +kernel)⟩⟩,
   ⟨asked { device with parts := [(0, { part with unitWaits := [⟨BitVec.ofNat 64 (2 ^ 56), some 4, none⟩] })] } 0x905 [(0x40, 2 ^ 56)], 0, _, _, 8, ⟨by decide +kernel, by decide +kernel, by decide +kernel, by decide +kernel⟩, rfl, rfl, (Or.inl (by decide +kernel)), (by decide +kernel)⟩,
   ⟨asked bare 0x905 [(0x40, 2 ^ 56)], 0, _, _, _, ⟨by decide +kernel, by decide +kernel, by decide +kernel, by decide +kernel⟩, rfl, rfl, (Or.inl (by decide +kernel)), (by decide +kernel), (by decide +kernel), (Or.inl (by decide +kernel)), (by decide +kernel), rfl⟩,
   ⟨asked device 0x905 [(0x40, 2 ^ 56)], 0, _, _, 0, ⟨by decide +kernel, by decide +kernel, by decide +kernel, by decide +kernel⟩, rfl, rfl, (Or.inl (by decide +kernel)), (by decide +kernel), (by decide +kernel), (Or.inl (by decide +kernel)), (by decide +kernel)⟩,
   ⟨asked { bare with ports := [(0, { Port.cold with spareOn := true })] } 0x905 [(0x40, 9 * 2 ^ 56)], 0, _, _, _, _, ⟨by decide +kernel, by decide +kernel, by decide +kernel, by decide +kernel⟩, rfl, rfl, (by decide +kernel), rfl, rfl, (by decide +kernel), (by decide +kernel), (by decide +kernel)⟩,
   ⟨asked bare 0x905 [(0x40, 9 * 2 ^ 56 + 4 * 2 ^ 16)], 0, _, _, _, _, ⟨by decide +kernel, by decide +kernel, by decide +kernel, by decide +kernel⟩, rfl, rfl, (by decide +kernel), rfl, rfl, (Or.inl (by decide +kernel))⟩,
   ⟨asked { bare with sup := { bare.sup with working := 7 } } 0x905 [(0x40, 10 * 2 ^ 56 + 3 * 2 ^ 32)], 0, _, _, _, _, _, ⟨by decide +kernel, by decide +kernel, by decide +kernel, by decide +kernel⟩, rfl, rfl, (by decide +kernel), rfl, rfl, rfl, (by decide +kernel)⟩,
   ⟨asked { bare with sup := { bare.sup with retireMbx := some 4 } } 0x905 [(0x40, 10 * 2 ^ 56 + 3 * 2 ^ 32)], 0, _, _, _, _, _, ⟨by decide +kernel, by decide +kernel, by decide +kernel, by decide +kernel⟩, rfl, rfl, (by decide +kernel), rfl, rfl, rfl, (by decide +kernel), (by decide +kernel)⟩,
   ⟨asked bare 0x905 [(0x40, 10 * 2 ^ 56 + 0 * 2 ^ 32)], 0, _, _, _, _, _, _, ⟨by decide +kernel, by decide +kernel, by decide +kernel, by decide +kernel⟩, rfl, rfl, (by decide +kernel), rfl, rfl, rfl, (by decide +kernel), (by decide +kernel), rfl, (by decide +kernel), (by decide +kernel), (by decide +kernel)⟩,
   ⟨asked bare 0x905 [(0x40, 10 * 2 ^ 56 + 1 * 2 ^ 32)], 0, _, _, _, _, _, _, ⟨by decide +kernel, by decide +kernel, by decide +kernel, by decide +kernel⟩, rfl, rfl, (by decide +kernel), rfl, rfl, rfl, (by decide +kernel), (by decide +kernel), rfl, (by decide +kernel), (by decide +kernel), (by decide +kernel), (by decide +kernel)⟩,
   ⟨asked { bare with sup := { bare.sup with standbyValid := false } } 0x905 [(0x40, 10 * 2 ^ 56 + 0 * 2 ^ 32)], 0, _, _, _, _, _, _, ⟨by decide +kernel, by decide +kernel, by decide +kernel, by decide +kernel⟩, rfl, rfl, (by decide +kernel), rfl, rfl, rfl, (by decide +kernel), (by decide +kernel), rfl, (Or.inl (by decide +kernel))⟩,
   ⟨asked bare 0x905 [(0x40, 10 * 2 ^ 56 + 3 * 2 ^ 32)], 0, _, _, _, _, _, _, ⟨by decide +kernel, by decide +kernel, by decide +kernel, by decide +kernel⟩, rfl, rfl, (by decide +kernel), rfl, rfl, rfl, (by decide +kernel), (by decide +kernel), rfl, (by decide +kernel), (by decide +kernel)⟩,
   ⟨asked bare 0x905 [(0x40, 3 * 2 ^ 56)], 0, _, _, ⟨by decide +kernel, by decide +kernel, by decide +kernel, by decide +kernel⟩, rfl, rfl, (by decide +kernel)⟩⟩

/-- What the clauses of SecurityCommandsAct ask can be met. -/
theorem met_SecurityCommandsAct :
    (∃ ok : Bool, (Meets specSecIdentity (fun m pg s => ((if le pg 0x40 8 = 0 ∨ (ok = true ∧ s.hostReach m (BitVec.ofNat
      64 (le pg 0x40 8)) = true) then none else some (12, 0)) : Option (Nat × Nat)) = none))) ∧
    (∃ ok : Bool, (Meets specSecIdentity (fun m pg s => ((if le pg 0x40 8 = 0 ∨ (ok = true ∧ s.hostReach m (BitVec.ofNat
      64 (le pg 0x40 8)) = true) then none else some (12, 0)) : Option (Nat × Nat)).isSome = true))) ∧
    (∃ ok : Bool, Meets specSecQuote (fun m pg s => ((if ok && s.hostReach m (BitVec.ofNat 64 (le pg 0x60 8)) then none
      else some (12, 0)) : Option (Nat × Nat)) = none)) ∧
    (∃ ok : Bool, Meets specSecQuote (fun m pg s => ((if ok && s.hostReach m (BitVec.ofNat 64 (le pg 0x60 8)) then none
      else some (12, 0)) : Option (Nat × Nat)).isSome = true)) ∧
    (∃ host : Option Bytes, (Meets specSecFwUpdate (fun m pg s => ((if s.fwBusy then some (8, 0) else match s.fwSegFault (le pg 0x40 2) (le pg 0x44 4) (le pg 0x48 4) (le pg 0x4C 4) with | some d => some (2, d) | none => if s.hostReach m (BitVec.ofNat 64 (le pg 0x50 8)) = true ∧ host.any (fun b => b.length == le pg 0x48 4) = true then none else some (12, 0)) : Option (Nat × Nat)) = none))) ∧
    (∃ host : Option Bytes, (Meets specSecFwUpdate (fun m pg s => ((if s.fwBusy then some (8, 0) else match s.fwSegFault (le pg 0x40 2) (le pg 0x44 4) (le pg 0x48 4) (le pg 0x4C 4) with | some d => some (2, d) | none => if s.hostReach m (BitVec.ofNat 64 (le pg 0x50 8)) = true ∧ host.any (fun b => b.length == le pg 0x48 4) = true then none else some (12, 0)) : Option (Nat × Nat)).isSome = true))) ∧
    (∃ s : State, ∃ m : Fin 64, ∃ b : Bool, s.Takes m specSecFwActivate ∧ b = (le (s.page m) 0x40 1 == 1) ∧
      s.popped.fwBusy = true) ∧
    (∃ s : State, ∃ m : Fin 64, ∃ b : Bool, s.Takes m specSecFwActivate ∧ b = (le (s.page m) 0x40 1 == 1) ∧
      s.popped.fwBusy = false ∧ b = s.idleSlot ∧ (s.flash.fw b).state = .verified) ∧
    (∃ s : State, ∃ m : Fin 64, ∃ b : Bool, s.Takes m specSecFwActivate ∧ b = (le (s.page m) 0x40 1 == 1) ∧
      s.popped.fwBusy = false ∧ b = s.idleSlot ∧ (s.flash.fw b).state ≠ .verified) ∧
    (∃ s : State, ∃ m : Fin 64, ∃ b : Bool, s.Takes m specSecFwActivate ∧ b = (le (s.page m) 0x40 1 == 1) ∧
      s.popped.fwBusy = false ∧ b ≠ s.idleSlot ∧ s.flash.bootAhead.2.isSome = true) ∧
    (∃ s : State, ∃ m : Fin 64, ∃ b : Bool, s.Takes m specSecFwActivate ∧ b = (le (s.page m) 0x40 1 == 1) ∧
      s.popped.fwBusy = false ∧ b ≠ s.idleSlot ∧ s.flash.bootAhead.2 = none) ∧
    (∃ s : State, ∃ m : Fin 64, ∃ v : Nat, ∃ st : Nat, s.Takes m specSecCounterAdvance ∧ v = le (s.page m) 0x40 1 ∧ ((if
      s.dev.mode = .serving then some 3 else if s.popped.fwBusy = true ∨ (s.flash.fw false).state = .receiving ∨
      (s.flash.fw true).state = .receiving then some 8 else if s.sec.secVersion < v then some 17 else none) = some st)) ∧
    (∃ s : State, ∃ m : Fin 64, ∃ v : Nat, s.Takes m specSecCounterAdvance ∧ v = le (s.page m) 0x40 1 ∧ s.dev.mode ≠
      .serving ∧ s.popped.fwBusy = false ∧ (∀ b : Bool, (s.flash.fw b).state ≠ .receiving) ∧ v ≤ s.sec.secVersion) ∧
    (∃ s : State, (s.sec.blowTo = none ∨ s.fusesReady = false)) ∧
    (∃ s : State, ∃ v : Nat, ∃ m : Fin 64, s.sec.blowTo = some (v, m) ∧ s.fusesReady = true ∧ s.sec.counter + 1 < v) ∧
    (∃ s : State, ∃ v : Nat, ∃ m : Fin 64, s.sec.blowTo = some (v, m) ∧ s.fusesReady = true ∧ v ≤ s.sec.counter + 1) :=
  ⟨⟨true, ⟨asked device 0xA01 [], 0, ⟨by decide +kernel, by decide +kernel, by decide +kernel, by decide +kernel⟩, (by decide +kernel)⟩⟩,
   ⟨false, ⟨asked (withQp device 16) 0xA01 [(0x40, 2 ^ 51)], 0, ⟨by decide +kernel, by decide +kernel, by decide +kernel, by decide +kernel⟩, (by decide +kernel)⟩⟩,
   ⟨true, ⟨asked (withQp device 16) 0xA02 [(0x60, 2 ^ 51)], 0, ⟨by decide +kernel, by decide +kernel, by decide +kernel, by decide +kernel⟩, (by decide +kernel)⟩⟩,
   ⟨true, ⟨asked device 0xA02 [], 0, ⟨by decide +kernel, by decide +kernel, by decide +kernel, by decide +kernel⟩, (by decide +kernel)⟩⟩,
   ⟨some [1, 2, 3, 4], ⟨asked (withQp device 16) 0xA03 [(0x48, 4), (0x4C, 512), (0x50, 2 ^ 51)], 0, ⟨by decide +kernel, by decide +kernel, by decide +kernel, by decide +kernel⟩, (by decide +kernel)⟩⟩,
   ⟨none, ⟨asked (withQp device 16) 0xA03 [(0x48, 4), (0x4C, 512), (0x50, 2 ^ 51)], 0, ⟨by decide +kernel, by decide +kernel, by decide +kernel, by decide +kernel⟩, (by decide +kernel)⟩⟩,
   ⟨asked { device with flash := { device.flash with ops := [.boot (some 4) false none] } } 0xA04 [(0x40, 1)], 0, _, ⟨by decide +kernel, by decide +kernel, by decide +kernel, by decide +kernel⟩, rfl, (by decide +kernel)⟩,
   ⟨asked { device with flash := { device.flash with fwB := ⟨.verified, [], 0⟩ } } 0xA04 [(0x40, 1)], 0, _, ⟨by decide +kernel, by decide +kernel, by decide +kernel, by decide +kernel⟩, rfl, (by decide +kernel), (by decide +kernel), (by decide +kernel)⟩,
   ⟨asked device 0xA04 [(0x40, 1)], 0, _, ⟨by decide +kernel, by decide +kernel, by decide +kernel, by decide +kernel⟩, rfl, (by decide +kernel), (by decide +kernel), (by decide +kernel)⟩,
   ⟨asked { device with flash := { device.flash with ops := [.boot none false (some true)] } } 0xA04 [], 0, _, ⟨by decide +kernel, by decide +kernel, by decide +kernel, by decide +kernel⟩, rfl, (by decide +kernel), (by decide +kernel), (by decide +kernel)⟩,
   ⟨asked device 0xA04 [], 0, _, ⟨by decide +kernel, by decide +kernel, by decide +kernel, by decide +kernel⟩, rfl, (by decide +kernel), (by decide +kernel), (by decide +kernel)⟩,
   ⟨asked (inMode { bare with sec := { bare.sec with secVersion := 5 } } .ready) 0xA05 [(0x40, 6)], 0, _, 17, ⟨by decide +kernel, by decide +kernel, by decide +kernel, by decide +kernel⟩, rfl, (by decide +kernel)⟩,
   ⟨asked (inMode { bare with sec := { bare.sec with secVersion := 5 } } .ready) 0xA05 [(0x40, 3)], 0, _, ⟨by decide +kernel, by decide +kernel, by decide +kernel, by decide +kernel⟩, rfl, (by decide +kernel), (by decide +kernel), (by decide +kernel), (by decide +kernel)⟩,
   ⟨device, (Or.inl (by decide +kernel))⟩,
   ⟨{ device with sec := { device.sec with blowTo := some (3, 4), counter := 1 } }, 3, 4, (by decide +kernel), (by decide +kernel), (by decide +kernel)⟩,
   ⟨{ device with sec := { device.sec with blowTo := some (2, 4), counter := 1 } }, 2, 4, (by decide +kernel), (by decide +kernel), (by decide +kernel)⟩⟩

/-- What the clauses of TelemetryCommandsAct ask can be met. -/
theorem met_TelemetryCommandsAct :
    (∃ ok : Bool, Meets specTelemRead (fun m pg s => ((if ok && s.hostReach m (BitVec.ofNat 64 (le pg 0x40 8)) then none
      else some (12, 0)) : Option (Nat × Nat)) = none)) ∧
    (∃ ok : Bool, Meets specTelemRead (fun m pg s => ((if ok && s.hostReach m (BitVec.ofNat 64 (le pg 0x40 8)) then none
      else some (12, 0)) : Option (Nat × Nat)).isSome = true)) ∧
    (Meets specTelemSeeingCfg (fun _ pg s => ((if s.live? (le pg 0x40 1) = none then some (3, 0) else if le pg 0x48 8 / 2
      ^ 51 = s.dev.deviceNo.toNat then some (7, 0) else none) : Option (Nat × Nat)) = none)) ∧
    (Meets specTelemSeeingCfg (fun _ pg s => ((if s.live? (le pg 0x40 1) = none then some (3, 0) else if le pg 0x48 8 / 2
      ^ 51 = s.dev.deviceNo.toNat then some (7, 0) else none) : Option (Nat × Nat)).isSome = true)) :=
  ⟨⟨true, ⟨asked (withQp device 16) 0xB01 [(0x40, 2 ^ 51)], 0, ⟨by decide +kernel, by decide +kernel, by decide +kernel, by decide +kernel⟩, (by decide +kernel)⟩⟩,
   ⟨true, ⟨asked device 0xB01 [], 0, ⟨by decide +kernel, by decide +kernel, by decide +kernel, by decide +kernel⟩, (by decide +kernel)⟩⟩,
   ⟨asked device 0xB02 [(0x42, 8), (0x44, 16), (0x48, 2 ^ 51)], 0, ⟨by decide +kernel, by decide +kernel, by decide +kernel, by decide +kernel⟩, (by decide +kernel)⟩,
   ⟨asked bare 0xB02 [(0x42, 8), (0x44, 16), (0x48, 2 ^ 51)], 0, ⟨by decide +kernel, by decide +kernel, by decide +kernel, by decide +kernel⟩, (by decide +kernel)⟩⟩

end Sys2Proof.Tests
end

