-- ==== Sys2Proof/Tests/WitnessCores.lean ====
section
/-! SUPPORT. The hypotheses of the statements about cores and contexts can be met. -/

namespace Sys2Proof.Tests
open Sys2Proof.Machine

set_option Elab.async false

/-- What the clauses of StepRunsFrontCommand ask can be met. -/
theorem met_StepRunsFrontCommand :
    ∃ s : State, s.pending = [] :=
  ⟨device, rfl⟩

/-- What the clauses of ScalarArithmeticWritesXd ask can be met. -/
theorem met_ScalarArithmeticWritesXd :
    (∃ s : State, ∃ c : Fin 1536, ∃ w : InstrWord, s.Issues c.val 0x08 w ∧ cLegal w = true ∧ (s.issued c.val 0x08
      w).SignalFits w) ∧
    (∃ s : State, ∃ c : Fin 1536, ∃ w : InstrWord, s.Issues c.val 0x09 w ∧ cLegal w = true ∧ (s.issued c.val 0x09
      w).SignalFits w) ∧
    (∃ s : State, ∃ c : Fin 1536, ∃ w : InstrWord, s.Issues c.val 0x0A w ∧ cLegal w = true ∧ (s.issued c.val 0x0A
      w).SignalFits w) ∧
    (∃ s : State, ∃ c : Fin 1536, ∃ w : InstrWord, s.Issues c.val 0x0B w ∧ cLegal w = true ∧ (s.issued c.val 0x0B
      w).SignalFits w) ∧
    (∃ s : State, ∃ c : Fin 1536, ∃ w : InstrWord, s.Issues c.val 0x0C w ∧ cLegal w = true ∧ (s.issued c.val 0x0C
      w).SignalFits w) ∧
    (∃ s : State, ∃ c : Fin 1536, ∃ w : InstrWord, s.Issues c.val 0x0D w ∧ cLegal w = true ∧ (s.issued c.val 0x0D
      w).SignalFits w) ∧
    (∃ s : State, ∃ c : Fin 1536, ∃ w : InstrWord, s.Issues c.val 0x0E w ∧ cLegal w = true ∧ (s.issued c.val 0x0E
      w).SignalFits w) ∧
    (∃ s : State, ∃ c : Fin 1536, ∃ w : InstrWord, s.Issues c.val 0x0F w ∧ cLegal w = true ∧ (s.issued c.val 0x0F
      w).SignalFits w) ∧
    (∃ d : Nat, ∃ k : Nat, 1 ≤ d ∧ d < 16 ∧ k < 16 ∧ k ≠ d) :=
  ⟨⟨onCore core, 0, iw [(84, 3), (80, 2)], ⟨by decide +kernel, by decide +kernel⟩, (by decide +kernel), (by unfold Core.SignalFits; decide +kernel)⟩,
   ⟨onCore core, 0, iw [(84, 3), (80, 2)], ⟨by decide +kernel, by decide +kernel⟩, (by decide +kernel), (by unfold Core.SignalFits; decide +kernel)⟩,
   ⟨onCore core, 0, iw [(84, 3), (80, 2)], ⟨by decide +kernel, by decide +kernel⟩, (by decide +kernel), (by unfold Core.SignalFits; decide +kernel)⟩,
   ⟨onCore core, 0, iw [(84, 3), (80, 2)], ⟨by decide +kernel, by decide +kernel⟩, (by decide +kernel), (by unfold Core.SignalFits; decide +kernel)⟩,
   ⟨onCore core, 0, iw [(84, 3), (80, 2)], ⟨by decide +kernel, by decide +kernel⟩, (by decide +kernel), (by unfold Core.SignalFits; decide +kernel)⟩,
   ⟨onCore core, 0, iw [(84, 3), (80, 2)], ⟨by decide +kernel, by decide +kernel⟩, (by decide +kernel), (by unfold Core.SignalFits; decide +kernel)⟩,
   ⟨onCore core, 0, iw [(84, 3), (80, 2)], ⟨by decide +kernel, by decide +kernel⟩, (by decide +kernel), (by unfold Core.SignalFits; decide +kernel)⟩,
   ⟨onCore core, 0, iw [(84, 3), (80, 2)], ⟨by decide +kernel, by decide +kernel⟩, (by decide +kernel), (by unfold Core.SignalFits; decide +kernel)⟩,
   ⟨15, 14, (by decide +kernel), (by decide +kernel), (by decide +kernel), (by decide +kernel)⟩⟩

/-- What the clauses of BranchesGoWhereTheConditionSays ask can be met. -/
theorem met_BranchesGoWhereTheConditionSays :
    (∃ s : State, ∃ c : Fin 1536, ∃ w : InstrWord, s.Issues c.val 0x02 w ∧ s.branchLegal c.val w = true ∧ (s.issued c.val
      0x02 w).SignalFits w) ∧
    (∃ s : State, ∃ c : Fin 1536, ∃ w : InstrWord, s.Issues c.val 0x03 w ∧ s.branchLegal c.val w = true ∧ (s.issued c.val
      0x03 w).SignalFits w) ∧
    (∃ s : State, ∃ c : Fin 1536, ∃ w : InstrWord, s.Issues c.val 0x04 w ∧ s.branchLegal c.val w = true ∧ (s.issued c.val
      0x04 w).SignalFits w) ∧
    (∃ s : State, ∃ c : Fin 1536, ∃ w : InstrWord, s.Issues c.val 0x05 w ∧ s.branchLegal c.val w = true ∧ (s.issued c.val
      0x05 w).SignalFits w) ∧
    (∃ s : State, ∃ c : Fin 1536, ∃ w : InstrWord, s.Issues c.val 0x06 w ∧ s.branchLegal c.val w = true ∧ (s.issued c.val
      0x06 w).SignalFits w) ∧
    (∃ s : State, ∃ c : Fin 1536, ∃ w : InstrWord, s.Issues c.val 0x07 w ∧ s.branchLegal c.val w = true ∧ (s.issued c.val
      0x07 w).SignalFits w) :=
  ⟨⟨onCore core, 0, iw [(84, 3), (80, 2), (0, 15)], ⟨by decide +kernel, by decide +kernel⟩, (by decide +kernel), (by unfold Core.SignalFits; decide +kernel)⟩,
   ⟨onCore core, 0, iw [(84, 3), (80, 2), (0, 15)], ⟨by decide +kernel, by decide +kernel⟩, (by decide +kernel), (by unfold Core.SignalFits; decide +kernel)⟩,
   ⟨onCore core, 0, iw [(84, 3), (80, 2), (0, 15)], ⟨by decide +kernel, by decide +kernel⟩, (by decide +kernel), (by unfold Core.SignalFits; decide +kernel)⟩,
   ⟨onCore core, 0, iw [(84, 3), (80, 2), (0, 15)], ⟨by decide +kernel, by decide +kernel⟩, (by decide +kernel), (by unfold Core.SignalFits; decide +kernel)⟩,
   ⟨onCore core, 0, iw [(84, 3), (80, 2), (0, 15)], ⟨by decide +kernel, by decide +kernel⟩, (by decide +kernel), (by unfold Core.SignalFits; decide +kernel)⟩,
   ⟨onCore core, 0, iw [(84, 3), (80, 2), (0, 15)], ⟨by decide +kernel, by decide +kernel⟩, (by decide +kernel), (by unfold Core.SignalFits; decide +kernel)⟩⟩

/-- What the clauses of SequencerInstructionsComplete ask can be met. -/
theorem met_SequencerInstructionsComplete :
    (∃ s : State, ∃ c : Fin 1536, ∃ w : InstrWord, s.Issues c.val 0x00 w ∧ cLegal w = true ∧ (s.issued c.val 0x00
      w).SignalFits w) ∧
    (∃ s : State, ∃ c : Fin 1536, ∃ w : InstrWord, ∃ x, (s.ctxOf c.val).bind s.ctx? = some x ∧ (x.umber &&
      x.preempt.isSome) = false ∧ s.Issues c.val 0x1B w ∧ headerOk w = true ∧ (s.issued c.val 0x1B w).SignalFits w) ∧
    (∃ s : State, ∃ c : Fin 1536, ∃ w : InstrWord, ∃ id, ∃ x, s.Issues c.val 0x01 w ∧ cLegal w = true ∧ (s.core
      c.val).quiet = true ∧ (s.core c.val).trapDue = none ∧ s.ctxOf c.val = some id ∧ s.ctx? id = some x ∧ x.state =
      .running ∧ (s.issued c.val 0x01 w).SignalFits w) ∧
    (∃ s : State, ∃ c : Fin 1536, ∃ w : InstrWord, ∃ off, off = (xGet (s.core c.val).x (fld w 80 4) + BitVec.ofNat 64
      (fld w 0 48)).toNat ∧ off % 8 = 0 ∧ s.Issues c.val 0x10 w ∧ cLegal w = true ∧ s.scratchOk c.val off 8 = true ∧
      s.good (coreWin c.val + off) 8 = true ∧ (s.issued c.val 0x10 w).SignalFits w) :=
  ⟨⟨onCore core, 0, 0, ⟨by decide +kernel, by decide +kernel⟩, (by decide +kernel), (by unfold Core.SignalFits; decide +kernel)⟩,
   ⟨onCore core, 0, 0, _, rfl, (by decide +kernel), ⟨by decide +kernel, by decide +kernel⟩, (by decide +kernel), (by unfold Core.SignalFits; decide +kernel)⟩,
   ⟨onCore core, 0, 0, 7, ctx, ⟨by decide +kernel, by decide +kernel⟩, (by decide +kernel), (by decide +kernel), (by decide +kernel), (by decide +kernel), (by decide +kernel), (by decide +kernel), (by unfold Core.SignalFits; decide +kernel)⟩,
   ⟨onCore core, 0, iw [(84, 15), (0, 0x7FFF8)], _, rfl, (by decide +kernel), ⟨by decide +kernel, by decide +kernel⟩, (by decide +kernel), (by decide +kernel), (by decide +kernel), (by unfold Core.SignalFits; decide +kernel)⟩⟩

/-- What the clauses of SyncWaitsForQuietCore ask can be met. -/
theorem met_SyncWaitsForQuietCore :
    (∃ s : State, ∃ c : Fin 1536, ∃ w : InstrWord, s.Issues c.val 0x1A w ∧ headerOk w = true ∧ (s.core c.val).NoTrapEnds
      ∧ (s.core c.val).quiet = true ∧ (s.issued c.val 0x1A w).SignalFits w) ∧
    (∃ s : State, ∃ c : Fin 1536, ∃ w : InstrWord, s.Issues c.val 0x1A w ∧ headerOk w = true ∧ (s.core c.val).NoTrapEnds
      ∧ (s.core c.val).quiet = false) :=
  ⟨⟨onCore core, 0, 0, ⟨by decide +kernel, by decide +kernel⟩, (by decide +kernel), (by decide +kernel), (by decide +kernel), (by unfold Core.SignalFits; decide +kernel)⟩,
   ⟨onCore { core with qV := [⟨0x18, 0, 0, core.x, 0, 0⟩] }, 0, 0, ⟨by decide +kernel, by decide +kernel⟩, (by decide +kernel), (by decide +kernel), (by decide +kernel)⟩⟩

/-- What the clauses of NothingIssuesBehindBarrier ask can be met. -/
theorem met_NothingIssuesBehindBarrier :
    ∃ s : State, ∃ i : Instr, ∃ c : Fin 1536, issuerOf i = some c ∧ (s.core c.val).issuing = false :=
  ⟨onCore { core with seq := .ended }, .nop 0 0, 0, (by decide +kernel), (by decide +kernel)⟩

/-- What the clauses of IllegalInstructionFaultsItsContext ask can be met. -/
theorem met_IllegalInstructionFaultsItsContext :
    (∃ s : State, ∃ c : Fin 1536, ∃ id : Nat, ∃ w : BitVec 128, (s.core c.val).issuing = true ∧ s.ctxOf c.val = some id ∧
      opcodes.contains (w.toNat / 2 ^ 120) = false) ∧
    (∃ s : State, ∃ c : Fin 1536, ∃ id : Nat, ∃ w : InstrWord, (s.core c.val).issuing = true ∧ s.ctxOf c.val = some id ∧
      cLegal w = false) ∧
    (∃ s : State, ∃ c : Fin 1536, ∃ id : Nat, ∃ w : InstrWord, (s.core c.val).issuing = true ∧ s.ctxOf c.val = some id ∧
      s.branchLegal c.val w = false) ∧
    (∃ s : State, ∃ c : Fin 1536, ∃ id : Nat, ∃ w : InstrWord, (s.core c.val).issuing = true ∧ s.ctxOf c.val = some id ∧
      vLegal 0x30 w = false) :=
  ⟨⟨onCore core, 0, 7, 0xFF000000000000000000000000000000#128, (by decide +kernel), (by decide +kernel), (by decide +kernel)⟩,
   ⟨onCore core, 0, 7, iw [(48, 1)], (by decide +kernel), (by decide +kernel), (by decide +kernel)⟩,
   ⟨onCore core, 0, 7, iw [(0, 16)], (by decide +kernel), (by decide +kernel), (by decide +kernel)⟩,
   ⟨onCore core, 0, 7, iw [(32, 1)], (by decide +kernel), (by decide +kernel), (by decide +kernel)⟩⟩

/-- What the clauses of WaitOccupiesItsQueueUntilSatisfied ask can be met. -/
theorem met_WaitOccupiesItsQueueUntilSatisfied :
    (∃ s : State, ∃ c : Fin 1536, ∃ w : InstrWord, ∃ x : Context, (s.core c.val).issuing = true ∧ headerOk w = true ∧
      (s.core c.val).queue (engOf w) = [] ∧ (s.core c.val).NoTrapEnds ∧ (s.core c.val).noPark = none ∧ (s.ctxOf
      c.val).bind s.ctx? = some x ∧ x.preempt = none ∧ x.state = .running ∧ (s.core c.val).waitOk (s.issueEntry c.val
      0x18 w) = false) ∧
    (∃ s : State, ∃ c : Fin 1536, ∃ w : InstrWord, ∃ x : Context, (s.core c.val).issuing = true ∧ headerOk w = true ∧
      (s.core c.val).queue (engOf w) = [] ∧ (s.core c.val).NoTrapEnds ∧ (s.core c.val).noPark = none ∧ (s.ctxOf
      c.val).bind s.ctx? = some x ∧ x.preempt = none ∧ x.state = .running ∧ (s.core c.val).waitOk (s.issueEntry c.val
      0x18 w) = true ∧ (s.issued c.val 0x18 w).SignalFits w) :=
  ⟨⟨onCore core, 0, iw [(101, 7), (86, 1), (73, 1)], ctx, (by decide +kernel), (by decide +kernel), (by decide +kernel), (by decide +kernel), (by decide +kernel), (by decide +kernel), (by decide +kernel), (by decide +kernel), (by decide +kernel)⟩,
   ⟨onCore core, 0, iw [(86, 3)], ctx, (by decide +kernel), (by decide +kernel), (by decide +kernel), (by decide +kernel), (by decide +kernel), (by decide +kernel), (by decide +kernel), (by decide +kernel), (by decide +kernel), (by unfold Core.SignalFits; decide +kernel)⟩⟩

/-- What the clauses of HeldInstructionExecutesWhenFlagSuffices ask can be met. -/
theorem met_HeldInstructionExecutesWhenFlagSuffices :
    (∃ s : State, ∃ c : Fin 1536, ∃ q : QEntry, ∃ e : Engine, (s.core c.val).ctx.isSome = true ∧ (s.core
      c.val).NoTrapEnds ∧ (s.core c.val).waitOk q = true ∧ e ≠ .seq ∧ (s.core c.val).queue e = [q] ∧ q.op = 0x18 ∧
      (s.core c.val).seq = .running ∧ (((s.core c.val).takeWait q).setQueue e []).SignalFits q.w) ∧
    (∃ s : State, ∃ c : Fin 1536, ∃ q : QEntry, (s.core c.val).ctx.isSome = true ∧ (s.core c.val).NoTrapEnds ∧ (s.core
      c.val).waitOk q = true ∧ (s.core c.val).seq = .waitHdr q ∧ q.op = 0x00 ∧ ((s.core c.val).takeWait q).SignalFits
      q.w) :=
  ⟨⟨onCore { core with qV := [⟨0x18, iw [(101, 1)], 0, core.x, 0, 0⟩], f := flagSet core.f 0 1 }, 0, ⟨0x18, iw [(101, 1)], 0, core.x, 0, 0⟩, .vector, (by decide +kernel), (by decide +kernel), (by decide +kernel), (by decide +kernel), (by decide +kernel), (by decide +kernel), (by decide +kernel), (by unfold Core.SignalFits; decide +kernel)⟩,
   ⟨onCore { core with seq := .waitHdr ⟨0, iw [(101, 7)], 0, core.x, 0, 0⟩, f := flagSet core.f 0 7 }, 0, ⟨0, iw [(101, 7)], 0, core.x, 0, 0⟩, (by decide +kernel), (by decide +kernel), (by decide +kernel), (by decide +kernel), (by decide +kernel), (by unfold Core.SignalFits; decide +kernel)⟩⟩

/-- What the clauses of WaitmCompletesWhenWordCompares ask can be met. -/
theorem met_WaitmCompletesWhenWordCompares :
    (∃ s : State, ∃ c : Fin 1536, ∃ x : Context, ∃ e : Engine, ∃ q : QEntry, ∃ k : Core, ∃ p : Nat, ∃ n : Nat, ∃ v : W64,
      ∃ t, ∃ w : InstrWord, (s.ctxOf c.val).bind s.ctx? = some x ∧ x.preempt = none ∧ x.state = .running ∧ e ≠ .seq ∧ t =
      s.setCore c.val (k.setQueue e [q]) ∧ t.passOf c.val = some (p, n) ∧ t.waitmRead p q = .word v ∧ k.ctx = (s.core
      c.val).ctx ∧ k.ctx.isSome = true ∧ k.NoTrapEnds ∧ k.noPark = none ∧ q.op = 0x19 ∧ q.w = clearWait q.w ∧
      k.SignalFits q.w ∧ (k.seq = .running ∨ ∃ b, k.seq = .barrier b ∧ b.no = q.no ∧ b.op = 0x19) ∧ e = engOf w ∧
      s.IssuesTo c.val 0x19 w e ∧ waitmLegal w = true ∧ q = { s.issueEntry c.val 0x19 w with w := clearWait w } ∧ k =
      { s.issued c.val 0x19 w with seq := if lsdOf w = 0 then .running else .barrier (s.issueEntry c.val 0x19 w) } ∧
      wmHolds q v = true) ∧
    (∃ s : State, ∃ c : Fin 1536, ∃ x : Context, ∃ e : Engine, ∃ q : QEntry, ∃ k : Core, ∃ p : Nat, ∃ n : Nat, ∃ v : W64,
      ∃ t, ∃ w : InstrWord, (s.ctxOf c.val).bind s.ctx? = some x ∧ x.preempt = none ∧ x.state = .running ∧ e ≠ .seq ∧ t =
      s.setCore c.val (k.setQueue e [q]) ∧ t.passOf c.val = some (p, n) ∧ t.waitmRead p q = .word v ∧ k.ctx = (s.core
      c.val).ctx ∧ k.ctx.isSome = true ∧ k.NoTrapEnds ∧ k.noPark = none ∧ q.op = 0x19 ∧ q.w = clearWait q.w ∧
      k.SignalFits q.w ∧ (k.seq = .running ∨ ∃ b, k.seq = .barrier b ∧ b.no = q.no ∧ b.op = 0x19) ∧ e = engOf w ∧
      s.IssuesTo c.val 0x19 w e ∧ waitmLegal w = true ∧ q = { s.issueEntry c.val 0x19 w with w := clearWait w } ∧ k =
      { s.issued c.val 0x19 w with seq := if lsdOf w = 0 then .running else .barrier (s.issueEntry c.val 0x19 w) } ∧
      wmHolds q v = false) :=
  ⟨⟨onCore core, 0, ctx, .vector, ⟨0x19, iw [(86, 1), (71, 0), (0, 0x3FFFFFF8)], 0, core.x, 0, 1000000000⟩, { core with pc := 1, issueNo := 1 }, 0, 0, 0, _, iw [(86, 1), (71, 0), (0, 0x3FFFFFF8)], (by decide +kernel), (by decide +kernel), (by decide +kernel), (by decide +kernel), rfl, (by decide +kernel), (by decide +kernel), (by decide +kernel), (by decide +kernel), (by decide +kernel), (by decide +kernel), (by decide +kernel), (by decide +kernel), (by unfold Core.SignalFits; decide +kernel), (Or.inl rfl), (by decide +kernel), ⟨⟨by decide +kernel, by decide +kernel⟩, by decide +kernel⟩, (by decide +kernel), (by decide +kernel), (by decide +kernel), (by decide +kernel)⟩,
   ⟨onCore core, 0, ctx, .vector, ⟨0x19, iw [(86, 1), (71, 1), (0, 0x3FFFFFF8)], 0, core.x, 0, 1000000000⟩, { core with pc := 1, issueNo := 1 }, 0, 0, 0, _, iw [(86, 1), (71, 1), (0, 0x3FFFFFF8)], (by decide +kernel), (by decide +kernel), (by decide +kernel), (by decide +kernel), rfl, (by decide +kernel), (by decide +kernel), (by decide +kernel), (by decide +kernel), (by decide +kernel), (by decide +kernel), (by decide +kernel), (by decide +kernel), (by unfold Core.SignalFits; decide +kernel), (Or.inl rfl), (by decide +kernel), ⟨⟨by decide +kernel, by decide +kernel⟩, by decide +kernel⟩, (by decide +kernel), (by decide +kernel), (by decide +kernel), (by decide +kernel)⟩⟩

/-- What the clauses of FsigSignalsAfterEarlierMoves ask can be met. -/
theorem met_FsigSignalsAfterEarlierMoves :
    (∃ s : State, ∃ c : Fin 1536, ∃ w : InstrWord, ∃ id : Nat, ∃ x : Context, ∃ t, s.IssuesTo c.val 0x1C w .dma ∧
      headerOk w = true ∧ s.ctxOf c.val = some id ∧ s.ctx? id = some x ∧ x.cores.contains (fld w 32 11) = true ∧ ((s.core
      c.val).dma.all (fun t => s.xferDest t != some (1, fld w 32 11))) = true ∧ ((s.executing c.val 0x1C w).core (fld w
      32 11)).ctx = (s.core c.val).ctx ∧ ((s.executing c.val 0x1C w).core (fld w 32 11)).flagOf (fld w 27 5) < 65535 ∧ t
      = (s.executing c.val 0x1C w).modCore (fld w 32 11) (fun k =>
      { k with f := flagSet k.f (fld w 27 5) (k.flagOf (fld w 27 5) + 1), flagAt := tabPut k.flagAt (fld w 27 5) s.now })
      ∧ (t.core c.val).SignalFits w) ∧
    (∃ s : State, ∃ c : Fin 1536, ∃ w : InstrWord, ∃ id : Nat, ∃ x : Context, s.IssuesTo c.val 0x1C w .dma ∧ headerOk w =
      true ∧ s.ctxOf c.val = some id ∧ s.ctx? id = some x ∧ x.cores.contains (fld w 32 11) = true ∧ ((s.core
      c.val).dma.all (fun t => s.xferDest t != some (1, fld w 32 11))) = false) :=
  ⟨⟨onCore core, 0, 0, 7, ctx, _, ⟨⟨by decide +kernel, by decide +kernel⟩, by decide +kernel⟩, (by decide +kernel), (by decide +kernel), (by decide +kernel), (by decide +kernel), (by decide +kernel), (by decide +kernel), (by decide +kernel), rfl, (by unfold Core.SignalFits; decide +kernel)⟩,
   ⟨{ withTensors core with cores := [(0, { core with dma := [⟨0, 0, ⟨0x60, 0, 0, core.x, 0, 0⟩, tensor 0x1000 ++ tensor 0x4000 ++ tensor 0, .localMove, 0⟩] })] }, 0, 0, 7, ctx, ⟨⟨by decide +kernel, by decide +kernel⟩, by decide +kernel⟩, (by decide +kernel), (by decide +kernel), (by decide +kernel), (by decide +kernel), (by decide +kernel)⟩⟩

/-- What the clauses of VectorArithmeticWritesEnabledLanes ask can be met. -/
theorem met_VectorArithmeticWritesEnabledLanes :
    (∃ s : State, ∃ c : Fin 1536, ∃ w : InstrWord, s.IssuesTo c.val 0x30 w .vector ∧ vLegal 0x30 w = true ∧ ((fun w =>
      !isCompare 0x30 w && vVop w != 6)) w = true ∧ (s.issued c.val 0x30 w).SignalFits w) ∧
    (∃ s : State, ∃ c : Fin 1536, ∃ w : InstrWord, s.IssuesTo c.val 0x30 w .vector ∧ vLegal 0x30 w = true ∧ ((fun w =>
      vVop w == 6)) w = true ∧ (s.issued c.val 0x30 w).SignalFits w) ∧
    (∃ s : State, ∃ c : Fin 1536, ∃ w : InstrWord, s.IssuesTo c.val 0x31 w .vector ∧ vLegal 0x31 w = true ∧ ((fun w =>
      !isCompare 0x31 w && vVop w != 6)) w = true ∧ (s.issued c.val 0x31 w).SignalFits w) ∧
    (∃ s : State, ∃ c : Fin 1536, ∃ w : InstrWord, s.IssuesTo c.val 0x31 w .vector ∧ vLegal 0x31 w = true ∧ ((fun w =>
      vVop w == 6)) w = true ∧ (s.issued c.val 0x31 w).SignalFits w) ∧
    (∃ s : State, ∃ c : Fin 1536, ∃ w : InstrWord, s.IssuesTo c.val 0x32 w .vector ∧ vLegal 0x32 w = true ∧ ((fun _ =>
      true)) w = true ∧ (s.issued c.val 0x32 w).SignalFits w) ∧
    (∃ s : State, ∃ c : Fin 1536, ∃ w : InstrWord, s.IssuesTo c.val 0x33 w .vector ∧ vLegal 0x33 w = true ∧ ((fun _ =>
      true)) w = true ∧ (s.issued c.val 0x33 w).SignalFits w) ∧
    (∃ s : State, ∃ c : Fin 1536, ∃ w : InstrWord, s.IssuesTo c.val 0x34 w .vector ∧ vLegal 0x34 w = true ∧ ((fun _ =>
      true)) w = true ∧ (s.issued c.val 0x34 w).SignalFits w) ∧
    (∃ s : State, ∃ c : Fin 1536, ∃ w : InstrWord, s.IssuesTo c.val 0x36 w .vector ∧ vLegal 0x36 w = true ∧ ((fun _ =>
      true)) w = true ∧ (s.issued c.val 0x36 w).SignalFits w) :=
  ⟨⟨onCore core, 0, 0, ⟨⟨by decide +kernel, by decide +kernel⟩, by decide +kernel⟩, (by decide +kernel), (by decide +kernel), (by unfold Core.SignalFits; decide +kernel)⟩,
   ⟨onCore core, 0, iw [(80, 6), (48, 0x90)], ⟨⟨by decide +kernel, by decide +kernel⟩, by decide +kernel⟩, (by decide +kernel), (by decide +kernel), (by unfold Core.SignalFits; decide +kernel)⟩,
   ⟨onCore core, 0, 0, ⟨⟨by decide +kernel, by decide +kernel⟩, by decide +kernel⟩, (by decide +kernel), (by decide +kernel), (by unfold Core.SignalFits; decide +kernel)⟩,
   ⟨onCore core, 0, iw [(80, 6), (48, 0x90)], ⟨⟨by decide +kernel, by decide +kernel⟩, by decide +kernel⟩, (by decide +kernel), (by decide +kernel), (by unfold Core.SignalFits; decide +kernel)⟩,
   ⟨onCore core, 0, iw [(80, 7)], ⟨⟨by decide +kernel, by decide +kernel⟩, by decide +kernel⟩, (by decide +kernel), (by decide +kernel), (by unfold Core.SignalFits; decide +kernel)⟩,
   ⟨onCore core, 0, 0, ⟨⟨by decide +kernel, by decide +kernel⟩, by decide +kernel⟩, (by decide +kernel), (by decide +kernel), (by unfold Core.SignalFits; decide +kernel)⟩,
   ⟨onCore core, 0, iw [(80, 4)], ⟨⟨by decide +kernel, by decide +kernel⟩, by decide +kernel⟩, (by decide +kernel), (by decide +kernel), (by unfold Core.SignalFits; decide +kernel)⟩,
   ⟨onCore core, 0, iw [(72, 0x87), (0, 127)], ⟨⟨by decide +kernel, by decide +kernel⟩, by decide +kernel⟩, (by decide +kernel), (by decide +kernel), (by unfold Core.SignalFits; decide +kernel)⟩⟩

/-- What the clauses of VectorComparesReductionsAndCorrections ask can be met. -/
theorem met_VectorComparesReductionsAndCorrections :
    (∃ s : State, ∃ c : Fin 1536, ∃ w : InstrWord, s.IssuesTo c.val 0x30 w .vector ∧ vLegal 0x30 w = true ∧ isCompare
      0x30 w = true ∧ (s.issued c.val 0x30 w).SignalFits w) ∧
    (∃ s : State, ∃ c : Fin 1536, ∃ w : InstrWord, s.IssuesTo c.val 0x31 w .vector ∧ vLegal 0x31 w = true ∧ isCompare
      0x31 w = true ∧ (s.issued c.val 0x31 w).SignalFits w) ∧
    (∃ s : State, ∃ c : Fin 1536, ∃ w : InstrWord, s.IssuesTo c.val 0x35 w .vector ∧ vLegal 0x35 w = true ∧ (s.issued
      c.val 0x35 w).SignalFits w) ∧
    (∃ s : State, ∃ c : Fin 1536, ∃ w : InstrWord, ∃ t, ∃ b, ∃ p, ∃ n, ∃ wd, ∃ ad, ∃ cols, ∃ need, s.IssuesTo c.val 0x37
      w .vector ∧ vLegal 0x37 w = true ∧ t = s.executing c.val 0x37 w ∧ (s.issued c.val 0x37 w).SignalFits w ∧ b =
      t.descBytes c.val (fld w 0 13) ∧ t.passOf c.val = some (p, n) ∧ t.descOk c.val (fld w 0 13) 64 = true ∧ le b 0 2 <
      8192 ∧ le b 2 2 < 8192 ∧ le b 0x14 44 = 0 ∧ t.descOk c.val (le b 0 2) 64 = true ∧ t.descOk c.val (le b 2 2) 64 =
      true ∧ (Desc.parse (t.descBytes c.val (le b 0 2))).bind t.localDesc = some wd ∧ (Desc.parse (t.descBytes c.val (le
      b 2 2))).bind t.localDesc = some ad ∧ le b 4 4 + 8 ≤ wd.dim1 ∧ le b 8 4 + le b 0xC 4 ≤ wd.dim0 ∧ le b 0xC 4 ≤
      ad.dim0 ∧ cols = min 8 (ad.dim1 - le b 0x10 4) ∧ need = (List.range 8).flatMap (fun r => wd.ranges (wd.dim0 * (le b
      4 4 + r) + le b 8 4) (le b 0xC 4) wd.side) ++ (List.range cols).flatMap (fun j => ad.ranges (ad.dim0 * (le b 0x10 4
      + j)) (le b 0xC 4) ad.side) ∧ t.mayReadAll p need = true ∧ t.badRange need = none ∧ (List.range 8).all (fun r =>
      wd.escapesFit t.bus wd.side (le b 8 4) (le b 8 4 + le b 0xC 4) (le b 4 4 + r) 0) = true ∧ (List.range cols).all
      (fun j => ad.escapesFit t.bus ad.side 0 (le b 0xC 4) (le b 0x10 4 + j) 0) = true) :=
  ⟨⟨onCore core, 0, iw [(80, 7), (72, 0x90)], ⟨⟨by decide +kernel, by decide +kernel⟩, by decide +kernel⟩, (by decide +kernel), (by decide +kernel), (by unfold Core.SignalFits; decide +kernel)⟩,
   ⟨onCore core, 0, iw [(80, 9), (72, 0x93)], ⟨⟨by decide +kernel, by decide +kernel⟩, by decide +kernel⟩, (by decide +kernel), (by decide +kernel), (by unfold Core.SignalFits; decide +kernel)⟩,
   ⟨onCore core, 0, iw [(80, 2)], ⟨⟨by decide +kernel, by decide +kernel⟩, by decide +kernel⟩, (by decide +kernel), (by unfold Core.SignalFits; decide +kernel)⟩,
   ⟨withTensors core, 0, iw [(72, 0x80), (64, 0x80), (0, 1)], _, _, 0, 0, _, _, _, _, ⟨⟨by decide +kernel, by decide +kernel⟩, by decide +kernel⟩, (by decide +kernel), rfl, (by unfold Core.SignalFits; decide +kernel), rfl, (by decide +kernel), (by decide +kernel), (by decide +kernel), (by decide +kernel), (by decide +kernel), (by decide +kernel), (by decide +kernel), rfl, rfl, (by decide +kernel), (by decide +kernel), (by decide +kernel), rfl, rfl, (by decide +kernel), (by decide +kernel), (by decide +kernel), (by decide +kernel)⟩⟩

/-- What the clauses of LanesWrittenReadBackAlone ask can be met. -/
theorem met_LanesWrittenReadBackAlone :
    (∃ s : State, ∃ c : Fin 1536, ∃ w : InstrWord, ∃ f : Nat → W32 × Nat, ∃ t : State, selReg (vDst w) = true ∧ t =
      s.mapLanes c.val w f) ∧
    (∃ s : State, ∃ c : Fin 1536, ∃ w : InstrWord, ∃ f : Nat → W32 × Nat, ∃ t : State, ∃ sel, selReg (vDst w) = true ∧ t
      = s.mapLanes c.val w f ∧ selSrc sel = true ∧ sel ≠ vDst w) ∧
    (∃ s : State, ∃ c : Fin 1536, ∃ w : InstrWord, ∃ f : Nat → W32 × Nat, ∃ t : State, ∃ a, selReg (vDst w) = true ∧ t =
      s.mapLanes c.val w f ∧ (vDst w ≤ 0x7F → ¬ (rowAddrOf c.val (vDst w) ≤ a ∧ a < rowAddrOf c.val (vDst w) + 512))) ∧
    (∃ s : State, ∃ c : Fin 1536, ∃ w : InstrWord, ∃ f : Nat → W32 × Nat, ∃ t : State, selReg (vDst w) = true ∧ t =
      s.mapLanes c.val w f ∧ 0x7F < vDst w) ∧
    (∃ s : State, ∃ c : Fin 1536, ∃ w : InstrWord, ∃ f : Nat → W32 × Nat, ∃ t : State, ∃ n, selReg (vDst w) = true ∧ t =
      s.mapLanes c.val w f ∧ n ≠ c.val) :=
  ⟨⟨onCore core, 0, iw [(72, 0x87)], fun _ => (1, 0), _, (by decide +kernel), rfl⟩,
   ⟨onCore core, 0, iw [(72, 0x87)], fun _ => (1, 0), _, 0x88, (by decide +kernel), rfl, (by decide +kernel), (by decide +kernel)⟩,
   ⟨onCore core, 0, iw [(72, 0x7F)], fun _ => (1, 0), _, 0, (by decide +kernel), rfl, (by decide +kernel)⟩,
   ⟨onCore core, 0, iw [(72, 0x80)], fun _ => (1, 0), _, (by decide +kernel), rfl, (by decide +kernel)⟩,
   ⟨onCore core, 0, iw [(72, 0x80)], fun _ => (1, 0), _, 1, (by decide +kernel), rfl, (by decide +kernel)⟩⟩

/-- What the clauses of VectorLoadsAndStoresMoveElements ask can be met. -/
theorem met_VectorLoadsAndStoresMoveElements :
    (∃ s : State, ∃ c : Fin 1536, ∃ w : InstrWord, ∃ e : TqEntry, ∃ l : List TqEntry, s.IssuesTo c.val 0x40 w .vector ∧
      vmLegal 0x40 w = true ∧ (s.issued c.val 0x40 w).SignalFits w ∧ (s.core c.val).tq.filter (fun e => !e.gate) = e :: l
      ∧ (fld w 59 1 = 1 → l ≠ [])) ∧
    (∃ s : State, ∃ c : Fin 1536, ∃ w : InstrWord, ∃ t : State, ∃ d : Desc, ∃ p : Nat, ∃ n : Nat, ∃ lo : Nat, ∃ len, ∃
      need, ∃ mask, ∃ rs, lo = (xGet (s.core c.val).x (fld w 63 4)).toNat ∧ s.IssuesTo c.val 0x41 w .vector ∧ vmLegal
      0x41 w = true ∧ (s.issued c.val 0x41 w).SignalFits w ∧ t = s.executing c.val 0x41 w ∧ t.passOf c.val = some (p, n)
      ∧ t.descOk c.val (vmDesc w) 64 = true ∧ (Desc.parse (t.descBytes c.val (vmDesc w))).bind t.localDesc = some d ∧
      (d.vldRaw || d.loadAs == 0x01 || d.loadAs == 0xFF || d.loadAs == 0x00) = true ∧ len = (if d.loadAs = 0x01 then 256
      else 128) ∧ need = d.ranges lo len (fld w 56 1 == 1 && d.side) ∧ t.mayReadAll p need = true ∧ t.badRange need =
      none ∧ d.spanFits t.bus (fld w 56 1 == 1) lo len = true ∧ mask = (s.core c.val).maskOf (fld w 60 3) ∧ rs = vldLanes
      d t.bus w lo mask) ∧
    (∃ s : State, ∃ c : Fin 1536, ∃ w : InstrWord, ∃ t : State, ∃ d : Desc, ∃ p : Nat, ∃ n : Nat, ∃ lo : Nat, ∃ vs, ∃
      acc, ∃ u, lo = (xGet (s.core c.val).x (fld w 63 4)).toNat ∧ s.IssuesTo c.val 0x42 w .vector ∧ vmLegal 0x42 w = true
      ∧ t = s.executing c.val 0x42 w ∧ t.passOf c.val = some (p, n) ∧ t.descOk c.val (vmDesc w) 64 = true ∧ (Desc.parse
      (t.descBytes c.val (vmDesc w))).bind t.localDesc = some d ∧ (isMx d.fmt && decide (lo % 32 ≠ 0)) = false ∧ vs =
      vstValues w ((s.core c.val).maskOf (fld w 60 3)) (t.lanes c.val (vmReg w) 0) ∧ t.mayWriteAll p (d.ranges lo
      vs.length ((vstModes w).esc && d.side)) = true ∧ acc = convertStore d t.bus ((vstModes w).fromInt (fld w 47 2 == 2)
      d.fmt) s.freeCtr (s.core c.val).gen lo vs ∧
      t.refusedRun (runsOf (overlay t.busByte acc.writes.reverse)) = none ∧ u = (State.storeRuns { t with freeCtr := s.freeCtr + 1 }
      (runsOf (overlay t.busByte acc.writes.reverse))).modCore c.val (fun k => k.tally acc (tagOf
      (fld w 49 7))) ∧ (u.core c.val).SignalFits w ∧ acc.nan = false) ∧
    (∃ s : State, ∃ c : Fin 1536, ∃ w : InstrWord, ∃ t : State, ∃ d : Desc, ∃ p : Nat, ∃ n : Nat, ∃ lo : Nat, ∃ vs, ∃
      acc, ∃ u, lo = (xGet (s.core c.val).x (fld w 63 4)).toNat ∧ s.IssuesTo c.val 0x42 w .vector ∧ vmLegal 0x42 w = true
      ∧ t = s.executing c.val 0x42 w ∧ t.passOf c.val = some (p, n) ∧ t.descOk c.val (vmDesc w) 64 = true ∧ (Desc.parse
      (t.descBytes c.val (vmDesc w))).bind t.localDesc = some d ∧ (isMx d.fmt && decide (lo % 32 ≠ 0)) = false ∧ vs =
      vstValues w ((s.core c.val).maskOf (fld w 60 3)) (t.lanes c.val (vmReg w) 0) ∧ t.mayWriteAll p (d.ranges lo
      vs.length ((vstModes w).esc && d.side)) = true ∧ acc = convertStore d t.bus ((vstModes w).fromInt (fld w 47 2 == 2)
      d.fmt) s.freeCtr (s.core c.val).gen lo vs ∧
      t.refusedRun (runsOf (overlay t.busByte acc.writes.reverse)) = none ∧ u = (State.storeRuns { t with freeCtr := s.freeCtr + 1 }
      (runsOf (overlay t.busByte acc.writes.reverse))).modCore c.val (fun k => k.tally acc (tagOf
      (fld w 49 7))) ∧ (u.core c.val).SignalFits w ∧ acc.nan = true ∧ (u.core c.val).nanId.getLsbD 63 = true) ∧
    (∃ s : State, ∃ c : Fin 1536, ∃ w : InstrWord, ∃ t : State, ∃ d : Desc, ∃ p : Nat, ∃ n : Nat, ∃ lo : Nat, ∃ vs, ∃
      acc, ∃ u, ∃ id : Nat, ∃ x : Context, ∃ pc : BitVec 16, ∃ op : BitVec 16, lo = (xGet (s.core c.val).x (fld w 63
      4)).toNat ∧ s.IssuesTo c.val 0x42 w .vector ∧ vmLegal 0x42 w = true ∧ t = s.executing c.val 0x42 w ∧ t.passOf c.val
      = some (p, n) ∧ t.descOk c.val (vmDesc w) 64 = true ∧ (Desc.parse (t.descBytes c.val (vmDesc w))).bind t.localDesc
      = some d ∧ (isMx d.fmt && decide (lo % 32 ≠ 0)) = false ∧ vs = vstValues w ((s.core c.val).maskOf (fld w 60 3))
      (t.lanes c.val (vmReg w) 0) ∧ t.mayWriteAll p (d.ranges lo vs.length ((vstModes w).esc && d.side)) = true ∧ acc =
      convertStore d t.bus ((vstModes w).fromInt (fld w 47 2 == 2) d.fmt) s.freeCtr (s.core c.val).gen lo vs ∧
      t.refusedRun (runsOf (overlay t.busByte acc.writes.reverse)) = none ∧ u = (State.storeRuns { t with freeCtr := s.freeCtr + 1 }
      (runsOf (overlay t.busByte acc.writes.reverse))).modCore c.val (fun k => k.tally acc (tagOf (fld w 49 7))) ∧ (u.core
      c.val).SignalFits w ∧ acc.nan = true ∧ (u.core c.val).nanId.getLsbD 63 = false ∧ s.ctxOf c.val = some id ∧ s.ctx?
      id = some x ∧ (s.core c.val).gate = none ∧ (s.core c.val).runs = [] ∧ (s.core c.val).trapDue = none ∧ pc = (s.core
      c.val).pc ∧ op = opTagOf w) :=
  ⟨⟨onCore { core with tq := [⟨List.replicate 64 3, 0, 0, 0, false, false, 255, 0, 0, 0⟩, ⟨List.replicate 64 3, 0, 0, 0, false, false, 255, 0, 0, 0⟩] }, 0, iw [(80, 0x87), (59, 1)], ⟨List.replicate 64 3, 0, 0, 0, false, false, 255, 0, 0, 0⟩, [⟨List.replicate 64 3, 0, 0, 0, false, false, 255, 0, 0, 0⟩], ⟨⟨by decide +kernel, by decide +kernel⟩, by decide +kernel⟩, (by decide +kernel), (by unfold Core.SignalFits; decide +kernel), (by decide +kernel), (by decide +kernel)⟩,
   ⟨withTensors core, 0, iw [(80, 0x80)], _, tensorDesc 0x1000, 0, 0, 0, _, _, _, _, (by decide +kernel), ⟨⟨by decide +kernel, by decide +kernel⟩, by decide +kernel⟩, (by decide +kernel), (by unfold Core.SignalFits; decide +kernel), rfl, (by decide +kernel), (by decide +kernel), (by decide +kernel), (by decide +kernel), rfl, rfl, (by decide +kernel), (by decide +kernel), (by decide +kernel), rfl, rfl⟩,
   ⟨withTensors core, 0, iw [(80, 0x80), (67, 2)], _, tensorDesc 0x4000, 0, 0, 0, _, _, _, (by decide +kernel), ⟨⟨by decide +kernel, by decide +kernel⟩, by decide +kernel⟩, (by decide +kernel), rfl, (by decide +kernel), (by decide +kernel), (by decide +kernel), (by decide +kernel), rfl, (by decide +kernel), rfl, (State.refusedRun_none rfl rfl _), rfl, (by unfold Core.SignalFits; decide +kernel), (by decide +kernel)⟩,
   ⟨withTensors { core with v := Vector.replicate 8 (List.replicate 128 0x7FC00000), nanId := BitVec.ofNat 64 (2 ^ 63) }, 0, iw [(80, 0x80), (67, 2), (60, 4)], _, tensorDesc 0x4000, 0, 0, 0, _, _, _, (by decide +kernel), ⟨⟨by decide +kernel, by decide +kernel⟩, by decide +kernel⟩, (by decide +kernel), rfl, (by decide +kernel), (by decide +kernel), (by decide +kernel), (by decide +kernel), rfl, (by decide +kernel), rfl, (State.refusedRun_none rfl rfl _), rfl, (by unfold Core.SignalFits; decide +kernel), (by decide +kernel), (by decide +kernel)⟩,
   ⟨withTensors { core with v := Vector.replicate 8 (List.replicate 128 0x7FC00000) }, 0, iw [(80, 0x80), (67, 2), (60, 4)], _, tensorDesc 0x4000, 0, 0, 0, _, _, _, 7, ctx, _, _, (by decide +kernel), ⟨⟨by decide +kernel, by decide +kernel⟩, by decide +kernel⟩, (by decide +kernel), rfl, (by decide +kernel), (by decide +kernel), (by decide +kernel), (by decide +kernel), rfl, (by decide +kernel), rfl, (State.refusedRun_none rfl rfl _), rfl, (by unfold Core.SignalFits; decide +kernel), (by decide +kernel), (by decide +kernel), (by decide +kernel), (by decide +kernel), (by decide +kernel), (by decide +kernel), (by decide +kernel), rfl, rfl⟩⟩

/-- What the clauses of MatrixInstructionStartsItsRun ask can be met. -/
theorem met_MatrixInstructionStartsItsRun :
    (∃ s : State, ∃ c : Fin 1536, ∃ w : InstrWord, ∃ t, ∃ wb, ∃ ab, ∃ wd, ∃ ad, ∃ p, ∃ n, s.IssuesTo c.val 0x20 w .matrix
      ∧ headerOk w = true ∧ fld w 16 7 = 0 ∧ 1 ≤ mmPasses w ∧ mmGroupOk w = true ∧ (s.core c.val).mmulBlocked w = false ∧
      t = s.executing c.val 0x20 w ∧ wb = t.descBytes c.val (mmWd w) ∧ ab = t.descBytes c.val (mmAd w) ∧ t.descOk c.val
      (mmWd w) 64 = true ∧ t.descOk c.val (mmAd w) 64 = true ∧ t.passOf c.val = some (p, n) ∧ (Desc.parse wb).bind
      t.localDesc = some wd ∧ (Desc.parse ab).bind t.localDesc = some ad ∧ t.mmulFault c.val p (s.issueEntry c.val 0x20
      w) wd ad = 0 ∧ t.badRange (wd.passRanges (s.issueEntry c.val 0x20 w) wd.packing 0 ++ wd.passRanges (s.issueEntry
      c.val 0x20 w) wd.packing 1) = none) ∧
    (∃ s : State, ∃ c : Fin 1536, ∃ r, (s.core c.val).runs.find? (fun v => v.q.no == r.q.no) = some r ∧ mmPasses r.q.w ≤
      r.pass ∧ (s.core c.val).finished.all (fun f => f.entry.run != r.q.no) = true ∧ (s.core c.val).qM = [] ∧ (s.core
      c.val).seq = .running ∧ (s.core c.val).trapDue = none ∧ (s.core c.val).ctx.isSome = true ∧ (s.core
      c.val).SignalFits r.q.w) :=
  ⟨⟨withTensors core, 0, iw [(75, 0), (62, 2), (42, 1), (34, 2), (31, 1), (30, 1)], _, _, _, tensorDesc 0x1000, tensorDesc 0x4000, 0, 0, ⟨⟨by decide +kernel, by decide +kernel⟩, by decide +kernel⟩, (by decide +kernel), (by decide +kernel), (by decide +kernel), (by decide +kernel), (by decide +kernel), rfl, rfl, rfl, (by decide +kernel), (by decide +kernel), (by decide +kernel), (by decide +kernel), (by decide +kernel), (by decide +kernel), (by decide +kernel)⟩,
   ⟨onCore { core with runs := [(⟨⟨0x20, iw [(75, 0), (62, 2), (42, 1), (34, 2), (31, 1), (30, 1)], 0, core.x, 5, 0⟩, tensor 0x1000, tensor 0x4000, 1, 0, false, [], []⟩ : MmulRun)] }, 0, ((⟨⟨0x20, iw [(75, 0), (62, 2), (42, 1), (34, 2), (31, 1), (30, 1)], 0, core.x, 5, 0⟩, tensor 0x1000, tensor 0x4000, 1, 0, false, [], []⟩ : MmulRun) : MmulRun), (by decide +kernel), (by decide +kernel), (by decide +kernel), (by decide +kernel), (by decide +kernel), (by decide +kernel), (by decide +kernel), (by unfold Core.SignalFits; decide +kernel)⟩⟩

/-- What the clauses of MatrixPassUpdatesEveryEntry ask can be met. -/
theorem met_MatrixPassUpdatesEveryEntry :
    ∃ s : State, ∃ u : State, ∃ c : Fin 1536, ∃ no : Nat, ∃ r : MmulRun, ∃ wd : Desc, ∃ ad : Desc, ∃ cls : TileClass, u =
      s.countStall c.val ∧ (u.core c.val).runs.find? (fun v => v.q.no == no) = some r ∧ r.pass < mmPasses r.q.w ∧ (u.core
      c.val).stalled r = false ∧ (Desc.parse r.wd).bind u.localDesc = some wd ∧ (Desc.parse r.ad).bind u.localDesc = some
      ad ∧ tileClass wd.eff = some cls ∧ u.badRange (wd.passRanges r.q wd.packing (r.pass + 2) ++ (List.range (mmBt
      r.q.w)).flatMap (fun e => ad.ranges (ad.dim0 * (mmEntry r.q + e) + 8 * cls.p * r.pass) (8 * cls.p) false)) = none ∧
      (u.core c.val).qM = [] ∧ (u.core c.val).seq = .running ∧ (u.core c.val).NoTrapEnds :=
  ⟨{ withTensors core with cores := [(0, { core with runs := [(⟨⟨0x20, iw [(75, 0), (62, 2), (42, 1), (34, 2), (31, 1), (30, 1)], 0, core.x, 5, 0⟩, tensor 0x1000, tensor 0x4000, 0, 0, false, [], []⟩ : MmulRun)] })] }, _, 0, 5, (⟨⟨0x20, iw [(75, 0), (62, 2), (42, 1), (34, 2), (31, 1), (30, 1)], 0, core.x, 5, 0⟩, tensor 0x1000, tensor 0x4000, 0, 0, false, [], []⟩ : MmulRun), tensorDesc 0x1000, tensorDesc 0x4000, .f16, rfl, (by decide +kernel), (by decide +kernel), (by decide +kernel), (by decide +kernel), (by decide +kernel), (by decide +kernel), (by decide +kernel), (by decide +kernel), (by decide +kernel), (by decide +kernel)⟩

/-- What the clauses of FinishedBlockEntersTileQueue ask can be met. -/
theorem met_FinishedBlockEntersTileQueue :
    (∃ s : State, ∃ c : Fin 1536, ∃ t : State, t = s.countStall c.val ∧ (s.core c.val).gate = none ∧ (s.core c.val).qV =
      [] ∧ (s.core c.val).seq = .running ∧ (s.core c.val).trapDue = none ∧ (s.core c.val).finished = []) ∧
    (∃ s : State, ∃ c : Fin 1536, ∃ residue : Bool, ∃ t : State, ∃ f : FinBlock, ∃ l : List FinBlock, t = s.countStall
      c.val ∧ (s.core c.val).gate = none ∧ (s.core c.val).qV = [] ∧ (s.core c.val).seq = .running ∧ (s.core
      c.val).trapDue = none ∧ (s.core c.val).finished = f :: l ∧ (residue && f.entry.isInt) = false ∧ 32 ≤ (s.core
      c.val).tq.length) ∧
    (∃ s : State, ∃ c : Fin 1536, ∃ f : FinBlock, ∃ l : List FinBlock, ∃ residue : Bool, ∃ t, (s.core c.val).finished = f
      :: l ∧ (residue && f.entry.isInt) = false ∧ (s.core c.val).tq.length < 32 ∧ f.entry.hasNan = false ∧ (s.core
      c.val).gate = none ∧ (s.core c.val).qV = [] ∧ (s.core c.val).seq = .running ∧ (s.core c.val).trapDue = none ∧ t =
      s.countStall c.val ∧ (s.core c.val).stallCycles s.time = 0) :=
  ⟨⟨onCore core, 0, _, rfl, (by decide +kernel), (by decide +kernel), (by decide +kernel), (by decide +kernel), (by decide +kernel)⟩,
   ⟨onCore { core with finished := [⟨block, 2, 0⟩], tq := block :: fullQueue }, 0, false, _, ⟨block, 2, 0⟩, [], rfl, (by decide +kernel), (by decide +kernel), (by decide +kernel), (by decide +kernel), (by decide +kernel), (by decide +kernel), (by decide +kernel)⟩,
   ⟨onCore { core with finished := [⟨block, 2, 0⟩], tq := fullQueue }, 0, ⟨block, 2, 0⟩, [], false, _, (by decide +kernel), (by decide +kernel), (by decide +kernel), (by decide +kernel), (by decide +kernel), (by decide +kernel), (by decide +kernel), (by decide +kernel), rfl, (by decide +kernel)⟩⟩

/-- What the clauses of GateSlotsLoadAndGateRunsComplete ask can be met. -/
theorem met_GateSlotsLoadAndGateRunsComplete :
    (∃ s : State, ∃ c : Fin 1536, ∃ w : InstrWord, ∃ t, ∃ ws, s.IssuesTo c.val 0x50 w .gate ∧ gcfgLegal w = true ∧
      (s.core c.val).gate = none ∧ (s.issued c.val 0x50 w).SignalFits w ∧ t = s.executing c.val 0x50 w ∧ t.scratchOk
      c.val (gcfgAddr w) (8 * gcfgStages w) = true ∧ t.good (coreWin c.val + gcfgAddr w) (8 * gcfgStages w) = true ∧ ws =
      (List.range (gcfgStages w)).map (fun k => BitVec.ofNat 64 (t.readNat (coreWin c.val + gcfgAddr w + 8 * k) 8)) ∧
      ws.all stageOk = true) ∧
    (∃ s : State, ∃ c : Fin 1536, ∃ w : InstrWord, ∃ t, ∃ d, s.IssuesTo c.val 0x51 w .gate ∧ grunLegal w = true ∧ (s.core
      c.val).gate = none ∧ t = s.executing c.val 0x51 w ∧ ((s.core c.val).slots.get (Fin.ofNat 8 (grunSlot w))) ≠ [] ∧
      t.scratchOk c.val (64 * grunDesc w) 128 = true ∧ GateDesc.parse (t.read (coreWin c.val + 64 * grunDesc w) 128) =
      some d ∧ (s.core c.val).tq.find? (·.gate) = none) ∧
    (∃ s : State, ∃ c : Fin 1536, ∃ g, (s.core c.val).gate = some g ∧ g.left = 0 ∧ (s.core c.val).trapDue = none ∧
      (s.core c.val).qG = [] ∧ (s.core c.val).seq = .running ∧ (s.core c.val).ctx.isSome = true ∧ (s.core
      c.val).SignalFits g.q.w) :=
  ⟨⟨onCore core, 0, iw [(85, 7), (81, 12), (66, 0x7FF0)], _, _, ⟨⟨by decide +kernel, by decide +kernel⟩, by decide +kernel⟩, (by decide +kernel), (by decide +kernel), (by unfold Core.SignalFits; decide +kernel), rfl, (by decide +kernel), (by decide +kernel), rfl, (by decide +kernel)⟩,
   ⟨onCore { core with slots := Vector.replicate 8 [0] }, 0, iw [(85, 7), (73, 4095), (60, 0x1FFE)], _, (⟨⟨0, 0, 0, 0, 0⟩, ⟨0, 0, 0, 0, 0⟩, 0, 0, 0, ⟨0, 0, 0, 0, 0⟩, ⟨0, 0, 0, 0, 0⟩⟩ : GateDesc), ⟨⟨by decide +kernel, by decide +kernel⟩, by decide +kernel⟩, (by decide +kernel), (by decide +kernel), rfl, (by decide +kernel), (by decide +kernel), (by decide +kernel), (by decide +kernel)⟩,
   ⟨onCore { core with gate := some ⟨⟨0x51, 0, 0, core.x, 0, 0⟩, [], 0, [], 0⟩ }, 0, (⟨⟨0x51, 0, 0, core.x, 0, 0⟩, [], 0, [], 0⟩ : GateRun), (by decide +kernel), (by decide +kernel), (by decide +kernel), (by decide +kernel), (by decide +kernel), (by decide +kernel), (by unfold Core.SignalFits; decide +kernel)⟩⟩

/-- What the last clause of MovesStartAndLand asks can be met. -/
theorem met_MovesStartAndLand_landing :
    (∃ s : State, ∃ c : Fin 1536, ∃ x, ∃ la, ∃ lb, ∃ a, ∃ b, ∃ acc, ∃ u, ∃ k : Nat, ∃ n : Nat, ∃ m : Nat, ∃ y : State, ∃
      z : State, x.phase = .localMove ∧ (s.core c.val).dma.find? (fun t => t.slot == x.slot) = some x ∧ (s.ctxOf
      c.val).isSome = true ∧ s.behind c.val x = false ∧ dmDescs x.q x.desc = some (a, b) ∧ s.localDesc a = some la ∧
      s.localDesc b = some lb ∧ s.badRange (la.allRanges ((dmModes x.q.w).esc && la.side)) = none ∧ acc = moveAcc x.q la
      lb s.bus s.bus s.freeCtr (s.core c.val).gen ∧ acc.nan = false ∧ (s.core c.val).qD = [] ∧ (s.core c.val).seq =
      .running ∧ (s.core c.val).NoTrapEnds ∧
      s.refusedRun (runsOf (overlay s.busByte acc.writes.reverse)) = none ∧ u = (State.storeRuns { s with freeCtr := s.freeCtr + 1 }
      (runsOf (overlay s.busByte acc.writes.reverse))).modCore c.val (fun k =>
      { k.tally acc (tagOf (fld x.q.w 44 7)) with dma := k.dma.filter (fun v => v.slot != x.slot) }) ∧ k = dmDfcore x.q.w
      ∧ n = dmDfflag x.q.w ∧ (dmDfen x.q.w = true → (u.core k).ctx = (s.core c.val).ctx ∧ (u.core k).flagOf n < 65535) ∧
      y = (if dmDfen x.q.w then u.modCore k (fun v =>
      { v with f := flagSet v.f n (v.flagOf n + 1), flagAt := tabPut v.flagAt n s.now }) else u) ∧ (dmFw x.q.w = true →
      ((s.ctxOf c.val).bind s.ctx?).isSome = true ∧ s.localAddr (le x.desc 128 8) = some m ∧
      y.refusedRun [(m, slice x.desc 136 8)] = none) ∧ z = (if dmFw x.q.w then
      y.busWrite m (slice x.desc 136 8) else y) ∧ (z.core c.val).SignalFits x.q.w) :=
  ⟨{ withTensors core with cores := [(0, { core with dma := [(⟨3, 0, ⟨0x60, iw [(75, 0), (62, 2)], 0, core.x, 0, 0⟩, tensor 0x1000 ++ tensor 0x4000 ++ zeros 64, .localMove, 0⟩ : DmaXfer)] })] }, 0, (⟨3, 0, ⟨0x60, iw [(75, 0), (62, 2)], 0, core.x, 0, 0⟩, tensor 0x1000 ++ tensor 0x4000 ++ zeros 64, .localMove, 0⟩ : DmaXfer), tensorDesc 0x1000, tensorDesc 0x4000, tensorDesc 0x1000, tensorDesc 0x4000, _, _, _, _, 0, _, _, (by decide +kernel), (by decide +kernel), (by decide +kernel), (by decide +kernel), (by decide +kernel), (by decide +kernel), (by decide +kernel), (by decide +kernel), rfl, (by decide +kernel), (by decide +kernel), (by decide +kernel), (by decide +kernel), (State.refusedRun_none rfl rfl _), rfl, rfl, rfl, (by decide +kernel), rfl, (fun h => absurd h (by decide +kernel)), rfl, (by unfold Core.SignalFits; decide +kernel)⟩

/-- What the clauses of MovesStartAndLand ask can be met. -/
theorem met_MovesStartAndLand :
    (∃ s : State, ∃ c : Fin 1536, ∃ w, ∃ t, ∃ desc, ∃ a, ∃ b, ∃ la, ∃ lb, ∃ p, ∃ n, ∃ slot, s.IssuesTo c.val 0x60 w .dma
      ∧ dmovLegal w = true ∧ t = s.executing c.val 0x60 w ∧ desc = t.descBytes c.val (dmSd w) ++ t.descBytes c.val (dmDd
      w) ++ t.descBytes c.val (dmDd w + 1) ∧ t.descOk c.val (dmSd w) 64 = true ∧ t.descOk c.val (dmDd w) (if dmFw w then
      128 else 64) = true ∧ t.passOf c.val = some (p, n) ∧ s.freeSlot c.val = some slot ∧ dmDescs (s.issueEntry c.val
      0x60 w) desc = some (a, b) ∧ (dmDfen w = true → t.inContext c.val (dmDfcore w) = true) ∧ a.count = b.count ∧
      b.zeroStride = false ∧ (dmFw w = true → le desc 144 48 = 0 ∧ ∃ v : Nat, t.localAddr (le desc 128 8) = some v ∧
      t.mayWrite p v 8 = true ∧ t.isRemote (le desc 128 8) = false) ∧ t.isRemote a.addr = false ∧ t.isRemote b.addr =
      false ∧ t.localDesc a = some la ∧ t.localDesc b = some lb ∧ t.mayReadAll p (la.allRanges ((dmModes w).esc &&
      la.side)) = true ∧ t.mayWriteAll p (lb.allRanges ((dmModes w).esc && lb.side)) = true ∧ sourceFits la t.bus
      (dmModes w).esc = true) ∧
    (∃ s : State, ∃ c : Fin 1536, ∃ w, ∃ t, ∃ desc, ∃ a, ∃ b, ∃ la, ∃ p, ∃ n, ∃ slot, ∃ qn, ∃ q, s.IssuesTo c.val 0x60 w
      .dma ∧ dmovLegal w = true ∧ t = s.executing c.val 0x60 w ∧ desc = t.descBytes c.val (dmSd w) ++ t.descBytes c.val
      (dmDd w) ++ t.descBytes c.val (dmDd w + 1) ∧ t.descOk c.val (dmSd w) 64 = true ∧ t.descOk c.val (dmDd w) 64 = true
      ∧ dmFw w = false ∧ t.passOf c.val = some (p, n) ∧ s.freeSlot c.val = some slot ∧ dmDescs (s.issueEntry c.val 0x60
      w) desc = some (a, b) ∧ (dmDfen w = true → t.inContext c.val (dmDfcore w) = true) ∧ a.count = b.count ∧
      b.zeroStride = false ∧ t.isRemote a.addr = false ∧ t.isRemote b.addr = true ∧ t.localDesc a = some la ∧ t.qpFor p
      (b.addr / 2 ^ 51) = some (qn, q) ∧ t.mayReadAll p (la.allRanges ((dmModes w).esc && la.side)) = true ∧ sourceFits
      la t.bus (dmModes w).esc = true ∧ t.badRange (la.allRanges ((dmModes w).esc && la.side)) = none ∧ b.paramRanges =
      [] ∧ (moveAcc (s.issueEntry c.val 0x60 w) la b t.bus (fun _ n => zeros n) s.freeCtr (s.core c.val).gen).nan =
      false) ∧
    (∃ s : State, ∃ c : Fin 1536, ∃ w, ∃ t, ∃ desc, ∃ a, ∃ b, ∃ la, ∃ p, ∃ n, ∃ slot, ∃ qn, ∃ q, s.IssuesTo c.val 0x60 w
      .dma ∧ dmovLegal w = true ∧ t = s.executing c.val 0x60 w ∧ desc = t.descBytes c.val (dmSd w) ++ t.descBytes c.val
      (dmDd w) ++ t.descBytes c.val (dmDd w + 1) ∧ t.descOk c.val (dmSd w) 64 = true ∧ t.descOk c.val (dmDd w) 64 = true
      ∧ dmFw w = false ∧ t.passOf c.val = some (p, n) ∧ s.freeSlot c.val = some slot ∧ dmDescs (s.issueEntry c.val 0x60
      w) desc = some (a, b) ∧ (dmDfen w = true → t.inContext c.val (dmDfcore w) = true) ∧ a.count = b.count ∧
      b.zeroStride = false ∧ t.isRemote a.addr = true ∧ t.isRemote b.addr = false ∧ t.localDesc b = some la ∧ t.qpFor p
      (a.addr / 2 ^ 51) = some (qn, q) ∧ t.mayWriteAll p (la.allRanges ((dmModes w).esc && la.side)) = true ∧ a.allRanges
      ((dmModes w).esc && a.side) ≠ [] ∧ (∀ r ∈ a.allRanges ((dmModes w).esc && a.side), r.2 ≠ 0)) ∧
    (∃ s : State, ∃ c : Fin 1536, ∃ w : InstrWord, ∃ t : State, (s.core c.val).issuing = true ∧ exec (.dmov c w .clean) s
      = .next t) ∧
    (∃ s : State, ∃ c : Fin 1536, ∃ x, ∃ la, ∃ lb, ∃ a, ∃ b, ∃ acc, ∃ u, ∃ k : Nat, ∃ n : Nat, ∃ m : Nat, ∃ y : State, ∃
      z : State, x.phase = .localMove ∧ (s.core c.val).dma.find? (fun t => t.slot == x.slot) = some x ∧ (s.ctxOf
      c.val).isSome = true ∧ s.behind c.val x = false ∧ dmDescs x.q x.desc = some (a, b) ∧ s.localDesc a = some la ∧
      s.localDesc b = some lb ∧ s.badRange (la.allRanges ((dmModes x.q.w).esc && la.side)) = none ∧ acc = moveAcc x.q la
      lb s.bus s.bus s.freeCtr (s.core c.val).gen ∧ acc.nan = false ∧ (s.core c.val).qD = [] ∧ (s.core c.val).seq =
      .running ∧ (s.core c.val).NoTrapEnds ∧
      s.refusedRun (runsOf (overlay s.busByte acc.writes.reverse)) = none ∧ u = (State.storeRuns { s with freeCtr := s.freeCtr + 1 }
      (runsOf (overlay s.busByte acc.writes.reverse))).modCore c.val (fun k =>
      { k.tally acc (tagOf (fld x.q.w 44 7)) with dma := k.dma.filter (fun v => v.slot != x.slot) }) ∧ k = dmDfcore x.q.w
      ∧ n = dmDfflag x.q.w ∧ (dmDfen x.q.w = true → (u.core k).ctx = (s.core c.val).ctx ∧ (u.core k).flagOf n < 65535) ∧
      y = (if dmDfen x.q.w then u.modCore k (fun v =>
      { v with f := flagSet v.f n (v.flagOf n + 1), flagAt := tabPut v.flagAt n s.now }) else u) ∧ (dmFw x.q.w = true →
      ((s.ctxOf c.val).bind s.ctx?).isSome = true ∧ s.localAddr (le x.desc 128 8) = some m ∧
      y.refusedRun [(m, slice x.desc 136 8)] = none) ∧ z = (if dmFw x.q.w then
      y.busWrite m (slice x.desc 136 8) else y) ∧ (z.core c.val).SignalFits x.q.w) :=
  ⟨⟨withTensors core, 0, iw [(75, 0), (62, 2)], _, _, tensorDesc 0x1000, tensorDesc 0x4000, tensorDesc 0x1000, tensorDesc 0x4000, 0, 0, 0, ⟨⟨by decide +kernel, by decide +kernel⟩, by decide +kernel⟩, (by decide +kernel), rfl, rfl, (by decide +kernel), (by decide +kernel), (by decide +kernel), (by decide +kernel), (by decide +kernel), (by decide +kernel), (by decide +kernel), (by decide +kernel), (by decide +kernel), (by decide +kernel), (by decide +kernel), (by decide +kernel), (by decide +kernel), (by decide +kernel), (by decide +kernel), (by decide +kernel)⟩,
   ⟨withQp ((withTensors core).writeRaw (coreWin 0 + 128) (tensor (2 ^ 51 + 0x4000))) 0, 0, iw [(75, 0), (62, 2)], _, _, tensorDesc 0x1000, tensorDesc (2 ^ 51 + 0x4000), tensorDesc 0x1000, 0, 0, 0, 0, qp 0, ⟨⟨by decide +kernel, by decide +kernel⟩, by decide +kernel⟩, (by decide +kernel), rfl, rfl, (by decide +kernel), (by decide +kernel), (by decide +kernel), (by decide +kernel), (by decide +kernel), (by decide +kernel), (by decide +kernel), (by decide +kernel), (by decide +kernel), (by decide +kernel), (by decide +kernel), (by decide +kernel), (by decide +kernel), (by decide +kernel), (by decide +kernel), (by decide +kernel), (by decide +kernel), (by decide +kernel)⟩,
   ⟨withQp ((withTensors core).writeRaw (coreWin 0) (tensor (2 ^ 51 + 0x1000))) 0, 0, iw [(75, 0), (62, 2)], _, _, tensorDesc (2 ^ 51 + 0x1000), tensorDesc 0x4000, tensorDesc 0x4000, 0, 0, 0, 0, qp 0, ⟨⟨by decide +kernel, by decide +kernel⟩, by decide +kernel⟩, (by decide +kernel), rfl, rfl, (by decide +kernel), (by decide +kernel), (by decide +kernel), (by decide +kernel), (by decide +kernel), (by decide +kernel), (by decide +kernel), (by decide +kernel), (by decide +kernel), (by decide +kernel), (by decide +kernel), (by decide +kernel), (by decide +kernel), (by decide +kernel), (by decide +kernel), (by decide +kernel)⟩,
   ⟨withTensors core, 0, iw [(75, 0), (62, 2)], _, (by decide +kernel), rfl⟩,
   met_MovesStartAndLand_landing⟩

/-- What the clauses of PreemptionParksAndResumes ask can be met. -/
theorem met_PreemptionParksAndResumes :
    (∃ s : State, ∃ id : BitVec 16, (s.ctx? id.toNat = none ∨ (∃ x : Context, s.ctx? id.toNat = some x ∧ (x.umber = false
      ∨ x.state ≠ .running ∨ x.preempt.isSome = true)))) ∧
    (∃ s : State, ∃ id : BitVec 16, (s.ctx? id.toNat = none ∨ (∃ x : Context, s.ctx? id.toNat = some x ∧ (x.state =
      .running ∨ (∃ v ∈ x.savedCores, (s.core v.1).ctx.isSome = true ∨ v.1 ∈ s.spares.lost ∨ (x.state = .parked ∧
      s.remoteDone x.part.val v.2 = false)))))) ∧
    (∃ s : State, ∃ id : BitVec 16, (s.ctx? id.toNat = none ∨ (∃ x : Context, s.ctx? id.toNat = some x ∧ (x.preempt =
      none ∨ x.lateRaised = true)))) ∧
    (∃ s : State, ∃ id : BitVec 16, ∃ x : Context, s.ctx? id.toNat = some x ∧ x.umber = true ∧ x.state = .running ∧
      x.preempt = none ∧ (∀ c : Nat, c ∈ x.cores → (s.core c).seq = .running)) ∧
    (∃ s : State, ∃ id : BitVec 16, ∃ x : Context, ∃ c : Nat, ∃ q : QEntry, ∃ es : List (Nat × Nat), ∃ e : Engine, s.ctx?
      id.toNat = some x ∧ x.umber = true ∧ x.state = .running ∧ x.preempt = none ∧ x.cores = [c] ∧ (s.core c).ctx = some
      id ∧ (s.core c).seq = .barrier q ∧ q.op = 0x18 ∧ e = engOf q.w ∧ (s.core c).queue e = [q] ∧ lsdOf q.w ≠ 0 ∧ (s.core
      c).dma = [] ∧ (s.core c).noPark = none ∧ (s.core c).savable c (some e) q false = true ∧ liveSet (s.descBytes c
      (lsdOf q.w)) = some es ∧ x.savedCores = []) ∧
    (∃ s : State, ∃ id : BitVec 16, ∃ x : Context, s.ctx? id.toNat = some x ∧ x.state = .saved ∧ (∀ v : Nat × SavedCore,
      v ∈ x.savedCores → (s.core v.1).ctx = none ∧ s.spares.lost.contains v.1 = false ∧ v.2.again = none)) ∧
    (∃ c : Nat, ∃ v : SavedCore, ∃ d : Nat, v.again = none ∧ d ≠ c) ∧
    (∃ c : Nat, ∃ v : SavedCore, ∃ a, v.again = none ∧ (∀ e : Nat × Bytes, e ∈ v.live → ¬ (backing (coreWin c + e.1) ≤ a
      ∧ a < backing (coreWin c + e.1) + e.2.length))) ∧
    (∃ s : State, ∃ id : BitVec 16, ∃ x : Context, ∃ c : Nat, ∃ at' : W64, s.ctx? id.toNat = some x ∧ x.preempt = some
      at' ∧ x.cores.find? (fun k => (s.core k).ctx == some id) = some c ∧ x.lateRaised = false ∧ at'.toNat + 40000 * 1000
      / max 1 (s.core c).effectiveMhz ≤ s.time) ∧
    (∃ s : State, ∃ id : BitVec 16, ∃ x : Context, ∃ c : Nat, ∃ at' : W64, s.ctx? id.toNat = some x ∧ x.preempt = some
      at' ∧ x.cores.find? (fun k => (s.core k).ctx == some id) = some c ∧ (x.lateRaised = true ∨ s.time < at'.toNat +
      40000 * 1000 / max 1 (s.core c).effectiveMhz)) :=
  ⟨⟨device, 7, (Or.inl (by decide +kernel))⟩,
   ⟨device, 7, (Or.inl (by decide +kernel))⟩,
   ⟨device, 7, (Or.inl (by decide +kernel))⟩,
   ⟨onCore core, 7, ctx, (by decide +kernel), (by decide +kernel), (by decide +kernel), (by decide +kernel), (by decide +kernel)⟩,
   ⟨onCore { core with seq := .barrier ⟨0x18, iw [(86, 1), (73, 8), (101, 1)], 0, core.x, 0, 0⟩, qV := [⟨0x18, iw [(86, 1), (73, 8), (101, 1)], 0, core.x, 0, 0⟩] }, 7, ctx, 0, ⟨0x18, iw [(86, 1), (73, 8), (101, 1)], 0, core.x, 0, 0⟩, _, .vector, (by decide +kernel), (by decide +kernel), (by decide +kernel), (by decide +kernel), (by decide +kernel), (by decide +kernel), (by decide +kernel), (by decide +kernel), (by decide +kernel), (by decide +kernel), (by decide +kernel), (by decide +kernel), (by decide +kernel), (by decide +kernel), rfl, (by decide +kernel)⟩,
   ⟨{ device with cores := [(0, Core.cold)], ctxs := [(7, { ctx with state := .saved, savedCores := [(0, ⟨0, core.x, core.f, core.v, core.m, [(0, [1])], none, false, []⟩)] })] }, 7, _, rfl, (by decide +kernel), (by decide +kernel)⟩,
   ⟨0, ⟨0, core.x, core.f, core.v, core.m, [(0, [1])], none, false, []⟩, 1, (by decide +kernel), (by decide +kernel)⟩,
   ⟨0, ⟨0, core.x, core.f, core.v, core.m, [(0, [1])], none, false, []⟩, coreWin 0 + 1, (by decide +kernel), (by decide +kernel)⟩,
   ⟨{ onCore core with ctxs := [(7, { ctx with preempt := some 999900000, lateRaised := false })] }, 7, _, 0, 999900000, rfl, (by decide +kernel), (by decide +kernel), (by decide +kernel), (by decide +kernel)⟩,
   ⟨{ onCore core with ctxs := [(7, { ctx with preempt := some 999900000, lateRaised := true })] }, 7, _, 0, 999900000, rfl, (by decide +kernel), (by decide +kernel), (Or.inl rfl)⟩⟩

/-- What the clauses of WaitTimeoutsFaultTheContext ask can be met. -/
theorem met_WaitTimeoutsFaultTheContext :
    (∃ s : State, ∃ c : Fin 1536, ∃ e : Engine, s.ctxOf c.val = none ∧ e ≠ .seq) ∧
    (∃ s : State, ∃ c : Fin 1536, (s.core c.val).seq = .running) ∧
    (∃ s : State, ∃ c : Fin 1536, ∃ e : Engine, ((s.core c.val).queue e) = [] ∧ e ≠ .seq) ∧
    (∃ s : State, ∃ c : Fin 1536, (s.core c.val).qV = []) ∧
    (∃ s : State, ∃ c : Fin 1536, (s.core c.val).gate = none) ∧
    (∃ s : State, ∃ c : Fin 1536, (s.core c.val).dma = [] ∧ (∀ x ∈ s.ctxs, x.2.savedCores = [])) ∧
    (∃ s : State, ∃ c : Fin 1536, ∃ id : Nat, ∃ p : Nat, ∃ n : Nat, ∃ q : QEntry, s.ctxOf c.val = some id ∧ s.passOf
      c.val = some (p, n) ∧ (s.core c.val).seq = .waitHdr q ∧ (s.core c.val).waitOk q = false ∧ s.remoteWait c.val q =
      false ∧ s.waited (s.core c.val) (2 ^ 22) ((s.core c.val).waitFrom q) = true) ∧
    (∃ s : State, ∃ c : Fin 1536, ∃ id : Nat, ∃ p : Nat, ∃ n : Nat, ∃ e : Engine, ∃ q : QEntry, s.ctxOf c.val = some id ∧
      s.passOf c.val = some (p, n) ∧ e ≠ .seq ∧ ((s.core c.val).queue e).head? = some q ∧ wcnt q.w ≠ 0 ∧ (s.core
      c.val).waitOk q = false ∧ s.remoteWait c.val q = false ∧ s.waited (s.core c.val) (2 ^ 22) ((s.core c.val).waitFrom
      q) = true) ∧
    (∃ s : State, ∃ c : Fin 1536, ∃ id : Nat, ∃ p : Nat, ∃ n : Nat, ∃ q : QEntry, s.ctxOf c.val = some id ∧ s.passOf
      c.val = some (p, n) ∧ (s.core c.val).qV.head? = some q ∧ q.op = 0x40 ∧ (s.core c.val).waitOk q = true ∧ (s.core
      c.val).occ false = 0 ∧ (s.core c.val).qM = [] ∧ (s.core c.val).runs = [] ∧ (s.core c.val).finished = [] ∧ s.waited
      (s.core c.val) (2 ^ 20) (max q.since.toNat (s.core c.val).fedV.toNat) = true) ∧
    (∃ s : State, ∃ c : Fin 1536, ∃ id : Nat, ∃ p : Nat, ∃ n : Nat, ∃ slot : Fin 16, ∃ x : DmaXfer, ∃ h : Partition,
      s.ctxOf c.val = some id ∧ s.passOf c.val = some (p, n) ∧ s.part? p = some h ∧ (s.core c.val).dma.find? (fun t =>
      t.slot == slot && t.remote && !t.arrived && t.issued.toNat + h.remoteNs ≤ s.time) = some x) ∧
    (∃ s : State, ∃ c : Fin 1536, ∃ id : Nat, ∃ p : Nat, ∃ n : Nat, ∃ e : Engine, ∃ q : QEntry, ∃ v : W64, ∃ h :
      Partition, s.ctxOf c.val = some id ∧ s.passOf c.val = some (p, n) ∧ s.part? p = some h ∧ ((s.core c.val).queue
      e).head? = some q ∧ isRmt q = true ∧ q.since.toNat + h.remoteNs ≤ s.time ∧ s.waitmRead p q = .word v ∧ wmHolds q v
      = false) :=
  ⟨⟨device, 0, .vector, (by decide +kernel), (by decide +kernel)⟩,
   ⟨onCore core, 0, (by decide +kernel)⟩,
   ⟨onCore core, 0, .vector, (by decide +kernel), (by decide +kernel)⟩,
   ⟨onCore core, 0, (by decide +kernel)⟩,
   ⟨onCore core, 0, (by decide +kernel)⟩,
   ⟨onCore core, 0, (by decide +kernel), (by decide +kernel)⟩,
   ⟨onCore { core with seq := .waitHdr ⟨0, iw [(101, 1)], 0, core.x, 0, 0⟩ }, 0, 7, 0, 0, ⟨0, iw [(101, 1)], 0, core.x, 0, 0⟩, (by decide +kernel), (by decide +kernel), (by decide +kernel), (by decide +kernel), (by decide +kernel), (by decide +kernel)⟩,
   ⟨onCore { core with qV := [⟨0x30, iw [(101, 1)], 0, core.x, 0, 0⟩] }, 0, 7, 0, 0, .vector, ⟨0x30, iw [(101, 1)], 0, core.x, 0, 0⟩, (by decide +kernel), (by decide +kernel), (by decide +kernel), (by decide +kernel), (by decide +kernel), (by decide +kernel), (by decide +kernel), (by decide +kernel)⟩,
   ⟨onCore { core with qV := [⟨0x40, 0, 0, core.x, 0, 0⟩] }, 0, 7, 0, 0, ⟨0x40, 0, 0, core.x, 0, 0⟩, (by decide +kernel), (by decide +kernel), (by decide +kernel), (by decide +kernel), (by decide +kernel), (by decide +kernel), (by decide +kernel), (by decide +kernel), (by decide +kernel), (by decide +kernel)⟩,
   ⟨onCore { core with dma := [⟨0, 0, ⟨0x60, 0, 0, core.x, 0, 0⟩, [], .sending 1, 0⟩] }, 0, 7, 0, 0, 0, ⟨0, 0, ⟨0x60, 0, 0, core.x, 0, 0⟩, [], .sending 1, 0⟩, part, (by decide +kernel), (by decide +kernel), (by decide +kernel), (by decide +kernel)⟩,
   ⟨onCore { core with qV := [⟨0x19, iw [(70, 1), (71, 1)], 0, core.x, 0, 0⟩] }, 0, 7, 0, 0, .vector, ⟨0x19, iw [(70, 1), (71, 1)], 0, core.x, 0, 0⟩, 0, part, (by decide +kernel), (by decide +kernel), (by decide +kernel), (by decide +kernel), (by decide +kernel), (by decide +kernel), (by decide +kernel), (by decide +kernel)⟩⟩

/-- What the clauses of FaultTearsTheContextDown ask can be met. -/
theorem met_FaultTearsTheContextDown :
    (∃ s : State, ∃ id : Nat, ∃ code : Nat, ∃ core : Nat, ∃ pc : Nat, ∃ tag : Nat, ∃ x : Context, ∃ t, ∃ k : Nat, s.ctx?
      id = some x ∧ (∀ i : Fin 16384, i ∈ x.streams → (s.stream i.val).closeReq = false) ∧ t = s.teardown id code core pc
      tag ∧ k ≠ id) ∧
    (∃ s : State, ∃ id : Nat, ∃ code : Nat, ∃ core : Nat, ∃ pc : Nat, ∃ tag : Nat, ∃ x : Context, ∃ t, ∃ c : Nat, s.ctx?
      id = some x ∧ (∀ i : Fin 16384, i ∈ x.streams → (s.stream i.val).closeReq = false) ∧ t = s.teardown id code core pc
      tag ∧ c ∈ x.cores ∧ (s.core c).ctx = some (BitVec.ofNat 16 id)) ∧
    (∃ s : State, ∃ id : Nat, ∃ code : Nat, ∃ core : Nat, ∃ pc : Nat, ∃ tag : Nat, ∃ x : Context, ∃ t, ∃ c : Nat, s.ctx?
      id = some x ∧ (∀ i : Fin 16384, i ∈ x.streams → (s.stream i.val).closeReq = false) ∧ t = s.teardown id code core pc
      tag ∧ (c ∉ x.cores ∨ (s.core c).ctx ≠ some (BitVec.ofNat 16 id))) ∧
    (∃ s : State, ∃ id : Nat, ∃ code : Nat, ∃ core : Nat, ∃ pc : Nat, ∃ tag : Nat, ∃ x : Context, ∃ t, ∃ i : Fin 16384,
      s.ctx? id = some x ∧ (∀ i : Fin 16384, i ∈ x.streams → (s.stream i.val).closeReq = false) ∧ t = s.teardown id code
      core pc tag ∧ i ∈ x.streams) ∧
    (∃ s : State, ∃ id : Nat, ∃ code : Nat, ∃ core : Nat, ∃ pc : Nat, ∃ tag : Nat, ∃ x : Context, ∃ t, ∃ k : Nat, s.ctx?
      id = some x ∧ (∀ i : Fin 16384, i ∈ x.streams → (s.stream i.val).closeReq = false) ∧ t = s.teardown id code core pc
      tag ∧ (∀ i : Fin 16384, i ∈ x.streams → i.val ≠ k)) :=
  ⟨⟨{ onCore core with ctxs := [(7, { ctx with streams := [3] })] }, 7, 2, 0, 0, 0, { ctx with streams := [3] }, _, 8, (by decide +kernel), (fun i h => (by rw [List.mem_singleton.mp h]; decide +kernel)), rfl, (by decide +kernel)⟩,
   ⟨{ onCore core with ctxs := [(7, { ctx with streams := [3] })] }, 7, 2, 0, 0, 0, { ctx with streams := [3] }, _, 0, (by decide +kernel), (fun i h => (by rw [List.mem_singleton.mp h]; decide +kernel)), rfl, (by decide +kernel), (by decide +kernel)⟩,
   ⟨{ onCore core with ctxs := [(7, { ctx with streams := [3] })] }, 7, 2, 0, 0, 0, { ctx with streams := [3] }, _, 1, (by decide +kernel), (fun i h => (by rw [List.mem_singleton.mp h]; decide +kernel)), rfl, (Or.inl (by decide +kernel))⟩,
   ⟨{ onCore core with ctxs := [(7, { ctx with streams := [3] })] }, 7, 2, 0, 0, 0, { ctx with streams := [3] }, _, 3, (by decide +kernel), (fun i h => (by rw [List.mem_singleton.mp h]; decide +kernel)), rfl, (by decide +kernel)⟩,
   ⟨{ onCore core with ctxs := [(7, { ctx with streams := [3] })] }, 7, 2, 0, 0, 0, { ctx with streams := [3] }, _, 4, (by decide +kernel), (fun i h => (by rw [List.mem_singleton.mp h]; decide +kernel)), rfl, (fun i h => (by rw [List.mem_singleton.mp h]; decide +kernel))⟩⟩

end Sys2Proof.Tests
end

