-- ==== Sys2Proof/Tests/WitnessDevice.lean ====
section
/-! SUPPORT. The hypotheses of the statements about links, audio, power and start-up can be met. -/

namespace Sys2Proof.Tests
open Sys2Proof.Machine

set_option Elab.async false

/-- What the clauses of RdmaRequestsAreAnswered ask can be met. -/
theorem met_RdmaRequestsAreAnswered :
    (∃ s : State, ∃ n : BitVec 24, ∃ va : W64, ∃ key : BitVec 32, ∃ imm : BitVec 32, ∃ d : Bytes, ∃ k : Nat, ∃ x : W64, ∃
      y : W64, ∃ ce : Bool, ∃ i : Instr, (i = .inboundSend n d ce ∨ i = .inboundRdmaWrite n va key d ce ∨ i =
      .inboundWriteImmediate n va key imm d ce ∨ i = .inboundRdmaRead n va key k ce ∨ i = .inboundFetchAdd n va key x ce
      ∨ i = .inboundCompareSwap n va key x y ce) ∧ s.qp? n.toNat = none) ∧
    (∃ s : State, ∃ n : BitVec 24, ∃ va : W64, ∃ key : BitVec 32, ∃ imm : BitVec 32, ∃ d : Bytes, ∃ k : Nat, ∃ x : W64, ∃
      y : W64, ∃ ce : Bool, ∃ i : Instr, ∃ q : Qp, (i = .inboundSend n d ce ∨ i = .inboundRdmaWrite n va key d ce ∨ i =
      .inboundWriteImmediate n va key imm d ce ∨ i = .inboundRdmaRead n va key k ce ∨ i = .inboundFetchAdd n va key x ce
      ∨ i = .inboundCompareSwap n va key x y ce) ∧ s.qp? n.toNat = some q ∧ q.refuse = true) ∧
    (∃ s : State, ∃ n : BitVec 24, ∃ va : W64, ∃ key : BitVec 32, ∃ imm : BitVec 32, ∃ d : Bytes, ∃ k : Nat, ∃ x : W64, ∃
      y : W64, ∃ ce : Bool, ∃ i : Instr, ∃ q : Qp, (i = .inboundSend n d ce ∨ i = .inboundRdmaWrite n va key d ce ∨ i =
      .inboundWriteImmediate n va key imm d ce ∨ i = .inboundRdmaRead n va key k ce ∨ i = .inboundFetchAdd n va key x ce
      ∨ i = .inboundCompareSwap n va key x y ce) ∧ s.qp? n.toNat = some q ∧ q.refuse = false ∧ q.state ≠ .connected) ∧
    (∃ s : State, ∃ q : Qp, (∀ t0 : W64, q.lastCnpSent = some t0 → t0.toNat + (s.ccOf q.owner).cnpUs * 1000 ≤ s.time)) ∧
    (∃ s : State, ∃ q : Qp, ∃ t0 : W64, q.lastCnpSent = some t0 ∧ s.time < t0.toNat + (s.ccOf q.owner).cnpUs * 1000) ∧
    (∃ s : State, ∃ t : State, ∃ n : BitVec 24, ∃ q : Qp, ∃ ce : Bool, ∃ free : Fin 64 → Prop, s.qp? n.toNat = some q ∧
      q.refuse = false ∧ q.state = .connected ∧ t = s.notify n q ce ∧ (∀ m : Fin 64, free m ↔ q.mailboxes.getLsbD m.val =
      true ∧ (t.mail m.val).busy = false) ∧ q.mailboxes = 0) ∧
    (∃ s : State, ∃ t : State, ∃ n : BitVec 24, ∃ q : Qp, ∃ ce : Bool, ∃ d : Bytes, ∃ free : Fin 64 → Prop, ∃ m : Fin 64,
      s.qp? n.toNat = some q ∧ q.refuse = false ∧ q.state = .connected ∧ t = s.notify n q ce ∧ (∀ m : Fin 64, free m ↔
      q.mailboxes.getLsbD m.val = true ∧ (t.mail m.val).busy = false) ∧ q.mailboxes.getLsbD m.val = true ∧ ((d = [] ∧ ∀ j
      : Nat, j < m.val → q.mailboxes.getLsbD j = false) ∨ d = b1 m.val ++ zeros 7) ∧ (t.mail m.val).busy = false) ∧
    (∃ s : State, ∃ t : State, ∃ n : BitVec 24, ∃ q : Qp, ∃ ce : Bool, ∃ d : Bytes, ∃ free : Fin 64 → Prop, ∃ m : Fin 64,
      s.qp? n.toNat = some q ∧ q.refuse = false ∧ q.state = .connected ∧ t = s.notify n q ce ∧ (∀ m : Fin 64, free m ↔
      q.mailboxes.getLsbD m.val = true ∧ (t.mail m.val).busy = false) ∧ q.mailboxes.getLsbD m.val = true ∧ ((d = [] ∧ ∀ j
      : Nat, j < m.val → q.mailboxes.getLsbD j = false) ∨ d = b1 m.val ++ zeros 7) ∧ (t.mail m.val).busy = true) ∧
    (∃ s : State, ∃ t : State, ∃ n : BitVec 24, ∃ q : Qp, ∃ ce : Bool, ∃ d : Bytes, ∃ free : Fin 64 → Prop, ∃ m : Fin 64,
      s.qp? n.toNat = some q ∧ q.refuse = false ∧ q.state = .connected ∧ t = s.notify n q ce ∧ (∀ m : Fin 64, free m ↔
      q.mailboxes.getLsbD m.val = true ∧ (t.mail m.val).busy = false) ∧ q.mailboxes.getLsbD m.val = true ∧ 64 ≤ d.length
      ∧ d.length ≤ 4096 ∧ free m ∧ (∀ j : Fin 64, j < m → ¬ free j)) ∧
    (∃ s : State, ∃ t : State, ∃ n : BitVec 24, ∃ q : Qp, ∃ ce : Bool, ∃ d : Bytes, ∃ free : Fin 64 → Prop, s.qp? n.toNat
      = some q ∧ q.refuse = false ∧ q.state = .connected ∧ t = s.notify n q ce ∧ (∀ m : Fin 64, free m ↔
      q.mailboxes.getLsbD m.val = true ∧ (t.mail m.val).busy = false) ∧ 64 ≤ d.length ∧ d.length ≤ 4096 ∧ q.mailboxes ≠ 0
      ∧ (∀ j : Fin 64, ¬ free j)) ∧
    (∃ s : State, ∃ t : State, ∃ n : BitVec 24, ∃ q : Qp, ∃ ce : Bool, ∃ d : Bytes, ∃ free : Fin 64 → Prop, s.qp? n.toNat
      = some q ∧ q.refuse = false ∧ q.state = .connected ∧ t = s.notify n q ce ∧ (∀ m : Fin 64, free m ↔
      q.mailboxes.getLsbD m.val = true ∧ (t.mail m.val).busy = false) ∧ ((0 < d.length ∧ d.length < 64 ∧ ∀ m : Fin 64,
      q.mailboxes.getLsbD m.val = true → d ≠ b1 m.val ++ zeros 7) ∨ 4096 < d.length)) ∧
    (∃ s : State, ∃ t : State, ∃ n : BitVec 24, ∃ q : Qp, ∃ ce : Bool, ∃ va : W64, ∃ key : BitVec 32, ∃ a : Nat, ∃ d :
      Bytes, ∃ own : Prop, ∃ boxes : Prop, ∃ mirror : Prop, s.qp? n.toNat = some q ∧ q.refuse = false ∧ q.state =
      .connected ∧ t = s.notify n q ce ∧ a = va.toNat % 2 ^ 48 ∧ (own ↔ t.vaOk va = true ∧ t.keyOk q 1 key = true ∧
      t.inOwn q a d.length = true) ∧ (boxes ↔ t.vaOk va = true ∧ t.keyOk q 2 key = true ∧ q.inBoxes a d.length = true) ∧
      (mirror ↔ t.vaOk va = true ∧ t.keyOk q 4 key = true) ∧ (own ∨ boxes)) ∧
    (∃ s : State, ∃ t : State, ∃ n : BitVec 24, ∃ q : Qp, ∃ ce : Bool, ∃ va : W64, ∃ key : BitVec 32, ∃ a : Nat, ∃ d :
      Bytes, ∃ own : Prop, ∃ boxes : Prop, ∃ mirror : Prop, s.qp? n.toNat = some q ∧ q.refuse = false ∧ q.state =
      .connected ∧ t = s.notify n q ce ∧ a = va.toNat % 2 ^ 48 ∧ (own ↔ t.vaOk va = true ∧ t.keyOk q 1 key = true ∧
      t.inOwn q a d.length = true) ∧ (boxes ↔ t.vaOk va = true ∧ t.keyOk q 2 key = true ∧ q.inBoxes a d.length = true) ∧
      (mirror ↔ t.vaOk va = true ∧ t.keyOk q 4 key = true) ∧ ¬ own ∧ ¬ boxes ∧ ¬ mirror) ∧
    (∃ s : State, ∃ t : State, ∃ n : BitVec 24, ∃ q : Qp, ∃ ce : Bool, ∃ va : W64, ∃ key : BitVec 32, ∃ a : Nat, s.qp?
      n.toNat = some q ∧ q.refuse = false ∧ q.state = .connected ∧ t = s.notify n q ce ∧ a = va.toNat % 2 ^ 48 ∧ (t.vaOk
      va = false ∨ t.keyOk q 1 key = false)) ∧
    (∃ s : State, ∃ t : State, ∃ n : BitVec 24, ∃ q : Qp, ∃ ce : Bool, ∃ va : W64, ∃ a : Nat, ∃ k : Nat, s.qp? n.toNat =
      some q ∧ q.refuse = false ∧ q.state = .connected ∧ t = s.notify n q ce ∧ a = va.toNat % 2 ^ 48 ∧ t.inOwn q a k =
      false) ∧
    (∃ s : State, ∃ t : State, ∃ n : BitVec 24, ∃ q : Qp, ∃ ce : Bool, ∃ va : W64, ∃ a : Nat, s.qp? n.toNat = some q ∧
      q.refuse = false ∧ q.state = .connected ∧ t = s.notify n q ce ∧ a = va.toNat % 2 ^ 48 ∧ (t.inOwn q a 8 = false ∨ a
      % 8 ≠ 0)) ∧
    (∃ s : State, ∃ t : State, ∃ n : BitVec 24, ∃ q : Qp, ∃ ce : Bool, ∃ va : W64, ∃ key : BitVec 32, ∃ a : Nat, ∃ k :
      Nat, s.qp? n.toNat = some q ∧ q.refuse = false ∧ q.state = .connected ∧ t = s.notify n q ce ∧ a = va.toNat % 2 ^ 48
      ∧ t.vaOk va = true ∧ t.keyOk q 1 key = true ∧ t.inOwn q a k = true ∧ t.good a k = true) ∧
    (∃ s : State, ∃ t : State, ∃ n : BitVec 24, ∃ q : Qp, ∃ ce : Bool, ∃ va : W64, ∃ key : BitVec 32, ∃ a : Nat, ∃ k :
      Nat, s.qp? n.toNat = some q ∧ q.refuse = false ∧ q.state = .connected ∧ t = s.notify n q ce ∧ a = va.toNat % 2 ^ 48
      ∧ t.vaOk va = true ∧ t.keyOk q 1 key = true ∧ t.inOwn q a k = true ∧ t.good a k = false) ∧
    (∃ s : State, ∃ t : State, ∃ n : BitVec 24, ∃ q : Qp, ∃ ce : Bool, ∃ va : W64, ∃ key : BitVec 32, ∃ a : Nat, ∃ old :
      W64, s.qp? n.toNat = some q ∧ q.refuse = false ∧ q.state = .connected ∧ t = s.notify n q ce ∧ a = va.toNat % 2 ^ 48
      ∧ t.vaOk va = true ∧ t.keyOk q 1 key = true ∧ t.inOwn q a 8 = true ∧ a % 8 = 0 ∧ old = BitVec.ofNat 64 (t.readNat a
      8) ∧ t.good a 8 = true) ∧
    (∃ s : State, ∃ t : State, ∃ n : BitVec 24, ∃ q : Qp, ∃ ce : Bool, ∃ va : W64, ∃ key : BitVec 32, ∃ a : Nat, ∃ old :
      W64, s.qp? n.toNat = some q ∧ q.refuse = false ∧ q.state = .connected ∧ t = s.notify n q ce ∧ a = va.toNat % 2 ^ 48
      ∧ t.vaOk va = true ∧ t.keyOk q 1 key = true ∧ t.inOwn q a 8 = true ∧ a % 8 = 0 ∧ old = BitVec.ofNat 64 (t.readNat a
      8) ∧ t.good a 8 = false) ∧
    (∃ s : State, ∃ t : State, ∃ n : BitVec 24, ∃ q : Qp, ∃ ce : Bool, ∃ va : W64, ∃ a : Nat, ∃ d : Bytes, ∃ u : State,
      s.qp? n.toNat = some q ∧ q.refuse = false ∧ q.state = .connected ∧ t = s.notify n q ce ∧ a = va.toNat % 2 ^ 48 ∧ u
      = t.acknowledge n q d.length ∧ a ≠ intakePort) ∧
    (∃ s : State, ∃ t : State, ∃ n : BitVec 24, ∃ q : Qp, ∃ ce : Bool, ∃ va : W64, ∃ key : BitVec 32, ∃ a : Nat, ∃ d :
      Bytes, ∃ u : State, s.qp? n.toNat = some q ∧ q.refuse = false ∧ q.state = .connected ∧ t = s.notify n q ce ∧ a =
      va.toNat % 2 ^ 48 ∧ u = t.acknowledge n q d.length ∧ a = intakePort ∧ (t.vaOk va = false ∨ t.keyOk q 3 key =
      false)) ∧
    (∃ s : State, ∃ t : State, ∃ n : BitVec 24, ∃ q : Qp, ∃ ce : Bool, ∃ va : W64, ∃ key : BitVec 32, ∃ a : Nat, ∃ d :
      Bytes, ∃ u : State, s.qp? n.toNat = some q ∧ q.refuse = false ∧ q.state = .connected ∧ t = s.notify n q ce ∧ a =
      va.toNat % 2 ^ 48 ∧ u = t.acknowledge n q d.length ∧ a = intakePort ∧ t.vaOk va = true ∧ t.keyOk q 3 key = true) ∧
    (∃ s : State, ∃ imm : BitVec 32, ∃ j : Nat, ∃ x : Stream, j = imm.toNat % 2 ^ 14 ∧ x = s.stream j ∧ s.stale imm.toNat
      = true) ∧
    (∃ s : State, ∃ imm : BitVec 32, ∃ j : Nat, ∃ x : Stream, j = imm.toNat % 2 ^ 14 ∧ x = s.stream j ∧ s.stale imm.toNat
      = false ∧ (s.part? x.part.val).bind (·.shape?) = none) ∧
    (∃ s : State, ∃ q : Qp, ∃ imm : BitVec 32, ∃ d : Bytes, ∃ j : Nat, ∃ x : Stream, ∃ r : Partition, ∃ im : ImageInfo, ∃
      old : List Chunk, ∃ named : Prop, ∃ room : Prop, j = imm.toNat % 2 ^ 14 ∧ x = s.stream j ∧ s.stale imm.toNat =
      false ∧ s.part? x.part.val = some r ∧ r.shape? = some im ∧ old = (if 16 ≤ x.chunks.length then x.chunks.tail else
      x.chunks) ∧ (named ↔ x.srcKind = 3 ∧ ringPeer x.source = q.peer.toNat ∧ x.part.val = q.owner ∧ x.takesInput = true
      ∧ recordOk im imm d = true) ∧ (room ↔ s.poolUse + alignUp 256 (le d 4 2 * im.bytesPerFrame + alignUp 64 (le d 4 2))
      ≤ poolBytes) ∧ ¬ named) ∧
    (∃ s : State, ∃ q : Qp, ∃ imm : BitVec 32, ∃ d : Bytes, ∃ j : Nat, ∃ x : Stream, ∃ r : Partition, ∃ im : ImageInfo, ∃
      old : List Chunk, ∃ named : Prop, ∃ room : Prop, j = imm.toNat % 2 ^ 14 ∧ x = s.stream j ∧ s.stale imm.toNat =
      false ∧ s.part? x.part.val = some r ∧ r.shape? = some im ∧ old = (if 16 ≤ x.chunks.length then x.chunks.tail else
      x.chunks) ∧ (named ↔ x.srcKind = 3 ∧ ringPeer x.source = q.peer.toNat ∧ x.part.val = q.owner ∧ x.takesInput = true
      ∧ recordOk im imm d = true) ∧ (room ↔ s.poolUse + alignUp 256 (le d 4 2 * im.bytesPerFrame + alignUp 64 (le d 4 2))
      ≤ poolBytes) ∧ named ∧ ¬ room) ∧
    (∃ s : State, ∃ q : Qp, ∃ imm : BitVec 32, ∃ d : Bytes, ∃ j : Nat, ∃ x : Stream, ∃ r : Partition, ∃ im : ImageInfo, ∃
      old : List Chunk, ∃ named : Prop, ∃ room : Prop, j = imm.toNat % 2 ^ 14 ∧ x = s.stream j ∧ s.stale imm.toNat =
      false ∧ s.part? x.part.val = some r ∧ r.shape? = some im ∧ old = (if 16 ≤ x.chunks.length then x.chunks.tail else
      x.chunks) ∧ (named ↔ x.srcKind = 3 ∧ ringPeer x.source = q.peer.toNat ∧ x.part.val = q.owner ∧ x.takesInput = true
      ∧ recordOk im imm d = true) ∧ (room ↔ s.poolUse + alignUp 256 (le d 4 2 * im.bytesPerFrame + alignUp 64 (le d 4 2))
      ≤ poolBytes) ∧ named ∧ room ∧ le d 8 8 < x.intake.nextSeq.toNat) ∧
    (∃ s : State, ∃ q : Qp, ∃ imm : BitVec 32, ∃ d : Bytes, ∃ j : Nat, ∃ x : Stream, ∃ r : Partition, ∃ im : ImageInfo, ∃
      old : List Chunk, ∃ named : Prop, ∃ room : Prop, j = imm.toNat % 2 ^ 14 ∧ x = s.stream j ∧ s.stale imm.toNat =
      false ∧ s.part? x.part.val = some r ∧ r.shape? = some im ∧ old = (if 16 ≤ x.chunks.length then x.chunks.tail else
      x.chunks) ∧ (named ↔ x.srcKind = 3 ∧ ringPeer x.source = q.peer.toNat ∧ x.part.val = q.owner ∧ x.takesInput = true
      ∧ recordOk im imm d = true) ∧ (room ↔ s.poolUse + alignUp 256 (le d 4 2 * im.bytesPerFrame + alignUp 64 (le d 4 2))
      ≤ poolBytes) ∧ named ∧ room ∧ x.intake.nextSeq.toNat < le d 8 8) ∧
    (∃ s : State, ∃ q : Qp, ∃ imm : BitVec 32, ∃ d : Bytes, ∃ j : Nat, ∃ x : Stream, ∃ r : Partition, ∃ im : ImageInfo, ∃
      old : List Chunk, ∃ named : Prop, ∃ room : Prop, j = imm.toNat % 2 ^ 14 ∧ x = s.stream j ∧ s.stale imm.toNat =
      false ∧ s.part? x.part.val = some r ∧ r.shape? = some im ∧ old = (if 16 ≤ x.chunks.length then x.chunks.tail else
      x.chunks) ∧ (named ↔ x.srcKind = 3 ∧ ringPeer x.source = q.peer.toNat ∧ x.part.val = q.owner ∧ x.takesInput = true
      ∧ recordOk im imm d = true) ∧ (room ↔ s.poolUse + alignUp 256 (le d 4 2 * im.bytesPerFrame + alignUp 64 (le d 4 2))
      ≤ poolBytes) ∧ named ∧ room ∧ le d 8 8 = x.intake.nextSeq.toNat) :=
  ⟨⟨device, 0, 0, 0, 0, [], 0, 0, 0, false, .inboundSend 0 [] false, (Or.inl rfl), (by decide +kernel)⟩,
   ⟨{ device with qps := [(0, { qp 0 with refuse := true })] }, 0, 0, 0, 0, [], 0, 0, 0, false, .inboundSend 0 [] false, { qp 0 with refuse := true }, (Or.inl rfl), (by decide +kernel), (by decide +kernel)⟩,
   ⟨{ device with qps := [(0, { qp 0 with state := .created })] }, 0, 0, 0, 0, [], 0, 0, 0, false, .inboundSend 0 [] false, { qp 0 with state := .created }, (Or.inl rfl), (by decide +kernel), (by decide +kernel), (by decide +kernel)⟩,
   ⟨device, qp 0, (fun t h => nomatch h)⟩,
   ⟨device, { qp 0 with lastCnpSent := some 1000000000 }, 1000000000, (by decide +kernel), (by decide +kernel)⟩,
   ⟨withQp device 0, _, 0, qp 0, false, _, (by decide +kernel), (by decide +kernel), (by decide +kernel), rfl, (fun _ => Iff.rfl), (by decide +kernel)⟩,
   ⟨{ device with qps := [(0, { qp 0 with mailboxes := 16 })] }, _, 0, { qp 0 with mailboxes := 16 }, false, [], _, 4, (by decide +kernel), (by decide +kernel), (by decide +kernel), rfl, (fun _ => Iff.rfl), (by decide +kernel), (Or.inl ⟨rfl, by decide +kernel⟩), (by decide +kernel)⟩,
   ⟨{ { device with qps := [(0, { qp 0 with mailboxes := 16 })] } with mbx := [(4, ⟨0, false, true, [], false, false, none, none⟩)] }, _, 0, { qp 0 with mailboxes := 16 }, false, [4, 0, 0, 0, 0, 0, 0, 0], _, 4, (by decide +kernel), (by decide +kernel), (by decide +kernel), rfl, (fun _ => Iff.rfl), (by decide +kernel), (Or.inr (by decide +kernel)), (by decide +kernel)⟩,
   ⟨{ device with qps := [(0, { qp 0 with mailboxes := 16 })] }, _, 0, { qp 0 with mailboxes := 16 }, false, zeros 64, _, 4, (by decide +kernel), (by decide +kernel), (by decide +kernel), rfl, (fun _ => Iff.rfl), (by decide +kernel), (by decide +kernel), (by decide +kernel), (by decide +kernel), (by decide +kernel)⟩,
   ⟨{ { device with qps := [(0, { qp 0 with mailboxes := 16 })] } with mbx := [(4, ⟨0, false, true, [], false, false, none, none⟩)] }, _, 0, { qp 0 with mailboxes := 16 }, false, zeros 4096, _, (by decide +kernel), (by decide +kernel), (by decide +kernel), rfl, (fun _ => Iff.rfl), (by decide +kernel), (by decide +kernel), (by decide +kernel), (by decide +kernel)⟩,
   ⟨{ device with qps := [(0, { qp 0 with mailboxes := 16 })] }, _, 0, { qp 0 with mailboxes := 16 }, true, [5], _, (by decide +kernel), (by decide +kernel), (by decide +kernel), rfl, (fun _ => Iff.rfl), (Or.inl ⟨by decide +kernel, by decide +kernel, by decide +kernel⟩)⟩,
   ⟨withQp device 0, _, 0, qp 0, false, 0x100000, rKey 1 0 5, _, [1, 2], _, _, _, (by decide +kernel), (by decide +kernel), (by decide +kernel), rfl, rfl, Iff.rfl, Iff.rfl, Iff.rfl, (Or.inl (by decide +kernel))⟩,
   ⟨{ withQp device 0 with mbxEpoch := 7, mirrorEpoch := 9 }, _, 0, qp 0, false, 0x100000, 0, _, [1, 2], _, _, _, (by decide +kernel), (by decide +kernel), (by decide +kernel), rfl, rfl, Iff.rfl, Iff.rfl, Iff.rfl, (by decide +kernel), (by decide +kernel), (by decide +kernel)⟩,
   ⟨withQp device 0, _, 0, qp 0, false, 0x100000, 0, _, (by decide +kernel), (by decide +kernel), (by decide +kernel), rfl, rfl, (Or.inr (by decide +kernel))⟩,
   ⟨withQp device 0, _, 0, qp 0, false, 0x80000000, _, 8, (by decide +kernel), (by decide +kernel), (by decide +kernel), rfl, rfl, (by decide +kernel)⟩,
   ⟨withQp device 0, _, 0, qp 0, false, 0x100001, _, (by decide +kernel), (by decide +kernel), (by decide +kernel), rfl, rfl, (Or.inr (by decide +kernel))⟩,
   ⟨withQp device 0, _, 0, qp 0, false, 0x100000, rKey 1 0 5, _, 64, (by decide +kernel), (by decide +kernel), (by decide +kernel), rfl, rfl, (by decide +kernel), (by decide +kernel), (by decide +kernel), (by decide +kernel)⟩,
   ⟨{ withQp device 0 with badSpans := [0x1000] }, _, 0, qp 0, false, 0x100000, rKey 1 0 5, _, 64, (by decide +kernel), (by decide +kernel), (by decide +kernel), rfl, rfl, (by decide +kernel), (by decide +kernel), (by decide +kernel), (by decide +kernel)⟩,
   ⟨withQp device 0, _, 0, qp 0, true, 0x100000, rKey 1 0 5, _, _, (by decide +kernel), (by decide +kernel), (by decide +kernel), rfl, rfl, (by decide +kernel), (by decide +kernel), (by decide +kernel), (by decide +kernel), rfl, (by decide +kernel)⟩,
   ⟨{ withQp device 0 with badSpans := [0x1000] }, _, 0, qp 0, false, 0x100000, rKey 1 0 5, _, _, (by decide +kernel), (by decide +kernel), (by decide +kernel), rfl, rfl, (by decide +kernel), (by decide +kernel), (by decide +kernel), (by decide +kernel), rfl, (by decide +kernel)⟩,
   ⟨withQp device 0, _, 0, qp 0, false, 0x100000, _, [], _, (by decide +kernel), (by decide +kernel), (by decide +kernel), rfl, rfl, rfl, (by decide +kernel)⟩,
   ⟨withQp device 0, _, 0, qp 0, false, BitVec.ofNat 64 intakePort, 0, _, [], _, (by decide +kernel), (by decide +kernel), (by decide +kernel), rfl, rfl, rfl, (by decide +kernel), (by decide +kernel)⟩,
   ⟨withQp device 0, _, 0, qp 0, false, BitVec.ofNat 64 intakePort, rKey 3 0 5, _, [], _, (by decide +kernel), (by decide +kernel), (by decide +kernel), rfl, rfl, rfl, (by decide +kernel), (by decide +kernel), (by decide +kernel)⟩,
   ⟨device, 3, _, _, rfl, rfl, (by decide +kernel)⟩,
   ⟨{ (withStream { stream with gen := 1, source := BitVec.ofNat 64 (3 * 2 ^ 60 + 2 ^ 44) }) with parts := [] }, 0x4003, _, _, rfl, rfl, (by decide +kernel), (by decide +kernel)⟩,
   ⟨(withStream { stream with gen := 1, source := BitVec.ofNat 64 (3 * 2 ^ 60 + 2 ^ 44) }), qp 0, 0x4003, zeros 64, _, _, part, img, _, _, _, rfl, rfl, (by decide +kernel), (by decide +kernel), (by decide +kernel), rfl, Iff.rfl, Iff.rfl, (by decide +kernel)⟩,
   ⟨(withStream { stream with gen := 1, source := BitVec.ofNat 64 (3 * 2 ^ 60 + 2 ^ 44), chunks := [{ chunk with archived := false, frames := 31000000 }] }), qp 0, 0x4003, page 132 [(0, 0x4003), (4, 1), (8, 0), (0x10, 4)], _, _, part, img, _, _, _, rfl, rfl, (by decide +kernel), (by decide +kernel), (by decide +kernel), rfl, Iff.rfl, Iff.rfl, (by decide +kernel), (by decide +kernel)⟩,
   ⟨(withStream { stream with gen := 1, source := BitVec.ofNat 64 (3 * 2 ^ 60 + 2 ^ 44), intake := { stream.intake with nextSeq := 1 } }), qp 0, 0x4003, page 132 [(0, 0x4003), (4, 1), (8, 0), (0x10, 4)], _, _, part, img, _, _, _, rfl, rfl, (by decide +kernel), (by decide +kernel), (by decide +kernel), rfl, Iff.rfl, Iff.rfl, (by decide +kernel), (by decide +kernel), (by decide +kernel)⟩,
   ⟨(withStream { stream with gen := 1, source := BitVec.ofNat 64 (3 * 2 ^ 60 + 2 ^ 44), intake := { stream.intake with nextSeq := 1 } }), qp 0, 0x4003, page 132 [(0, 0x4003), (4, 1), (8, 2), (0x10, 4)], _, _, part, img, _, _, _, rfl, rfl, (by decide +kernel), (by decide +kernel), (by decide +kernel), rfl, Iff.rfl, Iff.rfl, (by decide +kernel), (by decide +kernel), (by decide +kernel)⟩,
   ⟨(withStream { stream with gen := 1, source := BitVec.ofNat 64 (3 * 2 ^ 60 + 2 ^ 44), intake := { stream.intake with nextSeq := 1 } }), qp 0, 0x4003, page 132 [(0, 0x4003), (4, 1), (8, 1), (0x10, 4)], _, _, part, img, _, _, _, rfl, rfl, (by decide +kernel), (by decide +kernel), (by decide +kernel), rfl, Iff.rfl, Iff.rfl, (by decide +kernel), (by decide +kernel), (by decide +kernel)⟩⟩

/-- What the clauses of AcknowledgementsResendsAndRates ask can be met. -/
theorem met_AcknowledgementsResendsAndRates :
    (∃ s : State, ∃ n : BitVec 24, s.qp? n.toNat = none) ∧
    (∃ s : State, ∃ n : BitVec 24, ∃ q : Qp, ∃ psn : BitVec 24, ∃ top : BitVec 24, ∃ done : List OutMsg, ∃ left : List OutMsg, ∃ u : State, s.qp? n.toNat = some q ∧ q.out = done ++ left ∧ (∀ o ∈ done, o.kind ≠ .read ∧ psnDist q.acked o.last ≤ psnDist q.acked psn) ∧ (∀ (o : OutMsg) (r : List OutMsg), left = o :: r → o.kind = .read ∨ psnDist q.acked psn < psnDist q.acked o.last) ∧ (top = (match left with | o :: _ => if o.kind = .read ∧ psnDist q.acked (o.first - 1) < psnDist q.acked psn then o.first - 1 else psn | [] => psn)) ∧ u = (s.setQp n.toNat { q with out := left, acked := top, retriesLeft := q.retry, timer := s.now }).sendNew n.toNat q.out left ∧ (q.state ≠ .connected ∨ psnDist q.acked psn = 0 ∨ psnDist q.acked (q.sqNext - 1) < psnDist q.acked psn)) ∧
    (∃ s : State, ∃ n : BitVec 24, ∃ q : Qp, ∃ psn : BitVec 24, ∃ top : BitVec 24, ∃ done : List OutMsg, ∃ left : List OutMsg, ∃ u : State, s.qp? n.toNat = some q ∧ q.out = done ++ left ∧ (∀ o ∈ done, o.kind ≠ .read ∧ psnDist q.acked o.last ≤ psnDist q.acked psn) ∧ (∀ (o : OutMsg) (r : List OutMsg), left = o :: r → o.kind = .read ∨ psnDist q.acked psn < psnDist q.acked o.last) ∧ (top = (match left with | o :: _ => if o.kind = .read ∧ psnDist q.acked (o.first - 1) < psnDist q.acked psn then o.first - 1 else psn | [] => psn)) ∧ u = (s.setQp n.toNat { q with out := left, acked := top, retriesLeft := q.retry, timer := s.now }).sendNew n.toNat q.out left ∧ q.state = .connected ∧ psnDist q.acked psn ≠ 0 ∧ psnDist q.acked psn ≤ psnDist q.acked (q.sqNext - 1) ∧ (∀ o ∈ done, o.use = .other)) ∧
    (∃ s : State, ∃ n : BitVec 24, ∃ q : Qp, s.qp? n.toNat = some q ∧ s.time < q.timer.toNat + 4096 * 2 ^ q.tmo) ∧
    (∃ s : State, ∃ n : BitVec 24, ∃ q : Qp, s.qp? n.toNat = some q ∧ q.timer.toNat + 4096 * 2 ^ q.tmo ≤ s.time ∧
      (q.state ≠ .connected ∨ s.carries q = false ∨ q.out = [])) ∧
    (∃ s : State, ∃ n : BitVec 24, ∃ q : Qp, s.qp? n.toNat = some q ∧ q.timer.toNat + 4096 * 2 ^ q.tmo ≤ s.time ∧ q.state
      = .connected ∧ s.carries q = true ∧ q.out ≠ [] ∧ 0 < q.retriesLeft) ∧
    (∃ s : State, ∃ n : BitVec 24, ∃ q : Qp, s.qp? n.toNat = some q ∧ q.timer.toNat + 4096 * 2 ^ q.tmo ≤ s.time ∧ q.state
      = .connected ∧ s.carries q = true ∧ q.out ≠ [] ∧ q.retriesLeft = 0) ∧
    (∃ s : State, ∃ n : BitVec 24, ∃ q : Qp, ∃ p : BitVec 24, ∃ u : State, s.qp? n.toNat = some q ∧ exec (.roceAckReceive
      n (p - 1)) s = .next u ∧ u.ackLate n.toNat = true) ∧
    (∃ s : State, ∃ n : BitVec 24, ∃ q : Qp, s.qp? n.toNat = some q ∧ (q.state ≠ .connected ∨ (∀ o ∈ q.out, o.kind ≠
      .read))) ∧
    (∃ s : State, ∃ n : BitVec 24, ∃ q : Qp, ∃ d : Bytes, ∃ got : Bytes, ∃ o : OutMsg, ∃ o' : OutMsg, ∃ pre : List
      OutMsg, ∃ post : List OutMsg, ∃ u : State, ∃ x : Qp, ∃ k : BitVec 24, ∃ left : List OutMsg, ∃ v : State, s.qp?
      n.toNat = some q ∧ q.state = .connected ∧ q.out.find? (fun v => v.kind == .read) = some o ∧ exec (.roceAckReceive n
      (o.first - 1)) s = .next u ∧ u.qp? n.toNat = some x ∧ x.out = pre ++ o' :: post ∧ o'.kind = .read ∧ (∀ v ∈ pre,
      v.kind ≠ .read) ∧ got = d.take o.len ∧ k = BitVec.ofNat 24 (q.packets got.length) ∧ left = pre ++ (if o.len ≤
      d.length then [] else
      [{ o with first := o.first + k, va := o.va + BitVec.ofNat 64 got.length, len := o.len - got.length }]) ++ post ∧ v
      = (u.setQp n.toNat
      { x with acked := o.first + k - 1, retriesLeft := x.retry, timer := u.now, out := left }).sendNew n.toNat x.out
      left ∧ (∀ (c : Nat) (slot : Fin 16), o.use ≠ .dmov c slot)) ∧
    (∃ s : State, ∃ n : BitVec 24, ∃ q : Qp, ∃ d : Bytes, ∃ got : Bytes, ∃ o : OutMsg, ∃ o' : OutMsg, ∃ pre : List
      OutMsg, ∃ post : List OutMsg, ∃ u : State, ∃ x : Qp, ∃ k : BitVec 24, ∃ left : List OutMsg, ∃ v : State, ∃ c : Nat,
      ∃ slot : Fin 16, s.qp? n.toNat = some q ∧ q.state = .connected ∧ q.out.find? (fun v => v.kind == .read) = some o ∧
      exec (.roceAckReceive n (o.first - 1)) s = .next u ∧ u.qp? n.toNat = some x ∧ x.out = pre ++ o' :: post ∧ o'.kind =
      .read ∧ (∀ v ∈ pre, v.kind ≠ .read) ∧ got = d.take o.len ∧ k = BitVec.ofNat 24 (q.packets got.length) ∧ left = pre
      ++ (if o.len ≤ d.length then [] else
      [{ o with first := o.first + k, va := o.va + BitVec.ofNat 64 got.length, len := o.len - got.length }]) ++ post ∧ v
      = (u.setQp n.toNat
      { x with acked := o.first + k - 1, retriesLeft := x.retry, timer := u.now, out := left }).sendNew n.toNat x.out
      left ∧ o.use = .dmov c slot) ∧
    (∃ s : State, ∃ n : BitVec 24, ∃ q : Qp, ∃ i : Instr, s.qp? n.toNat = some q ∧ q.state ≠ .connected ∧ (i =
      .cnpReceive n ∨ i = .ccAlphaPeriod n ∨ i = .ccIncreasePeriod n)) ∧
    (∃ s : State, ∃ n : BitVec 24, ∃ q : Qp, ∃ c : CcParams, ∃ a : Machine.Num, ∃ cut : Machine.Num, ∃ v : Machine.Num, ∃
      up : Machine.Num, s.qp? n.toNat = some q ∧ q.state = .connected ∧ c = s.ccOf q.owner ∧ a = fpVal q.alpha ∧ cut =
      f32Mul (fpVal q.rc) (f32Add (.ofInt 1) (a.scale2 (-1)).negate) ∧ q.alphaFrom.toNat + 1000 * c.alphaUs ≤ s.time ∧
      q.incFrom.toNat + 1000 * c.incUs ≤ s.time ∧ up = f32Add (fpVal q.rt) (.ofInt c.rai) ∧ v = (if
      q.rounds + 1 ≤ c.f then fpVal q.rt else if (Machine.Num.ofInt (s.lineMbps q.mac.val)).lt up then .ofInt (s.lineMbps
      q.mac.val) else up)) ∧
    (∃ s : State, ∃ n : BitVec 24, ∃ q : Qp, ∃ c : CcParams, s.qp? n.toNat = some q ∧ q.state = .connected ∧ c = s.ccOf
      q.owner ∧ s.time < q.alphaFrom.toNat + 1000 * c.alphaUs ∧ s.time < q.incFrom.toNat + 1000 * c.incUs) :=
  ⟨⟨device, 0, (by decide +kernel)⟩,
   ⟨withQp device 0, 0, qp 0, 5, _, [], [], _, (by decide +kernel), rfl, (fun o h => nomatch h), (fun o r h => nomatch h), rfl, rfl, (Or.inr (Or.inr (by decide +kernel)))⟩,
   ⟨{ device with qps := [(0, { qp 0 with out := [⟨0, 0, .write, 0, 0, [1], 1, .other⟩], sqNext := 1 })] }, 0, { qp 0 with out := [⟨0, 0, .write, 0, 0, [1], 1, .other⟩], sqNext := 1 }, 0, _, [⟨0, 0, .write, 0, 0, [1], 1, .other⟩], [], _, (by decide +kernel), rfl, (fun o h => by cases List.mem_singleton.mp h; decide +kernel), (fun o r h => nomatch h), rfl, rfl, (by decide +kernel), (by decide +kernel), (by decide +kernel), (fun o h => by cases List.mem_singleton.mp h; decide +kernel)⟩,
   ⟨{ device with qps := [(0, { qp 0 with timer := 1000000000 })] }, 0, { qp 0 with timer := 1000000000 }, (by decide +kernel), (by decide +kernel)⟩,
   ⟨withQp device 0, 0, qp 0, (by decide +kernel), (by decide +kernel), (Or.inr (Or.inr rfl))⟩,
   ⟨{ { device with qps := [(0, { qp 0 with out := [⟨0, 0, .write, 0, 0, [1], 1, .other⟩], sqNext := 1 })] } with macs := [(0, { Mac.cold with up := true })] }, 0, { qp 0 with out := [⟨0, 0, .write, 0, 0, [1], 1, .other⟩], sqNext := 1 }, (by decide +kernel), (by decide +kernel), (by decide +kernel), (by decide +kernel), (by decide +kernel), (by decide +kernel)⟩,
   ⟨{ { device with qps := [(0, { qp 0 with out := [⟨0, 0, .write, 0, 0, [1], 1, .other⟩], sqNext := 1, retriesLeft := 0 })] } with macs := [(0, { Mac.cold with up := true })] }, 0, { qp 0 with out := [⟨0, 0, .write, 0, 0, [1], 1, .other⟩], sqNext := 1, retriesLeft := 0 }, (by decide +kernel), (by decide +kernel), (by decide +kernel), (by decide +kernel), (by decide +kernel), (by decide +kernel)⟩,
   ⟨{ withQp device 0 with macs := [(0, { Mac.cold with up := true })] }, 0, qp 0, 0, _, (by decide +kernel), rfl, (by decide +kernel)⟩,
   ⟨withQp device 0, 0, qp 0, (by decide +kernel), (Or.inr (fun o h => nomatch h))⟩,
   ⟨{ device with qps := [(0, { qp 0 with out := [⟨0, 0, .read, 0, 0, [1], 1, .other⟩], sqNext := 1 })] }, 0, { qp 0 with out := [⟨0, 0, .read, 0, 0, [1], 1, .other⟩], sqNext := 1 }, [9], _, ⟨0, 0, .read, 0, 0, [1], 1, .other⟩, ⟨0, 0, .read, 0, 0, [1], 1, .other⟩, [], [], _, _, _, _, _, (by decide +kernel), (by decide +kernel), (by decide +kernel), rfl, rfl, rfl, rfl, (fun v h => nomatch h), rfl, rfl, rfl, rfl, (fun c k => nofun)⟩,
   ⟨{ device with qps := [(0, { qp 0 with out := [⟨0, 0, .read, 0, 0, [1], 1, .dmov 0 0⟩], sqNext := 1 })] }, 0, { qp 0 with out := [⟨0, 0, .read, 0, 0, [1], 1, .dmov 0 0⟩], sqNext := 1 }, [9], _, ⟨0, 0, .read, 0, 0, [1], 1, .dmov 0 0⟩, ⟨0, 0, .read, 0, 0, [1], 1, .dmov 0 0⟩, [], [], _, _, _, _, _, 0, 0, (by decide +kernel), (by decide +kernel), (by decide +kernel), rfl, rfl, rfl, rfl, (fun v h => nomatch h), rfl, rfl, rfl, rfl, rfl⟩,
   ⟨{ device with qps := [(0, { qp 0 with state := .created })] }, 0, { qp 0 with state := .created }, .cnpReceive 0, (by decide +kernel), (by decide +kernel), (Or.inl rfl)⟩,
   ⟨{ withQp device 0 with now := 55000 }, 0, qp 0, _, _, _, _, _, (by decide +kernel), (by decide +kernel), rfl, rfl, rfl, (by decide +kernel), (by decide +kernel), rfl, rfl⟩,
   ⟨{ withQp device 0 with now := 54999 }, 0, qp 0, _, (by decide +kernel), (by decide +kernel), rfl, (by decide +kernel), (by decide +kernel)⟩⟩

/-- What the clauses of RtpAndRtcpPacketsAct ask can be met. -/
theorem met_RtpAndRtcpPacketsAct :
    (∃ s : State, ∃ u : State, ∃ k : RtpPacket, ∃ own : Option (Nat × Stream), own = (s.rtpMatches k).find? (fun (e : Nat
      × Stream) => e.2.intake.ssrc == k.ssrc) ∧ u = s.pauseAbove (k.mac.val / 4) (s.rtpPrio (((own.or (s.rtpMatches
      k).head?).map (fun (e : Nat × Stream) => e.2.part.val)).getD 16)) k.rxFill ∧ k.checksOk = false) ∧
    (∃ s : State, ∃ u : State, ∃ k : RtpPacket, ∃ own : Option (Nat × Stream), own = (s.rtpMatches k).find? (fun (e : Nat
      × Stream) => e.2.intake.ssrc == k.ssrc) ∧ u = s.pauseAbove (k.mac.val / 4) (s.rtpPrio (((own.or (s.rtpMatches
      k).head?).map (fun (e : Nat × Stream) => e.2.part.val)).getD 16)) k.rxFill ∧ k.checksOk = true ∧ s.ownFrame
      k.mac.val k.dst k.vlan = false) ∧
    (∃ s : State, ∃ u : State, ∃ k : RtpPacket, ∃ own : Option (Nat × Stream), ∃ i : Nat, ∃ n : Nat, ∃ x : Stream, own =
      (s.rtpMatches k).find? (fun (e : Nat × Stream) => e.2.intake.ssrc == k.ssrc) ∧ u = s.pauseAbove (k.mac.val / 4)
      (s.rtpPrio (((own.or (s.rtpMatches k).head?).map (fun (e : Nat × Stream) => e.2.part.val)).getD 16)) k.rxFill ∧
      k.checksOk = true ∧ s.ownFrame k.mac.val k.dst k.vlan = true ∧ own = some (i, x) ∧ n = s.nextChunkSamples x ∧
      (rtpSamples x.binding k.payload = none ∨ x.takesInput = false ∨ n = 0)) ∧
    (∃ s : State, ∃ u : State, ∃ k : RtpPacket, ∃ own : Option (Nat × Stream), ∃ i : Nat, ∃ n : Nat, ∃ x : Stream, ∃ ws :
      List Bytes, own = (s.rtpMatches k).find? (fun (e : Nat × Stream) => e.2.intake.ssrc == k.ssrc) ∧ u = s.pauseAbove
      (k.mac.val / 4) (s.rtpPrio (((own.or (s.rtpMatches k).head?).map (fun (e : Nat × Stream) => e.2.part.val)).getD
      16)) k.rxFill ∧ k.checksOk = true ∧ s.ownFrame k.mac.val k.dst k.vlan = true ∧ own = some (i, x) ∧ n =
      s.nextChunkSamples x ∧ rtpSamples x.binding k.payload = some ws ∧ x.takesInput = true ∧ n ≠ 0) ∧
    (∃ s : State, ∃ u : State, ∃ k : RtpPacket, ∃ own : Option (Nat × Stream), ∃ i : Nat, ∃ n : Nat, ∃ x : Stream, own =
      (s.rtpMatches k).find? (fun (e : Nat × Stream) => e.2.intake.ssrc == k.ssrc) ∧ u = s.pauseAbove (k.mac.val / 4)
      (s.rtpPrio (((own.or (s.rtpMatches k).head?).map (fun (e : Nat × Stream) => e.2.part.val)).getD 16)) k.rxFill ∧
      k.checksOk = true ∧ s.ownFrame k.mac.val k.dst k.vlan = true ∧ own = none ∧ (s.rtpMatches k).filter (fun (e : Nat ×
      Stream) => bndFollow e.2.binding) = [(i, x)] ∧ n = s.nextChunkSamples x ∧ (rtpSamples x.binding k.payload = none ∨
      x.takesInput = false ∨ x.intake.stopAt.isSome = true ∨ n = 0)) ∧
    (∃ s : State, ∃ u : State, ∃ k : RtpPacket, ∃ own : Option (Nat × Stream), ∃ i : Nat, ∃ n : Nat, ∃ x : Stream, ∃ ws :
      List Bytes, own = (s.rtpMatches k).find? (fun (e : Nat × Stream) => e.2.intake.ssrc == k.ssrc) ∧ u = s.pauseAbove
      (k.mac.val / 4) (s.rtpPrio (((own.or (s.rtpMatches k).head?).map (fun (e : Nat × Stream) => e.2.part.val)).getD
      16)) k.rxFill ∧ k.checksOk = true ∧ s.ownFrame k.mac.val k.dst k.vlan = true ∧ own = none ∧ (s.rtpMatches k).filter
      (fun (e : Nat × Stream) => bndFollow e.2.binding) = [(i, x)] ∧ n = s.nextChunkSamples x ∧ rtpSamples x.binding
      k.payload = some ws ∧ x.takesInput = true ∧ x.intake.stopAt = none ∧ n ≠ 0) ∧
    (∃ s : State, ∃ u : State, ∃ k : RtpPacket, ∃ own : Option (Nat × Stream), own = (s.rtpMatches k).find? (fun (e : Nat
      × Stream) => e.2.intake.ssrc == k.ssrc) ∧ u = s.pauseAbove (k.mac.val / 4) (s.rtpPrio (((own.or (s.rtpMatches
      k).head?).map (fun (e : Nat × Stream) => e.2.part.val)).getD 16)) k.rxFill ∧ k.checksOk = true ∧ s.ownFrame
      k.mac.val k.dst k.vlan = true ∧ own = none ∧ ((s.rtpMatches k).filter (fun (e : Nat × Stream) => bndFollow
      e.2.binding)).length ≠ 1 ∧ (s.rtpMatches k).length ≠ 1) ∧
    (∃ s : State, ∃ u : State, ∃ k : RtpPacket, ∃ own : Option (Nat × Stream), ∃ i : Nat, ∃ x : Stream, own =
      (s.rtpMatches k).find? (fun (e : Nat × Stream) => e.2.intake.ssrc == k.ssrc) ∧ u = s.pauseAbove (k.mac.val / 4)
      (s.rtpPrio (((own.or (s.rtpMatches k).head?).map (fun (e : Nat × Stream) => e.2.part.val)).getD 16)) k.rxFill ∧
      k.checksOk = true ∧ s.ownFrame k.mac.val k.dst k.vlan = true ∧ own = none ∧ ((s.rtpMatches k).filter (fun (e : Nat
      × Stream) => bndFollow e.2.binding)).length ≠ 1 ∧ s.rtpMatches k = [(i, x)]) ∧
    (∃ s : State, ∃ i : Nat, ∃ n : Nat, ∃ k : RtpPacket, ∃ x : Stream, ∃ y : Stream, x = s.stream i ∧ y = (if
      x.intake.ts0.isSome then x else x.startTs k.timestamp x.sampleCount.toNat) ∧ (x.sampleCount.toNat + 4 * n : Int) ≤
      y.rtpStart k.timestamp ∧ (∀ e : EarlyPacket, x.intake.early = some e → k.timestamp ≠ e.ts + BitVec.ofNat 32
      e.samples)) ∧
    (∃ s : State, ∃ i : Nat, ∃ n : Nat, ∃ k : RtpPacket, ∃ x : Stream, ∃ y : Stream, x = s.stream i ∧ y = (if
      x.intake.ts0.isSome then x else x.startTs k.timestamp x.sampleCount.toNat) ∧ y.rtpStart k.timestamp <
      (x.sampleCount.toNat + 4 * n : Int)) ∧
    (∃ s : State, ∃ i : Nat, ∃ n : Nat, ∃ lo : Nat, ∃ ws : List Bytes, ∃ x : Stream, ∃ y : Stream, ∃ now : W64, x =
      s.stream i ∧ lo = x.sampleCount.toNat ∧ ws ≠ [] ∧ ws.length ≤ 4 * n ∧ x.intake.stopAt = none ∧ (∀ j : Nat, j <
      ws.length → tabGet? x.intake.samples (lo + j) = none) ∧ y =
      { x with lastSample := now, intake := { x.intake with samples := (List.range ws.length).foldl (fun (t : Tab Bytes) j => tabPut t (lo + j) (ws.getD j [])) x.intake.samples, kept := x.intake.kept ++ [⟨lo, lo + ws.length - 1, now⟩] } }
      ∧ (s.setStream i y).poolUse ≤ poolBytes) ∧
    (∃ s : State, ∃ i : Nat, ∃ n : Nat, ∃ lo : Nat, ∃ ws : List Bytes, ∃ x : Stream, ∃ y : Stream, ∃ now : W64, x =
      s.stream i ∧ lo = x.sampleCount.toNat ∧ ws ≠ [] ∧ ws.length ≤ 4 * n ∧ x.intake.stopAt = none ∧ (∀ j : Nat, j <
      ws.length → tabGet? x.intake.samples (lo + j) = none) ∧ y =
      { x with lastSample := now, intake := { x.intake with samples := (List.range ws.length).foldl (fun (t : Tab Bytes) j => tabPut t (lo + j) (ws.getD j [])) x.intake.samples, kept := x.intake.kept ++ [⟨lo, lo + ws.length - 1, now⟩] } }
      ∧ poolBytes < (s.setStream i y).poolUse) ∧
    (∃ s : State, ∃ i : Nat, ∃ n : Nat, ∃ lo : Nat, ∃ start : Int, ∃ ws : List Bytes, ∃ x : Stream, ∃ z : Stream, ∃ now :
      W64, x = s.stream i ∧ lo = x.sampleCount.toNat ∧ z = (s.placeSamples i n start ws now).stream i ∧ (∀ j : Nat, j <
      ws.length → start + (j : Int) < lo ∨ (x.intake.stopAt.getD (lo + 4 * n) : Int) ≤ start + (j : Int) ∨ (lo + 4 * n :
      Int) ≤ start + (j : Int))) ∧
    (∃ s : State, ∃ mac : Fin 16, ∃ u : State, u = s.modMac mac.val (fun (x : Mac) =>
      { x with rtcpCnt := x.rtcpCnt + 1 })) ∧
    (∃ s : State, ∃ i : Fin 16384, ∃ x : Stream, ∃ m : Nat, ∃ size : Nat, ∃ sends : Prop, x = s.stream i.val ∧ m = rtpMac
      x.sink ∧ (sends ↔ x.sinkKind = 1 ∧ x.state ≠ .closed ∧ x.state ≠ .opening ∧ ∀ h, x.shadow = some h → h.adopted =
      true) ∧ size = (if le x.binding 6 1 = 0 then 2 else 3) * max 1 (bndChannelsOut x.binding) ∧ ¬ sends) ∧
    (∃ s : State, ∃ i : Fin 16384, ∃ x : Stream, ∃ m : Nat, ∃ size : Nat, ∃ sends : Prop, x = s.stream i.val ∧ m = rtpMac
      x.sink ∧ (sends ↔ x.sinkKind = 1 ∧ x.state ≠ .closed ∧ x.state ≠ .opening ∧ ∀ h, x.shadow = some h → h.adopted =
      true) ∧ size = (if le x.binding 6 1 = 0 then 2 else 3) * max 1 (bndChannelsOut x.binding) ∧ sends ∧ (s.mac m).up =
      false) ∧
    (∃ s : State, ∃ i : Fin 16384, ∃ x : Stream, ∃ m : Nat, ∃ size : Nat, ∃ sends : Prop, ∃ ts : W32, x = s.stream i.val
      ∧ m = rtpMac x.sink ∧ (sends ↔ x.sinkKind = 1 ∧ x.state ≠ .closed ∧ x.state ≠ .opening ∧ ∀ h, x.shadow = some h →
      h.adopted = true) ∧ size = (if le x.binding 6 1 = 0 then 2 else 3) * max 1 (bndChannelsOut x.binding) ∧ sends ∧
      (s.mac m).up = true ∧ (ts = (if bndAlign x.binding = true ∧ x.srcKind = 1 ∧ bndRateOut x.binding =
      x.sampleRate.toNat then x.intake.ts0.getD 0 else BitVec.ofNat 32 (le x.binding 0x10 4)))) :=
  ⟨⟨device, _, (⟨0, mapped4 7, 0, 0, 0, 0, 0, 0, [1, 2], false, 0⟩ : RtpPacket), _, rfl, rfl, (by decide +kernel)⟩,
   ⟨device, _, (⟨0, mapped4 7, 0, 0, 0, 0, 0, 0, [1, 2], true, 0⟩ : RtpPacket), _, rfl, rfl, (by decide +kernel), (by decide +kernel)⟩,
   ⟨{ withStream stream with macs := [(0, { Mac.cold with up := true, ip4 := 7 })] }, _, (⟨0, mapped4 7, 0, 0, 0, 0, 0, 0, [], true, 0⟩ : RtpPacket), _, 3, _, stream, rfl, rfl, (by decide +kernel), (by decide +kernel), (by decide +kernel), rfl, (Or.inl (by decide +kernel))⟩,
   ⟨{ withStream { stream with binding := page 128 [(5, 1)], intake := { stream.intake with ts0 := some 0 } } with macs := [(0, { Mac.cold with up := true, ip4 := 7 })] }, _, (⟨0, mapped4 7, 0, 0, 0, 0, 0, 0, [1, 2], true, 0⟩ : RtpPacket), _, 3, _, { stream with binding := page 128 [(5, 1)], intake := { stream.intake with ts0 := some 0 } }, [[0, 0, 2, 1]], rfl, rfl, (by decide +kernel), (by decide +kernel), (by decide +kernel), rfl, (by decide +kernel), (by decide +kernel), (by decide +kernel)⟩,
   ⟨{ withStream { stream with binding := page 128 [(0, 1), (5, 1)] } with macs := [(0, { Mac.cold with up := true, ip4 := 7 })] }, _, (⟨0, mapped4 7, 0, 0, 0, 9, 0, 0, [], true, 0⟩ : RtpPacket), _, 3, _, { stream with binding := page 128 [(0, 1), (5, 1)] }, rfl, rfl, (by decide +kernel), (by decide +kernel), (by decide +kernel), (by decide +kernel), rfl, (Or.inl (by decide +kernel))⟩,
   ⟨{ withStream { stream with binding := page 128 [(0, 1), (5, 1)] } with macs := [(0, { Mac.cold with up := true, ip4 := 7 })] }, _, (⟨0, mapped4 7, 0, 0, 0, 9, 0, 0, [1, 2], true, 0⟩ : RtpPacket), _, 3, _, { stream with binding := page 128 [(0, 1), (5, 1)] }, [[0, 0, 2, 1]], rfl, rfl, (by decide +kernel), (by decide +kernel), (by decide +kernel), (by decide +kernel), rfl, (by decide +kernel), (by decide +kernel), (by decide +kernel), (by decide +kernel)⟩,
   ⟨{ withStream { stream with source := 0 } with macs := [(0, { Mac.cold with up := true, ip4 := 7 })] }, _, (⟨0, mapped4 7, 0, 0, 0, 0, 0, 0, [1, 2], true, 0⟩ : RtpPacket), _, rfl, rfl, (by decide +kernel), (by decide +kernel), (by decide +kernel), (by decide +kernel), (by decide +kernel)⟩,
   ⟨{ withStream stream with macs := [(0, { Mac.cold with up := true, ip4 := 7 })] }, _, (⟨0, mapped4 7, 0, 0, 0, 9, 0, 0, [1, 2], true, 0⟩ : RtpPacket), _, 3, stream, rfl, rfl, (by decide +kernel), (by decide +kernel), (by decide +kernel), (by decide +kernel), (by decide +kernel)⟩,
   ⟨withStream { stream with intake := { stream.intake with ts0 := some 0 } }, 3, 48, (⟨0, mapped4 7, 0, 0, 0, 0, 0, 1000, [1, 2], true, 0⟩ : RtpPacket), { stream with intake := { stream.intake with ts0 := some 0 } }, { stream with intake := { stream.intake with ts0 := some 0 } }, (by decide +kernel), (by decide +kernel), (by decide +kernel), (fun e h => nomatch (show (none : Option EarlyPacket) = some e from h))⟩,
   ⟨withStream { stream with intake := { stream.intake with ts0 := some 0 } }, 3, 48, (⟨0, mapped4 7, 0, 0, 0, 0, 0, 191, [1, 2], true, 0⟩ : RtpPacket), { stream with intake := { stream.intake with ts0 := some 0 } }, { stream with intake := { stream.intake with ts0 := some 0 } }, (by decide +kernel), (by decide +kernel), (by decide +kernel)⟩,
   ⟨withStream stream, 3, 1, _, [[1, 0, 0, 0], [2, 0, 0, 0]], stream, _, 5, (by decide +kernel), rfl, (by decide +kernel), (by decide +kernel), (by decide +kernel), (by decide +kernel), rfl, (by decide +kernel)⟩,
   ⟨withStream ({ stream with chunks := [{ chunk with archived := false, frames := 31000000 }] }), 3, 1, _, [[1, 0, 0, 0], [2, 0, 0, 0]], { stream with chunks := [{ chunk with archived := false, frames := 31000000 }] }, _, 5, (by decide +kernel), rfl, (by decide +kernel), (by decide +kernel), (by decide +kernel), (by decide +kernel), rfl, (by decide +kernel)⟩,
   ⟨withStream stream, 3, 1, _, 4, [[1, 0, 0, 0], [2, 0, 0, 0]], stream, _, 5, (by decide +kernel), rfl, rfl, (by decide +kernel)⟩,
   ⟨device, 0, _, rfl⟩,
   ⟨device, 0, _, _, _, _, rfl, rfl, Iff.rfl, rfl, (fun h => absurd h.1 (by decide +kernel))⟩,
   ⟨withStream ({ stream with sink := BitVec.ofNat 64 (2 ^ 60) }), 3, { stream with sink := BitVec.ofNat 64 (2 ^ 60) }, _, _, _, (by decide +kernel), rfl, Iff.rfl, rfl, ⟨by decide +kernel, by decide +kernel, by decide +kernel, (fun h e => nomatch (show (none : Option ShadowSide) = some h from e))⟩, (by decide +kernel)⟩,
   ⟨{ withStream { stream with sink := BitVec.ofNat 64 (2 ^ 60) } with macs := [(0, { Mac.cold with up := true, ip4 := 7 })] }, 3, { stream with sink := BitVec.ofNat 64 (2 ^ 60) }, _, _, _, _, (by decide +kernel), rfl, Iff.rfl, rfl, ⟨by decide +kernel, by decide +kernel, by decide +kernel, (fun h e => nomatch (show (none : Option ShadowSide) = some h from e))⟩, (by decide +kernel), rfl⟩⟩

/-- What the clauses of LanesLinksAndPauseAct ask can be met. -/
theorem met_LanesLinksAndPauseAct :
    (∃ s : State, ∃ p : Fin 4, ∃ prio : Fin 8, ∃ x : Port, ∃ b : BitVec 8, ∃ f : Nat, ∃ u : State, x = s.port p.val ∧ b =
      BitVec.ofNat 8 (2 ^ prio.val) ∧ u = s.pauseAbove p.val prio.val f ∧ bit x.ctl.toNat (53 + prio.val) = true ∧
      x.pfcWd.getLsbD prio.val = false) ∧
    (∃ s : State, ∃ p : Fin 4, ∃ prio : Fin 8, ∃ x : Port, ∃ b : BitVec 8, ∃ f : Nat, ∃ u : State, x = s.port p.val ∧ b =
      BitVec.ofNat 8 (2 ^ prio.val) ∧ u = s.pauseAbove p.val prio.val f ∧ (bit x.ctl.toNat (53 + prio.val) = false ∨
      x.pfcWd.getLsbD prio.val = true)) ∧
    (∃ s : State, ∃ p : Fin 4, ∃ prio : Fin 8, ∃ x : Port, ∃ b : BitVec 8, x = s.port p.val ∧ b = BitVec.ofNat 8 (2 ^
      prio.val) ∧ x.held.getLsbD prio.val = true ∧ x.pfcWd.getLsbD prio.val = false ∧ x.pfcSince prio.val + 100000000 <
      s.time) ∧
    (∃ s : State, ∃ p : Fin 4, ∃ prio : Fin 8, ∃ x : Port, ∃ b : BitVec 8, x = s.port p.val ∧ b = BitVec.ofNat 8 (2 ^
      prio.val) ∧ (x.held.getLsbD prio.val = false ∨ x.pfcWd.getLsbD prio.val = true ∨ s.time ≤ x.pfcSince prio.val +
      100000000)) ∧
    (∃ s : State, ∃ p : Fin 4, ∃ prio : Fin 8, ∃ x : Port, ∃ b : BitVec 8, x = s.port p.val ∧ b = BitVec.ofNat 8 (2 ^
      prio.val) ∧ x.pfcWd.getLsbD prio.val = true ∧ x.pfcSince prio.val + 1000000000 ≤ s.time) ∧
    (∃ s : State, ∃ p : Fin 4, ∃ prio : Fin 8, ∃ x : Port, ∃ b : BitVec 8, x = s.port p.val ∧ b = BitVec.ofNat 8 (2 ^
      prio.val) ∧ (x.pfcWd.getLsbD prio.val = false ∨ s.time < x.pfcSince prio.val + 1000000000)) ∧
    (∃ s : State, ∃ t : State, ∃ p : Nat, ∃ l : Nat, ∃ m : Nat, t = s.laneMacDown p l ∧ m = 4 * p + (if (s.port
      p).breakout = 0 then 0 else if (s.port p).breakout = 1 then l / 2 else l)) ∧
    (∃ s : State, ∃ p : Fin 4, ∃ x : Port, ∃ y : Port, ∃ lane : Fin 5, x = s.port p.val ∧ y =
      { x with laneFault := satAdd x.laneFault 1 } ∧ lane.val < 4 ∧ ((x.spareState = 2 ∧ x.spareFor.toNat = lane.val) ∨
      (∃ d : W64, x.failing = some (lane, d)))) ∧
    (∃ s : State, ∃ p : Fin 4, ∃ x : Port, ∃ y : Port, ∃ lane : Fin 5, x = s.port p.val ∧ y =
      { x with laneFault := satAdd x.laneFault 1 } ∧ lane.val < 4 ∧ (¬ (x.spareState = 2 ∧ x.spareFor.toNat = lane.val))
      ∧ (∀ d : W64, x.failing ≠ some (lane, d)) ∧ x.spareOn = true ∧ x.spareState = 0) ∧
    (∃ s : State, ∃ p : Fin 4, ∃ x : Port, ∃ y : Port, ∃ lane : Fin 5, x = s.port p.val ∧ y =
      { x with laneFault := satAdd x.laneFault 1 } ∧ lane.val < 4 ∧ (¬ (x.spareState = 2 ∧ x.spareFor.toNat = lane.val))
      ∧ (∀ d : W64, x.failing ≠ some (lane, d)) ∧ (x.spareOn = false ∨ x.spareState ≠ 0)) ∧
    (∃ s : State, ∃ p : Fin 4, ∃ x : Port, ∃ y : Port, ∃ lane : Fin 5, x = s.port p.val ∧ y =
      { x with laneFault := satAdd x.laneFault 1 } ∧ lane.val = 4 ∧ x.spareState = 2) ∧
    (∃ s : State, ∃ p : Fin 4, ∃ x : Port, ∃ y : Port, ∃ lane : Fin 5, x = s.port p.val ∧ y =
      { x with laneFault := satAdd x.laneFault 1 } ∧ lane.val = 4 ∧ (x.spareState = 0 ∨ x.spareState = 3)) ∧
    (∃ s : State, ∃ p : Fin 4, ∃ x : Port, ∃ y : Port, ∃ lane : Fin 5, ∃ u : State, x = s.port p.val ∧ y =
      { x with laneFault := satAdd x.laneFault 1 } ∧ lane.val = 4 ∧ x.spareState = 1 ∧ u = s.setPort p.val
      { y with spareState := 3, failing := none, retire := none } ∧ x.retire = none) ∧
    (∃ s : State, ∃ p : Fin 4, ∃ x : Port, ∃ y : Port, ∃ lane : Fin 5, ∃ u : State, ∃ m : Fin 64, x = s.port p.val ∧ y =
      { x with laneFault := satAdd x.laneFault 1 } ∧ lane.val = 4 ∧ x.spareState = 1 ∧ u = s.setPort p.val
      { y with spareState := 3, failing := none, retire := none } ∧ x.retire = some m) ∧
    (∃ s : State, ∃ p : Fin 4, ∃ x : Port, ∃ y : Port, ∃ n : Nat, x = s.port p.val ∧ y =
      { x with laneFault := satAdd x.laneFault 1 } ∧ bits x.ctl.toNat 32 16 < n) ∧
    (∃ s : State, ∃ p : Fin 4, ∃ x : Port, ∃ y : Port, ∃ n : Nat, x = s.port p.val ∧ y =
      { x with laneFault := satAdd x.laneFault 1 } ∧ n ≤ bits x.ctl.toNat 32 16) ∧
    (∃ s : State, ∃ p : Fin 4, ∃ x : Port, ∃ y : Port, x = s.port p.val ∧ y =
      { x with laneFault := satAdd x.laneFault 1 } ∧ x.failing = none) ∧
    (∃ s : State, ∃ p : Fin 4, ∃ x : Port, ∃ y : Port, ∃ lane : Fin 5, ∃ d : W64, ∃ u : State, ∃ v : State, x = s.port
      p.val ∧ y = { x with laneFault := satAdd x.laneFault 1 } ∧ x.failing = some (lane, d) ∧ u =
      { s.setPort p.val { x with spareState := 2, spareFor := BitVec.ofNat 2 lane.val, failing := none, recorded := some lane, retire := none } with flash := { s.flash with ops := s.flash.ops ++ [.wear (unitRecord (unitId 9 p.val lane.val) (physOf 0 0 0 4) 1 0 0xFFFF (physOf 0 0 0 lane.val) s.powerMin)] } }
      ∧ v = s.setPort p.val { x with spareState := 0, failing := none, laneMap := 7, retire := none } ∧ x.retire = none ∧
      d.toNat + 20000 ≤ s.time) ∧
    (∃ s : State, ∃ p : Fin 4, ∃ x : Port, ∃ lane : Fin 5, ∃ d : W64, x = s.port p.val ∧ x.failing = some (lane, d) ∧
      s.time < d.toNat + 20000) ∧
    (∃ s : State, ∃ p : Fin 4, ∃ x : Port, ∃ y : Port, ∃ lane : Fin 5, ∃ d : W64, ∃ u : State, ∃ v : State, ∃ m : Fin 64,
      x = s.port p.val ∧ y = { x with laneFault := satAdd x.laneFault 1 } ∧ x.failing = some (lane, d) ∧ u =
      { s.setPort p.val { x with spareState := 2, spareFor := BitVec.ofNat 2 lane.val, failing := none, recorded := some lane, retire := none } with flash := { s.flash with ops := s.flash.ops ++ [.wear (unitRecord (unitId 9 p.val lane.val) (physOf 0 0 0 4) 1 0 0xFFFF (physOf 0 0 0 lane.val) s.powerMin)] } }
      ∧ v = s.setPort p.val { x with spareState := 0, failing := none, laneMap := 7, retire := none } ∧ x.retire = some
      m ∧ d.toNat + 20000 ≤ s.time) ∧
    (∃ s : State, ∃ m : Fin 16, (s.mac m.val).up = true) ∧
    (∃ s : State, ∃ m : Fin 16, ∃ u : State, ∃ x : Port, ∃ first : Prop, x = s.port (m.val / 4) ∧ (first ↔ ∀ k : Nat, k /
      4 = m.val / 4 → (s.mac k).up = false) ∧ (¬ first → u = s) ∧ (first → u = s.setPort (m.val / 4) x.trained) ∧
      (s.dev.mode.code < 3 ∨ s.pwr.serdesLost = true ∨ (s.mac m.val).up = true ∨ breakoutMacs (u.port (m.val /
      4)).breakout.toNat ≤ m.val % 4)) ∧
    (∃ s : State, ∃ m : Fin 16, ∃ u : State, ∃ x : Port, ∃ first : Prop, x = s.port (m.val / 4) ∧ (first ↔ ∀ k : Nat, k /
      4 = m.val / 4 → (s.mac k).up = false) ∧ (¬ first → u = s) ∧ (first → u = s.setPort (m.val / 4) x.trained) ∧ 3 ≤
      s.dev.mode.code ∧ s.pwr.serdesLost = false ∧ (s.mac m.val).up = false ∧ m.val % 4 < breakoutMacs (u.port (m.val /
      4)).breakout.toNat) ∧
    (∃ x : Port, ∃ y : Port, y =
      { x with breakout := BitVec.ofNat 2 (bits x.ctl.toNat 62 2), spareOn := bit x.ctl.toNat 61 } ∧ (x.recorded = none ∨
      bit x.ctl.toNat 61 = false)) ∧
    (∃ x : Port, ∃ y : Port, ∃ l : Fin 5, y =
      { x with breakout := BitVec.ofNat 2 (bits x.ctl.toNat 62 2), spareOn := bit x.ctl.toNat 61 } ∧ x.recorded = some l
      ∧ bit x.ctl.toNat 61 = true) :=
  ⟨⟨{ device with ports := [(0, { Port.cold with ctl := BitVec.ofNat 64 (2 ^ 61 + 512 * 2 ^ 32 + 2 ^ 56) })] }, 0, 3, _, _, 0x80000, _, rfl, rfl, rfl, (by decide +kernel), (by decide +kernel)⟩,
   ⟨device, 0, 3, _, _, 0, _, rfl, rfl, rfl, (Or.inl (by decide +kernel))⟩,
   ⟨{ device with ports := [(0, { Port.cold with held := 8, pfcFrom := [(3, 5)] })], now := 100000006 }, 0, 3, _, _, rfl, rfl, (by decide +kernel), (by decide +kernel), (by decide +kernel)⟩,
   ⟨{ device with ports := [(0, { Port.cold with held := 8, pfcFrom := [(3, 5)] })], now := 100000005 }, 0, 3, _, _, rfl, rfl, (Or.inr (Or.inr (by decide +kernel)))⟩,
   ⟨{ device with ports := [(0, { Port.cold with pfcWd := 8, pfcFrom := [(3, 5)] })], now := 1000000005 }, 0, 3, _, _, rfl, rfl, (by decide +kernel), (by decide +kernel)⟩,
   ⟨{ device with ports := [(0, { Port.cold with pfcWd := 8, pfcFrom := [(3, 5)] })], now := 1000000004 }, 0, 3, _, _, rfl, rfl, (Or.inr (by decide +kernel))⟩,
   ⟨device, _, 0, 0, 0, rfl, (by decide +kernel)⟩,
   ⟨{ device with ports := [(0, { Port.cold with failing := some (2, 5) })] }, 0, _, _, 2, rfl, rfl, (by decide +kernel), (Or.inr ⟨5, by decide +kernel⟩)⟩,
   ⟨device, 0, _, _, 2, rfl, rfl, (by decide +kernel), (by decide +kernel), (fun d h => nomatch (show (none : Option (Fin 5 × W64)) = some (2, d) from h)), (by decide +kernel), (by decide +kernel)⟩,
   ⟨{ device with ports := [(0, { Port.cold with spareOn := false })] }, 0, _, _, 2, rfl, rfl, (by decide +kernel), (by decide +kernel), (fun d h => nomatch (show (none : Option (Fin 5 × W64)) = some (2, d) from h)), (Or.inl (by decide +kernel))⟩,
   ⟨{ device with ports := [(0, { Port.cold with spareState := 2 })] }, 0, _, _, 4, rfl, rfl, (by decide +kernel), (by decide +kernel)⟩,
   ⟨device, 0, _, _, 4, rfl, rfl, (by decide +kernel), (Or.inl (by decide +kernel))⟩,
   ⟨{ device with ports := [(0, { Port.cold with spareState := 1, failing := some (2, 5) })] }, 0, _, _, 4, _, rfl, rfl, (by decide +kernel), (by decide +kernel), rfl, (by decide +kernel)⟩,
   ⟨{ asked bare 0x905 [(0x40, 9 * 2 ^ 56)] with ports := [(0, { Port.cold with spareState := 1, retire := some 0, failing := some (2, 5) })] }, 0, _, _, 4, _, 0, rfl, rfl, (by decide +kernel), (by decide +kernel), rfl, (by decide +kernel)⟩,
   ⟨device, 0, _, _, 513, rfl, rfl, (by decide +kernel)⟩,
   ⟨device, 0, _, _, 512, rfl, rfl, (by decide +kernel)⟩,
   ⟨device, 0, _, _, rfl, rfl, (by decide +kernel)⟩,
   ⟨{ device with ports := [(0, { Port.cold with failing := some (2, 5) })], now := 20005 }, 0, _, _, 2, 5, _, _, rfl, rfl, (by decide +kernel), rfl, rfl, (by decide +kernel), (by decide +kernel)⟩,
   ⟨{ device with ports := [(0, { Port.cold with failing := some (2, 5) })], now := 20004 }, 0, _, 2, 5, rfl, (by decide +kernel), (by decide +kernel)⟩,
   ⟨{ asked bare 0x905 [(0x40, 9 * 2 ^ 56)] with ports := [(0, { Port.cold with spareState := 1, retire := some 0, failing := some (2, 5) })], now := 20005 }, 0, _, _, 2, 5, _, _, 0, rfl, rfl, (by decide +kernel), rfl, rfl, (by decide +kernel), (by decide +kernel)⟩,
   ⟨{ device with macs := [(0, { Mac.cold with up := true })] }, 0, (by decide +kernel)⟩,
   ⟨{ device with macs := [(0, { Mac.cold with up := true })] }, 0, _, _, _, rfl, Iff.rfl, (fun _ => rfl), (fun h => absurd (h 0 (by decide)) (by decide +kernel)), (Or.inr (Or.inr (Or.inl (by decide +kernel))))⟩,
   ⟨device, 0, (device.setPort 0 (device.port 0).trained), _, _, rfl, Iff.rfl, (fun h => absurd (fun k _ => rfl) h), (fun _ => rfl), (by decide +kernel), (by decide +kernel), (by decide +kernel), (by decide +kernel)⟩,
   ⟨Port.cold, _, rfl, (Or.inl (by decide +kernel))⟩,
   ⟨{ Port.cold with recorded := some 2 }, _, 2, rfl, (by decide +kernel), (by decide +kernel)⟩⟩

/-- What the clauses of MacsAnswerForTheirAddresses ask can be met. -/
theorem met_MacsAnswerForTheirAddresses :
    (∃ s : State, ∃ m : Fin 16, ∃ x : Mac, ∃ drop : State, ∃ a : BitVec 32, x = s.mac m.val ∧ drop = s.setMac m.val
      { x with discarded := x.discarded + 1 } ∧ a = x.ip4 ∧ a ≠ 0) ∧
    (∃ s : State, ∃ m : Fin 16, ∃ x : Mac, ∃ drop : State, ∃ a : BitVec 32, x = s.mac m.val ∧ drop = s.setMac m.val
      { x with discarded := x.discarded + 1 } ∧ (a ≠ x.ip4 ∨ a = 0)) ∧
    (∃ s : State, ∃ m : Fin 16, ∃ x : Mac, ∃ drop : State, ∃ a : BitVec 128, x = s.mac m.val ∧ drop = s.setMac m.val
      { x with discarded := x.discarded + 1 } ∧ a = x.ip6 ∧ a ≠ 0) ∧
    (∃ s : State, ∃ m : Fin 16, ∃ x : Mac, ∃ drop : State, ∃ a : BitVec 128, x = s.mac m.val ∧ drop = s.setMac m.val
      { x with discarded := x.discarded + 1 } ∧ (a ≠ x.ip6 ∨ a = 0)) ∧
    (∃ s : State, ∃ m : Fin 16, ∃ x : Mac, ∃ drop : State, ∃ a : BitVec 128, ∃ own : Prop, x = s.mac m.val ∧ drop =
      s.setMac m.val { x with discarded := x.discarded + 1 } ∧ (own ↔ a = mapped4 x.ip4 ∧ x.ip4 ≠ 0 ∨ a = x.ip6 ∧ x.ip6 ≠
      0) ∧ own) ∧
    (∃ s : State, ∃ m : Fin 16, ∃ x : Mac, ∃ drop : State, ∃ a : BitVec 128, ∃ own : Prop, x = s.mac m.val ∧ drop =
      s.setMac m.val { x with discarded := x.discarded + 1 } ∧ (own ↔ a = mapped4 x.ip4 ∧ x.ip4 ≠ 0 ∨ a = x.ip6 ∧ x.ip6 ≠
      0) ∧ ¬ own) ∧
    (∃ s : State, ∃ m : Fin 16, ∃ x : Mac, ∃ drop : State, ∃ a : BitVec 128, x = s.mac m.val ∧ drop = s.setMac m.val
      { x with discarded := x.discarded + 1 } ∧ a ∈ x.resolving) ∧
    (∃ s : State, ∃ m : Fin 16, ∃ x : Mac, ∃ drop : State, ∃ a : BitVec 128, x = s.mac m.val ∧ drop = s.setMac m.val
      { x with discarded := x.discarded + 1 } ∧ a ∉ x.resolving) :=
  ⟨⟨{ device with macs := [(0, { Mac.cold with ip4 := 7, ip6 := 9, resolving := [5] })] }, 0, _, _, 7, rfl, rfl, (by decide +kernel), (by decide +kernel)⟩,
   ⟨{ device with macs := [(0, { Mac.cold with ip4 := 7, ip6 := 9, resolving := [5] })] }, 0, _, _, 8, rfl, rfl, (Or.inl (by decide +kernel))⟩,
   ⟨{ device with macs := [(0, { Mac.cold with ip4 := 7, ip6 := 9, resolving := [5] })] }, 0, _, _, 9, rfl, rfl, (by decide +kernel), (by decide +kernel)⟩,
   ⟨{ device with macs := [(0, { Mac.cold with ip4 := 7, ip6 := 9, resolving := [5] })] }, 0, _, _, 8, rfl, rfl, (Or.inl (by decide +kernel))⟩,
   ⟨{ device with macs := [(0, { Mac.cold with ip4 := 7, ip6 := 9, resolving := [5] })] }, 0, _, _, 9, _, rfl, rfl, Iff.rfl, (Or.inr (by decide +kernel))⟩,
   ⟨{ device with macs := [(0, { Mac.cold with ip4 := 7, ip6 := 9, resolving := [5] })] }, 0, _, _, 8, _, rfl, rfl, Iff.rfl, (by decide +kernel)⟩,
   ⟨{ device with macs := [(0, { Mac.cold with ip4 := 7, ip6 := 9, resolving := [5] })] }, 0, _, _, 5, rfl, rfl, (by decide +kernel)⟩,
   ⟨{ device with macs := [(0, { Mac.cold with ip4 := 7, ip6 := 9, resolving := [5] })] }, 0, _, _, 6, rfl, rfl, (by decide +kernel)⟩⟩

/-- What the clauses of ManagementServiceAnswers ask can be met. -/
theorem met_ManagementServiceAnswers :
    (∃ r : MgmtRequest, (r.op = 2 ∨ r.op = 3)) ∧
    (∃ r : MgmtRequest, r.op ≠ 2) ∧
    (∃ r : MgmtRequest, r.op ≠ 3) ∧
    (∃ s : State, ∃ r : MgmtRequest, ∃ i : Instr, (i = .mgmtRead r ∧ r.op ≠ 2 ∧ r.op ≠ 3 ∨ i = .mgmtWrite r ∧ r.op = 2 ∨
      i = .mgmtDoorbell r ∧ r.op = 3) ∧ (s.dev.mode.code < 2 ∨ s.mgmt.allows r.src = false)) ∧
    (∃ s : State, ∃ r : MgmtRequest, ∃ i : Instr, ∃ held, ∃ e, (i = .mgmtRead r ∧ r.op ≠ 2 ∧ r.op ≠ 3 ∨ i = .mgmtWrite r
      ∧ r.op = 2 ∨ i = .mgmtDoorbell r ∧ r.op = 3) ∧ 2 ≤ s.dev.mode.code ∧ s.mgmt.allows r.src = true ∧ held =
      s.mgmt.answered.filter (fun e => decide (s.time < e.2.2.1.toNat + 1000000000)) ∧ held.find? (fun e => e.1 == r.src
      && e.2.1 == r.tag) = some e) ∧
    (∃ s : State, ∃ r : MgmtRequest, ∃ i : Instr, ∃ held, ∃ t : State, ∃ st : Nat, ∃ d : Bytes, ∃ p : Bytes, ∃ a : Nat,
      (i = .mgmtRead r ∧ r.op ≠ 2 ∧ r.op ≠ 3 ∨ i = .mgmtWrite r ∧ r.op = 2 ∨ i = .mgmtDoorbell r ∧ r.op = 3) ∧ 2 ≤
      s.dev.mode.code ∧ s.mgmt.allows r.src = true ∧ held = s.mgmt.answered.filter (fun e => decide (s.time <
      e.2.2.1.toNat + 1000000000)) ∧ held.find? (fun e => e.1 == r.src && e.2.1 == r.tag) = none ∧ a = r.addr.toNat -
      ctlBase ∧ p = mgmtPacket r st d ∧ ((r.reservedField = true ∧ st = 2 ∧ d = [] ∧ t = s) ∨ (r.reservedField = false ∧
      ((r.op = 1 ∧ (r.inMailboxes || r.inControl) = true ∧ st = 0 ∧ d = s.bus r.addr.toNat r.length.toNat ∧ t = s) ∨
      (r.op = 1 ∧ (r.inMailboxes || r.inControl) = false ∧ st = 1 ∧ d = [] ∧ t = s) ∨ (r.op = 2 ∧ r.inMailboxes = true ∧
      st = 0 ∧ d = [] ∧ t = s.outerWrite r.addr.toNat r.data) ∨ (r.op = 2 ∧ r.inMailboxes = false ∧ (r.inControl = false ∨ ∃ k
      : Nat, k < r.length.toNat / 8 ∧ ctlWritable (a + 8 * k) = false) ∧ st = 1 ∧ d = [] ∧ t = s) ∨ (r.op = 2 ∧
      r.inMailboxes = false ∧ r.inControl = true ∧ (∀ k : Nat, k < r.length.toNat / 8 → ctlWritable (a + 8 * k) = true) ∧
      st = 0 ∧ d = [] ∧ t = (List.range (r.length.toNat / 8)).foldl (fun v k => v.ctlWrite (a + 8 * k) (BitVec.ofNat 64
      (le r.data (8 * k) 8)) false) s) ∨ (r.op = 3 ∧ st = 0 ∧ d = [] ∧ t = s.ringDoorbell (Fin.ofNat 64
      r.addr.toNat)))))) :=
  ⟨⟨(⟨1, 2, 0, 3, 8, 0, BitVec.ofNat 64 mbxBase, []⟩ : MgmtRequest), (Or.inl (by decide +kernel))⟩,
   ⟨(⟨1, 1, 0, 3, 8, 0, BitVec.ofNat 64 mbxBase, []⟩ : MgmtRequest), (by decide +kernel)⟩,
   ⟨(⟨1, 1, 0, 3, 8, 0, BitVec.ofNat 64 mbxBase, []⟩ : MgmtRequest), (by decide +kernel)⟩,
   ⟨{ device with mgmt := { device.mgmt with allow := some [] } }, (⟨1, 1, 0, 3, 8, 0, BitVec.ofNat 64 mbxBase, []⟩ : MgmtRequest), .mgmtRead (⟨1, 1, 0, 3, 8, 0, BitVec.ofNat 64 mbxBase, []⟩ : MgmtRequest), (Or.inl ⟨rfl, by decide +kernel, by decide +kernel⟩), (Or.inr (by decide +kernel))⟩,
   ⟨{ device with mgmt := { device.mgmt with answered := [(1, 3, 999999999, [7])] } }, (⟨1, 1, 0, 3, 8, 0, BitVec.ofNat 64 mbxBase, []⟩ : MgmtRequest), .mgmtRead (⟨1, 1, 0, 3, 8, 0, BitVec.ofNat 64 mbxBase, []⟩ : MgmtRequest), _, (1, 3, 999999999, [7]), (Or.inl ⟨rfl, by decide +kernel, by decide +kernel⟩), (by decide +kernel), (by decide +kernel), rfl, (by decide +kernel)⟩,
   ⟨device, (⟨1, 1, 0, 3, 8, 0, BitVec.ofNat 64 mbxBase, []⟩ : MgmtRequest), .mgmtRead (⟨1, 1, 0, 3, 8, 0, BitVec.ofNat 64 mbxBase, []⟩ : MgmtRequest), _, device, 0, (device.bus mbxBase 8), _, _, (Or.inl ⟨rfl, by decide +kernel, by decide +kernel⟩), (by decide +kernel), (by decide +kernel), rfl, (by decide +kernel), rfl, rfl, (Or.inr ⟨by decide +kernel, Or.inl ⟨by decide +kernel, by decide +kernel, rfl, rfl, rfl⟩⟩)⟩⟩

/-- What the clauses of SidebandRingsAndSupervisorsAct ask can be met. -/
theorem met_SidebandRingsAndSupervisorsAct :
    (∃ s : State, s.dev.mode = .off) ∧
    (∃ s : State, s.dev.mode ≠ .off ∧ s.dev.mode.code < 4) ∧
    (∃ s : State, s.dev.mode ≠ .off ∧ 4 ≤ s.dev.mode.code) ∧
    (∃ s : State, ∃ r : Fin 16, ∃ x : Ring, x = s.ring r.val ∧ x.enabled = true ∧ x.waiting ≠ []) ∧
    (∃ s : State, ∃ r : Fin 16, ∃ x : Ring, x = s.ring r.val ∧ (x.enabled = false ∨ x.waiting = [])) ∧
    (∃ s : State, ∃ r : Fin 16, ∃ x : Ring, x = s.ring r.val ∧ (x.withheld = false ∨ x.packets = false ∨ (∃ last : W64,
      x.lastPacket = some last ∧ s.time < last.toNat + 10000) ∨ (∀ q : Qp, s.qp? x.qpn.toNat = some q → q.state ≠
      .connected ∨ s.carries q = false))) ∧
    (∃ s : State, ∃ r : Fin 16, ∃ x : Ring, ∃ q : Qp, x = s.ring r.val ∧ x.withheld = true ∧ x.packets = true ∧ (∀ last :
      W64, x.lastPacket = some last → last.toNat + 10000 ≤ s.time) ∧ s.qp? x.qpn.toNat = some q ∧ q.state = .connected ∧
      s.carries q = true) ∧
    (∃ s : State, (s.dev.mode.code < 3 ∨ s.sup.standbyValid = false)) ∧
    (∃ s : State, (s.dev.mode.code < 3 ∨ s.dev.mode = .faulted)) ∧
    (∃ s : State, 3 ≤ s.dev.mode.code ∧ s.sup.standbyValid = true ∧ s.dev.mode ≠ .faulted) ∧
    (∃ s : State, 3 ≤ s.dev.mode.code ∧ s.dev.mode.code ≤ 6 ∧ s.sup.standbyValid = false) ∧
    (∃ s : State, ∃ n : Fin 4, s.sup.loading = some n) ∧
    (∃ s : State, ∃ n : Fin 4, s.sup.loading ≠ some n) :=
  ⟨⟨{ device with dev := { device.dev with mode := .off } }, (by decide +kernel)⟩,
   ⟨inMode device .init, (by decide +kernel), (by decide +kernel)⟩,
   ⟨device, (by decide +kernel), (by decide +kernel)⟩,
   ⟨{ withQp device 16 with rings := [(0, { Ring.cold with enabled := true, waiting := [zeros 64] })] }, 0, _, rfl, (by decide +kernel), (by decide +kernel)⟩,
   ⟨device, 0, _, rfl, (Or.inl (by decide +kernel))⟩,
   ⟨device, 0, _, rfl, (Or.inl (by decide +kernel))⟩,
   ⟨{ withQp { device with macs := [(0, { Mac.cold with up := true })] } 16 with rings := [(0, { Ring.cold with enabled := true, withheld := true, packets := true, qpn := 0 })] }, 0, _, qp 16, rfl, (by decide +kernel), (by decide +kernel), (fun l h => nomatch (show (none : Option W64) = some l from h)), (by decide +kernel), (by decide +kernel), (by decide +kernel)⟩,
   ⟨{ device with sup := { device.sup with standbyValid := false } }, (Or.inr (by decide +kernel))⟩,
   ⟨inMode device .faulted, (Or.inr (by decide +kernel))⟩,
   ⟨device, (by decide +kernel), (by decide +kernel), (by decide +kernel)⟩,
   ⟨{ device with sup := { device.sup with standbyValid := false } }, (by decide +kernel), (by decide +kernel), (by decide +kernel)⟩,
   ⟨{ device with sup := { device.sup with standbyValid := false, loading := some 2 } }, 2, (by decide +kernel)⟩,
   ⟨device, 2, (by decide +kernel)⟩⟩

/-- What the clauses of AudioPortsAndGroupsAct ask can be met. -/
theorem met_AudioPortsAndGroupsAct :
    (∃ s : State, ∃ g : Fin 16, ∃ x : AGroup, x = s.group g.val ∧ (s.dev.audioPinsOn = true ∧ x.clockLost = false ∧
      s.members g.val ≠ [])) ∧
    (∃ s : State, ∃ g : Fin 16, ∃ x : AGroup, x = s.group g.val ∧ (s.dev.audioPinsOn = false ∨ x.clockLost = true ∨
      s.members g.val = [])) ∧
    (∃ s : State, ∃ g : Fin 16, ∃ k : Fin 16, ∃ x : AGroup, ∃ y : ASlot, ∃ n : Nat, ∃ c : Change, x = s.group g.val ∧ y =
      x.slot k.val ∧ s.slotPort g.val k.val = some n ∧ (s.aport n).run = true ∧ x.clockLost = false ∧ y.change = some c ∧
      c.ramp = none ∧ x.zcFrames ≤ c.waited) ∧
    (∃ s : State, ∃ g : Fin 16, ∃ k : Fin 16, ∃ x : AGroup, ∃ y : ASlot, x = s.group g.val ∧ y = x.slot k.val ∧
      (s.slotRuns g.val k.val = false ∨ x.clockLost = true ∨ y.change = none ∨ ∃ c : Change, y.change = some c ∧
      (c.ramp.isSome = true ∨ c.waited < x.zcFrames))) ∧
    (∃ s : State, ∃ g : Fin 16, ∃ k : Fin 16, ∃ x : AGroup, ∃ y : ASlot, x = s.group g.val ∧ y = x.slot k.val ∧ y.mode =
      1 ∧ y.on = true ∧ y.prog = true ∧ 1 ≤ y.good ∧ y.holdMs * x.rateHz ≤ y.good * 1000 ∧ s.slotRuns g.val k.val = true
      ∧ x.clockLost = false ∧ y.change = none) ∧
    (∃ s : State, ∃ g : Fin 16, ∃ k : Fin 16, ∃ x : AGroup, ∃ y : ASlot, x = s.group g.val ∧ y = x.slot k.val ∧ (y.mode ≠
      1 ∨ y.on = false ∨ y.prog = false ∨ y.good = 0 ∨ y.good * 1000 < y.holdMs * x.rateHz ∨ s.slotRuns g.val k.val =
      false ∨ x.clockLost = true)) ∧
    (∃ s : State, ∃ g : Fin 16, ∃ x : AGroup, x = s.group g.val ∧ s.members g.val ≠ [] ∧ s.dev.audioPinsOn = true ∧
      x.master = false ∧ x.clockLost = false) ∧
    (∃ s : State, ∃ g : Fin 16, ∃ x : AGroup, x = s.group g.val ∧ s.members g.val ≠ [] ∧ s.dev.audioPinsOn = true ∧
      x.clockLost = true) ∧
    (∃ s : State, ∃ g : Fin 16, ((s.group g.val).master = true ∨ (s.group g.val).clockLost = true ∨ s.members g.val = []
      ∨ s.dev.audioPinsOn = false)) ∧
    (∃ s : State, ∃ n : Fin 16, (s.aport n.val).run = false) ∧
    (∃ s : State, ∃ n : Fin 16, ∃ p : APort, p = s.aport n.val ∧ p.run = true ∧ p.reference = none) ∧
    (∃ s : State, ∃ n : Fin 16, ∃ p : APort, ∃ v : BitVec 28, ∃ r : BitVec 28, p = s.aport n.val ∧ p.run = true ∧
      p.reference = some r ∧ ((v.toNat - r.toNat) + (r.toNat - v.toNat)) * 10000 ≤ p.thresh * r.toNat) ∧
    (∃ s : State, ∃ n : Fin 16, ∃ p : APort, ∃ v : BitVec 28, ∃ r : BitVec 28, p = s.aport n.val ∧ p.run = true ∧
      p.reference = some r ∧ p.thresh * r.toNat < ((v.toNat - r.toNat) + (r.toNat - v.toNat)) * 10000) ∧
    (∃ s : State, ∃ g : Fin 16, ((s.group g.val).enable = false ∨ (s.group g.val).master = false)) ∧
    (∃ s : State, ∃ g : Fin 16, ∃ x : AGroup, x = s.group g.val ∧ x.enable = true ∧ x.master = true ∧ 2 ^ x.updateLog2 ≤
      x.levelCnt) ∧
    (∃ s : State, ∃ g : Fin 16, ∃ x : AGroup, x = s.group g.val ∧ x.enable = true ∧ x.master = true ∧ x.levelCnt < 2 ^
      x.updateLog2) :=
  ⟨⟨device, 3, _, rfl, ⟨by decide +kernel, by decide +kernel, by decide +kernel⟩⟩,
   ⟨{ device with dev := { device.dev with audioPinsOn := false } }, 3, _, rfl, (Or.inl (by decide +kernel))⟩,
   ⟨{ device with aports := [(3, { APort.cold 3 with run := true })], agroups := [(3, { AGroup.cold with slots := [(0, { ASlot.cold with change := some ⟨.gain, .zero, .zero, 100000, none, none⟩ })] })] }, 3, 0, _, _, 3, ⟨.gain, .zero, .zero, 100000, none, none⟩, rfl, rfl, (by decide +kernel), (by decide +kernel), (by decide +kernel), (by decide +kernel), (by decide +kernel), (by decide +kernel)⟩,
   ⟨{ device with aports := [(3, { APort.cold 3 with run := true })], agroups := [(3, { AGroup.cold with slots := [(0, { ASlot.cold with change := some ⟨.gain, .zero, .zero, 0, none, none⟩ })] })] }, 3, 0, _, _, rfl, rfl, (Or.inr (Or.inr (Or.inr ⟨⟨.gain, .zero, .zero, 0, none, none⟩, by decide +kernel, Or.inr (by decide +kernel)⟩)))⟩,
   ⟨{ device with aports := [(3, { APort.cold 3 with run := true })], agroups := [(3, { AGroup.cold with slots := [(0, { ASlot.cold with mode := 1, on := true, prog := true, good := 100000 })] })] }, 3, 0, _, _, rfl, rfl, (by decide +kernel), (by decide +kernel), (by decide +kernel), (by decide +kernel), (by decide +kernel), (by decide +kernel), (by decide +kernel), (by decide +kernel)⟩,
   ⟨{ device with aports := [(3, { APort.cold 3 with run := true })], agroups := [(3, { AGroup.cold with slots := [(0, { ASlot.cold with mode := 1, on := true, prog := true, good := 0 })] })] }, 3, 0, _, _, rfl, rfl, (by decide +kernel)⟩,
   ⟨{ device with aports := [(3, { APort.cold 3 with run := true })], agroups := [(3, { AGroup.cold with slots := [(0, { ASlot.cold with on := true })], ctl := BitVec.ofNat 64 (48000 * 2 ^ 46 + 2 ^ 43) })] }, 3, _, rfl, (by decide +kernel), (by decide +kernel), (by decide +kernel), (by decide +kernel)⟩,
   ⟨{ device with aports := [(3, { APort.cold 3 with run := true })], agroups := [(3, { AGroup.cold with slots := [(0, { ASlot.cold with on := true })], clockLost := true })] }, 3, _, rfl, (by decide +kernel), (by decide +kernel), (by decide +kernel)⟩,
   ⟨{ device with aports := [(3, { APort.cold 3 with run := true })], agroups := [(3, { AGroup.cold with slots := [(0, { ASlot.cold with on := true })], ctl := BitVec.ofNat 64 (48000 * 2 ^ 46 + 2 ^ 45 + 2 ^ 43) })] }, 3, (Or.inl (by decide +kernel))⟩,
   ⟨device, 3, (by decide +kernel)⟩,
   ⟨{ device with aports := [(3, { APort.cold 3 with run := true })] }, 3, _, rfl, (by decide +kernel), (by decide +kernel)⟩,
   ⟨{ device with aports := [(3, { APort.cold 3 with run := true, reference := some 1000000 })] }, 3, _, 1001000, 1000000, rfl, (by decide +kernel), (by decide +kernel), (by decide +kernel)⟩,
   ⟨{ device with aports := [(3, { APort.cold 3 with run := true, reference := some 1000000 })] }, 3, _, 1001001, 1000000, rfl, (by decide +kernel), (by decide +kernel), (by decide +kernel)⟩,
   ⟨device, 3, (Or.inl (by decide +kernel))⟩,
   ⟨{ device with aports := [(3, { APort.cold 3 with run := true })], agroups := [(3, { AGroup.cold with slots := [(0, { ASlot.cold with on := true })], helio := AGroup.cold.helio ||| BitVec.ofNat 64 (2 ^ 63), levelCnt := 65536, ctl := BitVec.ofNat 64 (48000 * 2 ^ 46 + 2 ^ 45 + 2 ^ 43) })] }, 3, _, rfl, (by decide +kernel), (by decide +kernel), (by decide +kernel)⟩,
   ⟨{ device with aports := [(3, { APort.cold 3 with run := true })], agroups := [(3, { AGroup.cold with slots := [(0, { ASlot.cold with on := true })], helio := AGroup.cold.helio ||| BitVec.ofNat 64 (2 ^ 63), levelCnt := 0, ctl := BitVec.ofNat 64 (48000 * 2 ^ 46 + 2 ^ 45 + 2 ^ 43) })] }, 3, _, rfl, (by decide +kernel), (by decide +kernel), (by decide +kernel)⟩⟩

/-- What the clauses of RegisterWritesActAsTheirMapSays ask can be met. -/
theorem met_RegisterWritesActAsTheirMapSays :
    (∃ c : Fin 1536, ∃ a : DevAddr, a.toNat = coreWin c.val + 0xF0200) ∧
    (∃ a : DevAddr, (a.toNat % 8 ≠ 0 ∨ ((∀ n off : Nat, regionOf a.toNat ≠ .core n off) ∧ ∀ off : Nat, regionOf a.toNat ≠
      .control off))) ∧
    (∃ a : DevAddr, a.toNat = ctlBase + 0x10018) ∧
    (∃ s : State, ∃ p : Fin 4, ∃ a : DevAddr, ∃ x : Port, x = s.port p.val ∧ a.toNat = ctlBase + 0x30000 + 16 * p.val) ∧
    (∃ s : State, ∃ n : Fin 16, ∃ a : DevAddr, ∃ v : W64, ∃ x : APort, ∃ clash : Bool, x = s.aport n.val ∧ a.toNat =
      ctlBase + 0x20000 + 16 * n.val ∧ clash = (List.range 16).any (fun j => j != n.val && (s.aport j).groupNo == bits
      v.toNat 60 4 && (s.aport j).member == bits v.toNat 57 3) ∧ (s.groupRuns x.groupNo = true ∨ s.groupRuns (bits
      v.toNat 60 4) = true)) ∧
    (∃ s : State, ∃ n : Fin 16, ∃ a : DevAddr, ∃ v : W64, ∃ x : APort, ∃ clash : Bool, x = s.aport n.val ∧ a.toNat =
      ctlBase + 0x20000 + 16 * n.val ∧ clash = (List.range 16).any (fun j => j != n.val && (s.aport j).groupNo == bits
      v.toNat 60 4 && (s.aport j).member == bits v.toNat 57 3) ∧ s.groupRuns x.groupNo = false ∧ s.groupRuns (bits
      v.toNat 60 4) = false) ∧
    (∃ s : State, ∃ g : Fin 16, ∃ a : DevAddr, ∃ x : AGroup, x = s.group g.val ∧ a.toNat = ctlBase + 0x20100 + 32 * g.val
      ∧ s.groupRuns g.val = true) ∧
    (∃ s : State, ∃ g : Fin 16, ∃ a : DevAddr, ∃ x : AGroup, x = s.group g.val ∧ a.toNat = ctlBase + 0x20100 + 32 * g.val
      ∧ s.groupRuns g.val = false) ∧
    (∃ v : W64, v.getLsbD 63 = true) ∧
    (∃ v : W64, v.getLsbD 63 = false) ∧
    (∃ v : W64, v.getLsbD 63 = true) ∧
    (∃ v : W64, v.getLsbD 63 = false) ∧
    (∃ a : DevAddr, a.toNat = ctlBase + 0x1000) ∧
    (∃ a : DevAddr, (a.toNat = ctlBase ∨ a.toNat = ctlBase + 8 ∨ a.toNat = ctlBase + 0x1008 ∨ a.toNat = ctlBase + 0x10000
      ∨ a.toNat = ctlBase + 0x40000 ∨ a.toNat = ctlBase + 0x50000 ∨ a.toNat = ctlBase + 0x50008)) ∧
    (∃ s : State, ∃ g : Fin 16, ∃ v : W64, ∃ x : AGroup, ∃ n : Nat, x = s.group g.val ∧ n = v.toNat / 2 ^ 48 % 2 ^ 16 ∧
      s.maskOk g.val n = true) ∧
    (∃ s : State, ∃ g : Fin 16, ∃ v : W64, ∃ x : AGroup, ∃ n : Nat, x = s.group g.val ∧ n = v.toNat / 2 ^ 48 % 2 ^ 16 ∧
      s.maskOk g.val n = false) :=
  ⟨⟨3, BitVec.ofNat 48 (coreWin 3 + 0xF0200), (by decide +kernel)⟩,
   ⟨BitVec.ofNat 48 (ctlBase + 0x1001), (Or.inl (by decide +kernel))⟩,
   ⟨BitVec.ofNat 48 (ctlBase + 0x10018), (by decide +kernel)⟩,
   ⟨device, 3, BitVec.ofNat 48 (ctlBase + 0x30030), _, rfl, (by decide +kernel)⟩,
   ⟨{ device with aports := [(3, { APort.cold 3 with run := true })] }, 3, BitVec.ofNat 48 (ctlBase + 0x20030), 0, _, _, rfl, (by decide +kernel), rfl, (Or.inl (by decide +kernel))⟩,
   ⟨device, 3, BitVec.ofNat 48 (ctlBase + 0x20030), BitVec.ofNat 64 (3 * 2 ^ 60 + 2 ^ 57), _, _, rfl, (by decide +kernel), rfl, (by decide +kernel), (by decide +kernel)⟩,
   ⟨{ device with aports := [(3, { APort.cold 3 with run := true })] }, 3, BitVec.ofNat 48 (ctlBase + 0x20160), _, rfl, (by decide +kernel), (by decide +kernel)⟩,
   ⟨device, 3, BitVec.ofNat 48 (ctlBase + 0x20160), _, rfl, (by decide +kernel), (by decide +kernel)⟩,
   ⟨BitVec.ofNat 64 (2 ^ 63), (by decide +kernel)⟩,
   ⟨0, (by decide +kernel)⟩,
   ⟨BitVec.ofNat 64 (2 ^ 63), (by decide +kernel)⟩,
   ⟨0, (by decide +kernel)⟩,
   ⟨BitVec.ofNat 48 (ctlBase + 0x1000), (by decide +kernel)⟩,
   ⟨BitVec.ofNat 48 ctlBase, (Or.inl (by decide +kernel))⟩,
   ⟨device, 3, BitVec.ofNat 64 (3 * 2 ^ 48), _, _, rfl, rfl, (by decide +kernel)⟩,
   ⟨device, 3, BitVec.ofNat 64 (4 * 2 ^ 48), _, _, rfl, rfl, (by decide +kernel)⟩⟩

/-- What the clauses of PowerAndClocksFollowMeasurements ask can be met. -/
theorem met_PowerAndClocksFollowMeasurements :
    (∃ s : State, s.dev.mode = .off ∧ s.dev.tripLatched = false) ∧
    (∃ s : State, (s.dev.mode ≠ .off ∨ s.dev.tripLatched = true)) ∧
    (∃ s : State, s.dev.mode = .off) ∧
    (∃ s : State, s.dev.mode ≠ .off) ∧
    (∃ s : State, s.dev.mode ≠ .off ∧ s.pwr.limiter = true) ∧
    (∃ s : State, s.dev.mode ≠ .off ∧ s.pwr.limiter = false) ∧
    (∃ s : State, s.dev.mode.code < 3) ∧
    (∃ s : State, 3 ≤ s.dev.mode.code ∧ (s.pwr.capW = 0 ∨ s.pwr.powerW.toNat ≤ s.pwr.capW.toNat)) ∧
    (∃ s : State, 3 ≤ s.dev.mode.code ∧ s.pwr.capW ≠ 0 ∧ s.pwr.capW.toNat < s.pwr.powerW.toNat) :=
  ⟨⟨inMode device .off, (by decide +kernel), (by decide +kernel)⟩,
   ⟨device, (Or.inl (by decide +kernel))⟩,
   ⟨inMode device .off, (by decide +kernel)⟩,
   ⟨device, (by decide +kernel)⟩,
   ⟨{ device with pwr := { device.pwr with limiter := true } }, (by decide +kernel), (by decide +kernel)⟩,
   ⟨device, (by decide +kernel), (by decide +kernel)⟩,
   ⟨inMode device .fwLoad, (by decide +kernel)⟩,
   ⟨device, (by decide +kernel), (Or.inl (by decide +kernel))⟩,
   ⟨{ device with pwr := { device.pwr with capW := 900, powerW := 950 } }, (by decide +kernel), (by decide +kernel), (by decide +kernel)⟩⟩

/-- What the clauses of TemperaturesAndReferencesAct ask can be met. -/
theorem met_TemperaturesAndReferencesAct :
    (∃ s : State, s.dev.mode = .off ∧ s.dev.tripLatched = false) ∧
    (∃ s : State, s.dev.mode = .off ∧ s.dev.tripLatched = true) ∧
    (∃ s : State, ∃ x : TempSample, s.dev.mode ≠ .off ∧ ((∃ e ∈ sampleIslands x, 1150 ≤ e.2) ∨ (∃ e ∈ s.pwr.hot110,
      e.2.toNat + 10000000 ≤ s.time ∧ ∀ v ∈ sampleIslands x, v.1 = e.1 → 1100 ≤ v.2))) ∧
    (∃ s : State, ∃ x : TempSample, s.dev.mode ≠ .off ∧ (∀ e ∈ sampleIslands x, e.2 < 1150) ∧ (∀ e ∈ s.pwr.hot110,
      e.2.toNat + 10000000 ≤ s.time → ∃ v ∈ sampleIslands x, v.1 = e.1 ∧ v.2 < 1100)) ∧
    (∃ s : State, ∃ c : Fin 1536, ∃ k : Core, k = s.core c.val ∧ s.dev.mode = .off) ∧
    (∃ s : State, ∃ c : Fin 1536, ∃ k : Core, k = s.core c.val ∧ s.dev.mode ≠ .off ∧ s.coreHot c.val = true) ∧
    (∃ s : State, ∃ c : Fin 1536, ∃ k : Core, k = s.core c.val ∧ s.dev.mode ≠ .off ∧ s.coreHot c.val = false ∧
      (s.coreCool c.val = false ∨ k.thermHalf = none)) ∧
    (∃ s : State, ∃ c : Fin 1536, ∃ k : Core, ∃ h : Nat, k = s.core c.val ∧ s.dev.mode ≠ .off ∧ s.coreHot c.val = false ∧
      s.coreCool c.val = true ∧ k.thermHalf = some h) ∧
    (∃ s : State, s.dev.mode = .off ∧ s.dev.tripLatched = true ∧ s.pwr.coolant < 450) ∧
    (∃ s : State, (s.dev.mode ≠ .off ∨ s.dev.tripLatched = false ∨ 450 ≤ s.pwr.coolant)) ∧
    (∃ s : State, s.dev.mode ≠ .off) :=
  ⟨⟨inMode device .off, (by decide +kernel), (by decide +kernel)⟩,
   ⟨{ device with dev := { device.dev with mode := .off, tripLatched := true } }, (by decide +kernel), (by decide +kernel)⟩,
   ⟨device, (⟨[(0, 1200)], [400, 400, 400, 400], 400, [], 300⟩ : TempSample), (by decide +kernel), (Or.inl ⟨(0, 1200), by decide +kernel, by decide +kernel⟩)⟩,
   ⟨device, (⟨[(0, 1060), (5, 1149)], [400, 400, 400, 400], 400, [500, 960], 300⟩ : TempSample), (by decide +kernel), (by decide +kernel), (fun e h => nomatch h)⟩,
   ⟨inMode device .off, 0, _, rfl, (by decide +kernel)⟩,
   ⟨{ device with pwr := { device.pwr with throttled := [0] } }, 0, _, rfl, (by decide +kernel), (by decide +kernel)⟩,
   ⟨device, 0, _, rfl, (by decide +kernel), (by decide +kernel), (Or.inr (by decide +kernel))⟩,
   ⟨{ device with cores := [(0, { Core.cold with thermHalf := some 500 })] }, 0, _, 500, rfl, (by decide +kernel), (by decide +kernel), (by decide +kernel), (by decide +kernel)⟩,
   ⟨{ inMode device .off with dev := { (inMode device .off).dev with tripLatched := true } }, (by decide +kernel), (by decide +kernel), (by decide +kernel)⟩,
   ⟨device, (Or.inl (by decide +kernel))⟩,
   ⟨device, (by decide +kernel)⟩⟩

/-- What the clauses of ResetsAndStartUpTakeTheirCourse ask can be met. -/
theorem met_ResetsAndStartUpTakeTheirCourse :
    (∃ s : State, s.dev.mode = .off) ∧
    (∃ s : State, s.dev.mode ≠ .off) ∧
    (∃ s : State, (s.dev.mode ≠ .romBoot ∨ s.dev.faultN = false)) ∧
    (∃ s : State, ∃ b : Bool, s.dev.mode = .romBoot ∧ s.dev.faultN = true ∧ b = s.flash.bootRec.trial.getD
      s.flash.bootRec.active ∧ s.slotPasses b = true) ∧
    (∃ s : State, ∃ b : Bool, s.dev.mode = .romBoot ∧ s.dev.faultN = true ∧ b = s.flash.bootRec.trial.getD
      s.flash.bootRec.active ∧ s.slotPasses b = false ∧ s.slotPasses (!b) = true) ∧
    (∃ s : State, ∃ b : Bool, s.dev.mode = .romBoot ∧ s.dev.faultN = true ∧ b = s.flash.bootRec.trial.getD
      s.flash.bootRec.active ∧ s.slotPasses b = false ∧ s.slotPasses (!b) = false) ∧
    (∃ s : State, s.dev.mode ≠ .fwLoad) ∧
    (∃ s : State, s.dev.mode = .fwLoad ∧ s.flash.journalOk = false) ∧
    (∃ s : State, ∃ r : State, ∃ k : Fin 8, ∃ c : CfgSlot, s.dev.mode = .fwLoad ∧ s.flash.journalOk = true ∧ r =
      { s with flash := s.flash.resolve } ∧ r.currentSlot = some (k, c) ∧ digestOk c.image = true) ∧
    (∃ s : State, ∃ r : State, ∃ k : Fin 8, ∃ c : CfgSlot, ∃ j : Fin 8, ∃ v : CfgSlot, s.dev.mode = .fwLoad ∧
      s.flash.journalOk = true ∧ r = { s with flash := s.flash.resolve } ∧ r.currentSlot = some (k, c) ∧ digestOk c.image
      = false ∧ v = r.flash.cfg.get j ∧ v.state = .history ∧ digestOk v.image = true ∧ (∀ i : Fin 8, (r.flash.cfg.get
      i).state = .history → digestOk (r.flash.cfg.get i).image = true → (r.flash.cfg.get i).version.toNat <
      v.version.toNat ∨ ((r.flash.cfg.get i).version = v.version ∧ j ≤ i))) ∧
    (∃ s : State, ∃ r : State, ∃ k : Fin 8, ∃ c : CfgSlot, s.dev.mode = .fwLoad ∧ s.flash.journalOk = true ∧ r =
      { s with flash := s.flash.resolve } ∧ r.currentSlot = some (k, c) ∧ digestOk c.image = false ∧ (∀ i : Fin 8,
      (r.flash.cfg.get i).state = .history → digestOk (r.flash.cfg.get i).image = false)) ∧
    (∃ s : State, ∃ r : State, s.dev.mode = .fwLoad ∧ s.flash.journalOk = true ∧ r = { s with flash := s.flash.resolve }
      ∧ r.currentSlot = none) ∧
    (∃ f : Flash, ∃ x : JournalRec, f.journal.getLast? = some x ∧ x.kind = .prepare) ∧
    (∃ f : Flash, ∃ x : JournalRec, f.journal.getLast? = some x ∧ x.kind = .seal) ∧
    (∃ f : Flash, ∃ x : JournalRec, f.journal.getLast? = some x ∧ (x.kind = .done ∨ x.kind = .abandon)) ∧
    (∃ s : State, s.dev.mode ≠ .init) ∧
    (∃ s : State, s.dev.mode = .init) :=
  ⟨⟨inMode device .off, (by decide +kernel)⟩,
   ⟨device, (by decide +kernel)⟩,
   ⟨device, (Or.inl (by decide +kernel))⟩,
   ⟨{ State.reset with sec := { State.reset.sec with rootKey := natToBytes 57 1 }, flash := { State.reset.flash with fwA := ⟨.verified, firmware, 512⟩ } }, _, (by decide +kernel), (by decide +kernel), rfl, (by decide +kernel)⟩,
   ⟨{ State.reset with sec := { State.reset.sec with rootKey := natToBytes 57 1 }, flash := { State.reset.flash with fwA := ⟨.empty, [], 0⟩, fwB := ⟨.verified, firmware, 512⟩ } }, _, (by decide +kernel), (by decide +kernel), rfl, (by decide +kernel), (by decide +kernel)⟩,
   ⟨{ State.reset with sec := { State.reset.sec with rootKey := natToBytes 57 1 }, flash := { State.reset.flash with fwA := ⟨.empty, [], 0⟩, fwB := ⟨.empty, [], 0⟩ } }, _, (by decide +kernel), (by decide +kernel), rfl, (by decide +kernel), (by decide +kernel)⟩,
   ⟨device, (by decide +kernel)⟩,
   ⟨{ inMode State.reset .fwLoad with flash := { State.reset.flash with journalOk := false } }, (by decide +kernel), (by decide +kernel)⟩,
   ⟨inMode State.reset .fwLoad, _, 0, ⟨.current, 1, factoryImage⟩, (by decide +kernel), (by decide +kernel), rfl, (by decide +kernel), (by decide +kernel)⟩,
   ⟨{ inMode State.reset .fwLoad with flash := { State.reset.flash with cfg := (((Vector.replicate 8 (⟨.free, 0, []⟩ : CfgSlot)).set 0 ⟨.current, 3, [1]⟩).set 1 ⟨.history, 1, factoryImage⟩).set 2 ⟨.history, 2, factoryImage⟩ } }, _, 0, ⟨.current, 3, [1]⟩, 2, _, (by decide +kernel), (by decide +kernel), rfl, (by decide +kernel), (by decide +kernel), rfl, (by decide +kernel), (by decide +kernel), (by decide +kernel)⟩,
   ⟨{ inMode State.reset .fwLoad with flash := { State.reset.flash with cfg := ((Vector.replicate 8 (⟨.free, 0, []⟩ : CfgSlot)).set 0 ⟨.current, 3, [1]⟩).set 1 ⟨.history, 1, [1]⟩ } }, _, 0, ⟨.current, 3, [1]⟩, (by decide +kernel), (by decide +kernel), rfl, (by decide +kernel), (by decide +kernel), (by decide +kernel)⟩,
   ⟨{ inMode State.reset .fwLoad with flash := { State.reset.flash with cfg := Vector.replicate 8 (⟨.free, 0, []⟩ : CfgSlot) } }, _, (by decide +kernel), (by decide +kernel), rfl, (by decide +kernel)⟩,
   ⟨{ State.reset.flash with journal := [(⟨.prepare, 4, 3, 1, 0, [], false⟩ : JournalRec)] }, (⟨.prepare, 4, 3, 1, 0, [], false⟩ : JournalRec), (by decide +kernel), (by decide +kernel)⟩,
   ⟨{ State.reset.flash with journal := [(⟨.seal, 4, 3, 1, 0, [], false⟩ : JournalRec)] }, (⟨.seal, 4, 3, 1, 0, [], false⟩ : JournalRec), (by decide +kernel), (by decide +kernel)⟩,
   ⟨{ State.reset.flash with journal := [(⟨.done, 4, 3, 1, 0, [], false⟩ : JournalRec)] }, (⟨.done, 4, 3, 1, 0, [], false⟩ : JournalRec), (by decide +kernel), (Or.inl (by decide +kernel))⟩,
   ⟨device, (by decide +kernel)⟩,
   ⟨inMode State.reset .init, (by decide +kernel)⟩⟩

/-- What the clauses of FlashWritesAnswerTheirCommands ask can be met. -/
theorem met_FlashWritesAnswerTheirCommands :
    (∃ s : State, s.flash.ops = []) ∧
    (∃ s : State, ∃ t : State, ∃ d : State, ∃ o : FlashOp, ∃ r : List FlashOp, ∃ m : Fin 64, ∃ k : Fin 8, ∃ v : W32, ∃
      img : Bytes, s.flash.ops = o :: r ∧ t = { s with flash := { s.flash with ops := r } } ∧ d = t.flashDone o ∧ o =
      .cfgStage m k v img) ∧
    (∃ s : State, ∃ t : State, ∃ d : State, ∃ o : FlashOp, ∃ r : List FlashOp, ∃ m : Fin 64, ∃ k : Fin 8, s.flash.ops = o
      :: r ∧ t = { s with flash := { s.flash with ops := r } } ∧ d = t.flashDone o ∧ o = .cfgFree m k) ∧
    (∃ s : State, ∃ t : State, ∃ d : State, ∃ o : FlashOp, ∃ r : List FlashOp, ∃ x : JournalRec, s.flash.ops = o :: r ∧ t
      = { s with flash := { s.flash with ops := r } } ∧ d = t.flashDone o ∧ o = .journal x ∧ s.commit = none) ∧
    (∃ s : State, ∃ t : State, ∃ d : State, ∃ o : FlashOp, ∃ r : List FlashOp, ∃ x : JournalRec, ∃ c : Commit,
      s.flash.ops = o :: r ∧ t = { s with flash := { s.flash with ops := r } } ∧ d = t.flashDone o ∧ o = .journal x ∧
      s.commit = some c ∧ x.kind = .prepare) ∧
    (∃ s : State, ∃ t : State, ∃ d : State, ∃ o : FlashOp, ∃ r : List FlashOp, ∃ x : JournalRec, ∃ c : Commit,
      s.flash.ops = o :: r ∧ t = { s with flash := { s.flash with ops := r } } ∧ d = t.flashDone o ∧ o = .journal x ∧
      s.commit = some c ∧ x.kind = .seal) ∧
    (∃ s : State, ∃ t : State, ∃ d : State, ∃ o : FlashOp, ∃ r : List FlashOp, ∃ x : JournalRec, ∃ c : Commit, ∃ st :
      Nat, s.flash.ops = o :: r ∧ t = { s with flash := { s.flash with ops := r } } ∧ d = t.flashDone o ∧ o = .journal x
      ∧ s.commit = some c ∧ x.kind = .abandon ∧ (c.phase = .abandon st ∨ (st = stFlash ∧ ∀ y : Nat, c.phase ≠ .abandon
      y))) ∧
    (∃ s : State, ∃ t : State, ∃ d : State, ∃ o : FlashOp, ∃ r : List FlashOp, ∃ x : JournalRec, ∃ c : Commit,
      s.flash.ops = o :: r ∧ t = { s with flash := { s.flash with ops := r } } ∧ d = t.flashDone o ∧ o = .journal x ∧
      s.commit = some c ∧ x.kind = .done) ∧
    (∃ s : State, ∃ t : State, ∃ d : State, ∃ o : FlashOp, ∃ r : List FlashOp, ∃ m : Fin 64, ∃ b : Bool, ∃ last : Bool, ∃
      off : Nat, ∃ total : Nat, ∃ data : Bytes, ∃ y : FwSlot, s.flash.ops = o :: r ∧ t =
      { s with flash := { s.flash with ops := r } } ∧ d = t.flashDone o ∧ o = .fwSegment m b off data total last ∧ y =
      ⟨.receiving, (t.flash.fw b).bytes.take off ++ data, total⟩) ∧
    (∃ s : State, ∃ t : State, ∃ d : State, ∃ o : FlashOp, ∃ r : List FlashOp, ∃ m : Option (Fin 64), ∃ active : Bool, ∃
      trial : Option Bool, s.flash.ops = o :: r ∧ t = { s with flash := { s.flash with ops := r } } ∧ d = t.flashDone o ∧
      o = .boot m active trial ∧ m = none) ∧
    (∃ s : State, ∃ t : State, ∃ d : State, ∃ o : FlashOp, ∃ r : List FlashOp, ∃ m : Option (Fin 64), ∃ active : Bool, ∃
      trial : Option Bool, ∃ n : Fin 64, s.flash.ops = o :: r ∧ t = { s with flash := { s.flash with ops := r } } ∧ d =
      t.flashDone o ∧ o = .boot m active trial ∧ m = some n ∧ ((∃ p ∈ r, p.mbx = some n) ∨ s.sec.blowTo.map (·.2) = some
      n)) ∧
    (∃ s : State, ∃ t : State, ∃ d : State, ∃ o : FlashOp, ∃ r : List FlashOp, ∃ m : Option (Fin 64), ∃ active : Bool, ∃
      trial : Option Bool, ∃ n : Fin 64, s.flash.ops = o :: r ∧ t = { s with flash := { s.flash with ops := r } } ∧ d =
      t.flashDone o ∧ o = .boot m active trial ∧ m = some n ∧ (∀ p ∈ r, p.mbx ≠ some n) ∧ s.sec.blowTo.map (·.2) ≠ some
      n) ∧
    (∃ s : State, ∃ t : State, ∃ d : State, ∃ o : FlashOp, ∃ r : List FlashOp, ∃ b : Bool, s.flash.ops = o :: r ∧ t =
      { s with flash := { s.flash with ops := r } } ∧ d = t.flashDone o ∧ o = .fwEmpty b ∧ s.sec.blowTo = none) ∧
    (∃ s : State, ∃ t : State, ∃ d : State, ∃ o : FlashOp, ∃ r : List FlashOp, ∃ b : Bool, ∃ v : Nat, ∃ n : Fin 64,
      s.flash.ops = o :: r ∧ t = { s with flash := { s.flash with ops := r } } ∧ d = t.flashDone o ∧ o = .fwEmpty b ∧
      s.sec.blowTo = some (v, n)) ∧
    (∃ s : State, ∃ t : State, ∃ d : State, ∃ o : FlashOp, ∃ r : List FlashOp, ∃ b : Bytes, s.flash.ops = o :: r ∧ t =
      { s with flash := { s.flash with ops := r } } ∧ d = t.flashDone o ∧ o = .wear b) :=
  ⟨⟨device, (by decide +kernel)⟩,
   ⟨{ mailed bare 0 16 (cmd 0x202 []) with flash := { bare.flash with ops := [.cfgStage 0 1 2 factoryImage] } }, _, _, .cfgStage 0 1 2 factoryImage, [], 0, 1, 2, factoryImage, (by decide +kernel), rfl, rfl, rfl⟩,
   ⟨{ mailed bare 0 16 (cmd 0x202 []) with flash := { bare.flash with ops := [.cfgFree 0 1] } }, _, _, .cfgFree 0 1, [], 0, 1, (by decide +kernel), rfl, rfl, rfl⟩,
   ⟨{ mailed bare 0 16 (cmd 0x202 []) with flash := { bare.flash with ops := [.journal (⟨.prepare, 4, 3, 1, 0, [], false⟩ : JournalRec)] } }, _, _, .journal (⟨.prepare, 4, 3, 1, 0, [], false⟩ : JournalRec), [], (⟨.prepare, 4, 3, 1, 0, [], false⟩ : JournalRec), (by decide +kernel), rfl, rfl, rfl, (by decide +kernel)⟩,
   ⟨{ mailed bare 0 16 (cmd 0x202 []) with flash := { bare.flash with ops := [.journal (⟨.prepare, 4, 3, 1, 0, [], false⟩ : JournalRec)] }, commit := some (⟨0, 4, 1, 0, false, 3, [], .prepare, [], []⟩ : Commit) }, _, _, .journal (⟨.prepare, 4, 3, 1, 0, [], false⟩ : JournalRec), [], (⟨.prepare, 4, 3, 1, 0, [], false⟩ : JournalRec), (⟨0, 4, 1, 0, false, 3, [], .prepare, [], []⟩ : Commit), (by decide +kernel), rfl, rfl, rfl, (by decide +kernel), (by decide +kernel)⟩,
   ⟨{ mailed bare 0 16 (cmd 0x202 []) with flash := { bare.flash with ops := [.journal (⟨.seal, 4, 3, 1, 0, [], false⟩ : JournalRec)] }, commit := some (⟨0, 4, 1, 0, false, 3, [], .seal, [], []⟩ : Commit) }, _, _, .journal (⟨.seal, 4, 3, 1, 0, [], false⟩ : JournalRec), [], (⟨.seal, 4, 3, 1, 0, [], false⟩ : JournalRec), (⟨0, 4, 1, 0, false, 3, [], .seal, [], []⟩ : Commit), (by decide +kernel), rfl, rfl, rfl, (by decide +kernel), (by decide +kernel)⟩,
   ⟨{ mailed bare 0 16 (cmd 0x202 []) with flash := { bare.flash with ops := [.journal (⟨.abandon, 4, 3, 1, 0, [], false⟩ : JournalRec)] }, commit := some (⟨0, 4, 1, 0, false, 3, [], .abandon 9, [], []⟩ : Commit) }, _, _, .journal (⟨.abandon, 4, 3, 1, 0, [], false⟩ : JournalRec), [], (⟨.abandon, 4, 3, 1, 0, [], false⟩ : JournalRec), (⟨0, 4, 1, 0, false, 3, [], .abandon 9, [], []⟩ : Commit), 9, (by decide +kernel), rfl, rfl, rfl, (by decide +kernel), (by decide +kernel), (Or.inl rfl)⟩,
   ⟨{ mailed bare 0 16 (cmd 0x202 []) with flash := { bare.flash with ops := [.journal (⟨.done, 4, 3, 1, 0, [], false⟩ : JournalRec)] }, commit := some (⟨0, 4, 1, 0, false, 3, [], .done, [], []⟩ : Commit) }, _, _, .journal (⟨.done, 4, 3, 1, 0, [], false⟩ : JournalRec), [], (⟨.done, 4, 3, 1, 0, [], false⟩ : JournalRec), (⟨0, 4, 1, 0, false, 3, [], .done, [], []⟩ : Commit), (by decide +kernel), rfl, rfl, rfl, (by decide +kernel), (by decide +kernel)⟩,
   ⟨{ mailed bare 0 16 (cmd 0x202 []) with flash := { bare.flash with ops := [.fwSegment 0 true 0 [1] 4 false] } }, _, _, .fwSegment 0 true 0 [1] 4 false, [], 0, true, false, 0, 4, [1], _, (by decide +kernel), rfl, rfl, rfl, rfl⟩,
   ⟨{ mailed bare 0 16 (cmd 0x202 []) with flash := { bare.flash with ops := [.boot none false none] } }, _, _, .boot none false none, [], none, false, none, (by decide +kernel), rfl, rfl, rfl, (by decide +kernel)⟩,
   ⟨{ mailed bare 0 16 (cmd 0x202 []) with flash := { bare.flash with ops := [.boot (some 0) false none, .cfgFree 0 1] } }, _, _, .boot (some 0) false none, [.cfgFree 0 1], some 0, false, none, 0, (by decide +kernel), rfl, rfl, rfl, rfl, (Or.inl ⟨.cfgFree 0 1, List.mem_singleton.mpr rfl, rfl⟩)⟩,
   ⟨{ mailed bare 0 16 (cmd 0x202 []) with flash := { bare.flash with ops := [.boot (some 0) false none] } }, _, _, .boot (some 0) false none, [], some 0, false, none, 0, (by decide +kernel), rfl, rfl, rfl, rfl, (fun p h => nomatch h), (by decide +kernel)⟩,
   ⟨{ mailed bare 0 16 (cmd 0x202 []) with flash := { bare.flash with ops := [.fwEmpty true] } }, _, _, .fwEmpty true, [], true, (by decide +kernel), rfl, rfl, rfl, (by decide +kernel)⟩,
   ⟨{ mailed bare 0 16 (cmd 0x202 []) with flash := { bare.flash with ops := [.fwEmpty true] }, sec := { bare.sec with blowTo := some (3, 0) } }, _, _, .fwEmpty true, [], true, 3, 0, (by decide +kernel), rfl, rfl, rfl, (by decide +kernel)⟩,
   ⟨{ mailed bare 0 16 (cmd 0x202 []) with flash := { bare.flash with ops := [.wear [7]] } }, _, _, .wear [7], [], [7], (by decide +kernel), rfl, rfl, rfl⟩⟩

/-- What the clauses of MemoryStaysCanonical ask can be met. -/
theorem met_MemoryStaysCanonical :
    ∃ s : State, ∃ t : State, Memory.wf s.mem ∧ step s = .next t :=
  ⟨State.reset, _, (by decide +kernel), rfl⟩

end Sys2Proof.Tests
end

