-- ==== Sys2Proof/Tests/WitnessPlaces.lean ====
section
/-! SUPPORT. Witnesses of clauses in which the device chooses: places for areas and rings, a stream's entry when none is left, a
queue pair's number when none is left, and what a mirror write spells. -/

namespace Sys2Proof.Tests
open Sys2Proof.Machine

set_option Elab.async false

/-- An area is found where one is known to be legal. -/
theorem pickArea_some (xs : List Extent) (taken : List (Nat × Nat)) (al n cand a : Nat)
    (hx : a ∈ xs.map (fun x => max al (alignUp al x.addr)))
    (ha : (a % al == 0 && a != 0 && inExtents xs a n && clearOf taken a n) = true) : ∃ b, pickArea xs taken al n cand = some b := by
  unfold pickArea
  dsimp only
  split
  · exact ⟨_, rfl⟩
  · cases h : List.find? _ _ with
    | some b => exact ⟨b, rfl⟩
    | none => exact absurd ha (List.find?_eq_none.mp h a (List.mem_append_left _ hx))

/-- No area is found where none fits. -/
theorem pickArea_none (xs : List Extent) (taken : List (Nat × Nat)) (al n cand : Nat) (hx : ∀ a, inExtents xs a n = false) :
    pickArea xs taken al n cand = none := by
  unfold pickArea
  simp [hx]

/-- Lortus finds an area where one is known to be legal. -/
theorem alloc_some (s : State) (p al n a : Nat) (q : Partition) (xs : List Extent) (taken : List (Nat × Nat))
    (hq : s.part? p = some q) (hxs : q.hbm = xs) (ht : q.places = taken) (hx : a ∈ xs.map (fun x => max al (alignUp al x.addr)))
    (ha : (a % al == 0 && a != 0 && inExtents xs a n) = true) (hc : clearOf taken a n = true) :
    ∃ b c, s.alloc p al n = some (b, ({ s with freeCtr := c } : State).setPart p { q with places := (b, n) :: q.places }) := by
  subst hxs ht
  obtain ⟨b, hb⟩ := pickArea_some q.hbm q.places al n (Config.freeNat s.freeCtr) a hx (Bool.and_eq_true_iff.mpr ⟨ha, hc⟩)
  exact ⟨b, s.freeCtr + 1, by simp only [State.alloc, hq, State.free, hb]⟩

/-- Without extents Lortus finds no area. -/
theorem alloc_none (s : State) (p al n : Nat) (q : Partition) (hq : s.part? p = some q) (hx : ∀ a, inExtents q.hbm a n = false) :
    s.alloc p al n = none := by
  simp only [State.alloc, hq, State.free, pickArea_none _ _ _ _ _ hx]

/-- A range of more than 0 bytes lies in no extent of none. -/
theorem nowhere (n : Nat) (h : 0 < n) (a : Nat) : inExtents [] a n = false := by
  simp [inExtents, coveredBytes]; omega

/-- An archive ring is found in an empty archive. -/
theorem allocArch_some (s : State) (h : s.archHeld = []) (n : Nat) (hn : inExtents [archExtent 0] (archExtent 0).addr n = true)
    (ha : (archExtent 0).addr % 256 = 0) (h0 : (archExtent 0).addr ≠ 0)
    (hc : max 256 (alignUp 256 (archExtent 0).addr) = (archExtent 0).addr) :
    ∃ a c, s.allocArch n = some (a, { s with freeCtr := c, archHeld := [(a, n)] }) := by
  obtain ⟨b, hb⟩ := pickArea_some [archExtent 0] [] 256 n (Config.freeNat s.freeCtr) (archExtent 0).addr
    (by simp [hc]) (by simp [hn, ha, h0, clearOf])
  have hq : (List.range 4).foldl (fun b k => if s.archUsed k < s.archUsed b then k else b) 0 = 0 := by
    simp [State.archUsed, h, List.range_succ]
  simp only [State.allocArch, State.free, hq, List.findSome?_cons, h, hb]
  exact ⟨_, _, rfl⟩

/-! ### A partition's creation -/

/-- A partition being created: 1 GiB at 0 and 1 GiB at 2 GiB. -/
def newborn : Partition := { part with hbm := [⟨1, 0⟩, ⟨1, 2 * gib⟩], zeroing := some (.create 4) }

/-- What the creation clause of BackgroundWorkEnds asks can be met. -/
theorem met_BackgroundWorkEnds_create : ∃ (s : State) (p : Fin 16) (q : Partition) (m : Fin 64) (z w1 w2 : State) (e : BitVec 24)
    (tab dir : Nat), s.part? p.val = some q ∧ q.zeroing = some (.create m) ∧ s.zeroNew p.val q = (e, z) ∧
    z.alloc p.val 4096 8192 = some (tab, w1) ∧ w1.alloc p.val 4096 131072 = some (dir, w2) ∧
    ∀ k : Nat × Partition, k ∈ s.parts → ∀ o : Fin 64, k.2.zeroing ≠ some (.destroy o) := by
  obtain ⟨e, z, hz⟩ : ∃ e z, ({ device with parts := [(0, newborn)] } : State).zeroNew 0 newborn = (e, z) := ⟨_, _, rfl⟩
  have hq : z.part? 0 = some { newborn with zeroing := none, epoch := e } := by cases hz; rfl
  obtain ⟨tab, c, h1⟩ := alloc_some z 0 4096 8192 4096 _ newborn.hbm [] hq rfl rfl (by decide +kernel) (by decide +kernel) rfl
  have hw : (({ z with freeCtr := c } : State).setPart 0 { { newborn with zeroing := none, epoch := e } with
      places := (tab, 8192) :: [] }).part? 0 = some { { newborn with zeroing := none, epoch := e } with
      places := (tab, 8192) :: [] } := tabGet?_tabPut_same _ _ _
  have hd : ∃ dir w2, (({ z with freeCtr := c } : State).setPart 0 { { newborn with zeroing := none, epoch := e } with
      places := (tab, 8192) :: [] }).alloc 0 4096 131072 = some (dir, w2) := by
    by_cases h : 135168 ≤ tab
    · obtain ⟨dir, c', h2⟩ := alloc_some _ 0 4096 131072 4096 _ newborn.hbm [(tab, 8192)] hw rfl rfl (by decide +kernel)
        (by decide +kernel) (by simp [clearOf]; omega)
      exact ⟨dir, _, h2⟩
    · obtain ⟨dir, c', h2⟩ := alloc_some _ 0 4096 131072 (2 * gib) _ newborn.hbm [(tab, 8192)] hw rfl rfl (by decide +kernel)
        (by decide +kernel) (by simp [clearOf, gib]; omega)
      exact ⟨dir, _, h2⟩
  obtain ⟨dir, w2, h2⟩ := hd
  exact ⟨_, 0, newborn, 4, z, _, w2, e, tab, dir, rfl, rfl, hz, h1, h2, fun k hk o h => by
    rw [List.mem_singleton.mp hk] at h; exact nomatch h⟩

/-! ### A stream's places -/

/-- A command page that opens an ultra-light stream at 48 kHz without source and sink, with or without MIRROR. -/
def openPage (mirror : Nat) : List (Nat × Nat) := [(0x41, 2), (0x42, mirror), (0x44, 48000)]

/-- A partition whose section names device 1 as the peer of its mirrors. -/
def mirrored : Partition := { part with sect := part.sect.set 26 1 }

/-- A device with that partition and a link to its peer. -/
def opening (mirror : Nat) : State :=
  asked (withQp { device with parts := [(0, mirrored)], macs := [(0, { Mac.cold with up := true })] } 16) 0x501 (openPage mirror)

/-- The places of a stream are found. -/
theorem placed (s : State) (i : Nat) (x : Stream) (hp : s.part? 0 = some mirrored) (hs : s.streams = []) (ha : s.archHeld = []) :
    ∃ v a r l, (s.setStream i x).placeStream 0 i img = some v ∧ v.streams = [(i, { x with stateAddr := a, archAddr := r })] ∧
      v.part? 0 = some { mirrored with places := l } := by
  obtain ⟨a, c, h1⟩ := alloc_some (s.setStream i x) 0 4096 (2 * img.stateUnits * 4096) 4096 mirrored part.hbm [] hp rfl rfl
    (by decide +kernel) (by decide +kernel) rfl
  obtain ⟨r, c', h2⟩ := allocArch_some (({ s.setStream i x with freeCtr := c } : State).setPart 0 { mirrored with
    places := (a, 2 * img.stateUnits * 4096) :: mirrored.places }) ha (16 * img.slotBytes) (by decide +kernel) (by decide +kernel)
    (by decide +kernel) (by decide +kernel)
  simp only [State.placeStream, h1, h2]
  refine ⟨_, BitVec.ofNat 48 a, r, _, rfl, ?_, tabGet?_tabPut_same _ _ _⟩
  simp [State.modStream, State.setStream, State.stream, State.setPart, hs, tabPut, tabGet, tabGet?]

/-- What the opening clauses of StreamCommandsAct ask of a command that gets no place can be met. -/
theorem met_StreamCommandsAct_noPlace : ∃ (s u : State) (m : Fin 64) (p i : Nat) (q : Partition) (im : ImageInfo) (x : Stream),
    s.Takes m specStreamOpen ∧ p = le (s.page m) 0x40 1 ∧ s.popped.live? p = some q ∧ q.settled = true ∧ q.image? = some im ∧
    s.popped.openFault p q im (s.page m) = none ∧ s.popped.pickEntry = (some i, u) ∧
    x = openEntry (u.stream i) i (s.page m) q im (some m) ∧ (u.setStream i x).placeStream p i im = none := by
  obtain ⟨i, u, hu⟩ : ∃ i u, (asked { device with parts := [(0, { part with hbm := [] })] } 0x501 (openPage 0)).popped.pickEntry =
    (some i, u) := ⟨_, _, rfl⟩
  have hp : ∀ x, (u.setStream i x).part? 0 = some { part with hbm := [] } := fun x => by cases hu; rfl
  refine ⟨asked { device with parts := [(0, { part with hbm := [] })] } 0x501 (openPage 0), u, 0, 0, i, { part with hbm := [] }, img, _,
    ⟨by decide +kernel, by decide +kernel, by decide +kernel, by decide +kernel⟩, by decide +kernel, by decide +kernel,
    by decide +kernel, by decide +kernel, by decide +kernel, hu, rfl, ?_⟩
  simp only [State.placeStream, alloc_none _ 0 4096 _ _ (hp _) (nowhere (2 * img.stateUnits * 4096) (by decide +kernel))]

/-- What the opening clauses of StreamCommandsAct ask of a command that gets its places can be met, with and without MIRROR. -/
theorem met_StreamCommandsAct_open (b : Nat) (hb : b = 0 ∨ b = 1) : ∃ (s u v : State) (m : Fin 64) (p i : Nat) (q : Partition)
    (im : ImageInfo) (x : Stream),
    s.Takes m specStreamOpen ∧ p = le (s.page m) 0x40 1 ∧ s.popped.live? p = some q ∧ q.settled = true ∧ q.image? = some im ∧
    s.popped.openFault p q im (s.page m) = none ∧ s.popped.pickEntry = (some i, u) ∧
    x = openEntry (u.stream i) i (s.page m) q im (some m) ∧ (u.setStream i x).placeStream p i im = some v ∧
    x.mirror = decide (b = 1) ∧ v.mirrorFits i = true := by
  obtain ⟨i, u, hu⟩ : ∃ i u, (opening b).popped.pickEntry = (some i, u) := ⟨_, _, rfl⟩
  have hp : u.part? 0 = some mirrored := by cases hu; rfl
  have hs : u.streams = [] := by cases hu; rfl
  have ha : u.archHeld = [] := by cases hu; rfl
  obtain ⟨v, a, r, l, h1, h2, h3⟩ := placed u i (openEntry (u.stream i) i ((opening b).page 0) mirrored img (some 0)) hp hs ha
  have hx : (v.stream i).part.val = 0 ∧ (v.stream i).stateUnits = BitVec.ofNat 16 img.stateUnits := by
    simp only [State.stream, h2, tabGet, tabGet?]
    obtain rfl | rfl := hb <;> exact ⟨rfl, rfl⟩
  have hi : ({ mirrored with places := l } : Partition).image? = some img := rfl
  have hf : v.mirrorFits i = true := by
    simp only [State.mirrorFits, h2, List.filter_cons, List.filter_nil]
    simp [openEntry, Stream.empty, hx.1, h3, hi, mirrorRate, hx.2, Partition.w]
    decide +kernel
  refine ⟨opening b, u, v, 0, 0, i, mirrored, img, _, ⟨?_, ?_, ?_, ?_⟩, ?_, ?_, ?_, ?_, ?_, hu, rfl, h1, ?_, hf⟩ <;>
    obtain rfl | rfl := hb <;> first | decide +kernel | rfl

/-! ### Nothing left to choose -/

/-- A table of one entry at many indices holds it at each. -/
theorem tabGet?_same {α : Type} (y : α) (f : Nat → Nat) (j : Nat) : ∀ l : List Nat, j ∈ l →
    (∀ k ∈ l, f k = f j → k = j) → tabGet? (l.map (fun k => (f k, y))) (f j) = some y
  | [], h, _ => nomatch h
  | k :: l, h, hf => by
    by_cases hk : f k = f j
    · simp [tabGet?, hk]
    · have hm : j ∈ l := (List.mem_cons.mp h).resolve_left (fun e => hk (e ▸ rfl))
      simpa [tabGet?, hk] using tabGet?_same y f j l hm (fun v hv => hf v (List.mem_cons_of_mem _ hv))

/-- A fold that stays. -/
theorem foldl_stays {α β : Type} (f : α → β → α) (a : α) : ∀ l : List β, (∀ b ∈ l, f a b = a) → l.foldl f a = a
  | [], _ => rfl
  | b :: l, h => by
    rw [List.foldl_cons, h b (List.mem_cons_self ..)]
    exact foldl_stays f a l (fun c hc => h c (List.mem_cons_of_mem _ hc))

/-- An open stream of partition 1. -/
def settler : Stream := { stream with part := 1 }

/-- The first stream entries are open, for partition 1. -/
def crowded (n : Nat) : State :=
  asked { device with streams := (List.range n).map (fun k => (k, settler)) } 0x501 (openPage 0)

theorem crowded_stream (n j : Nat) (h : j < n) (c : Nat) : ({ (crowded n).popped with freeCtr := c } : State).stream j = settler :=
  congrArg (fun v => Option.getD v Stream.empty) (tabGet?_same settler id j _ (List.mem_range.mpr h) (fun _ _ e => e))

/-- No entry is closed, so none is taken. -/
theorem crowded_none (n : Nat) (hn : 16384 ≤ n) : (crowded n).popped.pickEntry =
    (none, { (crowded n).popped with freeCtr := (crowded n).popped.freeCtr + 1 }) := by
  have hk : Config.freeNat (crowded n).popped.freeCtr % 16384 < n := lt_of_lt_of_le (Nat.mod_lt _ (by decide)) hn
  have hc : ∀ j, j < n → ({ (crowded n).popped with freeCtr := (crowded n).popped.freeCtr + 1 } : State).stream j = settler :=
    fun j h => crowded_stream n j h _
  simp only [State.pickEntry, State.free, hc _ hk]
  rw [foldl_stays _ none _ (fun j hj => by
    simp [hc j (lt_of_lt_of_le (List.mem_range.mp hj) hn), settler, stream])]
  exact if_neg (by decide)

/-- What the opening clause of StreamCommandsAct without an entry asks can be met. -/
theorem met_StreamCommandsAct_crowded : ∃ (s u : State) (m : Fin 64) (p : Nat) (q : Partition) (im : ImageInfo),
    s.Takes m specStreamOpen ∧ p = le (s.page m) 0x40 1 ∧ s.popped.pickEntry = (none, u) ∧ s.popped.live? p = some q ∧
    q.settled = true ∧ q.image? = some im ∧ s.popped.openFault p q im (s.page m) = none :=
  ⟨crowded 16384, _, 0, 0, part, img, ⟨by decide +kernel, by decide +kernel, by decide +kernel, by decide +kernel⟩,
    by decide +kernel, crowded_none 16384 (le_refl _), by decide +kernel, by decide +kernel, by decide +kernel, by decide +kernel⟩

/-- The first queue pair numbers are taken, for partition 1. -/
def paired (n : Nat) : State :=
  asked { device with qps := (List.range n).map (fun k => (k + 2, qp 1)) } 0x703 [(0x40, 16)]

theorem paired_qp (n j : Nat) (h : j < n) (c : Nat) : ({ (paired n).popped with freeCtr := c } : State).qp? (j + 2) = some (qp 1) :=
  tabGet?_same (qp 1) (· + 2) j _ (List.mem_range.mpr h) (fun _ _ e => Nat.add_right_cancel e)

/-- No number is left. -/
theorem paired_none (n : Nat) (hn : 65536 ≤ n) : (paired n).popped.newQpn =
    (none, { (paired n).popped with freeCtr := (paired n).popped.freeCtr + 1 }) := by
  have hk : Config.freeNat (paired n).popped.freeCtr % 65536 < n := lt_of_lt_of_le (Nat.mod_lt _ (by decide)) hn
  have hc : ∀ j, j < n → ({ (paired n).popped with freeCtr := (paired n).popped.freeCtr + 1 } : State).qp? (j + 2) = some (qp 1) :=
    fun j h => paired_qp n j h _
  simp only [State.newQpn, State.free, Nat.add_comm 2, hc _ hk]
  have hf : ∀ m ≤ n, ((List.range m).map (· + 2)).find? (fun k =>
      (({ (paired n).popped with freeCtr := (paired n).popped.freeCtr + 1 } : State).qp? k).isNone) = none := fun m hm =>
    List.find?_eq_none.mpr (fun k h => by
      obtain ⟨j, hj, rfl⟩ := List.mem_map.mp h
      simp [hc j (lt_of_lt_of_le (List.mem_range.mp hj) hm)])
  rw [hf 65536 hn]
  exact if_neg (by simp)

/-- What the clause of NetworkCommandsAct without a number left asks can be met. -/
theorem met_NetworkCommandsAct_none : ∃ (s v : State) (m : Fin 64) (o : Nat) (part : Option Partition),
    s.Takes m specNetQpCreate ∧ o = le (s.page m) 0x40 1 ∧ part = s.part? o ∧ s.popped.newQpn = (none, v) ∧
    (o ≠ 16 → part.any (fun q => q.macs.getLsbD (le (s.page m) 0x41 1)) = true) ∧
    (∀ k : Nat, k < 64 → (BitVec.ofNat 64 (le (s.page m) 0x48 8)).getLsbD k = true → (s.mail k).owner.toNat = o) ∧
    (∀ q, part = some q → q.settled = true) ∧
    (s.qps.filter (fun x => x.2.owner == o)).length < (part.map (·.qpQuota)).getD 65536 :=
  ⟨paired 65536, _, 0, 16, none, ⟨by decide +kernel, by decide +kernel, by decide +kernel, by decide +kernel⟩,
    by decide +kernel, by decide +kernel, paired_none 65536 (le_refl _), fun h => absurd rfl h,
    fun k h => by revert k; decide +kernel, (fun q h => nomatch h), by decide +kernel⟩

/-! ### Mirror writes -/

/-- A device with a control queue pair to its peer, whose epochs are known. -/
def peered : State := { withQp device 16 with mbxEpoch := 7, mirrorEpoch := 9 }

/-- The key of the mirror areas. -/
def mirrorKey : BitVec 32 := rKey 4 0 9

theorem peered_va (a : BitVec 48) : peered.vaOk (a.setWidth 64) = true := by
  have h := a.isLt
  have h1 : (a.setWidth 64).toNat = a.toNat := by simp [BitVec.toNat_setWidth]; omega
  have h2 : a.toNat / 2 ^ 51 = 0 := Nat.div_eq_of_lt (by omega)
  have h3 : a.toNat / 2 ^ 48 = 0 := Nat.div_eq_of_lt h
  simp only [State.vaOk, devOf, bits, h1, h2, h3]
  decide +kernel

/-- What a mirror clause asks of an address, whatever the record: the key of the mirror areas, no other. -/
theorem peered_mirror (a : BitVec 48) (n : Nat) (p : Prop) (hp : p) : ∃ (own boxes mirror : Prop),
    (own ↔ peered.vaOk (a.setWidth 64) = true ∧ peered.keyOk (qp 16) 1 mirrorKey = true ∧
      peered.inOwn (qp 16) ((a.setWidth 64).toNat % 2 ^ 48) n = true) ∧
    (boxes ↔ peered.vaOk (a.setWidth 64) = true ∧ peered.keyOk (qp 16) 2 mirrorKey = true ∧
      (qp 16).inBoxes ((a.setWidth 64).toNat % 2 ^ 48) n = true) ∧
    (mirror ↔ peered.vaOk (a.setWidth 64) = true ∧ peered.keyOk (qp 16) 4 mirrorKey = true) ∧ ¬ own ∧ ¬ boxes ∧ mirror ∧ p :=
  ⟨_, _, _, Iff.rfl, Iff.rfl, Iff.rfl, fun h => absurd h.2.1 (by decide +kernel), fun h => absurd h.2.1 (by decide +kernel),
    ⟨peered_va a, by decide +kernel⟩, hp⟩

theorem peered_addr (a : BitVec 48) : ((a.setWidth 64 : W64)).toNat % 2 ^ 48 = a.toNat := by
  have h := a.isLt
  simp [BitVec.toNat_setWidth]; omega

/-- What the clause of RdmaRequestsAreAnswered about a record at its place asks can be met wherever bytes spell a record. -/
theorem met_RdmaRequestsAreAnswered_mirror (d : Bytes) (r : Config.MirrorRecord) (hd : Config.mirrorRecord d = some r)
    (hr : r.asks = true) : ∃ (s t : State) (n : BitVec 24) (q : Qp) (ce : Bool) (va : W64) (key : BitVec 32) (a : Nat),
    s.qp? n.toNat = some q ∧ q.refuse = false ∧ q.state = .connected ∧ t = s.notify n q ce ∧ a = va.toNat % 2 ^ 48 ∧
    ∃ own boxes mirror : Prop, (own ↔ t.vaOk va = true ∧ t.keyOk q 1 key = true ∧ t.inOwn q a d.length = true) ∧
    (boxes ↔ t.vaOk va = true ∧ t.keyOk q 2 key = true ∧ q.inBoxes a d.length = true) ∧
    (mirror ↔ t.vaOk va = true ∧ t.keyOk q 4 key = true) ∧ ¬ own ∧ ¬ boxes ∧ mirror ∧ Config.mirrorRecord d = some r ∧
    if r.asks then a = (Config.mirrorAddr r).toNat else t.inMirror a d.length = true :=
  ⟨peered, peered, 0, qp 16, false, (Config.mirrorAddr r).setWidth 64, mirrorKey, _, by decide +kernel, by decide +kernel,
    by decide +kernel, rfl, rfl, peered_mirror _ _ _ ⟨hd, by rw [if_pos hr, peered_addr]⟩⟩

/-- What the clause of RdmaRequestsAreAnswered about other mirror writes asks can be met by any bytes. -/
theorem met_RdmaRequestsAreAnswered_other (d : Bytes) : ∃ (s t : State) (n : BitVec 24) (q : Qp) (ce : Bool) (va : W64)
    (key : BitVec 32) (a : Nat), s.qp? n.toNat = some q ∧ q.refuse = false ∧ q.state = .connected ∧ t = s.notify n q ce ∧
    a = va.toNat % 2 ^ 48 ∧ ∃ own boxes mirror : Prop,
    (own ↔ t.vaOk va = true ∧ t.keyOk q 1 key = true ∧ t.inOwn q a d.length = true) ∧
    (boxes ↔ t.vaOk va = true ∧ t.keyOk q 2 key = true ∧ q.inBoxes a d.length = true) ∧
    (mirror ↔ t.vaOk va = true ∧ t.keyOk q 4 key = true) ∧ ¬ own ∧ ¬ boxes ∧ mirror ∧
    ∀ r : Config.MirrorRecord, Config.mirrorRecord d = some r →
      ¬ (if r.asks then a = (Config.mirrorAddr r).toNat else t.inMirror a d.length = true) := by
  obtain ⟨a, ha⟩ : ∃ a : BitVec 48, ∀ r : Config.MirrorRecord, Config.mirrorRecord d = some r → a ≠ Config.mirrorAddr r := by
    cases h : Config.mirrorRecord d with
    | none => exact ⟨0, fun r e => nomatch e⟩
    | some v => exact ⟨Config.mirrorAddr v + 1, fun r e => by cases e; intro h; bv_omega⟩
  refine ⟨peered, peered, 0, qp 16, false, a.setWidth 64, mirrorKey, _, by decide +kernel, by decide +kernel,
    by decide +kernel, rfl, rfl, peered_mirror _ _ _ (fun r e h => ?_)⟩
  rw [peered_addr] at h
  split at h
  · exact ha r e (BitVec.eq_of_toNat_eq h)
  · exact Bool.noConfusion h

/-! ### An image's place -/

/-- A first segment of 4 bytes for partition 0, which has the extents `xs`. -/
def loading (xs : List Extent) : State :=
  asked (withQp { device with parts := [(0, { part with hbm := xs })] } 16) 0x401
    [(0x50, 4), (0x58, 4), (0x60, 2 ^ 51), (0x68, 5)]

/-- What the first segment asks, but for the place of its copy. -/
theorem loading_meets (xs : List Extent) (hx : xs = [] ∨ xs = [⟨1, 0⟩]) : ∃ (m : Fin 64) (host : Option Bytes) (pg dig : Bytes)
    (p off n total : Nat) (q : Partition) (own : Option Bool) (got : Nat) (bs : Bytes), (loading xs).Takes m specModelLoad ∧
    pg = (loading xs).page m ∧ p = le pg 0x40 1 ∧ off = par loadSizes pg 2 ∧ n = le pg 0x50 4 ∧ total = le pg 0x58 8 ∧
    dig = parB loadSizes pg 6 ∧ (loading xs).popped.live? p = some q ∧
    own = [false, true].find? (fun b => (q.img b).state == .loading && (q.img b).digest == dig) ∧
    got = (own.map (fun b => (q.img b).received)).getD 0 ∧ q.settled = true ∧
    (off = 0 ∧ (own.isSome = true → got = 0 ∨ bit (le pg 0x41 1) 0 = true) ∧
      (loading xs).popped.loadSlot p q dig (bit (le pg 0x41 1) 0) = some true ∧ n ≤ total) ∧
    host = some bs ∧ bs.length = n ∧ (loading xs).popped.hostReach m (BitVec.ofNat 64 (le pg 0x60 8)) = true ∧
    p = 0 ∧ total = 4 ∧ dig = natToBytes 64 5 := by
  refine ⟨0, some [1, 2, 3, 4], _, natToBytes 64 5, 0, 0, 4, 4, { part with hbm := xs }, none, 0, [1, 2, 3, 4], ⟨?_, ?_, ?_, ?_⟩, rfl,
    ?_, ?_, ?_, ?_, ?_, ?_, ?_, ?_, ?_, ⟨?_, ?_, ?_, ?_⟩, rfl, ?_, ?_, rfl, rfl, rfl⟩ <;>
    obtain rfl | rfl := hx <;> decide +kernel

/-- The slot is emptied before the copy's place is looked for. -/
theorem loading_emptied (xs : List Extent) (hx : xs = [] ∨ xs = [⟨1, 0⟩]) (b : State) (hb : b = (((loading xs).popped.discardLoad 0
    (({ part with hbm := xs } : Partition).img true) stAborted).emptySlot 0 true).repower 0) :
    ∃ q, b.part? 0 = some q ∧ q.hbm = xs ∧ q.places = [] := by
  have h : (b.part? 0).map (fun q => (q.hbm, q.places)) = some (xs, []) := by
    subst hb; obtain rfl | rfl := hx <;> decide +kernel
  obtain ⟨q, hq, he⟩ := Option.map_eq_some_iff.mp h
  exact ⟨q, hq, congrArg Prod.fst he, congrArg Prod.snd he⟩

/-- The first segment's clauses of PartitionAndImageCommandsAct can be met, with `loading_meets`: without extents no place is
found, -/
theorem met_PartitionAndImageCommandsAct_noArea : (loading []).popped.beginLoad 0 true 4 (natToBytes 64 5) = none := by
  obtain ⟨q, hq, hx, -⟩ := loading_emptied [] (Or.inl rfl) _ rfl
  have hp : (loading []).popped.part? 0 = some { part with hbm := [] } := by decide +kernel
  simp only [State.beginLoad, hp, alloc_none _ 0 4096 (max 1 4) q hq (by rw [hx]; exact nowhere _ (by decide)), Option.map_none]

/-- and with one it is. -/
theorem met_PartitionAndImageCommandsAct_area : ∃ (u : State) (r : Partition),
    (loading [⟨1, 0⟩]).popped.beginLoad 0 true 4 (natToBytes 64 5) = some u ∧ u.part? 0 = some r := by
  obtain ⟨q, hq, hx, ht⟩ := loading_emptied [⟨1, 0⟩] (Or.inr rfl) _ rfl
  have hp : (loading [⟨1, 0⟩]).popped.part? 0 = some { part with hbm := [⟨1, 0⟩] } := by decide +kernel
  obtain ⟨a, c, ha⟩ := alloc_some _ 0 4096 (max 1 4) 4096 q [⟨1, 0⟩] [] hq hx ht (by decide +kernel) (by decide +kernel) rfl
  have hs : ∀ (w : State) (x : Partition), (w.setPart 0 x).part? 0 = some x := fun _ _ => tabGet?_tabPut_same _ _ _
  simp only [State.beginLoad, hp, ha, Option.map_some, State.modPart, hs]
  exact ⟨_, _, rfl, hs _ _⟩
end Sys2Proof.Tests
end

