-- ==== Sys2Proof/Tests/WitnessStreams.lean ====
section
/-! SUPPORT. The hypotheses of the statements about streams, steps, faults and doorbells can be met. -/

namespace Sys2Proof.Tests
open Sys2Proof.Machine

set_option Elab.async false

/-- What the clauses of ChunksAreAcceptedWithTheirDeadline ask can be met. -/
theorem met_ChunksAreAcceptedWithTheirDeadline :
    (∃ s : State, ∃ i : Fin 16384, ∃ x : Stream, x = s.stream i.val ∧ (x.takesInput = false ∨ s.nextChunkSamples x = 0)) ∧
    (∃ s : State, ∃ i : Fin 16384, ∃ x : Stream, x = s.stream i.val ∧ x.srcKind ≠ 1) ∧
    (∃ s : State, ∃ i : Fin 16384, ∃ x : Stream, x = s.stream i.val ∧ x.srcKind ≠ 2) ∧
    (∃ s : State, ∃ i : Fin 16384, ∃ x : Stream, x = s.stream i.val ∧ x.jitterMoment (s.nextChunkSamples x) = none) ∧
    (∃ s : State, ∃ i : Fin 16384, ∃ x : Stream, ∃ q : Partition, ∃ im : ImageInfo, ∃ n : Nat, x = s.stream i.val ∧
      s.part? x.part.val = some q ∧ q.shape? = some im ∧ n = chunkSamples q.l x.sampleRate.toNat ∧ n ≠ 0 ∧ x.takesInput =
      true ∧ x.srcKind = 1 ∧ x.presentIn n = n) ∧
    (∃ s : State, ∃ i : Fin 16384, ∃ x : Stream, ∃ q : Partition, ∃ im : ImageInfo, ∃ n : Nat, x = s.stream i.val ∧
      s.part? x.part.val = some q ∧ q.shape? = some im ∧ n = chunkSamples q.l x.sampleRate.toNat ∧ n ≠ 0 ∧ x.takesInput =
      true ∧ x.srcKind = 1 ∧ x.presentIn n ≠ n) ∧
    (∃ s : State, ∃ i : Fin 16384, ∃ x : Stream, ∃ q : Partition, ∃ im : ImageInfo, ∃ n : Nat, ∃ t : Int, x = s.stream
      i.val ∧ s.part? x.part.val = some q ∧ q.shape? = some im ∧ n = chunkSamples q.l x.sampleRate.toNat ∧ n ≠ 0 ∧
      x.takesInput = true ∧ x.srcKind = 1 ∧ x.jitterMoment n = some t ∧ t ≤ s.time) ∧
    (∃ s : State, ∃ i : Fin 16384, ∃ x : Stream, ∃ q : Partition, ∃ im : ImageInfo, ∃ n : Nat, ∃ t : Int, x = s.stream
      i.val ∧ s.part? x.part.val = some q ∧ q.shape? = some im ∧ n = chunkSamples q.l x.sampleRate.toNat ∧ n ≠ 0 ∧
      x.takesInput = true ∧ x.srcKind = 1 ∧ x.jitterMoment n = some t ∧ s.time < t) ∧
    (∃ s : State, ∃ i : Fin 16384, ∃ x : Stream, ∃ q : Partition, ∃ im : ImageInfo, ∃ n : Nat, x = s.stream i.val ∧
      s.part? x.part.val = some q ∧ q.shape? = some im ∧ n = chunkSamples q.l x.sampleRate.toNat ∧ n ≠ 0 ∧ x.takesInput =
      true ∧ x.srcKind = 2 ∧ x.presentIn n = n) ∧
    (∃ s : State, ∃ i : Fin 16384, ∃ x : Stream, ∃ q : Partition, ∃ im : ImageInfo, ∃ n : Nat, x = s.stream i.val ∧
      s.part? x.part.val = some q ∧ q.shape? = some im ∧ n = chunkSamples q.l x.sampleRate.toNat ∧ n ≠ 0 ∧ x.takesInput =
      true ∧ x.srcKind = 2 ∧ x.presentIn n ≠ n) :=
  ⟨⟨device, 3, _, rfl, (by decide +kernel)⟩,
   ⟨withStream { stream with source := BitVec.ofNat 64 (2 ^ 61) }, 3, _, rfl, (by decide +kernel)⟩,
   ⟨withStream stream, 3, _, rfl, (by decide +kernel)⟩,
   ⟨withStream stream, 3, _, rfl, (by decide +kernel)⟩,
   ⟨withStream { stream with intake := { stream.intake with samples := [(0, [1, 0, 0, 0])] } }, 3, _, part, img, _, rfl, (by decide +kernel), (by decide +kernel), rfl, (by decide +kernel), (by decide +kernel), (by decide +kernel), (by decide +kernel)⟩,
   ⟨withStream stream, 3, _, part, img, _, rfl, (by decide +kernel), (by decide +kernel), rfl, (by decide +kernel), (by decide +kernel), (by decide +kernel), (by decide +kernel)⟩,
   ⟨withStream { stream with intake := { stream.intake with kept := [⟨0, 0, 0⟩] } }, 3, _, part, img, _, 0, rfl, (by decide +kernel), (by decide +kernel), rfl, (by decide +kernel), (by decide +kernel), (by decide +kernel), (by decide +kernel), (by decide +kernel)⟩,
   ⟨withStream { stream with intake := { stream.intake with kept := [⟨0, 0, 1000000001⟩] } }, 3, _, part, img, _, 1000000001, rfl, (by decide +kernel), (by decide +kernel), rfl, (by decide +kernel), (by decide +kernel), (by decide +kernel), (by decide +kernel), (by decide +kernel)⟩,
   ⟨withStream { stream with source := BitVec.ofNat 64 (2 ^ 61), intake := { stream.intake with samples := [(0, [1, 0, 0, 0])] } }, 3, _, part, img, _, rfl, (by decide +kernel), (by decide +kernel), rfl, (by decide +kernel), (by decide +kernel), (by decide +kernel), (by decide +kernel)⟩,
   ⟨withStream { stream with source := BitVec.ofNat 64 (2 ^ 61) }, 3, _, part, img, _, rfl, (by decide +kernel), (by decide +kernel), rfl, (by decide +kernel), (by decide +kernel), (by decide +kernel), (by decide +kernel)⟩⟩

/-- What the clauses of ArchiveAndCommitWriteTheirSlots ask can be met. -/
theorem met_ArchiveAndCommitWriteTheirSlots :
    (∃ s : State, ∃ i : Fin 16384, ∃ x : Stream, x = s.stream i.val ∧ ((s.part? x.part.val).bind (·.shape?) = none ∨ (∀ c
      ∈ x.chunks, c.archived = true))) ∧
    (∃ s : State, ∃ i : Fin 16384, ∃ x : Stream, x = s.stream i.val ∧ ((s.part? x.part.val).bind (·.image?) = none ∨
      s.workOf i.val = none ∨ (∃ e : WorkEntry, s.workOf i.val = some e ∧ e.committed = true))) ∧
    (∃ s : State, ∃ i : Fin 16384, ∃ x : Stream, ∃ im : ImageInfo, ∃ c : Chunk, ∃ d : Chunk, x = s.stream i.val ∧
      (s.part? x.part.val).bind (·.shape?) = some im ∧ x.chunks.find? (fun k => !k.archived) = some c ∧ d =
      { c with archived := true, mirrored := x.mirrorSide.isSome }) ∧
    (∃ s : State, ∃ i : Fin 16384, ∃ x : Stream, ∃ im : ImageInfo, ∃ e : WorkEntry, x = s.stream i.val ∧ (s.part?
      x.part.val).bind (·.shape?) = some im ∧ s.workOf i.val = some e ∧ (s.part? x.part.val).bind (·.image?) = some im ∧
      e.stored = true ∧ e.committed = false ∧ e.outIdx = im.outRecords ∧ s.decided x.part.val = true) ∧
    (∃ s : State, ∃ i : Fin 16384, ∃ x : Stream, ∃ im : ImageInfo, ∃ e : WorkEntry, x = s.stream i.val ∧ (s.part?
      x.part.val).bind (·.shape?) = some im ∧ s.workOf i.val = some e ∧ (s.part? x.part.val).bind (·.image?) = some im ∧
      (e.stored = false ∨ e.outIdx ≠ im.outRecords ∨ s.decided x.part.val = false)) :=
  ⟨⟨withStream stream, 3, _, rfl, (by decide +kernel)⟩,
   ⟨withStream stream, 3, _, rfl, (Or.inr (Or.inl (by decide +kernel)))⟩,
   ⟨withStream { stream with chunks := [{ chunk with archived := false }] }, 3, _, img, { chunk with archived := false }, _, rfl, (by decide +kernel), (by decide +kernel), rfl⟩,
   ⟨stepping { stream with chunks := [chunk] } { stepRun with list := [{ entry with outIdx := 1 }] }, 3, _, img, { entry with outIdx := 1 }, rfl, (by decide +kernel), (by decide +kernel), (by decide +kernel), (by decide +kernel), (by decide +kernel), (by decide +kernel), (by decide +kernel)⟩,
   ⟨stepping { stream with chunks := [chunk] } stepRun, 3, _, img, entry, rfl, (by decide +kernel), (by decide +kernel), (by decide +kernel), (by decide +kernel)⟩⟩

/-- What the clauses of StreamStatesChangeAtTheirTimes ask can be met. -/
theorem met_StreamStatesChangeAtTheirTimes :
    (∃ s : State, ∃ i : Fin 16384, ∃ x : Stream, ∃ y : Stream, x = s.stream i.val ∧ x.state = .opening ∧ y =
      { x with state := .active, lastSample := s.now, lastDone := s.now } ∧ (x.openMbx = none ∨ (x.mirrorSide.map
      (·.imageSent)) = some false)) ∧
    (∃ s : State, ∃ i : Fin 16384, ∃ x : Stream, ∃ y : Stream, ∃ m : Fin 64, x = s.stream i.val ∧ x.state = .opening ∧ y
      = { x with state := .active, lastSample := s.now, lastDone := s.now } ∧ x.openMbx = some m ∧ (x.mirrorSide.map
      (·.imageSent)) ≠ some false) ∧
    (∃ s : State, ∃ i : Fin 16384, ∃ x : Stream, x = s.stream i.val ∧ x.state ≠ .opening) ∧
    (∃ s : State, ∃ i : Fin 16384, ∃ x : Stream, x = s.stream i.val ∧ s.part? x.part.val = none) ∧
    (∃ s : State, ∃ i : Fin 16384, ∃ x : Stream, x = s.stream i.val ∧ x.state ≠ .active) ∧
    (∃ s : State, ∃ i : Fin 16384, ∃ x : Stream, x = s.stream i.val ∧ x.state ≠ .orphaned) ∧
    (∃ s : State, ∃ i : Fin 16384, ∃ x : Stream, x = s.stream i.val ∧ (x.state ≠ .stalled ∨ s.stepOf x.part.val <
      x.stalledStep.toNat + 16)) ∧
    (∃ s : State, ∃ i : Fin 16384, ∃ x : Stream, x = s.stream i.val ∧ (x.mirrorSide = none ∨ x.state = .closed ∨ x.state
      = .opening)) ∧
    (∃ s : State, ∃ i : Fin 16384, ∃ x : Stream, ∃ q : Partition, ∃ t0 : W64, x = s.stream i.val ∧ s.part? x.part.val = some q ∧ t0 = (match x.shadow with | some h => h.lastRecord | none => x.orphanSince) ∧ x.state = .active ∧ x.chunks = [] ∧ max x.lastDone.toNat x.lastSample.toNat + q.stallNs ≤ s.time) ∧
    (∃ s : State, ∃ i : Fin 16384, ∃ x : Stream, ∃ q : Partition, ∃ t0 : W64, x = s.stream i.val ∧ s.part? x.part.val = some q ∧ t0 = (match x.shadow with | some h => h.lastRecord | none => x.orphanSince) ∧ (x.chunks ≠ [] ∨ s.time < max x.lastDone.toNat x.lastSample.toNat + q.stallNs)) ∧
    (∃ s : State, ∃ i : Fin 16384, ∃ x : Stream, ∃ q : Partition, ∃ t0 : W64, x = s.stream i.val ∧ s.part? x.part.val = some q ∧ t0 = (match x.shadow with | some h => h.lastRecord | none => x.orphanSince) ∧ x.state = .stalled ∧ x.stalledStep.toNat + 16 ≤ s.stepOf x.part.val) ∧
    (∃ s : State, ∃ i : Fin 16384, ∃ x : Stream, ∃ q : Partition, ∃ t0 : W64, x = s.stream i.val ∧ s.part? x.part.val = some q ∧ t0 = (match x.shadow with | some h => h.lastRecord | none => x.orphanSince) ∧ x.state = .orphaned ∧ t0.toNat + q.orphanNs ≤ s.time) ∧
    (∃ s : State, ∃ i : Fin 16384, ∃ x : Stream, ∃ q : Partition, ∃ t0 : W64, x = s.stream i.val ∧ s.part? x.part.val = some q ∧ t0 = (match x.shadow with | some h => h.lastRecord | none => x.orphanSince) ∧ x.state = .orphaned ∧ s.time < t0.toNat + q.orphanNs) ∧
    (∃ s : State, ∃ i : Fin 16384, ∃ x : Stream, ∃ v : MirrorSide, x = s.stream i.val ∧ x.mirrorSide = some v ∧ x.state ≠
      .closed ∧ x.state ≠ .opening ∧ s.good x.committedAt (x.stateUnits.toNat * 4096) = false) ∧
    (∃ s : State, ∃ i : Fin 16384, ∃ x : Stream, ∃ v : MirrorSide, x = s.stream i.val ∧ x.mirrorSide = some v ∧ x.state ≠
      .closed ∧ x.state ≠ .opening ∧ s.good x.committedAt (x.stateUnits.toNat * 4096) = true ∧ s.qpFor 16 v.peer.toNat =
      none) ∧
    (∃ s : State, ∃ i : Fin 16384, ∃ x : Stream, ∃ v : MirrorSide, ∃ n : Nat, ∃ q : Qp, x = s.stream i.val ∧ x.mirrorSide
      = some v ∧ x.state ≠ .closed ∧ x.state ≠ .opening ∧ s.good x.committedAt (x.stateUnits.toNat * 4096) = true ∧
      s.qpFor 16 v.peer.toNat = some (n, q)) :=
  ⟨⟨withStream { stream with state := .opening, openMbx := none }, 3, _, _, rfl, (by decide +kernel), rfl, (by decide +kernel)⟩,
   ⟨withStream { stream with state := .opening, openMbx := some 4 }, 3, _, _, 4, rfl, (by decide +kernel), rfl, (by decide +kernel), (by decide +kernel)⟩,
   ⟨withStream stream, 3, _, rfl, (by decide +kernel)⟩,
   ⟨bare, 3, _, rfl, (by decide +kernel)⟩,
   ⟨device, 3, _, rfl, (by decide +kernel)⟩,
   ⟨device, 3, _, rfl, (by decide +kernel)⟩,
   ⟨device, 3, _, rfl, (by decide +kernel)⟩,
   ⟨device, 3, _, rfl, (by decide +kernel)⟩,
   ⟨withStream stream, 3, _, part, _, rfl, (by decide +kernel), rfl, (by decide +kernel), (by decide +kernel), (by decide +kernel)⟩,
   ⟨withStream { stream with chunks := [chunk] }, 3, _, part, _, rfl, (by decide +kernel), rfl, (by decide +kernel)⟩,
   ⟨{ withStream { stream with state := .stalled } with parts := [(0, { part with stepNo := 16 })] }, 3, _, { part with stepNo := 16 }, _, rfl, (by decide +kernel), rfl, (by decide +kernel), (by decide +kernel)⟩,
   ⟨withStream { stream with state := .orphaned }, 3, _, part, _, rfl, (by decide +kernel), rfl, (by decide +kernel), (by decide +kernel)⟩,
   ⟨withStream { stream with state := .orphaned, orphanSince := 999500000 }, 3, _, part, _, rfl, (by decide +kernel), rfl, (by decide +kernel), (by decide +kernel)⟩,
   ⟨{ withStream { stream with mirrorSide := some ⟨1, 77, true, none⟩ } with badSpans := [0x4000000 / 256] }, 3, _, ⟨1, 77, true, none⟩, rfl, (by decide +kernel), (by decide +kernel), (by decide +kernel), (by decide +kernel)⟩,
   ⟨withStream { stream with mirrorSide := some ⟨1, 77, true, none⟩ }, 3, _, ⟨1, 77, true, none⟩, rfl, (by decide +kernel), (by decide +kernel), (by decide +kernel), (by decide +kernel), (by decide +kernel)⟩,
   ⟨withQp (withStream { stream with mirrorSide := some ⟨1, 77, true, none⟩ }) 16, 3, _, (⟨1, 77, true, none⟩ : MirrorSide), 0, qp 16, rfl, (by decide +kernel), (by decide +kernel), (by decide +kernel), (by decide +kernel), (by decide +kernel)⟩⟩

/-- What the clauses of StepsAndPassesRun ask can be met. -/
theorem met_StepsAndPassesRun :
    (∃ s : State, ∃ t : State, ∃ p : Fin 16, ∃ q0 : Partition, ∃ q : Partition, ∃ im : ImageInfo, ∃ l : List WorkEntry, ∃
      gs : List Nat, s.part? p.val = some q0 ∧ q0.step = none ∧ q0.image?.isSome = true ∧ s.dev.mode = .serving ∧
      q0.zeroing = none ∧ q0.resetting = none ∧ t = ((s.idleBoundary p.val).resumeOrphans p.val ((((s.idleBoundary
      p.val).part? p.val).map Partition.w).getD 0) ((((s.idleBoundary p.val).part? p.val).map Partition.policyHold).getD
      false)).kvStart p.val ∧ t.part? p.val = some q ∧ q.image? = some im ∧ gs = (passGroupsOf q.sect im).filter (fun g
      => t.groupServes im g) ∧ l = t.orderEntries im (t.placeAll q im gs (t.listOrder p.val im (gs.length *
      im.groupSlots)) 0 []) ∧ l ≠ [] ∧ t.startDue q im l = true) ∧
    (∃ s : State, ∃ t : State, ∃ p : Fin 16, ∃ q0 : Partition, ∃ q : Partition, ∃ im : ImageInfo, ∃ l : List WorkEntry, ∃
      gs : List Nat, s.part? p.val = some q0 ∧ q0.step = none ∧ q0.image?.isSome = true ∧ s.dev.mode = .serving ∧
      q0.zeroing = none ∧ q0.resetting = none ∧ t = ((s.idleBoundary p.val).resumeOrphans p.val ((((s.idleBoundary
      p.val).part? p.val).map Partition.w).getD 0) ((((s.idleBoundary p.val).part? p.val).map Partition.policyHold).getD
      false)).kvStart p.val ∧ t.part? p.val = some q ∧ q.image? = some im ∧ gs = (passGroupsOf q.sect im).filter (fun g
      => t.groupServes im g) ∧ l = t.orderEntries im (t.placeAll q im gs (t.listOrder p.val im (gs.length *
      im.groupSlots)) 0 []) ∧ (l = [] ∨ t.startDue q im l = false)) ∧
    (∃ s : State, ∃ p : Fin 16, (s.part? p.val = none ∨ s.dev.mode ≠ .serving ∨ (∃ q : Partition, s.part? p.val = some q
      ∧ (q.step.isSome = true ∨ q.image? = none ∨ q.zeroing.isSome = true ∨ q.resetting.isSome = true)))) ∧
    (∃ s : State, ∃ p : Fin 16, (s.part? p.val).bind (·.step) = none) ∧
    (∃ s : State, s.dev.mode ≠ .serving) ∧
    (∃ s : State, ∃ p : Fin 16, ∃ r : StepRun, (s.part? p.val).bind (·.step) = some r ∧ r.replay = none) ∧
    (∃ s : State, ∃ p : Fin 16, (∀ m : Fin 64, (s.part? p.val).bind (·.resetting) ≠ some (m, false))) ∧
    (∃ s : State, ∃ id : BitVec 16, s.ctx? id.toNat = none) ∧
    (∃ s : State, ∃ p : Fin 16, ∃ r : StepRun, (s.part? p.val).bind (·.step) = some r ∧ s.dev.mode = .serving ∧ r.passOn
      = false ∧ r.replay = none ∧ r.cur < r.passes) ∧
    (∃ s : State, ∃ p : Fin 16, ∃ r : StepRun, (s.part? p.val).bind (·.step) = some r ∧ (r.passOn = true ∨
      r.replay.isSome = true ∨ r.passes ≤ r.cur)) ∧
    (∃ s : State, ∃ t : State, ∃ p : Nat, ∃ k : Nat, ∃ g : Nat, ∃ im : ImageInfo, ∃ r : StepRun, t = s.startContext p im
      r k g ∧ r.list.any (fun e => e.pass == k && e.group == g && !e.gone && !e.committed) = true ∧ s.ctxs.any (fun v =>
      v.2.part.val == p && v.2.group == g && v.2.pass == k) = false) ∧
    (∃ s : State, ∃ id : BitVec 16, ∃ x : Context, s.ctx? id.toNat = some x ∧ (∀ c : Nat, c ∈ x.cores → c ∈
      x.endedCores)) ∧
    (∃ s : State, ∃ id : BitVec 16, ∃ x : Context, s.ctx? id.toNat = some x ∧ (∃ c : Nat, c ∈ x.cores ∧ c ∉
      x.endedCores)) ∧
    (∃ s : State, ∃ p : Fin 16, ∃ q : Partition, ∃ r : StepRun, ∃ v : Replay, s.part? p.val = some q ∧ q.step = some r ∧
      q.image?.isSome = true ∧ r.replay = some v ∧ r.passOn = true) ∧
    (∃ s : State, ∃ p : Fin 16, ∃ q : Partition, ∃ r : StepRun, ∃ v : Replay, s.part? p.val = some q ∧ q.step = some r ∧
      q.image?.isSome = true ∧ r.replay = some v ∧ r.passOn = false ∧ (∀ n : Nat, (s.cluster n).failedBanks = [])) ∧
    (∃ s : State, ∃ p : Fin 16, ∃ m : Fin 64, (s.part? p.val).bind (·.resetting) = some (m, false) ∧ (∀ bs ∈ (s.ring (le
      (s.page m) 6 1)).waiting, le bs 12 1 ≠ m.val) ∧ bit (le (s.page m) 2 2) 1 = true ∧ devOf (BitVec.ofNat 64 (le
      (s.page m) 0x10 8)) ≠ s.dev.deviceNo.toNat ∧ (∃ (k : Nat) (q : Qp), (k, q) ∈ s.qps ∧ q.owner = (s.mail
      m).owner.toNat ∧ q.state = .connected ∧ q.peer.toNat = devOf (BitVec.ofNat 64 (le (s.page m) 0x10 8)) ∧ (q.refuse =
      false ∨ q.owner = p.val)) ∧ (s.mail m).busy = true) ∧
    (∃ s : State, ∃ p : Fin 16, ∃ m : Fin 64, (s.part? p.val).bind (·.resetting) = some (m, false) ∧ (∀ bs ∈ (s.ring (le
      (s.page m) 6 1)).waiting, le bs 12 1 ≠ m.val) ∧ bit (le (s.page m) 2 2) 1 = false) :=
  ⟨⟨withStream { stream with chunks := [chunk] }, _, 0, part, _, img, _, [0], (by decide +kernel), (by decide +kernel), (by decide +kernel), (by decide +kernel), (by decide +kernel), (by decide +kernel), rfl, rfl, (by decide +kernel), (by decide +kernel), rfl, (by decide +kernel), (by decide +kernel)⟩,
   ⟨device, _, 0, part, part, img, [], [0], (by decide +kernel), (by decide +kernel), (by decide +kernel), (by decide +kernel), (by decide +kernel), (by decide +kernel), rfl, (by decide +kernel), (by decide +kernel), (by decide +kernel), (by decide +kernel), (by decide +kernel)⟩,
   ⟨bare, 0, (by decide +kernel)⟩,
   ⟨device, 0, (by decide +kernel)⟩,
   ⟨inMode device .ready, (by decide +kernel)⟩,
   ⟨stepping stream stepRun, 0, stepRun, (by decide +kernel), (by decide +kernel)⟩,
   ⟨device, 0, (by decide +kernel)⟩,
   ⟨device, 7, (by decide +kernel)⟩,
   ⟨stepping stream stepRun, 0, stepRun, (by decide +kernel), (by decide +kernel), (by decide +kernel), (by decide +kernel), (by decide +kernel)⟩,
   ⟨stepping stream { stepRun with passOn := true }, 0, { stepRun with passOn := true }, (by decide +kernel), (by decide +kernel)⟩,
   ⟨stepping stream stepRun, _, 0, 0, 0, img, { stepRun with list := [{ entry with stored := false }] }, rfl, (by decide +kernel), (by decide +kernel)⟩,
   ⟨{ onCore core with ctxs := [(7, { ctx with endedCores := [0] })] }, 7, { ctx with endedCores := [0] }, (by decide +kernel), (by decide +kernel)⟩,
   ⟨onCore core, 7, ctx, (by decide +kernel), ⟨0, by decide +kernel, by decide +kernel⟩⟩,
   ⟨stepping stream { stepRun with replay := some ⟨⟨0, 0, 0, .nothing, true⟩, [], 0, 0⟩, passOn := true }, 0, { part with step := some { stepRun with replay := some ⟨⟨0, 0, 0, .nothing, true⟩, [], 0, 0⟩, passOn := true } }, { stepRun with replay := some ⟨⟨0, 0, 0, .nothing, true⟩, [], 0, 0⟩, passOn := true }, ⟨⟨0, 0, 0, .nothing, true⟩, [], 0, 0⟩, (by decide +kernel), (by decide +kernel), (by decide +kernel), (by decide +kernel), (by decide +kernel)⟩,
   ⟨stepping stream { stepRun with replay := some ⟨⟨0, 0, 0, .nothing, true⟩, [], 0, 0⟩, passOn := false }, 0, { part with step := some { stepRun with replay := some ⟨⟨0, 0, 0, .nothing, true⟩, [], 0, 0⟩, passOn := false } }, { stepRun with replay := some ⟨⟨0, 0, 0, .nothing, true⟩, [], 0, 0⟩, passOn := false }, ⟨⟨0, 0, 0, .nothing, true⟩, [], 0, 0⟩, (by decide +kernel), (by decide +kernel), (by decide +kernel), (by decide +kernel), (by decide +kernel), (fun n => device_banks n)⟩,
   ⟨{ mailed { device with parts := [(0, { part with resetting := some (4, false) })] } 4 0 (page 32 [(2, 2), (0x10, 2 ^ 51)]) with qps := [(0, { qp 0 with refuse := true })] }, 0, 4, (by decide +kernel), (by decide +kernel), (by decide +kernel), (by decide +kernel), ⟨0, { qp 0 with refuse := true }, (by decide +kernel), (by decide +kernel), (by decide +kernel), (by decide +kernel), (by decide +kernel)⟩, (by decide +kernel)⟩,
   ⟨mailed { device with parts := [(0, { part with resetting := some (4, false) })] } 4 0 (page 32 [(2, 0), (0x10, 2 ^ 51)]), 0, 4, (by decide +kernel), (by decide +kernel), (by decide +kernel)⟩⟩

/-- What the clauses of OutputsAreReleasedOnce ask can be met. -/
theorem met_OutputsAreReleasedOnce :
    (∃ s : State, ∃ i : Fin 16384, ∃ x : Stream, x = s.stream i.val ∧ (s.workOf i.val = none ∨ (s.part? x.part.val).bind
      (·.image?) = none ∨ s.dev.mode ≠ .serving ∨ s.decided x.part.val = false ∨ (∃ e im, s.workOf i.val = some e ∧
      (s.part? x.part.val).bind (·.image?) = some im ∧ (e.stored = false ∨ im.outRecords ≤ e.outIdx)))) ∧
    (∃ s : State, ∃ i : Fin 16384, ∃ x : Stream, x = s.stream i.val ∧ x.outlet.waiting = []) ∧
    (∃ s : State, ∃ i : Fin 16384, ∃ x : Stream, x = s.stream i.val ∧ (x.sinkKind ≠ 3 ∨ x.outlet.waiting = [])) ∧
    (∃ s : State, ∃ i : Fin 16384, ∃ x : Stream, ∃ e : WorkEntry, ∃ im : ImageInfo, ∃ ok : Bool, ∃ k : W32, ∃ a : Nat, x
      = s.stream i.val ∧ s.workOf i.val = some e ∧ (s.part? x.part.val).bind (·.image?) = some im ∧ s.dev.mode = .serving
      ∧ e.stored = true ∧ e.outIdx < im.outRecords ∧ s.decided x.part.val = true ∧ k = x.releasedSeq + 1 - e.n0 ∧ a =
      e.outAddr + e.outIdx * alignUp 256 im.outBytes ∧ ok = true ∧ s.good a im.outBytes = true ∧ (x.nextOutSeq -
      e.n0).toNat < k.toNat) ∧
    (∃ s : State, ∃ i : Fin 16384, ∃ x : Stream, ∃ e : WorkEntry, ∃ im : ImageInfo, ∃ ok : Bool, ∃ k : W32, ∃ a : Nat, x
      = s.stream i.val ∧ s.workOf i.val = some e ∧ (s.part? x.part.val).bind (·.image?) = some im ∧ s.dev.mode = .serving
      ∧ e.stored = true ∧ e.outIdx < im.outRecords ∧ s.decided x.part.val = true ∧ k = x.releasedSeq + 1 - e.n0 ∧ a =
      e.outAddr + e.outIdx * alignUp 256 im.outBytes ∧ ok = true ∧ s.good a im.outBytes = true ∧ k.toNat ≤ (x.nextOutSeq
      - e.n0).toNat) ∧
    (∃ s : State, ∃ i : Fin 16384, ∃ x : Stream, ∃ e : WorkEntry, ∃ im : ImageInfo, ∃ ok : Bool, ∃ k : W32, ∃ a : Nat, x
      = s.stream i.val ∧ s.workOf i.val = some e ∧ (s.part? x.part.val).bind (·.image?) = some im ∧ s.dev.mode = .serving
      ∧ e.stored = true ∧ e.outIdx < im.outRecords ∧ s.decided x.part.val = true ∧ k = x.releasedSeq + 1 - e.n0 ∧ a =
      e.outAddr + e.outIdx * alignUp 256 im.outBytes ∧ (ok = false ∨ s.good a im.outBytes = false)) ∧
    (∃ s : State, ∃ i : Fin 16384, ∃ x : Stream, ∃ seq : W32, ∃ bs : Bytes, ∃ rest : List (W32 × Bytes), ∃ n : Nat, ∃ at'
      : Nat, ∃ k : Nat, ∃ q : Qp, x = s.stream i.val ∧ x.outlet.waiting = (seq, bs) :: rest ∧ n = bndRingEntries
      x.binding ∧ at' = bndRingAddr x.binding + seq.toNat % n * bndEntryBytes x.binding ∧ tabGet x.outlet.entries 0
      (seq.toNat % n) ≤ x.outlet.cons.toNat ∧ s.qpFor x.part.val (ringPeer x.sink) = some (k, q)) ∧
    (∃ s : State, ∃ i : Fin 16384, ∃ x : Stream, ∃ seq : W32, ∃ bs : Bytes, ∃ rest : List (W32 × Bytes), ∃ n : Nat, ∃ at'
      : Nat, x = s.stream i.val ∧ x.outlet.waiting = (seq, bs) :: rest ∧ n = bndRingEntries x.binding ∧ at' = bndRingAddr
      x.binding + seq.toNat % n * bndEntryBytes x.binding ∧ (x.outlet.cons.toNat < tabGet x.outlet.entries 0 (seq.toNat %
      n) ∨ s.qpFor x.part.val (ringPeer x.sink) = none)) ∧
    (∃ s : State, ∃ i : Fin 16384, ∃ x : Stream, ∃ seq : W32, ∃ bs : Bytes, ∃ rest : List (W32 × Bytes), ∃ n : Nat, ∃ at'
      : Nat, x = s.stream i.val ∧ x.outlet.waiting = (seq, bs) :: rest ∧ n = bndRingEntries x.binding ∧ at' = bndRingAddr
      x.binding + seq.toNat % n * bndEntryBytes x.binding ∧ x.sinkKind = 3) ∧
    (∃ s : State, ∃ p : Fin 16, (s.part? p.val).bind (·.seeing) = none) ∧
    (∃ s : State, ∃ p : Fin 16, ∃ q : Partition, ∃ g : Seeing, s.part? p.val = some q ∧ q.seeing = some g ∧ g.due = []) ∧
    (∃ s : State, ∃ p : Fin 16, ∃ q : Partition, ∃ g : Seeing, ∃ d : SeeingTally, ∃ rest : List SeeingTally, s.part?
      p.val = some q ∧ q.seeing = some g ∧ g.due = d :: rest) :=
  ⟨⟨withStream stream, 3, _, rfl, (Or.inl (by decide +kernel))⟩,
   ⟨withStream stream, 3, _, rfl, (by decide +kernel)⟩,
   ⟨withStream stream, 3, _, rfl, (by decide +kernel)⟩,
   ⟨stepping { stream with chunks := [chunk], releasedSeq := 3, nextOutSeq := 3 } { stepRun with list := [{ entry with n0 := 3 }] }, 3, _, { entry with n0 := 3 }, img, true, _, _, rfl, (by decide +kernel), (by decide +kernel), (by decide +kernel), (by decide +kernel), (by decide +kernel), (by decide +kernel), rfl, rfl, (by decide +kernel), (by decide +kernel), (by decide +kernel)⟩,
   ⟨stepping { stream with chunks := [chunk], releasedSeq := 0xFFFFFFFF } stepRun, 3, _, entry, img, true, _, _, rfl, (by decide +kernel), (by decide +kernel), (by decide +kernel), (by decide +kernel), (by decide +kernel), (by decide +kernel), rfl, rfl, (by decide +kernel), (by decide +kernel), (by decide +kernel)⟩,
   ⟨stepping { stream with chunks := [chunk] } stepRun, 3, _, entry, img, false, _, _, rfl, (by decide +kernel), (by decide +kernel), (by decide +kernel), (by decide +kernel), (by decide +kernel), (by decide +kernel), rfl, rfl, (by decide +kernel)⟩,
   ⟨withQp (withStream { stream with sink := BitVec.ofNat 64 (3 * 2 ^ 60 + 2 ^ 44), binding := page 128 [(0x48, 4), (0x4C, 64)], outlet := { stream.outlet with waiting := [(5, [1])], cons := 3, written := 4, entries := [(1, 3)] } }) 0, 3, _, 5, [1], [], _, _, 0, qp 0, rfl, (by decide +kernel), rfl, rfl, (by decide +kernel), (by decide +kernel)⟩,
   ⟨withQp (withStream { stream with sink := BitVec.ofNat 64 (3 * 2 ^ 60 + 2 ^ 44), binding := page 128 [(0x48, 4), (0x4C, 64)], outlet := { stream.outlet with waiting := [(5, [1])], cons := 3, written := 4, entries := [(1, 4)] } }) 0, 3, _, 5, [1], [], _, _, rfl, (by decide +kernel), rfl, rfl, (by decide +kernel)⟩,
   ⟨withQp (withStream { stream with sink := BitVec.ofNat 64 (3 * 2 ^ 60 + 2 ^ 44), binding := page 128 [(0x48, 4), (0x4C, 64)], outlet := { stream.outlet with waiting := [(5, [1])], cons := 3, written := 4, entries := [(1, 4)] } }) 0, 3, _, 5, [1], [], _, _, rfl, (by decide +kernel), rfl, rfl, (by decide +kernel)⟩,
   ⟨device, 0, (by decide +kernel)⟩,
   ⟨{ device with parts := [(0, { part with seeing := some ({ (SeeingTally.begin 0 false false) with ring := BitVec.ofNat 64 (2 ^ 51), entries := 4, period := 8, recordNo := 0, due := [] } : Seeing) })] }, 0, { part with seeing := some ({ (SeeingTally.begin 0 false false) with ring := BitVec.ofNat 64 (2 ^ 51), entries := 4, period := 8, recordNo := 0, due := [] } : Seeing) }, ({ (SeeingTally.begin 0 false false) with ring := BitVec.ofNat 64 (2 ^ 51), entries := 4, period := 8, recordNo := 0, due := [] } : Seeing), (by decide +kernel), (by decide +kernel), (by decide +kernel)⟩,
   ⟨withQp { device with parts := [(0, { part with seeing := some ({ (SeeingTally.begin 0 false false) with ring := BitVec.ofNat 64 (2 ^ 51), entries := 4, period := 8, recordNo := 0, due := [SeeingTally.begin 0 false false] } : Seeing) })] } 0, 0, { part with seeing := some ({ (SeeingTally.begin 0 false false) with ring := BitVec.ofNat 64 (2 ^ 51), entries := 4, period := 8, recordNo := 0, due := [SeeingTally.begin 0 false false] } : Seeing) }, ({ (SeeingTally.begin 0 false false) with ring := BitVec.ofNat 64 (2 ^ 51), entries := 4, period := 8, recordNo := 0, due := [SeeingTally.begin 0 false false] } : Seeing), SeeingTally.begin 0 false false, [], (by decide +kernel), (by decide +kernel), (by decide +kernel)⟩⟩

/-- What the clauses of SingleFaultsAreRepaired ask can be met. -/
theorem met_SingleFaultsAreRepaired :
    (∃ s : State, s.dev.mode.code < 3) ∧
    (∃ s : State, ∃ f : FaultReport, ∃ a : Nat, ∃ b : Nat, 3 ≤ s.dev.mode.code ∧ a = bits f.unit.toNat 32 16 ∧ b = bits
      f.unit.toNat 16 16 ∧ f.cls.val ≤ 2 ∧ 1536 ≤ a) ∧
    (∃ s : State, ∃ f : FaultReport, ∃ a : Nat, ∃ b : Nat, 3 ≤ s.dev.mode.code ∧ a = bits f.unit.toNat 32 16 ∧ b = bits
      f.unit.toNat 16 16 ∧ f.cls = 3 ∧ 48 ≤ a) ∧
    (∃ s : State, ∃ f : FaultReport, ∃ a : Nat, ∃ b : Nat, 3 ≤ s.dev.mode.code ∧ a = bits f.unit.toNat 32 16 ∧ b = bits
      f.unit.toNat 16 16 ∧ f.cls = 5 ∧ f.repairable = true ∧ f.lost = .nothing ∧ s.partOfAddr f.addr.toNat = none) ∧
    (∃ s : State, ∃ f : FaultReport, ∃ a : Nat, ∃ b : Nat, 3 ≤ s.dev.mode.code ∧ a = bits f.unit.toNat 32 16 ∧ b = bits
      f.unit.toNat 16 16 ∧ f.cls = 7 ∧ s.partOfAddr f.addr.toNat = none) ∧
    (∃ s : State, ∃ f : FaultReport, ∃ a : Nat, ∃ b : Nat, 3 ≤ s.dev.mode.code ∧ a = bits f.unit.toNat 32 16 ∧ b = bits
      f.unit.toNat 16 16 ∧ f.cls = 8 ∧ s.ctxs = []) ∧
    (∃ s : State, ∃ f : FaultReport, ∃ a : Nat, ∃ b : Nat, 3 ≤ s.dev.mode.code ∧ a = bits f.unit.toNat 32 16 ∧ b = bits
      f.unit.toNat 16 16 ∧ f.cls = 9) ∧
    (∃ s : State, ∃ f : FaultReport, ∃ a : Nat, ∃ b : Nat, 3 ≤ s.dev.mode.code ∧ a = bits f.unit.toNat 32 16 ∧ b = bits
      f.unit.toNat 16 16 ∧ f.cls = 10 ∧ (4 ≤ a ∨ s.sup.working.getLsbD a = false)) ∧
    (∃ s : State, ∃ f : FaultReport, ∃ a : Nat, ∃ b : Nat, 3 ≤ s.dev.mode.code ∧ a = bits f.unit.toNat 32 16 ∧ b = bits
      f.unit.toNat 16 16 ∧ f.cls = 10 ∧ a < 4 ∧ s.sup.working.getLsbD a = true ∧ a = s.sup.primary.val ∧ s.dev.mode.code
      ≤ 6) ∧
    (∃ s : State, ∃ f : FaultReport, ∃ a : Nat, ∃ b : Nat, 3 ≤ s.dev.mode.code ∧ a = bits f.unit.toNat 32 16 ∧ b = bits
      f.unit.toNat 16 16 ∧ f.cls = 10 ∧ a < 4 ∧ s.sup.working.getLsbD a = true ∧ a ≠ s.sup.primary.val ∧ a ≠
      s.sup.standby.val ∧ s.sup.loading = none) ∧
    (∃ s : State, ∃ f : FaultReport, ∃ a : Nat, ∃ b : Nat, 3 ≤ s.dev.mode.code ∧ a = bits f.unit.toNat 32 16 ∧ b = bits
      f.unit.toNat 16 16 ∧ f.cls = 11 ∧ (1536 ≤ a ∨ (s.core a).retirePending = true)) ∧
    (∃ s : State, ∃ f : FaultReport, ∃ a : Nat, ∃ b : Nat, ∃ p : Nat, ∃ q : Partition, 3 ≤ s.dev.mode.code ∧ a = bits
      f.unit.toNat 32 16 ∧ b = bits f.unit.toNat 16 16 ∧ f.cls = 11 ∧ a < 1536 ∧ (s.core a).retirePending = false ∧
      s.coreOwner a = some p ∧ s.part? p = some q ∧ q.step.isSome = true ∧ s.freePositions (a / 32) ≠ []) ∧
    (∃ s : State, ∃ f : FaultReport, ∃ c : Nat, ∃ sp : SpareMap, c = bits f.unit.toNat 32 16 ∧ f.cls = 0 ∧ c < 1536 ∧
      s.spareTileFree (s.physCore c) = true ∧ 3 ≤ s.dev.mode.code ∧ sp =
      { s.spares with spareTile := tabPut s.spares.spareTile (s.physCore c) (some (Fin.ofNat 16 (bits f.unit.toNat 16 16))) }
      ∧ s.coreOwner c = none) ∧
    (∃ s : State, ∃ f : FaultReport, ∃ c : Nat, ∃ sp : SpareMap, ∃ p : Nat, ∃ q : Partition, ∃ r : StepRun, c = bits
      f.unit.toNat 32 16 ∧ f.cls = 0 ∧ c < 1536 ∧ s.spareTileFree (s.physCore c) = true ∧ 3 ≤ s.dev.mode.code ∧ sp =
      { s.spares with spareTile := tabPut s.spares.spareTile (s.physCore c) (some (Fin.ofNat 16 (bits f.unit.toNat 16 16))) }
      ∧ s.coreOwner c = some p ∧ s.part? p = some q ∧ q.step = some r ∧ r.passOn = true ∧ r.again = false ∧ r.replay =
      none ∧ s.runsOn p (· == c) = true) ∧
    (∃ s : State, ∃ a : DevAddr, (s.dev.mode.code < 3 ∨ s.health.scrubCtl.getLsbD 63 = false ∨ s.sramUnit a.toNat =
      none)) ∧
    (∃ s : State, (s.dev.mode.code < 3 ∨ s.health.scrubCtl.getLsbD 62 = false)) ∧
    (∃ s : State, ∃ a : DevAddr, ∃ k : Nat, ∃ n : Nat, ∃ b : Nat, 3 ≤ s.dev.mode.code ∧ s.health.scrubCtl.getLsbD 63 =
      true ∧ s.sramUnit a.toNat = some (k, n, b) ∧ (k = 3 ∨ k = 4) ∧ s.partOfAddr a.toNat = none ∧ (if k = 4 then
      (s.clusterOwner n).isNone else (s.coreOwner n).isNone) = true) ∧
    (∃ s : State, ∃ a : DevAddr, ∃ k : Nat, ∃ n : Nat, ∃ b : Nat, ∃ col : Nat, 3 ≤ s.dev.mode.code ∧
      s.health.scrubCtl.getLsbD 63 = true ∧ s.sramUnit a.toNat = some (k, n, b) ∧ (k ≠ 2 → tabGet s.health.rowErrs []
      (rowOf k (backing a.toNat)) = [] ∧ tabGet s.health.rowErrs [] (columnKey k n b col) = [])) ∧
    (∃ s : State, ∃ k : Fin 12, ∃ c : Fin 32, ∃ r : PatrolResult, ∃ x : QuadHealth, 3 ≤ s.dev.mode.code ∧
      s.health.scrubCtl.getLsbD 62 = true ∧ s.dev.mode ≠ .maintenance ∧ r.uncorrectable = [] ∧ r.byRead = [] ∧ x = s.quad
      (k.val / 3) ∧ (tabGet s.health.pcErrs [] (32 * k.val + c.val)).length < 1000 ∧ r.failed = false ∧ r.exhausted =
      false ∧ r.corrected = []) ∧
    (∃ s : State, ∃ k : Fin 12, ∃ c : Fin 32, ∃ r : PatrolResult, ∃ x : QuadHealth, ∃ a : DevAddr, 3 ≤ s.dev.mode.code ∧
      s.health.scrubCtl.getLsbD 62 = true ∧ s.dev.mode ≠ .maintenance ∧ r.uncorrectable = [] ∧ r.byRead = [] ∧ x = s.quad
      (k.val / 3) ∧ (tabGet s.health.pcErrs [] (32 * k.val + c.val)).length < 1000 ∧ r.failed = false ∧ r.exhausted =
      false ∧ r.corrected = [a] ∧ tabGet s.health.rowErrs [] (hbmRowKey (s.hbmNow a.toNat)) = []) ∧
    (∃ s : State, ∃ k : Fin 12, ∃ c : Fin 32, ∃ r : PatrolResult, ∃ x : QuadHealth, 3 ≤ s.dev.mode.code ∧
      s.health.scrubCtl.getLsbD 62 = true ∧ s.dev.mode ≠ .maintenance ∧ r.uncorrectable = [] ∧ r.byRead = [] ∧ x = s.quad
      (k.val / 3) ∧ (tabGet s.health.pcErrs [] (32 * k.val + c.val)).length < 1000 ∧ r.corrected = [] ∧ r.failed = false
      ∧ r.exhausted = true ∧ x.remapState = 0) ∧
    (∃ s : State, ∃ k : Fin 12, ∃ c : Fin 32, ∃ r : PatrolResult, ∃ x : QuadHealth, 3 ≤ s.dev.mode.code ∧
      s.health.scrubCtl.getLsbD 62 = true ∧ s.dev.mode ≠ .maintenance ∧ r.uncorrectable = [] ∧ r.byRead = [] ∧ x = s.quad
      (k.val / 3) ∧ (tabGet s.health.pcErrs [] (32 * k.val + c.val)).length < 1000 ∧ r.corrected = [] ∧ r.failed = true ∧
      x.remapState = 0) ∧
    (∃ s : State, s.dev.mode.code < 3) ∧
    (∃ s : State, ∃ c : Fin 1536, ∃ v : Nat, ∃ f : FaultReport, 3 ≤ s.dev.mode.code ∧ 5000 ≤ v ∧ (s.core c.val).slowdown
      < v + 100 ∧ v < (s.core c.val).slowdown + 100 ∧ f.cls = 11 ∧ f.unit.toNat = unitId 0xB c.val 0) ∧
    (∃ s : State, ∃ c : Fin 1536, ∃ v : Nat, 3 ≤ s.dev.mode.code ∧ v < 5000 ∧ (s.core c.val).slowdown < v + 100 ∧ v <
      (s.core c.val).slowdown + 100) ∧
    (∃ s : State, ∃ c : Fin 1536, ∃ v : Nat, 3 ≤ s.dev.mode.code ∧ v < 5000 ∧ ((s.core c.val).slowdown + 100 ≤ v ∨ v +
      100 ≤ (s.core c.val).slowdown)) ∧
    (∃ s : State, ∃ c : Fin 1536, ∃ k : Core, k = { s.core c.val with settling := none } ∧ (s.core c.val).settling.isSome
      = true) ∧
    (∃ s : State, ∃ c : Fin 1536, ∃ k : Core, k = { s.core c.val with settling := none } ∧ (s.core c.val).settling =
      none) :=
  ⟨⟨State.reset, (by decide +kernel)⟩,
   ⟨device, (⟨0, BitVec.ofNat 64 (1536 * 2 ^ 32), 0, .nothing, true⟩ : FaultReport), _, _, (by decide +kernel), rfl, rfl, (by decide +kernel), (by decide +kernel)⟩,
   ⟨device, (⟨3, BitVec.ofNat 64 (48 * 2 ^ 32), 0, .nothing, true⟩ : FaultReport), _, _, (by decide +kernel), rfl, rfl, (by decide +kernel), (by decide +kernel)⟩,
   ⟨device, (⟨5, BitVec.ofNat 64 (3 * 2 ^ 32), 0x5A00000000, .nothing, true⟩ : FaultReport), _, _, (by decide +kernel), rfl, rfl, (by decide +kernel), (by decide +kernel), (by decide +kernel), (by decide +kernel)⟩,
   ⟨device, (⟨7, BitVec.ofNat 64 (2 ^ 32), 0x5A00000000, .nothing, true⟩ : FaultReport), _, _, (by decide +kernel), rfl, rfl, (by decide +kernel), (by decide +kernel)⟩,
   ⟨device, (⟨8, BitVec.ofNat 64 (2 ^ 32), 0, .nothing, true⟩ : FaultReport), _, _, (by decide +kernel), rfl, rfl, (by decide +kernel), (by decide +kernel)⟩,
   ⟨device, (⟨9, BitVec.ofNat 64 (2 ^ 32 + 3 * 2 ^ 16), 0, .nothing, true⟩ : FaultReport), _, _, (by decide +kernel), rfl, rfl, (by decide +kernel)⟩,
   ⟨device, (⟨10, BitVec.ofNat 64 (4 * 2 ^ 32), 0, .nothing, true⟩ : FaultReport), _, _, (by decide +kernel), rfl, rfl, (by decide +kernel), (by decide +kernel)⟩,
   ⟨device, (⟨10, BitVec.ofNat 64 (0), 0, .nothing, true⟩ : FaultReport), _, _, (by decide +kernel), rfl, rfl, (by decide +kernel), (by decide +kernel), (by decide +kernel), (by decide +kernel), (by decide +kernel)⟩,
   ⟨device, (⟨10, BitVec.ofNat 64 (2 * 2 ^ 32), 0, .nothing, true⟩ : FaultReport), _, _, (by decide +kernel), rfl, rfl, (by decide +kernel), (by decide +kernel), (by decide +kernel), (by decide +kernel), (by decide +kernel), (by decide +kernel)⟩,
   ⟨device, (⟨11, BitVec.ofNat 64 (1536 * 2 ^ 32), 0, .nothing, true⟩ : FaultReport), _, _, (by decide +kernel), rfl, rfl, (by decide +kernel), (by decide +kernel)⟩,
   ⟨stepping stream stepRun, (⟨11, BitVec.ofNat 64 (2 ^ 32), 0, .nothing, true⟩ : FaultReport), _, _, 0, { part with step := some stepRun }, (by decide +kernel), rfl, rfl, (by decide +kernel), (by decide +kernel), (by decide +kernel), (by decide +kernel), (by decide +kernel), (by decide +kernel), (by decide +kernel)⟩,
   ⟨{ device with clusters := [] }, (⟨0, BitVec.ofNat 64 (2 ^ 32), 0, .nothing, true⟩ : FaultReport), _, _, rfl, (by decide +kernel), (by decide +kernel), (by decide +kernel), (by decide +kernel), rfl, (by decide +kernel)⟩,
   ⟨{ stepping stream { stepRun with passOn := true } with ctxs := [(7, { ctx with cores := [1] })] }, (⟨0, BitVec.ofNat 64 (2 ^ 32), 0, .nothing, true⟩ : FaultReport), _, _, 0, { part with step := some { stepRun with passOn := true } }, { stepRun with passOn := true }, rfl, (by decide +kernel), (by decide +kernel), (by decide +kernel), (by decide +kernel), rfl, (by decide +kernel), (by decide +kernel), (by decide +kernel), (by decide +kernel), (by decide +kernel), (by decide +kernel), (by decide +kernel)⟩,
   ⟨State.reset, 0, (by decide +kernel)⟩,
   ⟨State.reset, (by decide +kernel)⟩,
   ⟨{ bare with cores := [(1, { Core.cold with segOn := 255 })] }, BitVec.ofNat 48 (coreWin 1), 3, 1, 0, (by decide +kernel), (by decide +kernel), (by decide +kernel), (by decide +kernel), (by decide +kernel), (by decide +kernel)⟩,
   ⟨device, BitVec.ofNat 48 hubBase, 6, 0, 0, 5, (by decide +kernel), (by decide +kernel), (by decide +kernel), (by decide +kernel)⟩,
   ⟨device, 3, 0, (⟨[], [], [], false, false⟩ : PatrolResult), _, (by decide +kernel), (by decide +kernel), (by decide +kernel), (by decide +kernel), (by decide +kernel), rfl, (by decide +kernel), (by decide +kernel), (by decide +kernel), (by decide +kernel)⟩,
   ⟨device, 3, 0, (⟨[0x5A00000000], [], [], false, false⟩ : PatrolResult), _, 0x5A00000000, (by decide +kernel), (by decide +kernel), (by decide +kernel), (by decide +kernel), (by decide +kernel), rfl, (by decide +kernel), (by decide +kernel), (by decide +kernel), (by decide +kernel), (by decide +kernel)⟩,
   ⟨device, 3, 0, (⟨[], [], [], true, false⟩ : PatrolResult), _, (by decide +kernel), (by decide +kernel), (by decide +kernel), (by decide +kernel), (by decide +kernel), rfl, (by decide +kernel), (by decide +kernel), (by decide +kernel), (by decide +kernel), (by decide +kernel)⟩,
   ⟨device, 3, 0, (⟨[], [], [], false, true⟩ : PatrolResult), _, (by decide +kernel), (by decide +kernel), (by decide +kernel), (by decide +kernel), (by decide +kernel), rfl, (by decide +kernel), (by decide +kernel), (by decide +kernel), (by decide +kernel)⟩,
   ⟨State.reset, (by decide +kernel)⟩,
   ⟨{ device with cores := [(1, { Core.cold with slowdown := 4950 })] }, 1, 5000, (⟨11, BitVec.ofNat 64 (0xB * 2 ^ 56 + 2 ^ 32), 0, .nothing, true⟩ : FaultReport), (by decide +kernel), (by decide +kernel), (by decide +kernel), (by decide +kernel), (by decide +kernel), (by decide +kernel)⟩,
   ⟨device, 0, 99, (by decide +kernel), (by decide +kernel), (by decide +kernel), (by decide +kernel)⟩,
   ⟨device, 0, 100, (by decide +kernel), (by decide +kernel), (by decide +kernel)⟩,
   ⟨{ device with cores := [(0, { Core.cold with settling := some 5 })] }, 0, _, rfl, (by decide +kernel)⟩,
   ⟨device, 0, _, rfl, (by decide +kernel)⟩⟩

/-- What the clauses of BackgroundWorkEnds ask can be met. -/
theorem met_BackgroundWorkEnds :
    (∃ s : State, ∃ q : Fin 4, (s.quad q.val).remapState ≠ 1) ∧
    (∃ s : State, ∃ p : Fin 16, s.part? p.val = none) ∧
    (∃ s : State, ∃ i : Fin 16384, ∃ l : Nat, ∃ k : Nat, (s.part? (s.stream i.val).part.val = none ∨ (∃ q : Partition,
      s.part? (s.stream i.val).part.val = some q ∧ q.moves.find? (fun w => w.stream == i && w.layer == l && w.page == k
      && w.phase == 0) = none))) ∧
    (∃ s : State, ∃ n : Nat, ∃ unit : W64, s.tests.find? (fun t => t.id.toNat == n && t.mbx.isSome && t.todo.contains
      unit) = none) ∧
    (∃ s : State, ∃ q : Fin 4, (s.quad q.val).remapState = 1) ∧
    (∃ s : State, ∃ p : Fin 16, ∃ q : Partition, s.part? p.val = some q ∧ q.zeroing = none) ∧
    (∃ s : State, ∃ p : Fin 16, ∃ q : Partition, ∃ m : Fin 64, s.part? p.val = some q ∧ q.zeroing = some (.destroy m) ∧
      (∀ x : Extent, x ∈ q.hbm ++ q.lp → x.addr % gib = 0 ∧ x.addr + x.gib * gib ≤ lpTop)) ∧
    (∃ s : State, ∃ i : Fin 16384, ∃ l : Nat, ∃ k : Nat, ∃ q : Partition, ∃ v : TierMove, s.part? (s.stream
      i.val).part.val = some q ∧ q.moves.find? (fun w => w.stream == i && w.layer == l && w.page == k && w.phase == 0) =
      some v ∧ s.good v.oldSlot q.kvSlotBytes = false) ∧
    (∃ s : State, ∃ i : Fin 16384, ∃ l : Nat, ∃ k : Nat, ∃ q : Partition, ∃ v : TierMove, s.part? (s.stream
      i.val).part.val = some q ∧ q.moves.find? (fun w => w.stream == i && w.layer == l && w.page == k && w.phase == 0) =
      some v ∧ v.mbx = none ∧ q.tierCmds = []) ∧
    (∃ s : State, ∃ i : Fin 16384, ∃ l : Nat, ∃ k : Nat, ∃ q : Partition, ∃ v : TierMove, s.part? (s.stream
      i.val).part.val = some q ∧ q.moves.find? (fun w => w.stream == i && w.layer == l && w.page == k && w.phase == 0) =
      some v ∧ s.good v.oldSlot q.kvSlotBytes = true) ∧
    (∃ s : State, ∃ v : SelfTest, ∃ unit : W64, s.dev.mode = .maintenance ∧ bits unit.toNat 56 8 = 5 ∧ v.rolled = [] ∧
      s.tests.find? (fun t => t.id.toNat == v.id.toNat && t.mbx.isSome && t.todo.contains unit) = some v ∧ s.tests.find?
      (fun t => t.id == v.id) = some v ∧ (∀ (p : Nat) (q : Partition), s.part? p = some q → ∀ w : UnitWait, w ∈
      q.unitWaits → w.test = none) ∧ s.rollWaits unit.toNat = false) :=
  ⟨⟨device, 1, (by decide +kernel)⟩,
   ⟨bare, 0, (by decide +kernel)⟩,
   ⟨bare, 3, 0, 0, (by decide +kernel)⟩,
   ⟨device, 8, 0, (by decide +kernel)⟩,
   ⟨{ device with quads := [(1, { QuadHealth.cold with remapState := 1 })] }, 1, (by decide +kernel)⟩,
   ⟨device, 0, part, (by decide +kernel), (by decide +kernel)⟩,
   ⟨{ device with parts := [(0, { part with zeroing := some (.destroy 4) })] }, 0, { part with zeroing := some (.destroy 4) }, 4, (by decide +kernel), (by decide +kernel), (by decide +kernel)⟩,
   ⟨{ withStream stream with parts := [(0, { part with kvSlotBytes := 4096, moves := [⟨3, 0, 2, true, 0x100000, 0x200000, 0, none⟩] })], badSpans := [0x2000] }, 3, 0, 2, { part with kvSlotBytes := 4096, moves := [⟨3, 0, 2, true, 0x100000, 0x200000, 0, none⟩] }, ⟨3, 0, 2, true, 0x100000, 0x200000, 0, none⟩, (by decide +kernel), (by decide +kernel), (by decide +kernel)⟩,
   ⟨{ withStream stream with parts := [(0, { part with kvSlotBytes := 4096, moves := [⟨3, 0, 2, true, 0x100000, 0x200000, 0, none⟩] })] }, 3, 0, 2, { part with kvSlotBytes := 4096, moves := [⟨3, 0, 2, true, 0x100000, 0x200000, 0, none⟩] }, ⟨3, 0, 2, true, 0x100000, 0x200000, 0, none⟩, (by decide +kernel), (by decide +kernel), (by decide +kernel), (by decide +kernel)⟩,
   ⟨{ withStream stream with parts := [(0, { part with kvSlotBytes := 4096, moves := [⟨3, 0, 2, true, 0x100000, 0x200000, 0, none⟩] })] }, 3, 0, 2, { part with kvSlotBytes := 4096, moves := [⟨3, 0, 2, true, 0x100000, 0x200000, 0, none⟩] }, ⟨3, 0, 2, true, 0x100000, 0x200000, 0, none⟩, (by decide +kernel), (by decide +kernel), (by decide +kernel)⟩,
   ⟨{ device with dev := { device.dev with mode := .maintenance }, parts := [], tests := [(⟨8, some 4, 1, [BitVec.ofNat 64 (5 * 2 ^ 56)], [], []⟩ : SelfTest)] }, (⟨8, some 4, 1, [BitVec.ofNat 64 (5 * 2 ^ 56)], [], []⟩ : SelfTest), BitVec.ofNat 64 (5 * 2 ^ 56), (by decide +kernel), (by decide +kernel), (by decide +kernel), (by decide +kernel), (by decide +kernel), (fun _ _ h => nomatch h), (by decide +kernel)⟩⟩

end Sys2Proof.Tests
end

section
/-! PROOFS. Bit fields of a word after a field is written (R9), and the registers of the core windows and the device
control block under writes (R15 to R18, R301). -/

namespace Sys2Proof.Machine

/-! ### Fields of a word -/

theorem testBit_bits (v lo len i : Nat) : (bits v lo len).testBit i = (decide (i < len) && v.testBit (lo + i)) := by
  rw [bits, Nat.testBit_mod_two_pow, Nat.testBit_div_two_pow, Nat.add_comm]

/-- Numbers that agree on the bits of a field have the same field. -/
theorem bits_congr {v w lo len : Nat} (h : ∀ i < len, v.testBit (lo + i) = w.testBit (lo + i)) :
    bits v lo len = bits w lo len := by
  refine Nat.eq_of_testBit_eq fun i => ?_
  rw [testBit_bits, testBit_bits]
  by_cases hi : i < len
  · rw [h i hi]
  · simp [hi]

/-- A field of two parts. -/
theorem bits_add (v lo m n : Nat) : bits v lo (m + n) = bits v lo m + 2 ^ m * bits v (lo + m) n := by
  simp only [bits, Nat.pow_add, Nat.mod_mul, Nat.div_div_eq_div_mul]

theorem bits_one (v i : Nat) : bits v i 1 = flag (bit v i) := by
  rw [bit, Nat.testBit_eq_decide_div_mod_eq]
  simp only [bits, flag, decide_eq_true_eq]
  split <;> omega

theorem flag_inj {a b : Bool} : flag a = flag b ↔ a = b := by cases a <;> cases b <;> decide

/-- What `setBits` makes of a word: the bits above the field, the field, the bits below it. -/
theorem setBits_eq (w : W64) (lo len v : Nat) : setBits w lo len v =
    BitVec.ofNat 64 (2 ^ lo * (2 ^ len * (w.toNat / 2 ^ lo / 2 ^ len) + v % 2 ^ len) + w.toNat % 2 ^ lo) := by
  have hw : w.toNat = 2 ^ lo * (2 ^ len * (w.toNat / 2 ^ lo / 2 ^ len)) + 2 ^ lo * (w.toNat / 2 ^ lo % 2 ^ len) +
      w.toNat % 2 ^ lo := by
    rw [← Nat.mul_add, Nat.div_add_mod, Nat.div_add_mod]
  rw [setBits, place, place, bits, Nat.mod_mod, Nat.mul_comm (_ % _), Nat.mul_comm (_ % _), Nat.mul_add]
  congr 1
  omega

theorem testBit_setBits (w : W64) {lo len : Nat} (v i : Nat) (h : lo + len ≤ 64) :
    (setBits w lo len v).toNat.testBit i =
      if i < lo then w.toNat.testBit i else if i < lo + len then v.testBit (i - lo) else w.toNat.testBit i := by
  have hhigh : 64 ≤ i → w.toNat.testBit i = false := fun hi =>
    Nat.testBit_lt_two_pow (Nat.lt_of_lt_of_le w.isLt (Nat.pow_le_pow_right (by decide) hi))
  rw [setBits_eq, BitVec.toNat_ofNat, Nat.testBit_mod_two_pow,
    Nat.testBit_two_pow_mul_add _ (Nat.mod_lt _ (Nat.two_pow_pos lo)),
    Nat.testBit_two_pow_mul_add _ (Nat.mod_lt _ (Nat.two_pow_pos len))]
  simp only [Nat.testBit_mod_two_pow, Nat.testBit_div_two_pow]
  split_ifs with hbelow hin hin' hin'
  · simp [hbelow, show i < 64 by omega]
  · simp [hin, show i < 64 by omega]
  · omega
  · omega
  · have hi : i - lo - len + len + lo = i := by omega
    rw [hi]
    by_cases h64 : i < 64
    · simp [h64]
    · simp [h64, hhigh (by omega)]

/-- A field copied from `v` holds what `v` holds there. -/
@[simp] theorem bits_setBits_inside (w : W64) (v : Nat) {lo len a n : Nat} (h : lo + len ≤ 64)
    (hl : lo ≤ a) (hr : a + n ≤ lo + len) :
    bits (setBits w lo len (bits v lo len)).toNat a n = bits v a n := by
  refine bits_congr fun i hi => ?_
  rw [testBit_setBits w _ _ h, if_neg (by omega), if_pos (by omega), testBit_bits, decide_eq_true (by omega), Bool.true_and,
    Nat.add_sub_cancel' (by omega)]

/-- The fields below and above a field that is written stay as they are. -/
@[simp] theorem bits_setBits_outside (w : W64) (v : Nat) {lo len a n : Nat} (h : lo + len ≤ 64)
    (hd : a + n ≤ lo ∨ lo + len ≤ a) :
    bits (setBits w lo len v).toNat a n = bits w.toNat a n := by
  refine bits_congr fun i hi => ?_
  rw [testBit_setBits w _ _ h]
  rcases hd with hd | hd
  · rw [if_pos (by omega)]
  · rw [if_neg (by omega), if_neg (by omega)]

@[simp] theorem bits_ite (p : Prop) [Decidable p] (w u : W64) (lo len : Nat) :
    bits (if p then w else u).toNat lo len = if p then bits w.toNat lo len else bits u.toNat lo len := by
  split <;> rfl

theorem getLsbD_63_of_valid {r : Nat} (h : r < 2 ^ 63) : (BitVec.ofNat 64 (2 ^ 63 + r)).getLsbD 63 = true := by
  rw [BitVec.getLsbD_ofNat, Nat.testBit_two_pow_add_eq, Nat.testBit_lt_two_pow h]; rfl

theorem place_le (lo len v : Nat) : place lo len v + 2 ^ lo ≤ 2 ^ (lo + len) := by
  rw [place, Nat.pow_add, Nat.mul_comm (2 ^ lo), ← Nat.succ_mul]
  exact Nat.mul_le_mul_right _ (Nat.mod_lt _ (Nat.two_pow_pos len))

/-! ### Register writes: the register that an address names -/

theorem exec_registerWrite (a : DevAddr) (v : W64) (s : State) : exec (.registerWrite a v) s = execRegisterWrite a v s := rfl

/-- The bounds of the regions as numbers. -/
theorem region_bounds : hbmTop = 0x016800000000 ∧ hbmResTop = 0x018000000000 ∧ lpBase = 0x020000000000 ∧
    lpTop = 0x030000000000 ∧
    clusterTop = 0x0F0030000000 ∧ coreBase = 0x0F1000000000 ∧ coreTop = 0x0F1060000000 ∧ hubTop = 0x0F8004000000 ∧
    mbxTop = 0x0FF000080000 ∧ ctlBase = 0x0FFF00000000 ∧ ctlTop = 0x0FFF00100000 := by
  exact ⟨rfl, rfl, rfl, rfl, rfl, rfl, rfl, rfl, rfl, rfl, rfl⟩

theorem regionOf_coreWin {n off : Nat} (hn : n < 1536) (ho : off < 2 ^ 20) : regionOf (coreWin n + off) = .core n off := by
  obtain ⟨_, _, _, _, _, _, _, _, _, _, _⟩ := region_bounds
  have hwin : (coreWin n + off - coreBase) / 2 ^ 20 = n := by unfold coreWin; omega
  have hoff : (coreWin n + off - coreBase) % 2 ^ 20 = off := by unfold coreWin; omega
  simp only [regionOf, hwin, hoff, Bool.and_eq_true, decide_eq_true_eq]
  unfold coreWin
  rw [if_neg (by omega), if_neg (by omega), if_neg (by omega), if_neg (by omega), if_pos (by omega)]

theorem regionOf_ctlBase {off : Nat} (ho : off < 2 ^ 20) : regionOf (ctlBase + off) = .control off := by
  obtain ⟨_, _, _, _, _, _, _, _, _, _, _⟩ := region_bounds
  simp only [regionOf, Nat.add_sub_cancel_left, Bool.and_eq_true, decide_eq_true_eq]
  rw [if_neg (by omega), if_neg (by omega), if_neg (by omega), if_neg (by omega), if_neg (by omega), if_neg (by omega),
    if_neg (by omega), if_pos (by omega)]

theorem exec_registerWrite_core {s : State} {a : DevAddr} (v : W64) {n off : Nat} (ha : a.toNat = coreWin n + off) (hn : n < 1536)
    (ho : off < 2 ^ 20) (h8 : off % 8 = 0) :
    exec (.registerWrite a v) s = .next (s.setCore n ((s.core n).regWrite off v)) := by
  have hal : ¬ a.toNat % 8 ≠ 0 := by rw [ha]; unfold coreWin coreBase; omega
  rw [exec_registerWrite, execRegisterWrite, if_neg hal, ha, regionOf_coreWin hn ho]
  rfl

theorem exec_registerWrite_control {s : State} {a : DevAddr} (v : W64) {off : Nat} (ha : a.toNat = ctlBase + off)
    (ho : off < 2 ^ 20) (h8 : off % 8 = 0) : exec (.registerWrite a v) s = .next (s.ctlWrite off v true) := by
  have hal : ¬ a.toNat % 8 ≠ 0 := by rw [ha]; unfold ctlBase; omega
  rw [exec_registerWrite, execRegisterWrite, if_neg hal, ha, regionOf_ctlBase ho]

/-- An address that is no multiple of 8, or in no core's window and not in the control block, names no register. -/
theorem exec_registerWrite_none (s : State) (a : DevAddr) (v : W64) (h : a.toNat % 8 ≠ 0 ∨
      ((∀ n off : Nat, regionOf a.toNat ≠ .core n off) ∧ ∀ off : Nat, regionOf a.toNat ≠ .control off)) :
    exec (.registerWrite a v) s = .next s := by
  rw [exec_registerWrite, execRegisterWrite]
  rcases h with h | ⟨hcore, hctl⟩
  · rw [if_pos h]
  · cases hr : regionOf a.toNat with
    | core n off => exact absurd hr (hcore n off)
    | control off => exact absurd hr (hctl off)
    | _ => rw [ite_self]

@[simp] theorem Core.regWrite_tagCtl (c : Core) (v : W64) : c.regWrite 0xF0200 v = { c with tagCtl := v } := rfl

/-! ### The registers of the device control block -/

@[simp] theorem State.ctlWrite_doorbell (s : State) (v : W64) :
    s.ctlWrite 0x1000 v true = s.ringDoorbell (Fin.ofNat 64 (v.toNat % 64)) := by
  simp [State.ctlWrite, bits]

@[simp] theorem State.ctlWrite_scrub (s : State) (v : W64) (all : Bool) : s.ctlWrite 0x10018 v all =
    { s with health := { s.health with scrubCtl := scrubWrite s.health.scrubCtl v.toNat } } := rfl

/-- Offsets of AUD.PORT[n].CTL. -/
@[simp] theorem State.ctlWrite_audPort (s : State) (v : W64) (all : Bool) {n : Nat} (hn : n < 16) :
    s.ctlWrite (0x20000 + 16 * n) v all = s.writePortCtl n v.toNat := by
  have hrange : (decide (0x20000 ≤ 0x20000 + 16 * n) && decide (0x20000 + 16 * n < 0x20100)) = true := by
    simp only [Bool.and_eq_true, decide_eq_true_eq]; omega
  have hidx : (0x20000 + 16 * n - 0x20000) / 16 = n := by omega
  unfold State.ctlWrite
  rw [if_neg (by omega), if_neg (by omega), if_neg (by omega), if_neg (by omega), if_pos hrange, if_pos (by omega), hidx]

/-- Offsets of AUD.GROUP[g].CTL. -/
@[simp] theorem State.ctlWrite_audGroup (s : State) (v : W64) (all : Bool) {g : Nat} (hg : g < 16) :
    s.ctlWrite (0x20100 + 32 * g) v all =
      if s.groupRuns g then s else s.setGroup g { s.group g with ctl := (s.group g).writeCtl v.toNat } := by
  have hbelow : ¬ (decide (0x20000 ≤ 0x20100 + 32 * g) && decide (0x20100 + 32 * g < 0x20100)) = true := by
    simp only [Bool.and_eq_true, decide_eq_true_eq]; omega
  have hrange : (decide (0x20100 ≤ 0x20100 + 32 * g) && decide (0x20100 + 32 * g < 0x20300)) = true := by
    simp only [Bool.and_eq_true, decide_eq_true_eq]; omega
  have hidx : (0x20100 + 32 * g - 0x20100) / 32 = g := by omega
  unfold State.ctlWrite
  rw [if_neg (by omega), if_neg (by omega), if_neg (by omega), if_neg (by omega), if_neg hbelow, if_pos hrange]
  dsimp only
  rw [if_pos (by omega), hidx]

/-- Offsets of NET.PORT[p].CTL. -/
@[simp] theorem State.ctlWrite_netPort (s : State) (v : W64) (all : Bool) {p : Nat} (hp : p < 4) :
    s.ctlWrite (0x30000 + 16 * p) v all = s.setPort p { s.port p with ctl := portWrite (s.port p).ctl v.toNat } := by
  have haud : ¬ (decide (0x20000 ≤ 0x30000 + 16 * p) && decide (0x30000 + 16 * p < 0x20100)) = true := by
    simp only [Bool.and_eq_true, decide_eq_true_eq]; omega
  have hgroup : ¬ (decide (0x20100 ≤ 0x30000 + 16 * p) && decide (0x30000 + 16 * p < 0x20300)) = true := by
    simp only [Bool.and_eq_true, decide_eq_true_eq]; omega
  have hrange : (decide (0x30000 ≤ 0x30000 + 16 * p) && decide (0x30000 + 16 * p < 0x30040)) = true := by
    simp only [Bool.and_eq_true, decide_eq_true_eq]; omega
  have hidx : (0x30000 + 16 * p - 0x30000) / 16 = p := by omega
  unfold State.ctlWrite
  rw [if_neg (by omega), if_neg (by omega), if_neg (by omega), if_neg (by omega), if_neg haud, if_neg hgroup, if_pos hrange,
    if_pos (by omega), hidx]
  rfl

/-! ### The fields of control registers after a write -/

theorem bits_scrubWrite (c : W64) (v : Nat) : bits (scrubWrite c v).toNat 62 2 = bits v 62 2 ∧
    bits (scrubWrite c v).toNat 4 58 = bits c.toNat 4 58 ∧
    bits (scrubWrite c v).toNat 0 4 = if 8 ≤ bits v 0 4 ∧ bits v 0 4 ≤ 14 then bits v 0 4 else bits c.toNat 0 4 := by
  simp [scrubWrite]

theorem bits_portWrite (c : W64) (v : Nat) :
    bits (portWrite c v).toNat 62 2 = (if bits v 62 2 = 3 then bits c.toNat 62 2 else bits v 62 2) ∧
    bits (portWrite c v).toNat 53 9 = bits v 53 9 ∧ bits (portWrite c v).toNat 48 5 = bits c.toNat 48 5 ∧
    bits (portWrite c v).toNat 0 32 = bits c.toNat 0 32 ∧
    bits (portWrite c v).toNat 32 16 = if bits v 32 16 = 0 then bits c.toNat 32 16 else bits v 32 16 := by
  simp [portWrite]

/-- Another port holds the group and position that a write to AUD.PORT[n].CTL asks for (R371). -/
def State.placeTaken (s : State) (n v : Nat) : Bool :=
  (List.range 16).any (fun j => j != n && (s.aport j).groupNo == bits v 60 4 && (s.aport j).member == bits v 57 3)

/-- What a write to AUD.PORT[n].CTL makes of the register while no member runs (R371, R372). -/
def audPortCtl (c : W64) (taken : Bool) (v : Nat) : W64 :=
  let c := if bits v 48 8 = 0 then c else setBits c 48 8 (bits v 48 8)
  let c := setBits c 56 1 (bits v 56 1)
  if taken then c else setBits (setBits c 60 4 (bits v 60 4)) 57 3 (bits v 57 3)

theorem State.writePortCtl_eq (s : State) (n v : Nat) : s.writePortCtl n v =
    if s.groupRuns (s.aport n).groupNo || s.groupRuns (bits v 60 4) then s
    else s.setAport n { s.aport n with ctl := audPortCtl (s.aport n).ctl (s.placeTaken n v) v } := rfl

theorem bits_audPortCtl (c : W64) (taken : Bool) (v : Nat) :
    bits (audPortCtl c taken v).toNat 57 7 = (if taken then bits c.toNat 57 7 else bits v 57 7) ∧
    bits (audPortCtl c taken v).toNat 56 1 = bits v 56 1 ∧
    bits (audPortCtl c taken v).toNat 48 8 = (if bits v 48 8 = 0 then bits c.toNat 48 8 else bits v 48 8) ∧
    bits (audPortCtl c taken v).toNat 0 48 = bits c.toNat 0 48 := by
  have hplace := fun u => bits_add u 57 3 4
  simp only [Nat.reduceAdd] at hplace
  cases taken <;> simp [audPortCtl, hplace]

/-- The fields of AUD.GROUP[g].CTL that are taken or kept by themselves, all but WORD and SLOT16 (R371, R374). -/
theorem AGroup.bits_writeCtl (x : AGroup) (v : Nat) :
    bits (x.writeCtl v).toNat 46 18 =
      (if 8000 ≤ bits v 46 18 ∧ bits v 46 18 ≤ 192000 then bits v 46 18 else bits x.ctl.toNat 46 18) ∧
    bits (x.writeCtl v).toNat 45 1 = bits v 45 1 ∧ bits (x.writeCtl v).toNat 38 4 = bits v 38 4 ∧
    bits (x.writeCtl v).toNat 24 8 = bits v 24 8 ∧ bits (x.writeCtl v).toNat 32 6 = bits x.ctl.toNat 32 6 ∧
    bits (x.writeCtl v).toNat 0 14 = bits x.ctl.toNat 0 14 ∧
    bits (x.writeCtl v).toNat 14 10 =
      if 5 ≤ bits v 14 10 ∧ bits v 14 10 ≤ 500 then bits v 14 10 else bits x.ctl.toNat 14 10 := by
  simp [AGroup.writeCtl]

/-- SLOT16 with a WORD that it does not serve: both keep their values (R374). -/
theorem AGroup.bits_writeCtl_pair_refused (x : AGroup) (v : Nat) (hslot : bits v 42 1 = 1) (hword : bits v 43 2 ≠ 0) :
    bits (x.writeCtl v).toNat 42 3 = bits x.ctl.toNat 42 3 := by
  have hbit : bit v 42 = true := by simpa [bits_one, flag] using hslot
  simp [AGroup.writeCtl, hbit, hword]

theorem AGroup.bits_writeCtl_pair_taken (x : AGroup) (v : Nat) (h : bits v 42 1 = 0 ∨ bits v 43 2 = 0) :
    bits (x.writeCtl v).toNat 42 1 = bits v 42 1 ∧
    bits (x.writeCtl v).toNat 43 2 = if bits v 43 2 = 3 then bits x.ctl.toNat 43 2 else bits v 43 2 := by
  have hpair : bit v 42 = false ∨ bits v 43 2 = 0 := h.imp_left fun h0 => by simpa [bits_one, flag] using h0
  have hok : (!(bit v 42 && bits v 43 2 != 0)) = true := by rcases hpair with h | h <;> simp [h]
  simp [AGroup.writeCtl, hok]

/-! ### Bits that a one clears (R16) -/

/-- The mailboxes of a list that are picked, each changed by `f`. -/
def State.modMails (s : State) (l : List Nat) (p : Nat → Bool) (f : Mailbox → Mailbox) : State :=
  l.foldl (fun t m => if p m then t.modMail m f else t) s

theorem State.modMails_eq (s : State) (l : List Nat) (p : Nat → Bool) (f : Mailbox → Mailbox) :
    s.modMails l p f = { s with mbx := (s.modMails l p f).mbx } := by
  unfold State.modMails
  induction l generalizing s with
  | nil => rfl
  | cons m l ih =>
    rw [List.foldl_cons, ih]
    split <;> rfl

/-- Every picked mailbox of the list is changed, once or more often alike. -/
theorem State.modMails_mail (s : State) (l : List Nat) (p : Nat → Bool) {f : Mailbox → Mailbox}
    (hf : ∀ x, f (f x) = f x) (k : Nat) :
    (s.modMails l p f).mail k = if k ∈ l ∧ p k = true then f (s.mail k) else s.mail k := by
  unfold State.modMails
  induction l generalizing s with
  | nil => simp
  | cons m l ih =>
    rw [List.foldl_cons, ih]
    by_cases hk : k = m
    · subst hk
      by_cases hp : p k = true <;> simp [hp, State.modMail, hf]
    · have hmail : (if p m = true then s.modMail m f else s).mail k = s.mail k := by
        split
        · exact State.setMail_mail_ne s _ hk
        · rfl
      simp only [hmail, List.mem_cons, hk, false_or]

theorem State.clearLost_eq (s : State) (v : W64) :
    s.clearLost v = s.modMails (List.range 64) v.getLsbD (fun x => { x with lost := false }) := rfl

theorem State.clearLost_mail (s : State) (v : W64) (m : Fin 64) :
    (s.clearLost v).mail m.val = { s.mail m.val with lost := (s.mail m.val).lost && !v.getLsbD m.val } := by
  rw [State.clearLost_eq, State.modMails_mail]
  · cases v.getLsbD m.val <;> simp
  · exact fun _ => rfl

theorem exec_mbxLostClear (v raced : W64) (s : State) : exec (.mbxLostClear v raced) s =
    .next ((s.clearLost v).modMails (List.range 64) raced.getLsbD (fun x => { x with lost := true })) := by
  have hset : ∀ (t : State), ∀ m ∈ List.range 64, (if raced.getLsbD m then t.setLost (Fin.ofNat 64 m) else t) =
      if raced.getLsbD m then t.modMail m (fun x => { x with lost := true }) else t := fun t m hm => by
    have hmod : (Fin.ofNat 64 m).val = m := Nat.mod_eq_of_lt (List.mem_range.mp hm)
    rw [State.setLost, hmod]
  exact congrArg Host.Outcome.next (List.foldl_ext _ _ _ hset)

/-! ### A race of a clearing write with what it clears (R16, R119, R336) -/

theorem State.memError_last (s : State) (e : MemError) : (s.memError e).health.last = latchError s.health.last e := by
  unfold State.memError
  dsimp only
  split <;> rfl

theorem latchError_valid (last : W64) (e : MemError) : (latchError last e).getLsbD 63 = true := by
  unfold latchError
  split
  · rename_i h
    simp [h]
  · have hkind := place_le 59 3 e.kind.toNat
    have hscrub := place_le 58 1 (flag e.scrub)
    have haddr := place_le 0 48 e.addr.toNat
    rw [Nat.add_assoc, Nat.add_assoc]
    exact getLsbD_63_of_valid (by omega)

/-- What the fields of a word add up to. -/
def fieldSum (fields : List (Nat × Nat × Nat)) : Nat := (fields.map (fun f => place f.1 f.2.1 f.2.2)).sum

theorem fieldSum_cons (f : Nat × Nat × Nat) (fields : List (Nat × Nat × Nat)) :
    fieldSum (f :: fields) = place f.1 f.2.1 f.2.2 + fieldSum fields := rfl

theorem foldl_place (fields : List (Nat × Nat × Nat)) (a : Nat) :
    fields.foldl (fun a f => a + place f.1 f.2.1 f.2.2) a = a + fieldSum fields := by
  induction fields generalizing a with
  | nil => rfl
  | cons f fields ih => rw [List.foldl_cons, ih, fieldSum_cons, Nat.add_assoc]

/-- Fields in falling order, each below the one before it, stay below the top of the first. -/
theorem fieldSum_cons_lt {lo len v top : Nat} {fields : List (Nat × Nat × Nat)} (hrest : fieldSum fields < 2 ^ lo)
    (htop : lo + len ≤ top) : fieldSum ((lo, len, v) :: fields) < 2 ^ top := by
  have hfirst := place_le lo len v
  have hpow : 2 ^ (lo + len) ≤ 2 ^ top := Nat.pow_le_pow_right (by decide) htop
  rw [fieldSum_cons]
  dsimp only
  omega

/-- A word whose first field is VALID, in bit 63, and whose other fields lie below. -/
theorem word_valid {fields : List (Nat × Nat × Nat)} (h : fieldSum fields < 2 ^ 63) :
    (word ((63, 1, 1) :: fields)).getLsbD 63 = true := by
  have h63 : 0 + place 63 1 1 = 2 ^ 63 := by simp [place]
  rw [word, List.foldl_cons, foldl_place, h63]
  exact getLsbD_63_of_valid h

theorem nanRecord_valid (tq trapped : Bool) (core ctx : Nat) (opTag pc : BitVec 16) :
    (nanRecord tq trapped core ctx opTag pc).getLsbD 63 = true :=
  word_valid (fieldSum_cons_lt (fieldSum_cons_lt (fieldSum_cons_lt (fieldSum_cons_lt (fieldSum_cons_lt (fieldSum_cons_lt
    (Nat.two_pow_pos 0) (by decide)) (by decide)) (by decide)) (by decide)) (by decide)) (by decide))

theorem State.setCore_raisePart_core (s : State) (n : Nat) (k : Core) (code part : Nat) (data : Bytes) :
    ((s.setCore n k).raisePart code part data).core n = k := by
  rw [State.core, State.raisePart_onlySent (s.setCore n k) code part data]
  exact State.setCore_core_same s n k

/-- A NaN leaves a valid identity at its core, and the core's context; no trap that the context does not ask for falls due. -/
theorem State.latchNan_core (s : State) (n : Nat) (tq : Bool) (opTag pc : BitVec 16) :
    ((s.latchNan n tq opTag pc).2.core n).nanId.getLsbD 63 = true ∧
    ((s.latchNan n tq opTag pc).2.core n).ctx = (s.core n).ctx ∧
    ((s.latchNan n tq opTag pc).2.core n).trapDue = (s.core n).trapDue ∧
    ((s.latchNan n tq opTag pc).1 = true → ∀ k, (s.core n).ctx = some k → ∃ x, s.ctx? k.toNat = some x ∧ x.trap = true) := by
  unfold State.latchNan State.latchNanOf
  dsimp only
  split
  · rename_i h
    simp [h]
  · rw [State.setCore_raisePart_core]
    refine ⟨nanRecord_valid .., rfl, rfl, fun ht k hk => ?_⟩
    cases hx : s.ctx? k.toNat with
    | none => simp [hk, hx] at ht
    | some x => exact ⟨x, rfl, by simpa [hk, hx] using ht⟩

theorem State.sawNan_core (s : State) (n : Nat) (tq : Bool) (no : Nat) (opTag pc : BitVec 16) :
    ((s.sawNan n tq no opTag pc).core n).nanId.getLsbD 63 = true ∧
    ((s.sawNan n tq no opTag pc).core n).ctx = (s.core n).ctx ∧
    ∀ k, (s.core n).ctx = some k → (∀ x, s.ctx? k.toNat = some x → x.trap = false) →
      ((s.sawNan n tq no opTag pc).core n).trapDue = (s.core n).trapDue := by
  obtain ⟨hid, hctx, hdue, htrap⟩ := s.latchNan_core n tq opTag pc
  unfold State.sawNan
  cases hl : (s.latchNan n tq opTag pc).1 with
  | false => simpa [hl] using ⟨hid, hctx, fun _ _ _ => hdue⟩
  | true =>
    simp only [hl, if_true, State.modCore, State.setCore_core_same]
    refine ⟨hid, hctx, fun k hk hno => ?_⟩
    obtain ⟨x, hx, ht⟩ := htrap hl k hk
    exact absurd ht (by rw [hno x hx]; decide)

/-- A core that runs no context has nothing that a trap could halt. -/
theorem State.trapHalt_idle (s : State) (n : Nat) (h : (s.core n).ctx = none) : s.trapHalt n = s := by
  have hfault : ∀ pc tag, s.coreFault n 1 pc tag = s := fun _ _ => by simp [State.coreFault, State.ctxOf, h]
  unfold State.trapHalt
  dsimp only
  split
  · rfl
  · rw [hfault, ite_self]

/-- A NaN of a context without a trap, at a core where no trap waits, halts nothing. -/
theorem State.sawNan_trapHalt (s : State) (n : Nat) (tq : Bool) (no : Nat) (opTag pc : BitVec 16)
    (hno : ∀ k x, (s.core n).ctx = some k → s.ctx? k.toNat = some x → x.trap = false) (hdue : (s.core n).trapDue = none) :
    (s.sawNan n tq no opTag pc).trapHalt n = s.sawNan n tq no opTag pc := by
  obtain ⟨-, hctx, hstill⟩ := s.sawNan_core n tq no opTag pc
  cases hk : (s.core n).ctx with
  | none => exact State.trapHalt_idle _ _ (hctx.trans hk)
  | some k =>
    refine State.trapHalt_none _ _ ?_
    rw [Core.NoTrapEnds, hstill k hk (fun x => hno k x hk), hdue]
    rfl

theorem Core.regWrite_nanId_frame (k : Core) (v : W64) :
    (k.regWrite 0xF0100 v).ctx = k.ctx ∧ (k.regWrite 0xF0100 v).trapDue = k.trapDue := by
  unfold Core.regWrite
  cases v.getLsbD 63 <;> exact ⟨rfl, rfl⟩

/-- A NaN that passes in the cycle of the write that clears its latch stands in it afterwards; nothing halts where nothing traps. -/
theorem exec_nanIdClear_raced (s : State) (c : Fin 1536) (v : W64) (id : NanIdent) :
    ∃ t : State, exec (.nanIdClear c v (some id)) s = .next (t.trapHalt c.val) ∧ (t.core c.val).nanId.getLsbD 63 = true ∧
      ((∀ x : Context, (s.core c.val).ctx.bind (fun k => s.ctx? k.toNat) = some x → x.trap = false) →
        (s.core c.val).trapDue = none → t.trapHalt c.val = t) := by
  obtain ⟨hctx, hdue⟩ := (s.core c.val).regWrite_nanId_frame v
  have hr : (s.modCore c.val (fun k => k.regWrite 0xF0100 v)).core c.val = (s.core c.val).regWrite 0xF0100 v :=
    State.setCore_core_same ..
  refine ⟨_, rfl, (State.sawNan_core ..).1, fun hno hnone => State.sawNan_trapHalt _ _ _ _ _ _ (fun k x hk hx => ?_) ?_⟩
  · rw [hr, hctx] at hk
    exact hno x (by rw [hk]; exact hx)
  · rw [hr, hdue, hnone]

theorem exec_memErrLastClear_raced (s : State) (v : W64) (e : MemError) :
    ∃ t : State, exec (.memErrLastClear v (some e)) s = .next t ∧ t.health.last.getLsbD 63 = true := by
  refine ⟨_, rfl, ?_⟩
  rw [State.memError_last]
  exact latchError_valid ..

/-! ### MASK and HELIO of a group (R371, R375, R377) -/

theorem State.writeMask_legal (s : State) (g v : Nat) (h : s.maskOk g (bits v 48 16) = true) :
    s.writeMask g v true = s.setGroup g { s.group g with
      shadow := BitVec.ofNat 16 (bits v 48 16)
      pending := if bit v 0 then some (BitVec.ofNat 16 (bits v 48 16)) else (s.group g).pending } := by
  simp only [State.writeMask, State.modGroup, h, if_true, Bool.true_and]
  cases bit v 0 <;> rfl

theorem State.writeMask_reserved (s : State) (g v : Nat) (h : s.maskOk g (bits v 48 16) = false) :
    s.writeMask g v true = s.setGroup g { s.group g with
      pending := if bit v 0 then some (s.group g).shadow else (s.group g).pending } := by
  simp only [State.writeMask, State.modGroup, h, Bool.false_eq_true, if_false, Bool.true_and]
  cases bit v 0 <;> rfl

/-- What a write to AUD.GROUP[g].HELIO makes of the register (R371, R377). -/
def helioCtl (h : W64) (runs : Bool) (v : Nat) : W64 :=
  let h := setBits h 63 1 (bits v 63 1)
  let h := setBits h 42 4 (bits v 42 4)
  let h := if 64 ≤ bits v 29 13 && bits v 29 13 ≤ 4000 then setBits h 29 13 (bits v 29 13) else h
  let h := if runs then h else setBits h 5 24 (bits v 5 24)
  if !runs && 8 ≤ bits v 0 5 && bits v 0 5 ≤ 16 then setBits h 0 5 (bits v 0 5) else h

theorem AGroup.helioWrite_eq (x : AGroup) (runs : Bool) (v : Nat) : x.helioWrite runs v = { x with
    helio := helioCtl x.helio runs v, integ := if bits v 42 4 = x.steerSlot then x.integ else 0,
    slotNow := (x.helioWrite runs v).slotNow } := by
  cases runs <;> rfl

theorem bits_helioCtl (h : W64) (runs : Bool) (v : Nat) :
    bits (helioCtl h runs v).toNat 63 1 = bits v 63 1 ∧ bits (helioCtl h runs v).toNat 42 4 = bits v 42 4 ∧
    bits (helioCtl h runs v).toNat 29 13 =
      if 64 ≤ bits v 29 13 ∧ bits v 29 13 ≤ 4000 then bits v 29 13 else bits h.toNat 29 13 := by
  simp [helioCtl]

/-- The gains, SLEW and UPDATE_LOG2 while a member runs. -/
theorem bits_helioCtl_running (h : W64) (v : Nat) :
    bits (helioCtl h true v).toNat 21 8 = bits h.toNat 21 8 ∧ bits (helioCtl h true v).toNat 13 8 = bits h.toNat 13 8 ∧
    bits (helioCtl h true v).toNat 5 8 = bits h.toNat 5 8 ∧ bits (helioCtl h true v).toNat 0 5 = bits h.toNat 0 5 := by
  simp [helioCtl]

theorem bits_helioCtl_stopped (h : W64) (v : Nat) :
    bits (helioCtl h false v).toNat 21 8 = bits v 21 8 ∧ bits (helioCtl h false v).toNat 13 8 = bits v 13 8 ∧
    bits (helioCtl h false v).toNat 5 8 = bits v 5 8 ∧
    bits (helioCtl h false v).toNat 0 5 = if 8 ≤ bits v 0 5 ∧ bits v 0 5 ≤ 16 then bits v 0 5 else bits h.toNat 0 5 := by
  simp [helioCtl]

theorem exec_audHelioWrite (s : State) (g : Fin 16) (v : W64) : exec (.audHelioWrite g v) s =
    .next (s.setGroup g.val ((s.group g.val).helioWrite (s.groupRuns g.val) v.toNat)) := rfl

theorem AGroup.enable_helioWrite (x : AGroup) (runs : Bool) (v : W64) : (x.helioWrite runs v.toNat).enable = v.getLsbD 63 := by
  have h := (bits_helioCtl x.helio runs v.toNat).1
  rw [AGroup.helioWrite_eq]
  show bit (helioCtl x.helio runs v.toNat).toNat 63 = bit v.toNat 63
  simpa [bits_one, flag_inj] using h

/-! ### REGISTER_WRITE by register -/

theorem exec_registerWrite_tagCtl (s : State) (c : Fin 1536) (v : W64) (a : DevAddr) (ha : a.toNat = coreWin c.val + 0xF0200) :
    exec (.registerWrite a v) s = .next (s.setCore c.val { s.core c.val with tagCtl := v }) := by
  rw [exec_registerWrite_core v ha c.isLt (by decide) (by decide), Core.regWrite_tagCtl]

theorem exec_registerWrite_scrub (s : State) (a : DevAddr) (v : W64) (ha : a.toNat = ctlBase + 0x10018) :
    exec (.registerWrite a v) s =
      .next { s with health := { s.health with scrubCtl := scrubWrite s.health.scrubCtl v.toNat } } := by
  rw [exec_registerWrite_control v ha (by decide) (by decide), State.ctlWrite_scrub]

theorem exec_registerWrite_doorbell (s : State) (a : DevAddr) (v : W64) (ha : a.toNat = ctlBase + 0x1000) :
    exec (.registerWrite a v) s = .next (s.ringDoorbell (Fin.ofNat 64 (v.toNat % 64))) := by
  rw [exec_registerWrite_control v ha (by decide) (by decide), State.ctlWrite_doorbell]

theorem exec_registerWrite_netPort (s : State) (p : Fin 4) (a : DevAddr) (v : W64)
    (ha : a.toNat = ctlBase + 0x30000 + 16 * p.val) :
    exec (.registerWrite a v) s =
      .next (s.setPort p.val { s.port p.val with ctl := portWrite (s.port p.val).ctl v.toNat }) := by
  rw [exec_registerWrite_control v (ha.trans (Nat.add_assoc ..)) (by omega) (by omega), State.ctlWrite_netPort s v true p.isLt]

theorem exec_registerWrite_audPort (s : State) (n : Fin 16) (a : DevAddr) (v : W64)
    (ha : a.toNat = ctlBase + 0x20000 + 16 * n.val) :
    exec (.registerWrite a v) s = .next
      (if s.groupRuns (s.aport n.val).groupNo || s.groupRuns (bits v.toNat 60 4) then s
      else s.setAport n.val { s.aport n.val with
        ctl := audPortCtl (s.aport n.val).ctl (s.placeTaken n.val v.toNat) v.toNat }) := by
  rw [exec_registerWrite_control v (ha.trans (Nat.add_assoc ..)) (by omega) (by omega),
    State.ctlWrite_audPort s v true n.isLt, State.writePortCtl_eq]

theorem exec_registerWrite_audGroup (s : State) (g : Fin 16) (a : DevAddr) (v : W64)
    (ha : a.toNat = ctlBase + 0x20100 + 32 * g.val) :
    exec (.registerWrite a v) s = .next
      (if s.groupRuns g.val then s else s.setGroup g.val { s.group g.val with ctl := (s.group g.val).writeCtl v.toNat }) := by
  rw [exec_registerWrite_control v (ha.trans (Nat.add_assoc ..)) (by omega) (by omega), State.ctlWrite_audGroup s v true g.isLt]

/-- The device, supervisor, mailbox, error, integrity, power and reset status registers are read-only (R17). -/
theorem exec_registerWrite_status (s : State) (a : DevAddr) (v : W64) (ha : a.toNat = ctlBase ∨ a.toNat = ctlBase + 8 ∨
      a.toNat = ctlBase + 0x1008 ∨ a.toNat = ctlBase + 0x10000 ∨ a.toNat = ctlBase + 0x40000 ∨ a.toNat = ctlBase + 0x50000 ∨
      a.toNat = ctlBase + 0x50008) :
    exec (.registerWrite a v) s = .next s := by
  have hread : ∀ off, a.toNat = ctlBase + off → off < 2 ^ 20 → off % 8 = 0 → s.ctlWrite off v true = s →
      exec (.registerWrite a v) s = .next s := fun off ha ho h8 hs => by
    rw [exec_registerWrite_control v ha ho h8, hs]
  rcases ha with ha | ha | ha | ha | ha | ha | ha
  · exact hread 0 ha (by decide) rfl rfl
  · exact hread _ ha (by decide) rfl rfl
  · exact hread _ ha (by decide) rfl rfl
  · exact hread _ ha (by decide) rfl rfl
  · exact hread _ ha (by decide) rfl rfl
  · exact hread _ ha (by decide) rfl rfl
  · exact hread _ ha (by decide) rfl rfl

/-! ### What each write does, field by field -/

theorem exec_registerWrite_scrub_fields (s : State) (a : DevAddr) (v : W64) (ha : a.toNat = ctlBase + 0x10018) : ∃ w : W64,
    exec (.registerWrite a v) s = .next { s with health := { s.health with scrubCtl := w } } ∧
    bits w.toNat 62 2 = bits v.toNat 62 2 ∧ bits w.toNat 4 58 = bits s.health.scrubCtl.toNat 4 58 ∧
    bits w.toNat 0 4 = if 8 ≤ bits v.toNat 0 4 ∧ bits v.toNat 0 4 ≤ 14 then bits v.toNat 0 4 else
      bits s.health.scrubCtl.toNat 0 4 :=
  ⟨_, exec_registerWrite_scrub s a v ha, bits_scrubWrite _ _⟩

theorem exec_registerWrite_netPort_fields (s : State) (p : Fin 4) (a : DevAddr) (v : W64) (x : Port) (hx : x = s.port p.val)
    (ha : a.toNat = ctlBase + 0x30000 + 16 * p.val) :
    ∃ w : W64, exec (.registerWrite a v) s = .next (s.setPort p.val { x with ctl := w }) ∧
      bits w.toNat 62 2 = (if bits v.toNat 62 2 = 3 then bits x.ctl.toNat 62 2 else bits v.toNat 62 2) ∧
      bits w.toNat 53 9 = bits v.toNat 53 9 ∧ bits w.toNat 48 5 = bits x.ctl.toNat 48 5 ∧
      bits w.toNat 0 32 = bits x.ctl.toNat 0 32 ∧
      bits w.toNat 32 16 = (if bits v.toNat 32 16 = 0 then bits x.ctl.toNat 32 16 else bits v.toNat 32 16) := by
  subst hx
  exact ⟨_, exec_registerWrite_netPort s p a v ha, bits_portWrite _ _⟩

theorem exec_nanIdClear_none (s : State) (c : Fin 1536) (v : W64) :
    (v.getLsbD 63 = true → exec (.nanIdClear c v none) s =
      .next (s.setCore c.val { s.core c.val with nanId := 0, nanStep := 0 })) ∧
    (v.getLsbD 63 = false → exec (.nanIdClear c v none) s = .next (s.setCore c.val (s.core c.val))) := by
  have hexec : exec (.nanIdClear c v none) s = .next (s.setCore c.val
      (if v.getLsbD 63 then { s.core c.val with nanId := 0, nanStep := 0 } else s.core c.val)) := rfl
  exact ⟨fun h => by rw [hexec, if_pos h], fun h => by rw [hexec, if_neg (Bool.eq_false_iff.mp h)]⟩

theorem exec_memErrLastClear_none (s : State) (v : W64) :
    (v.getLsbD 63 = true → exec (.memErrLastClear v none) s = .next { s with health := { s.health with last := 0 } }) ∧
    (v.getLsbD 63 = false → exec (.memErrLastClear v none) s = .next s) := by
  have hexec : exec (.memErrLastClear v none) s =
      .next (if v.getLsbD 63 then { s with health := { s.health with last := 0 } } else s) := rfl
  exact ⟨fun h => by rw [hexec, if_pos h], fun h => by rw [hexec, if_neg (Bool.eq_false_iff.mp h)]⟩

theorem exec_mbxLostClear_none (s : State) (v : W64) (m : Fin 64) : ∃ t : State, exec (.mbxLostClear v 0) s = .next t ∧
    t = { s with mbx := t.mbx } ∧
    t.mail m.val = { s.mail m.val with lost := (s.mail m.val).lost && !v.getLsbD m.val } := by
  have hnone : ∀ t : State, t.modMails (List.range 64) (0 : W64).getLsbD (fun x => { x with lost := true }) = t := fun t => by
    simp [State.modMails]
  refine ⟨s.clearLost v, ?_, State.modMails_eq .., State.clearLost_mail s v m⟩
  rw [exec_mbxLostClear, hnone]

theorem exec_mbxLostClear_lost (s : State) (v raced : W64) (m : Fin 64) :
    ∃ t : State, exec (.mbxLostClear v raced) s = .next t ∧ ((t.mail m.val).lost = true ↔
      raced.getLsbD m.val = true ∨ (s.mail m.val).lost = true ∧ v.getLsbD m.val = false) := by
  refine ⟨_, exec_mbxLostClear v raced s, ?_⟩
  rw [State.modMails_mail, State.clearLost_mail]
  · cases raced.getLsbD m.val <;> simp
  · exact fun _ => rfl

theorem exec_audMaskCommit (s : State) (g : Fin 16) (v : W64) (x : AGroup) (n : Nat) (hx : x = s.group g.val)
    (hn : n = v.toNat / 2 ^ 48 % 2 ^ 16) :
    (s.maskOk g.val n = true → exec (.audMaskCommit g v) s = .next (s.setGroup g.val { x with
      shadow := BitVec.ofNat 16 n, pending := if v.getLsbD 0 then some (BitVec.ofNat 16 n) else x.pending })) ∧
    (s.maskOk g.val n = false → exec (.audMaskCommit g v) s = .next (s.setGroup g.val { x with
      pending := if v.getLsbD 0 then some x.shadow else x.pending })) := by
  subst hx hn
  exact ⟨fun h => congrArg Host.Outcome.next (s.writeMask_legal g.val v.toNat h),
    fun h => congrArg Host.Outcome.next (s.writeMask_reserved g.val v.toNat h)⟩

theorem exec_registerWrite_audPort_fields (s : State) (n : Fin 16) (a : DevAddr) (v : W64) (x : APort) (clash : Bool)
    (hx : x = s.aport n.val) (ha : a.toNat = ctlBase + 0x20000 + 16 * n.val)
    (hclash : clash = (List.range 16).any (fun j => j != n.val && (s.aport j).groupNo == bits v.toNat 60 4 &&
      (s.aport j).member == bits v.toNat 57 3)) :
    ((s.groupRuns x.groupNo = true ∨ s.groupRuns (bits v.toNat 60 4) = true) → exec (.registerWrite a v) s = .next s) ∧
    (s.groupRuns x.groupNo = false → s.groupRuns (bits v.toNat 60 4) = false → ∃ w : W64,
      exec (.registerWrite a v) s = .next (s.setAport n.val { x with ctl := w }) ∧
      bits w.toNat 57 7 = (if clash then bits x.ctl.toNat 57 7 else bits v.toNat 57 7) ∧ bits w.toNat 56 1 = bits v.toNat 56 1 ∧
      bits w.toNat 48 8 = (if bits v.toNat 48 8 = 0 then bits x.ctl.toNat 48 8 else bits v.toNat 48 8) ∧
      bits w.toNat 0 48 = bits x.ctl.toNat 0 48) := by
  subst hx hclash
  rw [exec_registerWrite_audPort s n a v ha]
  refine ⟨fun hrun => by rw [if_pos (by simpa using hrun)], fun hold hnew => ⟨_, ?_, bits_audPortCtl ..⟩⟩
  rw [hold, hnew]
  rfl

theorem exec_registerWrite_audGroup_fields (s : State) (g : Fin 16) (a : DevAddr) (v : W64) (x : AGroup)
    (hx : x = s.group g.val) (ha : a.toNat = ctlBase + 0x20100 + 32 * g.val) :
    (s.groupRuns g.val = true → exec (.registerWrite a v) s = .next s) ∧
    (s.groupRuns g.val = false → ∃ w : W64, exec (.registerWrite a v) s = .next (s.setGroup g.val { x with ctl := w }) ∧
      bits w.toNat 46 18 = (if 8000 ≤ bits v.toNat 46 18 ∧ bits v.toNat 46 18 ≤ 192000 then bits v.toNat 46 18
        else bits x.ctl.toNat 46 18) ∧
      bits w.toNat 45 1 = bits v.toNat 45 1 ∧ bits w.toNat 38 4 = bits v.toNat 38 4 ∧ bits w.toNat 24 8 = bits v.toNat 24 8 ∧
      (bits v.toNat 42 1 = 1 → bits v.toNat 43 2 ≠ 0 → bits w.toNat 42 3 = bits x.ctl.toNat 42 3) ∧
      ((bits v.toNat 42 1 = 0 ∨ bits v.toNat 43 2 = 0) → bits w.toNat 42 1 = bits v.toNat 42 1 ∧
        bits w.toNat 43 2 = if bits v.toNat 43 2 = 3 then bits x.ctl.toNat 43 2 else bits v.toNat 43 2) ∧
      bits w.toNat 32 6 = bits x.ctl.toNat 32 6 ∧ bits w.toNat 0 14 = bits x.ctl.toNat 0 14 ∧
      bits w.toNat 14 10 =
        (if 5 ≤ bits v.toNat 14 10 ∧ bits v.toNat 14 10 ≤ 500 then bits v.toNat 14 10 else bits x.ctl.toNat 14 10)) := by
  subst hx
  rw [exec_registerWrite_audGroup s g a v ha]
  refine ⟨fun hrun => by rw [if_pos hrun], fun hstop => ⟨(s.group g.val).writeCtl v.toNat, ?_, ?_⟩⟩
  · rw [hstop]
    rfl
  · obtain ⟨hrate, hmaster, hgap, hblock, hkept, hlow, hzc⟩ := (s.group g.val).bits_writeCtl v.toNat
    exact ⟨hrate, hmaster, hgap, hblock, (s.group g.val).bits_writeCtl_pair_refused v.toNat,
      (s.group g.val).bits_writeCtl_pair_taken v.toNat, hkept, hlow, hzc⟩

theorem exec_audHelioWrite_fields (s : State) (g : Fin 16) (v : W64) : ∃ t : State, exec (.audHelioWrite g v) s = .next t ∧
    (t.group g.val).enable = v.getLsbD 63 ∧ (t.group g.val).steerSlot = bits v.toNat 42 4 ∧
    (t.group g.val).target = (if 64 ≤ bits v.toNat 29 13 ∧ bits v.toNat 29 13 ≤ 4000 then bits v.toNat 29 13
      else (s.group g.val).target) ∧
    (t.group g.val).integ = (if bits v.toNat 42 4 = (s.group g.val).steerSlot then (s.group g.val).integ else 0) ∧
    (s.groupRuns g.val = true → (t.group g.val).kp = (s.group g.val).kp ∧ (t.group g.val).ki = (s.group g.val).ki ∧
      (t.group g.val).slew = (s.group g.val).slew ∧ (t.group g.val).updateLog2 = (s.group g.val).updateLog2) ∧
    (s.groupRuns g.val = false → (t.group g.val).kp = bits v.toNat 21 8 ∧ (t.group g.val).ki = bits v.toNat 13 8 ∧
      (t.group g.val).slew = bits v.toNat 5 8 ∧ (t.group g.val).updateLog2 =
        if 8 ≤ bits v.toNat 0 5 ∧ bits v.toNat 0 5 ≤ 16 then bits v.toNat 0 5 else (s.group g.val).updateLog2) ∧
    (t.group g.val).steer = (s.group g.val).steer ∧ (t.group g.val).frame = (s.group g.val).frame ∧ t.mem = s.mem := by
  refine ⟨_, exec_audHelioWrite s g v, ?_⟩
  have henable := AGroup.enable_helioWrite (s.group g.val) (s.groupRuns g.val) v
  obtain ⟨-, hslot, htarget⟩ := bits_helioCtl (s.group g.val).helio (s.groupRuns g.val) v.toNat
  rw [State.setGroup_group_same]
  refine ⟨henable, ?_⟩
  rw [AGroup.helioWrite_eq]
  refine ⟨hslot, htarget, rfl, fun hrun => ?_, fun hstop => ?_, rfl, rfl, rfl⟩
  · rw [hrun]
    exact bits_helioCtl_running _ _
  · rw [hstop]
    exact bits_helioCtl_stopped _ _

/-- Settles O52, one lemma for each register. -/
theorem registerWritesActAsTheirMapSays : Obligations.RegisterWritesActAsTheirMapSays := by
  unfold Obligations.RegisterWritesActAsTheirMapSays
  exact ⟨exec_registerWrite_tagCtl, exec_registerWrite_none, exec_registerWrite_scrub_fields, exec_registerWrite_netPort_fields,
    exec_registerWrite_audPort_fields, exec_registerWrite_audGroup_fields, exec_nanIdClear_none, exec_mbxLostClear_none,
    exec_memErrLastClear_none, exec_registerWrite_doorbell, exec_registerWrite_status, exec_audMaskCommit,
    exec_audHelioWrite_fields, exec_mbxLostClear_lost, exec_memErrLastClear_raced, exec_nanIdClear_raced⟩

end Sys2Proof.Machine
end

section
/-! PROOFS. Tables whose entries are all changed alike, cores changed one after another, and what messages leave alone. -/

namespace Sys2Proof.Machine

/-! ### Tables -/

theorem tabGet?_map {α β : Type} (t : Tab α) (f : Nat → α → β) (i : Nat) :
    tabGet? (t.map (fun e => (e.1, f e.1 e.2))) i = (tabGet? t i).map (f i) := by
  induction t with
  | nil => rfl
  | cons e r ih =>
    obtain ⟨j, a⟩ := e
    by_cases h : j = i
    · simp [tabGet?, h]
    · simpa [tabGet?, h] using ih

/-- A map that keeps the default of a table acts on every entry, listed or not. -/
theorem tabGet_map {α : Type} (t : Tab α) (f : α → α) {d : α} (hd : f d = d) (i : Nat) :
    tabGet (t.map (fun e => (e.1, f e.2))) d i = f (tabGet t d i) := by
  have h : tabGet? (t.map (fun e => (e.1, f e.2))) i = (tabGet? t i).map f := tabGet?_map t (fun _ => f) i
  rw [tabGet, h, tabGet]
  cases tabGet? t i with
  | none => exact hd.symm
  | some a => rfl

/-- Every core changed by `f`. -/
def State.mapCores (s : State) (f : Core → Core) : State :=
  { s with cores := s.cores.map (fun (c : Nat × Core) => (c.1, f c.2)) }

theorem State.mapCores_core (s : State) {f : Core → Core} (hf : f Core.cold = Core.cold) (c : Nat) :
    (s.mapCores f).core c = f (s.core c) := tabGet_map s.cores f hf c

/-- Every partition changed by `f`, which sees its number. -/
def State.mapParts (s : State) (f : Nat → Partition → Partition) : State :=
  { s with parts := s.parts.map (fun (p : Nat × Partition) => (p.1, f p.1 p.2)) }

theorem State.mapParts_part? (s : State) (f : Nat → Partition → Partition) (p : Nat) :
    (s.mapParts f).part? p = (s.part? p).map (f p) := tabGet?_map s.parts f p

/-! ### Cores -/

/-- The cores of a list, each changed by `f`, which sees its number. -/
def State.modCores (s : State) (l : List Nat) (f : Nat → Core → Core) : State :=
  l.foldl (fun t c => t.modCore c (f c)) s

theorem State.modCores_eq (s : State) (l : List Nat) (f : Nat → Core → Core) :
    s.modCores l f = { s with cores := (s.modCores l f).cores } := by
  unfold State.modCores
  induction l generalizing s with
  | nil => rfl
  | cons c l ih => rw [List.foldl_cons, ih]; rfl

/-- Each core of the list is changed once; every other core stays. -/
theorem State.modCores_core (s : State) {l : List Nat} (f : Nat → Core → Core) (hl : l.Nodup) (k : Nat) :
    (s.modCores l f).core k = if k ∈ l then f k (s.core k) else s.core k := by
  unfold State.modCores
  induction l generalizing s with
  | nil => rfl
  | cons c l ih =>
    obtain ⟨hc, hl⟩ := List.nodup_cons.mp hl
    rw [List.foldl_cons, ih _ hl]
    by_cases hk : k = c
    · subst hk
      simp [hc, State.modCore]
    · simp [hk, State.modCore, State.setCore_core_ne _ _ hk]

theorem State.modCores_mem (s : State) (l : List Nat) (f : Nat → Core → Core) : (s.modCores l f).mem = s.mem := by
  rw [State.modCores_eq]

theorem State.modCores_pwr (s : State) (l : List Nat) (f : Nat → Core → Core) : (s.modCores l f).pwr = s.pwr := by
  rw [State.modCores_eq]

theorem allCores_nodup : allCores.Nodup := List.nodup_range

theorem mem_allCores {c : Nat} : c ∈ allCores ↔ c < 1536 := List.mem_range

/-! ### Messages -/

theorem OnlySent.cores {s t : State} (h : OnlySent s t) : t.cores = s.cores := by rw [h]
theorem OnlySent.core {s t : State} (h : OnlySent s t) (n : Nat) : t.core n = s.core n := by
  unfold State.core; rw [h.cores]
theorem OnlySent.parts {s t : State} (h : OnlySent s t) : t.parts = s.parts := by rw [h]
theorem OnlySent.part? {s t : State} (h : OnlySent s t) (p : Nat) : t.part? p = s.part? p := by
  unfold State.part?; rw [h.parts]
theorem OnlySent.pwr {s t : State} (h : OnlySent s t) : t.pwr = s.pwr := by rw [h]

/-- Steps that only send, one for each element of a list. -/
theorem OnlySent.foldl {α : Type} {f : State → α → State} (hf : ∀ s a, OnlySent s (f s a)) (l : List α) (s : State) :
    OnlySent s (l.foldl f s) := by
  induction l generalizing s with
  | nil => exact OnlySent.rfl' s
  | cons a l ih => exact (hf s a).trans (ih _)

end Sys2Proof.Machine
end

section
/-! PROOFS. Power on and off, the limiter and the power cap (R40, R41, R515 to R517). -/

namespace Sys2Proof.Machine

/-! ### Power on, power failure, measurement -/

theorem exec_powerStart (s : State) :
    (s.dev.mode = .off → s.dev.tripLatched = false → ∃ t : State, exec .powerStart s = .next t ∧
      t.dev.mode = .romBoot ∧ t.dev.resetKind = 0 ∧ t.dev.resetSource = 0 ∧ t.now = s.now ∧ t.flash.cfg = s.flash.cfg) ∧
    (s.dev.mode ≠ .off ∨ s.dev.tripLatched = true → exec .powerStart s = .next s) := by
  have hexec : exec .powerStart s =
      if s.dev.mode = .off && !s.dev.tripLatched then .next (s.deviceReset true 0) else .next s := rfl
  refine ⟨fun hoff hl => ⟨s.deviceReset true 0, ?_, rfl, rfl, rfl, rfl, rfl⟩, fun h => ?_⟩
  · rw [hexec, hoff, hl]; rfl
  · rw [hexec, if_neg]
    rcases h with h | h <;> simp [h]

theorem exec_powerFail (s : State) :
    (s.dev.mode ≠ .off → ∃ t : State, exec .powerFail s = .next t ∧ t.dev.mode = .off ∧ t.mem = [] ∧
      t.dev.pwrGood = false ∧ t.parts = [] ∧ t.ctxs = [] ∧ t.streams = [] ∧ t.qps = [] ∧ t.bells = [] ∧ t.flash.ops = []) ∧
    (s.dev.mode = .off → exec .powerFail s = .next { s with dev := { s.dev with tripLatched := false, thermtripN := true } }) := by
  have hexec : exec .powerFail s = execPowerFail s := rfl
  refine ⟨fun h => ⟨s.powerOff, ?_, rfl, rfl, rfl, rfl, rfl, rfl, rfl, rfl, rfl⟩, fun h => ?_⟩
  · rw [hexec, execPowerFail, if_neg h]
  · rw [hexec, execPowerFail, if_pos h]

theorem exec_powerMeasure (s : State) (a b mv : Nat) : (s.dev.mode = .off → exec (.powerMeasure a b mv) s = .next s) ∧
    (s.dev.mode ≠ .off → ∃ t : State, exec (.powerMeasure a b mv) s = .next t ∧
      t = { s with pwr := t.pwr } ∧ t.pwr.powerW.toNat = min b 4095 ∧ t.pwr.inputMv.toNat = min mv 65535 ∧
      (1400 < a → t.pwr.limiter = true) ∧ (a < 1350 → t.pwr.limiter = false) ∧
      (1350 ≤ a → a ≤ 1400 → t.pwr.limiter = s.pwr.limiter) ∧ t.pwr.capW = s.pwr.capW ∧ t.pwr.stage = s.pwr.stage) := by
  have hexec : exec (.powerMeasure a b mv) s = execPowerMeasure a b mv s := rfl
  rw [hexec, execPowerMeasure]
  refine ⟨fun h => if_pos h, fun h => ⟨_, if_neg h, rfl, ?_, ?_, fun h => if_pos h, fun h => ?_, fun h k => ?_, rfl, rfl⟩⟩
  · simp [clampTo]
  · simp [clampTo]
  · simp only [if_neg (show ¬ a > 1400 by omega), if_pos h]
  · simp only [if_neg (show ¬ a > 1400 by omega), if_neg (show ¬ a < 1350 by omega)]

/-! ### The limiter -/

/-- A report of floors that Lortus's own limits did not cause sends events and does nothing else (R41). -/
theorem State.reportFloors_onlySent (s old : State) {cause : Nat} (h : cause ≠ 0) : OnlySent s (s.reportFloors old cause) := by
  refine OnlySent.foldl (fun t p => ?_) _ _
  simp only [h, decide_false, Bool.false_and, Bool.false_eq_true, if_false]
  split
  · exact State.raisePart_onlySent ..
  · exact OnlySent.rfl' t

/-- One step of the limiter on a core, down while it acts (R516). -/
def Core.limited (k : Core) : Core := ({ k with limLimit := some (max 200 (k.clockMhz - 25)) } : Core).reclock

/-- One step of the limiter on a core, up afterwards (R516). -/
def Core.unlimited (k : Core) : Core :=
  match k.limLimit with
  | some l => ({ k with limLimit := if l + 1 ≥ k.targetMhz then none else some (l + 1) } : Core).reclock
  | none => k

theorem exec_limiterStep_down {s : State} (h : s.dev.mode ≠ .off) (hl : s.pwr.limiter = true) : exec .limiterStep s =
    .next ((s.modCores allCores (fun _ => Core.limited)).reportFloors s 1) := by
  have hexec : exec .limiterStep s = execLimiterStep s := rfl
  rw [hexec, execLimiterStep, if_neg h, if_pos hl]
  rfl

theorem exec_limiterStep_up {s : State} (h : s.dev.mode ≠ .off) (hl : s.pwr.limiter = false) :
    exec .limiterStep s = .next (s.mapCores Core.unlimited) := by
  have hexec : exec .limiterStep s = execLimiterStep s := rfl
  rw [hexec, execLimiterStep, if_neg h, hl, if_neg (by decide)]
  refine congrArg Host.Outcome.next (congrArg (fun l => { s with cores := l }) (List.map_congr_left fun c _ => ?_))
  obtain ⟨n, k⟩ := c
  cases hk : k.limLimit <;> simp [Core.unlimited, hk]

theorem exec_limiterStep (s : State) : (s.dev.mode = .off → exec .limiterStep s = .next s) ∧ (s.dev.mode ≠ .off →
    (s.pwr.limiter = true → ∃ t : State, exec .limiterStep s = .next t ∧
      (∀ c : Nat, c < 1536 → (t.core c).limLimit = some (max 200 ((s.core c).clockMhz - 25)) ∧
        (t.core c).pc = (s.core c).pc ∧ (t.core c).targetMhz = (s.core c).targetMhz) ∧ t.mem = s.mem) ∧
    (s.pwr.limiter = false → ∃ t : State, exec .limiterStep s = .next t ∧ t = { s with cores := t.cores } ∧
      (∀ c l : Nat, (s.core c).limLimit = some l →
        (t.core c).limLimit = (if (s.core c).targetMhz ≤ l + 1 then none else some (l + 1))) ∧
      ∀ c : Nat, (s.core c).limLimit = none → t.core c = s.core c)) := by
  refine ⟨fun h => ?_, fun h => ⟨fun hl => ⟨_, exec_limiterStep_down h hl, fun c hc => ?_, ?_⟩, fun hl => ?_⟩⟩
  · have hexec : exec .limiterStep s = execLimiterStep s := rfl
    rw [hexec, execLimiterStep, if_pos h]
  · rw [(State.reportFloors_onlySent _ _ (by decide)).core, State.modCores_core _ _ allCores_nodup,
      if_pos (mem_allCores.mpr hc)]
    exact ⟨rfl, rfl, rfl⟩
  · rw [(State.reportFloors_onlySent _ _ (by decide)).mem, State.modCores_mem]
  · have hcore := s.mapCores_core (f := Core.unlimited) rfl
    refine ⟨_, exec_limiterStep_up h hl, rfl, fun c l hc => ?_, fun c hc => ?_⟩
    · rw [hcore, Core.unlimited, hc]; rfl
    · rw [hcore, Core.unlimited, hc]

/-! ### The power cap -/

theorem listMin?_eq_none {l : List Nat} : listMin? l = none ↔ l = [] := by
  cases l <;> simp [listMin?]

theorem foldl_min_le (l : List Nat) (a : Nat) : l.foldl min a ≤ a ∧ ∀ b ∈ l, l.foldl min a ≤ b := by
  induction l generalizing a with
  | nil => simp
  | cons c l ih =>
    obtain ⟨h, k⟩ := ih (min a c)
    refine ⟨by rw [List.foldl_cons]; omega, fun b hb => ?_⟩
    rcases List.mem_cons.mp hb with rfl | hb
    · rw [List.foldl_cons]; omega
    · exact k b hb

theorem foldl_min_mem (l : List Nat) (a : Nat) : l.foldl min a = a ∨ l.foldl min a ∈ l := by
  induction l generalizing a with
  | nil => exact Or.inl rfl
  | cons c l ih =>
    rcases ih (min a c) with h | h
    · rw [List.foldl_cons, h]
      rcases Nat.le_total a c with hac | hac
      · exact Or.inl (Nat.min_eq_left hac)
      · exact Or.inr (by rw [Nat.min_eq_right hac]; exact List.mem_cons_self)
    · exact Or.inr (List.mem_cons_of_mem _ h)

/-- `listMin?` finds a least element. -/
theorem listMin?_eq_some {l : List Nat} {r : Nat} (h : listMin? l = some r) : r ∈ l ∧ ∀ b ∈ l, r ≤ b := by
  cases l with
  | nil => cases h
  | cons a l =>
    have hr : l.foldl min a = r := Option.some.inj h
    obtain ⟨hle, hall⟩ := foldl_min_le l a
    rw [hr] at hle hall
    refine ⟨?_, List.forall_mem_cons.mpr ⟨hle, hall⟩⟩
    rcases foldl_min_mem l a with k | k
    · exact List.mem_cons.mpr (Or.inl (hr ▸ k))
    · exact List.mem_cons.mpr (Or.inr (hr ▸ k))

/-- The cores that R40 still lets Lortus lower. -/
def State.lowerable (s : State) : List Nat := allCores.filter (fun c => s.clockFloor c < (s.core c).targetMhz)

theorem State.mem_lowerable {s : State} {c : Nat} : c ∈ s.lowerable ↔ c < 1536 ∧ s.clockFloor c < (s.core c).targetMhz := by
  rw [State.lowerable, List.mem_filter, mem_allCores, decide_eq_true_iff]

/-- A core lowered by 1 + `k` modulo 600 MHz and no further than `floor` (R40, R43). -/
def Core.lowered (x : Core) (floor k : Nat) (held : Bool) : Core :=
  { x.request (max floor (x.targetMhz - (1 + k % 600))) with
    floorHeld := x.floorHeld || (held && x.targetMhz - (1 + k % 600) < floor) }

/-- The cores of rank `r` lowered, all by one free amount (R40; log 18). -/
def State.lowerRank (s : State) (byCap : Bool) (r : Nat) : State :=
  ({ s with freeCtr := s.freeCtr + 1 } : State).modCores (s.lowerable.filter (fun c => s.capRank c == r))
    (fun c x => x.lowered (s.clockFloor c) (Config.freeNat s.freeCtr) (byCap && s.guarded c))

theorem State.lowerRank_eq (s : State) (byCap : Bool) (r : Nat) : s.lowerRank byCap r =
    { s with freeCtr := (s.lowerRank byCap r).freeCtr, cores := (s.lowerRank byCap r).cores } := by
  unfold State.lowerRank
  rw [State.modCores_eq]

theorem State.lowerRank_core (s : State) (byCap : Bool) (r c : Nat) : (s.lowerRank byCap r).core c =
    if c ∈ s.lowerable.filter (fun c => s.capRank c == r) then
      (s.core c).lowered (s.clockFloor c) (Config.freeNat s.freeCtr) (byCap && s.guarded c) else s.core c :=
  State.modCores_core _ _ ((allCores_nodup.filter _).filter _) c

/-- A core above its floor is lowered, but not below its floor. -/
theorem Core.lowered_target (x : Core) {floor : Nat} (k : Nat) (held : Bool) (h : floor < x.targetMhz) :
    floor ≤ (x.lowered floor k held).targetMhz ∧ (x.lowered floor k held).targetMhz < x.targetMhz := by
  have htarget : (x.lowered floor k held).targetMhz = max floor (x.targetMhz - (1 + k % 600)) := rfl
  omega

theorem State.lowerClocks_eq (s : State) (byCap : Bool) :
    s.lowerClocks byCap = (listMin? (s.lowerable.map s.capRank)).map (s.lowerRank byCap) := by
  unfold State.lowerClocks
  dsimp only
  rw [← State.lowerable]
  cases listMin? (s.lowerable.map s.capRank) <;> rfl

/-- Without a core that may be lowered no clock is; otherwise those first in the order of R40 are. -/
theorem State.lowerClocks_spec (s : State) (byCap : Bool) :
    (s.lowerable = [] → s.lowerClocks byCap = none) ∧
    (s.lowerable ≠ [] → ∃ t, s.lowerClocks byCap = some t ∧ t = { s with freeCtr := t.freeCtr, cores := t.cores } ∧
      s.LowersClocks t) := by
  rw [State.lowerClocks_eq]
  cases hr : listMin? (s.lowerable.map s.capRank) with
  | none => exact ⟨fun _ => rfl, fun h => absurd (List.map_eq_nil_iff.mp (listMin?_eq_none.mp hr)) h⟩
  | some r =>
    obtain ⟨hmem, hmin⟩ := listMin?_eq_some hr
    obtain ⟨d, hd, rfl⟩ := List.mem_map.mp hmem
    refine ⟨fun h => absurd (h ▸ hd) List.not_mem_nil, fun _ =>
      ⟨_, rfl, s.lowerRank_eq byCap _, fun c hc first hfirst => ?_⟩⟩
    have hin : c ∈ s.lowerable.filter (fun e => s.capRank e == s.capRank d) ↔ first := by
      rw [hfirst, List.mem_filter, State.mem_lowerable, beq_iff_eq]
      constructor
      · rintro ⟨⟨-, hlow⟩, heq⟩
        exact ⟨hlow, fun e he hlowe => heq ▸ hmin _ (List.mem_map_of_mem (State.mem_lowerable.mpr ⟨he, hlowe⟩))⟩
      · rintro ⟨hlow, hle⟩
        obtain ⟨hd1, hd2⟩ := State.mem_lowerable.mp hd
        exact ⟨⟨hc, hlow⟩, Nat.le_antisymm (hle d hd1 hd2)
          (hmin _ (List.mem_map_of_mem (State.mem_lowerable.mpr ⟨hc, hlow⟩)))⟩
    rw [State.lowerRank_core]
    refine ⟨fun h => ?_, fun h => by rw [if_neg (mt hin.mp h)]⟩
    rw [if_pos (hin.mpr h)]
    exact Core.lowered_target _ _ _ (hfirst.mp h).1

theorem State.lowerable_eq_nil {s : State} :
    s.lowerable = [] ↔ ∀ c : Nat, c < 1536 → (s.core c).targetMhz ≤ s.clockFloor c := by
  simp only [List.eq_nil_iff_forall_not_mem, State.mem_lowerable, not_and, not_lt]

/-- The seeing reports note floors partition by partition (R86). -/
theorem State.noteFloors_eq (s : State) : s.noteFloors = s.mapParts (fun _ q =>
    if q.cores.any (fun c => (s.core c).floorHeld) then
      { q with seeing := q.seeing.map (fun g => { g with floorHeld := true }) } else q) := by
  refine congrArg (fun l => { s with parts := l }) (List.map_congr_left fun p _ => ?_)
  obtain ⟨n, q⟩ := p
  simp only
  split <;> rfl

theorem State.setNoAdmit_eq (s : State) (on : Bool) : s.setNoAdmit on =
    s.mapParts (fun p q => { q with noAdmit := on && s.countClass p 0 > 0 }) := rfl

/-- What ends with a cap that is kept: no core is held at its floor, every partition admits streams (R517). -/
def State.capKept (s : State) : State :=
  (({ s with pwr := { s.pwr with capMiss := false } } : State).setNoAdmit false).mapCores (fun k => { k with floorHeld := false })

/-- A core raised by `k` modulo what is left up to 800 MHz, unless its island is to be retired (R38, R42). -/
def Core.raised (x : Core) (k : Nat) : Core :=
  if x.targetMhz < 800 && !x.retirePending then x.request (x.targetMhz + k % (801 - x.targetMhz)) else x

theorem Core.raised_target (x : Core) (k : Nat) : (x.raised k).floorHeld = x.floorHeld ∧ x.targetMhz ≤ (x.raised k).targetMhz ∧
    (x.raised k).targetMhz ≤ max 800 x.targetMhz ∧ (x.retirePending = true → (x.raised k).targetMhz = x.targetMhz) := by
  unfold Core.raised
  split
  · rename_i h
    obtain ⟨hlow, hkeep⟩ := Bool.and_eq_true_iff.mp h
    have hlt : x.targetMhz < 800 := of_decide_eq_true hlow
    have hmod : k % (801 - x.targetMhz) < 801 - x.targetMhz := Nat.mod_lt _ (by omega)
    refine ⟨rfl, Nat.le_add_right _ _, ?_, fun hr => ?_⟩
    · show x.targetMhz + k % (801 - x.targetMhz) ≤ _
      omega
    · rw [hr] at hkeep; cases hkeep
  · exact ⟨rfl, Nat.le_refl _, Nat.le_max_right _ _, fun _ => rfl⟩

theorem exec_powerCapCheck_kept {s : State} (h3 : 3 ≤ s.dev.mode.code)
    (hcap : s.pwr.capW = 0 ∨ s.pwr.powerW.toNat ≤ s.pwr.capW.toNat) : exec .powerCapCheck s = .next
      (if s.pwr.capW = 0 ∧ s.pwr.lortusHot = [] then
        ({ s.capKept with freeCtr := s.freeCtr + 1 } : State).mapCores (fun k => k.raised (Config.freeNat s.freeCtr))
      else s.capKept) := by
  have hexec : exec .powerCapCheck s = execPowerCapCheck s := rfl
  have hkept : (decide (s.pwr.capW = 0) || decide (s.pwr.powerW.toNat ≤ s.pwr.capW.toNat)) = true := by simpa using hcap
  rw [hexec, execPowerCapCheck]
  dsimp only
  rw [if_neg (by omega), if_pos hkept]
  by_cases hhot : s.pwr.capW = 0 ∧ s.pwr.lortusHot = []
  · rw [if_pos hhot, if_pos (by simpa using hhot)]
    refine congrArg Host.Outcome.next (congrArg (fun l => ({ s.capKept with freeCtr := s.freeCtr + 1, cores := l } : State))
      (List.map_congr_left fun c _ => ?_))
    obtain ⟨n, k⟩ := c
    simp only [Core.raised]
    split <;> rfl
  · rw [if_neg hhot, if_neg (by simpa using hhot)]
    rfl

theorem State.capKept_core (s : State) (c : Nat) : s.capKept.core c = { s.core c with floorHeld := false } :=
  State.mapCores_core _ (f := fun k => { k with floorHeld := false }) rfl c

theorem State.capKept_noAdmit (s : State) {p : Nat} {q : Partition} (h : s.capKept.part? p = some q) : q.noAdmit = false := by
  have h : (State.setNoAdmit { s with pwr := { s.pwr with capMiss := false } } false).part? p = some q := h
  rw [State.setNoAdmit_eq, State.mapParts_part?] at h
  obtain ⟨r, -, rfl⟩ := Option.map_eq_some_iff.mp h
  rfl

theorem exec_powerCapCheck_below (s : State) (h3 : 3 ≤ s.dev.mode.code)
    (hcap : s.pwr.capW = 0 ∨ s.pwr.powerW.toNat ≤ s.pwr.capW.toNat) :
    ∃ t : State, exec .powerCapCheck s = .next t ∧ t.pwr = { s.pwr with capMiss := false } ∧ t.mem = s.mem ∧
      (∀ (p : Nat) (q : Partition), t.part? p = some q → q.noAdmit = false) ∧
      ∀ c : Nat, (t.core c).floorHeld = false ∧ (s.core c).targetMhz ≤ (t.core c).targetMhz ∧
        (t.core c).targetMhz ≤ max 800 (s.core c).targetMhz ∧
        (s.pwr.capW ≠ 0 ∨ s.pwr.lortusHot ≠ [] ∨ (s.core c).retirePending = true →
          (t.core c).targetMhz = (s.core c).targetMhz) := by
  refine ⟨_, exec_powerCapCheck_kept h3 hcap, ?_⟩
  by_cases hhot : s.pwr.capW = 0 ∧ s.pwr.lortusHot = []
  · rw [if_pos hhot]
    refine ⟨rfl, rfl, fun p q h => s.capKept_noAdmit h, fun c => ?_⟩
    have hcore : (State.mapCores { s.capKept with freeCtr := s.freeCtr + 1 } (fun k => k.raised (Config.freeNat s.freeCtr))).core c =
        ({ s.core c with floorHeld := false } : Core).raised (Config.freeNat s.freeCtr) := by
      rw [State.mapCores_core _ rfl]
      exact congrArg (fun k : Core => k.raised (Config.freeNat s.freeCtr)) (s.capKept_core c)
    rw [hcore]
    obtain ⟨hheld, hlow, hhigh, hkeep⟩ := Core.raised_target { s.core c with floorHeld := false } (Config.freeNat s.freeCtr)
    exact ⟨hheld, hlow, hhigh, fun h => hkeep (by simpa [hhot] using h)⟩
  · rw [if_neg hhot]
    refine ⟨rfl, rfl, fun p q h => s.capKept_noAdmit h, fun c => ?_⟩
    rw [s.capKept_core c]
    exact ⟨rfl, Nat.le_refl _, Nat.le_max_right _ _, fun _ => rfl⟩

/-- The state in which a cap is missed with no clock left to lower: the floors of the cores in `held` are held and noted,
partitions with Vermilion streams admit no new ones (R40, R517). -/
def State.capMissed (s : State) (held : List Nat) : State :=
  ((s.modCores held (fun _ x => { x with floorHeld := true })).noteFloors).setNoAdmit true

theorem State.capMissed_mem (s : State) (held : List Nat) : (s.capMissed held).mem = s.mem := State.modCores_mem ..

theorem State.capMissed_pwr (s : State) (held : List Nat) : (s.capMissed held).pwr = s.pwr := State.modCores_pwr ..

theorem State.capMissed_core (s : State) {held : List Nat} (h : held.Nodup) (c : Nat) : (s.capMissed held).core c =
    if c ∈ held then { s.core c with floorHeld := true } else s.core c :=
  State.modCores_core s (fun _ x => { x with floorHeld := true }) h c

theorem State.capMissed_noAdmit {s : State} {held : List Nat} {p : Nat} {q : Partition}
    (h : (s.capMissed held).part? p = some q) : q.noAdmit = true ↔ 0 < s.countClass p 0 := by
  rw [State.capMissed, State.setNoAdmit_eq, State.mapParts_part?] at h
  obtain ⟨r, -, rfl⟩ := Option.map_eq_some_iff.mp h
  rw [State.noteFloors_eq, State.modCores_eq, Bool.true_and, decide_eq_true_iff]
  rfl

/-- The cores whose partitions hold Vermilion streams. -/
def State.guardedCores (s : State) : List Nat := allCores.filter s.guarded

theorem State.guardedCores_nodup (s : State) : s.guardedCores.Nodup := allCores_nodup.filter _

theorem State.mem_guardedCores {s : State} {c : Nat} : c ∈ s.guardedCores ↔ c < 1536 ∧ s.guarded c = true := by
  rw [State.guardedCores, List.mem_filter, mem_allCores]

theorem exec_powerCapCheck_over {s : State} (h3 : 3 ≤ s.dev.mode.code) (h0 : s.pwr.capW ≠ 0)
    (hcap : s.pwr.capW.toNat < s.pwr.powerW.toNat) : exec .powerCapCheck s = match s.lowerClocks true with
      | some t => .next t.noteFloors
      | none => if s.pwr.capMiss then .next (s.capMissed s.guardedCores) else .next
          ((({ s.capMissed s.guardedCores with pwr := { (s.capMissed s.guardedCores).pwr with capMiss := true } } : State)).raiseDev
            0x8B01 (pack [b2 s.pwr.capW.toNat, b2 s.pwr.powerW.toNat])) := by
  have hexec : exec .powerCapCheck s = execPowerCapCheck s := rfl
  have hover : ¬ (decide (s.pwr.capW = 0) || decide (s.pwr.powerW.toNat ≤ s.pwr.capW.toNat)) = true := by
    rw [decide_eq_false h0, decide_eq_false (Nat.not_le_of_lt hcap)]
    decide
  rw [hexec, execPowerCapCheck]
  dsimp only
  rw [if_neg (by omega), if_neg hover, ← State.guardedCores]
  generalize s.guardedCores = held
  cases s.lowerClocks true <;> rfl

/-- With no clock left to lower the miss is marked, whether it was before or not (R517). -/
theorem exec_powerCapCheck_miss {s : State} (h3 : 3 ≤ s.dev.mode.code) (h0 : s.pwr.capW ≠ 0)
    (hcap : s.pwr.capW.toNat < s.pwr.powerW.toNat) (hnone : s.lowerable = []) :
    ∃ t, exec .powerCapCheck s = .next t ∧
      OnlySent ({ s.capMissed s.guardedCores with pwr := { s.pwr with capMiss := true } }) t := by
  rw [exec_powerCapCheck_over h3 h0 hcap, (s.lowerClocks_spec true).1 hnone]
  have hpwr := s.capMissed_pwr s.guardedCores
  generalize s.capMissed s.guardedCores = m at hpwr
  dsimp only
  split
  · rename_i hmiss
    refine ⟨_, rfl, ?_⟩
    have hsame : ({ m with pwr := { s.pwr with capMiss := true } } : State) = m := by
      rw [← hmiss, ← hpwr]
    rw [hsame]
    exact OnlySent.rfl' _
  · rw [hpwr]
    exact ⟨_, rfl, State.raiseDev_onlySent ..⟩

theorem exec_powerCapCheck_above (s : State) (h3 : 3 ≤ s.dev.mode.code) (h0 : s.pwr.capW ≠ 0)
    (hcap : s.pwr.capW.toNat < s.pwr.powerW.toNat) :
    ∃ t : State, exec .powerCapCheck s = .next t ∧ t.mem = s.mem ∧ s.LowersClocks t ∧
      ((∃ c : Nat, c < 1536 ∧ s.clockFloor c < (s.core c).targetMhz) → t.pwr = s.pwr) ∧
      ((∀ c : Nat, c < 1536 → (s.core c).targetMhz ≤ s.clockFloor c) → t.pwr = { s.pwr with capMiss := true } ∧
        (∀ c : Nat, c < 1536 → s.guarded c = true → (t.core c).floorHeld = true) ∧
        ∀ (p : Nat) (q : Partition), t.part? p = some q → (q.noAdmit = true ↔ 0 < s.countClass p 0)) := by
  by_cases hnone : s.lowerable = []
  · have hfloor := State.lowerable_eq_nil.mp hnone
    obtain ⟨t, ht, hsent⟩ := exec_powerCapCheck_miss h3 h0 hcap hnone
    have hmem := s.capMissed_mem s.guardedCores
    have hadmit := @State.capMissed_noAdmit s s.guardedCores
    have hcore := s.capMissed_core s.guardedCores_nodup
    generalize s.capMissed s.guardedCores = m at hsent hmem hadmit hcore
    have hcore' : ∀ c, t.core c = if c ∈ s.guardedCores then { s.core c with floorHeld := true } else s.core c := fun c =>
      (hsent.core c).trans (hcore c)
    refine ⟨t, ht, hsent.mem.trans hmem, fun c hc first hfirst => ⟨fun h => ?_, fun _ => ?_⟩,
      fun ⟨c, hc, hlow⟩ => absurd hlow (Nat.not_lt.mpr (hfloor c hc)),
      fun _ => ⟨hsent.pwr, fun c hc hg => ?_, fun p q hq => hadmit ((hsent.part? p).symm.trans hq)⟩⟩
    · exact absurd (hfirst.mp h).1 (Nat.not_lt.mpr (hfloor c hc))
    · rw [hcore']
      split <;> rfl
    · rw [hcore', if_pos (State.mem_guardedCores.mpr ⟨hc, hg⟩)]
  · obtain ⟨t, ht, heq, hlower⟩ := (s.lowerClocks_spec true).2 hnone
    refine ⟨t.noteFloors, ?_, ?_, ?_, fun _ => ?_, fun h => absurd (State.lowerable_eq_nil.mpr h) hnone⟩
    · rw [exec_powerCapCheck_over h3 h0 hcap, ht]
    · rw [State.noteFloors_eq, heq]; rfl
    · rw [State.noteFloors_eq]; exact hlower
    · rw [State.noteFloors_eq, heq]; rfl

theorem exec_powerCapCheck_early (s : State) (h : s.dev.mode.code < 3) : exec .powerCapCheck s = .next s := by
  have hexec : exec .powerCapCheck s = execPowerCapCheck s := rfl
  rw [hexec, execPowerCapCheck]
  exact if_pos h

/-- Settles O53, one lemma for each row. -/
theorem powerAndClocksFollowMeasurements : Obligations.PowerAndClocksFollowMeasurements := by
  unfold Obligations.PowerAndClocksFollowMeasurements
  exact ⟨exec_powerStart, exec_powerFail, exec_powerMeasure, exec_limiterStep, exec_powerCapCheck_early,
    exec_powerCapCheck_below, exec_powerCapCheck_above⟩

end Sys2Proof.Machine
end

section
/-! PROOFS. A chunk's slot is archived, a step's results are committed (R45, R58, R464 to R466). -/

namespace Sys2Proof.Machine

/-! ### What leaves streams, contexts and memory alone -/

theorem OnlySent.stream {s t : State} (h : OnlySent s t) (i : Nat) : t.stream i = s.stream i := by
  unfold State.stream; rw [h]
theorem OnlySent.ctxs {s t : State} (h : OnlySent s t) : t.ctxs = s.ctxs := by rw [h]

theorem State.modPart_eq (s : State) (p : Nat) (f : Partition → Partition) :
    s.modPart p f = { s with parts := (s.modPart p f).parts } := by
  unfold State.modPart
  split <;> rfl

/-- A record to a mirror's peer changes nothing but what is sent. -/
theorem State.sendMirror_onlySent (s : State) (peer : Nat) (r : Config.MirrorRecord) : OnlySent s (s.sendMirror peer r) := by
  unfold State.sendMirror
  cases h : s.writeDomain 16 (BitVec.ofNat 64 (peer * 2 ^ 51 + (Config.mirrorAddr r).toNat)) (Config.mirrorBytes r) .other with
  | none => exact OnlySent.rfl' s
  | some t => exact State.writeDomain_onlySent h

/-- The check of the intake pool sets its mark and may raise an event. -/
theorem State.poolCheck_onlySent (s : State) : ∃ b : Bool, OnlySent { s with poolLow := b } s.poolCheck := by
  unfold State.poolCheck
  dsimp only
  split
  · split
    · exact ⟨s.poolLow, OnlySent.rfl' s⟩
    · exact ⟨true, State.raiseDev_onlySent ..⟩
  · exact ⟨false, OnlySent.rfl' _⟩

/-! ### ARCHIVE_WRITE_DONE -/

/-- Chunk `c` of stream `i` is marked archived, as `d`, and its slot of `n` bytes is written (R464). -/
def State.archiveChunk (s : State) (i n : Nat) (c d : Chunk) : State :=
  (s.writeRaw ((s.stream i).slotAddr n c.no) (d.slot (s.stream i).handle.toNat)).setStream i
    { s.stream i with chunks := (s.stream i).chunks.map (fun k => if k.no = c.no then d else k) }

/-- The peer of a mirrored stream gets a record of the chunk whose slot is `bs` (R478). -/
def State.mirrorChunk (s : State) (x : Stream) (bs : Bytes) : State :=
  match x.mirrorSide with
  | some m => s.sendMirror m.peer.toNat (.chunk m.shadow bs)
  | none => s

theorem State.mirrorChunk_onlySent (s : State) (x : Stream) (bs : Bytes) : OnlySent s (s.mirrorChunk x bs) := by
  unfold State.mirrorChunk
  split
  · exact State.sendMirror_onlySent ..
  · exact OnlySent.rfl' s

theorem exec_archiveWriteDone_none (s : State) (i : Fin 16384) (h : (s.part? (s.stream i.val).part.val).bind (·.shape?) = none ∨
      ∀ c ∈ (s.stream i.val).chunks, c.archived = true) : exec (.archiveWriteDone i) s = .next s := by
  have hexec : exec (.archiveWriteDone i) s = execArchiveWriteDone i s := rfl
  rw [hexec, execArchiveWriteDone]
  dsimp only
  rcases h with h | h
  · rw [h]
    cases (s.stream i.val).chunks.find? (fun c => !c.archived) <;> rfl
  · have hnone : (s.stream i.val).chunks.find? (fun c => !c.archived) = none := by simpa [List.find?_eq_none] using h
    rw [hnone]

/-- A chunk with its slot written. -/
def Stream.archivedChunk (x : Stream) (c : Chunk) : Chunk := { c with archived := true, mirrored := x.mirrorSide.isSome }

theorem exec_archiveWriteDone_eq {s : State} {i : Fin 16384} {im : ImageInfo} {c : Chunk}
    (him : (s.part? (s.stream i.val).part.val).bind (·.shape?) = some im)
    (hc : (s.stream i.val).chunks.find? (fun k => !k.archived) = some c) : exec (.archiveWriteDone i) s =
      .next ((((s.archiveChunk i.val im.slotBytes c ((s.stream i.val).archivedChunk c)).mirrorChunk (s.stream i.val)
        (((s.stream i.val).archivedChunk c).slot (s.stream i.val).handle.toNat)).poolCheck).settle (s.stream i.val).part.val) := by
  have hexec : exec (.archiveWriteDone i) s = execArchiveWriteDone i s := rfl
  rw [hexec, execArchiveWriteDone]
  dsimp only
  rw [him, hc]
  rfl

/-- Besides the chunk only a record to the peer and the mark of the intake pool change. -/
theorem exec_archiveWriteDone_archives {s : State} {i : Fin 16384} {im : ImageInfo} {c : Chunk}
    (him : (s.part? (s.stream i.val).part.val).bind (·.shape?) = some im)
    (hc : (s.stream i.val).chunks.find? (fun k => !k.archived) = some c) :
    ∃ (u : State) (b : Bool), exec (.archiveWriteDone i) s = .next (u.settle (s.stream i.val).part.val) ∧
      OnlySent { s.archiveChunk i.val im.slotBytes c ((s.stream i.val).archivedChunk c) with poolLow := b } u := by
  rw [exec_archiveWriteDone_eq him hc]
  have hpeer := (s.archiveChunk i.val im.slotBytes c ((s.stream i.val).archivedChunk c)).mirrorChunk_onlySent (s.stream i.val)
    (((s.stream i.val).archivedChunk c).slot (s.stream i.val).handle.toNat)
  generalize State.mirrorChunk _ _ _ = m at hpeer
  obtain ⟨b, hpool⟩ := m.poolCheck_onlySent
  refine ⟨_, b, rfl, OnlySent.trans ?_ hpool⟩
  unfold OnlySent at hpeer ⊢
  rw [hpeer]

theorem exec_archiveWriteDone_slot (s : State) (i : Fin 16384) (x : Stream) (im : ImageInfo) (hx : x = s.stream i.val)
    (him : (s.part? x.part.val).bind (·.shape?) = some im) (c d : Chunk) (hc : x.chunks.find? (fun k => !k.archived) = some c)
    (hd : d = { c with archived := true, mirrored := x.mirrorSide.isSome }) :
    ∃ u : State, exec (.archiveWriteDone i) s = .next (u.settle x.part.val) ∧
      u.mem = memWrite s.mem (backing (x.archAddr + im.slotBytes * (c.no % 16))) (d.slot x.handle.toNat) ∧
      u.stream i.val = { x with chunks := x.chunks.map (fun (k : Chunk) => if k.no = c.no then d else k) } ∧
      (∀ j : Nat, j ≠ i.val → u.stream j = s.stream j) ∧ u.parts = s.parts ∧ u.cores = s.cores ∧ u.ctxs = s.ctxs := by
  subst hx hd
  obtain ⟨u, b, hexec, hsent⟩ := exec_archiveWriteDone_archives him hc
  refine ⟨u, hexec, hsent.mem, (hsent.stream _).trans ?_, fun j hj => (hsent.stream j).trans ?_, hsent.parts, hsent.cores,
    hsent.ctxs⟩
  · exact State.setStream_stream_same ..
  · exact State.setStream_stream_ne _ _ hj

/-! ### STATE_COMMIT_FLIP -/

theorem exec_stateCommitFlip_none (s : State) (i : Fin 16384) (h : (s.part? (s.stream i.val).part.val).bind (·.image?) = none ∨
      s.workOf i.val = none ∨ ∃ e : WorkEntry, s.workOf i.val = some e ∧ e.committed = true) :
    exec (.stateCommitFlip i) s = .next s := by
  have hexec : exec (.stateCommitFlip i) s = execStateCommitFlip i s := rfl
  rw [hexec, execStateCommitFlip]
  dsimp only
  rcases h with h | h | ⟨e, h, hcom⟩
  · rw [h]
    cases s.workOf i.val <;> rfl
  · rw [h]
  · rw [h]
    cases (s.part? (s.stream i.val).part.val).bind (·.image?) with
    | none => rfl
    | some im => exact if_neg (by simp [hcom])

/-- Until the results are stored, every output record released and the overflow decision taken nothing is committed. -/
theorem exec_stateCommitFlip_early {s : State} {i : Fin 16384} {e : WorkEntry} {im : ImageInfo} (he : s.workOf i.val = some e)
    (him : (s.part? (s.stream i.val).part.val).bind (·.image?) = some im)
    (h : e.stored = false ∨ e.outIdx ≠ im.outRecords ∨ s.decided (s.stream i.val).part.val = false) :
    exec (.stateCommitFlip i) s = .next s := by
  have hexec : exec (.stateCommitFlip i) s = execStateCommitFlip i s := rfl
  rw [hexec, execStateCommitFlip]
  dsimp only
  rw [he, him]
  refine if_neg ?_
  rcases h with h | h | h <;> simp [h]

/-- A stream once the chunk of `e` is committed in a step that ends now (R58, R466). -/
def Stream.committed (x : Stream) (e : WorkEntry) (step : Nat) (now : W64) : Stream :=
  { x with
    commitSide := !x.commitSide, commitStep := BitVec.ofNat 48 step,
    chunks := x.chunks.filter (fun (c : Chunk) => c.no != e.chunkNo),
    oldestAccept := (((x.chunks.filter (fun (c : Chunk) => c.no != e.chunkNo)).head?).map (·.accept)).getD 0,
    chunksDone := x.chunksDone + 1, lastDone := now }

/-- The work list of a partition's step with the entry of stream `i` committed. -/
def Partition.entryCommitted (i : Fin 16384) (q : Partition) : Partition :=
  { q with step := q.step.map (fun r =>
      { r with list := r.list.map (fun f => if f.stream = i then { f with committed := true } else f) }) }

/-- DONE with the step, in the slot of the chunk of `e`, where the stream still holds that chunk (R464). -/
def State.markDone (s : State) (e : WorkEntry) (step : Nat) (held : Bool) : State :=
  if held then s.writeNat (e.chunkAddr - 0x40 + 0x20) 8 (2 ^ 63 + step) else s

theorem State.markDone_mem (s : State) (e : WorkEntry) (step : Nat) (held : Bool) : (s.markDone e step held).mem =
    if held then memWrite s.mem (backing (e.chunkAddr - 0x40 + 0x20)) (natToBytes 8 (2 ^ 63 + step)) else s.mem := by
  unfold State.markDone
  split <;> rfl

theorem State.markDone_eq (s : State) (e : WorkEntry) (step : Nat) (held : Bool) : s.markDone e step held =
    { s with mem := (s.markDone e step held).mem, badSpans := (s.markDone e step held).badSpans,
             lostPcs := (s.markDone e step held).lostPcs } := by
  unfold State.markDone
  split <;> rfl

theorem exec_stateCommitFlip_eq {s : State} {i : Fin 16384} {e : WorkEntry} {im : ImageInfo} (he : s.workOf i.val = some e)
    (him : (s.part? (s.stream i.val).part.val).bind (·.image?) = some im) (hst : e.stored = true) (hcom : e.committed = false)
    (hout : e.outIdx = im.outRecords) (hdec : s.decided (s.stream i.val).part.val = true) :
    exec (.stateCommitFlip i) s = .next (State.settle
      (((s.setStream i.val ((s.stream i.val).committed e (s.stepOf (s.stream i.val).part.val) s.now)).markDone e
        (s.stepOf (s.stream i.val).part.val) ((s.stream i.val).chunks.any (fun (c : Chunk) => c.no == e.chunkNo))).modPart
          (s.stream i.val).part.val (Partition.entryCommitted i)) (s.stream i.val).part.val) := by
  have hexec : exec (.stateCommitFlip i) s = execStateCommitFlip i s := rfl
  rw [hexec, execStateCommitFlip]
  dsimp only
  rw [he, him]
  exact if_pos (by simp [hst, hcom, hout, hdec])

theorem exec_stateCommitFlip_commits (s : State) (i : Fin 16384) (x : Stream) (im : ImageInfo) (hx : x = s.stream i.val)
    (e : WorkEntry) (he : s.workOf i.val = some e) (him : (s.part? x.part.val).bind (·.image?) = some im)
    (hst : e.stored = true) (hcom : e.committed = false) (hout : e.outIdx = im.outRecords)
    (hdec : s.decided x.part.val = true) :
    ∃ u : State, exec (.stateCommitFlip i) s = .next (u.settle x.part.val) ∧
      u.stream i.val = { x with
        commitSide := !x.commitSide, commitStep := BitVec.ofNat 48 (s.stepOf x.part.val),
        chunks := x.chunks.filter (fun (c : Chunk) => c.no != e.chunkNo),
        oldestAccept := (((x.chunks.filter (fun (c : Chunk) => c.no != e.chunkNo)).head?).map (·.accept)).getD 0,
        chunksDone := x.chunksDone + 1, lastDone := s.now } ∧
      (x.chunks.any (fun (c : Chunk) => c.no == e.chunkNo) = true →
        u.mem = memWrite s.mem (backing (e.chunkAddr - 0x40 + 0x20)) (natToBytes 8 (2 ^ 63 + s.stepOf x.part.val))) ∧
      (x.chunks.any (fun (c : Chunk) => c.no == e.chunkNo) = false → u.mem = s.mem) ∧
      (∀ j : Nat, j ≠ i.val → u.stream j = s.stream j) ∧ u.cores = s.cores ∧ u.ctxs = s.ctxs := by
  subst hx
  refine ⟨_, exec_stateCommitFlip_eq he him hst hcom hout hdec, ?_⟩
  rw [State.modPart_eq, State.markDone_eq, State.markDone_mem]
  refine ⟨State.setStream_stream_same .., fun h => if_pos h, fun h => if_neg (Bool.eq_false_iff.mp h), fun j hj => ?_, rfl, rfl⟩
  exact State.setStream_stream_ne s _ hj

/-- Settles O25, each of the two rows by what it does where it does nothing and where it acts. -/
theorem archiveAndCommitWriteTheirSlots : Obligations.ArchiveAndCommitWriteTheirSlots := by
  unfold Obligations.ArchiveAndCommitWriteTheirSlots
  refine ⟨fun s i x hx => ?_, fun s i x im hx hshape => ⟨exec_archiveWriteDone_slot s i x im hx hshape, fun e he him => ⟨?_, ?_⟩⟩⟩
  · subst hx
    exact ⟨exec_archiveWriteDone_none s i, exec_stateCommitFlip_none s i⟩
  · exact exec_stateCommitFlip_commits s i x im hx e he him
  · subst hx
    exact exec_stateCommitFlip_early he him

end Sys2Proof.Machine
end

section
/-! PROOFS. Memory, test and service commands (R42, R330, R484 to R489). -/

namespace Sys2Proof.Machine

/-! ### Answers -/

theorem State.fail_replied (s : State) (m : Fin 64) (status : Nat) : Replied s (s.fail m status) m status 0 [] :=
  State.respond_replied ..

theorem State.ok_replied (s : State) (m : Fin 64) (data : Bytes) : Replied s (s.ok m data) m 0 0 data :=
  State.respond_replied ..

/-- A transfer to the host that succeeds: the write is sent (R433). -/
theorem State.hostWrite_sent {s : State} {m : Fin 64} {dst : Nat} (data : Bytes) {ok : Bool} (hok : ok = true)
    (h : s.hostReach m (BitVec.ofNat 64 dst) = true) :
    s.hostWrite m (BitVec.ofNat 64 dst) data ok = some (s.sentTo m dst data) := by
  have hqp : (s.qpFor (s.mail m).owner.toNat (devOf (BitVec.ofNat 64 dst))).isSome = true := by
    rw [State.hostReach, Bool.and_eq_true] at h
    exact h.2
  obtain ⟨⟨n, q⟩, hnq⟩ := Option.isSome_iff_exists.mp hqp
  rw [State.hostWrite, hok, h, State.sentTo, State.writeDomain, hnq]
  rfl

theorem State.hostWrite_fails {s : State} {m : Fin 64} {a : W64} (data : Bytes) {ok : Bool}
    (h : ok = false ∨ s.hostReach m a = false) : s.hostWrite m a data ok = none := by
  rw [State.hostWrite, if_neg]
  rcases h with h | h <;> simp [h]

/-! ### MEM_TIER_MOVE -/

/-- The move that a MEM_TIER_MOVE of page `pg` asks for stream `i`: pages that its table does not hold are skipped (R330). -/
def State.tierCmdOf (s : State) (m : Fin 64) (i : Nat) (pg : Bytes) : TierCmd :=
  let todo := (tierPages pg).filter (fun v => v.1 < s.ptLayers (s.stream i) && v.2 < s.ptMaxPages (s.stream i))
  ⟨m, Fin.ofNat 16384 i, par tierSizes pg 3 == 1, todo, 0, (tierPages pg).length - todo.length⟩

theorem State.tierCmdOf_skipped (s : State) (m : Fin 64) (i : Nat) (pg : Bytes) :
    (s.tierCmdOf m i pg).skipped + (s.tierCmdOf m i pg).todo.length = (tierPages pg).length :=
  Nat.sub_add_cancel (List.length_filter_le _ _)

theorem exec_memTierMove {s : State} {m : Fin 64} {i : Nat} (h : s.Takes m specMemTierMove)
    (hi : i = le (s.page m) 0x40 4 % 2 ^ 14) : exec (.memTierMove m) s = .next
      (if (s.stream i).state = .opening ∨ (s.stream i).pageTable = 0 then s.popped.fail m 3
      else if s.popped.streamBusy i = true ∨ (s.stream i).drainMbx ≠ [] then s.popped.fail m 8
      else
        let w := (s.popped.modPart (s.stream i).part.val
          (fun q => { q with tierCmds := q.tierCmds ++ [s.tierCmdOf m i (s.page m)] })).background m
        if (s.tierCmdOf m i (s.page m)).todo = [] then w.answerTier (s.stream i).part.val else w) := by
  have hexec : exec (.memTierMove m) s = execMemTierMove m s := rfl
  have hstream : s.popped.stream i = s.stream i := rfl
  rw [hexec, execMemTierMove, State.runCmd_takes _ _ _ _ h]
  dsimp only
  rw [← hi, hstream]
  simp only [Bool.or_eq_true, decide_eq_true_eq, Bool.not_eq_true', List.isEmpty_eq_false_iff, List.isEmpty_iff]
  rfl

theorem memTierMove_acts (s : State) (m : Fin 64) (i : Nat) (x : Stream) (h : s.Takes m specMemTierMove)
    (hi : i = le (s.page m) 0x40 4 % 2 ^ 14) (hx : x = s.stream i) :
    (x.state = .opening ∨ x.pageTable = 0 → ∃ t, exec (.memTierMove m) s = .next t ∧ Replied s.popped t m 3 0 []) ∧
    (x.state ≠ .opening → x.pageTable ≠ 0 →
      (s.popped.streamBusy i = true ∨ x.drainMbx ≠ [] → ∃ t, exec (.memTierMove m) s = .next t ∧ Replied s.popped t m 8 0 []) ∧
      (s.popped.streamBusy i = false → x.drainMbx = [] → ∃ (c : TierCmd) (w : State),
        w = (s.popped.modPart x.part.val (fun q => { q with tierCmds := q.tierCmds ++ [c] })).background m ∧
        exec (.memTierMove m) s = .next (if c.todo = [] then w.answerTier x.part.val else w) ∧ c.mbx = m ∧ c.stream.val = i ∧
        c.moved = 0 ∧ c.toLp = (le (s.page m) 0x46 1 == 1) ∧
        c.todo = (tierPages (s.page m)).filter (fun v => v.1 < s.ptLayers x && v.2 < s.ptMaxPages x) ∧
        c.skipped + c.todo.length = (tierPages (s.page m)).length)) := by
  subst hx
  rw [exec_memTierMove h hi]
  refine ⟨fun hno => ⟨_, by rw [if_pos hno], State.fail_replied ..⟩, fun hopen htable => ?_⟩
  rw [if_neg (not_or.mpr ⟨hopen, htable⟩)]
  refine ⟨fun hbusy => ⟨_, by rw [if_pos hbusy], State.fail_replied ..⟩, fun hfree hdrain => ?_⟩
  rw [if_neg (by simp [hfree, hdrain])]
  refine ⟨s.tierCmdOf m i (s.page m), _, rfl, rfl, rfl, ?_, rfl, rfl, rfl, s.tierCmdOf_skipped m i (s.page m)⟩
  rw [hi]
  exact Nat.mod_eq_of_lt (Nat.mod_lt _ (by decide))

/-! ### TEST_START -/

/-- The units of a test that are rolled, each with its partition (R487). -/
def State.rollWays (s : State) (l : List Nat) : List (Nat × Nat) :=
  l.filterMap (fun u => match s.testWay u with
    | .roll p => some (p, u)
    | _ => none)

/-- A new test of the units `l` for the command in mailbox `m` (R487). -/
def State.newTest (s : State) (m : Fin 64) (kind : Nat) (l : List Nat) : SelfTest :=
  ⟨BitVec.ofNat 32 s.nextTest, some m, kind, l.map (BitVec.ofNat 64), [], []⟩

/-- A test begins; of the finished ones the last 16 are kept (R489). -/
def State.addTest (s : State) (v : SelfTest) : State :=
  { s with tests := s.tests.filter (fun w => w.mbx.isSome || decide (s.nextTest < w.id.toNat + 16)) ++ [v],
           nextTest := s.nextTest + 1 }

/-- Units wait for the boundary at which test `id` rolls them (R487). -/
def State.queueRolls (s : State) (ways : List (Nat × Nat)) (id : Nat) : State :=
  ways.foldl (fun r k => r.modPart k.1 (fun q => { q with
    unitWaits := q.unitWaits ++ [UnitWait.mk (BitVec.ofNat 64 k.2) none (some id)] })) s

/-- The partitions of these units come to their boundary where no step runs; supervisors roll too (R487). -/
def State.rollNow (s : State) (ways : List (Nat × Nat)) : State :=
  ((List.range 16).foldl (fun r p => if ways.any (fun k => k.1 == p) then r.idleBoundary p else r) s).rollSups

/-- A unit of the list is under test or cannot be tested now. -/
def State.testBusy (s : State) (l : List Nat) : Bool := l.any (fun u => s.underTest u || s.testWay u == .neither)

theorem exec_testStart {s : State} {m : Fin 64} (h : s.Takes m specTestStart) {l : List Nat}
    (hl : l = s.popped.testUnits (le (s.page m) 0x40 1) (le (s.page m) 0x41 1) (le (s.page m) 0x48 8)) {v : SelfTest}
    (hv : v = s.popped.newTest m (le (s.page m) 0x41 1) l) : exec (.testStart m) s = .next
      (if le (s.page m) 0x40 1 = 2 ∧ s.dev.mode ≠ .maintenance then s.popped.fail m 3
      else if s.popped.testBusy l then s.popped.fail m 8
      else (((s.popped.addTest v).background m).queueRolls (s.popped.rollWays l) v.id.toNat).rollNow (s.popped.rollWays l)) := by
  have hexec : exec (.testStart m) s = execTestStart m s := rfl
  have hscope : par testSizes (s.page m) 0 = le (s.page m) 0x40 1 := rfl
  have hkind : par testSizes (s.page m) 1 = le (s.page m) 0x41 1 := rfl
  have hunit : par testSizes (s.page m) 2 = le (s.page m) 0x48 8 := rfl
  rw [hexec, execTestStart, State.runCmd_takes _ _ _ _ h, hv]
  dsimp only
  rw [hscope, hkind, hunit, ← hl]
  simp only [Bool.and_eq_true, decide_eq_true_eq, bne_iff_ne]
  rfl

/-- In MAINTENANCE every unit is tested in place: none is rolled (R487). -/
theorem State.rollWays_maintenance {s : State} (h : s.dev.mode = .maintenance) (l : List Nat) : s.rollWays l = [] := by
  refine List.filterMap_eq_nil_iff.mpr fun u _ => ?_
  have hway : s.testWay u = .inPlace := if_pos h
  rw [hway]

theorem State.rollNow_maintenance {s : State} (h : s.dev.mode = .maintenance) : s.rollNow [] = s := by
  have hidle : (List.range 16).foldl (fun (r : State) p => if ([] : List (Nat × Nat)).any (fun k => k.1 == p) then r.idleBoundary p
      else r) s = s := rfl
  rw [State.rollNow, hidle, State.rollSups]
  exact if_pos (by simp [h])

theorem testStart_acts (s : State) (m : Fin 64) (l : List Nat) (h : s.Takes m specTestStart)
    (hl : l = s.popped.testUnits (le (s.page m) 0x40 1) (le (s.page m) 0x41 1) (le (s.page m) 0x48 8)) :
    (le (s.page m) 0x40 1 = 2 → s.dev.mode ≠ .maintenance →
      ∃ t, exec (.testStart m) s = .next t ∧ Replied s.popped t m 3 0 []) ∧
    ((le (s.page m) 0x40 1 = 2 → s.dev.mode = .maintenance) →
      (l.any (fun u => s.underTest u || s.popped.testWay u == .neither) = true →
        ∃ t, exec (.testStart m) s = .next t ∧ Replied s.popped t m 8 0 []) ∧
      (l.any (fun u => s.underTest u || s.popped.testWay u == .neither) = false → ∃ (u w : State) (v : SelfTest) (ways : List (Nat × Nat)),
        ways = l.filterMap (fun k => match s.popped.testWay k with
          | .roll p => some (p, k)
          | _ => none) ∧
        v ∈ u.tests ∧ v.mbx = some m ∧ v.id = BitVec.ofNat 32 s.nextTest ∧ v.kind = le (s.page m) 0x41 1 ∧
        v.todo = l.map (BitVec.ofNat 64) ∧ v.records = [] ∧ v.rolled = [] ∧ u = { s.popped with tests := u.tests, nextTest := s.nextTest + 1 } ∧
        w = ways.foldl (fun r k => r.modPart k.1 (fun q => { q with
          unitWaits := q.unitWaits ++ [UnitWait.mk (BitVec.ofNat 64 k.2) none (some v.id.toNat)] })) (u.background m) ∧
        exec (.testStart m) s = .next (((List.range 16).foldl (fun r p => if ways.any (fun k => k.1 == p) then r.idleBoundary p else r)
          w).rollSups) ∧
        (s.dev.mode = .maintenance → exec (.testStart m) s = .next (u.background m)))) := by
  rw [exec_testStart h hl rfl]
  refine ⟨fun hall hmode => ⟨_, by rw [if_pos ⟨hall, hmode⟩], State.fail_replied ..⟩, fun hmode => ?_⟩
  rw [if_neg (fun hno => hno.2 (hmode hno.1))]
  refine ⟨fun hbusy => ⟨_, congrArg _ (if_pos hbusy), State.fail_replied ..⟩, fun hfree => ?_⟩
  have hready : s.popped.testBusy l = false := hfree
  rw [if_neg (Bool.eq_false_iff.mp hready)]
  refine ⟨s.popped.addTest (s.popped.newTest m (le (s.page m) 0x41 1) l), _, s.popped.newTest m (le (s.page m) 0x41 1) l,
    s.popped.rollWays l, rfl, ?_, rfl, rfl, rfl, rfl, rfl, rfl, rfl, rfl, rfl, fun hmaint => ?_⟩
  · exact List.mem_append_right _ List.mem_cons_self
  · have hpop : s.popped.dev.mode = .maintenance := hmaint
    rw [State.rollWays_maintenance hpop, State.queueRolls, List.foldl_nil]
    exact congrArg Host.Outcome.next (State.rollNow_maintenance hmaint)

/-! ### TEST_RESULT -/

/-- The counts and the digest that TEST_RESULT answers (R489). -/
def SelfTest.summary (v : SelfTest) : Bytes :=
  let l := sortByKey (fun r => le r 0 8) v.records
  pack [b4 l.length, b4 (l.filter (fun r => le r 13 1 == 1)).length, v.digest]

/-- One of the last 16 tests, by its number. -/
def State.recentTest (s : State) (id : Nat) : Option SelfTest :=
  s.tests.find? (fun x => x.id.toNat == id && decide (s.nextTest ≤ x.id.toNat + 16))

theorem exec_testResult {s : State} {m : Fin 64} (h : s.Takes m specTestResult) (ok : Bool) :
    exec (.testResult m ok) s = .next (match s.recentTest (le (s.page m) 0x40 4) with
      | none => s.popped.respond m stParam 0x40 []
      | some v =>
        if v.mbx.isSome then s.popped.fail m stBusy
        else if le (s.page m) 0x48 8 = 0 then s.popped.ok m v.summary
        else match s.popped.hostWrite m (BitVec.ofNat 64 (le (s.page m) 0x48 8))
            ((sortByKey (fun r => le r 0 8) v.records).flatMap id) ok with
          | some t => t.ok m v.summary
          | none => s.popped.fail m stRemote) := by
  have hexec : exec (.testResult m ok) s = execTestResult m ok s := rfl
  rw [hexec, execTestResult, State.runCmd_takes _ _ _ _ h]
  rfl

theorem testResult_acts (s : State) (m : Fin 64) (ok : Bool) (h : s.Takes m specTestResult) :
    (s.tests.find? (fun x => x.id.toNat == le (s.page m) 0x40 4 && decide (s.nextTest ≤ x.id.toNat + 16)) = none →
      ∃ t, exec (.testResult m ok) s = .next t ∧ Replied s.popped t m 2 0x40 []) ∧
    (∀ v : SelfTest, s.tests.find? (fun x => x.id.toNat == le (s.page m) 0x40 4 && decide (s.nextTest ≤ x.id.toNat + 16)) = some v →
      (v.mbx.isSome = true → ∃ t, exec (.testResult m ok) s = .next t ∧ Replied s.popped t m 8 0 []) ∧
      (v.mbx = none → ∀ (l : List Bytes) (out : Bytes), l = sortByKey (fun r => le r 0 8) v.records →
        out = pack [b4 l.length, b4 (l.filter (fun r => le r 13 1 == 1)).length, v.digest] →
        (le (s.page m) 0x48 8 = 0 → ∃ t, exec (.testResult m ok) s = .next t ∧ Replied s.popped t m 0 0 out) ∧
        (le (s.page m) 0x48 8 ≠ 0 →
          (ok = true → s.popped.hostReach m (BitVec.ofNat 64 (le (s.page m) 0x48 8)) = true → ∃ t,
            exec (.testResult m ok) s = .next t ∧ Replied (s.popped.sentTo m (le (s.page m) 0x48 8) (l.flatMap id)) t m 0 0 out) ∧
          ((ok = false ∨ s.popped.hostReach m (BitVec.ofNat 64 (le (s.page m) 0x48 8)) = false) →
            ∃ t, exec (.testResult m ok) s = .next t ∧ Replied s.popped t m 12 0 [])))) := by
  rw [exec_testResult h ok]
  refine ⟨fun hnone => ?_, fun v hv => ?_⟩
  · rw [show s.recentTest _ = none from hnone]
    exact ⟨_, rfl, State.respond_replied ..⟩
  · rw [show s.recentTest _ = some v from hv]
    dsimp only
    refine ⟨fun hbusy => ⟨_, congrArg _ (if_pos hbusy), State.fail_replied ..⟩, fun hdone l out hlist hout => ?_⟩
    rw [if_neg (by simp [hdone])]
    subst hlist hout
    refine ⟨fun hdst => ⟨_, congrArg _ (if_pos hdst), State.ok_replied ..⟩, fun hdst => ?_⟩
    rw [if_neg hdst]
    refine ⟨fun hok hreach => ?_, fun hfail => ?_⟩
    · rw [State.hostWrite_sent _ hok hreach]
      exact ⟨_, rfl, State.ok_replied ..⟩
    · rw [State.hostWrite_fails _ hfail]
      exact ⟨_, rfl, State.fail_replied ..⟩

/-! ### SPARE_QUERY and WEAR_READ -/

/-- A command whose data go to the address at `off` of its page answers their length, or REMOTE_ERROR (R433, R485). -/
theorem acts_sendList {i : Fin 64 → Instr} {c : CmdSpec} {ok : Bool} {off : Nat} {data : Bytes → State → Bytes}
    (hexec : ∀ m s, exec (i m) s = .next (s.runCmd m c (fun pg t => t.sendList m (le pg off 8) (data pg t) ok))) :
    Acts i c (fun m pg s => if ok && s.hostReach m (BitVec.ofNat 64 (le pg off 8)) then none else some (12, 0))
      (fun m pg s => s.sentTo m (le pg off 8) (data pg s)) (fun _ pg s => b4 (data pg s).length) := by
  intro s m h
  rw [hexec, State.runCmd_takes _ _ _ _ h, State.sendList]
  dsimp only
  by_cases hreach : (ok && s.popped.hostReach m (BitVec.ofNat 64 (le (s.page m) off 8))) = true
  · obtain ⟨hok, hhost⟩ := Bool.and_eq_true_iff.mp hreach
    rw [if_pos hreach, State.hostWrite_sent _ hok hhost]
    exact ⟨fun _ _ => nofun, fun _ => ⟨_, rfl, State.ok_replied ..⟩⟩
  · rw [if_neg hreach, State.hostWrite_fails _ (by simpa [← Bool.not_eq_true, imp_iff_not_or] using hreach)]
    refine ⟨fun st d hwhy => ?_, nofun⟩
    cases hwhy
    exact ⟨_, rfl, State.fail_replied ..⟩

/-! ### UNIT_RETIRE -/

/-- A spare stands ready for a tile or core that is to be retired (R25, R484). -/
theorem State.retireCore_eq (s : State) (m : Fin 64) (u : Nat) : s.retireCore m u =
    if s.spares.lost.contains (bits u 32 16) then s.fail m 3
    else if s.freePositions (bits u 32 16 / 32) = [] ∧
        ¬ (bits u 56 8 = 1 ∧ s.spareTileFree (s.physCore (bits u 32 16)) = true) then s.fail m 10
    else match s.coreOwner (bits u 32 16) with
      | some p => ((s.modPart p (fun q => { q with
          unitWaits := q.unitWaits ++ [UnitWait.mk (BitVec.ofNat 64 u) (some m) none] })).background m).idleBoundary p
      | none => match s.retireNow ⟨BitVec.ofNat 64 u, some m, none⟩ with
        | some t => t.ok m []
        | none => s.fail m 10 := by
  rw [State.retireCore]
  simp only [Bool.not_eq_true', Bool.or_eq_false_iff, Bool.not_eq_false', List.isEmpty_iff, Bool.and_eq_false_iff,
    beq_eq_false_iff_ne, not_and_or, Bool.not_eq_true, ne_eq]
  rfl

theorem exec_unitRetire {s : State} {m : Fin 64} (h : s.Takes m specUnitRetire) {u : Nat} (hu : u = le (s.page m) 0x40 8) :
    exec (.unitRetire m) s = .next
      (if bits u 56 8 = 1 ∨ bits u 56 8 = 2 then
        if s.popped.retireWaits u then s.popped.fail m 8 else s.popped.retireCore m u
      else if bits u 56 8 = 9 then s.popped.retireLane m (bits u 32 16) (bits u 16 16)
      else if bits u 56 8 = 0xA then s.popped.retireSup m (bits u 32 16)
      else s.popped.fail m 7) := by
  have hexec : exec (.unitRetire m) s = execUnitRetire m s := rfl
  rw [hexec, execUnitRetire, State.runCmd_takes _ _ _ _ h]
  dsimp only
  rw [← hu]
  generalize bits u 56 8 = kind
  split
  · rw [if_pos (Or.inl rfl)]; rfl
  · rw [if_pos (Or.inr rfl)]; rfl
  · rfl
  · rfl
  · rename_i h1 h2 h9 hA
    rw [if_neg (not_or.mpr ⟨h1, h2⟩), if_neg h9, if_neg hA]; rfl

theorem unitRetire_core {s : State} {m : Fin 64} (h : s.Takes m specUnitRetire) {u core : Nat} (hu : u = le (s.page m) 0x40 8)
    (hcore : core = bits u 32 16) (hkind : bits u 56 8 = 1 ∨ bits u 56 8 = 2) :
    (∀ st : Nat, (if s.popped.retireWaits u then some 8 else if s.spares.lost.contains core then some 3
        else if s.popped.freePositions (core / 32) = [] ∧ ¬ (bits u 56 8 = 1 ∧ s.popped.spareTileFree (s.popped.physCore core) = true)
          then some 10
        else if s.coreOwner core = none ∧ s.popped.retireNow ⟨BitVec.ofNat 64 u, some m, none⟩ = none then some 10 else none) = some st →
      ∃ t, exec (.unitRetire m) s = .next t ∧ Replied s.popped t m st 0 []) ∧
    (s.popped.retireWaits u = false → s.spares.lost.contains core = false →
      (s.popped.freePositions (core / 32) ≠ [] ∨ (bits u 56 8 = 1 ∧ s.popped.spareTileFree (s.popped.physCore core) = true)) →
      (∀ v : State, s.coreOwner core = none → s.popped.retireNow ⟨BitVec.ofNat 64 u, some m, none⟩ = some v →
        ∃ t : State, exec (.unitRetire m) s = .next t ∧ Replied v t m 0 0 []) ∧
      (∀ p : Nat, s.coreOwner core = some p → exec (.unitRetire m) s = .next (((s.popped.modPart p (fun q => { q with
        unitWaits := q.unitWaits ++ [UnitWait.mk (BitVec.ofNat 64 u) (some m) none] })).background m).idleBoundary p))) := by
  have hlost : s.popped.spares.lost = s.spares.lost := rfl
  have howner : s.popped.coreOwner core = s.coreOwner core := rfl
  rw [exec_unitRetire h hu, if_pos hkind, State.retireCore_eq, ← hcore, hlost, howner]
  refine ⟨fun st hst => ?_, fun hwait hkept hspare => ?_⟩
  · by_cases hwait : s.popped.retireWaits u = true
    · rw [if_pos hwait] at hst ⊢
      cases hst
      exact ⟨_, rfl, State.fail_replied ..⟩
    rw [if_neg hwait] at hst ⊢
    by_cases hkept : s.spares.lost.contains core = true
    · rw [if_pos hkept] at hst ⊢
      cases hst
      exact ⟨_, rfl, State.fail_replied ..⟩
    rw [if_neg hkept] at hst ⊢
    by_cases hspare : s.popped.freePositions (core / 32) = [] ∧
        ¬ (bits u 56 8 = 1 ∧ s.popped.spareTileFree (s.popped.physCore core) = true)
    · rw [if_pos hspare] at hst ⊢
      cases hst
      exact ⟨_, rfl, State.fail_replied ..⟩
    rw [if_neg hspare] at hst ⊢
    split at hst
    · rename_i hnow
      cases hst
      rw [hnow.1]
      dsimp only
      rw [hnow.2]
      exact ⟨_, rfl, State.fail_replied ..⟩
    · cases hst
  · rw [if_neg (Bool.eq_false_iff.mp hwait), if_neg (Bool.eq_false_iff.mp hkept),
      if_neg (fun hno => hspare.elim (fun hfree => hfree hno.1) hno.2)]
    refine ⟨fun v hnone hnow => ?_, fun p hp => by rw [hp]⟩
    rw [hnone]
    dsimp only
    rw [hnow]
    exact ⟨_, rfl, State.ok_replied ..⟩

theorem unitRetire_lane {s : State} {m : Fin 64} (h : s.Takes m specUnitRetire) {u core : Nat} (hu : u = le (s.page m) 0x40 8)
    (hcore : core = bits u 32 16) (hkind : bits u 56 8 = 9) (x : Port) (lane : Nat) (hx : x = s.port core)
    (hlane : lane = bits u 16 16) :
    (lane < 4 → x.spareOn = true → x.spareState = 0 → exec (.unitRetire m) s = .next (((s.popped.setPort core { x with
      spareState := 1, failing := some (Fin.ofNat 5 lane, s.now), laneMap := BitVec.ofNat 3 lane, retire := some m }).emit
        (.laneMap (Fin.ofNat 4 core) (BitVec.ofNat 3 lane))).background m)) ∧
    ((4 ≤ lane ∨ x.spareOn = false ∨ x.spareState ≠ 0) →
      ∃ t, exec (.unitRetire m) s = .next t ∧ Replied s.popped t m 10 0 []) := by
  have hport : s.popped.port core = x := hx.symm
  rw [exec_unitRetire h hu, if_neg (by omega), if_pos hkind, State.retireLane, ← hcore, ← hlane, hport]
  dsimp only
  refine ⟨fun hlt hon hfree => ?_, fun hno => ?_⟩
  · rw [if_pos (by simp [hlt, hon, hfree])]
    rfl
  · rw [if_neg]
    · exact ⟨_, rfl, State.fail_replied ..⟩
    · simp only [Bool.and_eq_true, decide_eq_true_eq, beq_iff_eq]
      rintro ⟨⟨hlt, hon⟩, hfree⟩
      rcases hno with hno | hno | hno
      · omega
      · simp [hon] at hno
      · exact hno hfree

/-- Supervisor `n` works no longer (R484). -/
def State.supOut (s : State) (n : Nat) : State :=
  ({ s with sup := { s.sup with working := s.sup.working &&& ~~~ BitVec.ofNat 4 (2 ^ n) } } : State).wear (supUnit n) 0 2 0 0xFFFF 0

/-- The retirement of a supervisor is answered when a spare is standby (R484). -/
def State.awaitSup (s : State) (m : Fin 64) : State := ({ s with sup := { s.sup with retireMbx := some m } } : State).background m

/-- A working supervisor without a role, other than `n`. -/
def Sups.hasSpare (y : Sups) (n : Nat) : Bool :=
  (List.range 4).any (fun k => y.working.getLsbD k && k != y.primary.val && k != n && !(y.standbyValid && k == y.standby.val))

theorem State.retireSup_eq (s : State) (m : Fin 64) (n : Nat) : s.retireSup m n =
    if s.sup.working.getLsbD n = false then s.fail m 3
    else if s.sup.retireMbx.isSome then s.fail m 8
    else if n = s.sup.primary.val then
      if s.sup.standbyValid = true ∧ s.sup.hasSpare n = true then ((s.takeover 2 true).supOut n).awaitSup m else s.fail m 10
    else if s.sup.standbyValid = true ∧ n = s.sup.standby.val then
      if s.sup.hasSpare n then
        ((State.supOut { s with sup := { s.sup with standbyValid := false } } n).loadSpare).awaitSup m
      else s.fail m 10
    else if s.sup.loading.map (·.val) = some n then ((s.supOut n).loadSpare).ok m []
    else (s.supOut n).ok m [] := by
  rw [State.retireSup]
  simp only [Bool.not_eq_true', Bool.and_eq_true, beq_iff_eq]
  rfl

theorem unitRetire_sup {s : State} {m : Fin 64} (h : s.Takes m specUnitRetire) {u core : Nat} (hu : u = le (s.page m) 0x40 8)
    (hcore : core = bits u 32 16) (hkind : bits u 56 8 = 0xA) (y : Sups) (spare : Bool) (off : State → State) (hy : y = s.sup)
    (hspare : spare = (List.range 4).any (fun k => y.working.getLsbD k && k != y.primary.val && k != core &&
      !(y.standbyValid && k == y.standby.val)))
    (hoff : off = (fun t => ({ t with sup := { t.sup with working := t.sup.working &&& ~~~ BitVec.ofNat 4 (2 ^ core) } } : State).wear
      (supUnit core) 0 2 0 0xFFFF 0)) :
    (y.working.getLsbD core = false → ∃ t, exec (.unitRetire m) s = .next t ∧ Replied s.popped t m 3 0 []) ∧
    (y.working.getLsbD core = true →
      (y.retireMbx.isSome = true → ∃ t, exec (.unitRetire m) s = .next t ∧ Replied s.popped t m 8 0 []) ∧
      (y.retireMbx = none → ∀ w : State → State,
        w = (fun t => ({ t with sup := { t.sup with retireMbx := some m } } : State).background m) →
        (core = y.primary.val → y.standbyValid = true → spare = true →
          exec (.unitRetire m) s = .next (w (off (s.popped.takeover 2 true)))) ∧
        (core ≠ y.primary.val → y.standbyValid = true → core = y.standby.val → spare = true →
          exec (.unitRetire m) s = .next (w (off { s.popped with sup := { y with standbyValid := false } }).loadSpare)) ∧
        ((core = y.primary.val ∧ y.standbyValid = false) ∨
            ((core = y.primary.val ∨ (y.standbyValid = true ∧ core = y.standby.val)) ∧ spare = false) →
          ∃ t, exec (.unitRetire m) s = .next t ∧ Replied s.popped t m 10 0 []) ∧
        (core ≠ y.primary.val → ¬ (y.standbyValid = true ∧ core = y.standby.val) → ∃ t, exec (.unitRetire m) s = .next t ∧
          Replied (if y.loading.map (·.val) = some core then (off s.popped).loadSpare else off s.popped) t m 0 0 []))) := by
  have hsup : s.popped.sup = y := hy.symm
  have hspare' : spare = y.hasSpare core := hspare
  have hoff' : off = fun t => t.supOut core := hoff
  clear hspare hoff
  subst hspare' hoff'
  rw [exec_unitRetire h hu, if_neg (by omega), if_neg (by omega), if_pos hkind, State.retireSup_eq, ← hcore, hsup]
  refine ⟨fun hdead => ⟨_, by rw [if_pos hdead], State.fail_replied ..⟩, fun hworks => ?_⟩
  rw [if_neg (by simp [hworks])]
  refine ⟨fun hbusy => ⟨_, by rw [if_pos hbusy], State.fail_replied ..⟩, fun hfree w hw => ?_⟩
  have hw' : w = fun t => t.awaitSup m := hw
  clear hw
  subst hw'
  rw [if_neg (by simp [hfree])]
  refine ⟨fun hprim hval hsp => ?_, fun hprim hval hstand hsp => ?_, fun hno => ?_, fun hprim hstand => ?_⟩
  · rw [if_pos hprim, if_pos ⟨hval, hsp⟩]
  · rw [if_neg hprim, if_pos ⟨hval, hstand⟩, if_pos hsp]
  · by_cases hprim : core = y.primary.val
    · rw [if_pos hprim, if_neg]
      · exact ⟨_, rfl, State.fail_replied ..⟩
      · rcases hno with ⟨-, hval⟩ | ⟨-, hsp⟩
        · simp [hval]
        · simp [hsp]
    · obtain ⟨hrole, hsp⟩ := hno.resolve_left (fun hp => hprim hp.1)
      rw [if_neg hprim, if_pos (hrole.resolve_left hprim), if_neg (by simp [hsp])]
      exact ⟨_, rfl, State.fail_replied ..⟩
  · rw [if_neg hprim, if_neg hstand]
    split
    · exact ⟨_, rfl, State.ok_replied ..⟩
    · exact ⟨_, rfl, State.ok_replied ..⟩

theorem unitRetire_other {s : State} {m : Fin 64} (h : s.Takes m specUnitRetire) {u : Nat} (hu : u = le (s.page m) 0x40 8)
    (hkind : ¬ bits u 56 8 ∈ [1, 2, 9, 0xA]) : ∃ t, exec (.unitRetire m) s = .next t ∧ Replied s.popped t m 7 0 [] := by
  simp only [List.mem_cons, List.not_mem_nil, or_false, not_or] at hkind
  obtain ⟨h1, h2, h9, hA⟩ := hkind
  rw [exec_unitRetire h hu, if_neg (not_or.mpr ⟨h1, h2⟩), if_neg h9, if_neg hA]
  exact ⟨_, rfl, State.fail_replied ..⟩

/-- Settles O41, one lemma for each command and, of UNIT_RETIRE, for each kind of unit. -/
theorem serviceCommandsAct : Obligations.ServiceCommandsAct := by
  unfold Obligations.ServiceCommandsAct
  refine ⟨memTierMove_acts, testStart_acts, testResult_acts, fun ok => ⟨acts_sendList fun _ _ => rfl, ?_⟩,
    fun s m u core h hu hcore => ⟨unitRetire_core h hu hcore, unitRetire_lane h hu hcore, unitRetire_sup h hu hcore,
      unitRetire_other h hu⟩⟩
  exact acts_sendList
    (data := fun pg s => ((s.flash.wear.filter (fun r => le pg 0x40 4 ≤ le r 24 4)).take 2048).flatMap id) fun _ _ => rfl

end Sys2Proof.Machine
end

section
/-! PROOFS. A transfer of the DMA unit starts and lands (R31, R182, R211, R388). -/

namespace Sys2Proof.Machine

/-! ### What a store of a program leaves alone: the work of every core -/

/-- Two cores that differ in nothing by which engines and sequencer go on. -/
structure Core.SameWork (k l : Core) : Prop where
  ctx : l.ctx = k.ctx
  seq : l.seq = k.seq
  qD : l.qD = k.qD
  trapDue : l.trapDue = k.trapDue
  gate : l.gate = k.gate
  runs : l.runs = k.runs

theorem Core.SameWork.refl (k : Core) : k.SameWork k := ⟨rfl, rfl, rfl, rfl, rfl, rfl⟩

theorem Core.SameWork.trans {k l m : Core} (h : k.SameWork l) (g : l.SameWork m) : k.SameWork m :=
  ⟨g.ctx.trans h.ctx, g.seq.trans h.seq, g.qD.trans h.qD, g.trapDue.trans h.trapDue, g.gate.trans h.gate, g.runs.trans h.runs⟩

theorem Core.SameWork.noTrapEnds {k l : Core} (h : k.SameWork l) (hk : k.NoTrapEnds) : l.NoTrapEnds := by
  unfold Core.NoTrapEnds at *
  rwa [h.trapDue, h.gate, h.runs]

theorem Core.tally_sameWork (k : Core) (a : StoreAcc) (tag : Option Nat) : k.SameWork (k.tally a tag) := by
  unfold Core.tally
  dsimp only
  split
  · split
    · exact ⟨rfl, rfl, rfl, rfl, rfl, rfl⟩
    · exact ⟨rfl, rfl, rfl, rfl, rfl, rfl⟩
  · exact ⟨rfl, rfl, rfl, rfl, rfl, rfl⟩

theorem Core.tally_dma (k : Core) (a : StoreAcc) (tag : Option Nat) : (k.tally a tag).dma = k.dma := by
  unfold Core.tally
  dsimp only
  split
  · split <;> rfl
  · rfl

theorem Core.dropSlot_tally (k : Core) (a : StoreAcc) (tag : Option Nat) (f : DmaXfer → Bool) :
    { k.tally a tag with dma := (k.tally a tag).dma.filter f } = { k.tally a tag with dma := k.dma.filter f } := by
  rw [Core.tally_dma]

theorem Core.tally_pc (k : Core) (a : StoreAcc) (tag : Option Nat) : (k.tally a tag).pc = k.pc := by
  unfold Core.tally
  dsimp only
  split
  · split <;> rfl
  · rfl

theorem Core.regWrite_sameWork (k : Core) (off : Nat) (v : W64) : k.SameWork (k.regWrite off v) := by
  unfold Core.regWrite
  split
  · split
    · exact ⟨rfl, rfl, rfl, rfl, rfl, rfl⟩
    · exact .refl k
  · split
    · exact ⟨rfl, rfl, rfl, rfl, rfl, rfl⟩
    · split
      · exact ⟨rfl, rfl, rfl, rfl, rfl, rfl⟩
      · exact .refl k

/-- Two states in the same hub cycle whose cores have the same work, for the same contexts. -/
structure State.SameWork (s t : State) : Prop where
  now : t.now = s.now
  dev : t.dev = s.dev
  ctxs : t.ctxs = s.ctxs
  core : ∀ n, (s.core n).SameWork (t.core n)

theorem State.SameWork.refl (s : State) : s.SameWork s := ⟨rfl, rfl, rfl, fun _ => .refl _⟩

theorem State.SameWork.trans {s t u : State} (h : s.SameWork t) (g : t.SameWork u) : s.SameWork u :=
  ⟨g.now.trans h.now, g.dev.trans h.dev, g.ctxs.trans h.ctxs, fun n => (h.core n).trans (g.core n)⟩

theorem State.SameWork.of_cores {s t : State} (hnow : t.now = s.now) (hdev : t.dev = s.dev) (hctxs : t.ctxs = s.ctxs)
    (hcores : t.cores = s.cores) : s.SameWork t := by
  refine ⟨hnow, hdev, hctxs, fun n => ?_⟩
  have hcore : t.core n = s.core n := by unfold State.core; rw [hcores]
  rw [hcore]
  exact .refl _

theorem OnlySent.sameWork {s t : State} (h : OnlySent s t) : s.SameWork t :=
  .of_cores (by rw [h]) (by rw [h]) h.ctxs h.cores

theorem State.setCore_sameWork {s : State} {n : Nat} {k : Core} (h : (s.core n).SameWork k) : s.SameWork (s.setCore n k) := by
  refine ⟨rfl, rfl, rfl, fun j => ?_⟩
  by_cases hj : j = n
  · subst hj
    rwa [State.setCore_core_same]
  · rw [State.setCore_core_ne _ _ hj]
    exact .refl _

theorem State.modCore_sameWork {s : State} {n : Nat} {f : Core → Core} (h : ∀ k : Core, k.SameWork (f k)) :
    s.SameWork (s.modCore n f) := State.setCore_sameWork (h _)

theorem State.SameWork.foldl {α : Type} {f : State → α → State} (hf : ∀ (s : State) a, s.SameWork (f s a)) (l : List α) (s : State) :
    s.SameWork (l.foldl f s) := by
  induction l generalizing s with
  | nil => exact .refl s
  | cons a l ih => exact (hf s a).trans (ih _)

theorem State.write_sameWork (s : State) (a : Nat) (bs : Bytes) : s.SameWork (s.write a bs) := by
  unfold State.write
  split
  · exact .of_cores rfl rfl rfl rfl
  · exact .of_cores rfl rfl rfl rfl

/-- A store of a program writes memory, or registers of a core that its engines do not go by. -/
theorem State.busWrite_sameWork (s : State) (a : Nat) (bs : Bytes) : s.SameWork (s.busWrite a bs) := by
  unfold State.busWrite
  split
  · exact s.write_sameWork a bs
  · split
    · exact .foldl (fun t k => State.modCore_sameWork fun c => c.regWrite_sameWork _ _) _ _
    · exact .refl s

theorem State.storeRuns_sameWork (s : State) (l : List (Nat × Bytes)) : s.SameWork (s.storeRuns l) := by
  unfold State.storeRuns
  exact State.SameWork.foldl (fun t r => t.busWrite_sameWork r.1 r.2) l s

theorem State.SameWork.ctx? {s t : State} (h : s.SameWork t) (id : Nat) : t.ctx? id = s.ctx? id := by
  unfold State.ctx?; rw [h.ctxs]

theorem State.SameWork.ctxOf {s t : State} (h : s.SameWork t) (n : Nat) : t.ctxOf n = s.ctxOf n := by
  unfold State.ctxOf; rw [(h.core n).ctx]

theorem State.SameWork.localAddr {s t : State} (h : s.SameWork t) (a : Nat) : t.localAddr a = s.localAddr a := by
  unfold State.localAddr; rw [h.dev]

/-! ### A DMA queue with nothing in it -/

/-- A core that runs with an empty DMA queue, between no trap and its halt. -/
structure Core.DmaIdle (k : Core) : Prop where
  seq : k.seq = .running
  qD : k.qD = []
  noTrap : k.NoTrapEnds

theorem Core.SameWork.dmaIdle {k l : Core} (h : k.SameWork l) (hk : k.DmaIdle) : l.DmaIdle :=
  ⟨h.seq.trans hk.seq, h.qD.trans hk.qD, h.noTrapEnds hk.noTrap⟩

/-- Nothing follows on such a core from what its DMA unit has done. -/
theorem State.turns_dmaIdle {s : State} {c : Nat} (h : (s.core c).DmaIdle) (n : Nat) :
    (State.pump n (s.trapHalt c) c .dma).settleCore c = s := by
  have hempty : (s.core c).queue .dma = [] := h.qD
  rw [State.trapHalt_none _ _ h.noTrap, State.pump_empty _ _ _ _ hempty,
    State.settleCore_running _ _ (fun q hq => by rw [h.seq] at hq; cases hq) h.noTrap]

theorem State.turn_dmaIdle {s : State} {c : Nat} (h : (s.core c).DmaIdle) : s.turn c .dma = s := by
  have hturns := State.turns_dmaIdle h 9
  rwa [State.trapHalt_none _ _ h.noTrap] at hturns

/-! ### DMOV at issue -/

theorem State.exec_dmov (c : Fin 1536) (w : InstrWord) (s : State) :
    exec (.dmov c w .clean) s = .next (s.issueTo c.val 0x60 w .dma (dmovLegal w) false) := rfl

theorem exec_dmov_resent (s : State) (c : Fin 1536) (w : InstrWord) (t : State) (n : Nat)
    (h : (s.core c.val).issuing = true) (ht : exec (.dmov c w .clean) s = .next t) : exec (.dmov c w (.resent n)) s =
      .next { t with health := { t.health with hopResend := satAdd t.health.hopResend (min n 2) } } := by
  have hexec : exec (.dmov c w (.resent n)) s = execDmov c w (.resent n) s := rfl
  rw [State.exec_dmov] at ht
  injection ht with ht
  rw [hexec, execDmov, ht, h]
  rfl

/-- A core past an instruction differs from before in PC, issue number and flags only. -/
theorem State.issued_frame (s : State) (c op : Nat) (w : InstrWord) :
    (s.core c).SameWork (s.issued c op w) ∧ (s.issued c op w).dma = (s.core c).dma ∧
    (s.issued c op w).dmaSeq = (s.core c).dmaSeq ∧ (s.issued c op w).gen = (s.core c).gen ∧
    (s.issued c op w).pc = (s.core c).pc + 1 := by
  unfold State.issued Core.takeWait Core.advance
  split
  · exact ⟨⟨rfl, rfl, rfl, rfl, rfl, rfl⟩, rfl, rfl, rfl, rfl⟩
  · exact ⟨⟨rfl, rfl, rfl, rfl, rfl, rfl⟩, rfl, rfl, rfl, rfl⟩

theorem State.IssuesTo.dmaIdle {s : State} {c op : Nat} {w : InstrWord} (h : s.IssuesTo c op w .dma) : (s.core c).DmaIdle := by
  obtain ⟨⟨hissuing, -⟩, hqueue, htrap⟩ := h
  rw [Core.issuing, Bool.and_eq_true, beq_iff_eq] at hissuing
  exact ⟨hissuing.1, hqueue, htrap⟩

theorem State.freeSlot_setCore {s : State} {c : Nat} {k : Core} (h : k.dma = (s.core c).dma) :
    (s.setCore c k).freeSlot c = s.freeSlot c := by
  unfold State.freeSlot State.usedSlots
  rw [State.setCore_core_same, h]
  rfl

/-- An instruction at the head of its queue does not wait for itself. -/
theorem Core.waitOk_queued {k : Core} {q : QEntry} (hq : k.qD = []) :
    (k.advance.setQueue .dma [q]).waitOk q = k.waitOk q := by
  have hflag : ∀ n, (k.advance.setQueue .dma [q]).flagOf n = k.flagOf n := fun _ => rfl
  have hheads : ∀ p : QEntry → Bool, p q = false → (k.advance.setQueue .dma [q]).heads.any p = k.heads.any p := fun p hp => by
    simp only [Core.heads, Core.setQueue, Core.advance, hq]
    cases k.qM.head? <;> cases k.qV.head? <;> cases k.qG.head? <;> simp [hp]
  unfold Core.waitOk
  rw [hflag, hheads _ (by simp)]

/-- A legal DMOV for an idle DMA queue starts its transfer at once, and nothing follows where the core goes on as before. -/
theorem exec_dmov_issues {s : State} {c : Fin 1536} {w : InstrWord} (h : s.IssuesTo c.val 0x60 w .dma) (hl : dmovLegal w = true)
    (hslot : (s.freeSlot c.val).isSome = true) {u : State}
    (hu : (s.executing c.val 0x60 w).startDmov c.val (s.issueEntry c.val 0x60 w) = u)
    (hsame : ((s.executing c.val 0x60 w).core c.val).SameWork (u.core c.val)) :
    exec (.dmov c w .clean) s = .next u := by
  have hidle := h.dmaIdle
  have hready : (s.setCore c.val ((s.core c.val).advance.setQueue .dma [s.issueEntry c.val 0x60 w])).headReady c.val
      (s.issueEntry c.val 0x60 w) = true := by
    have hfree : (s.setCore c.val ((s.core c.val).advance.setQueue .dma [s.issueEntry c.val 0x60 w])).freeSlot c.val =
        s.freeSlot c.val := State.freeSlot_setCore rfl
    unfold State.headReady
    dsimp only
    rw [State.setCore_core_same, Core.waitOk_queued hidle.qD, h.1.2, hfree]
    exact hslot
  have hhead : (s.executing c.val 0x60 w).headEffect c.val (s.issueEntry c.val 0x60 w) = u := hu
  have hwork : (u.core c.val).DmaIdle := by
    refine hsame.dmaIdle ?_
    rw [State.executing, State.setCore_core_same]
    exact (s.issued_frame c.val 0x60 w).1.dmaIdle hidle
  rw [State.exec_dmov, hl, State.issueTo_issues _ _ _ _ _ (by decide) h (by decide) hready, hhead, State.turns_dmaIdle hwork]

/-! ### Starting a transfer -/

/-- A transfer as it starts: of the instruction `q`, with the descriptors `desc`, in `slot`. -/
def State.newXfer (s : State) (c : Nat) (q : QEntry) (slot : Fin 16) (desc : Bytes) (phase : DmaPhase) : DmaXfer :=
  ⟨slot, (s.core c).dmaSeq, q, desc, phase, s.now⟩

/-- The descriptors that a DMOV names (R211). -/
def State.dmovDesc (s : State) (c : Nat) (w : InstrWord) : Bytes :=
  s.descBytes c (dmSd w) ++ s.descBytes c (dmDd w) ++ s.descBytes c (dmDd w + 1)

/-- What every DMOV that starts a transfer meets: readable descriptors, a slot, ends of equal count, its own context's flag. -/
structure State.DmovChecked (t : State) (c : Nat) (q : QEntry) (p n : Nat) (slot : Fin 16) (a b : Desc) : Prop where
  src : t.descOk c (dmSd q.w) 64 = true
  dst : t.descOk c (dmDd q.w) (if dmFw q.w then 128 else 64) = true
  pass : t.passOf c = some (p, n)
  free : t.freeSlot c = some slot
  descs : dmDescs q (t.dmovDesc c q.w) = some (a, b)
  flag : dmDfen q.w = true → t.inContext c (dmDfcore q.w) = true
  count : a.count = b.count
  stride : b.zeroStride = false

/-- No descriptor and no flag is out of the context's reach. -/
theorem State.DmovChecked.inReach {t : State} {c : Nat} {q : QEntry} {p n : Nat} {slot : Fin 16} {a b : Desc}
    (h : t.DmovChecked c q p n slot a b) :
    ¬ ((!(t.descOk c (dmSd q.w) 64 && t.descOk c (dmDd q.w) (if dmFw q.w then 128 else 64)) ||
      (dmDfen q.w && !t.inContext c (dmDfcore q.w))) = true) := by
  rw [h.src, h.dst]
  cases hen : dmDfen q.w with
  | false => simp
  | true => rw [h.flag hen]; decide

/-- The descriptors are legal as a pair where not both ends are remote and the flag word's address is aligned. -/
theorem State.DmovChecked.legal {t : State} {c : Nat} {q : QEntry} {p n : Nat} {slot : Fin 16} {a b : Desc}
    (h : t.DmovChecked c q p n slot a b) (hfar : (t.isRemote a.addr && t.isRemote b.addr) = false)
    (hfw : dmFw q.w = true → le (t.dmovDesc c q.w) 144 48 = 0) :
    ¬ ((decide (a.count ≠ b.count) || (t.isRemote a.addr && t.isRemote b.addr) || b.zeroStride ||
      (dmFw q.w && decide (le (t.dmovDesc c q.w) 144 48 ≠ 0))) = true) := by
  rw [hfar, h.stride, decide_eq_false (not_not_intro h.count)]
  cases hw : dmFw q.w with
  | false => simp
  | true => rw [hfw hw]; decide

/-- A DMOV between memories of this device takes its slot (R182, R211). -/
theorem State.startDmov_local {t : State} {c : Nat} {q : QEntry} {p n : Nat} {slot : Fin 16} {a b la lb : Desc}
    (h : t.DmovChecked c q p n slot a b)
    (hfw : dmFw q.w = true → le (t.dmovDesc c q.w) 144 48 = 0 ∧ ∃ v : Nat, t.localAddr (le (t.dmovDesc c q.w) 128 8) = some v ∧
      t.mayWrite p v 8 = true ∧ t.isRemote (le (t.dmovDesc c q.w) 128 8) = false)
    (hna : t.isRemote a.addr = false) (hnb : t.isRemote b.addr = false) (hla : t.localDesc a = some la)
    (hlb : t.localDesc b = some lb) (hread : t.mayReadAll p (la.allRanges ((dmModes q.w).esc && la.side)) = true)
    (hwrite : t.mayWriteAll p (lb.allRanges ((dmModes q.w).esc && lb.side)) = true)
    (hfits : sourceFits la t.bus (dmModes q.w).esc = true) :
    t.startDmov c q = t.addXfer c (t.newXfer c q slot (t.dmovDesc c q.w) .localMove) := by
  have hword : ¬ ((dmFw q.w && !t.isRemote (le (t.dmovDesc c q.w) 128 8) &&
      !((t.localAddr (le (t.dmovDesc c q.w) 128 8)).map (fun v => t.mayWrite p v 8)).getD false) = true) := by
    cases hw : dmFw q.w with
    | false => simp
    | true =>
      obtain ⟨-, v, hv, hmay, -⟩ := hfw hw
      rw [hv, Option.map_some, hmay]
      simp
  have hpeer : ¬ ((dmFw q.w && t.isRemote (le (t.dmovDesc c q.w) 128 8) &&
      (t.qpFor p (le (t.dmovDesc c q.w) 128 8 / 2 ^ 51)).isNone) = true) := by
    cases hw : dmFw q.w with
    | false => simp
    | true =>
      obtain ⟨-, v, -, -, hnear⟩ := hfw hw
      simp [hnear]
  unfold State.startDmov
  dsimp only
  rw [← State.dmovDesc, h.pass, h.free, h.descs]
  dsimp only
  rw [if_neg h.inReach, if_neg (h.legal (by rw [hna]; rfl) fun hw => (hfw hw).1), if_neg hword, if_neg hpeer,
    if_neg (Bool.eq_false_iff.mp hnb), if_neg (Bool.eq_false_iff.mp hna), hla, hlb]
  dsimp only
  rw [hread, hwrite, hfits]
  rfl

/-- A DMOV to another device whose elements need nothing of the destination is converted and sent at once (R388). -/
theorem State.startDmov_send {t : State} {c : Nat} {q : QEntry} {p n : Nat} {slot : Fin 16} {a b la : Desc} {qn : Nat} {u : Qp}
    (h : t.DmovChecked c q p n slot a b) (hfw : dmFw q.w = false)
    (hna : t.isRemote a.addr = false) (hnb : t.isRemote b.addr = true) (hla : t.localDesc a = some la)
    (hqp : t.qpFor p (b.addr / 2 ^ 51) = some (qn, u))
    (hread : t.mayReadAll p (la.allRanges ((dmModes q.w).esc && la.side)) = true)
    (hfits : sourceFits la t.bus (dmModes q.w).esc = true)
    (hgood : t.badRange (la.allRanges ((dmModes q.w).esc && la.side)) = none) (hpar : b.paramRanges = []) :
    t.startDmov c q = ((t.sendXfer c (t.newXfer c q slot (t.dmovDesc c q.w) .localMove) la b (fun _ n => zeros n) qn).1.addXfer c
      (t.newXfer c q slot (t.dmovDesc c q.w)
        (.sending (t.sendXfer c (t.newXfer c q slot (t.dmovDesc c q.w) .localMove) la b (fun _ n => zeros n) qn).2.2))).storeSeen c q
      (moveAcc q la b t.bus (fun _ n => zeros n) t.freeCtr (t.core c).gen) (tagOf (fld q.w 44 7)) := by
  unfold State.startDmov
  dsimp only
  rw [← State.dmovDesc, h.pass, h.free, h.descs]
  dsimp only
  rw [if_neg h.inReach, if_neg (h.legal (by rw [hna]; rfl) (by simp [hfw])), if_neg (by simp [hfw]), if_neg (by simp [hfw]),
    if_pos hnb, hla, hqp]
  dsimp only
  rw [hread, hfits, hgood, hpar]
  rfl

/-- A DMOV from another device asks for the source's ranges (R388). -/
theorem State.startDmov_read {t : State} {c : Nat} {q : QEntry} {p n : Nat} {slot : Fin 16} {a b lb : Desc} {qn : Nat} {u : Qp}
    (h : t.DmovChecked c q p n slot a b) (hfw : dmFw q.w = false)
    (hna : t.isRemote a.addr = true) (hnb : t.isRemote b.addr = false) (hlb : t.localDesc b = some lb)
    (hqp : t.qpFor p (a.addr / 2 ^ 51) = some (qn, u))
    (hwrite : t.mayWriteAll p (lb.allRanges ((dmModes q.w).esc && lb.side)) = true) {msgs : List (Nat × Nat × Bytes)}
    (hmsgs : msgs = (cutMsgs (a.allRanges ((dmModes q.w).esc && a.side))).map (fun r => (r.1, r.2, ([] : Bytes))))
    {want : Nat} (hwant : want = msgs.foldl (fun k r => k + r.2.1) 0) (hsome : want ≠ 0) :
    t.startDmov c q = (t.addXfer c (t.newXfer c q slot (t.dmovDesc c q.w) (.reading [] want))).sendAll qn .read (.dmov c slot)
      msgs := by
  unfold State.startDmov
  dsimp only
  rw [← State.dmovDesc, h.pass, h.free, h.descs]
  dsimp only
  rw [if_neg h.inReach, if_neg (h.legal (by rw [hna, hnb]; rfl) (by simp [hfw])), if_neg (by simp [hfw]), if_neg (by simp [hfw]),
    if_neg (Bool.eq_false_iff.mp hnb), if_pos hna, hlb, hqp]
  dsimp only
  rw [hwrite, ← hmsgs, ← hwant, if_neg hsome]
  rfl

/-! ### DMOV as issued -/

theorem State.newXfer_executing (s : State) (c : Nat) (w : InstrWord) (q : QEntry) (slot : Fin 16) (desc : Bytes)
    (phase : DmaPhase) : (s.executing c 0x60 w).newXfer c q slot desc phase = ⟨slot, (s.core c).dmaSeq, q, desc, phase, s.now⟩ := by
  obtain ⟨-, -, hseq, -, -⟩ := s.issued_frame c 0x60 w
  rw [State.newXfer, State.executing, State.setCore_core_same, hseq]
  rfl

theorem State.addXfer_executing (s : State) (c : Nat) (w : InstrWord) (x : DmaXfer) : (s.executing c 0x60 w).addXfer c x =
    s.setCore c { s.issued c 0x60 w with dma := (s.core c).dma ++ [x], dmaSeq := (s.core c).dmaSeq + 1 } := by
  obtain ⟨-, hdma, hseq, -, -⟩ := s.issued_frame c 0x60 w
  rw [State.addXfer, State.executing, State.modCore_setCore, hdma, hseq]

theorem State.addXfer_sameWork (s : State) (c : Nat) (x : DmaXfer) : s.SameWork (s.addXfer c x) :=
  State.modCore_sameWork fun _ => ⟨rfl, rfl, rfl, rfl, rfl, rfl⟩

theorem exec_dmov_local {s : State} {c : Fin 1536} {w : InstrWord} {t : State} {desc : Bytes} {a b la lb : Desc} {p n : Nat}
    {slot : Fin 16} (h : s.IssuesTo c.val 0x60 w .dma) (hl : dmovLegal w = true) (ht : t = s.executing c.val 0x60 w)
    (hdesc : desc = t.dmovDesc c.val w) (hcheck : t.DmovChecked c.val (s.issueEntry c.val 0x60 w) p n slot a b)
    (hslot : s.freeSlot c.val = some slot)
    (hfw : dmFw w = true → le desc 144 48 = 0 ∧ ∃ v : Nat, t.localAddr (le desc 128 8) = some v ∧ t.mayWrite p v 8 = true ∧
      t.isRemote (le desc 128 8) = false)
    (hna : t.isRemote a.addr = false) (hnb : t.isRemote b.addr = false) (hla : t.localDesc a = some la)
    (hlb : t.localDesc b = some lb) (hread : t.mayReadAll p (la.allRanges ((dmModes w).esc && la.side)) = true)
    (hwrite : t.mayWriteAll p (lb.allRanges ((dmModes w).esc && lb.side)) = true)
    (hfits : sourceFits la t.bus (dmModes w).esc = true) :
    exec (.dmov c w .clean) s = .next (s.setCore c.val { s.issued c.val 0x60 w with
      dma := (s.core c.val).dma ++ [⟨slot, (s.core c.val).dmaSeq, s.issueEntry c.val 0x60 w, desc, .localMove, s.now⟩],
      dmaSeq := (s.core c.val).dmaSeq + 1 }) := by
  subst ht hdesc
  have hstart := State.startDmov_local hcheck hfw hna hnb hla hlb hread hwrite hfits
  rw [← State.addXfer_executing, ← State.newXfer_executing]
  exact exec_dmov_issues h hl (by rw [hslot]; rfl) hstart ((State.addXfer_sameWork ..).core _)

/-! #### Transfers to and from another device -/

theorem State.sendAll_onlySent (s : State) (qn : Nat) (kind : MsgKind) (use : MsgUse) (l : List (Nat × Nat × Bytes)) :
    OnlySent s (s.sendAll qn kind use l) := by
  induction l generalizing s with
  | nil => exact OnlySent.rfl' s
  | cons r l ih =>
    obtain ⟨a, n, bs⟩ := r
    unfold State.sendAll
    split
    · exact (State.sendOn_onlySent ..).trans (ih _)
    · exact OnlySent.rfl' s

/-- Converting and sending a transfer's elements draws a free value and sends. -/
theorem State.sendXfer_onlySent (s : State) (c : Nat) (x : DmaXfer) (la b : Desc) (old : Reader) (qn : Nat) :
    OnlySent { s with freeCtr := s.freeCtr + 1 } (s.sendXfer c x la b old qn).1 := State.sendAll_onlySent ..

/-- A store without a NaN changes the counters of its port only. -/
theorem State.storeSeen_finite (s : State) (c : Nat) (q : QEntry) {acc : StoreAcc} (tag : Option Nat) (h : acc.nan = false) :
    s.storeSeen c q acc tag = s.modCore c (fun k => k.tally acc tag) := by
  rw [State.storeSeen, h]
  rfl

/-- What a transfer that has begun has done to its core and to memory. -/
def State.Began (s u : State) (c : Nat) (x : DmaXfer) : Prop :=
  u.mem = s.mem ∧ (u.core c).pc = (s.core c).pc + 1 ∧ (u.core c).dma = (s.core c).dma ++ [x]

theorem exec_dmov_send {s : State} {c : Fin 1536} {w : InstrWord} {t : State} {desc : Bytes} {a b la : Desc} {p n : Nat}
    {slot : Fin 16} {qn : Nat} {q : Qp} (h : s.IssuesTo c.val 0x60 w .dma) (hl : dmovLegal w = true)
    (ht : t = s.executing c.val 0x60 w) (hdesc : desc = t.dmovDesc c.val w)
    (hcheck : t.DmovChecked c.val (s.issueEntry c.val 0x60 w) p n slot a b) (hslot : s.freeSlot c.val = some slot)
    (hfw : dmFw w = false) (hna : t.isRemote a.addr = false) (hnb : t.isRemote b.addr = true) (hla : t.localDesc a = some la)
    (hqp : t.qpFor p (b.addr / 2 ^ 51) = some (qn, q))
    (hread : t.mayReadAll p (la.allRanges ((dmModes w).esc && la.side)) = true)
    (hfits : sourceFits la t.bus (dmModes w).esc = true)
    (hgood : t.badRange (la.allRanges ((dmModes w).esc && la.side)) = none) (hpar : b.paramRanges = [])
    (hnan : (moveAcc (s.issueEntry c.val 0x60 w) la b t.bus (fun _ n => zeros n) s.freeCtr (s.core c.val).gen).nan = false) :
    ∃ (u : State) (k : Nat), exec (.dmov c w .clean) s = .next u ∧
      s.Began u c.val ⟨slot, (s.core c.val).dmaSeq, s.issueEntry c.val 0x60 w, desc, .sending k, s.now⟩ := by
  subst ht hdesc
  obtain ⟨-, hdma, -, hgen, hpc⟩ := s.issued_frame c.val 0x60 w
  have hstart := State.startDmov_send hcheck hfw hna hnb hla hqp hread hfits hgood hpar
  have hgen' : ((s.executing c.val 0x60 w).core c.val).gen = (s.core c.val).gen := by
    rw [State.executing, State.setCore_core_same, hgen]
  have hctr : (s.executing c.val 0x60 w).freeCtr = s.freeCtr := rfl
  rw [hgen', hctr, State.storeSeen_finite _ _ _ _ hnan] at hstart
  have hsent := State.sendXfer_onlySent (s.executing c.val 0x60 w) c.val
    ((s.executing c.val 0x60 w).newXfer c.val (s.issueEntry c.val 0x60 w) slot
      ((s.executing c.val 0x60 w).dmovDesc c.val (s.issueEntry c.val 0x60 w).w) .localMove) la b (fun _ n => zeros n) qn
  generalize (s.executing c.val 0x60 w).sendXfer _ _ _ _ _ _ = r at hstart hsent
  obtain ⟨v, m, k⟩ := r
  have hcore : v.core c.val = s.issued c.val 0x60 w := (hsent.core _).trans (State.setCore_core_same ..)
  refine ⟨_, k, exec_dmov_issues h hl (by rw [hslot]; rfl) hstart ?_, hsent.mem, ?_⟩
  · have hfree : (s.executing c.val 0x60 w).SameWork { s.executing c.val 0x60 w with freeCtr := s.freeCtr + 1 } :=
      .of_cores rfl rfl rfl rfl
    exact ((hfree.trans hsent.sameWork).trans ((v.addXfer_sameWork _ _).trans
      (State.modCore_sameWork fun x => x.tally_sameWork _ _))).core _
  · rw [State.modCore, State.setCore_core_same, Core.tally_pc, Core.tally_dma, State.addXfer, State.modCore,
      State.setCore_core_same, hcore, hdma, hpc, State.newXfer_executing]
    exact ⟨rfl, rfl⟩

theorem le_foldl_add {α : Type} (f : α → Nat) (l : List α) (a : Nat) :
    a ≤ l.foldl (fun k x => k + f x) a ∧ ∀ x ∈ l, f x ≤ l.foldl (fun k x => k + f x) a := by
  induction l generalizing a with
  | nil => simp
  | cons y l ih =>
    obtain ⟨hacc, hall⟩ := ih (a + f y)
    rw [List.foldl_cons]
    refine ⟨by omega, fun x hx => ?_⟩
    rcases List.mem_cons.mp hx with rfl | hx
    · omega
    · exact hall x hx

/-- The first message of each range. -/
theorem first_mem_cutMsgs {l : List (Nat × Nat)} {r : Nat × Nat} (h : r ∈ l) (hr : r.2 ≠ 0) :
    (r.1, min 0x100000 r.2) ∈ cutMsgs l := by
  refine List.mem_flatMap.mpr ⟨r, h, List.mem_map.mpr ⟨0, List.mem_range.mpr ?_, rfl⟩⟩
  unfold ceilDiv
  omega

theorem wanted_ne_zero {l : List (Nat × Nat)} (hne : l ≠ []) (h : ∀ r ∈ l, r.2 ≠ 0) :
    ((cutMsgs l).map (fun r => (r.1, r.2, ([] : Bytes)))).foldl (fun k r => k + r.2.1) 0 ≠ 0 := by
  obtain ⟨r, hr⟩ := List.exists_mem_of_ne_nil l hne
  have hlen := h r hr
  have hle := (le_foldl_add (fun r : Nat × Nat × Bytes => r.2.1) _ 0).2 _
    (List.mem_map_of_mem (f := fun r : Nat × Nat => (r.1, r.2, ([] : Bytes))) (first_mem_cutMsgs hr hlen))
  have hmin : min 0x100000 r.2 ≠ 0 := by omega
  exact fun hzero => hmin (Nat.le_zero.mp (hzero ▸ hle))

theorem exec_dmov_read {s : State} {c : Fin 1536} {w : InstrWord} {t : State} {desc : Bytes} {a b lb : Desc} {p n : Nat}
    {slot : Fin 16} {qn : Nat} {q : Qp} (h : s.IssuesTo c.val 0x60 w .dma) (hl : dmovLegal w = true)
    (ht : t = s.executing c.val 0x60 w) (hdesc : desc = t.dmovDesc c.val w)
    (hcheck : t.DmovChecked c.val (s.issueEntry c.val 0x60 w) p n slot a b) (hslot : s.freeSlot c.val = some slot)
    (hfw : dmFw w = false) (hna : t.isRemote a.addr = true) (hnb : t.isRemote b.addr = false) (hlb : t.localDesc b = some lb)
    (hqp : t.qpFor p (a.addr / 2 ^ 51) = some (qn, q))
    (hwrite : t.mayWriteAll p (lb.allRanges ((dmModes w).esc && lb.side)) = true)
    (hne : a.allRanges ((dmModes w).esc && a.side) ≠ []) (hlen : ∀ r ∈ a.allRanges ((dmModes w).esc && a.side), r.2 ≠ 0) :
    ∃ (u : State) (k : Nat), exec (.dmov c w .clean) s = .next u ∧
      s.Began u c.val ⟨slot, (s.core c.val).dmaSeq, s.issueEntry c.val 0x60 w, desc, .reading [] k, s.now⟩ := by
  subst ht hdesc
  obtain ⟨-, hdma, -, -, hpc⟩ := s.issued_frame c.val 0x60 w
  obtain ⟨msgs, hmsgs⟩ : ∃ msgs, msgs = (cutMsgs (a.allRanges ((dmModes w).esc && a.side))).map
    (fun r => (r.1, r.2, ([] : Bytes))) := ⟨_, rfl⟩
  obtain ⟨want, hwant⟩ : ∃ want, want = msgs.foldl (fun k r => k + r.2.1) 0 := ⟨_, rfl⟩
  have hsome : want ≠ 0 := by rw [hwant, hmsgs]; exact wanted_ne_zero hne hlen
  have hstart := State.startDmov_read hcheck hfw hna hnb hlb hqp hwrite hmsgs hwant hsome
  have hsent := State.sendAll_onlySent ((s.executing c.val 0x60 w).addXfer c.val ((s.executing c.val 0x60 w).newXfer c.val
    (s.issueEntry c.val 0x60 w) slot ((s.executing c.val 0x60 w).dmovDesc c.val w) (.reading [] want))) qn .read
    (.dmov c.val slot) msgs
  refine ⟨_, want, exec_dmov_issues h hl (by rw [hslot]; rfl) hstart
    (((State.addXfer_sameWork ..).trans hsent.sameWork).core _), hsent.mem, ?_⟩
  have hcore := (hsent.core c.val).trans
    ((congrArg (State.core · c.val) (State.addXfer_executing ..)).trans (State.setCore_core_same ..))
  exact ⟨(congrArg Core.pc hcore).trans hpc, (congrArg Core.dma hcore).trans (by rw [State.newXfer_executing])⟩

/-! ### A transfer lands (R31, R211, R212) -/

/-- An entry that a table holds stays where it is when others are set. -/
theorem tabPut_comm_held {α : Type} {t : Tab α} {i k : Nat} {a : α} (b : α) (h : tabPut t i a = t) (hk : k ≠ i) :
    tabPut (tabPut t k b) i a = tabPut t k b := by
  induction t with
  | nil => cases h
  | cons e t ih =>
    obtain ⟨j, x⟩ := e
    unfold tabPut at h
    split at h
    · exact absurd (congrArg List.length h) (by simp)
    · split at h
      · next hij =>
        subst hij
        simp only [List.cons.injEq, Prod.mk.injEq, true_and, and_true] at h
        subst h
        by_cases hlt : k < i
        · simp [tabPut, hlt, show ¬ i < k by omega, Ne.symm hk]
        · simp [tabPut, hlt, hk]
      · next hlt hne =>
        simp only [List.cons.injEq, true_and] at h
        by_cases hkj : k < j
        · simp [tabPut, hkj, h, show ¬ i < k by omega, Ne.symm hk, hlt, hne]
        · by_cases hkj' : k = j
          · subst hkj'
            simp [tabPut, hlt, hne, h]
          · simp [tabPut, hkj, hkj', hlt, hne, ih h]

/-- The state holds an entry of its own for a core, one that is not the cold core by default. -/
def State.HoldsCore (s : State) (c : Nat) : Prop := s.setCore c (s.core c) = s

theorem State.holdsCore_setCore_same (s : State) (c : Nat) (k : Core) : (s.setCore c k).HoldsCore c := by
  rw [State.HoldsCore, State.setCore_core_same, State.setCore_setCore]

theorem State.HoldsCore.setCore {s : State} {c : Nat} (h : s.HoldsCore c) (n : Nat) (k : Core) : (s.setCore n k).HoldsCore c := by
  by_cases hn : n = c
  · subst hn
    exact s.holdsCore_setCore_same n k
  · unfold State.HoldsCore
    rw [State.setCore_core_ne _ _ (Ne.symm hn)]
    have hcores : tabPut s.cores c (s.core c) = s.cores := congrArg State.cores h
    exact congrArg (fun t => { s with cores := t }) (tabPut_comm_held k hcores hn)

theorem State.HoldsCore.of_cores {s t : State} {c : Nat} (h : s.HoldsCore c) (hcores : t.cores = s.cores) : t.HoldsCore c := by
  have hheld : tabPut s.cores c (s.core c) = s.cores := congrArg State.cores h
  have hcore : t.core c = s.core c := by unfold State.core; rw [hcores]
  unfold State.HoldsCore State.setCore
  rw [hcore, hcores, hheld, ← hcores]

theorem State.HoldsCore.busWrite {s : State} {c : Nat} (h : s.HoldsCore c) (a : Nat) (bs : Bytes) : (s.busWrite a bs).HoldsCore c := by
  unfold State.busWrite
  split
  · unfold State.write
    split
    · exact h.of_cores rfl
    · exact h.of_cores rfl
  · split
    · next n off _ =>
      dsimp only
      generalize List.range _ = l
      induction l generalizing s with
      | nil => exact h
      | cons k l ih => exact ih (h.setCore _ _)
    · exact h

/-- A raised flag of a context's core. -/
def State.raised (s : State) (c n : Nat) : State :=
  s.modCore c (fun v => { v with f := flagSet v.f n (v.flagOf n + 1), flagAt := tabPut v.flagAt n s.now })

theorem State.raised_sameWork (s : State) (c n : Nat) : s.SameWork (s.raised c n) :=
  State.modCore_sameWork fun _ => ⟨rfl, rfl, rfl, rfl, rfl, rfl⟩

theorem State.incFlag_fits {s : State} {c : Nat} {id : BitVec 16} {n src : Nat} {q : QEntry} (hctx : (s.core c).ctx = some id)
    (hfits : (s.core c).flagOf n < 65535) : s.incFlag id.toNat c n src q = s.raised c n := by
  unfold State.incFlag
  rw [hctx, BitVec.ofNat_toNat, BitVec.setWidth_eq, if_pos (by simp)]
  dsimp only
  rw [if_neg (by omega)]
  rfl

/-- The signal of an instruction of a held core's context. -/
theorem State.HoldsCore.signalled {s : State} {c : Nat} (h : s.HoldsCore c) {id : BitVec 16} {q : QEntry}
    (hctx : (s.core c).ctx = some id) (hfits : (s.core c).SignalFits q.w) :
    (if sen q.w = true then s.incFlag id.toNat c (sflag q.w) c q else s) = s.completed c q.w := by
  unfold State.completed State.modCore Core.signalled
  split
  · next hsen => rw [State.incFlag_fits hctx (hfits hsen)]; rfl
  · exact h.symm

/-- What a delivered transfer of context `id` does next: DFFLAG, the flag word, its own signal. -/
theorem State.afterXfer_eq {u y z : State} {c p k n m : Nat} {id : BitVec 16} {x : DmaXfer} (hheld : u.HoldsCore c)
    (hctx : (u.core c).ctx = some id) (hk : k = dmDfcore x.q.w) (hn : n = dmDfflag x.q.w)
    (hen : dmDfen x.q.w = true → (u.core k).ctx = some id ∧ (u.core k).flagOf n < 65535)
    (hy : y = if dmDfen x.q.w then u.raised k n else u)
    (hfw : dmFw x.q.w = true → (u.ctx? id.toNat).isSome = true ∧ u.localAddr (le x.desc 128 8) = some m ∧
      y.refusedRun [(m, slice x.desc 136 8)] = none)
    (hz : z = if dmFw x.q.w then y.busWrite m (slice x.desc 136 8) else y) (hfits : (z.core c).SignalFits x.q.w) :
    u.afterXfer id.toNat p c x = z.completed c x.q.w := by
  have hflag : (if dmDfen x.q.w = true then u.incFlag id.toNat k n c x.q else u) = y := by
    rw [hy]
    split
    · next h => exact State.incFlag_fits (hen h).1 (hen h).2
    · rfl
  have hyheld : y.HoldsCore c := by
    rw [hy]
    split
    · exact hheld.setCore _ _
    · exact hheld
  have hywork : u.SameWork y := by
    rw [hy]
    split
    · exact u.raised_sameWork k n
    · exact .refl u
  have hzheld : z.HoldsCore c := by
    rw [hz]
    split
    · exact hyheld.busWrite _ _
    · exact hyheld
  have hzwork : y.SameWork z := by
    rw [hz]
    split
    · exact y.busWrite_sameWork _ _
    · exact .refl y
  have hzctx : (z.core c).ctx = some id := ((hywork.trans hzwork).core c).ctx.trans hctx
  rw [← hzheld.signalled hzctx hfits, hz]
  unfold State.afterXfer
  dsimp only
  rw [← hk, ← hn, hflag, hywork.ctx?, hywork.localAddr]
  by_cases hword : dmFw x.q.w = true
  · obtain ⟨hlive, haddr, hfree⟩ := hfw hword
    rw [hword, hlive, haddr]
    dsimp only
    rw [hfree]
    rfl
  · rw [Bool.not_eq_true] at hword
    rw [hword]
    rfl

/-- The bytes of a move within the device, its store seen, its slot free. -/
theorem State.dmovComplete_local {s u : State} {c id : Nat} {x : DmaXfer} {la lb a b : Desc} {acc : StoreAcc}
    (hphase : x.phase = .localMove) (hfind : (s.core c).dma.find? (fun t => t.slot == x.slot) = some x)
    (hctx : s.ctxOf c = some id) (hbehind : s.behind c x = false) (hdescs : dmDescs x.q x.desc = some (a, b))
    (hla : s.localDesc a = some la) (hlb : s.localDesc b = some lb)
    (hgood : s.badRange (la.allRanges ((dmModes x.q.w).esc && la.side)) = none)
    (hacc : acc = moveAcc x.q la lb s.bus s.bus s.freeCtr (s.core c).gen) (hnan : acc.nan = false)
    (hruns : s.refusedRun (runsOf (overlay s.busByte acc.writes.reverse)) = none)
    (hu : u = (State.storeRuns { s with freeCtr := s.freeCtr + 1 } (runsOf (overlay s.busByte acc.writes.reverse))).modCore
      c (fun k => { k.tally acc (tagOf (fld x.q.w 44 7)) with dma := k.dma.filter (fun v => v.slot != x.slot) })) :
    s.dmovComplete c x.slot = u.afterXfer id (((s.ctx? id).map (·.part.val)).getD 0) c x := by
  have harrived : x.arrived = true := by unfold DmaXfer.arrived; rw [hphase]
  obtain ⟨v, hv⟩ : ∃ v, v = State.storeRuns { s with freeCtr := s.freeCtr + 1 } (runsOf (overlay s.busByte acc.writes.reverse)) :=
    ⟨_, rfl⟩
  have hland : s.landXfer c id x true = v.modCore c (fun k => k.tally acc (tagOf (fld x.q.w 44 7))) := by
    unfold State.landXfer
    rw [hdescs]
    dsimp only
    rw [hphase]
    dsimp only
    rw [hla, hlb]
    dsimp only
    rw [hgood]
    dsimp only
    rw [← hacc, hruns]
    dsimp only [State.free]
    rw [← hv, State.xferSeen, if_pos rfl, State.storeSeen_finite _ _ _ _ hnan]
  have hwork : s.SameWork (v.modCore c (fun k => k.tally acc (tagOf (fld x.q.w 44 7)))) := by
    have hfree : s.SameWork { s with freeCtr := s.freeCtr + 1 } := .of_cores rfl rfl rfl rfl
    rw [hv]
    exact (hfree.trans (State.storeRuns_sameWork _ _)).trans (State.modCore_sameWork fun k => k.tally_sameWork _ _)
  have hdrop : (v.modCore c (fun k => k.tally acc (tagOf (fld x.q.w 44 7)))).dropXfer c id x.slot true = u := by
    rw [hu, ← hv, State.dropXfer, if_pos rfl]
    unfold State.modCore
    rw [State.setCore_core_same, State.setCore_setCore]
    exact congrArg (v.setCore c) (Core.dropSlot_tally ..)
  unfold State.dmovComplete State.findXfer
  rw [hfind, hctx]
  dsimp only
  rw [harrived, hbehind, hland, (hwork.core c).ctx, hdrop]
  simp

theorem State.exec_dmovComplete (s : State) (c : Fin 1536) (slot : Fin 16) :
    exec (.dmovComplete c slot) s = .next ((s.dmovComplete c.val slot).turn c.val .dma) := rfl

/-- Completing an instruction changes flags only. -/
theorem State.completed_sameWork (s : State) (c : Nat) (w : InstrWord) : s.SameWork (s.completed c w) := by
  refine State.modCore_sameWork fun k => ?_
  unfold Core.signalled
  split
  · exact ⟨rfl, rfl, rfl, rfl, rfl, rfl⟩
  · exact .refl k

theorem State.raised_if_sameWork (s : State) (b : Bool) (c n : Nat) : s.SameWork (if b = true then s.raised c n else s) := by
  split
  · exact s.raised_sameWork c n
  · exact .refl s

theorem State.busWrite_if_sameWork (s : State) (b : Bool) (a : Nat) (bs : Bytes) :
    s.SameWork (if b = true then s.busWrite a bs else s) := by
  split
  · exact s.busWrite_sameWork a bs
  · exact .refl s

theorem exec_dmovComplete_lands {s u y z : State} {c : Fin 1536} {x : DmaXfer} {la lb a b : Desc} {acc : StoreAcc} {k n m : Nat}
    (hphase : x.phase = .localMove) (hfind : (s.core c.val).dma.find? (fun t => t.slot == x.slot) = some x)
    (hrun : (s.ctxOf c.val).isSome = true) (hbehind : s.behind c.val x = false) (hdescs : dmDescs x.q x.desc = some (a, b))
    (hla : s.localDesc a = some la) (hlb : s.localDesc b = some lb)
    (hgood : s.badRange (la.allRanges ((dmModes x.q.w).esc && la.side)) = none)
    (hacc : acc = moveAcc x.q la lb s.bus s.bus s.freeCtr (s.core c.val).gen) (hnan : acc.nan = false)
    (hidle : (s.core c.val).DmaIdle) (hruns : s.refusedRun (runsOf (overlay s.busByte acc.writes.reverse)) = none)
    (hu : u = (State.storeRuns { s with freeCtr := s.freeCtr + 1 } (runsOf (overlay s.busByte acc.writes.reverse))).modCore
      c.val (fun k => { k.tally acc (tagOf (fld x.q.w 44 7)) with dma := k.dma.filter (fun v => v.slot != x.slot) }))
    (hk : k = dmDfcore x.q.w) (hn : n = dmDfflag x.q.w)
    (hen : dmDfen x.q.w = true → (u.core k).ctx = (s.core c.val).ctx ∧ (u.core k).flagOf n < 65535)
    (hy : y = if dmDfen x.q.w then u.raised k n else u)
    (hfw : dmFw x.q.w = true → ((s.ctxOf c.val).bind s.ctx?).isSome = true ∧ s.localAddr (le x.desc 128 8) = some m ∧
      y.refusedRun [(m, slice x.desc 136 8)] = none)
    (hz : z = if dmFw x.q.w then y.busWrite m (slice x.desc 136 8) else y) (hfits : (z.core c.val).SignalFits x.q.w) :
    exec (.dmovComplete c x.slot) s = .next (z.completed c.val x.q.w) := by
  obtain ⟨id, hctx⟩ : ∃ id, (s.core c.val).ctx = some id := by
    rw [State.ctxOf, Option.isSome_map] at hrun
    exact Option.isSome_iff_exists.mp hrun
  have hctxOf : s.ctxOf c.val = some id.toNat := by rw [State.ctxOf, hctx]; rfl
  have huwork : s.SameWork u := by
    have hfree : s.SameWork { s with freeCtr := s.freeCtr + 1 } := .of_cores rfl rfl rfl rfl
    rw [hu]
    refine (hfree.trans (State.storeRuns_sameWork _ _)).trans (State.modCore_sameWork fun v => ?_)
    exact (v.tally_sameWork acc _).trans ⟨rfl, rfl, rfl, rfl, rfl, rfl⟩
  have huheld : u.HoldsCore c.val := by rw [hu]; exact State.holdsCore_setCore_same ..
  have hzwork : s.SameWork z := by
    rw [hz, hy]
    exact (huwork.trans (u.raised_if_sameWork ..)).trans (State.busWrite_if_sameWork ..)
  rw [hctx] at hen
  rw [hctxOf, Option.bind_some, ← huwork.ctx?, ← huwork.localAddr] at hfw
  have hdone := (State.dmovComplete_local hphase hfind hctxOf hbehind hdescs hla hlb hgood hacc hnan hruns hu).trans
    (State.afterXfer_eq huheld (((huwork.core c.val).ctx).trans hctx) hk hn hen hy hfw hz hfits)
  rw [State.exec_dmovComplete, hdone, State.turn_dmaIdle
    (((hzwork.trans (z.completed_sameWork c.val x.q.w)).core c.val).dmaIdle hidle)]

/-- Settles O20: a DMOV's checks lead to its transfer in a slot, sent or asked for where an end is on another device; a
landing transfer writes, frees its slot and raises the flags, and nothing follows on a core with an empty DMA queue. -/
theorem movesStartAndLand : Obligations.MovesStartAndLand := by
  unfold Obligations.MovesStartAndLand
  intro s c
  have hfree {w : InstrWord} {slot : Fin 16} (h : s.freeSlot c.val = some slot) :
      (s.executing c.val 0x60 w).freeSlot c.val = some slot :=
    (State.freeSlot_setCore (s.issued_frame c.val 0x60 w).2.1).trans h
  refine ⟨?_, ?_, ?_, ?_⟩
  · intro w t desc a b la lb p n slot h hl ht hdesc hsrc hdst hpass hslot hdescs hflag hcount hstride hfw hna hnb hla hlb hread
      hwrite hfits
    have hcheck : t.DmovChecked c.val (s.issueEntry c.val 0x60 w) p n slot a b :=
      ⟨hsrc, hdst, hpass, ht ▸ hfree hslot, (congrArg (dmDescs _) hdesc).symm.trans hdescs, hflag, hcount, hstride⟩
    exact exec_dmov_local h hl ht hdesc hcheck hslot hfw hna hnb hla hlb hread hwrite hfits
  · intro w t desc a b la p n slot qn q h hl ht hdesc hsrc hdst hfw hpass hslot hdescs hflag hcount hstride
    have hdst' : t.descOk c.val (dmDd w) (if dmFw w then 128 else 64) = true := by rw [hfw]; exact hdst
    have hcheck : t.DmovChecked c.val (s.issueEntry c.val 0x60 w) p n slot a b :=
      ⟨hsrc, hdst', hpass, ht ▸ hfree hslot, (congrArg (dmDescs _) hdesc).symm.trans hdescs, hflag, hcount, hstride⟩
    exact ⟨fun hna hnb hla hqp hread hfits hgood hpar hnan =>
        exec_dmov_send h hl ht hdesc hcheck hslot hfw hna hnb hla hqp hread hfits hgood hpar hnan,
      fun hna hnb hlb hqp hwrite hne hlen => exec_dmov_read h hl ht hdesc hcheck hslot hfw hna hnb hlb hqp hwrite hne hlen⟩
  · exact fun w t n h ht => exec_dmov_resent s c w t n h ht
  · intro x la lb a b acc u hphase hfind hrun hbehind hdescs hla hlb hgood hacc hnan hqueue hseq htrap hruns hu k n m y z hk hn
      hen hy hfw hz hfits
    have hnow : u.now = s.now := by
      rw [hu]
      exact (State.storeRuns_sameWork { s with freeCtr := s.freeCtr + 1 } _).now
    rw [← hnow] at hy
    exact exec_dmovComplete_lands hphase hfind hrun hbehind hdescs hla hlb hgood hacc hnan ⟨hseq, hqueue, htrap⟩ hruns hu hk hn
      hen hy hfw hz hfits

end Sys2Proof.Machine
end

section
/-! PROOFS. A tile fault that interrupts a pass, where a context number stands twice (R25, R467, R468). -/

namespace Sys2Proof.Machine

/-- A context of partition 0 on core 1, in a given state. -/
def twinContext (st : CtxState) : Context where
  part := 0
  group := 0
  cores := [1]
  umber := false
  step := 9
  pass := 0
  streams := []
  entryPc := 0
  seed := 1
  trap := false
  state := st
  preempt := none
  lateRaised := false
  endedCores := []
  savedCores := []

/-- Step 9 in its first pass. -/
def twinStep : StepRun where
  no := 9
  list := []
  passes := 1
  cur := 0
  passOn := true
  passStart := 0
  start := 0
  decided := true
  overflowReplay := false
  replay := none
  sliceBase := 0
  running := 0
  again := false
  more := []

/-- A partition in that step. -/
def twinPart : Partition := { newPartition [] 0 [] with zeroing := none, step := some twinStep }

/-- Number 7 stands for a context that runs on core 1 and, behind it, for a parked one of the same partition. -/
def twinState : State := { State.reset with
  dev := { State.reset.dev with mode := .serving }
  clusters := [(0, { ClusterState.cold with owner := some 0 })]
  parts := [(0, twinPart)]
  ctxs := [(7, twinContext .running), (7, twinContext .parked)] }

/-- A fault of tile 0 of core 1. -/
def tileReport : FaultReport := ⟨0, BitVec.ofNat 64 (2 ^ 32), 0, .nothing, true⟩

/-- The clause on an owned core leaves the parked context. -/
theorem twinState_parked : (twinState.liveContexts 0).filter (fun x => x.2.state == .parked) = [(7, twinContext .parked)] := by
  decide +kernel

theorem exec_tileReport : exec (.singleFaultReport tileReport) twinState = .next (twinState.unitFault tileReport) := rfl

/-- The parked context is gone with the running one. -/
theorem twinState_struck : (twinState.unitFault tileReport).liveContexts 0 = [] := by decide +kernel

/-- Refutes O29: the clause on an owned core keeps every parked context of the partition in every state, also in one that lists
a number twice. `State.stopPass` removes contexts by number, so in `twinState`, whose number 7 stands for a running and for a
parked context, the parked one goes too. The type of states allows this list; where the numbers are distinct, the
counterexample does not arise. -/
theorem not_singleFaultsAreRepaired : ¬ Obligations.SingleFaultsAreRepaired := by
  unfold Obligations.SingleFaultsAreRepaired
  rintro ⟨-, -, htile, -⟩
  obtain ⟨-, howned⟩ := htile twinState tileReport 1 (by decide) rfl (by decide) (by decide +kernel) (by decide +kernel) _ rfl
  obtain ⟨t, ht, -, -, -, hctxs, -⟩ := howned 0 twinPart twinStep (by decide +kernel) rfl rfl rfl rfl rfl (by decide +kernel)
  rw [exec_tileReport] at ht
  injection ht with ht
  rw [← ht, twinState_struck, twinState_parked] at hctxs
  cases hctxs

end Sys2Proof.Machine
end

section
/-! PROOFS. One step of the machine, and the teardown of a context (R49, R58, R79, R224). -/

namespace Sys2Proof.Machine

/-- Settles O1: `step` looks at nothing but the queue. -/
theorem stepRunsFrontCommand : Obligations.StepRunsFrontCommand := by
  unfold Obligations.StepRunsFrontCommand
  refine ⟨fun s c r => rfl, fun s h => ⟨s.tick, ?_, rfl, rfl, rfl⟩⟩
  rw [step, h]

/-! ### Contexts and cores -/

theorem tabGet?_tabDel_same {α : Type} (t : Tab α) (i : Nat) : tabGet? (tabDel t i) i = none := by
  induction t with
  | nil => rfl
  | cons e t ih =>
    obtain ⟨j, a⟩ := e
    by_cases h : j = i
    · simpa [tabDel, h] using ih
    · simpa [tabDel, h, tabGet?] using ih

theorem tabGet?_tabDel_ne {α : Type} (t : Tab α) {i k : Nat} (h : k ≠ i) : tabGet? (tabDel t i) k = tabGet? t k := by
  induction t with
  | nil => rfl
  | cons e t ih =>
    obtain ⟨j, a⟩ := e
    by_cases hj : j = i
    · subst hj
      simpa [tabDel, tabGet?, Ne.symm h] using ih
    · by_cases hk : j = k
      · subst hk
        simp [tabDel, tabGet?, h]
      · simpa [tabDel, tabGet?, hj, hk] using ih

theorem State.forgetDma_eq (s : State) (c : Nat) (l : List (Fin 16)) :
    s.forgetDma c l = { s with qps := (s.forgetDma c l).qps } := by
  unfold State.forgetDma
  dsimp only
  split <;> rfl

theorem State.forgetDma_core (s : State) (c : Nat) (l : List (Fin 16)) (k : Nat) : (s.forgetDma c l).core k = s.core k := by
  rw [State.forgetDma_eq]; rfl

/-- A core once the context it runs has stopped: its photometer stands as at the start of the pass (R79, R137). -/
def Core.stopped (k : Core) (st : SeqState) : Core := { k.stop st with phot := k.photAtPass }

/-- Core `c` stops where it runs context `id`. -/
def State.stopCore (s : State) (id : Nat) (st : SeqState) (c : Nat) : State :=
  if (s.core c).ctx == some (BitVec.ofNat 16 id) then
    (s.forgetDma c ((s.core c).dma.map (·.slot))).modCore c (fun k => k.stopped st)
  else s

theorem State.stopCore_eq (s : State) (id : Nat) (st : SeqState) (c : Nat) : s.stopCore id st c =
    { s with qps := (s.stopCore id st c).qps, cores := (s.stopCore id st c).cores } := by
  unfold State.stopCore
  split
  · rw [State.forgetDma_eq]; rfl
  · rfl

theorem State.stopCore_core (s : State) (id : Nat) (st : SeqState) (c k : Nat) : (s.stopCore id st c).core k =
    if k = c ∧ (s.core k).ctx = some (BitVec.ofNat 16 id) then (s.core k).stopped st else s.core k := by
  unfold State.stopCore
  by_cases hctx : (s.core c).ctx = some (BitVec.ofNat 16 id)
  · rw [if_pos (beq_iff_eq.mpr hctx), State.modCore]
    by_cases hk : k = c
    · subst hk
      rw [State.setCore_core_same, State.forgetDma_core, if_pos ⟨rfl, hctx⟩]
    · rw [State.setCore_core_ne _ _ hk, State.forgetDma_core, if_neg (fun h => hk h.1)]
  · rw [if_neg (fun h => hctx (beq_iff_eq.mp h)), if_neg (fun (h : k = c ∧ _) => hctx (h.1 ▸ h.2))]

/-- A core of the list that runs the context stops, once however often it is listed; every other core stays. -/
theorem State.stopCores_core (s : State) (id : Nat) (st : SeqState) (l : List Nat) (k : Nat) :
    (l.foldl (fun t c => t.stopCore id st c) s).core k =
      if k ∈ l ∧ (s.core k).ctx = some (BitVec.ofNat 16 id) then (s.core k).stopped st else s.core k := by
  induction l generalizing s with
  | nil => simp
  | cons c l ih =>
    rw [List.foldl_cons, ih, State.stopCore_core]
    have hnone : ((s.core k).stopped st).ctx ≠ some (BitVec.ofNat 16 id) := nofun
    by_cases hhit : k = c ∧ (s.core k).ctx = some (BitVec.ofNat 16 id)
    · rw [if_pos hhit, if_neg (fun h => hnone h.2), if_pos ⟨List.mem_cons.mpr (Or.inl hhit.1), hhit.2⟩]
    · rw [if_neg hhit]
      refine if_congr ?_ rfl rfl
      rw [List.mem_cons]
      tauto

/-- A state that keeps everything but queue pairs and cores. -/
def KeepsButCores (s t : State) : Prop := t = { s with qps := t.qps, cores := t.cores }

theorem KeepsButCores.trans {s t u : State} (h : KeepsButCores s t) (k : KeepsButCores t u) : KeepsButCores s u := by
  unfold KeepsButCores at *; rw [k, h]

theorem State.stopContext_spec (s : State) (id : Nat) (x : Context) (st : SeqState) : KeepsButCores s (s.stopContext id x st) ∧
    ∀ k, (s.stopContext id x st).core k =
      if k ∈ x.cores ∧ (s.core k).ctx = some (BitVec.ofNat 16 id) then (s.core k).stopped st else s.core k := by
  have hcores : KeepsButCores s (x.cores.foldl (fun t c => t.stopCore id st c) s) := by
    generalize x.cores = l
    induction l generalizing s with
    | nil => rfl
    | cons c l ih => exact KeepsButCores.trans (s.stopCore_eq id st c) (ih _)
  have hsaved : ∀ (l : List (Nat × SavedCore)) (t : State),
      KeepsButCores t (l.foldl (fun t v => t.forgetDma v.1 (v.2.remote.map (·.slot))) t) ∧
      (l.foldl (fun t v => t.forgetDma v.1 (v.2.remote.map (·.slot))) t).cores = t.cores := by
    intro l
    induction l with
    | nil => exact fun t => ⟨rfl, rfl⟩
    | cons v l ih =>
      intro t
      obtain ⟨hkeeps, hc⟩ := ih (t.forgetDma v.1 (v.2.remote.map (·.slot)))
      rw [List.foldl_cons]
      refine ⟨KeepsButCores.trans ?_ hkeeps, hc.trans ?_⟩
      · unfold KeepsButCores; rw [State.forgetDma_eq]
      · rw [State.forgetDma_eq]
  obtain ⟨hkeeps, hc⟩ := hsaved x.savedCores (x.cores.foldl (fun t c => t.stopCore id st c) s)
  refine ⟨hcores.trans hkeeps, fun k => ?_⟩
  rw [← State.stopCores_core]
  exact congrArg (fun l => tabGet l Core.cold k) hc

/-! ### Streams that are orphaned -/

@[simp] theorem State.modPart_streams (s : State) (p : Nat) (f : Partition → Partition) : (s.modPart p f).streams = s.streams := by
  rw [State.modPart_eq]

@[simp] theorem State.modPart_stream (s : State) (p : Nat) (f : Partition → Partition) (i : Nat) :
    (s.modPart p f).stream i = s.stream i := by
  unfold State.stream; rw [State.modPart_streams]

/-- A stream once it is orphaned in step `step` (R58, R79, R83). -/
def Stream.orphaned (x : Stream) (code step : Nat) (now : W64) : Stream :=
  let recent := x.orphanSteps.filter (fun k => step < k.toNat + 16)
  { x with state := .orphaned, faultCode := BitVec.ofNat 16 code, orphanSince := now,
           orphanHold := x.orphanHold || !recent.isEmpty, orphanSteps := recent ++ [BitVec.ofNat 48 step], resume := false,
           intake := { x.intake with stopAt := if x.drain then none else x.intake.stopAt },
           outlet := { x.outlet with marker := true } }

/-- The event of one more orphaned stream joins the seeing report; the stream's entries of the running step are torn down. -/
def State.orphanNoted (s : State) (p i : Nat) : State :=
  (s.modPart p (fun q => { q with seeing := q.seeing.map (fun g => { g with orphaned := g.orphaned + 1 }) })).dropWork p i

theorem State.orphan_def (s : State) (i code : Nat) : s.orphan i code =
    (s.setStream i ((s.stream i).orphaned code (s.stepOf (s.stream i).part.val) s.now)).orphanNoted (s.stream i).part.val i := rfl

theorem State.orphanNoted_eq (s : State) (p i : Nat) : s.orphanNoted p i = { s with parts := (s.orphanNoted p i).parts } := by
  unfold State.orphanNoted State.dropWork
  rw [State.modPart_eq, State.modPart_eq]

/-- Orphaning a stream changes it and its partition, nothing else. -/
theorem State.orphan_eq (s : State) (i code : Nat) :
    s.orphan i code = { s with streams := (s.orphan i code).streams, parts := (s.orphan i code).parts } := by
  rw [State.orphan_def, State.orphanNoted_eq]; rfl

@[simp] theorem State.orphan_stream_same (s : State) (i code : Nat) : (s.orphan i code).stream i =
    (s.stream i).orphaned code (s.stepOf (s.stream i).part.val) s.now := by
  rw [State.orphan_def, State.orphanNoted_eq]
  exact State.setStream_stream_same ..

theorem State.orphan_stream_ne (s : State) {i k : Nat} (code : Nat) (h : k ≠ i) : (s.orphan i code).stream k = s.stream k := by
  rw [State.orphan_def, State.orphanNoted_eq]
  exact State.setStream_stream_ne _ _ h

/-- Stream `y` is `x` orphaned with a code at a time: its count, its pending chunks and its committed side stay (R58, R79). -/
structure Stream.OrphanOf (x y : Stream) (code : Nat) (now : W64) : Prop where
  state : y.state = .orphaned
  faultCode : y.faultCode = BitVec.ofNat 16 code
  since : y.orphanSince = now
  sampleCount : y.sampleCount = x.sampleCount
  chunks : y.chunks = x.chunks
  commitSide : y.commitSide = x.commitSide
  closeReq : y.closeReq = x.closeReq

theorem Stream.orphaned_orphanOf (x : Stream) (code step : Nat) (now : W64) : x.OrphanOf (x.orphaned code step now) code now :=
  ⟨rfl, rfl, rfl, rfl, rfl, rfl, rfl⟩

theorem Stream.OrphanOf.again {x y z : Stream} {code : Nat} {now : W64} (h : x.OrphanOf y code now) (k : y.OrphanOf z code now) :
    x.OrphanOf z code now :=
  ⟨k.state, k.faultCode, k.since, k.sampleCount.trans h.sampleCount, k.chunks.trans h.chunks, k.commitSide.trans h.commitSide,
    k.closeReq.trans h.closeReq⟩

/-- The streams of a list are orphaned, or closed where a close waits (R79, R84). -/
def State.orphanAll (s : State) (l : List (Fin 16384)) (code : Nat) : State :=
  l.foldl (fun t i => if (t.stream i.val).closeReq then t.closeStream i.val false else t.orphan i.val code) s

/-- Where no close waits every listed stream is orphaned and every other stays. -/
theorem State.orphanAll_spec (s : State) (l : List (Fin 16384)) (code : Nat)
    (hclose : ∀ i ∈ l, (s.stream i.val).closeReq = false) :
    s.orphanAll l code = { s with streams := (s.orphanAll l code).streams, parts := (s.orphanAll l code).parts } ∧
    (∀ i ∈ l, (s.stream i.val).OrphanOf ((s.orphanAll l code).stream i.val) code s.now) ∧
    (∀ k : Nat, (∀ i ∈ l, i.val ≠ k) → (s.orphanAll l code).stream k = s.stream k) := by
  induction l generalizing s with
  | nil => exact ⟨rfl, nofun, fun k _ => rfl⟩
  | cons j l ih =>
    have hj : (s.stream j.val).closeReq = false := hclose j List.mem_cons_self
    have hstep : s.orphanAll (j :: l) code = (s.orphan j.val code).orphanAll l code := by
      unfold State.orphanAll
      rw [List.foldl_cons, hj]; rfl
    have hfirst : (s.stream j.val).OrphanOf ((s.orphan j.val code).stream j.val) code s.now := by
      rw [State.orphan_stream_same]
      exact Stream.orphaned_orphanOf ..
    have hnow : (s.orphan j.val code).now = s.now := by rw [State.orphan_eq]
    obtain ⟨hrest, hin, hout⟩ := ih (s.orphan j.val code) (fun i hi => by
      by_cases hij : i = j
      · subst hij; exact hfirst.closeReq.trans hj
      · rw [State.orphan_stream_ne _ _ (Fin.val_ne_of_ne hij)]
        exact hclose i (List.mem_cons_of_mem _ hi))
    rw [hstep]
    refine ⟨?_, fun i hi => ?_, fun k hk => ?_⟩
    · rw [hrest, State.orphan_eq]
    · by_cases hij : i = j
      · subst hij
        by_cases hl : i ∈ l
        · exact hfirst.again (hnow ▸ hin i hl)
        · rwa [hout i.val (fun a ha hai => hl (Fin.ext hai ▸ ha))]
      · have hl : i ∈ l := (List.mem_cons.mp hi).resolve_left hij
        rw [← State.orphan_stream_ne s code (Fin.val_ne_of_ne hij)]
        exact hnow ▸ hin i hl
    · rw [hout k (fun i hi => hk i (List.mem_cons_of_mem _ hi))]
      exact State.orphan_stream_ne _ _ (Ne.symm (hk j List.mem_cons_self))

/-! ### The teardown -/

theorem State.teardown_eq {s : State} {id : Nat} {x : Context} (h : s.ctx? id = some x) (code core pc tag : Nat) :
    s.teardown id code core pc tag =
      (({ s.stopContext id x .halted with ctxs := tabDel (s.stopContext id x .halted).ctxs id } : State).orphanAll x.streams code).raise
        0x8C01 x.part.val 0 0 (pack [b2 id, b2 core, b2 pc, b2 tag, b2 code, b8 x.step.toNat]) := by
  unfold State.teardown
  rw [h]
  rfl

/-- Settles O23: what stops the cores leaves streams and contexts alone, what orphans the streams leaves cores and contexts alone, and
the event only sends. -/
theorem faultTearsTheContextDown : Obligations.FaultTearsTheContextDown := by
  unfold Obligations.FaultTearsTheContextDown
  intro s id code core pc tag x hx hclose t ht
  obtain ⟨hstop, hcore⟩ := s.stopContext_spec id x .halted
  generalize hu : s.stopContext id x .halted = u at hstop hcore
  have hctxs : u.ctxs = s.ctxs := by rw [hstop]
  have hmem : u.mem = s.mem := by rw [hstop]
  have hnow : u.now = s.now := by rw [hstop]
  have hstream : ∀ k, u.stream k = s.stream k := fun k => by unfold State.stream; rw [hstop]
  obtain ⟨horph, hin, hout⟩ := State.orphanAll_spec { u with ctxs := tabDel u.ctxs id } x.streams code
    (fun i hi => (congrArg Stream.closeReq (hstream i.val)).trans (hclose i hi))
  rw [State.teardown_eq hx, hu] at ht
  generalize State.orphanAll { u with ctxs := tabDel u.ctxs id } x.streams code = v at ht horph hin hout
  have hsent : OnlySent v t := ht ▸ State.raise_onlySent ..
  have hvctxs : t.ctxs = tabDel s.ctxs id := by rw [hsent.ctxs, horph, hctxs]
  have hvcore : ∀ c, t.core c = u.core c := fun c => by rw [hsent.core]; unfold State.core; rw [horph]
  refine ⟨?_, fun k hk => ?_, ?_, fun c hc hrun => ?_, fun c hc => ?_, fun i hi => ?_, fun k hk => ?_⟩
  · unfold State.ctx?; rw [hvctxs, tabGet?_tabDel_same]
  · unfold State.ctx?; rw [hvctxs, tabGet?_tabDel_ne _ hk]
  · rw [hsent.mem, horph, hmem]
  · rw [hvcore, hcore, if_pos ⟨hc, hrun⟩]; rfl
  · rw [hvcore, hcore, if_neg (by tauto)]
  · have h := hin i hi
    rw [← hsent.stream i.val] at h
    rw [← hstream i.val, ← hnow]
    exact ⟨h.state, h.faultCode, h.since, h.sampleCount, h.chunks, h.commitSide⟩
  · rw [hsent.stream, hout k hk]
    exact hstream k

end Sys2Proof.Machine
end

section
/-! PROOFS. A queue pair whose number a message cannot name: what a message carries is 24 bits of it (R383, R391). -/

namespace Sys2Proof.Machine

/-! ### The state -/

/-- A queue pair of an owner to device 1 with nothing to send. -/
def quietPair (owner : Nat) (st : QpState) : Qp where
  owner := owner
  mac := 0
  mailboxes := 0
  state := st
  peer := 1
  host := false
  mtu := 5
  tmo := 14
  retry := 7
  retriesLeft := 7
  remoteQpn := 0
  sqNext := 0
  acked := 0
  rqNext := 0
  remoteKey := 0
  vaBase := 0
  remoteIp := 0
  out := []
  timer := 0
  rc := 0
  rt := 0
  alpha := 0
  rounds := 0
  alphaFrom := 0
  incFrom := 0
  lastCnpSent := none
  refuse := false

/-- Number 0 names a queue pair of partition 3, number 2^24 the control queue pair to device 1. -/
def farPairs : Tab Qp := [(0, quietPair 3 .created), (2 ^ 24, quietPair 16 .connected)]

/-- A seeing period that has ended. -/
def endedPeriod : SeeingTally := SeeingTally.begin 0 false false

/-- A seeing report to a ring of device 1, with one record to write. -/
def dueReport : Seeing :=
  { toSeeingTally := endedPeriod, ring := BitVec.ofNat 64 (2 ^ 51), entries := 2, period := 1, recordNo := 0, due := [endedPeriod] }

def farPart : Partition := { newPartition [] 0 [] with zeroing := none, seeing := some dueReport }

/-- An open stream whose shadow is on device 1. -/
def farStream : Stream := { Stream.empty with state := .active, mirrorSide := some ⟨1, 0, true, none⟩ }

/-- The device with these queue pairs, where partition 3 marks its RoCE data otherwise than control. -/
def farState : State := { State.reset with
  parts := [(0, farPart)]
  streams := [(0, farStream)]
  qps := farPairs
  cc := [(3, { CcParams.default with dscp := 0 })] }

/-- The marks of RoCE data of control and of partition 3 differ. -/
theorem farState_marks : (farState.ccOf 3).mark 0 ≠ (farState.ccOf 16).mark 0 := by decide

theorem farState_qpFor : farState.qpFor 16 1 = some (2 ^ 24, quietPair 16 .connected) := by decide +kernel

/-! ### A record of a seeing report -/

def noCounts : SeeingCounts := ⟨0, 0, 0, 0, 0, 0, 0⟩

/-- What SEEING_PERIOD_END sends there carries the mark of partition 3. -/
theorem exec_seeingPeriodEnd_far : ∃ t, exec (.seeingPeriodEnd 0 noCounts) farState = .next t ∧
    t.wire.map (·.mark) = [some ((farState.ccOf 3).mark 0)] :=
  ⟨_, rfl, by decide +kernel⟩

/-- Refutes O28 in its last clause, which gives a record that goes out on queue pair `n` the mark of that pair's owner for every
number `n`. A message names its queue pair by 24 bits, and the mark is looked up by them: in `farState` the record on pair 2^24
carries the mark of the owner of pair 0. The type of states allows that number; below 2^24 the counterexample does not arise. -/
theorem not_outputsAreReleasedOnce : ¬ Obligations.OutputsAreReleasedOnce := by
  unfold Obligations.OutputsAreReleasedOnce
  rintro ⟨-, -, -, -, hseeing⟩
  obtain ⟨-, hdue⟩ := hseeing farState 0 noCounts farPart dueReport rfl rfl
  obtain ⟨t, ht, -, -, hsends⟩ := hdue endedPeriod [] rfl
  obtain ⟨a, ⟨-, hwire⟩, -⟩ := hsends (2 ^ 24) (quietPair 16 .connected) farState_qpFor
  obtain ⟨u, hu, hmark⟩ := exec_seeingPeriodEnd_far
  rw [ht] at hu
  injection hu with hu
  rw [← hu, hwire (by decide)] at hmark
  exact farState_marks (Option.some.inj (List.cons.inj hmark).1).symm

/-! ### A record to a mirror's peer -/

/-- The address of a record to a mirror's peer. -/
def mirrorTo (peer : BitVec 13) (r : Config.MirrorRecord) : W64 :=
  BitVec.ofNat 64 (peer.toNat * 2 ^ 51 + (Config.mirrorAddr r).toNat)

/-- Its device is the peer (R11). -/
theorem devOf_mirrorTo (peer : BitVec 13) (r : Config.MirrorRecord) : devOf (mirrorTo peer r) = peer.toNat := by
  have hpeer := peer.isLt
  have haddr := (Config.mirrorAddr r).isLt
  rw [devOf, mirrorTo, BitVec.toNat_ofNat]
  omega

/-- A record to a peer goes out on the control queue pair that serves. -/
theorem State.writeDomain_mirrorTo {s : State} {n : Nat} {q : Qp} {peer : BitVec 13} (h : s.qpFor 16 peer.toNat = some (n, q))
    (r : Config.MirrorRecord) (use : MsgUse) : s.writeDomain 16 (mirrorTo peer r) (Config.mirrorBytes r) use =
      some (s.sendOn n q .write (q.remoteVa (mirrorTo peer r)) (Config.mirrorBytes r) 0 use) := by
  rw [State.writeDomain, devOf_mirrorTo, h]

/-- The commit record of a mirrored stream (R478). -/
def Stream.commitRecord (x : Stream) (v : MirrorSide) : Config.MirrorRecord :=
  .commit v.shadow x.commitStep x.releasedSeq x.nextOutSeq

/-- The state once the committed image of a mirrored stream has gone to the peer. -/
def State.imageSent (s : State) (x : Stream) (v : MirrorSide) : State :=
  s.sendMirror v.peer.toNat (.image v.shadow (s.read x.committedAt (x.stateUnits.toNat * 4096)))

theorem exec_mirrorStateSend_sends {s : State} {i : Fin 16384} {v : MirrorSide} (hv : (s.stream i.val).mirrorSide = some v)
    (hclosed : (s.stream i.val).state ≠ .closed) (hopening : (s.stream i.val).state ≠ .opening)
    (hgood : s.good (s.stream i.val).committedAt ((s.stream i.val).stateUnits.toNat * 4096) = true) :
    exec (.mirrorStateSend i) s = .next (((s.imageSent (s.stream i.val) v).writeDomain 16
      (mirrorTo v.peer ((s.stream i.val).commitRecord v)) (Config.mirrorBytes ((s.stream i.val).commitRecord v)) (.mirror i)).getD
        (s.imageSent (s.stream i.val) v)) := by
  have hexec : exec (.mirrorStateSend i) s = execMirrorStateSend i s := rfl
  rw [hexec, execMirrorStateSend]
  dsimp only
  rw [hv]
  simp only [hclosed, hopening, hgood, decide_false, Bool.or_self, Bool.false_eq_true, if_false, Bool.not_true]
  rfl

/-- A message on that queue pair goes out with the mark of partition 3; the pair serves on. -/
theorem farState_sendOn (va : W64) (data : Bytes) (use : MsgUse) : ∃ (t : State) (q : Qp),
    farState.sendOn (2 ^ 24) (quietPair 16 .connected) .write va data 0 use = t ∧ t.qpFor 16 1 = some (2 ^ 24, q) ∧
    ∀ (va' : W64) (data' : Bytes) (use' : MsgUse), (t.sendOn (2 ^ 24) q .write va' data' 0 use').wire.map (·.mark) =
      [some ((farState.ccOf 3).mark 0), some ((farState.ccOf 3).mark 0)] :=
  ⟨_, _, rfl, rfl, fun _ _ _ => rfl⟩

/-- What MIRROR_STATE_SEND sends there carries the mark of partition 3. -/
theorem exec_mirrorStateSend_far : ∃ t, exec (.mirrorStateSend 0) farState = .next t ∧
    t.wire.map (·.mark) = [some ((farState.ccOf 3).mark 0), some ((farState.ccOf 3).mark 0)] := by
  have himage : farState.imageSent farStream ⟨1, 0, true, none⟩ = _ :=
    congrArg (fun o => o.getD farState) (State.writeDomain_mirrorTo (peer := 1) farState_qpFor (.image 0 (farState.read 0 0)) .other)
  obtain ⟨t, q, ht, hserves, hmarks⟩ := farState_sendOn ((quietPair 16 .connected).remoteVa
    (mirrorTo 1 (.image 0 (farState.read 0 0)))) (Config.mirrorBytes (.image 0 (farState.read 0 0))) .other
  refine ⟨_, exec_mirrorStateSend_sends (i := 0) (v := ⟨1, 0, true, none⟩) rfl (by decide) (by decide) (by decide +kernel), ?_⟩
  have hstream : farState.stream (0 : Fin 16384).val = farStream := rfl
  rw [hstream, himage, Option.getD_some, ht, State.writeDomain_mirrorTo (peer := 1) hserves]
  exact hmarks ..

/-- Refutes O26 in its last clause, for the reason for which O28 fails: in `farState` the records to the peer go out on the control
queue pair 2^24 and carry the mark of the owner of pair 0, where the clause asks for control's. Below 2^24 the counterexample does
not arise. -/
theorem not_streamStatesChangeAtTheirTimes : ¬ Obligations.StreamStatesChangeAtTheirTimes := by
  unfold Obligations.StreamStatesChangeAtTheirTimes
  rintro ⟨-, -, -, hmirror⟩
  obtain ⟨-, -, hsends⟩ := hmirror farState 0 farStream ⟨1, 0, true, none⟩ (2 ^ 24) (quietPair 16 .connected) rfl rfl (by decide)
    (by decide)
  obtain ⟨t, a, b, ht, -, ⟨-, hwire⟩, -⟩ := hsends (by decide +kernel) farState_qpFor
  obtain ⟨u, hu, hmark⟩ := exec_mirrorStateSend_far
  rw [ht] at hu
  injection hu with hu
  rw [← hu, hwire (by decide)] at hmark
  exact farState_marks (Option.some.inj (List.cons.inj hmark).1).symm

end Sys2Proof.Machine
end

section
/-! PROOFS. Pre-emption: contexts are asked, saved and resumed (R76, R114, R213, R219 to R222). -/

namespace Sys2Proof.Machine

/-! ### PREEMPT_REQUEST -/

/-- A context once a pre-emption is asked of it. -/
def State.asked (s : State) (id : Nat) (x : Context) : State := s.setCtx id { x with preempt := some s.now }

theorem exec_preemptRequest_none (s : State) (id : BitVec 16) (h : s.ctx? id.toNat = none ∨ ∃ x : Context,
    s.ctx? id.toNat = some x ∧ (x.umber = false ∨ x.state ≠ .running ∨ x.preempt.isSome = true)) :
    exec (.preemptRequest id) s = .next s := by
  have hexec : exec (.preemptRequest id) s = execPreemptRequest id s := rfl
  rw [hexec, execPreemptRequest]
  rcases h with h | ⟨x, h, hx⟩
  · rw [h]
  · rw [h]
    refine if_neg ?_
    rcases hx with hx | hx | hx
    · simp [hx]
    · simp [hx]
    · simp [Option.isNone_iff_eq_none, Option.isSome_iff_ne_none.mp hx]

theorem exec_preemptRequest_asked {s : State} {id : BitVec 16} {x : Context} (hx : s.ctx? id.toNat = some x) (hu : x.umber = true)
    (hr : x.state = .running) (hp : x.preempt = none) :
    exec (.preemptRequest id) s = .next ((s.asked id.toNat x).trySave id.toNat) := by
  have hexec : exec (.preemptRequest id) s = execPreemptRequest id s := rfl
  rw [hexec, execPreemptRequest, hx]
  exact if_pos (by simp [hu, hr, hp])

/-- A core that is not at a barrier is at no pre-emption point. -/
theorem State.trySaveCore_running {s : State} {id c : Nat} {x : Context} (h : (s.core c).seq = .running) :
    s.trySaveCore id c x = s := by
  unfold State.trySaveCore
  dsimp only
  rw [h]
  exact ite_self s

theorem State.trySave_running {s : State} {id : Nat} {x : Context} (hx : s.ctx? id = some x) (hr : x.state = .running)
    (hc : ∀ c ∈ x.cores, (s.core c).seq = .running) : s.trySave id = s := by
  have hcores : ∀ l : List Nat, (∀ c ∈ l, (s.core c).seq = .running) → l.foldl (fun t c => t.trySaveCore id c x) s = s := by
    intro l
    induction l with
    | nil => exact fun _ => rfl
    | cons c l ih =>
      intro hl
      rw [List.foldl_cons, State.trySaveCore_running (hl c List.mem_cons_self)]
      exact ih fun d hd => hl d (List.mem_cons_of_mem _ hd)
  rw [State.trySave, hx]
  dsimp only
  rw [hcores _ hc, State.endSave, hx]
  exact if_neg (by simp [hr])

/-! ### A core is saved at its wait -/

/-- What is saved of core `c` at the wait `q` of engine `e` (R185, R220). -/
def State.savedAt (s : State) (c : Nat) (e : Engine) (q : QEntry) (es : List (Nat × Nat)) : SavedCore :=
  ⟨(s.core c).pc, (s.core c).x, (s.core c).f, (s.core c).v, (s.core c).m, es.map (fun v => (v.1, s.read (coreWin c + v.1) v.2)),
    some (e, q), false, []⟩

/-- Core `c` runs context `id` alone and waits at the WAIT `q`, with a live set and nothing else. -/
structure State.WaitsAlone (s : State) (id : BitVec 16) (x : Context) (c : Nat) (q : QEntry) (es : List (Nat × Nat)) : Prop where
  cores : x.cores = [c]
  ctx : (s.core c).ctx = some id
  seq : (s.core c).seq = .barrier q
  op : q.op = 0x18
  queue : (s.core c).queue (engOf q.w) = [q]
  lsd : lsdOf q.w ≠ 0
  dma : (s.core c).dma = []
  noPark : (s.core c).noPark = none
  savable : (s.core c).savable c (some (engOf q.w)) q false = true
  live : liveSet (s.descBytes c (lsdOf q.w)) = some es
  saved : x.savedCores = []

/-- No transfer in flight feeds its flags. -/
theorem State.WaitsAlone.remoteWait {s : State} {id : BitVec 16} {x : Context} {c : Nat} {q : QEntry} {es : List (Nat × Nat)}
    (h : s.WaitsAlone id x c q es) (hx : s.ctx? id.toNat = some x) : s.remoteWait c q = false := by
  have hfeed : s.feeders c (wflag q.w) = [] := by
    unfold State.feeders State.ctxOf
    rw [h.ctx]
    dsimp only [Option.map_some]
    rw [hx]
    dsimp only
    rw [h.cores]
    simp [State.xfersOf, h.dma, h.saved, tabGet?]
  simp [State.remoteWait, isRmt, h.op, hfeed]

/-- The only core of its context has no other whose transfers could reach it. -/
theorem State.WaitsAlone.noneInbound {s : State} {id : BitVec 16} {x : Context} {c : Nat} {q : QEntry} {es : List (Nat × Nat)}
    (h : s.WaitsAlone id x c q es) : s.noneInbound id.toNat c x = true := by
  simp [State.noneInbound, h.cores]

theorem State.WaitsAlone.trySaveCore {s : State} {id : BitVec 16} {x : Context} {c : Nat} {q : QEntry} {es : List (Nat × Nat)}
    (h : s.WaitsAlone id x c q es) (hx : s.ctx? id.toNat = some x) (hu : x.umber = true) (hp : x.preempt.isSome = true) :
    s.trySaveCore id.toNat c x = s.saveCore id.toNat c q (some (engOf q.w, q)) false := by
  have hid : (s.core c).ctx = some (BitVec.ofNat 16 id.toNat) := by rw [BitVec.ofNat_toNat, BitVec.setWidth_eq]; exact h.ctx
  unfold State.trySaveCore
  dsimp only
  rw [if_neg (by simp [hu, hid, Option.isSome_iff_ne_none.mp hp]), h.seq]
  dsimp only
  rw [if_neg (by simp [h.op]), if_pos (by simp [h.op]), h.queue, List.head?_cons]
  dsimp only
  rw [if_neg (by simp [h.lsd, h.noPark]), h.remoteWait hx, if_neg (by simp), if_pos (by simp [h.savable, h.noneInbound])]

/-- The context while its only core has been saved and the rest of it not yet. -/
def Context.saving (x : Context) (c : Nat) (v : SavedCore) : Context := { x with savedCores := [(c, v)], state := .saving }

/-- The context once its only core is saved. -/
def Context.allSaved (x : Context) (c : Nat) (v : SavedCore) : Context :=
  { x with state := .saved, preempt := none, lateRaised := false, savedCores := [(c, v)] }

theorem State.WaitsAlone.saveCore {s : State} {id : BitVec 16} {x : Context} {c : Nat} {q : QEntry} {es : List (Nat × Nat)}
    (h : s.WaitsAlone id x c q es) (hx : s.ctx? id.toNat = some x) : s.saveCore id.toNat c q (some (engOf q.w, q)) false =
      (s.setCtx id.toNat (x.saving c (s.savedAt c (engOf q.w) q es))).modCore c (fun k => k.stop .idle) := by
  unfold State.saveCore
  dsimp only
  rw [h.live]
  dsimp only
  rw [State.modCtx, hx, h.dma]
  dsimp only
  rw [h.saved]
  rfl

/-- A context whose only core is saved, without a remote wait, is saved. -/
theorem State.endSave_saving {s : State} {id c : Nat} {x : Context} {v : SavedCore} (hx : s.ctx? id = some (x.saving c v))
    (hc : x.cores = [c]) (hv : v.far = false) : ∃ t, s.endSave id = t ∧ t = { s with ctxs := t.ctxs, parts := t.parts } ∧
      t.ctx? id = some (x.allSaved c v) := by
  have hend : s.endSave id = (s.setCtx id (x.allSaved c v)).modPart x.part.val (fun q => { q with seeing := q.seeing.map (fun g =>
      { g with preempts := g.preempts + 1, parked := g.parked + 0 }) }) := by
    rw [State.endSave, hx]
    dsimp only
    rw [if_pos (by simp [Context.saving, hc, tabGet?])]
    simp [Context.saving, Context.allSaved, SavedCore.waitsRemote, hv, flag]
  refine ⟨_, rfl, ?_, ?_⟩
  · rw [hend, State.modPart_eq]; rfl
  · rw [hend, State.modPart_eq]
    exact State.setCtx_ctx_same ..

theorem State.WaitsAlone.trySave {s : State} {id : BitVec 16} {x : Context} {c : Nat} {q : QEntry} {es : List (Nat × Nat)}
    (h : s.WaitsAlone id x c q es) (hx : s.ctx? id.toNat = some x) (hu : x.umber = true) (hp : x.preempt.isSome = true) :
    (s.trySave id.toNat).core c = (s.core c).stop .idle ∧ (s.trySave id.toNat).mem = s.mem ∧
      (s.trySave id.toNat).ctx? id.toNat = some (x.allSaved c (s.savedAt c (engOf q.w) q es)) := by
  have htry : s.trySave id.toNat = ((s.setCtx id.toNat (x.saving c (s.savedAt c (engOf q.w) q es))).modCore c
      (fun k => k.stop .idle)).endSave id.toNat := by
    rw [State.trySave, hx]
    dsimp only
    rw [h.cores, List.foldl_cons, List.foldl_nil, h.trySaveCore hx hu hp, h.saveCore hx]
  obtain ⟨t, ht, hkeeps, hctx⟩ := State.endSave_saving (s := (s.setCtx id.toNat (x.saving c (s.savedAt c (engOf q.w) q es))).modCore c
    (fun k => k.stop .idle)) (State.setCtx_ctx_same ..) h.cores rfl
  rw [htry, ht]
  refine ⟨?_, ?_, hctx⟩
  · unfold State.core
    rw [hkeeps]
    exact State.setCore_core_same ..
  · rw [hkeeps]; rfl

theorem exec_preemptRequest_saves {s : State} {id : BitVec 16} {x : Context} (hx : s.ctx? id.toNat = some x) (hu : x.umber = true)
    (hr : x.state = .running) (hp : x.preempt = none) {c : Nat} {q : QEntry} {es : List (Nat × Nat)}
    (h : s.WaitsAlone id x c q es) : ∃ t, exec (.preemptRequest id) s = .next t ∧ t.core c = (s.core c).stop .idle ∧
      t.mem = s.mem ∧ t.ctx? id.toNat = some (x.allSaved c (s.savedAt c (engOf q.w) q es)) := by
  obtain ⟨hcores, hctx, hseq, hop, hqueue, hlsd, hdma, hpark, hsav, hlive, hsaved⟩ := h
  have hasked : (s.asked id.toNat x).WaitsAlone id { x with preempt := some s.now } c q es :=
    ⟨hcores, hctx, hseq, hop, hqueue, hlsd, hdma, hpark, hsav, hlive, hsaved⟩
  exact ⟨_, exec_preemptRequest_asked hx hu hr hp, hasked.trySave (State.setCtx_ctx_same ..) hu rfl⟩

/-! ### PARKED_RESUME -/

theorem exec_parkedResume_none (s : State) (id : BitVec 16) (h : s.ctx? id.toNat = none ∨ ∃ x : Context,
    s.ctx? id.toNat = some x ∧ (x.state = .running ∨ ∃ v ∈ x.savedCores, (s.core v.1).ctx.isSome = true ∨ v.1 ∈ s.spares.lost ∨
      (x.state = .parked ∧ s.remoteDone x.part.val v.2 = false))) : exec (.parkedResume id) s = .next s := by
  have hexec : exec (.parkedResume id) s = execParkedResume id s := rfl
  rw [hexec, execParkedResume]
  rcases h with h | ⟨x, h, hx⟩
  · rw [h]
  · rw [h]
    refine if_neg fun hgo => ?_
    simp only [Bool.and_eq_true, List.all_eq_true, Bool.or_eq_true, decide_eq_true_eq, Bool.not_eq_true', Option.isNone_iff_eq_none,
      List.contains_eq_mem, decide_eq_false_iff_not] at hgo
    obtain ⟨hfree, hstate⟩ := hgo
    rcases hx with hx | ⟨v, hv, hx | hx | ⟨hpark, hx⟩⟩
    · simp [hx] at hstate
    · simp [(hfree v hv).1] at hx
    · exact (hfree v hv).2 hx
    · rcases hstate with hs | ⟨-, hdone⟩
      · simp [hpark] at hs
      · simp [hdone v hv] at hx

theorem exec_parkedResume_saved {s : State} {id : BitVec 16} {x : Context} (hx : s.ctx? id.toNat = some x) (hs : x.state = .saved)
    (hfree : ∀ v ∈ x.savedCores, (s.core v.1).ctx = none ∧ s.spares.lost.contains v.1 = false ∧ v.2.again = none) :
    exec (.parkedResume id) s = .next (x.savedCores.foldl (fun t v => t.resumeCore id.toNat x v.1 v.2)
      (s.setCtx id.toNat { x with state := .running, savedCores := [] })) := by
  have hturns : ∀ (l : List (Nat × SavedCore)) (t : State), (∀ v ∈ l, v.2.again = none) →
      l.foldl (fun t v => match v.2.again with
        | some (e, _) => t.turn v.1 e
        | none => t) t = t := by
    intro l
    induction l with
    | nil => exact fun _ _ => rfl
    | cons v l ih =>
      intro t hl
      rw [List.foldl_cons, hl v List.mem_cons_self]
      exact ih t fun w hw => hl w (List.mem_cons_of_mem _ hw)
  have hexec : exec (.parkedResume id) s = execParkedResume id s := rfl
  rw [hexec, execParkedResume, hx]
  dsimp only
  rw [if_pos]
  · exact congrArg Host.Outcome.next (hturns _ _ fun v hv => (hfree v hv).2.2)
  · simp only [hs, decide_true, Bool.true_or, Bool.and_true, List.all_eq_true]
    intro v hv
    obtain ⟨hctx, hlost, -⟩ := hfree v hv
    rw [hctx, hlost]
    rfl

/-! ### A saved core goes on -/

/-- The live set of a saved core written back. -/
def State.restoreLive (s : State) (c : Nat) (l : Tab Bytes) : State := l.foldl (fun t e => t.writeRaw (coreWin c + e.1) e.2) s

theorem State.restoreLive_core (s : State) (c : Nat) (l : Tab Bytes) (d : Nat) : (s.restoreLive c l).core d = s.core d := by
  unfold State.restoreLive
  induction l generalizing s with
  | nil => rfl
  | cons e l ih => exact ih _

/-- Memory outside the live set stays. -/
theorem State.restoreLive_mem (s : State) (c : Nat) (l : Tab Bytes) (a : Nat)
    (h : ∀ e ∈ l, ¬ (backing (coreWin c + e.1) ≤ a ∧ a < backing (coreWin c + e.1) + e.2.length)) :
    memGet (s.restoreLive c l).mem a = memGet s.mem a := by
  unfold State.restoreLive
  induction l generalizing s with
  | nil => rfl
  | cons e l ih =>
    rw [List.foldl_cons, ih _ fun f hf => h f (List.mem_cons_of_mem _ hf)]
    have he := h e List.mem_cons_self
    exact memGet_memWrite_out _ _ _ _ (by omega)

/-- A core of a saved context as it goes on (R114, R220). -/
def Core.resumed (k : Core) (id : Nat) (x : Context) (c : Nat) (v : SavedCore) : Core :=
  { k.stop .running with
    pc := v.pc, x := v.x, f := v.f, v := v.v, m := v.m, gen := lfsrSeed x.seed x.step c, ctx := some (BitVec.ofNat 16 id),
    photAtPass := k.phot, watchdog := false }

theorem State.resumeCore_eq {s : State} {id c : Nat} {x : Context} {v : SavedCore} (h : v.again = none) :
    s.resumeCore id x c v = (s.restoreLive c v.live).modCore c (fun k => k.resumed id x c v) := by
  unfold State.resumeCore
  dsimp only
  rw [h]
  rfl

theorem State.resumeCore_spec (s : State) (id c : Nat) (x : Context) (v : SavedCore) (h : v.again = none) :
    (∀ d : Nat, d ≠ c → (s.resumeCore id x c v).core d = s.core d) ∧
    (s.resumeCore id x c v).core c = (s.core c).resumed id x c v ∧
    (∀ a, (∀ e : Nat × Bytes, e ∈ v.live → ¬ (backing (coreWin c + e.1) ≤ a ∧ a < backing (coreWin c + e.1) + e.2.length)) →
      memGet (s.resumeCore id x c v).mem a = memGet s.mem a) := by
  rw [State.resumeCore_eq h]
  refine ⟨fun d hd => ?_, ?_, fun a ha => s.restoreLive_mem c v.live a ha⟩
  · rw [State.modCore, State.setCore_core_ne _ _ hd, State.restoreLive_core]
  · rw [State.modCore, State.setCore_core_same, State.restoreLive_core]

/-! ### LATE_POINT_TIMEOUT -/

theorem exec_latePointTimeout_none (s : State) (id : BitVec 16) (h : s.ctx? id.toNat = none ∨ ∃ x : Context,
    s.ctx? id.toNat = some x ∧ (x.preempt = none ∨ x.lateRaised = true)) : exec (.latePointTimeout id) s = .next s := by
  have hexec : exec (.latePointTimeout id) s = execLatePointTimeout id s := rfl
  rw [hexec, execLatePointTimeout]
  rcases h with h | ⟨x, h, hx⟩
  · rw [h]
  · rw [h]
    dsimp only
    rcases hx with hx | hx
    · rw [hx]
    · split
      · rw [hx]; rfl
      · rfl

theorem exec_latePointTimeout {s : State} {id : BitVec 16} {x : Context} {c : Nat} {at' : W64} (hx : s.ctx? id.toNat = some x)
    (hp : x.preempt = some at') (hc : x.cores.find? (fun k => (s.core k).ctx == some id) = some c) :
    exec (.latePointTimeout id) s =
      if x.lateRaised = false ∧ at'.toNat + 40000 * 1000 / max 1 (s.core c).effectiveMhz ≤ s.time then
        .next ((s.setCtx id.toNat { x with lateRaised := true }).raisePart 0x8C03 x.part.val
          (pack [b2 id.toNat, b2 c, b2 (s.core c).pc.toNat]))
      else .next s := by
  have hexec : exec (.latePointTimeout id) s = execLatePointTimeout id s := rfl
  rw [hexec, execLatePointTimeout, hx]
  dsimp only
  rw [hp, hc]
  refine if_congr ?_ rfl rfl
  simp

/-- Settles O21, row by row: what is asked, what one core saves, what a saved core goes on with, when a late point is reported. -/
theorem preemptionParksAndResumes : Obligations.PreemptionParksAndResumes := by
  unfold Obligations.PreemptionParksAndResumes
  refine ⟨fun s id => ⟨exec_preemptRequest_none s id, exec_parkedResume_none s id, exec_latePointTimeout_none s id⟩,
    fun s id x hx hu hr hp => ⟨exec_preemptRequest_asked hx hu hr hp, fun hc => ?_, ?_⟩,
    fun s id x hx hs hfree => exec_parkedResume_saved hx hs hfree, fun s id c x v h => s.resumeCore_spec id c x v h,
    fun s id x c at' hx hp hc => ⟨fun hl ht => ?_, fun h => ?_⟩⟩
  · rw [exec_preemptRequest_asked hx hu hr hp]
    exact congrArg Host.Outcome.next (State.trySave_running (State.setCtx_ctx_same ..) hr hc)
  · intro c q es hcores hctx hseq hop e he hqueue hlsd hdma hpark hsav hlive hsaved
    subst he
    exact exec_preemptRequest_saves hx hu hr hp ⟨hcores, hctx, hseq, hop, hqueue, hlsd, hdma, hpark, hsav, hlive, hsaved⟩
  · rw [exec_latePointTimeout hx hp hc, if_pos ⟨hl, ht⟩]
  · rw [exec_latePointTimeout hx hp hc, if_neg (by rcases h with h | h <;> simp [h])]

end Sys2Proof.Machine
end

section
/-! PROOFS. Queries and telemetry commands: each answers from the state (R58, R85, R86, R404, R415, R419, R433, R444). -/

namespace Sys2Proof.Machine

/-! ### Commands whose body is one answer -/

theorem queries_of_body {i : Fin 64 → Instr} {c : CmdSpec} {holds : Fin 64 → Bytes → State → Prop} {data : Fin 64 → Bytes → State → Bytes}
    {body : Fin 64 → Bytes → State → State} (hexec : ∀ m s, exec (i m) s = .next (s.runCmd m c (body m)))
    (hbody : ∀ m pg t, holds m pg t → body m pg t = t.ok m (data m pg t)) : Queries i c holds data := by
  intro s m htakes hholds
  refine ⟨_, hexec m s, ?_⟩
  rw [State.runCmd_takes _ _ _ _ htakes, hbody m _ _ hholds]
  exact State.ok_replied ..

theorem rejects_of_body {i : Fin 64 → Instr} {c : CmdSpec} {status : Nat} {holds : Fin 64 → Bytes → State → Prop}
    {body : Fin 64 → Bytes → State → State} (hexec : ∀ m s, exec (i m) s = .next (s.runCmd m c (body m)))
    (hbody : ∀ m pg t, holds m pg t → body m pg t = t.fail m status) : Rejects i c status holds := by
  intro s m htakes hholds
  refine ⟨_, hexec m s, ?_⟩
  rw [State.runCmd_takes _ _ _ _ htakes, hbody m _ _ hholds]
  exact State.fail_replied ..

/-- The zeros of a PART_QUERY answer, laid out under R415. -/
theorem pack_noPartition : pack [b1 0, b2 0, b1 0, b8 0, zeros 64] = zeros 80 := by decide

/-- Settles O34, query by query; where one looks something up, by what the lookup finds. -/
theorem queriesAnswerFromTheState : Obligations.QueriesAnswerFromTheState := by
  unfold Obligations.QueriesAnswerFromTheState
  refine ⟨queries_of_body (fun m s => rfl) fun m pg t _ => rfl, queries_of_body (fun m s => rfl) fun m pg t _ => rfl,
    queries_of_body (fun m s => rfl) fun m pg t _ => rfl, queries_of_body (fun m s => rfl) fun m pg t h => ?_,
    fun q => queries_of_body (fun m s => rfl) fun m pg t h => ?_, fun q => queries_of_body (fun m s => rfl) fun m pg t h => ?_,
    rejects_of_body (fun m s => rfl) fun m pg t h => ?_, queries_of_body (fun m s => rfl) fun m pg t _ => rfl,
    fun q => queries_of_body (fun m s => rfl) fun m pg t h => ?_, rejects_of_body (fun m s => rfl) fun m pg t h => ?_,
    queries_of_body (fun m s => rfl) fun m pg t _ => rfl, queries_of_body (fun m s => rfl) fun m pg t _ => rfl⟩
  · rw [← pack_noPartition]
    simp only [Option.isNone_iff_eq_none.mp h]
  · simp only [h]
  · simp only [h]
    rfl
  · simp only [h]
    rfl
  · simp only [h]
  · simp only [h]
    rfl

/-! ### Telemetry commands -/

theorem bytesToNat_lt (l : Bytes) : bytesToNat l < 256 ^ l.length := by
  induction l with
  | nil => decide
  | cons b l ih =>
    have hb := b.isLt
    rw [bytesToNat, List.length_cons, pow_succ]
    omega

theorem le_lt (l : Bytes) (off n : Nat) : le l off n < 256 ^ n :=
  (bytesToNat_lt _).trans_le (Nat.pow_le_pow_right (by decide) (List.length_take_le _ _))

/-- A seeing report set by TELEM_SEEING_CFG of page `pg` for partition `q` (R85). -/
def State.seeingOf (s : State) (q : Partition) (pg : Bytes) : Seeing :=
  Seeing.start (BitVec.ofNat 64 (le pg 0x48 8)) (le pg 0x44 4) (le pg 0x42 2) (s.beginTally q q.stepNo)

theorem exec_telemSeeingCfg {s : State} {m : Fin 64} (h : s.Takes m specTelemSeeingCfg) : exec (.telemSeeingCfg m) s = .next
    (match s.popped.live? (le (s.page m) 0x40 1) with
      | none => s.popped.fail m 3
      | some q =>
        if le (s.page m) 0x48 8 / 2 ^ 51 = s.dev.deviceNo.toNat then s.popped.fail m 7
        else (s.popped.setPart (le (s.page m) 0x40 1) { q with seeing := some (s.popped.seeingOf q (s.page m)) }).ok m []) := by
  have hexec : exec (.telemSeeingCfg m) s = execTelemSeeingCfg m s := rfl
  rw [hexec, execTelemSeeingCfg, State.runCmd_takes _ _ _ _ h]
  have hdev : devOf (BitVec.ofNat 64 (par seeingSizes (s.page m) 3)) = le (s.page m) 0x48 8 / 2 ^ 51 := by
    have hlt : le (s.page m) 0x48 8 < 2 ^ 64 := le_lt _ _ 8
    rw [devOf, BitVec.toNat_ofNat]
    exact congrArg (· / 2 ^ 51) (Nat.mod_eq_of_lt hlt)
  dsimp only
  rw [hdev]
  rfl

theorem State.modPart_some {s : State} {p : Nat} {q : Partition} (h : s.part? p = some q) (f : Partition → Partition) :
    s.modPart p f = s.setPart p (f q) := by
  rw [State.modPart, h]

theorem State.part?_of_live? {s : State} {p : Nat} {q : Partition} (h : s.live? p = some q) : s.part? p = some q :=
  (Option.filter_eq_some_iff.mp h).1

theorem telemSeeingCfg_acts : Acts .telemSeeingCfg specTelemSeeingCfg (fun _ pg s => if s.live? (le pg 0x40 1) = none then some (3, 0)
      else if le pg 0x48 8 / 2 ^ 51 = s.dev.deviceNo.toNat then some (7, 0) else none)
    (fun _ pg s => s.modPart (le pg 0x40 1) (fun q => { q with
      seeing := some (Seeing.start (BitVec.ofNat 64 (le pg 0x48 8)) (le pg 0x44 4) (le pg 0x42 2) (s.beginTally q q.stepNo)) }))
    noData := by
  intro s m htakes
  rw [exec_telemSeeingCfg htakes]
  cases hlive : s.popped.live? (le (s.page m) 0x40 1) with
  | none =>
    refine ⟨fun st d hwhy => ?_, fun hwhy => ?_⟩
    · dsimp only at hwhy
      rw [if_pos hlive] at hwhy
      cases hwhy
      exact ⟨_, rfl, State.fail_replied ..⟩
    · dsimp only at hwhy
      rw [if_pos hlive] at hwhy
      cases hwhy
  | some q =>
    dsimp only
    rw [if_neg (by rw [hlive]; exact nofun)]
    by_cases hown : le (s.page m) 0x48 8 / 2 ^ 51 = s.popped.dev.deviceNo.toNat
    · rw [if_pos hown, if_pos (show _ = s.dev.deviceNo.toNat from hown)]
      refine ⟨fun st d hwhy => ?_, nofun⟩
      cases hwhy
      exact ⟨_, rfl, State.fail_replied ..⟩
    · rw [if_neg hown, if_neg (show ¬ _ = s.dev.deviceNo.toNat from hown), State.modPart_some (State.part?_of_live? hlive)]
      exact ⟨fun _ _ => nofun, fun _ => ⟨_, rfl, State.ok_replied ..⟩⟩

/-- Settles O43. -/
theorem telemetryCommandsAct : Obligations.TelemetryCommandsAct := by
  unfold Obligations.TelemetryCommandsAct
  exact ⟨fun ok => acts_sendList fun m s => rfl, telemSeeingCfg_acts, fun s q n => rfl⟩

end Sys2Proof.Machine
end

section
/-! PROOFS. Acceptance of sampled chunks (R51, R62, R64, R65, R80, R353, R354, R396). -/

namespace Sys2Proof.Machine

/-! ### Programme samples -/

/-- A state that keeps everything but memory, the audio groups and the count of free values. -/
def WritesRing (s t : State) : Prop :=
  t = { s with mem := t.mem, badSpans := t.badSpans, lostPcs := t.lostPcs, agroups := t.agroups, freeCtr := t.freeCtr }

theorem WritesRing.trans {s t u : State} (h : WritesRing s t) (k : WritesRing t u) : WritesRing s u := by
  unfold WritesRing at *; rw [k, h]

theorem State.writeCell_writesRing (s : State) (g pos slot : Nat) (prog : Bool) (w : Nat) :
    WritesRing s (s.writeCell g pos slot prog w) := by
  unfold State.writeCell
  dsimp only
  split
  · rfl
  · split <;> rfl

theorem State.writeRun_writesRing (s : State) (g slot chans : Nat) (prog : Bool) (ws : List Nat) (pos ch : Nat) :
    WritesRing s (s.writeRun g slot chans prog ws pos ch) := by
  induction ws generalizing s pos ch with
  | nil => rfl
  | cons w ws ih =>
    rw [State.writeRun]
    split
    · exact (s.writeCell_writesRing ..).trans (ih _ _ _)
    · exact (s.writeCell_writesRing ..).trans (ih _ _ _)

/-- Writing programme samples sets F0 of the stream's outlet, and memory for an audio sink only (R354). -/
theorem State.writeProgramme_spec (s : State) (i : Nat) (c : Chunk) :
    (∃ o : Outlet, (s.writeProgramme i c).stream i = { s.stream i with outlet := o }) ∧
    (∀ j : Nat, j ≠ i → (s.writeProgramme i c).stream j = s.stream j) ∧
    ((s.stream i).sinkKind ≠ 2 → (s.writeProgramme i c).mem = s.mem) ∧ (s.writeProgramme i c).cores = s.cores ∧
    (s.writeProgramme i c).ctxs = s.ctxs ∧ (s.writeProgramme i c).parts = s.parts ∧ (s.writeProgramme i c).mbx = s.mbx := by
  by_cases hsink : (s.stream i).sinkKind = 2
  · obtain ⟨x, o, hx, h⟩ : ∃ (x : Stream) (o : Outlet), x = { s.stream i with outlet := o } ∧
        WritesRing (s.setStream i x) (s.writeProgramme i c) := by
      unfold State.writeProgramme
      dsimp only
      rw [if_pos hsink]
      cases hf : (s.stream i).outlet.f0 with
      | some f =>
        refine ⟨_, (s.stream i).outlet, rfl, WritesRing.trans ?_ (State.writeRun_writesRing ..)⟩
        rfl
      | none =>
        refine ⟨_, { (s.stream i).outlet with f0 := some ((s.group (audGroup (s.stream i).sink)).frame.toNat +
          audDelay (s.stream i).sink) }, rfl, WritesRing.trans ?_ (State.writeRun_writesRing ..)⟩
        rfl
    generalize s.writeProgramme i c = t at *
    have hstreams : t.streams = (s.setStream i x).streams := by rw [h]
    refine ⟨⟨o, ?_⟩, fun j hj => ?_, fun hno => absurd hsink hno, by rw [h]; rfl, by rw [h]; rfl, by rw [h]; rfl, by rw [h]; rfl⟩
    · rw [← hx, State.stream, hstreams]
      exact State.setStream_stream_same ..
    · rw [State.stream, hstreams]
      exact State.setStream_stream_ne _ _ hj
  · have hsame : s.writeProgramme i c = s := by
      unfold State.writeProgramme
      exact if_neg hsink
    rw [hsame]
    exact ⟨⟨_, rfl⟩, fun _ _ => rfl, fun _ => rfl, rfl, rfl, rfl, rfl⟩

/-! ### The accepted chunk -/

theorem Stream.newDeadline_eq (x : Stream) (w now : Nat) : x.newDeadline w now = dueOf x.cls w now x.chunks := by
  unfold Stream.newDeadline dueOf
  simp only [Fin.ext_iff]
  rfl

/-- The chunk that a stream without room for it has when `now` accepts it: its pending chunks are those of `x` (R51, R64). -/
def Stream.nextAs (x : Stream) (frames : Nat) (data : Bytes × Bytes) (absent : Bool) (w : Nat) (now : W64) : Chunk :=
  ⟨x.nextChunkNo, frames, data.2, x.sampleCount, now, dueOf x.cls w now.toNat x.chunks, false, absent, false, data.1⟩

/-- The stream once chunk `c` of `n` samples stands behind its pending ones (R51, R62). -/
def Stream.taking (x : Stream) (c : Chunk) (n : Nat) : Stream :=
  { x with chunks := x.chunks ++ [c], nextChunkNo := x.nextChunkNo + 1, sampleCount := x.sampleCount + BitVec.ofNat 64 n,
           oldestAccept := (((x.chunks ++ [c]).head?).map (·.accept)).getD 0,
           state := if x.state = .stalled then .active else x.state }

/-- The stream once its next chunk has been accepted, with 16 pending in place of the oldest (R51, R80). -/
def Stream.accepts (x : Stream) (n : Nat) (q : Partition) (im : ImageInfo) (gap : Bool) (now : W64) : Stream :=
  (x.consume n).dropOldest.taking ((x.consume n).dropOldest.nextAs (n / max 1 im.samplesPerFrame)
    (x.nextChunk n (max 1 im.samplesPerFrame) gap) (decide (x.presentIn n < n)) q.w now) n

theorem Stream.accepts_getLast (x : Stream) (n : Nat) (q : Partition) (im : ImageInfo) (gap : Bool) (now : W64) :
    ∃ c : Chunk, (x.accepts n q im gap now).chunks.getLast? = some c :=
  ⟨_, List.getLast?_concat⟩

theorem State.acceptChunk_eq {s : State} {i frames n : Nat} {side payload : Bytes} {absent : Bool} {x y : Stream} {q : Partition}
    (hx : s.stream i = x) (hy : y = x.dropOldest) (hq : s.part? y.part.val = some q) :
    s.acceptChunk i frames n side payload absent =
      s.setStream i (y.taking (y.nextAs frames (payload, side) absent q.w s.now) n) := by
  subst hy
  unfold State.acceptChunk
  dsimp only
  rw [hx, hq, Stream.newDeadline_eq]
  rfl

theorem State.acceptSampled_eq {s : State} {i n : Nat} {gap : Bool} {x : Stream} {q : Partition} {im : ImageInfo}
    (hx : s.stream i = x) (hq : s.part? x.part.val = some q) (him : q.shape? = some im) (hn : s.nextChunkSamples x = n) (h0 : n ≠ 0) :
    ∃ c : Chunk, s.acceptSampled i gap =
      ((s.setStream i (x.accepts n q im gap s.now)).writeProgramme i c).poolCheck.settle x.part.val := by
  have hpart : (x.consume n).dropOldest.part = x.part := by
    unfold Stream.dropOldest
    split <;> rfl
  have haccept : (s.setStream i (x.consume n)).acceptChunk i (n / max 1 im.samplesPerFrame) n
      (x.nextChunk n (max 1 im.samplesPerFrame) gap).2 (x.nextChunk n (max 1 im.samplesPerFrame) gap).1 (decide (x.presentIn n < n)) =
      s.setStream i (x.accepts n q im gap s.now) := by
    rw [State.acceptChunk_eq (State.setStream_stream_same ..) rfl (by rw [hpart]; exact hq)]
    exact congrArg (fun l => { s with streams := l }) (tabPut_tabPut ..)
  unfold State.acceptSampled
  dsimp only
  rw [hx, hq, hn, Option.bind_some, him]
  dsimp only
  rw [if_neg h0, haccept, State.setStream_stream_same]
  obtain ⟨c, hc⟩ := x.accepts_getLast n q im gap s.now
  rw [hc]
  exact ⟨c, rfl⟩

theorem Stream.dropOldest_full {x : Stream} (h : 16 ≤ x.chunks.length) : x.dropOldest =
    { x with chunks := x.chunks.tail, chunksLost := satAdd x.chunksLost 1, gap := true } := if_pos h

theorem Stream.dropOldest_room {x : Stream} (h : ¬ 16 ≤ x.chunks.length) : x.dropOldest = x := if_neg h

theorem accepted_of_accepts {s : State} {i n : Nat} {gap : Bool} {x : Stream} {q : Partition} {im : ImageInfo}
    (hx : s.stream i = x) (c : Chunk) :
    Accepted s ((s.setStream i (x.accepts n q im gap s.now)).writeProgramme i c).poolCheck i n q im gap := by
  subst hx
  obtain ⟨⟨o, hsame⟩, hne, hmem, hcores, hctxs, hparts, hmbx⟩ :=
    (s.setStream i ((s.stream i).accepts n q im gap s.now)).writeProgramme_spec i c
  generalize (s.setStream i ((s.stream i).accepts n q im gap s.now)).writeProgramme i c = v at *
  obtain ⟨b, hpool⟩ := v.poolCheck_onlySent
  rw [State.setStream_stream_same] at hsame hmem
  have hu : v.poolCheck.stream i = { (s.stream i).accepts n q im gap s.now with outlet := o } := (hpool.stream i).trans hsame
  have hsink : ((s.stream i).accepts n q im gap s.now).sinkKind = (s.stream i).sinkKind := by
    unfold Stream.accepts Stream.dropOldest
    split <;> rfl
  have hrest : ((s.stream i).sinkKind ≠ 2 → v.poolCheck.mem = s.mem) ∧ (∀ j : Nat, j ≠ i → v.poolCheck.stream j = s.stream j) ∧
      v.poolCheck.cores = s.cores ∧ v.poolCheck.ctxs = s.ctxs ∧ v.poolCheck.parts = s.parts ∧ v.poolCheck.mbx = s.mbx :=
    ⟨fun hno => hpool.mem.trans (hmem (hsink ▸ hno)),
     fun j hj => (hpool.stream j).trans ((hne j hj).trans (State.setStream_stream_ne _ _ hj)),
     hpool.cores.trans hcores, hpool.ctxs.trans hctxs, hpool.parts.trans hparts, hpool.mbx.trans hmbx⟩
  unfold Accepted
  dsimp only
  rw [hu]
  by_cases hfull : 16 ≤ (s.stream i).chunks.length
  · rw [decide_eq_true hfull, Stream.accepts, Stream.dropOldest_full (x := (s.stream i).consume n) hfull]
    exact ⟨rfl, rfl, rfl, rfl, (Bool.or_true _).symm, rfl, rfl, rfl, hrest⟩
  · rw [decide_eq_false hfull, Stream.accepts, Stream.dropOldest_room (x := (s.stream i).consume n) hfull]
    exact ⟨rfl, rfl, rfl, rfl, (Bool.or_false _).symm, rfl, rfl, rfl, hrest⟩

theorem State.acceptSampled_accepted {s : State} {i n : Nat} {x : Stream} {q : Partition} {im : ImageInfo} (gap : Bool)
    (hx : s.stream i = x) (hq : s.part? x.part.val = some q) (him : q.shape? = some im) (hn : s.nextChunkSamples x = n) (h0 : n ≠ 0) :
    ∃ u : State, s.acceptSampled i gap = u.settle x.part.val ∧ Accepted s u i n q im gap := by
  obtain ⟨c, hc⟩ := State.acceptSampled_eq (gap := gap) hx hq him hn h0
  exact ⟨_, hc, accepted_of_accepts hx c⟩

/-! ### The three rows -/

theorem exec_chunkAccept (i : Fin 16384) {s : State} {x : Stream} (hx : x = s.stream i.val) : exec (.chunkAccept i) s =
    if x.takesInput = true ∧ x.srcKind = 1 ∧ s.nextChunkSamples x ≠ 0 ∧ x.presentIn (s.nextChunkSamples x) = s.nextChunkSamples x then
      .next (s.acceptSampled i.val (bndGapReset x.binding)) else .next s := by
  subst hx
  have hexec : exec (.chunkAccept i) s = execChunkAccept i s := rfl
  rw [hexec, execChunkAccept]
  refine if_congr ?_ rfl rfl
  simp [and_assoc]

theorem exec_intakeAudioAccept (i : Fin 16384) {s : State} {x : Stream} (hx : x = s.stream i.val) : exec (.intakeAudioAccept i) s =
    if x.takesInput = true ∧ x.srcKind = 2 ∧ s.nextChunkSamples x ≠ 0 ∧ x.presentIn (s.nextChunkSamples x) = s.nextChunkSamples x then
      .next (s.acceptSampled i.val (s.group (audGroup x.source)).gapReset) else .next s := by
  subst hx
  have hexec : exec (.intakeAudioAccept i) s = execIntakeAudioAccept i s := rfl
  rw [hexec, execIntakeAudioAccept]
  refine if_congr ?_ rfl rfl
  simp [and_assoc]

theorem exec_jitterAcceptTimeout_none (i : Fin 16384) {s : State} {x : Stream} (hx : x = s.stream i.val)
    (h : x.takesInput = false ∨ s.nextChunkSamples x = 0 ∨ x.srcKind ≠ 1 ∨ x.jitterMoment (s.nextChunkSamples x) = none ∨
      ∃ t : Int, x.jitterMoment (s.nextChunkSamples x) = some t ∧ s.time < t) : exec (.jitterAcceptTimeout i) s = .next s := by
  subst hx
  have hexec : exec (.jitterAcceptTimeout i) s = execJitterAcceptTimeout i s := rfl
  rw [hexec, execJitterAcceptTimeout]
  cases hm : (s.stream i.val).jitterMoment (s.nextChunkSamples (s.stream i.val)) with
  | none => rfl
  | some t =>
    refine if_neg fun hgo => ?_
    simp only [Bool.and_eq_true, decide_eq_true_eq] at hgo
    obtain ⟨⟨⟨htakes, hkind⟩, hn⟩, hdue⟩ := hgo
    rw [hm] at h
    rcases h with h | h | h | h | ⟨t', ht', hlt⟩
    · simp [htakes] at h
    · exact hn h
    · exact h hkind
    · cases h
    · cases ht'
      omega

theorem exec_jitterAcceptTimeout_due (i : Fin 16384) {s : State} {x : Stream} {t : Int} (hx : x = s.stream i.val)
    (htakes : x.takesInput = true) (hkind : x.srcKind = 1) (hn : s.nextChunkSamples x ≠ 0)
    (hm : x.jitterMoment (s.nextChunkSamples x) = some t) (ht : t ≤ s.time) :
    exec (.jitterAcceptTimeout i) s = .next (s.acceptSampled i.val (bndGapReset x.binding)) := by
  subst hx
  have hexec : exec (.jitterAcceptTimeout i) s = execJitterAcceptTimeout i s := rfl
  rw [hexec, execJitterAcceptTimeout]
  rw [hm]
  exact if_pos (by simp [htakes, hkind, hn, ht])

/-- Settles O24: each row accepts exactly when its condition holds, and an acceptance is the same for all three. -/
theorem chunksAreAcceptedWithTheirDeadline : Obligations.ChunksAreAcceptedWithTheirDeadline := by
  unfold Obligations.ChunksAreAcceptedWithTheirDeadline
  refine ⟨fun s i x hx => ⟨fun h => ⟨?_, ?_, ?_⟩, fun h => ⟨?_, ?_⟩, fun h => ?_, fun h => ?_⟩,
    fun s i x q im n hx hq him hn h0 htakes => ?_⟩
  · rw [exec_chunkAccept i hx, if_neg (by rcases h with h | h <;> simp [h])]
  · exact exec_jitterAcceptTimeout_none i hx (h.imp_right Or.inl)
  · rw [exec_intakeAudioAccept i hx, if_neg (by rcases h with h | h <;> simp [h])]
  · rw [exec_chunkAccept i hx, if_neg (by simp [h])]
  · exact exec_jitterAcceptTimeout_none i hx (Or.inr (Or.inr (Or.inl h)))
  · rw [exec_intakeAudioAccept i hx, if_neg (by simp [h])]
  · exact exec_jitterAcceptTimeout_none i hx (Or.inr (Or.inr (Or.inr (Or.inl h))))
  · have hnext : s.nextChunkSamples x = n := by rw [State.nextChunkSamples, hq, hn]
    have haccepts : ∀ gap : Bool, ∃ u : State, (.next (s.acceptSampled i.val gap) : Answer) = .next (u.settle x.part.val) ∧
        Accepted s u i.val n q im gap := fun gap => by
      obtain ⟨u, hu, hacc⟩ := State.acceptSampled_accepted gap hx.symm hq him hnext h0
      exact ⟨u, congrArg _ hu, hacc⟩
    rw [exec_chunkAccept i hx, exec_intakeAudioAccept i hx, hnext]
    refine ⟨fun hkind hall => ?_, fun _ hmiss => if_neg (by simp [hmiss]), fun t hkind ht => ⟨fun hdue => ?_, fun hearly => ?_⟩,
      fun hkind hall => ?_, fun _ hmiss => if_neg (by simp [hmiss])⟩
    · rw [if_pos ⟨htakes, hkind, h0, hall⟩]
      exact haccepts _
    · rw [exec_jitterAcceptTimeout_due i hx htakes hkind (hnext ▸ h0) (hnext ▸ ht) hdue]
      exact haccepts _
    · exact exec_jitterAcceptTimeout_none i hx (Or.inr (Or.inr (Or.inr (Or.inr ⟨t, hnext ▸ ht, hearly⟩))))
    · rw [if_pos ⟨htakes, hkind, h0, hall⟩]
      exact haccepts _

end Sys2Proof.Machine
end

section
/-! PROOFS. The stream commands (R57, R58, R61, R63, R73, R81, R83, R422, R476, R478, R479). -/

namespace Sys2Proof.Machine

/-! ### The entry that is taken -/

/-- The entry closed longer ago, of a candidate and the best before it (R57). -/
def State.longerClosed (s : State) (a : Option Nat) (j : Nat) : Option Nat :=
  if !decide ((s.stream j).state = .closed) then a
  else match a with
    | none => some j
    | some b => if (s.stream j).closedOrder < (s.stream b).closedOrder then some j else a

/-- Every entry that a search over candidates answers is closed, where the one it begins with is. -/
theorem State.foldl_longerClosed_closed {s : State} {l : List Nat} {a : Option Nat} {i : Nat}
    (ha : ∀ b, a = some b → (s.stream b).state = .closed) (h : l.foldl s.longerClosed a = some i) : (s.stream i).state = .closed := by
  induction l generalizing a with
  | nil => exact ha i h
  | cons j l ih =>
    refine ih (fun b hb => ?_) h
    unfold State.longerClosed at hb
    split at hb
    · exact ha b hb
    · next hj =>
      have hclosed : (s.stream j).state = .closed := by simpa using hj
      cases a with
      | none => cases hb; exact hclosed
      | some c =>
        dsimp only at hb
        split at hb
        · cases hb; exact hclosed
        · exact ha b hb

/-- STREAM_OPEN takes a CLOSED entry (R57). -/
theorem State.pickEntry_closed {s u : State} {i : Nat} (h : s.pickEntry = (some i, u)) : (u.stream i).state = .closed := by
  unfold State.pickEntry State.free at h
  generalize List.range 16384 = l at h
  dsimp only at h
  split at h
  · next hc =>
    cases h
    simp only [Bool.and_eq_true, decide_eq_true_eq] at hc
    exact hc.1
  · obtain ⟨hi, hu⟩ := Prod.mk.inj h
    subst hu
    exact State.foldl_longerClosed_closed (a := none) nofun hi

/-! ### What is sent -/

theorem State.endShards_onlySent (s : State) (i : Nat) : OnlySent s (s.endShards i) := by
  unfold State.endShards State.eachShard
  refine OnlySent.foldl (fun t v => ?_) _ _
  split
  · dsimp only []
    split
    · exact (State.sendOn_onlySent ..).trans (State.sendOn_onlySent ..)
    · exact State.sendOn_onlySent ..
  · exact OnlySent.rfl' t

theorem State.askShadow_onlySent (s : State) (i peer : Nat) (reply : PeerReply) : OnlySent s (s.askShadow i peer reply) := by
  unfold State.askShadow
  dsimp only
  split
  · exact OnlySent.rfl' s
  · exact State.sendMirror_onlySent ..

theorem OnlySent.mirrorFits {s t : State} (h : OnlySent s t) (i : Nat) : t.mirrorFits i = s.mirrorFits i := by
  unfold State.mirrorFits State.stream State.part?
  rw [h]

theorem OnlySent.setStream {s t : State} (h : OnlySent s t) (i : Nat) (x : Stream) : OnlySent (s.setStream i x) (t.setStream i x) := by
  unfold OnlySent at *
  rw [h]
  rfl

theorem State.mirrorAnswer_ok {s t : State} {i : Nat} {h : W32} (hsent : OnlySent s t) (hfits : s.mirrorFits i = true) :
    t.mirrorAnswer i (.shadowReady h) = .ok h := by
  rw [State.mirrorAnswer, hsent.mirrorFits, hfits]
  rfl

/-- What a peer's answer makes of a request for a shadow that fails (R476, R478). -/
theorem State.mirrorAnswer_error {s t : State} {i : Nat} {peer : PeerReply} {st : Nat} (hsent : OnlySent s t)
    (h : (peer = .noImage ∧ st = 7) ∨ (peer = .admissionDenied ∧ st = 6) ∨
      (s.mirrorFits i = false ∧ (∃ h : W32, peer = .shadowReady h) ∧ st = 10)) : t.mirrorAnswer i peer = .error st := by
  rcases h with ⟨rfl, rfl⟩ | ⟨rfl, rfl⟩ | ⟨hfits, ⟨h, rfl⟩, rfl⟩
  · rfl
  · rfl
  · rw [State.mirrorAnswer, hsent.mirrorFits, hfits]
    rfl

/-! ### STREAM_OPEN -/

theorem exec_streamOpen {s : State} {m : Fin 64} (h : s.Takes m specStreamOpen) (peer : PeerReply) : exec (.streamOpen m peer) s =
    .next (match s.popped.live? (le (s.page m) 0x40 1) with
      | none => s.popped.fail m 7
      | some q =>
        if q.settled = false then s.popped.fail m 8
        else match q.image? with
          | none => s.popped.fail m 3
          | some im =>
            match s.popped.openFault (le (s.page m) 0x40 1) q im (s.page m) with
            | some (st, d) => s.popped.respond m st d []
            | none => s.popped.openStream m (le (s.page m) 0x40 1) q im (s.page m) peer) := by
  have hexec : exec (.streamOpen m peer) s = execStreamOpen m peer s := rfl
  rw [hexec, execStreamOpen, State.runCmd_takes _ _ _ _ h]
  simp only [Bool.not_eq_true']
  rfl

section
variable {s u v : State} {m : Fin 64} {p i : Nat} {q : Partition} {im : ImageInfo} {pg : Bytes} {peer : PeerReply} {x : Stream}

/-- No entry is CLOSED. -/
theorem State.openStream_noEntry (he : s.pickEntry = (none, u)) : s.openStream m p q im pg peer = u.fail m 5 := by
  rw [State.openStream, he]
  rfl

/-- The places cannot all be had. -/
theorem State.openStream_noPlace (he : s.pickEntry = (some i, u)) (hx : x = openEntry (u.stream i) i pg q im (some m))
    (hplace : (u.setStream i x).placeStream p i im = none) : s.openStream m p q im pg peer = u.fail m 10 := by
  subst hx
  rw [State.openStream, he]
  dsimp only
  rw [hplace]
  rfl

theorem State.openStream_plain (he : s.pickEntry = (some i, u)) (hx : x = openEntry (u.stream i) i pg q im (some m))
    (hplace : (u.setStream i x).placeStream p i im = some v) (hmirror : x.mirror = false) :
    s.openStream m p q im pg peer = ((v.writeOpening i im).bindSlots i).background m := by
  subst hx
  rw [State.openStream, he]
  dsimp only
  rw [hplace]
  dsimp only
  rw [if_neg (by simp [hmirror])]

theorem State.openStream_mirrored (he : s.pickEntry = (some i, u)) (hx : x = openEntry (u.stream i) i pg q im (some m))
    (hplace : (u.setStream i x).placeStream p i im = some v) (hmirror : x.mirror = true) {w : State}
    (hw : w = v.askShadow i q.mirrorPeer peer) {h : W32} (hanswer : w.mirrorAnswer i peer = .ok h) :
    s.openStream m p q im pg peer = (((w.modStream i (fun y => { y with
      mirrorSide := some (MirrorSide.mk (BitVec.ofNat 13 q.mirrorPeer) h false none) })).writeOpening i im).bindSlots i).background m := by
  subst hx hw
  rw [State.openStream, he]
  dsimp only
  rw [hplace]
  dsimp only
  rw [if_pos hmirror, hanswer]

/-- What a refused STREAM_OPEN took is given back, and its entry stands as before (R21). -/
def State.takeBack (w : State) (p i : Nat) (old : Stream) : State :=
  ({ (w.dropTable p i).release p (w.stream i).stateAddr.toNat with
    archHeld := ((w.dropTable p i).release p (w.stream i).stateAddr.toNat).archHeld.filter
      (fun h => h.1 != (w.stream i).archAddr) } : State).setStream i old

theorem State.openStream_refused (he : s.pickEntry = (some i, u)) (hx : x = openEntry (u.stream i) i pg q im (some m))
    (hplace : (u.setStream i x).placeStream p i im = some v) (hmirror : x.mirror = true) {w : State}
    (hw : w = v.askShadow i q.mirrorPeer peer) {st : Nat} (hanswer : w.mirrorAnswer i peer = .error st) :
    s.openStream m p q im pg peer = (w.takeBack p i (u.stream i)).fail m st := by
  subst hx hw
  rw [State.openStream, he]
  dsimp only
  rw [hplace]
  dsimp only
  rw [if_pos hmirror, hanswer]
  rfl

end

/-! ### STREAM_CLOSE, STREAM_DRAIN and STREAM_MIGRATE -/

section
variable {s : State} {m : Fin 64} {i : Nat} {x : Stream}

theorem exec_streamClose (h : s.Takes m specStreamClose) (hi : i = le (s.page m) 0x40 4 % 2 ^ 14) (hx : x = s.stream i) :
    exec (.streamClose m) s = .next (
      if x.state = .closed ∨ x.state = .orphaned then s.popped.fail m 3
      else if s.popped.streamBusy i = true then s.popped.fail m 8
      else (((s.popped.setStream i { x with closeReq := true, closeMbx := x.closeMbx ++ [m] }).endShards i).background m).settle
        x.part.val) := by
  have hexec : exec (.streamClose m) s = execStreamClose m s := rfl
  subst hi hx
  rw [hexec, execStreamClose, State.runCmd_takes _ _ _ _ h]
  simp only [Bool.or_eq_true, decide_eq_true_eq]
  rfl

theorem exec_streamDrain (h : s.Takes m specStreamDrain) (hi : i = le (s.page m) 0x40 4 % 2 ^ 14) (hx : x = s.stream i) {stop : Option Nat}
    (hstop : stop = (if x.state = .draining then x.intake.stopAt else if x.presentIn (s.nextChunkSamples x) = 0 then none
      else some (x.sampleCount.toNat + s.nextChunkSamples x))) : exec (.streamDrain m) s = .next (
      if x.state = .closed ∨ x.state = .orphaned then s.popped.fail m 3
      else if s.popped.streamBusy i = true ∨ x.drainMbx ≠ [] then s.popped.fail m 8
      else (((s.popped.setStream i { x with
        drain := true, state := .draining, drainMbx := [m], intake := { x.intake with stopAt := stop } }).endShards i).background
          m).settle x.part.val) := by
  have hexec : exec (.streamDrain m) s = execStreamDrain m s := rfl
  subst hi hx hstop
  rw [hexec, execStreamDrain, State.runCmd_takes _ _ _ _ h]
  simp only [Bool.or_eq_true, decide_eq_true_eq, Bool.not_eq_true', List.isEmpty_eq_false_iff]
  rfl

theorem exec_streamMigrate (h : s.Takes m specStreamMigrate) (hi : i = le (s.page m) 0x40 4 % 2 ^ 14) (hx : x = s.stream i) :
    exec (.streamMigrate m) s = .next (
      if x.state = .closed then s.popped.fail m 3
      else if s.popped.streamBusy i = true ∨ x.drainMbx ≠ [] then s.popped.fail m 8
      else ((s.popped.setStream i { x with migrate := some ((le (s.page m) 0x44 2, m) : Nat × Fin 64) }).background m).idleBoundary
        x.part.val) := by
  have hexec : exec (.streamMigrate m) s = execStreamMigrate m s := rfl
  subst hi hx
  rw [hexec, execStreamMigrate, State.runCmd_takes _ _ _ _ h]
  simp only [Bool.or_eq_true, Bool.not_eq_true', List.isEmpty_eq_false_iff]
  rfl

/-! ### STREAM_MIRROR -/

/-- The peer of a mirror that ends is told (R476). -/
def State.closeMirror (s : State) (x : Stream) : State :=
  match x.mirrorSide with
  | some v => s.sendMirror v.peer.toNat (.close v.shadow)
  | none => s

theorem State.closeMirror_onlySent (s : State) (x : Stream) : OnlySent s (s.closeMirror x) := by
  unfold State.closeMirror
  split
  · exact State.sendMirror_onlySent ..
  · exact OnlySent.rfl' s

/-- Why STREAM_MIRROR fails before its peer is asked, as a status (R476). -/
def State.mirrorWhy (s : State) (m : Fin 64) (i : Nat) (x : Stream) : Option Nat :=
  if x.state = .closed then some 3 else if s.popped.streamBusy i = true ∨ x.drainMbx ≠ [] then some 8
  else if le (s.page m) 0x46 1 = 0 then none else if x.mirrorSide.isSome = true ∨ x.shadow.isSome = true then some 3
  else if s.popped.qpFor 16 (le (s.page m) 0x44 2) = none then some 7 else none

theorem exec_streamMirror (h : s.Takes m specStreamMirror) (hi : i = le (s.page m) 0x40 4 % 2 ^ 14) (hx : x = s.stream i)
    (peer : PeerReply) : exec (.streamMirror m peer) s = .next (
      if x.state = .closed then s.popped.fail m 3
      else if s.popped.streamBusy i = true ∨ x.drainMbx ≠ [] then s.popped.fail m 8
      else if le (s.page m) 0x46 1 = 0 then
        ((s.popped.closeMirror x).modStream i (fun y => { y with mirror := false, mirrorSide := none })).ok m []
      else if x.mirrorSide.isSome = true ∨ x.shadow.isSome = true then s.popped.fail m 3
      else if s.popped.qpFor 16 (le (s.page m) 0x44 2) = none then s.popped.fail m 7
      else match (s.popped.askShadow i (le (s.page m) 0x44 2) peer).mirrorAnswer i peer with
        | .error st => (s.popped.askShadow i (le (s.page m) 0x44 2) peer).fail m st
        | .ok h => ((s.popped.askShadow i (le (s.page m) 0x44 2) peer).modStream i (fun y => { y with
            mirror := true, mirrorSide := some (MirrorSide.mk (BitVec.ofNat 13 (le (s.page m) 0x44 2)) h false (some m)) })).background
              m) := by
  have hexec : exec (.streamMirror m peer) s = execStreamMirror m peer s := rfl
  subst hi hx
  rw [hexec, execStreamMirror, State.runCmd_takes _ _ _ _ h]
  simp only [Bool.or_eq_true, Bool.not_eq_true', List.isEmpty_eq_false_iff, Option.isNone_iff_eq_none]
  rfl

theorem streamMirror_refused (h : s.Takes m specStreamMirror) (hi : i = le (s.page m) 0x40 4 % 2 ^ 14) (hx : x = s.stream i)
    (peer : PeerReply) {st : Nat} (hwhy : s.mirrorWhy m i x = some st) :
    ∃ t, exec (.streamMirror m peer) s = .next t ∧ Replied s.popped t m st 0 [] := by
  rw [exec_streamMirror h hi hx]
  unfold State.mirrorWhy at hwhy
  by_cases hclosed : x.state = .closed
  · rw [if_pos hclosed] at hwhy ⊢
    cases hwhy
    exact ⟨_, rfl, State.fail_replied ..⟩
  rw [if_neg hclosed] at hwhy ⊢
  by_cases hbusy : s.popped.streamBusy i = true ∨ x.drainMbx ≠ []
  · rw [if_pos hbusy] at hwhy ⊢
    cases hwhy
    exact ⟨_, rfl, State.fail_replied ..⟩
  rw [if_neg hbusy] at hwhy ⊢
  by_cases hend : le (s.page m) 0x46 1 = 0
  · rw [if_pos hend] at hwhy
    cases hwhy
  rw [if_neg hend] at hwhy ⊢
  by_cases hmirrored : x.mirrorSide.isSome = true ∨ x.shadow.isSome = true
  · rw [if_pos hmirrored] at hwhy ⊢
    cases hwhy
    exact ⟨_, rfl, State.fail_replied ..⟩
  rw [if_neg hmirrored] at hwhy ⊢
  by_cases hqp : s.popped.qpFor 16 (le (s.page m) 0x44 2) = none
  · rw [if_pos hqp] at hwhy ⊢
    cases hwhy
    exact ⟨_, rfl, State.fail_replied ..⟩
  · rw [if_neg hqp] at hwhy
    cases hwhy

/-- With ENABLE 0 mirroring ends (R476). -/
theorem exec_streamMirror_ends (h : s.Takes m specStreamMirror) (hi : i = le (s.page m) 0x40 4 % 2 ^ 14) (hx : x = s.stream i)
    (peer : PeerReply) (hopen : x.state ≠ .closed) (hfree : s.popped.streamBusy i = false) (hdrain : x.drainMbx = [])
    (hend : le (s.page m) 0x46 1 = 0) : ∃ t u, exec (.streamMirror m peer) s = .next t ∧
      OnlySent (s.popped.setStream i { x with mirror := false, mirrorSide := none }) u ∧ Replied u t m 0 0 [] := by
  have hclosing := s.popped.closeMirror_onlySent x
  rw [exec_streamMirror h hi hx, if_neg hopen, if_neg (by simp [hfree, hdrain]), if_pos hend]
  refine ⟨_, _, rfl, ?_, State.ok_replied ..⟩
  rw [State.modStream, hclosing.stream, ← show x = s.popped.stream i from hx]
  exact hclosing.setStream ..

/-- With ENABLE 1 the peer is asked, and its answer decides (R476). -/
theorem exec_streamMirror_asks (h : s.Takes m specStreamMirror) (hi : i = le (s.page m) 0x40 4 % 2 ^ 14) (hx : x = s.stream i)
    {peer : PeerReply} {w : State} (hw : w = s.popped.askShadow i (le (s.page m) 0x44 2) peer) (hopen : x.state ≠ .closed)
    (hfree : s.popped.streamBusy i = false) (hdrain : x.drainMbx = []) (hbegin : le (s.page m) 0x46 1 = 1) (hplain : x.mirrorSide = none)
    (hnoShadow : x.shadow = none) (hqp : (s.popped.qpFor 16 (le (s.page m) 0x44 2)).isSome = true) :
    exec (.streamMirror m peer) s = .next (match w.mirrorAnswer i peer with
      | .error st => w.fail m st
      | .ok h => (w.modStream i (fun y => { y with
          mirror := true, mirrorSide := some (MirrorSide.mk (BitVec.ofNat 13 (le (s.page m) 0x44 2)) h false (some m)) })).background
            m) := by
  subst hw
  rw [exec_streamMirror h hi hx, if_neg hopen, if_neg (by simp [hfree, hdrain]), if_neg (by simp [hbegin]),
    if_neg (by simp [hplain, hnoShadow]), if_neg (Option.isSome_iff_ne_none.mp hqp)]

end

/-! ### STREAM_ADOPT -/

/-- A shadow is adopted: its hold is lifted, and its binding and slots take effect (R479). -/
def State.adoptShadow (s : State) (i : Nat) (h : ShadowSide) : State :=
  ((s.modStream i (fun x => { x with
    orphanHold := false, resume := true, faultCode := 0, mirror := false, shadow := some { h with adopted := true } })).writeRaw (bindingTable + 128 * i) (s.stream i).binding).bindSlots i

theorem exec_streamAdopt {s : State} {m : Fin 64} {i : Nat} (h : s.Takes m specStreamAdopt) (hi : i = le (s.page m) 0x40 4 % 2 ^ 14) :
    exec (.streamAdopt m) s = .next (
      if (s.popped.stream i).state ≠ .orphaned then s.popped.fail m 3
      else if s.popped.streamBusy i = true then s.popped.fail m 8
      else match (s.popped.stream i).shadow with
        | none => (s.popped.modStream i (fun x => { x with orphanHold := false, resume := true })).ok m []
        | some h => if s.popped.slotsFree (s.popped.stream i).sink (some i) = false then s.popped.fail m 7
          else (s.popped.adoptShadow i h).ok m []) := by
  have hexec : exec (.streamAdopt m) s = execStreamAdopt m s := rfl
  subst hi
  rw [hexec, execStreamAdopt, State.runCmd_takes _ _ _ _ h]
  simp only [Bool.not_eq_true']
  rfl

theorem streamAdopt_acts : Acts .streamAdopt specStreamAdopt
    (fun _ pg s => if (s.stream (le pg 0x40 4 % 2 ^ 14)).state ≠ .orphaned then some (3, 0)
      else if s.streamBusy (le pg 0x40 4 % 2 ^ 14) then some (8, 0)
      else if (s.stream (le pg 0x40 4 % 2 ^ 14)).shadow.isSome ∧ s.slotsFree (s.stream (le pg 0x40 4 % 2 ^ 14)).sink
        (some (le pg 0x40 4 % 2 ^ 14)) = false then some (7, 0) else none)
    (fun _ pg s => match (s.stream (le pg 0x40 4 % 2 ^ 14)).shadow with
      | none => s.modStream (le pg 0x40 4 % 2 ^ 14) (fun x => { x with orphanHold := false, resume := true })
      | some h => s.adoptShadow (le pg 0x40 4 % 2 ^ 14) h)
    noData := by
  intro s m htakes
  rw [exec_streamAdopt htakes rfl]
  dsimp only
  generalize le (s.page m) 0x40 4 % 2 ^ 14 = i
  by_cases horphan : (s.popped.stream i).state ≠ .orphaned
  · rw [if_pos horphan, if_pos horphan]
    refine ⟨fun st d hwhy => ?_, nofun⟩
    cases hwhy
    exact ⟨_, rfl, State.fail_replied ..⟩
  rw [if_neg horphan, if_neg horphan]
  by_cases hbusy : s.popped.streamBusy i = true
  · rw [if_pos hbusy, if_pos hbusy]
    refine ⟨fun st d hwhy => ?_, nofun⟩
    cases hwhy
    exact ⟨_, rfl, State.fail_replied ..⟩
  rw [if_neg hbusy, if_neg hbusy]
  cases hshadow : (s.popped.stream i).shadow with
  | none => exact ⟨fun _ _ => nofun, fun _ => ⟨_, rfl, State.ok_replied ..⟩⟩
  | some h =>
    dsimp only
    by_cases hfree : s.popped.slotsFree (s.popped.stream i).sink (some i) = false
    · rw [if_pos hfree, if_pos ⟨rfl, hfree⟩]
      refine ⟨fun st d hwhy => ?_, nofun⟩
      cases hwhy
      exact ⟨_, rfl, State.fail_replied ..⟩
    · rw [if_neg hfree, if_neg (fun hno => hfree hno.2)]
      exact ⟨fun _ _ => nofun, fun _ => ⟨_, rfl, State.ok_replied ..⟩⟩

/-! ### The statement -/

theorem replied_fail {o : Answer} {s : State} {m : Fin 64} {st : Nat} (h : o = .next (s.fail m st)) :
    ∃ t, o = .next t ∧ Replied s t m st 0 [] :=
  ⟨_, h, State.fail_replied ..⟩

/-- Settles O38, command by command. -/
theorem streamCommandsAct : Obligations.StreamCommandsAct := by
  unfold Obligations.StreamCommandsAct
  refine ⟨fun s u m peer p e htakes hp he => ?_, fun s m i x hi hx => ⟨fun htakes => ?_, fun htakes => ?_, fun htakes => ?_⟩,
    State.endShards_onlySent, streamAdopt_acts, fun s w m peer i x htakes hi hx hw => ⟨fun st hwhy => ?_, fun hopen hfree hdrain => ?_⟩⟩
  · rw [exec_streamOpen htakes, ← hp]
    refine ⟨fun hnone => replied_fail (by rw [hnone]), fun q hq => ?_⟩
    rw [hq]
    refine ⟨fun hunsettled => replied_fail (by simp only [hunsettled, if_true]), fun hsettled hno =>
      replied_fail (by simp [hsettled, hno]), fun hsettled im him => ?_⟩
    dsimp only
    rw [if_neg (by simp [hsettled]), him]
    dsimp only
    refine ⟨fun st d hfault => ?_, fun hfault => ?_⟩ <;> rw [hfault]
    · exact ⟨_, rfl, State.respond_replied ..⟩
    refine ⟨fun hnone => ?_, fun i x hi hx => ?_⟩
    · subst hnone
      exact replied_fail (congrArg _ (State.openStream_noEntry he))
    subst hi
    refine ⟨?_, fun hplace => replied_fail (congrArg _ (State.openStream_noPlace he hx hplace)),
      fun v hplace => ⟨fun hplain => congrArg _ (State.openStream_plain he hx hplace hplain), fun hmirror w hw => ?_⟩⟩
    · subst hx
      exact ⟨rfl, rfl, rfl, rfl, rfl, rfl, rfl, State.pickEntry_closed he⟩
    · have hsent : OnlySent v w := hw ▸ v.askShadow_onlySent ..
      refine ⟨fun h hpeer hfits => ?_, fun st hst => ?_⟩
      · subst hpeer
        exact congrArg _ (State.openStream_mirrored he hx hplace hmirror hw (State.mirrorAnswer_ok hsent hfits))
      · exact replied_fail (congrArg _ (State.openStream_refused he hx hplace hmirror hw (State.mirrorAnswer_error hsent hst)))
  · rw [exec_streamClose htakes hi hx]
    refine ⟨fun hno => replied_fail (by rw [if_pos hno]), fun hopen hserving => ?_⟩
    rw [if_neg (not_or.mpr ⟨hopen, hserving⟩)]
    exact ⟨fun hbusy => replied_fail (by rw [if_pos hbusy]), fun hfree => by rw [if_neg (by simp [hfree])]⟩
  · refine ⟨fun hno => replied_fail (by rw [exec_streamDrain htakes hi hx rfl, if_pos hno]), fun hopen hserving =>
      ⟨fun hbusy => replied_fail ?_, fun hfree hdrain stop hstop => ?_⟩⟩
    · rw [exec_streamDrain htakes hi hx rfl, if_neg (not_or.mpr ⟨hopen, hserving⟩), if_pos hbusy]
    · rw [exec_streamDrain htakes hi hx hstop, if_neg (not_or.mpr ⟨hopen, hserving⟩), if_neg (by simp [hfree, hdrain])]
  · rw [exec_streamMigrate htakes hi hx]
    refine ⟨fun hno => replied_fail (by rw [if_pos hno]), fun hopen => ?_⟩
    rw [if_neg hopen]
    exact ⟨fun hbusy => replied_fail (by rw [if_pos hbusy]), fun hfree hdrain => by rw [if_neg (by simp [hfree, hdrain])]⟩
  · exact streamMirror_refused htakes hi hx peer hwhy
  · refine ⟨exec_streamMirror_ends htakes hi hx peer hopen hfree hdrain, fun hbegin hplain hnoShadow hqp => ?_⟩
    have hsent : OnlySent s.popped w := hw ▸ s.popped.askShadow_onlySent ..
    rw [exec_streamMirror_asks htakes hi hx hw hopen hfree hdrain hbegin hplain hnoShadow hqp]
    refine ⟨fun h hpeer hfits => ?_, fun st hst => replied_fail (by rw [State.mirrorAnswer_error hsent hst])⟩
    subst hpeer
    rw [State.mirrorAnswer_ok hsent hfits]

end Sys2Proof.Machine
end

section
/-! PROOFS. Steps: the start of a step (R71, R72, R75, R193, R194). -/

namespace Sys2Proof.Machine

/-! ### Partitions that stay -/

theorem State.modPart_part_same {s : State} {p : Nat} {q : Partition} (h : s.part? p = some q) (f : Partition → Partition) :
    (s.modPart p f).part? p = some (f q) := by
  rw [State.modPart_some h, State.setPart_part_same]

theorem State.modPart_part_ne (s : State) {p k : Nat} (f : Partition → Partition) (h : k ≠ p) :
    (s.modPart p f).part? k = s.part? k := by
  unfold State.modPart
  split
  · exact State.setPart_part_ne _ _ h
  · rfl

/-- A partition of `s` is one of `t`. -/
def KeepsPart (p : Nat) (s t : State) : Prop := (s.part? p).isSome = true → (t.part? p).isSome = true

theorem KeepsPart.trans {p : Nat} {s t u : State} (h : KeepsPart p s t) (k : KeepsPart p t u) : KeepsPart p s u := k ∘ h

theorem KeepsPart.of_parts {p : Nat} {s t : State} (h : t.parts = s.parts) : KeepsPart p s t := by
  unfold KeepsPart State.part?
  rw [h]
  exact id

theorem State.modPart_keepsPart (s : State) (p k : Nat) (f : Partition → Partition) : KeepsPart p s (s.modPart k f) := by
  intro h
  by_cases hk : p = k
  · subst hk
    obtain ⟨q, hq⟩ := Option.isSome_iff_exists.mp h
    rw [State.modPart_part_same hq]
    rfl
  · rw [State.modPart_part_ne _ _ hk]
    exact h

/-! ### The list enters -/

theorem State.sendKeyed_onlySent (s : State) (n : Nat) (q : Qp) (k : MsgKind) (va : W64) (key : BitVec 32) (d : Bytes) (len : Nat)
    (u : MsgUse) : OnlySent s (s.sendKeyed n q k va key d len u) := by
  unfold State.sendKeyed
  generalize q.packets _ = count
  dsimp only
  split <;> rfl

theorem State.startShards_onlySent (s : State) (i first count : Nat) : OnlySent s (s.startShards i first count) := by
  unfold State.startShards State.eachShard
  refine OnlySent.foldl (fun t v => ?_) _ _
  split
  · refine OnlySent.foldl (fun u k => ?_) _ _
    split
    · exact State.sendKeyed_onlySent ..
    · exact OnlySent.rfl' u
  · exact OnlySent.rfl' t

/-- A stream that ran on another core group is counted as migrated (R73, R86). -/
def State.noteMoved (s : State) (x : Stream) (g : Nat) : State :=
  if (x.chunksDone != 0 || x.lastRunStep != 0) && x.coreGroup.toNat != g then
    s.modPart x.part.val (fun q => { q with seeing := q.seeing.map (fun g => { g with migrated := g.migrated + 1 }) })
  else s

/-- The first frame of a chunk carries a reset mark where one is owed (R82, R247). -/
def State.markReset (s : State) (x : Stream) (a : Nat) : State :=
  if x.gap || x.resetNext then s.writeRaw a [(s.read a 1).getD 0 0 ||| 1] else s

/-- The shards of a home stream get the start records of its oldest chunk (R274). -/
def State.startHead (s : State) (i : Nat) (x : Stream) : State :=
  match x.chunks.head? with
  | some c => s.startShards i c.first.toNat c.frames
  | none => s

theorem State.enterList_eq (s : State) (e : WorkEntry) (n : BitVec 48) (im : ImageInfo) : s.enterList e n im =
    (((s.noteMoved (s.stream e.stream.val) e.group).markReset (s.stream e.stream.val) e.chunkAddr).startHead e.stream.val
      (s.stream e.stream.val)).setStream e.stream.val { s.stream e.stream.val with
        gap := false, resetNext := false, placeNext := none, coreGroup := BitVec.ofNat 10 e.group,
        resCluster := BitVec.ofNat 6 (groupCluster im e.group), lastRunStep := n } := rfl

theorem State.noteMoved_keepsPart (s : State) (p : Nat) (x : Stream) (g : Nat) : KeepsPart p s (s.noteMoved x g) := by
  unfold State.noteMoved
  split
  · exact s.modPart_keepsPart p _ _
  · exact id

theorem State.markReset_parts (s : State) (x : Stream) (a : Nat) : (s.markReset x a).parts = s.parts := by
  unfold State.markReset
  split <;> rfl

theorem State.startHead_parts (s : State) (i : Nat) (x : Stream) : (s.startHead i x).parts = s.parts := by
  unfold State.startHead
  split
  · exact (State.startShards_onlySent ..).parts
  · rfl

theorem State.enterList_keepsPart (s : State) (p : Nat) (e : WorkEntry) (n : BitVec 48) (im : ImageInfo) :
    KeepsPart p s (s.enterList e n im) := by
  rw [State.enterList_eq]
  refine (s.noteMoved_keepsPart p (s.stream e.stream.val) e.group).trans (KeepsPart.of_parts ?_)
  rw [State.setStream_parts, State.startHead_parts, State.markReset_parts]

/-- The entries of a list enter it one after the other. -/
def State.enterAll (s : State) (l : List WorkEntry) (n : BitVec 48) (im : ImageInfo) : State :=
  l.foldl (fun u e => u.enterList e n im) s

theorem State.enterAll_keepsPart (s : State) (p : Nat) (l : List WorkEntry) (n : BitVec 48) (im : ImageInfo) :
    KeepsPart p s (s.enterAll l n im) := by
  unfold State.enterAll
  induction l generalizing s with
  | nil => exact id
  | cons e l ih => exact (s.enterList_keepsPart p e n im).trans (ih _)

/-! ### STEP_START -/

/-- What waits has been applied at a step start, orphans have resumed and pages are supplied (R70, R81, R266). -/
def State.prepareStep (s : State) (p : Nat) : State :=
  ((s.idleBoundary p).resumeOrphans p ((((s.idleBoundary p).part? p).map Partition.w).getD 0)
    ((((s.idleBoundary p).part? p).map Partition.policyHold).getD false)).kvStart p

/-- The list of a step that starts now (R71, R72). -/
def State.stepList (t : State) (p : Nat) (q : Partition) (im : ImageInfo) : List WorkEntry :=
  t.orderEntries im (t.placeAll q im ((passGroupsOf q.sect im).filter (fun g => t.groupServes im g))
    (t.listOrder p im (((passGroupsOf q.sect im).filter (fun g => t.groupServes im g)).length * im.groupSlots)) 0 [])

/-- A step as it begins (R75). -/
def State.newStep (t : State) (q : Partition) (l : List WorkEntry) : StepRun :=
  ⟨q.stepNo, l, listMax (l.map (fun e => e.pass + 1)), 0, false, t.now, t.now, false, false, none, t.sliceArea l.length, 0, false, []⟩

/-- A step begins with its list; its cores gather and are seeded (R75, R114, R136). -/
def State.begun (t : State) (p : Nat) (q : Partition) (im : ImageInfo) (l : List WorkEntry) : State :=
  ((((t.enterAll l q.stepNo im).modPart p (fun v => { v with step := some (t.newStep q l) })).startGather q q.stepNo).seedCores q im
    q.stepNo)

theorem State.startStep_eq {s t : State} {p : Nat} {q0 q : Partition} {im : ImageInfo} {l : List WorkEntry} (hq0 : s.part? p = some q0)
    (hidle : q0.step = none) (himage : q0.image?.isSome = true) (ht : t = s.prepareStep p) (hq : t.part? p = some q)
    (him : q.image? = some im) (hl : l = t.stepList p q im) :
    s.startStep p = if l = [] ∨ t.startDue q im l = false then s.noteLacks p
      else (t.begun p q im l).writeRaw (t.sliceArea l.length) (l.flatMap (fun e => (t.begun p q im l).sliceEntry im e)) := by
  unfold State.startStep
  dsimp only
  rw [hq0]
  dsimp only
  rw [if_neg (by simp [hidle, Option.isSome_iff_ne_none.mp himage]), ← State.prepareStep, ← ht, hq]
  dsimp only
  rw [him]
  dsimp only
  rw [← State.stepList, ← hl]
  simp only [Bool.or_eq_true, List.isEmpty_iff, Bool.not_eq_true']
  rfl

theorem State.begun_part {t : State} {p : Nat} {q : Partition} (im : ImageInfo) (l : List WorkEntry) (hq : t.part? p = some q) :
    ((t.begun p q im l).part? p).bind (·.step) = some (t.newStep q l) := by
  obtain ⟨v, hv⟩ := Option.isSome_iff_exists.mp (t.enterAll_keepsPart p l q.stepNo im (by rw [hq]; rfl))
  have hparts : (t.begun p q im l).parts =
      ((t.enterAll l q.stepNo im).modPart p (fun v => { v with step := some (t.newStep q l) })).parts := by
    rw [State.begun, State.seedCores, ← State.modCores, State.modCores_eq, State.startGather, ← State.modCores, State.modCores_eq]
  rw [State.part?, hparts]
  exact congrArg (·.bind (·.step)) (State.modPart_part_same hv _)

/-- A step starts in SERVING, for a partition that stands and is not reset. -/
theorem exec_stepStart {s : State} {p : Fin 16} {q : Partition} (hq : s.part? p.val = some q) : exec (.stepStart p) s =
    if s.dev.mode = .serving ∧ q.zeroing = none ∧ q.resetting = none then .next (s.startStep p.val) else .next s := by
  have hexec : exec (.stepStart p) s = execStepStart p s := rfl
  rw [hexec, execStepStart, hq]
  refine if_congr ?_ rfl rfl
  simp [and_assoc]

theorem exec_stepStart_due {s t : State} {p : Fin 16} {q0 q : Partition} {im : ImageInfo} {l : List WorkEntry}
    (hq0 : s.part? p.val = some q0) (hidle : q0.step = none) (himage : q0.image?.isSome = true) (hmode : s.dev.mode = .serving)
    (hzero : q0.zeroing = none) (hreset : q0.resetting = none) (ht : t = s.prepareStep p.val) (hq : t.part? p.val = some q)
    (him : q.image? = some im) (hl : l = t.stepList p.val q im) :
    (l ≠ [] → t.startDue q im l = true →
      ∃ (u : State) (r : StepRun), exec (.stepStart p) s = .next u ∧ (u.part? p.val).bind (·.step) = some r ∧ r.no = q.stepNo ∧
        r.list = l ∧ r.passOn = false ∧ r.cur = 0 ∧ r.decided = false ∧ r.replay = none ∧
        u.read r.sliceBase (l.flatMap (fun e => u.sliceEntry im e)).length = l.flatMap (fun e => u.sliceEntry im e)) ∧
    ((l = [] ∨ t.startDue q im l = false) → exec (.stepStart p) s = .next (s.noteLacks p.val)) := by
  rw [exec_stepStart hq0, if_pos ⟨hmode, hzero, hreset⟩, State.startStep_eq hq0 hidle himage ht hq him hl]
  refine ⟨fun hsome hdue => ?_, fun hno => by rw [if_pos hno]⟩
  rw [if_neg (by simp [hsome, hdue])]
  exact ⟨_, t.newStep q l, rfl, t.begun_part im l hq, rfl, rfl, rfl, rfl, rfl, rfl, State.read_writeRaw ..⟩

theorem exec_stepStart_none (s : State) (p : Fin 16) (h : s.part? p.val = none ∨ s.dev.mode ≠ .serving ∨
    (∃ q : Partition, s.part? p.val = some q ∧
      (q.step.isSome = true ∨ q.image? = none ∨ q.zeroing.isSome = true ∨ q.resetting.isSome = true))) :
    exec (.stepStart p) s = .next s := by
  cases hq : s.part? p.val with
  | none =>
    have hexec : exec (.stepStart p) s = execStepStart p s := rfl
    rw [hexec, execStepStart, hq]
  | some q =>
    rw [exec_stepStart hq]
    split
    · next hgo =>
      obtain ⟨hmode, hzero, hreset⟩ := hgo
      have hstop : q.step.isSome = true ∨ q.image? = none := by
        rcases h with h | h | ⟨v, hv, h⟩
        · rw [h] at hq; cases hq
        · exact absurd hmode h
        · rw [hq] at hv
          cases hv
          rcases h with h | h | h | h
          · exact Or.inl h
          · exact Or.inr h
          · rw [hzero] at h; cases h
          · rw [hreset] at h; cases h
      rw [State.startStep, hq]
      dsimp only
      rw [if_pos (by rcases hstop with h | h <;> simp [h])]
    · rfl

end Sys2Proof.Machine
end

section
/-! PROOFS. Passes: contexts start, end and are run again (R193, R218, R468, R469, R492, R539). -/

namespace Sys2Proof.Machine

/-! ### Contexts that start -/

theorem groupCores_nodup (im : ImageInfo) (g : Nat) : (groupCores im g).Nodup :=
  List.nodup_range.map fun _ _ h => Nat.add_left_cancel h

/-- The entries of a group that a context of pass `k` serves. -/
def StepRun.mine (r : StepRun) (k g : Nat) : List WorkEntry :=
  r.list.filter (fun e => e.pass == k && e.group == g && !e.gone && !e.committed)

/-- The context of a group in a pass: the Umber job where all its streams are Umber (R193; log 42). -/
def State.passContext (s : State) (p : Nat) (im : ImageInfo) (r : StepRun) (k g : Nat) : Context :=
  let umber := (r.mine k g).all (fun e => (s.stream e.stream.val).cls.val == 2)
  ⟨Fin.ofNat 16 p, g, groupCores im g, umber, r.no, k, (r.mine k g).map (·.stream), if umber then im.umberPc else im.entryPc,
    if umber then im.umberSeed else im.seed, im.nanTrap, .running, none, false, [], []⟩

/-- Where the work slice of a group begins, and how many entries it holds (R193, R194). -/
def StepRun.sliceOf (r : StepRun) (k g : Nat) : Nat :=
  r.sliceBase + 48 * (indexOf? (fun (e : WorkEntry) => e.pass == k && e.group == g) r.list).getD 0
def StepRun.sliceCount (r : StepRun) (k g : Nat) : Nat := (r.list.filter (fun e => e.pass == k && e.group == g)).length

/-- A core of the group once its context has started. -/
def Core.begun (q : Core) (im : ImageInfo) (r : StepRun) (k g id : Nat) (x : Context) (c : Nat) : Core :=
  { q.start c id (r.sliceOf k g) (r.sliceCount k g) x with tagCtl := im.tagEnable, gathering := decide (r.cur ≤ k) }

/-- A context is entered and its cores start. -/
def State.launch (s : State) (im : ImageInfo) (r : StepRun) (k g id : Nat) (x : Context) : State :=
  ({ s with freeCtr := s.freeCtr + 1 }.setCtx id x).modCores (groupCores im g) (fun c q => q.begun im r k g id x c)

theorem State.startContext_launch {s : State} {p k g : Nat} {im : ImageInfo} {r : StepRun}
    (hmine : r.list.any (fun e => e.pass == k && e.group == g && !e.gone && !e.committed) = true)
    (hfree : s.ctxs.any (fun v => v.2.part.val == p && v.2.group == g && v.2.pass == k) = false) :
    s.startContext p im r k g = s.launch im r k g (s.newCtxId p).1 (s.passContext p im r k g) := by
  have hsome : r.mine k g ≠ [] := by
    obtain ⟨e, he, hkg⟩ := List.any_eq_true.mp hmine
    exact List.ne_nil_of_mem (List.mem_filter.mpr ⟨he, hkg⟩)
  obtain ⟨e, l, hl⟩ := List.exists_cons_of_ne_nil hsome
  unfold State.startContext
  dsimp only
  rw [hfree, ← StepRun.mine, hl]
  dsimp only
  rw [← hl]
  rfl

theorem State.startContext_same {s : State} {p k g : Nat} {im : ImageInfo} {r : StepRun}
    (h : r.list.any (fun e => e.pass == k && e.group == g && !e.gone && !e.committed) = false ∨
      s.ctxs.any (fun v => v.2.part.val == p && v.2.group == g && v.2.pass == k) = true) : s.startContext p im r k g = s := by
  unfold State.startContext
  dsimp only
  rcases h with h | h
  · have hnone : r.list.filter (fun e => e.pass == k && e.group == g && !e.gone && !e.committed) = [] :=
      List.filter_eq_nil_iff.mpr fun e he => List.any_eq_false.mp h e he
    rw [hnone]
  · rw [h]
    cases r.list.filter (fun e => e.pass == k && e.group == g && !e.gone && !e.committed) <;> rfl

/-- Starting a context changes nothing but contexts, cores and the count of free values. -/
theorem State.startContext_eq (s : State) (p k g : Nat) (im : ImageInfo) (r : StepRun) : ∃ t, s.startContext p im r k g = t ∧
    t = { s with ctxs := t.ctxs, cores := t.cores, freeCtr := t.freeCtr } := by
  refine ⟨_, rfl, ?_⟩
  cases hmine : r.list.any (fun e => e.pass == k && e.group == g && !e.gone && !e.committed) with
  | false => rw [State.startContext_same (Or.inl hmine)]
  | true =>
    cases hparked : s.ctxs.any (fun v => v.2.part.val == p && v.2.group == g && v.2.pass == k) with
    | true => rw [State.startContext_same (Or.inr hparked)]
    | false =>
      rw [State.startContext_launch hmine hparked, State.launch, State.modCores_eq]
      rfl

theorem State.launch_ctx (s : State) (im : ImageInfo) (r : StepRun) (k g id : Nat) (x : Context) :
    (s.launch im r k g id x).ctx? id = some x := by
  rw [State.launch, State.modCores_eq]
  exact State.setCtx_ctx_same ..

theorem State.launch_core (s : State) {im : ImageInfo} {r : StepRun} {k g id : Nat} {x : Context} {c : Nat} (hc : c ∈ groupCores im g) :
    (s.launch im r k g id x).core c = (s.core c).begun im r k g id x c := by
  rw [State.launch, State.modCores_core _ _ (groupCores_nodup im g), if_pos hc]
  rfl

theorem State.startContext_spec {s t : State} {p k g : Nat} {im : ImageInfo} {r : StepRun} (ht : t = s.startContext p im r k g)
    (hmine : r.list.any (fun e => e.pass == k && e.group == g && !e.gone && !e.committed) = true)
    (hfree : s.ctxs.any (fun v => v.2.part.val == p && v.2.group == g && v.2.pass == k) = false) :
    ∃ (id slice count : Nat) (x : Context), t.ctx? id = some x ∧ x.state = .running ∧ x.step = r.no ∧ x.cores = groupCores im g ∧
      x.umber = (r.list.filter (fun e => e.pass == k && e.group == g && !e.gone && !e.committed)).all
        (fun e => (s.stream e.stream.val).cls.val == 2) ∧
      ∀ c : Nat, c ∈ groupCores im g → (t.core c).ctx = some (BitVec.ofNat 16 id) ∧ (t.core c).seq = .running ∧
        (t.core c).pc = (if x.umber then im.umberPc else im.entryPc) ∧ (t.core c).f = Vector.replicate 32 0 ∧ (t.core c).m = Vector.replicate 4 0 ∧
        (t.core c).slots = (s.core c).slots ∧
        (t.core c).x = #v[0, r.no.setWidth 64, BitVec.ofNat 64 slice, BitVec.ofNat 64 count, BitVec.ofNat 64 c,
          BitVec.ofNat 64 id, 0, 0, 0, 0, 0, 0, 0, 0, 0, 0] := by
  rw [ht, State.startContext_launch hmine hfree]
  refine ⟨(s.newCtxId p).1, r.sliceOf k g, r.sliceCount k g, s.passContext p im r k g, State.launch_ctx .., rfl, rfl, rfl, rfl,
    fun c hc => ?_⟩
  rw [State.launch_core s hc]
  exact ⟨rfl, rfl, rfl, rfl, rfl, rfl, rfl⟩

/-! ### PASS_START -/

theorem exec_passStart {s : State} {p : Fin 16} {r : StepRun} (hr : (s.part? p.val).bind (·.step) = some r) : exec (.passStart p) s =
    if s.dev.mode = .serving ∧ r.passOn = false ∧ r.replay = none ∧ r.cur < r.passes then
      .next ((s.startPass p.val r.cur false).settle p.val) else .next s := by
  have hexec : exec (.passStart p) s = execPassStart p s := rfl
  rw [hexec, execPassStart, hr]
  refine if_congr ?_ rfl rfl
  simp [and_assoc]

theorem exec_passStart_none {s : State} {p : Fin 16} (h : (s.part? p.val).bind (·.step) = none) : exec (.passStart p) s = .next s := by
  have hexec : exec (.passStart p) s = execPassStart p s := rfl
  rw [hexec, execPassStart, h]

theorem exec_passStart_notServing {s : State} (p : Fin 16) (h : s.dev.mode ≠ .serving) : exec (.passStart p) s = .next s := by
  cases hr : (s.part? p.val).bind (·.step) with
  | none => exact exec_passStart_none hr
  | some r => rw [exec_passStart hr, if_neg (fun hgo => h hgo.1)]

/-! ### CONTEXT_END -/

theorem exec_contextEnd_none {s : State} {id : BitVec 16} (h : s.ctx? id.toNat = none) : exec (.contextEnd id) s = .next s := by
  have hexec : exec (.contextEnd id) s = execContextEnd id s := rfl
  rw [hexec, execContextEnd, h]

/-- A core that its context has left. -/
def Core.left (k : Core) : Core := { k with seq := .idle, ctx := none }

/-- A core whose photometers gather no longer (R136). -/
def Core.gathered (k : Core) : Core := { k with gathering := false }

/-- An entry of the ended context `x` is stored (R218). -/
def WorkEntry.storedBy (e : WorkEntry) (x : Context) : WorkEntry :=
  if e.pass == x.pass && e.group == x.group && !e.gone then { e with stored := true } else e

/-- A later pass of the step runs on the cores of the ended context `x`. -/
def State.runsLater (s : State) (x : Context) : Bool :=
  ((s.part? x.part.val).bind (·.step)).any (fun r => r.list.any (fun e => e.group == x.group && x.pass < e.pass && !e.gone))

/-- The cores of an ended context are free, and its entry is gone. -/
def State.leave (s : State) (id : Nat) (x : Context) : State :=
  { s.modCores x.cores (fun _ => Core.left) with ctxs := tabDel s.ctxs id }

/-- The context has ended, all but what follows for its partition. -/
def State.ended (s : State) (id : Nat) (x : Context) : State :=
  (if (s.leave id x).runsLater x then s.leave id x else (s.leave id x).modCores x.cores (fun _ => Core.gathered)).modPart x.part.val
    (fun q => { q with step := q.step.map (fun r => { r with list := r.list.map (·.storedBy x) }) })

theorem exec_contextEnd {s : State} {id : BitVec 16} {x : Context} (hx : s.ctx? id.toNat = some x) : exec (.contextEnd id) s =
    if ∀ c ∈ x.cores, c ∈ x.endedCores then .next ((s.ended id.toNat x).settle x.part.val) else .next s := by
  have hexec : exec (.contextEnd id) s = execContextEnd id s := rfl
  have hleave : { x.cores.foldl (fun (t : State) c => t.modCore c (fun k => { k with seq := .idle, ctx := none })) s with
      ctxs := tabDel (x.cores.foldl (fun (t : State) c => t.modCore c (fun k => { k with seq := .idle, ctx := none })) s).ctxs
        id.toNat } = s.leave id.toNat x := by
    have hctxs : (s.modCores x.cores (fun _ => Core.left)).ctxs = s.ctxs := by rw [State.modCores_eq]
    rw [State.leave, ← hctxs]
    rfl
  rw [hexec, execContextEnd, hx]
  dsimp only
  rw [hleave]
  refine if_congr ?_ rfl rfl
  simp

/-- A change that is the same twice over, made to the cores of a list. -/
theorem State.modCores_core_idem (s : State) {f : Core → Core} (hf : ∀ k, f (f k) = f k) (l : List Nat) (c : Nat) :
    (s.modCores l (fun _ => f)).core c = if c ∈ l then f (s.core c) else s.core c := by
  unfold State.modCores
  induction l generalizing s with
  | nil => rfl
  | cons d l ih =>
    rw [List.foldl_cons, ih]
    by_cases hd : c = d
    · subst hd
      simp [State.modCore, hf]
    · simp [hd, State.modCore, State.setCore_core_ne]

theorem State.leave_core (s : State) (id : Nat) (x : Context) (c : Nat) :
    (s.leave id x).core c = if c ∈ x.cores then (s.core c).left else s.core c := by
  rw [← State.modCores_core_idem s (f := Core.left) (fun _ => rfl)]
  rfl

theorem State.leave_eq (s : State) (id : Nat) (x : Context) :
    s.leave id x = { s with cores := (s.leave id x).cores, ctxs := tabDel s.ctxs id } := by
  unfold State.leave
  rw [State.modCores_eq]

/-- The end of a context changes its entry, its cores and the list of its partition's step. -/
theorem State.ended_spec (s : State) (id : Nat) (x : Context) :
    (s.ended id x).ctx? id = none ∧ (s.ended id x).mem = s.mem ∧
    (∀ c : Nat, c ∈ x.cores → ((s.ended id x).core c).seq = .idle ∧ ((s.ended id x).core c).ctx = none) ∧
    (∀ c : Nat, c ∉ x.cores → (s.ended id x).core c = s.core c) ∧
    (∀ r : StepRun, (s.part? x.part.val).bind (·.step) = some r →
      ∃ v, ((s.ended id x).part? x.part.val).bind (·.step) = some v ∧ v.list = r.list.map (·.storedBy x)) := by
  obtain ⟨t, ht, heq, hin, hout⟩ : ∃ t : State, s.ended id x = t.modPart x.part.val
        (fun q => { q with step := q.step.map (fun r => { r with list := r.list.map (·.storedBy x) }) }) ∧
      t = { s with cores := t.cores, ctxs := tabDel s.ctxs id } ∧
      (∀ c ∈ x.cores, (t.core c).seq = .idle ∧ (t.core c).ctx = none) ∧ ∀ c ∉ x.cores, t.core c = s.core c := by
    refine ⟨_, rfl, ?_⟩
    split
    · refine ⟨s.leave_eq id x, fun c hc => ?_, fun c hc => ?_⟩
      · rw [State.leave_core, if_pos hc]
        exact ⟨rfl, rfl⟩
      · rw [State.leave_core, if_neg hc]
    · refine ⟨?_, fun c hc => ?_, fun c hc => ?_⟩
      · rw [State.modCores_eq, State.leave_eq]
      · rw [State.modCores_core_idem _ (f := Core.gathered) (fun _ => rfl), if_pos hc, State.leave_core, if_pos hc]
        exact ⟨rfl, rfl⟩
      · rw [State.modCores_core_idem _ (f := Core.gathered) (fun _ => rfl), if_neg hc, State.leave_core, if_neg hc]
  have hparts : t.parts = s.parts := by rw [heq]
  rw [ht]
  refine ⟨?_, ?_, ?_, ?_, fun r hr => ?_⟩
  · rw [State.modPart_eq, heq]
    exact tabGet?_tabDel_same ..
  · rw [State.modPart_eq, heq]
  · rw [State.modPart_eq]
    exact hin
  · rw [State.modPart_eq]
    exact hout
  · obtain ⟨q, hq, hstep⟩ := Option.bind_eq_some_iff.mp hr
    have hqt : t.part? x.part.val = some q := by rw [State.part?, hparts]; exact hq
    rw [State.modPart_part_same hqt, Option.bind_some]
    dsimp only
    rw [hstep]
    exact ⟨_, rfl, rfl⟩

/-! ### A pass starts -/

/-- Partitions, the record of faults and the clusters stay. -/
structure KeepsUnits (s t : State) : Prop where
  parts : t.parts = s.parts
  health : t.health = s.health
  clusters : t.clusters = s.clusters

theorem KeepsUnits.cluster {s t : State} (h : KeepsUnits s t) (n : Nat) : t.cluster n = s.cluster n := by
  unfold State.cluster
  rw [h.clusters]

theorem KeepsUnits.rfl' (s : State) : KeepsUnits s s := ⟨rfl, rfl, rfl⟩

theorem KeepsUnits.trans {s t u : State} (h : KeepsUnits s t) (k : KeepsUnits t u) : KeepsUnits s u :=
  ⟨k.parts.trans h.parts, k.health.trans h.health, k.clusters.trans h.clusters⟩

theorem KeepsUnits.foldl {α : Type} {f : State → α → State} (hf : ∀ s a, KeepsUnits s (f s a)) (l : List α) (s : State) :
    KeepsUnits s (l.foldl f s) := by
  induction l generalizing s with
  | nil => exact .rfl' s
  | cons a l ih => exact (hf s a).trans (ih _)

theorem State.startContext_keepsUnits (s : State) (p k g : Nat) (im : ImageInfo) (r : StepRun) :
    KeepsUnits s (s.startContext p im r k g) := by
  obtain ⟨t, ht, heq⟩ := s.startContext_eq p k g im r
  rw [ht]
  exact ⟨by rw [heq], by rw [heq], by rw [heq]⟩

/-- The program, weights and residency of a unit written again are no change of a unit (R324). -/
theorem State.rebuildUnit_keepsUnits (s : State) (p u : Nat) : KeepsUnits s (s.rebuildUnit p u) := by
  unfold State.rebuildUnit
  split
  · exact .rfl' s
  · split
    · exact .rfl' s
    · split
      · refine KeepsUnits.foldl (fun t w => ?_) _ _
        split
        · exact ⟨rfl, rfl, rfl⟩
        · exact .rfl' t
      · refine KeepsUnits.trans (t := s.writeRaw _ _) ⟨rfl, rfl, rfl⟩ (KeepsUnits.foldl (fun t x => ?_) _ _)
        split
        · exact ⟨rfl, rfl, rfl⟩
        · exact .rfl' t

/-- Without a failed bank no context faults for one (R325). -/
theorem State.failedBankFaults_none {s : State} (h : ∀ n : Nat, (s.cluster n).failedBanks = []) (p : Nat) :
    s.failedBankFaults p = s := by
  have hhit : ∀ c : Nat, ((s.cluster (c / 32)).failedBanks.any (fun b => (s.cluster (c / 32)).banksOn.getLsbD b)) = false := fun c => by
    rw [h]
    rfl
  have hnone : s.ctxs.filter (fun x => x.2.part.val == p && x.2.cores.any (fun c =>
      (s.cluster (c / 32)).failedBanks.any (fun b => (s.cluster (c / 32)).banksOn.getLsbD b))) = [] :=
    List.filter_eq_nil_iff.mpr fun x _ => by simp [hhit]
  unfold State.failedBankFaults
  dsimp only
  rw [hnone]
  rfl

/-- The list of a step as pass `k` starts: each stream's N0 is recorded, those of a lost group leave the step (R26, R471). -/
def State.passList (s : State) (im : ImageInfo) (r : StepRun) (k : Nat) (again : Bool) : List WorkEntry :=
  r.list.map (fun e =>
    if e.pass == k && !e.gone && !e.committed && !s.groupServes im e.group then { e with gone := true }
    else if e.pass == k && !e.gone && !e.committed then
      { e with n0 := if again then e.n0 else (s.stream e.stream.val).nextOutSeq, stored := false, outIdx := 0 } else e)

/-- A replayed pass numbers its records from N0 again (R471). -/
def State.renumber (s : State) (k : Nat) (again : Bool) (l : List WorkEntry) : State :=
  if again then l.foldl (fun t e => if e.pass == k && !e.gone && !e.committed then
    t.setStream e.stream.val { t.stream e.stream.val with nextOutSeq := e.n0 } else t) s else s

theorem State.renumber_keepsUnits (s : State) (k : Nat) (again : Bool) (l : List WorkEntry) : KeepsUnits s (s.renumber k again l) := by
  unfold State.renumber
  split
  · refine KeepsUnits.foldl (fun t e => ?_) _ _
    split
    · exact ⟨rfl, rfl, rfl⟩
    · exact .rfl' t
  · exact .rfl' s

/-- The run of a step in which pass `k` starts. -/
def StepRun.starting (r : StepRun) (l : List WorkEntry) (k : Nat) (now : W64) (again : Bool) : StepRun :=
  { r with list := l, passOn := true, running := k, passStart := now, again := again }

/-- The contexts of pass `k` start one after the other. -/
def State.startGroups (s : State) (p : Nat) (im : ImageInfo) (r : StepRun) (k : Nat) : State :=
  ((r.list.filter (fun e => e.pass == k && !e.gone && !e.committed)).foldl
    (fun (gs : List Nat) e => if gs.contains e.group then gs else gs ++ [e.group]) []).foldl (fun t g => t.startContext p im r k g) s

theorem State.startGroups_keepsUnits (s : State) (p : Nat) (im : ImageInfo) (r : StepRun) (k : Nat) :
    KeepsUnits s (s.startGroups p im r k) :=
  KeepsUnits.foldl (fun t g => t.startContext_keepsUnits p k g im r) _ s

theorem State.startPass_eq {s : State} {p : Nat} {q : Partition} {r : StepRun} {im : ImageInfo} (hq : s.part? p = some q)
    (hr : q.step = some r) (him : q.image? = some im) (k : Nat) (again : Bool) {v : StepRun} {t : State}
    (ht : t = s.renumber k again (s.passList im r k again)) (hv : v = r.starting (s.passList im r k again) k t.now again) :
    s.startPass p k again = ((t.setPart p { q with step := some v }).startGroups p im v k).failedBankFaults p := by
  subst hv ht
  unfold State.startPass
  rw [hq]
  dsimp only
  rw [hr, him]
  rfl

theorem State.startPass_spec {s : State} {p : Nat} {q : Partition} {r : StepRun} {im : ImageInfo} (hq : s.part? p = some q)
    (hr : q.step = some r) (him : q.image? = some im) (hbanks : ∀ n : Nat, (s.cluster n).failedBanks = []) (k : Nat) (again : Bool) :
    (s.startPass p k again).health = s.health ∧ ∃ (l : List WorkEntry) (now : W64),
      ((s.startPass p k again).part? p).bind (·.step) = some (r.starting l k now again) := by
  have hre := s.renumber_keepsUnits k again (s.passList im r k again)
  rw [State.startPass_eq hq hr him k again rfl rfl]
  generalize s.renumber k again (s.passList im r k again) = t at *
  have hgroups := (t.setPart p { q with step := some (r.starting (s.passList im r k again) k t.now again) }).startGroups_keepsUnits p im
    (r.starting (s.passList im r k again) k t.now again) k
  rw [State.failedBankFaults_none fun n => ?_]
  · refine ⟨hgroups.health.trans hre.health, s.passList im r k again, t.now, ?_⟩
    rw [State.part?, hgroups.parts]
    exact congrArg (·.bind (·.step)) (State.setPart_part_same ..)
  · rw [hgroups.cluster]
    exact (congrArg (·.failedBanks) (hre.cluster n)).trans (hbanks n)

/-! ### REPLAY_RELOAD_DONE -/

/-- The record of faults once a pass is run again after `us` (R492). -/
def MemHealth.replayed (h : MemHealth) (us : Nat) : MemHealth :=
  { h with replayCnt := satAdd h.replayCnt 1, maxUs := BitVec.ofNat 16 (max h.maxUs.toNat (min us 65535)),
           lastUs := BitVec.ofNat 16 (min us 65535) }

/-- The interrupted pass waits for its replay no longer, which is counted with its time (R469, R492). -/
def State.countReplay (s : State) (p us : Nat) : State :=
  ({ s with health := s.health.replayed us } : State).modPart p (fun q => { q with step := q.step.map (fun r => r.popReplay) })

theorem State.countReplay_spec {s : State} {p : Nat} {q : Partition} {r : StepRun} (hq : s.part? p = some q) (hr : q.step = some r)
    (us : Nat) : (s.countReplay p us).part? p = some { q with step := some r.popReplay } ∧
      (s.countReplay p us).health = s.health.replayed us ∧ (s.countReplay p us).clusters = s.clusters := by
  have hcounted : ({ s with health := s.health.replayed us } : State).part? p = some q := hq
  unfold State.countReplay
  refine ⟨?_, ?_, ?_⟩
  · rw [State.modPart_part_same hcounted, hr]
    rfl
  · rw [State.modPart_eq]
  · rw [State.modPart_eq]

/-- The unit that failed is rebuilt where it is a core or a cluster (R324). -/
def State.rebuildFaulty (s : State) (p id : Nat) : State :=
  if bits id 56 8 ≤ 3 && bits id 56 8 ≠ 0 && bits id 32 16 < 1536 then s.rebuildUnit p (bits id 32 16)
  else if bits id 56 8 = 4 then s.rebuildUnit p (1536 + bits id 32 16) else s

theorem State.rebuildFaulty_keepsUnits (s : State) (p id : Nat) : KeepsUnits s (s.rebuildFaulty p id) := by
  unfold State.rebuildFaulty
  split
  · exact State.rebuildUnit_keepsUnits ..
  · split
    · exact State.rebuildUnit_keepsUnits ..
    · exact .rfl' s

/-- The replay is reported: a wear record and an event (R473, R482). -/
theorem State.rerun_reports {s : State} {p : Nat} {r : StepRun} {v : Replay} (hr : (s.part? p).bind (·.step) = some r)
    (hv : r.replay = some v) (hoff : r.passOn = false) : ∃ o : FlashOp, OnlySent
      ((((s.countReplay p ((s.time - v.passStart.toNat) / 1000)).rebuildFaulty p v.fault.unit.toNat).startPass p v.pass true).flashOp o)
      (s.rerun p) := by
  unfold State.rerun
  rw [hr]
  dsimp only
  rw [hv]
  dsimp only
  rw [if_neg (by simp [hoff])]
  exact ⟨_, State.raise_onlySent ..⟩

theorem State.rerun_spec {s : State} {p : Nat} {q : Partition} {r : StepRun} {v : Replay} (hq : s.part? p = some q)
    (hr : q.step = some r) (him : q.image?.isSome = true) (hv : r.replay = some v) (hoff : r.passOn = false)
    (hbanks : ∀ n : Nat, (s.cluster n).failedBanks = []) :
    (s.rerun p).health = s.health.replayed ((s.time - v.passStart.toNat) / 1000) ∧ ∃ (l : List WorkEntry) (now : W64),
      ((s.rerun p).part? p).bind (·.step) = some (r.popReplay.starting l v.pass now true) := by
  obtain ⟨im, him⟩ := Option.isSome_iff_exists.mp him
  obtain ⟨o, hsent⟩ := State.rerun_reports (by rw [hq]; exact hr) hv hoff
  have hfaulty := (s.countReplay p ((s.time - v.passStart.toNat) / 1000)).rebuildFaulty_keepsUnits p v.fault.unit.toNat
  obtain ⟨hpart, hhealth, hclusters⟩ := State.countReplay_spec hq hr ((s.time - v.passStart.toNat) / 1000)
  generalize s.countReplay p ((s.time - v.passStart.toNat) / 1000) = c at *
  generalize c.rebuildFaulty p v.fault.unit.toNat = t at *
  have htpart : t.part? p = some { q with step := some r.popReplay } := by rw [State.part?, hfaulty.parts]; exact hpart
  have htbanks : ∀ n : Nat, (t.cluster n).failedBanks = [] := fun n => by
    unfold State.cluster
    rw [hfaulty.clusters, hclusters]
    exact hbanks n
  obtain ⟨hpass, l, now, hstep⟩ := State.startPass_spec htpart rfl (show _ = some im from him) htbanks v.pass true
  refine ⟨?_, l, now, ?_⟩
  · rw [hsent]
    exact (hpass.trans hfaulty.health).trans hhealth
  · rw [hsent.part?]
    exact hstep

theorem exec_replayReloadDone_none {s : State} {p : Fin 16} (h : (s.part? p.val).bind (·.step) = none ∨
    ∃ r : StepRun, (s.part? p.val).bind (·.step) = some r ∧ (r.replay = none ∨ r.passOn = true)) :
    exec (.replayReloadDone p) s = .next s := by
  have hexec : exec (.replayReloadDone p) s = .next (s.rerun p.val) := rfl
  rw [hexec, State.rerun]
  rcases h with h | ⟨r, h, hno⟩
  · rw [h]
  · rw [h]
    dsimp only
    rcases hno with hno | hno
    · rw [hno]
    · cases r.replay with
      | none => rfl
      | some v => exact congrArg Host.Outcome.next (if_pos hno)

end Sys2Proof.Machine
end

section
/-! PROOFS. The end of a partition's reset: code is written again and PART_RESET answered (R419, R427, R525). -/

namespace Sys2Proof.Machine

/-! ### Code and weights written again -/

/-- Only memory, the power of SRAM and residency differ: no stream changes but for its residency. -/
structure Rewrites (s t : State) : Prop where
  eq : t = { s with mem := t.mem, badSpans := t.badSpans, lostPcs := t.lostPcs, streams := t.streams, clusters := t.clusters,
                    cores := t.cores }
  stream : ∀ i : Nat, t.stream i = s.stream i ∨ t.stream i = { s.stream i with resCluster := 63 }

theorem Rewrites.rfl' (s : State) : Rewrites s s := ⟨rfl, fun _ => Or.inl rfl⟩

theorem Rewrites.trans {s t u : State} (h : Rewrites s t) (k : Rewrites t u) : Rewrites s u := by
  refine ⟨k.eq.trans (by rw [h.eq]), fun i => ?_⟩
  rcases k.stream i with hk | hk
  · rw [hk]
    exact h.stream i
  · rw [hk]
    rcases h.stream i with hs | hs
    · exact Or.inr (by rw [hs])
    · exact Or.inr (by rw [hs])

theorem Rewrites.foldl {α : Type} {f : State → α → State} (hf : ∀ s a, Rewrites s (f s a)) (l : List α) (s : State) :
    Rewrites s (l.foldl f s) := by
  induction l generalizing s with
  | nil => exact .rfl' s
  | cons a l ih => exact (hf s a).trans (ih _)

theorem State.writeRaw_rewrites (s : State) (a : Nat) (bs : Bytes) : Rewrites s (s.writeRaw a bs) := ⟨rfl, fun _ => Or.inl rfl⟩
theorem State.zero_rewrites (s : State) (a n : Nat) : Rewrites s (s.zero a n) := ⟨rfl, fun _ => Or.inl rfl⟩
theorem State.setCluster_rewrites (s : State) (n : Nat) (x : ClusterState) : Rewrites s (s.setCluster n x) := ⟨rfl, fun _ => Or.inl rfl⟩
theorem State.modCore_rewrites (s : State) (c : Nat) (f : Core → Core) : Rewrites s (s.modCore c f) := ⟨rfl, fun _ => Or.inl rfl⟩

/-- A stream without residency in cluster `cl`. -/
def Stream.leaveCluster (x : Stream) (cl : Nat) : Stream := if x.resCluster.toNat = cl then { x with resCluster := 63 } else x

/-- No state counts as resident in cluster `cl` (R341). -/
def State.leaveCluster (s : State) (cl : Nat) : State :=
  { s with streams := s.streams.map (fun (x : Nat × Stream) =>
      if x.2.resCluster.toNat = cl then (x.1, { x.2 with resCluster := 63 }) else x) }

theorem State.leaveCluster_rewrites (s : State) (cl : Nat) : Rewrites s (s.leaveCluster cl) := by
  refine ⟨rfl, fun i => ?_⟩
  have hmap : (s.leaveCluster cl).streams = s.streams.map (fun x => (x.1, x.2.leaveCluster cl)) := by
    refine List.map_congr_left fun x _ => ?_
    unfold Stream.leaveCluster
    split <;> rfl
  have hget : tabGet? (s.leaveCluster cl).streams i = (tabGet? s.streams i).map (·.leaveCluster cl) := by
    rw [hmap]
    exact tabGet?_map s.streams (fun _ x => x.leaveCluster cl) i
  unfold State.stream tabGet
  rw [hget]
  cases tabGet? s.streams i with
  | none => exact Or.inl rfl
  | some x =>
    dsimp only [Option.map_some, Option.getD_some]
    unfold Stream.leaveCluster
    split
    · exact Or.inr rfl
    · exact Or.inl rfl

theorem State.powerBanks_rewrites (s : State) (cl : Nat) (on : W64) : Rewrites s (s.powerBanks cl on) := by
  have hzero : Rewrites s ((List.range 64).foldl
      (fun u b => if on.getLsbD b then u else u.zero (clusterWin cl + b * 0x20000) 0x20000) s) := by
    refine Rewrites.foldl (fun t b => ?_) _ _
    split
    · exact .rfl' t
    · exact t.zero_rewrites _ _
  unfold State.powerBanks
  dsimp only
  split
  · exact hzero.trans (State.setCluster_rewrites ..)
  · exact (hzero.trans (State.leaveCluster_rewrites _ cl)).trans (State.setCluster_rewrites ..)

theorem State.powerSegments_rewrites (s : State) (c : Nat) (on : BitVec 8) : Rewrites s (s.powerSegments c on) := by
  unfold State.powerSegments
  refine Rewrites.trans (Rewrites.foldl (fun t n => ?_) _ _) (State.modCore_rewrites ..)
  split
  · exact .rfl' t
  · exact t.zero_rewrites _ _

theorem State.powerClusters_rewrites (s : State) (cls : List Nat) (on : W64 × BitVec 8) : Rewrites s (s.powerClusters cls on) :=
  Rewrites.foldl (fun t cl => (t.powerBanks_rewrites cl on.1).trans
    (Rewrites.foldl (fun u k => u.powerSegments_rewrites (32 * cl + k) on.2) _ _)) _ _

theorem State.installCode_rewrites (s : State) (p : Nat) : Rewrites s (s.installCode p) := by
  unfold State.installCode
  split
  · exact .rfl' s
  · split
    · exact .rfl' s
    · refine ((State.powerClusters_rewrites ..).trans (Rewrites.foldl (fun t cl => t.writeRaw_rewrites _ _) _ _)).trans
        (Rewrites.foldl (fun t w => ?_) _ _)
      split
      · exact t.writeRaw_rewrites _ _
      · exact .rfl' t

/-! ### A queue pair that may carry the answer -/

/-- Some queue pair of `owner` to device `peer` is connected, and refuses nothing or is of partition `p` (R384, R525). -/
def State.CanCarry (s : State) (owner peer p : Nat) : Prop :=
  ∃ (k : Nat) (q : Qp), (k, q) ∈ s.qps ∧ q.owner = owner ∧ q.state = .connected ∧ q.peer.toNat = peer ∧
    (q.refuse = false ∨ q.owner = p)

/-- An entry of a table stays, but for the one that is put in the place of what its number finds. -/
theorem mem_tabPut {α : Type} {t : Tab α} {n k : Nat} {a b c : α} (h : tabGet? t n = some b) (hk : (k, c) ∈ t) :
    (k, c) ∈ tabPut t n a ∨ (c = b ∧ (n, a) ∈ tabPut t n a) := by
  induction t with
  | nil => cases hk
  | cons e t ih =>
    obtain ⟨j, d⟩ := e
    rw [tabPut]
    split
    · exact Or.inl (List.mem_cons_of_mem _ hk)
    · split
      · next hj =>
        subst hj
        rcases List.mem_cons.mp hk with hk | hk
        · cases hk
          right
          refine ⟨?_, List.mem_cons_self⟩
          simpa [tabGet?] using h
        · exact Or.inl (List.mem_cons_of_mem _ hk)
      · next hj =>
        rcases List.mem_cons.mp hk with hk | hk
        · exact Or.inl (hk ▸ List.mem_cons_self)
        · have htail : tabGet? t n = some b := by simpa [tabGet?, Ne.symm hj] using h
          exact (ih htail hk).imp (List.mem_cons_of_mem _) (fun hc => ⟨hc.1, List.mem_cons_of_mem _ hc.2⟩)

theorem State.sendOn_qps (s : State) (n : Nat) (q : Qp) (k : MsgKind) (va : W64) (d : Bytes) (len : Nat) (u : MsgUse) :
    ∃ v : Qp, (s.sendOn n q k va d len u).qps = tabPut s.qps n v ∧ v.owner = q.owner ∧ v.state = q.state ∧ v.peer = q.peer ∧
      v.refuse = q.refuse := by
  unfold State.sendOn State.sendKeyed
  generalize q.packets _ = count
  dsimp only
  split <;> exact ⟨_, rfl, rfl, rfl, rfl, rfl⟩

theorem State.CanCarry.sendOn {s : State} {owner peer p n : Nat} {q : Qp} (h : s.CanCarry owner peer p) (hq : s.qp? n = some q)
    (k : MsgKind) (va : W64) (d : Bytes) (len : Nat) (u : MsgUse) : (s.sendOn n q k va d len u).CanCarry owner peer p := by
  obtain ⟨j, c, hc, howner, hstate, hpeer, hrefuse⟩ := h
  obtain ⟨v, hv, vowner, vstate, vpeer, vrefuse⟩ := s.sendOn_qps n q k va d len u
  unfold State.CanCarry
  rw [hv]
  rcases mem_tabPut (a := v) hq hc with hmem | ⟨rfl, hmem⟩
  · exact ⟨j, c, hmem, howner, hstate, hpeer, hrefuse⟩
  · exact ⟨n, v, hmem, vowner.trans howner, vstate.trans hstate, (congrArg _ vpeer).trans hpeer,
      hrefuse.imp vrefuse.trans vowner.trans⟩

theorem State.CanCarry.bellPacket {s : State} {owner peer p : Nat} (h : s.CanCarry owner peer p) (n seq : Nat) :
    (s.bellPacket n seq).CanCarry owner peer p := by
  unfold State.bellPacket
  dsimp only
  refine iteInduction (motive := fun t : State => t.CanCarry owner peer p) (fun _ => h) fun _ =>
    iteInduction (motive := fun t : State => t.CanCarry owner peer p) (fun _ => h) fun _ => ?_
  split
  · next q hq =>
    split
    · exact State.CanCarry.sendOn (s := s.setRing n _) h hq ..
    · exact h
  · exact h

theorem State.CanCarry.putRecord {s t : State} {owner peer p n : Nat} {bs : Bytes} (h : s.CanCarry owner peer p)
    (ht : s.putRecord n bs = some t) : t.CanCarry owner peer p := by
  unfold State.putRecord at ht
  dsimp only at ht
  split at ht
  · next q hq =>
    split at ht
    · cases ht
      exact (h.sendOn hq ..).bellPacket ..
    · cases ht
  · cases ht

theorem State.CanCarry.qpFor {s : State} {owner peer p : Nat} {m : Fin 64} (h : s.CanCarry owner peer p)
    (hreset : (s.part? p).bind (·.resetting) = some (m, true)) : (s.qpFor owner peer).isSome = true := by
  obtain ⟨k, q, hmem, howner, hstate, hpeer, hrefuse⟩ := h
  have hcarries : s.carries q = true := by
    unfold State.carries
    rcases hrefuse with hq | hq
    · rw [hq]; rfl
    · rw [hq, hreset]
      exact Bool.or_true _
  exact List.find?_isSome.mpr ⟨(k, q), hmem, by simp [howner, hstate, hpeer, hcarries]⟩

/-! ### The records before the answer -/

/-- `t` is `s` once records that wait have been written, none of them the completion of mailbox `m` (R427). -/
structure Drains (m : Nat) (s t : State) : Prop where
  eq : t = { s with rings := t.rings, qps := t.qps, wire := t.wire, mbx := t.mbx }
  mail : t.mail m = s.mail m
  carry : ∀ owner peer p : Nat, s.CanCarry owner peer p → t.CanCarry owner peer p

theorem Drains.rfl' (m : Nat) (s : State) : Drains m s s := ⟨rfl, rfl, fun _ _ _ h => h⟩

theorem Drains.trans {m : Nat} {s t u : State} (h : Drains m s t) (k : Drains m t u) : Drains m s u :=
  ⟨k.eq.trans (by rw [h.eq]), k.mail.trans h.mail, fun o p q hc => k.carry o p q (h.carry o p q hc)⟩

theorem State.putRecord_drains {s t : State} {n : Nat} {bs : Bytes} (m : Nat) (ht : s.putRecord n bs = some t) : Drains m s t := by
  have hsent := State.putRecord_onlySent ht
  exact ⟨by rw [hsent], hsent.mail m, fun _ _ _ h => h.putRecord ht⟩

/-- The mailbox that a record frees is the one that it names. -/
theorem State.freeFor_drains {bs : Bytes} {m : Nat} (s : State) (h : le bs 12 1 ≠ m) : Drains m s (s.freeFor bs) := by
  unfold State.freeFor
  split
  · exact ⟨rfl, State.setMail_mail_ne _ _ (Ne.symm h), fun _ _ _ hc => hc⟩
  · exact .rfl' m s

theorem State.freeFor_ring (s : State) (bs : Bytes) (n : Nat) : (s.freeFor bs).ring n = s.ring n := by
  unfold State.freeFor
  split <;> rfl

theorem State.drainRing_drains {m n : Nat} (k : Nat) (s : State) (h : ∀ bs ∈ (s.ring n).waiting, le bs 12 1 ≠ m) :
    Drains m s (State.drainRing k s n) := by
  induction k generalizing s with
  | zero => exact .rfl' m s
  | succ k ih =>
    rw [State.drainRing]
    cases hw : (s.ring n).waiting with
    | nil => exact .rfl' m s
    | cons bs rest =>
      dsimp only
      cases ht : s.putRecord n bs with
      | none => exact .rfl' m s
      | some t =>
        dsimp only
        rw [hw] at h
        have hrest : ((t.setRing n { t.ring n with waiting := rest }).freeFor bs |>.ring n).waiting = rest := by
          rw [State.freeFor_ring, State.setRing_ring_same]
        have hring : Drains m t (t.setRing n { t.ring n with waiting := rest }) := ⟨rfl, rfl, fun _ _ _ hc => hc⟩
        refine (((State.putRecord_drains m ht).trans hring).trans
          (State.freeFor_drains _ (h bs List.mem_cons_self))).trans (ih _ fun b hb => ?_)
        rw [hrest] at hb
        exact h b (List.mem_cons_of_mem _ hb)

theorem State.clearRing_drains {s : State} {m : Fin 64} (h : ∀ bs ∈ (s.ring (le (s.page m) 6 1)).waiting, le bs 12 1 ≠ m.val) :
    Drains m.val s (s.clearRing m) := by
  unfold State.clearRing
  dsimp only
  split
  · exact State.drainRing_drains _ s h
  · exact .rfl' m.val s

/-! ### SCRATCH_RELOAD_DONE -/

/-- The reset of partition `p` as its command is about to be answered (R525). -/
def State.reloaded (s : State) (p : Nat) (m : Fin 64) : State :=
  ((s.installCode p).modPart p (fun x => { x with resetting := some (m, true) })).clearRing m

theorem exec_scratchReloadDone {s : State} {p : Fin 16} {m : Fin 64} (h : (s.part? p.val).bind (·.resetting) = some (m, false)) :
    exec (.scratchReloadDone p) s = .next (((s.reloaded p.val m).ok m []).resetAfter m) := by
  have hexec : exec (.scratchReloadDone p) s = execScratchReloadDone p s := rfl
  rw [hexec, execScratchReloadDone, h]
  rfl

theorem exec_scratchReloadDone_none {s : State} {p : Fin 16} (h : ∀ m : Fin 64, (s.part? p.val).bind (·.resetting) ≠ some (m, false)) :
    exec (.scratchReloadDone p) s = .next s := by
  have hexec : exec (.scratchReloadDone p) s = execScratchReloadDone p s := rfl
  rw [hexec, execScratchReloadDone]
  split
  · next m hm => exact absurd hm (h m)
  · rfl

theorem State.reloaded_spec {s : State} {p : Nat} {m : Fin 64} (h : (s.part? p).bind (·.resetting) = some (m, false))
    (hring : ∀ bs ∈ (s.ring (le (s.page m) 6 1)).waiting, le bs 12 1 ≠ m.val) :
    ((s.reloaded p m).part? p).bind (·.resetting) = some (m, true) ∧ (s.reloaded p m).mail m.val = s.mail m.val ∧
    (s.reloaded p m).dev = s.dev ∧
    (∀ i : Nat, (s.reloaded p m).stream i = s.stream i ∨ (s.reloaded p m).stream i = { s.stream i with resCluster := 63 }) ∧
    (∀ owner peer : Nat, s.CanCarry owner peer p → (s.reloaded p m).CanCarry owner peer p) := by
  obtain ⟨q, hq, -⟩ := Option.bind_eq_some_iff.mp h
  have hcode := s.installCode_rewrites p
  generalize hc : s.installCode p = c at hcode
  have hqc : c.part? p = some q := by rw [State.part?, hcode.eq]; exact hq
  have hqt := State.modPart_part_same hqc (fun x => { x with resetting := some (m, true) })
  have ht := c.modPart_eq p (fun x => { x with resetting := some (m, true) })
  generalize hmod : c.modPart p (fun x => { x with resetting := some (m, true) }) = t at hqt ht
  have hrings : t.rings = s.rings := by rw [ht, hcode.eq]
  have hmbx : t.mbx = s.mbx := by rw [ht, hcode.eq]
  have hqps : t.qps = s.qps := by rw [ht, hcode.eq]
  have hdrain : Drains m.val t (t.clearRing m) := State.clearRing_drains (by
    unfold State.page State.mail State.ring
    rw [hmbx, hrings]
    exact hring)
  have hu : s.reloaded p m = t.clearRing m := by rw [State.reloaded, hc, hmod]
  rw [hu]
  refine ⟨?_, ?_, ?_, fun i => ?_, fun owner peer hcarry => hdrain.carry _ _ _ ?_⟩
  · rw [State.part?, hdrain.eq]
    exact congrArg (·.bind (·.resetting)) hqt
  · rw [hdrain.mail, State.mail, hmbx]
    rfl
  · rw [hdrain.eq, ht, hcode.eq]
  · have hstream : (t.clearRing m).stream i = c.stream i := by
      unfold State.stream
      rw [hdrain.eq, ht]
    rw [hstream]
    exact hcode.stream i
  · unfold State.CanCarry
    rw [hqps]
    exact hcarry

/-- A mailbox keeps its answer for a repeated SEQ (R420). -/
def State.keepAnswer (s : State) (m : Fin 64) (page : Bytes) : State :=
  s.setMail m { s.mail m with kept := some (BitVec.ofNat 32 (le (s.page m) 0x18 4), page) }

theorem State.ok_eq (s : State) (m : Fin 64) (data : Bytes) :
    s.ok m data = (s.keepAnswer m (s.respOf m 0 0 data)).deliver m (s.respOf m 0 0 data) := by
  simp [State.ok, State.respond, State.respondX, State.respOf, State.page, State.keepAnswer, flag, stOk]

/-- A response page goes to its address where a queue pair serves (R419, R420). -/
theorem State.deliver_sent {s t : State} {m : Fin 64} {page : Bytes} (hcopy : bit (le (s.page m) 2 2) 1 = true)
    (hdev : devOf (BitVec.ofNat 64 (le (s.page m) 0x10 8)) ≠ s.dev.deviceNo.toNat)
    (ht : (s.writeRaw (respPageAddr m) page).writeDomain (s.mail m).owner.toNat (BitVec.ofNat 64 (le (s.page m) 0x10 8)) page
      (.response m) = some t) : s.deliver m page = t := by
  unfold State.deliver
  unfold State.page at hcopy hdev ht
  dsimp only
  rw [if_pos hcopy, if_neg hdev, ht]

/-- An answer that has an address goes there over a queue pair, and the mailbox waits for its acknowledgement (R419). -/
theorem State.ok_sent {s : State} {m : Fin 64} {p : Nat} (hcopy : bit (le (s.page m) 2 2) 1 = true)
    (hdev : devOf (BitVec.ofNat 64 (le (s.page m) 0x10 8)) ≠ s.dev.deviceNo.toNat)
    (hcarry : s.CanCarry (s.mail m).owner.toNat (devOf (BitVec.ofNat 64 (le (s.page m) 0x10 8))) p)
    (hreset : (s.part? p).bind (·.resetting) = some (m, true)) :
    ((s.ok m []).mail m).busy = (s.mail m).busy ∧ (s.ok m []).part? p = s.part? p ∧
      (s.ok m []).read (respPageAddr m) 4096 = s.respOf m 0 0 [] := by
  have hmail : ∃ k, (s.keepAnswer m (s.respOf m 0 0 [])).mail m = { s.mail m with kept := k } := ⟨_, State.setMail_mail_same ..⟩
  rw [State.ok_eq]
  generalize hk : s.keepAnswer m (s.respOf m 0 0 []) = w at *
  obtain ⟨k, hmail⟩ := hmail
  have hpage : w.page m = s.page m := by rw [State.page, hmail]; rfl
  have hparts : w.parts = s.parts ∧ w.qps = s.qps ∧ w.dev = s.dev := by subst hk; exact ⟨rfl, rfl, rfl⟩
  obtain ⟨hparts, hqps, hwdev⟩ := hparts
  have hfor : ((w.writeRaw (respPageAddr m) (s.respOf m 0 0 [])).qpFor (w.mail m).owner.toNat
      (devOf (BitVec.ofNat 64 (le (w.page m) 0x10 8)))).isSome = true := by
    refine State.CanCarry.qpFor (p := p) (m := m) ?_ ?_
    · unfold State.CanCarry
      rw [hmail, hpage, State.writeRaw_qps, hqps]
      exact hcarry
    · rw [State.part?, State.writeRaw_parts, hparts]
      exact hreset
  obtain ⟨⟨n, q⟩, hnq⟩ := Option.isSome_iff_exists.mp hfor
  have hsent : ∃ t, (w.writeRaw (respPageAddr m) (s.respOf m 0 0 [])).writeDomain (w.mail m).owner.toNat
      (BitVec.ofNat 64 (le (w.page m) 0x10 8)) (s.respOf m 0 0 []) (.response m) = some t := by
    rw [State.writeDomain, hnq]
    exact ⟨_, rfl⟩
  obtain ⟨t, ht⟩ := hsent
  obtain ⟨hread, htmail, -, hkeeps⟩ := State.writePage_frame (length_respPage ..) (State.writeDomain_onlySent ht)
  rw [State.deliver_sent (by rw [hpage]; exact hcopy) (by rw [hpage, hwdev]; exact hdev) ht]
  refine ⟨?_, ?_, hread⟩
  · rw [htmail, hmail]
  · rw [State.part?, hkeeps]
    exact congrArg (tabGet? · p) hparts

/-- PART_RESET's answer goes to its address; the reset waits for its acknowledgement (R419, R525). -/
theorem State.answerReset_sent {s : State} {p : Nat} {m : Fin 64} (hreset : (s.part? p).bind (·.resetting) = some (m, false))
    (hring : ∀ bs ∈ (s.ring (le (s.page m) 6 1)).waiting, le bs 12 1 ≠ m.val) (hcopy : bit (le (s.page m) 2 2) 1 = true)
    (hdev : devOf (BitVec.ofNat 64 (le (s.page m) 0x10 8)) ≠ s.dev.deviceNo.toNat)
    (hcarry : s.CanCarry (s.mail m).owner.toNat (devOf (BitVec.ofNat 64 (le (s.page m) 0x10 8))) p) (hbusy : (s.mail m).busy = true) :
    ∃ t : State, (.next (((s.reloaded p m).ok m []).resetAfter m) : Answer) = .next t ∧
      (t.part? p).bind (·.resetting) = some (m, true) ∧ t.read (respPageAddr m) 4096 = s.respOf m 0 0 [] := by
  obtain ⟨hpart, hmail, hsame, -, hkeep⟩ := State.reloaded_spec hreset hring
  have hpage : (s.reloaded p m).page m = s.page m := congrArg Mailbox.copy hmail
  have hresp : (s.reloaded p m).respOf m 0 0 [] = s.respOf m 0 0 [] := by
    unfold State.respOf
    rw [hpage, hmail]
  obtain ⟨hstays, hparts, hread⟩ := State.ok_sent (by rw [hpage]; exact hcopy) (by rw [hpage, hsame]; exact hdev)
    (by rw [hpage, hmail]; exact hkeep _ _ hcarry) hpart
  refine ⟨_, congrArg _ (if_pos ?_), ?_, hread.trans hresp⟩
  · rw [hstays, hmail]
    exact hbusy
  · rw [hparts]
    exact hpart

/-- Settles O27, row by row. -/
theorem stepsAndPassesRun : Obligations.StepsAndPassesRun := by
  unfold Obligations.StepsAndPassesRun
  refine ⟨?_, fun s p => ⟨exec_stepStart_none s p, fun h => ⟨exec_passStart_none h, exec_replayReloadDone_none (Or.inl h)⟩,
      exec_passStart_notServing p, fun r hr hno => exec_replayReloadDone_none (Or.inr ⟨r, hr, Or.inl hno⟩),
      exec_scratchReloadDone_none⟩, fun s id h => exec_contextEnd_none h,
    fun s p r hr => ⟨fun hmode hoff hno hcur => ?_, fun h => ?_⟩, fun s t p k g im r ht hmine hfree => ?_,
    fun s id x hx => ⟨fun hall => ?_, fun hrest => ?_⟩, fun s p q r v hq hr him hv => ⟨fun hon => ?_, fun hoff hbanks => ?_⟩,
    fun s p m hreset hring => ⟨fun hcopy hdev hcarry hbusy => ?_, fun hplain => ?_⟩⟩
  · intro s t p q0 q im l hq0 hidle himage hmode hzero hreset ht hq him gs hgs hl
    subst hgs
    exact exec_stepStart_due hq0 hidle himage hmode hzero hreset ht hq him hl
  · rw [exec_passStart hr, if_pos ⟨hmode, hoff, hno, hcur⟩]
  · rw [exec_passStart hr, if_neg]
    rintro ⟨-, hoff, hno, hcur⟩
    rcases h with h | h | h
    · rw [hoff] at h; cases h
    · rw [hno] at h; cases h
    · omega
  · exact State.startContext_spec ht hmine hfree
  · obtain ⟨hctx, hmem, hin, hout, hlist⟩ := s.ended_spec id.toNat x
    rw [exec_contextEnd hx, if_pos hall]
    exact ⟨_, rfl, hctx, hmem, hin, hout, hlist⟩
  · obtain ⟨c, hc, hno⟩ := hrest
    rw [exec_contextEnd hx, if_neg (fun hall => hno (hall c hc))]
  · exact exec_replayReloadDone_none (Or.inr ⟨r, by rw [hq]; exact hr, Or.inr hon⟩)
  · obtain ⟨hhealth, l, now, hstep⟩ := State.rerun_spec hq hr him hv hoff hbanks
    exact ⟨_, _, _, rfl, rfl, hstep, rfl, rfl, rfl, rfl, rfl, hhealth⟩
  · rw [exec_scratchReloadDone hreset]
    exact State.answerReset_sent hreset hring hcopy hdev hcarry hbusy
  · rw [exec_scratchReloadDone hreset]
    obtain ⟨hpart, hmail, -, hstream, -⟩ := State.reloaded_spec hreset hring
    have hreply := (s.reloaded p.val m).ok_replied m []
    have hpage : (s.reloaded p.val m).page m = s.page m := congrArg Mailbox.copy hmail
    refine ⟨_, _, rfl, hreply, fun hno => ?_, hpart, hmail, hstream⟩
    obtain ⟨-, hdone, -⟩ := hreply
    rw [hpage] at hdone
    refine if_neg fun hbusy => ?_
    have hwaits := ((hdone hplain).1 hbusy).1
    rw [hno] at hwaits
    cases hwaits

end Sys2Proof.Machine
end

section
/-! PROOFS. The lanes of a vector instruction: what a write of lanes changes and what it leaves alone (R110, R168, R169). -/

namespace Sys2Proof.Machine

/-! ### Lanes as bytes of an operand-cache row -/

/-- The bytes of a row that holds the lanes `l`. -/
def laneBytes (l : List W32) : Bytes := l.flatMap (fun v => natToBytes 4 v.toNat)

theorem length_laneBytes (l : List W32) : (laneBytes l).length = 4 * l.length := by
  induction l with
  | nil => rfl
  | cons v l ih =>
    have hcons : laneBytes (v :: l) = natToBytes 4 v.toNat ++ laneBytes l := rfl
    rw [hcons, List.length_append, length_natToBytes, ih, List.length_cons]
    omega

/-- Lane `i` of a row lies in bytes `4 i` to `4 i + 3`. -/
theorem le_laneBytes (l : List W32) {i : Nat} (h : i < l.length) : BitVec.ofNat 32 (le (laneBytes l) (4 * i) 4) = l[i] := by
  induction l generalizing i with
  | nil => simp at h
  | cons v l ih =>
    have hfour : (natToBytes 4 v.toNat).length = 4 := length_natToBytes ..
    have hcons : laneBytes (v :: l) = natToBytes 4 v.toNat ++ laneBytes l := rfl
    cases i with
    | zero =>
      rw [hcons, le, Nat.mul_zero, List.drop_zero, List.take_left' hfour, bytesToNat_natToBytes _ _ v.isLt]
      simp
    | succ i =>
      have hdrop : List.drop (4 * (i + 1)) (natToBytes 4 v.toNat ++ laneBytes l) = List.drop (4 * i) (laneBytes l) := by
        rw [show 4 * (i + 1) = 4 + 4 * i by omega]
        rw [← List.drop_drop, List.drop_left' hfour]
      rw [hcons, le, hdrop]
      exact ih (by simpa using h)

/-- A row is bytes of its core's window above the scratch, reached under no other address. -/
theorem backing_rowAddr {c sel : Nat} (hc : c < 1536) (h : sel ≤ 0x7F) : backing (rowAddrOf c sel) = rowAddrOf c sel := by
  have hmbx : mbxBase = 0x0FF000000000 := rfl
  have hcore : coreBase = 0x0F1000000000 := rfl
  refine if_neg ?_
  rw [Bool.and_eq_true, decide_eq_true_eq, decide_eq_true_eq]
  unfold rowAddrOf coreWin
  omega

/-! ### What lanes are read from -/

theorem get_setIfInBounds_same {α : Type} (v : Vector α 8) (a : α) {i : Nat} (h : i < 8) :
    (v.setIfInBounds i a).get (Fin.ofNat 8 i) = a := by
  have hidx : Fin.ofNat 8 i = ⟨i, h⟩ := Fin.ext (Nat.mod_eq_of_lt h)
  rw [hidx]
  exact Vector.getElem_setIfInBounds_self h

theorem get_setIfInBounds_ne {α : Type} (v : Vector α 8) (a : α) {i j : Nat} (hj : j < 8) (h : i ≠ j) :
    (v.setIfInBounds i a).get (Fin.ofNat 8 j) = v.get (Fin.ofNat 8 j) := by
  have hidx : Fin.ofNat 8 j = ⟨j, hj⟩ := Fin.ext (Nat.mod_eq_of_lt hj)
  rw [hidx]
  exact Vector.getElem_setIfInBounds_ne hj h

theorem State.lanes_row (s : State) {c sel : Nat} (imm : W32) (hc : c < 1536) (h : sel ≤ 0x7F) : s.lanes c sel imm =
    (List.range 128).map (fun i => BitVec.ofNat 32 (le (memRead s.mem (rowAddrOf c sel) 512) (4 * i) 4)) := by
  rw [State.lanes, if_pos h, State.read, backing_rowAddr hc h]

theorem State.lanes_reg (s : State) {sel : Nat} (c : Nat) (imm : W32) (hlo : 0x7F < sel) (hhi : sel ≤ 0x87) :
    s.lanes c sel imm = (s.core c).v.get (Fin.ofNat 8 (sel - 0x80)) := by
  rw [State.lanes, if_neg (by omega), if_pos hhi]

theorem State.lanes_imm (s : State) {sel : Nat} (c : Nat) (imm : W32) (h : 0x87 < sel) :
    s.lanes c sel imm = List.replicate 128 imm := by
  rw [State.lanes, if_neg (by omega), if_neg (by omega)]

/-- The lanes of a row or a register are no immediate. -/
theorem State.lanes_stored (s : State) {sel : Nat} (c : Nat) (imm : W32) (h : sel ≤ 0x87) : s.lanes c sel imm = s.lanes c sel 0 := by
  unfold State.lanes
  rw [if_pos h, if_pos h]

/-- Lanes are memory and working registers. -/
theorem State.lanes_congr {s t : State} {c : Nat} (hmem : t.mem = s.mem) (hv : (t.core c).v = (s.core c).v) (sel : Nat) (imm : W32) :
    t.lanes c sel imm = s.lanes c sel imm := by
  unfold State.lanes State.read
  rw [hmem, hv]

/-! ### What a write of lanes does -/

theorem length_mixLanes (mask : BitVec 128) (new old : List W32) : (mixLanes mask new old).length = 128 := by
  simp [mixLanes]

theorem State.setLanes_row (s : State) {sel : Nat} (c : Nat) (mask : BitVec 128) (new : List W32) (h : sel ≤ 0x7F) :
    s.setLanes c sel mask new = s.writeRaw (rowAddrOf c sel) (laneBytes (mixLanes mask new (s.lanes c sel 0))) := if_pos h

theorem State.setLanes_reg (s : State) {sel : Nat} (c : Nat) (mask : BitVec 128) (new : List W32) (h : 0x7F < sel) :
    s.setLanes c sel mask new =
      s.modCore c (fun k => { k with v := k.v.setIfInBounds (sel - 0x80) (mixLanes mask new (s.lanes c sel 0)) }) :=
  if_neg (Nat.not_le.mpr h)

/-- A write to a row leaves a lost pseudo-channel's spans as they are: it lies outside HBM3E (R328). -/
theorem State.setLanes_row_eq (s : State) {c sel : Nat} (mask : BitVec 128) (new : List W32) (hc : c < 1536) (h : sel ≤ 0x7F) :
    ∃ bad, s.setLanes c sel mask new = { s with
      mem := memWrite s.mem (rowAddrOf c sel) (laneBytes (mixLanes mask new (s.lanes c sel 0))), badSpans := bad } := by
  have hmend : ∀ n, LostPc.mend (rowAddrOf c sel) n = id := fun n => by
    have hres : hbmResTop = 0x018000000000 := rfl
    have hcore : coreBase = 0x0F1000000000 := rfl
    funext l
    exact if_pos (Or.inl (by unfold rowAddrOf coreWin; omega))
  rw [State.setLanes_row _ _ _ _ h, State.writeRaw, backing_rowAddr hc h, hmend, List.map_id]
  exact ⟨_, rfl⟩

/-- Only memory, check marks and the working registers of the core differ after a write of lanes. -/
theorem State.setLanes_frame (s : State) {c : Nat} (sel : Nat) (mask : BitVec 128) (new : List W32) (hc : c < 1536) :
    (∃ mem bad cores, s.setLanes c sel mask new = { s with mem := mem, badSpans := bad, cores := cores }) ∧
    (∃ v, (s.setLanes c sel mask new).core c = { s.core c with v := v }) ∧
    ∀ n, n ≠ c → (s.setLanes c sel mask new).core n = s.core n := by
  by_cases h : sel ≤ 0x7F
  · obtain ⟨bad, heq⟩ := s.setLanes_row_eq mask new hc h
    rw [heq]
    exact ⟨⟨_, _, _, rfl⟩, ⟨_, rfl⟩, fun _ _ => rfl⟩
  · rw [State.setLanes_reg _ _ _ _ (by omega)]
    exact ⟨⟨_, _, _, rfl⟩, ⟨_, State.setCore_core_same ..⟩, fun n hn => State.setCore_core_ne _ _ hn⟩

theorem State.setLanes_mem_reg (s : State) {sel : Nat} (c : Nat) (mask : BitVec 128) (new : List W32) (h : 0x7F < sel) :
    (s.setLanes c sel mask new).mem = s.mem := by
  rw [State.setLanes_reg _ _ _ _ h]
  rfl

theorem State.memGet_setLanes (s : State) {c sel a : Nat} (mask : BitVec 128) (new : List W32) (hc : c < 1536)
    (h : sel ≤ 0x7F → ¬ (rowAddrOf c sel ≤ a ∧ a < rowAddrOf c sel + 512)) :
    memGet (s.setLanes c sel mask new).mem a = memGet s.mem a := by
  by_cases hrow : sel ≤ 0x7F
  · have hout := h hrow
    obtain ⟨bad, heq⟩ := s.setLanes_row_eq mask new hc hrow
    rw [heq]
    refine memGet_memWrite_out _ _ _ _ ?_
    rw [length_laneBytes, length_mixLanes]
    omega
  · rw [State.setLanes_mem_reg _ _ _ _ (by omega)]

/-- What has been written is read back. -/
theorem State.lanes_setLanes_same (s : State) {c sel : Nat} (mask : BitVec 128) (new : List W32) (imm : W32) (hc : c < 1536)
    (h : sel ≤ 0x87) : (s.setLanes c sel mask new).lanes c sel imm = mixLanes mask new (s.lanes c sel 0) := by
  by_cases hrow : sel ≤ 0x7F
  · obtain ⟨bad, heq⟩ := s.setLanes_row_eq mask new hc hrow
    obtain ⟨l, hl⟩ : ∃ l, l = mixLanes mask new (s.lanes c sel 0) := ⟨_, rfl⟩
    have hlen : l.length = 128 := by rw [hl, length_mixLanes]
    have hread := memRead_memWrite s.mem (rowAddrOf c sel) (laneBytes l)
    rw [length_laneBytes, hlen] at hread
    rw [State.lanes_row _ _ hc hrow, heq, ← hl, hread]
    refine List.ext_getElem (by simp [hlen]) fun i h1 h2 => ?_
    rw [List.getElem_map, List.getElem_range]
    exact le_laneBytes l h2
  · rw [State.lanes_reg _ _ _ (by omega) h, State.setLanes_reg _ _ _ _ (by omega), State.modCore, State.setCore_core_same]
    exact get_setIfInBounds_same _ _ (by omega)

/-- Another source reads as before. -/
theorem State.lanes_setLanes_ne (s : State) {c sel dst : Nat} (mask : BitVec 128) (new : List W32) (imm : W32) (hc : c < 1536)
    (hdst : dst ≤ 0x87) (hne : sel ≠ dst) : (s.setLanes c dst mask new).lanes c sel imm = s.lanes c sel imm := by
  by_cases hrow : sel ≤ 0x7F
  · rw [State.lanes_row _ _ hc hrow, State.lanes_row _ _ hc hrow]
    have hread : memRead (s.setLanes c dst mask new).mem (rowAddrOf c sel) 512 = memRead s.mem (rowAddrOf c sel) 512 := by
      refine List.map_congr_left fun i hi => s.memGet_setLanes mask new hc fun _ => ?_
      have hi' := List.mem_range.mp hi
      unfold rowAddrOf
      omega
    rw [hread]
  · by_cases himm : sel ≤ 0x87
    · rw [State.lanes_reg _ _ _ (by omega) himm, State.lanes_reg _ _ _ (by omega) himm]
      by_cases hd : dst ≤ 0x7F
      · obtain ⟨bad, heq⟩ := s.setLanes_row_eq mask new hc hd
        rw [heq]
        rfl
      · rw [State.setLanes_reg _ _ _ _ (by omega), State.modCore, State.setCore_core_same]
        exact get_setIfInBounds_ne _ _ (by omega) (by omega)
    · rw [State.lanes_imm _ _ _ (by omega), State.lanes_imm _ _ _ (by omega)]

/-! ### A lane function applied (R206) -/

theorem State.modCore_core (s : State) (c : Nat) (f : Core → Core) : (s.modCore c f).core c = f (s.core c) :=
  State.setCore_core_same ..

/-- The values that a lane function gives to the enabled lanes. -/
def laneResults (mask : BitVec 128) (f : Nat → W32 × Nat) : List (W32 × Nat) :=
  (List.range 128).map (fun i => if mask.getLsbD i then f i else (0, 0))

theorem mixLanes_laneResults (mask : BitVec 128) (f : Nat → W32 × Nat) (old : List W32) :
    mixLanes mask ((laneResults mask f).map (·.1)) old =
      (List.range 128).map (fun i => if mask.getLsbD i then (f i).1 else old.getD i 0) := by
  refine List.map_congr_left fun i hi => ?_
  have hi' := List.mem_range.mp hi
  by_cases hm : mask.getLsbD i = true
  · rw [if_pos hm, if_pos hm]
    simp [laneResults, hi', hm]
  · rw [if_neg hm, if_neg hm]

/-- A lane function writes its values and counts those saturated. -/
theorem State.mapLanes_eq (s : State) (c : Nat) (w : InstrWord) (f : Nat → W32 × Nat) : ∃ n, s.mapLanes c w f =
    (s.setLanes c (vDst w) ((s.core c).maskOf (fld w 45 3))
      ((laneResults ((s.core c).maskOf (fld w 45 3)) f).map (·.1))).modCore c (fun k => { k with fsat := satAdd k.fsat n }) :=
  ⟨_, rfl⟩

theorem State.modCore_fsat_lanes (s : State) (c n sel : Nat) (imm : W32) :
    (s.modCore c (fun k => { k with fsat := satAdd k.fsat n })).lanes c sel imm = s.lanes c sel imm := by
  refine State.lanes_congr ?_ ?_ sel imm
  · rfl
  · rw [State.modCore_core]

/-- Settles O14: a lane function writes lanes, and what it counts is no lane. -/
theorem lanesWrittenReadBackAlone : Obligations.LanesWrittenReadBackAlone := by
  unfold Obligations.LanesWrittenReadBackAlone
  intro s c w f t hdst ht
  have hsel : vDst w ≤ 0x87 := of_decide_eq_true hdst
  obtain ⟨n, hmap⟩ := s.mapLanes_eq c.val w f
  obtain ⟨⟨_, _, _, hframe⟩, ⟨_, hcore⟩, hothers⟩ := s.setLanes_frame (vDst w) ((s.core c.val).maskOf (fld w 45 3))
    ((laneResults ((s.core c.val).maskOf (fld w 45 3)) f).map (·.1)) c.isLt
  rw [hmap] at ht
  refine ⟨fun imm => ?_, fun sel imm _ hne => ?_, fun a h => ?_, fun h => ?_, ?_, fun m hm => ?_, ?_⟩
  · rw [ht, State.modCore_fsat_lanes, State.lanes_setLanes_same _ _ _ _ c.isLt hsel, mixLanes_laneResults,
      State.lanes_stored _ _ imm hsel]
  · rw [ht, State.modCore_fsat_lanes, State.lanes_setLanes_ne _ _ _ _ c.isLt hsel hne]
  · rw [ht]
    exact s.memGet_setLanes _ _ c.isLt h
  · rw [ht]
    exact s.setLanes_mem_reg _ _ _ h
  · rw [ht, State.modCore_core, hcore]
  · rw [ht, State.modCore, State.setCore_core_ne _ _ hm, hothers m hm]
  · rw [ht, hframe]
    rfl

end Sys2Proof.Machine
end

section
/-! PROOFS. A vector instruction that issues to an empty queue executes, signals and leaves its queue idle (R155, R199, R206,
R212). -/

namespace Sys2Proof.Machine

/-! ### An engine queue with nothing in it -/

/-- A core that runs with an empty queue of engine `e`, between no trap and its halt. -/
structure Core.EngineIdle (k : Core) (e : Engine) : Prop where
  seq : k.seq = .running
  queue : k.queue e = []
  noTrap : k.NoTrapEnds

/-- Nothing follows on such a core from what the engine has done. -/
theorem State.turns_engineIdle {s : State} {c : Nat} {e : Engine} (h : (s.core c).EngineIdle e) (n : Nat) :
    (State.pump n (s.trapHalt c) c e).settleCore c = s := by
  rw [State.trapHalt_none _ _ h.noTrap, State.pump_empty _ _ _ _ h.queue,
    State.settleCore_running _ _ (fun q hq => by rw [h.seq] at hq; cases hq) h.noTrap]

theorem State.turn_engineIdle {s : State} {c : Nat} {e : Engine} (h : (s.core c).EngineIdle e) : s.turn c e = s := by
  have hturns := State.turns_engineIdle h 9
  rwa [State.trapHalt_none _ _ h.noTrap] at hturns

theorem State.IssuesTo.engineIdle {s : State} {c op : Nat} {w : InstrWord} {e : Engine} (h : s.IssuesTo c op w e) :
    (s.core c).EngineIdle e := by
  obtain ⟨⟨hissuing, -⟩, hqueue, htrap⟩ := h
  rw [Core.issuing, Bool.and_eq_true, beq_iff_eq] at hissuing
  exact ⟨hissuing.1, hqueue, htrap⟩

/-- An instruction at the head of its queue does not wait for itself. -/
theorem Core.waitOk_head {k : Core} {q : QEntry} {e : Engine} (he : k.queue e = []) :
    (k.advance.setQueue e [q]).waitOk q = k.waitOk q := by
  have hflag : ∀ n, (k.advance.setQueue e [q]).flagOf n = k.flagOf n := fun _ => by cases e <;> rfl
  have hheads : ∀ p : QEntry → Bool, p q = false → (k.advance.setQueue e [q]).heads.any p = k.heads.any p := fun p hp => by
    simp only [Core.heads, List.any_filterMap, List.any_cons]
    cases e <;> simp only [Core.queue] at he <;> simp [Core.setQueue, Core.advance, he, hp]
  unfold Core.waitOk
  rw [hflag, hheads _ (by simp)]

/-! ### Cores alike to the vector engine -/

/-- Two cores alike in all that the vector queue's turns and an instruction's signal go by. -/
structure Core.SameVector (k l : Core) : Prop where
  work : k.SameWork l
  qV : l.qV = k.qV
  f : l.f = k.f

theorem Core.SameVector.refl (k : Core) : k.SameVector k := ⟨.refl k, rfl, rfl⟩

theorem Core.SameVector.trans {k l m : Core} (h : k.SameVector l) (g : l.SameVector m) : k.SameVector m :=
  ⟨h.work.trans g.work, g.qV.trans h.qV, g.f.trans h.f⟩

theorem Core.SameVector.engineIdle {k l : Core} (h : k.SameVector l) (hk : k.EngineIdle .vector) : l.EngineIdle .vector :=
  ⟨h.work.seq.trans hk.seq, h.qV.trans hk.queue, h.work.noTrapEnds hk.noTrap⟩

theorem Core.SameVector.signalFits {k l : Core} (h : k.SameVector l) {w : InstrWord} : l.SignalFits w ↔ k.SignalFits w := by
  unfold Core.SignalFits Core.flagOf
  rw [h.f]

theorem Core.EngineIdle.signalled {k : Core} (h : k.EngineIdle .vector) (w : InstrWord) (now : W64) :
    (k.signalled w now).EngineIdle .vector := by
  obtain ⟨hseq, hqueue, htrap⟩ := h
  unfold Core.signalled
  split
  · exact ⟨hseq, hqueue, htrap⟩
  · exact ⟨hseq, hqueue, htrap⟩

/-- A core past an instruction differs from before in PC, issue number and flags only. -/
theorem State.issued_eq (s : State) (c op : Nat) (w : InstrWord) : s.issued c op w =
    { s.core c with pc := (s.issued c op w).pc, issueNo := (s.issued c op w).issueNo, f := (s.issued c op w).f } := by
  unfold State.issued Core.takeWait Core.advance
  split
  · rfl
  · rfl

theorem State.executing_core (s : State) (c op : Nat) (w : InstrWord) : (s.executing c op w).core c = s.issued c op w :=
  State.setCore_core_same ..

theorem State.IssuesTo.issuedIdle {s : State} {c op : Nat} {w : InstrWord} {e : Engine} (h : s.IssuesTo c op w e) :
    (s.issued c op w).EngineIdle e := by
  obtain ⟨hseq, hqueue, htrap⟩ := h.engineIdle
  rw [s.issued_eq]
  exact ⟨hseq, by cases e <;> exact hqueue, htrap⟩

/-! ### The turn of a vector instruction -/

/-- The opcodes of the vector queue. -/
def vectorOps : List Nat := [0x30, 0x31, 0x32, 0x33, 0x34, 0x35, 0x36, 0x37, 0x40, 0x41, 0x42]

theorem State.headEffect_vector {q : QEntry} (s : State) (c : Nat) (h : q.op ∈ vectorOps) :
    s.headEffect c q = (s.runVector c q).signal c q := by
  have hne : ∀ n, n ∉ vectorOps → q.op ≠ n := fun n hn he => hn (he ▸ h)
  unfold State.headEffect
  split
  · next ho => exact absurd ho (hne _ (by decide))
  · next ho => exact absurd ho (hne _ (by decide))
  · next ho => exact absurd ho (hne _ (by decide))
  · next ho => exact absurd ho (hne _ (by decide))
  · next ho => exact absurd ho (hne _ (by decide))
  · next ho => exact absurd ho (hne _ (by decide))
  · rfl

/-- The head of the vector queue waits for its flag only, a queue read for its entries too (R171). -/
theorem State.headReady_vector {s : State} {c : Nat} {q : QEntry} (h : q.op ∈ vectorOps)
    (hread : q.op = 0x40 → vqrdNeed q.w ≤ (s.core c).occ false) : s.headReady c q = (s.core c).waitOk q := by
  have hne : ∀ n, n ∉ vectorOps → q.op ≠ n := fun n hn he => hn (he ▸ h)
  unfold State.headReady
  dsimp only
  split
  · next ho => exact absurd ho (hne _ (by decide))
  · next ho => exact absurd ho (hne _ (by decide))
  · next ho => exact absurd ho (hne _ (by decide))
  · next ho => rw [decide_eq_true (hread ho), Bool.and_true]
  · next ho => exact absurd ho (hne _ (by decide))
  · next ho => exact absurd ho (hne _ (by decide))
  · rw [Bool.and_true]

/-- A legal vector instruction for an empty queue executes and signals at once. -/
theorem State.issueTo_vector {s : State} {c op : Nat} {w : InstrWord} (h : s.IssuesTo c op w .vector) (hop : op ∈ vectorOps)
    (hread : op = 0x40 → vqrdNeed w ≤ (s.core c).occ false) : s.issueTo c op w .vector true false =
      (State.pump 8 ((((s.executing c op w).runVector c (s.issueEntry c op w)).signal c (s.issueEntry c op w)).trapHalt c) c
        .vector).settleCore c := by
  have hne : op ≠ 0x19 := fun he => absurd (he ▸ hop) (by decide)
  have hready : (s.setCore c ((s.core c).advance.setQueue .vector [s.issueEntry c op w])).headReady c
      (s.issueEntry c op w) = true := by
    rw [State.headReady_vector hop, State.setCore_core_same, Core.waitOk_head h.engineIdle.queue, h.1.2]
    rw [State.setCore_core_same]
    exact hread
  rw [State.issueTo_issues _ _ _ _ _ (by decide) h hne hready, State.headEffect_vector _ _ hop]

/-- The signal of an instruction of a held core that runs a context. -/
theorem State.HoldsCore.signal {s : State} {c : Nat} (h : s.HoldsCore c) {q : QEntry} (hctx : (s.core c).ctx.isSome = true)
    (hfits : (s.core c).SignalFits q.w) : s.signal c q = s.completed c q.w := by
  have hset := State.signal_setCore s c (s.core c) q hctx hfits
  have hheld : s.setCore c (s.core c) = s := h
  rwa [hheld] at hset

/-- A vector instruction whose effect leaves queues, traps and flags alone completes, and nothing follows. -/
theorem State.issueTo_vector_completes {s u : State} {c op : Nat} {w : InstrWord} (h : s.IssuesTo c op w .vector)
    (hop : op ∈ vectorOps) (hread : op = 0x40 → vqrdNeed w ≤ (s.core c).occ false)
    (hu : (s.executing c op w).runVector c (s.issueEntry c op w) = u) (hheld : u.HoldsCore c)
    (hsame : (s.issued c op w).SameVector (u.core c)) (hfits : (s.issued c op w).SignalFits w) :
    s.issueTo c op w .vector true false = .completed u c w := by
  have hctx : (u.core c).ctx.isSome = true := by rw [hsame.work.ctx]; exact h.1.ctx
  have hsignal : u.signal c (s.issueEntry c op w) = u.completed c w := hheld.signal hctx (hsame.signalFits.mpr hfits)
  have hidle : ((u.completed c w).core c).EngineIdle .vector := by
    rw [State.completed, State.modCore_core]
    exact (hsame.engineIdle h.issuedIdle).signalled w u.now
  rw [State.issueTo_vector h hop hread, hu, hsignal, State.turns_engineIdle hidle]

/-! ### Lanes written (R206) -/

/-- Lanes written, with a count of the values saturated. -/
def State.putLanes (s : State) (c sel : Nat) (mask : BitVec 128) (new : List W32) (sats : Nat) : State :=
  (s.setLanes c sel mask new).modCore c (fun k => { k with fsat := satAdd k.fsat sats })

theorem State.mapLanes_putLanes (s : State) (c : Nat) (w : InstrWord) (f : Nat → W32 × Nat) :
    ∃ mask new sats, s.mapLanes c w f = s.putLanes c (vDst w) mask new sats := ⟨_, _, _, rfl⟩

/-- Writing lanes changes working registers and a count of the core. -/
theorem State.putLanes_core (s : State) {c : Nat} (sel : Nat) (mask : BitVec 128) (new : List W32) (sats : Nat) (hc : c < 1536) :
    (s.core c).SameVector ((s.putLanes c sel mask new sats).core c) := by
  obtain ⟨-, ⟨v, hcore⟩, -⟩ := s.setLanes_frame sel mask new hc
  rw [State.putLanes, State.modCore_core, hcore]
  exact ⟨⟨rfl, rfl, rfl, rfl, rfl, rfl⟩, rfl, rfl⟩

/-- An instruction that writes lanes once it executes completes, whatever free values it draws before. -/
theorem State.issueTo_putLanes {s t u : State} {c op : Nat} {w : InstrWord} (h : s.IssuesTo c op w .vector) (hop : op ∈ vectorOps)
    (hread : op ≠ 0x40) (hc : c < 1536) (ht : t.core c = s.issued c op w)
    (hrun : (s.executing c op w).runVector c (s.issueEntry c op w) = u)
    (hu : ∃ sel mask new sats, u = t.putLanes c sel mask new sats) (hfits : (s.issued c op w).SignalFits w) :
    s.issueTo c op w .vector true false = u.completed c w := by
  obtain ⟨sel, mask, new, sats, hput⟩ := hu
  have hsame := t.putLanes_core sel mask new sats hc
  rw [ht, ← hput] at hsame
  have hheld : u.HoldsCore c := by
    rw [hput]
    exact State.holdsCore_setCore_same ..
  exact State.issueTo_vector_completes h hop (fun he => absurd he hread) hrun hheld hsame hfits

/-- An instruction that is a lane function once it executes, with `draws` free values taken before, writes lanes and completes. -/
theorem vectorWrites_of_run {i : Fin 1536 → InstrWord → Instr} {op draws : Nat} {ok : InstrWord → Bool}
    {f : State → Nat → InstrWord → Nat → Nat → W32 × Nat} (hop : op ∈ vectorOps) (hread : op ≠ 0x40)
    (hexec : ∀ c w s, exec (i c w) s = .next (s.issueTo c.val op w .vector (vLegal op w) false))
    (hrun : ∀ (s : State) c w, vLegal op w = true → ok w = true → (s.executing c op w).runVector c (s.issueEntry c op w) =
      ({ s.executing c op w with freeCtr := s.freeCtr + draws }).mapLanes c w (f s c w (Config.freeNat s.freeCtr))) :
    VectorWrites i op draws ok f := by
  intro s c w h hl hok hfits
  rw [hexec, hl, State.issueTo_putLanes h hop hread c.isLt (by exact s.executing_core ..) (hrun s c.val w hl hok)
    ⟨_, State.mapLanes_putLanes ..⟩ hfits]

/-- The operands of an instruction that executes are those at its issue. -/
theorem State.executing_lanes (s : State) (c op : Nat) (w : InstrWord) (sel : Nat) (imm : W32) :
    (s.executing c op w).lanes c sel imm = s.lanes c sel imm := by
  refine State.lanes_congr ?_ ?_ sel imm
  · rfl
  · rw [State.executing_core, s.issued_eq]

theorem State.executing_masks (s : State) (c op : Nat) (w : InstrWord) : ((s.executing c op w).core c).m = (s.core c).m := by
  rw [State.executing_core, s.issued_eq]

end Sys2Proof.Machine
end

section
/-! PROOFS. The arithmetic, compares, reductions and corrections of the vector engine (R130, R170 to R173, R206, R208). -/

namespace Sys2Proof.Machine

/-! ### Arithmetic -/

/-- VFP and VBF but for compares and selections. -/
theorem State.runFp_arith {s : State} {c : Nat} {q : QEntry} (hcmp : isCompare q.op q.w = false) (hsel : vVop q.w ≠ 6) :
    s.runFp c q = s.mapLanes c q.w (fun i => (if q.op = 0x30 then fpLane else pairLane) (vOvf q.w) (vVop q.w)
      ((s.lanes c (vSa q.w) (vImm q.w)).getD i 0) ((s.lanes c (vSb q.w) (vImm q.w)).getD i 0)
      ((s.lanes c (vSc q.w) (vImm q.w)).getD i 0)) := by
  unfold State.runFp
  dsimp only
  rw [hcmp, if_neg Bool.false_ne_true, if_neg hsel]
  split
  · rfl
  · rfl

/-- VFP and VBF selections (R172). -/
theorem State.runFp_select {s : State} {c : Nat} {q : QEntry} (h : vVop q.w = 6) :
    s.runFp c q = s.mapLanes c q.w (fun i => selLane (q.op != 0x30) (vOvf q.w)
      (((s.core c).m.get (Fin.ofNat 4 (vSc q.w - 0x90))).getLsbD i)
      ((s.lanes c (vSa q.w) (vImm q.w)).getD i 0) ((s.lanes c (vSb q.w) (vImm q.w)).getD i 0)) := by
  have hcmp : isCompare q.op q.w = false := by simp [isCompare, h]
  unfold State.runFp
  dsimp only
  rw [hcmp, if_neg Bool.false_ne_true, if_pos h]

/-- VFUNC with an assigned function. -/
theorem State.runVector_vfunc {s : State} {c : Nat} {q : QEntry} {g : Fn} (hop : q.op = 0x34) (h : vfunc (vVop q.w) = some g) :
    s.runVector c q = s.mapLanes c q.w (fun i =>
      let r := fnEval g false (vOvf q.w) ((s.lanes c (vSa q.w) (vImm q.w)).getD i 0)
      (BitVec.ofNat 32 r.code, flag r.sat)) := by
  unfold State.runVector
  rw [hop]
  dsimp only
  rw [h]
  rfl

theorem vopOk_of_vLegal {op : Nat} {w : InstrWord} (h : vLegal op w = true) : vopOk op w = true := by
  simp only [vLegal, Bool.and_eq_true] at h
  tauto

theorem vfunc_assigned {n : Nat} (h : n ≤ 4) : ∃ g, vfunc n = some g := by
  interval_cases n
  · exact ⟨_, rfl⟩
  · exact ⟨_, rfl⟩
  · exact ⟨_, rfl⟩
  · exact ⟨_, rfl⟩
  · exact ⟨_, rfl⟩

theorem vfp_writes : VectorWrites .vfp 0x30 0 (fun w => !isCompare 0x30 w && vVop w != 6)
    (fun s c w _ k => fpLane (vOvf w) (vVop w) (s.lane c w (vSa w) k) (s.lane c w (vSb w) k) (s.lane c w (vSc w) k)) := by
  refine vectorWrites_of_run (by decide) (by decide) (fun _ _ _ => rfl) fun s c w _ hok => ?_
  simp only [Bool.and_eq_true, Bool.not_eq_true', bne_iff_ne] at hok
  refine (State.runFp_arith hok.1 hok.2).trans ?_
  simp only [State.executing_lanes, State.lane]
  rfl

theorem vbf_writes : VectorWrites .vbf 0x31 0 (fun w => !isCompare 0x31 w && vVop w != 6)
    (fun s c w _ k => pairLane (vOvf w) (vVop w) (s.lane c w (vSa w) k) (s.lane c w (vSb w) k) (s.lane c w (vSc w) k)) := by
  refine vectorWrites_of_run (by decide) (by decide) (fun _ _ _ => rfl) fun s c w _ hok => ?_
  simp only [Bool.and_eq_true, Bool.not_eq_true', bne_iff_ne] at hok
  refine (State.runFp_arith hok.1 hok.2).trans ?_
  simp only [State.executing_lanes, State.lane]
  rfl

/-- SEL of VFP and of VBF, by their opcode. -/
theorem select_writes {i : Fin 1536 → InstrWord → Instr} {op : Nat} (hop : op = 0x30 ∨ op = 0x31)
    (hexec : ∀ c w s, exec (i c w) s = .next (s.issueTo c.val op w .vector (vLegal op w) false)) :
    VectorWrites i op 0 (fun w => vVop w == 6) (fun s c w _ k => selLane (op != 0x30) (vOvf w)
      (((s.core c).m.get (Fin.ofNat 4 (vSc w - 0x90))).getLsbD k) (s.lane c w (vSa w) k) (s.lane c w (vSb w) k)) := by
  have hmem : op ∈ vectorOps := by rcases hop with rfl | rfl <;> decide
  refine vectorWrites_of_run hmem (by omega) hexec fun s c w _ hok => ?_
  have hrun : (s.executing c op w).runVector c (s.issueEntry c op w) = (s.executing c op w).runFp c (s.issueEntry c op w) := by
    rcases hop with rfl | rfl <;> rfl
  refine hrun.trans ((State.runFp_select (eq_of_beq hok)).trans ?_)
  simp only [State.executing_lanes, State.executing_masks, State.lane]
  rfl

theorem vint_writes : VectorWrites .vint 0x32 1 (fun _ => true)
    (fun s c w free k => (intOp (vVop w) (s.lane c w (vSa w) k) (s.lane c w (vSb w) k) (BitVec.ofNat 32 (bits free (32 * k) 32)), 0)) := by
  refine vectorWrites_of_run (by decide) (by decide) (fun _ _ _ => rfl) fun s c w _ _ => ?_
  simp only [State.lane, ← s.executing_lanes c 0x32 w]
  rfl

theorem vcvt_writes : VectorWrites .vcvt 0x33 1 (fun _ => true)
    (fun s c w free k =>
      let r := cvtLane (vVop w % 16) (vVop w / 16) (vOvf w) (s.lane c w (vSa w) k) (BitVec.ofNat 32 (bits free (32 * k) 32))
      (r.1, flag r.2)) := by
  refine vectorWrites_of_run (by decide) (by decide) (fun _ _ _ => rfl) fun s c w _ _ => ?_
  simp only [State.lane, ← s.executing_lanes c 0x33 w]
  rfl

theorem vfunc_writes : VectorWrites .vfunc 0x34 0 (fun _ => true)
    (fun s c w _ k =>
      let r := fnEval ((vfunc (vVop w)).getD .exp2) false (vOvf w) (s.lane c w (vSa w) k)
      (BitVec.ofNat 32 r.code, flag r.sat)) := by
  refine vectorWrites_of_run (by decide) (by decide) (fun _ _ _ => rfl) fun s c w hl _ => ?_
  obtain ⟨g, hg⟩ := vfunc_assigned (of_decide_eq_true (vopOk_of_vLegal hl))
  refine (State.runVector_vfunc (by rfl) hg).trans ?_
  simp only [State.lane, hg, Option.getD_some, ← s.executing_lanes c 0x34 w]
  rfl

theorem vbc_writes : VectorWrites .vbc 0x36 0 (fun _ => true) (fun s c w _ _ => (s.lane c w (vSa w) (fld w 0 7), 0)) := by
  refine vectorWrites_of_run (by decide) (by decide) (fun _ _ _ => rfl) fun s c w _ _ => ?_
  simp only [State.lane, ← s.executing_lanes c 0x36 w]
  rfl

/-- Settles O12, instruction by instruction: each is a lane function once it executes. -/
theorem vectorArithmeticWritesEnabledLanes : Obligations.VectorArithmeticWritesEnabledLanes :=
  ⟨vfp_writes, select_writes (Or.inl rfl) (fun _ _ _ => rfl), vbf_writes, select_writes (Or.inr rfl) (fun _ _ _ => rfl),
    vint_writes, vcvt_writes, vfunc_writes, vbc_writes⟩

end Sys2Proof.Machine
end

section
/-! PROOFS. The compares, reductions and corrections of the vector engine (R130, R173, R206, R208). -/

namespace Sys2Proof.Machine

/-! ### Compares -/

/-- The bit of a compare, by VFP on lanes or by VBF on pairs with a free bit. -/
def compareBit (op : Nat) (w : InstrWord) (free : Nat) (a b : Nat → W32) (i : Nat) : Bool :=
  if op = 0x30 then fpCompare (vVop w) (ofFp32 (a i)) (ofFp32 (b i)) else pairCompare (vVop w) (a i) (b i) (bit free i)

/-- A mask register with the enabled bits of a compare. -/
def Core.putMask (w : InstrWord) (res : Nat → Bool) (k : Core) : Core :=
  let old := k.m.get (Fin.ofNat 4 (vDst w - 0x90))
  { k with m := k.m.setIfInBounds (vDst w - 0x90) (mixMask (k.maskOf (fld w 45 3)) res old) }

theorem State.runFp_compare {s : State} {c : Nat} {q : QEntry} (h : isCompare q.op q.w = true) :
    s.runFp c q = ({ s with freeCtr := s.freeCtr + 1 } : State).modCore c (Core.putMask q.w (compareBit q.op q.w
      (Config.freeNat s.freeCtr) (fun i => (s.lanes c (vSa q.w) (vImm q.w)).getD i 0)
      (fun i => (s.lanes c (vSb q.w) (vImm q.w)).getD i 0))) := by
  unfold State.runFp
  dsimp only
  rw [h, if_pos rfl]
  dsimp only [State.free, State.modCore, Core.putMask, compareBit]
  rfl

theorem exec_compare {s : State} {c op : Nat} {w : InstrWord} (h : s.IssuesTo c op w .vector) (hop : op = 0x30 ∨ op = 0x31)
    (hcmp : isCompare op w = true) (hfits : (s.issued c op w).SignalFits w) : s.issueTo c op w .vector true false =
      (({ s.executing c op w with freeCtr := s.freeCtr + 1 } : State).modCore c (Core.putMask w
        (compareBit op w (Config.freeNat s.freeCtr) (s.lane c w (vSa w)) (s.lane c w (vSb w))))).completed c w := by
  have hmem : op ∈ vectorOps := by rcases hop with rfl | rfl <;> decide
  have hrun : (s.executing c op w).runVector c (s.issueEntry c op w) = (s.executing c op w).runFp c (s.issueEntry c op w) := by
    rcases hop with rfl | rfl <;> rfl
  have hlanes := State.runFp_compare (s := s.executing c op w) (c := c) (q := s.issueEntry c op w) hcmp
  simp only [State.executing_lanes] at hlanes
  refine State.issueTo_vector_completes h hmem (by omega) (hrun.trans hlanes) (State.holdsCore_setCore_same ..) ?_ hfits
  rw [State.modCore_core]
  exact s.executing_core c op w ▸ ⟨⟨rfl, rfl, rfl, rfl, rfl, rfl⟩, rfl, rfl⟩

/-! ### Corrections -/

/-- What a VSIDE meets whose correction descriptor `b` is readable and whose range lies in its tensors (R208). -/
structure State.SideChecked (t : State) (c p n : Nat) (q : QEntry) (b : Bytes) (wd ad : Desc) (cols : Nat)
    (need : List (Nat × Nat)) : Prop where
  bytes : b = t.descBytes c (fld q.w 0 13)
  pass : t.passOf c = some (p, n)
  desc : t.descOk c (fld q.w 0 13) 64 = true
  windex : le b 0 2 < 8192
  aindex : le b 2 2 < 8192
  zero : le b 0x14 44 = 0
  wdesc : t.descOk c (le b 0 2) 64 = true
  adesc : t.descOk c (le b 2 2) 64 = true
  weights : (Desc.parse (t.descBytes c (le b 0 2))).bind t.localDesc = some wd
  activations : (Desc.parse (t.descBytes c (le b 2 2))).bind t.localDesc = some ad
  rows : le b 4 4 + 8 ≤ wd.dim1
  elements : le b 8 4 + le b 0xC 4 ≤ wd.dim0
  inputs : le b 0xC 4 ≤ ad.dim0
  columns : cols = min 8 (ad.dim1 - le b 0x10 4)
  ranges : need = (List.range 8).flatMap (fun r => wd.ranges (wd.dim0 * (le b 4 4 + r) + le b 8 4) (le b 0xC 4) wd.side)
    ++ (List.range cols).flatMap (fun j => ad.ranges (ad.dim0 * (le b 0x10 4 + j)) (le b 0xC 4) ad.side)
  reach : t.mayReadAll p need = true
  good : t.badRange need = none
  wfit : (List.range 8).all (fun r => wd.escapesFit t.bus wd.side (le b 8 4) (le b 8 4 + le b 0xC 4) (le b 4 4 + r) 0) = true
  afit : (List.range cols).all (fun j => ad.escapesFit t.bus ad.side 0 (le b 0xC 4) (le b 0x10 4 + j) 0) = true

/-- A lane of VSIDE: that of its half with its corrections, any other as it is. -/
def State.sideLane (t : State) (c : Nat) (w : InstrWord) (b : Bytes) (wd ad : Desc) (cols i : Nat) : W32 × Nat :=
  let j := i - 64 * (vVop w % 2)
  let old := (t.lanes c (vSa w) 0).getD i 0
  if 64 * (vVop w % 2) ≤ i && i < 64 * (vVop w % 2) + 64 && j % 8 < cols then
    corrLane wd ad t.bus (vOvf w) (le b 4 4 + j / 8) (le b 0x10 4 + j % 8) (le b 8 4) (le b 0xC 4) 0 (old, 0)
  else (old, 0)

theorem State.SideChecked.run {t : State} {c p n : Nat} {q : QEntry} {b : Bytes} {wd ad : Desc} {cols : Nat} {need : List (Nat × Nat)}
    (h : t.SideChecked c p n q b wd ad cols need) : t.runSide c q = t.mapLanes c q.w (t.sideLane c q.w b wd ad cols) := by
  have hinside : ¬ ((decide (wd.dim1 < le b 4 4 + 8) || decide (wd.dim0 < le b 8 4 + le b 0xC 4) ||
      decide (ad.dim0 < le b 0xC 4)) = true) := by
    have hrows := h.rows
    have helements := h.elements
    have hinputs := h.inputs
    simp only [Bool.or_eq_true, decide_eq_true_eq]
    omega
  have hindex : ¬ ((decide (8192 ≤ le b 0 2) || decide (8192 ≤ le b 2 2) || decide (le b 0x14 44 ≠ 0)) = true) := by
    have hwindex := h.windex
    have haindex := h.aindex
    have hzero := h.zero
    simp only [Bool.or_eq_true, decide_eq_true_eq]
    omega
  unfold State.runSide
  dsimp only
  rw [h.pass]
  dsimp only
  rw [← h.bytes, Nat.mod_eq_of_lt h.windex, Nat.mod_eq_of_lt h.aindex, h.desc, h.wdesc, h.adesc, if_neg (by decide), if_neg hindex,
    h.weights, h.activations]
  dsimp only
  rw [if_neg hinside, ← h.columns, ← h.ranges, h.reach, h.wfit, h.afit, if_neg (by decide), if_neg (by decide), h.good]
  rfl

/-- Settles O13: the compares and the reduction by what they write, the correction by the conditions it passes. -/
theorem vectorComparesReductionsAndCorrections : Obligations.VectorComparesReductionsAndCorrections := by
  unfold Obligations.VectorComparesReductionsAndCorrections
  intro s c w
  refine ⟨fun h hl hcmp hfits => ?_, fun h hl hcmp hfits => ?_, fun h hl hfits => ?_, ?_⟩
  · have hissue : exec (.vfp c w) s = .next (s.issueTo c.val 0x30 w .vector (vLegal 0x30 w) false) := rfl
    rw [hissue, hl, exec_compare h (Or.inl rfl) hcmp hfits]
    rfl
  · have hissue : exec (.vbf c w) s = .next (s.issueTo c.val 0x31 w .vector (vLegal 0x31 w) false) := rfl
    rw [hissue, hl, exec_compare h (Or.inr rfl) hcmp hfits]
    rfl
  · have hissue : exec (.vred c w) s = .next (s.issueTo c.val 0x35 w .vector (vLegal 0x35 w) false) := rfl
    have hrun : (s.executing c.val 0x35 w).runVector c.val (s.issueEntry c.val 0x35 w) =
      (s.executing c.val 0x35 w).runRed c.val (s.issueEntry c.val 0x35 w) := rfl
    rw [hissue, hl, State.issueTo_putLanes h (by decide) (by decide) c.isLt (s.executing_core ..) hrun ⟨_, _, _, _, rfl⟩ hfits]
  · intro t b p n wd ad h hl ht hfits hb hpass hdesc hw ha hzero hwok haok hwd had hrow hel hn cols need hcols hneed hread hgood
      hwfit hafit
    subst ht
    have hissue : exec (.vside c w) s = .next (s.issueTo c.val 0x37 w .vector (vLegal 0x37 w) false) := rfl
    have hcheck : (s.executing c.val 0x37 w).SideChecked c.val p n (s.issueEntry c.val 0x37 w) b wd ad cols need :=
      ⟨hb, hpass, hdesc, hw, ha, hzero, hwok, haok, hwd, had, hrow, hel, hn, hcols, hneed, hread, hgood, hwfit, hafit⟩
    rw [hissue, hl, State.issueTo_putLanes h (by decide) (by decide) c.isLt (s.executing_core ..) hcheck.run
      ⟨_, State.mapLanes_putLanes ..⟩ hfits]
    rfl

end Sys2Proof.Machine
end

section
/-! PROOFS. Queue reads, vector loads and vector stores (R117 to R119, R133, R171, R207). -/

namespace Sys2Proof.Machine

/-! ### VQRD (R171) -/

/-- The tile queue after the vector engine has taken the first `k` entries of its order. -/
def takeReads (l : List TqEntry) (k : Nat) : List TqEntry × Nat :=
  l.foldl (fun a e => if !e.gate && 0 < a.2 then (a.1, a.2 - 1) else (a.1 ++ [e], a.2)) ([], k)

theorem foldl_takeReads (l acc : List TqEntry) (k : Nat) :
    ∃ r, (l.foldl (fun (a : List TqEntry × Nat) e => if !e.gate && 0 < a.2 then (a.1, a.2 - 1) else (a.1 ++ [e], a.2)) (acc, k)).1 =
        acc ++ r ∧ r.filter (fun e => !e.gate) = (l.filter (fun e => !e.gate)).drop k ∧ r.filter (·.gate) = l.filter (·.gate) := by
  induction l generalizing acc k with
  | nil => exact ⟨[], by simp⟩
  | cons e l ih =>
    rw [List.foldl_cons]
    by_cases htake : (!e.gate && decide (0 < k)) = true
    · rw [if_pos htake]
      rw [Bool.and_eq_true, decide_eq_true_eq] at htake
      obtain ⟨hvector, hk⟩ := htake
      obtain ⟨r, hr, hleft, hgate⟩ := ih acc (k - 1)
      obtain ⟨j, rfl⟩ : ∃ j, k = j + 1 := ⟨k - 1, by omega⟩
      exact ⟨r, hr, by simpa [hvector] using hleft, by simp at hvector; simpa [hvector] using hgate⟩
    · rw [if_neg htake]
      obtain ⟨r, hr, hleft, hgate⟩ := ih (acc ++ [e]) k
      refine ⟨e :: r, by rw [hr, List.append_assoc]; rfl, ?_, by simp [List.filter_cons, hgate]⟩
      cases hg : e.gate with
      | true => simpa [hg] using hleft
      | false =>
        have hzero : k = 0 := by simpa [hg] using htake
        simpa [hg, hzero] using hleft

/-- The entries taken leave the vector engine's order, the gate pipeline's is as before. -/
theorem takeReads_orders (l : List TqEntry) (k : Nat) :
    (takeReads l k).1.filter (fun e => !e.gate) = (l.filter (fun e => !e.gate)).drop k ∧
    (takeReads l k).1.filter (·.gate) = l.filter (·.gate) := by
  obtain ⟨r, hr, hleft, hgate⟩ := foldl_takeReads l [] k
  rw [takeReads, hr]
  exact ⟨hleft, hgate⟩

theorem Core.occ_vector (k : Core) : k.occ false = (k.tq.filter (fun e => !e.gate)).length := by
  unfold Core.occ
  congr 2
  funext e
  cases e.gate <;> rfl

/-- The lanes that VQRD writes: the first entry's and, with N = 1, the second's above them; else the upper half is the old one (R171). -/
def vqrdLanes (w : InstrWord) (e : TqEntry) (l : List TqEntry) (old : List W32) : List W32 :=
  e.data.take 64 ++ (if fld w 59 1 = 1 then (l.headD e).data.take 64 else (old.drop 64).take 64)

theorem State.runQueueRead_eq {t : State} {c : Nat} {q : QEntry} {e : TqEntry} {l : List TqEntry}
    (h : (t.core c).tq.filter (fun e => !e.gate) = e :: l) (htwo : fld q.w 59 1 = 1 → l ≠ []) :
    t.runQueueRead c q = t.setCore c { t.core c with
      tq := (takeReads (t.core c).tq (fld q.w 59 1 + 1)).1,
      v := (t.core c).v.setIfInBounds (vmReg q.w - 0x80)
        (vqrdLanes q.w e l ((t.core c).v.get (Fin.ofNat 8 (vmReg q.w - 0x80)))) } := by
  have hbit : fld q.w 59 1 < 2 := Nat.mod_lt _ (by decide)
  unfold State.runQueueRead
  dsimp only
  rw [h, vqrdNeed, ← takeReads, vqrdLanes]
  by_cases hone : fld q.w 59 1 = 1
  · obtain ⟨e', l', rfl⟩ := List.exists_cons_of_ne_nil (htwo hone)
    rw [hone]
    rfl
  · have hzero : fld q.w 59 1 = 0 := by omega
    rw [hzero]
    rfl

theorem exec_vqrd {s : State} {c : Fin 1536} {w : InstrWord} {e : TqEntry} {l : List TqEntry} (h : s.IssuesTo c.val 0x40 w .vector)
    (hl : vmLegal 0x40 w = true) (hfits : (s.issued c.val 0x40 w).SignalFits w)
    (htq : (s.core c.val).tq.filter (fun e => !e.gate) = e :: l) (htwo : fld w 59 1 = 1 → l ≠ []) :
    exec (.vqrd c w) s = .next ((s.setCore c.val { s.issued c.val 0x40 w with
        tq := (takeReads (s.core c.val).tq (fld w 59 1 + 1)).1,
        v := (s.core c.val).v.setIfInBounds (vmReg w - 0x80)
          (vqrdLanes w e l ((s.core c.val).v.get (Fin.ofNat 8 (vmReg w - 0x80)))) }).completed c.val w) := by
  have hissue : exec (.vqrd c w) s = .next (s.issueTo c.val 0x40 w .vector (vmLegal 0x40 w) false) := rfl
  have hqueue : ((s.executing c.val 0x40 w).core c.val).tq = (s.core c.val).tq := by rw [State.executing_core, s.issued_eq]
  have hregs : ((s.executing c.val 0x40 w).core c.val).v = (s.core c.val).v := by rw [State.executing_core, s.issued_eq]
  have hrun := State.runQueueRead_eq (q := s.issueEntry c.val 0x40 w) (hqueue ▸ htq) htwo
  rw [hqueue, hregs, State.executing_core, State.executing, State.setCore_setCore] at hrun
  have hneed : vqrdNeed w ≤ (s.core c.val).occ false := by
    have hbit : fld w 59 1 < 2 := Nat.mod_lt _ (by decide)
    have hlen : fld w 59 1 = 1 → 0 < l.length := fun hone => List.length_pos_iff.mpr (htwo hone)
    rw [Core.occ_vector, htq, vqrdNeed, List.length_cons]
    omega
  rw [hissue, hl, State.issueTo_vector_completes h (by decide) (fun _ => hneed) hrun (State.holdsCore_setCore_same ..) ?_ hfits]
  · rfl
  · rw [State.setCore_core_same]
    exact ⟨⟨rfl, rfl, rfl, rfl, rfl, rfl⟩, rfl, rfl⟩

/-! ### VLD (R207) -/

theorem State.executing_maskOf (s : State) (c op : Nat) (w : InstrWord) (code : Nat) :
    ((s.executing c op w).core c).maskOf code = (s.core c).maskOf code := by
  unfold Core.maskOf
  rw [State.executing_masks]

/-- VLD with a legal descriptor of elements that the context may reach. -/
theorem State.runLoad_eq {t : State} {c p n lo len : Nat} {q : QEntry} {d : Desc} {need : List (Nat × Nat)} {mask : BitVec 128}
    {rs : List (W32 × Nat)} (hlo : lo = (xGet q.x (fld q.w 63 4)).toNat) (hpass : t.passOf c = some (p, n))
    (hdesc : t.descOk c (vmDesc q.w) 64 = true) (hd : (Desc.parse (t.descBytes c (vmDesc q.w))).bind t.localDesc = some d)
    (hload : (d.vldRaw || d.loadAs == 0x01 || d.loadAs == 0xFF || d.loadAs == 0x00) = true)
    (hlen : len = if d.loadAs = 0x01 then 256 else 128) (hneed : need = d.ranges lo len (fld q.w 56 1 == 1 && d.side))
    (hread : t.mayReadAll p need = true) (hgood : t.badRange need = none)
    (hfit : d.spanFits t.bus (fld q.w 56 1 == 1) lo len = true) (hmask : mask = (t.core c).maskOf (fld q.w 60 3))
    (hrs : rs = vldLanes d t.bus q.w lo mask) :
    t.runLoad c q = t.putLanes c (vmReg q.w) mask (rs.map (·.1)) (rs.foldl (fun a r => a + r.2) 0) := by
  unfold State.runLoad
  dsimp only
  rw [hpass]
  dsimp only
  rw [hdesc, if_neg (by decide), hd]
  dsimp only
  rw [hload, if_neg (by decide), ← hlo, ← hlen, ← hneed, hread, if_neg (by decide), hfit, if_neg (by decide), hgood, hrs, hmask]
  rfl

end Sys2Proof.Machine
end

section
/-! PROOFS. Vector stores: conversion, the store port's counters, and a NaN that is latched or traps (R117 to R119, R133, R207). -/

namespace Sys2Proof.Machine

/-! ### What the store port leaves alone -/

theorem Core.regWrite_sameVector (k : Core) (off : Nat) (v : W64) : k.SameVector (k.regWrite off v) := by
  refine ⟨k.regWrite_sameWork off v, ?_, ?_⟩
  all_goals
    unfold Core.regWrite
    split_ifs <;> rfl

theorem Core.tally_sameVector (k : Core) (a : StoreAcc) (tag : Option Nat) : k.SameVector (k.tally a tag) := by
  refine ⟨k.tally_sameWork a tag, ?_, ?_⟩
  all_goals
    cases tag with
    | none => rfl
    | some t =>
      simp only [Core.tally]
      split_ifs <;> rfl

theorem State.modCore_sameVector {s : State} {n : Nat} {f : Core → Core} (h : ∀ k : Core, k.SameVector (f k)) (c : Nat) :
    (s.core c).SameVector ((s.modCore n f).core c) := by
  by_cases hc : c = n
  · rw [hc, State.modCore_core]
    exact h _
  · rw [State.modCore, State.setCore_core_ne _ _ hc]
    exact .refl _

theorem sameVector_foldl {α : Type} {f : State → α → State} {c : Nat} (hf : ∀ (s : State) a, (s.core c).SameVector ((f s a).core c))
    (l : List α) (s : State) : (s.core c).SameVector ((l.foldl f s).core c) := by
  induction l generalizing s with
  | nil => exact .refl _
  | cons a l ih => exact (hf s a).trans (ih _)

theorem State.busWrite_sameVector (s : State) (a : Nat) (bs : Bytes) (c : Nat) :
    (s.core c).SameVector ((s.busWrite a bs).core c) := by
  unfold State.busWrite
  split
  · unfold State.write
    split
    · exact .refl _
    · exact .refl _
  · split
    · exact sameVector_foldl (fun t k => State.modCore_sameVector (fun x => x.regWrite_sameVector _ _) c) _ _
    · exact .refl _

theorem State.storeRuns_sameVector (s : State) (l : List (Nat × Bytes)) (c : Nat) :
    (s.core c).SameVector ((s.storeRuns l).core c) := by
  unfold State.storeRuns
  exact sameVector_foldl (fun t r => t.busWrite_sameVector r.1 r.2 c) l s

/-! ### A NaN at the store port (R117 to R119) -/

theorem OnlySent.modCore {s t : State} (h : OnlySent s t) (c : Nat) (f : Core → Core) : OnlySent (s.modCore c f) (t.modCore c f) := by
  unfold State.modCore
  rw [h.core, h]
  rfl

/-- A NaN while the latch is valid sets MORE. -/
theorem State.sawNan_more {u : State} {c no : Nat} {tq : Bool} {op pc : BitVec 16} (h : (u.core c).nanId.getLsbD 63 = true) :
    u.sawNan c tq no op pc = u.modCore c (fun k => { k with nanId := k.nanId ||| BitVec.ofNat 64 (2 ^ 61) }) := by
  unfold State.sawNan State.latchNan State.latchNanOf
  dsimp only
  rw [if_pos h]
  rfl

/-- A core with the identity of a NaN latched, and its trap due where the context asks for one. -/
def Core.latched (id : W64) (step : BitVec 48) (due : Option (Nat × BitVec 16 × BitVec 16)) (k : Core) : Core :=
  { k with nanId := id, nanStep := step, trapDue := due }

/-- A NaN of a context is latched with its step and reported; under the trap the core is to halt at the instruction's end. -/
theorem State.sawNan_latches {u : State} {c no : Nat} {tq : Bool} {op pc id : BitVec 16} {x : Context}
    (h : (u.core c).nanId.getLsbD 63 = false) (hctx : (u.core c).ctx = some id) (hx : u.ctx? id.toNat = some x)
    (hdue : (u.core c).trapDue = none) : OnlySent (u.modCore c (Core.latched (nanRecord tq x.trap c id.toNat op pc) x.step
      (if x.trap then some (no, op, pc) else none))) (u.sawNan c tq no op pc) := by
  obtain ⟨v, hv⟩ : ∃ v, v = u.setCore c { u.core c with nanId := nanRecord tq x.trap c id.toNat op pc, nanStep := x.step } :=
    ⟨_, rfl⟩
  have hcore : v.core c = { u.core c with nanId := nanRecord tq x.trap c id.toNat op pc, nanStep := x.step } := by
    rw [hv, State.setCore_core_same]
  obtain ⟨data, hlatch⟩ : ∃ data, u.latchNan c tq op pc = (x.trap, v.raisePart 0x8C02 (id.toNat / 4096) data) := by
    rw [hv]
    unfold State.latchNan State.latchNanOf
    dsimp only
    rw [h, hctx, Option.map_some, Option.getD_some, hx]
    exact ⟨_, rfl⟩
  have hsent := v.raisePart_onlySent 0x8C02 (id.toNat / 4096) data
  unfold State.sawNan
  rw [hlatch]
  dsimp only
  cases htrap : x.trap with
  | false =>
    have heq : u.modCore c (Core.latched (nanRecord tq false c id.toNat op pc) x.step none) = v := by
      rw [hv, htrap, State.modCore, Core.latched, ← hdue]
    rw [if_neg Bool.false_ne_true, if_neg Bool.false_ne_true, heq]
    exact hsent
  | true =>
    have heq : u.modCore c (Core.latched (nanRecord tq true c id.toNat op pc) x.step (some (no, op, pc))) =
        v.modCore c (fun k => { k with trapDue := k.trapDue.orElse (fun _ => some (no, op, pc)) }) := by
      rw [State.modCore, State.modCore, hcore, hv, State.setCore_setCore, htrap, Core.latched, hdue]
      rfl
    rw [if_pos rfl, if_pos rfl, heq]
    exact hsent.modCore c _

/-- A due trap of an instruction that has ended halts the core. -/
theorem State.trapHalt_ended {s : State} {c no : Nat} {op pc : BitVec 16} (hdue : (s.core c).trapDue = some (no, op, pc))
    (hgate : (s.core c).gate = none) (hruns : (s.core c).runs = []) : s.trapHalt c = s.coreFault c 1 pc op := by
  unfold State.trapHalt
  dsimp only
  rw [hdue]
  dsimp only
  rw [hgate, hruns]
  rfl

/-! ### VST (R207) -/

/-- The store of VST once its bytes are written and its elements counted. -/
def State.stored (t : State) (c : Nat) (w : InstrWord) (acc : StoreAcc) : State :=
  (State.storeRuns { t with freeCtr := t.freeCtr + 1 } (runsOf (overlay t.busByte acc.writes.reverse))).modCore c
    (fun k => k.tally acc (tagOf (fld w 49 7)))

/-- What a VST meets with a legal descriptor whose elements the context may write, where no failing span is in the way. -/
structure State.StoreChecked (t : State) (c p n lo : Nat) (q : QEntry) (d : Desc) (vs : List Num) (acc : StoreAcc) : Prop where
  first : lo = (xGet q.x (fld q.w 63 4)).toNat
  pass : t.passOf c = some (p, n)
  desc : t.descOk c (vmDesc q.w) 64 = true
  tensor : (Desc.parse (t.descBytes c (vmDesc q.w))).bind t.localDesc = some d
  block : (isMx d.fmt && decide (lo % 32 ≠ 0)) = false
  values : vs = vstValues q.w ((t.core c).maskOf (fld q.w 60 3)) (t.lanes c (vmReg q.w) 0)
  reach : t.mayWriteAll p (d.ranges lo vs.length ((vstModes q.w).esc && d.side)) = true
  converted : acc = convertStore d t.bus ((vstModes q.w).fromInt (fld q.w 47 2 == 2) d.fmt) t.freeCtr (t.core c).gen lo vs
  good : t.refusedRun (runsOf (overlay t.busByte acc.writes.reverse)) = none

theorem State.StoreChecked.run {t : State} {c p n lo : Nat} {q : QEntry} {d : Desc} {vs : List Num} {acc : StoreAcc}
    (h : t.StoreChecked c p n lo q d vs acc) : t.runStore c q =
      if acc.nan then (t.stored c q.w acc).sawNan c false q.no (opTagOf q.w) q.pc else t.stored c q.w acc := by
  have hesc : ((vstModes q.w).fromInt (fld q.w 47 2 == 2) d.fmt).esc = (vstModes q.w).esc := rfl
  unfold State.runStore
  dsimp only
  rw [h.pass]
  dsimp only
  rw [h.desc, if_neg (by decide), h.tensor]
  dsimp only
  rw [← h.first, h.block, if_neg (by decide), ← h.values]
  unfold State.storeValues
  dsimp only
  rw [hesc, h.reach, if_neg (by decide), ← h.converted, h.good]
  rfl

/-- What a store leaves of its core: queues, traps and flags. -/
theorem State.stored_core (t : State) (c : Nat) (w : InstrWord) (acc : StoreAcc) :
    (t.core c).SameVector ((t.stored c w acc).core c) := by
  rw [State.stored, State.modCore_core]
  exact (State.storeRuns_sameVector { t with freeCtr := t.freeCtr + 1 } _ c).trans (Core.tally_sameVector ..)

theorem State.stored_ctx? (t : State) (c : Nat) (w : InstrWord) (acc : StoreAcc) (id : Nat) :
    (t.stored c w acc).ctx? id = t.ctx? id :=
  ((State.storeRuns_sameWork { t with freeCtr := t.freeCtr + 1 } _).trans
    (State.modCore_sameWork fun k => k.tally_sameWork _ _)).ctx? id

/-- A core with a NaN latched differs for the vector engine by the due trap only. -/
theorem Core.latched_sameVector {k : Core} (id : W64) (step : BitVec 48) (h : k.trapDue = none) :
    k.SameVector (k.latched id step none) := ⟨⟨rfl, rfl, rfl, h.symm, rfl, rfl⟩, rfl, rfl⟩

section
variable (k : Core) (id : W64) (step : BitVec 48) (due : Option (Nat × BitVec 16 × BitVec 16))

@[simp] theorem Core.latched_ctx : (k.latched id step due).ctx = k.ctx := rfl
@[simp] theorem Core.latched_gate : (k.latched id step due).gate = k.gate := rfl
@[simp] theorem Core.latched_runs : (k.latched id step due).runs = k.runs := rfl
@[simp] theorem Core.latched_trapDue : (k.latched id step due).trapDue = due := rfl
theorem Core.latched_signalFits (w : InstrWord) : (k.latched id step due).SignalFits w ↔ k.SignalFits w := Iff.rfl

end

/-- A store without a NaN, or with one that is latched only, completes. -/
theorem exec_vst_completes {s u : State} {c : Fin 1536} {w : InstrWord} (h : s.IssuesTo c.val 0x42 w .vector)
    (hl : vmLegal 0x42 w = true) (hrun : (s.executing c.val 0x42 w).runStore c.val (s.issueEntry c.val 0x42 w) = u)
    (hheld : u.HoldsCore c.val) (hsame : (s.issued c.val 0x42 w).SameVector (u.core c.val))
    (hfits : (s.issued c.val 0x42 w).SignalFits w) : exec (.vst c w) s = .next (u.completed c.val w) := by
  have hissue : exec (.vst c w) s = .next (s.issueTo c.val 0x42 w .vector (vmLegal 0x42 w) false) := rfl
  rw [hissue, hl, State.issueTo_vector_completes h (by decide) (fun he => absurd he (by decide)) hrun hheld hsame hfits]

/-- A store whose NaN traps completes, and then its context faults with code 1 (R118). -/
theorem exec_vst_traps {s v : State} {c : Fin 1536} {w : InstrWord} {no : Nat} {op pc : BitVec 16}
    (h : s.IssuesTo c.val 0x42 w .vector) (hl : vmLegal 0x42 w = true)
    (hrun : (s.executing c.val 0x42 w).runStore c.val (s.issueEntry c.val 0x42 w) = v) (hheld : v.HoldsCore c.val)
    (hctx : (v.core c.val).ctx.isSome = true) (hfits : (v.core c.val).SignalFits w)
    (hdue : (v.core c.val).trapDue = some (no, op, pc)) (hgate : (v.core c.val).gate = none) (hruns : (v.core c.val).runs = []) :
    exec (.vst c w) s = .next ((((v.completed c.val w).coreFault c.val 1 pc op).pump 8 c.val .vector).settleCore c.val) := by
  have hissue : exec (.vst c w) s = .next (s.issueTo c.val 0x42 w .vector (vmLegal 0x42 w) false) := rfl
  have hvector : (s.executing c.val 0x42 w).runVector c.val (s.issueEntry c.val 0x42 w) = v := hrun
  have hsignal : v.signal c.val (s.issueEntry c.val 0x42 w) = v.completed c.val w := hheld.signal hctx hfits
  have hwork := (v.completed_sameWork c.val w).core c.val
  rw [hissue, hl, State.issueTo_vector h (by decide) (fun he => absurd he (by decide)), hvector, hsignal,
    State.trapHalt_ended (hwork.trapDue.trans hdue) (hwork.gate.trans hgate) (hwork.runs.trans hruns)]

/-- A store whose NaN finds the latch free: the NaN is latched and reported, the store completes, and a trap halts the core. -/
theorem exec_vst_latches {s u : State} {c : Fin 1536} {w : InstrWord} {no : Nat} {op pc id : BitVec 16} {x : Context}
    (h : s.IssuesTo c.val 0x42 w .vector) (hl : vmLegal 0x42 w = true)
    (hrun : (s.executing c.val 0x42 w).runStore c.val (s.issueEntry c.val 0x42 w) = u.sawNan c.val false no op pc)
    (hsame : (s.issued c.val 0x42 w).SameVector (u.core c.val)) (hfits : (u.core c.val).SignalFits w)
    (hfree : (u.core c.val).nanId.getLsbD 63 = false) (hctx : (u.core c.val).ctx = some id) (hx : u.ctx? id.toNat = some x)
    (hdue : (u.core c.val).trapDue = none) (hgate : (u.core c.val).gate = none) (hruns : (u.core c.val).runs = []) :
    ∃ v : State, OnlySent (u.modCore c.val (Core.latched (nanRecord false x.trap c.val id.toNat op pc) x.step
        (if x.trap then some (no, op, pc) else none))) v ∧
      (x.trap = false → exec (.vst c w) s = .next (v.completed c.val w)) ∧
      (x.trap = true → exec (.vst c w) s =
        .next ((((v.completed c.val w).coreFault c.val 1 pc op).pump 8 c.val .vector).settleCore c.val)) := by
  have hsent := State.sawNan_latches (no := no) (tq := false) (op := op) (pc := pc) hfree hctx hx hdue
  have hcore := hsent.core c.val
  rw [State.modCore_core] at hcore
  have hheld : (u.sawNan c.val false no op pc).HoldsCore c.val := (State.holdsCore_setCore_same ..).of_cores hsent.cores
  refine ⟨_, hsent, fun htrap => ?_, fun htrap => ?_⟩
  · refine exec_vst_completes h hl hrun hheld (hsame.trans ?_) (hsame.signalFits.mp hfits)
    rw [hcore, htrap, if_neg Bool.false_ne_true]
    exact Core.latched_sameVector _ _ hdue
  · rw [htrap, if_pos rfl] at hcore
    refine exec_vst_traps (no := no) h hl hrun hheld ?_ ?_ ?_ ?_ ?_
    · rw [hcore, Core.latched_ctx, hctx]
      rfl
    · rw [hcore, Core.latched_signalFits]
      exact hfits
    · rw [hcore, Core.latched_trapDue]
    · rw [hcore, Core.latched_gate, hgate]
    · rw [hcore, Core.latched_runs, hruns]

/-- Settles O15: the queue read by the entries that it takes, the load and the store by the conditions they pass; of a store's NaN
by whether the latch is free and the context traps. -/
theorem vectorLoadsAndStoresMoveElements : Obligations.VectorLoadsAndStoresMoveElements := by
  unfold Obligations.VectorLoadsAndStoresMoveElements
  refine ⟨fun s c w e l h hl hfits htq htwo => ?_, fun s c w t d p n lo hlo => ⟨?_, ?_⟩⟩
  · obtain ⟨hleft, hgate⟩ := takeReads_orders (s.core c.val).tq (fld w 59 1 + 1)
    rw [htq, List.drop_succ_cons] at hleft
    exact ⟨_, exec_vqrd h hl hfits htq htwo, hleft, hgate⟩
  · intro h hl hfits ht hpass hdesc hd hload len need hlen hneed hread hgood hfit mask rs hmask hrs
    subst ht
    rw [← State.executing_maskOf s c.val 0x41 w] at hmask
    have hissue : exec (.vld c w) s = .next (s.issueTo c.val 0x41 w .vector (vmLegal 0x41 w) false) := rfl
    have hrun := State.runLoad_eq (q := s.issueEntry c.val 0x41 w) hlo hpass hdesc hd hload hlen hneed hread hgood hfit hmask hrs
    rw [hissue, hl, State.issueTo_putLanes h (by decide) (by decide) c.isLt (s.executing_core ..) hrun ⟨_, _, _, _, rfl⟩ hfits]
    rfl
  · intro h hl ht hpass hdesc hd hblock vs acc u hvs hwrite hacc hruns hu hfits
    subst ht
    have hgen : ((s.executing c.val 0x42 w).core c.val).gen = (s.core c.val).gen := by rw [State.executing_core, s.issued_eq]
    rw [← State.executing_maskOf s c.val 0x42 w] at hvs
    rw [← hgen] at hacc
    have hcheck : (s.executing c.val 0x42 w).StoreChecked c.val p n lo (s.issueEntry c.val 0x42 w) d vs acc :=
      ⟨hlo, hpass, hdesc, hd, hblock, hvs, hwrite, hacc, hruns⟩
    have hstored : (s.executing c.val 0x42 w).stored c.val w acc = u := hu.symm
    have hstore : (s.executing c.val 0x42 w).runStore c.val (s.issueEntry c.val 0x42 w) =
        if acc.nan then u.sawNan c.val false (s.core c.val).issueNo (opTagOf w) (s.core c.val).pc else u := hstored ▸ hcheck.run
    have hheld : u.HoldsCore c.val := by rw [hu]; exact State.holdsCore_setCore_same ..
    have hsame := (s.executing c.val 0x42 w).stored_core c.val w acc
    rw [hstored, State.executing_core] at hsame
    refine ⟨fun hnan => ?_, fun hnan hvalid => ?_, ?_⟩
    · rw [hnan, if_neg Bool.false_ne_true] at hstore
      exact exec_vst_completes h hl hstore hheld hsame (hsame.signalFits.mp hfits)
    · rw [hnan, if_pos rfl, State.sawNan_more hvalid] at hstore
      refine exec_vst_completes h hl hstore (State.holdsCore_setCore_same ..) (hsame.trans ?_) (hsame.signalFits.mp hfits)
      rw [State.modCore_core]
      exact ⟨⟨rfl, rfl, rfl, rfl, rfl, rfl⟩, rfl, rfl⟩
    · intro id x pc op hnan hfree hid hx hgate hrunning hdue hpc hop
      subst hpc hop
      rw [hnan, if_pos rfl] at hstore
      obtain ⟨b, hb, rfl⟩ : ∃ b, (s.core c.val).ctx = some b ∧ b.toNat = id := by
        rwa [State.ctxOf, Option.map_eq_some_iff] at hid
      have hwork := (s.issued_frame c.val 0x42 w).1.trans hsame.work
      have hctx? := (s.executing c.val 0x42 w).stored_ctx? c.val w acc b.toNat
      rw [hstored] at hctx?
      exact exec_vst_latches h hl hstore hsame hfits hfree (hwork.ctx.trans hb) (hctx?.trans hx) (hwork.trapDue.trans hdue)
        (hwork.gate.trans hgate) (hwork.runs.trans hrunning)

end Sys2Proof.Machine
end

section
/-! PROOFS. A pass of a matrix run (R103, R104, R107, R158, R160, R161, R203). -/

namespace Sys2Proof.Machine

/-! ### Tables updated entry by entry -/

section
variable {α β : Type} (d : α) (key : β → Nat) (f : β → α → α)

/-- A table with the entries named by a list updated, one after another. -/
def tabUpdate (l : List β) (t : Tab α) : Tab α := l.foldl (fun t x => tabPut t (key x) (f x (tabGet t d (key x)))) t

/-- An entry that the list does not name is as before. -/
theorem tabGet_tabUpdate_ne {l : List β} {k : Nat} (h : k ∉ l.map key) (t : Tab α) :
    tabGet (tabUpdate d key f l t) d k = tabGet t d k := by
  induction l generalizing t with
  | nil => rfl
  | cons x l ih =>
    rw [List.map_cons, List.mem_cons, not_or] at h
    exact (ih h.2 _).trans (tabGet_tabPut_ne _ _ _ h.1)

/-- An entry that the list names once is updated once. -/
theorem tabGet_tabUpdate {l : List β} (hl : (l.map key).Nodup) {x : β} (hx : x ∈ l) (t : Tab α) :
    tabGet (tabUpdate d key f l t) d (key x) = f x (tabGet t d (key x)) := by
  induction l generalizing t with
  | nil => cases hx
  | cons y l ih =>
    rw [List.map_cons, List.nodup_cons] at hl
    obtain ⟨hy, hl⟩ := hl
    rcases List.mem_cons.mp hx with rfl | hx
    · exact (tabGet_tabUpdate_ne d key f hy _).trans (tabGet_tabPut_same _ _ _ _)
    · have hne : key x ≠ key y := fun he => hy (he ▸ List.mem_map_of_mem hx)
      rw [← tabGet_tabPut_ne t d (f y (tabGet t d (key y))) hne]
      exact ih hl hx _

end

/-! ### Finished blocks in order (R163) -/

theorem length_insertByKey {α : Type} (key : α → Nat) (a : α) (l : List α) : (insertByKey key a l).length = l.length + 1 := by
  induction l with
  | nil => rfl
  | cons b l ih =>
    unfold insertByKey
    split
    · rw [List.length_cons, ih, List.length_cons]
    · rfl

theorem length_sortByKey {α : Type} (key : α → Nat) (l : List α) : (sortByKey key l).length = l.length := by
  induction l with
  | nil => rfl
  | cons a l ih => exact (length_insertByKey ..).trans (congrArg (· + 1) ih)

theorem length_finOrder (l : List FinBlock) : (finOrder l).length = l.length := length_sortByKey ..

/-! ### The entries of a tile (R103, R104, R107, R160) -/

theorem mmBt_le (w : InstrWord) : mmBt w ≤ 64 := by
  have hfield : fld w 36 6 < 2 ^ 6 := Nat.mod_lt _ (by decide)
  unfold mmBt
  omega

/-- Row and batch entry of every accumulator entry of a tile that a pass updates. -/
def tileEntries (w : InstrWord) : List (Nat × Nat) := List.range 8 ×ˢ List.range (mmBt w)

theorem nodup_tileEntries (w : InstrWord) : ((tileEntries w).map (fun p => accKey p.1 p.2)).Nodup := by
  refine List.Nodup.map_on (fun p hp q hq h => ?_) (List.nodup_range.product List.nodup_range)
  obtain ⟨r, e⟩ := p
  obtain ⟨r', e'⟩ := q
  have he := List.mem_range.mp (List.mem_product.mp hp).2
  have he' := List.mem_range.mp (List.mem_product.mp hq).2
  have hbt := mmBt_le w
  unfold accKey at h
  exact Prod.ext_iff.mpr ⟨by omega, by omega⟩

section
variable (wd ad : Desc) (bank rd : Reader) (q : QEntry) (cls : TileClass)

/-- What a pass makes of one accumulator entry. -/
def entryStep (xs : List (List (Num × Int × Bool))) (pos k : Nat) (p : Nat × Nat) (old : AccEntry) : AccEntry :=
  accStep wd ad bank rd
    (wd.tileRow bank (fld q.w 28 1 == 1) (mmElem q + 8 * cls.p * k) (mmRow q + 8 * pos + p.1) (8 * cls.p)) (xs.getD p.2 [])
    cls (mmRow q + 8 * pos + p.1) (mmEntry q + p.2) (mmElem q) k (mmStart q.w && k == 0) old

theorem tileStep_acc (xs : List (List (Num × Int × Bool))) (pos k : Nat) (t : Tile) :
    (tileStep wd ad bank rd q cls xs pos k t).acc = tabUpdate ⟨0, 0, false⟩ (fun p => accKey p.1 p.2)
      (entryStep wd ad bank rd q cls xs pos k) (tileEntries q.w) t.acc := by
  have hprod : tileEntries q.w = (List.range 8).flatMap (fun r => (List.range (mmBt q.w)).map (Prod.mk r)) := rfl
  rw [tabUpdate, hprod, List.foldl_flatMap]
  simp only [List.foldl_map]
  rfl

/-- Each entry of a tile below Bt is updated once. -/
theorem tileStep_entry (xs : List (List (Num × Int × Bool))) (pos k : Nat) (t : Tile) {row e : Nat} (hrow : row < 8)
    (he : e < mmBt q.w) : tabGet (tileStep wd ad bank rd q cls xs pos k t).acc ⟨0, 0, false⟩ (accKey row e) =
      entryStep wd ad bank rd q cls xs pos k (row, e) (tabGet t.acc ⟨0, 0, false⟩ (accKey row e)) := by
  rw [tileStep_acc]
  exact tabGet_tabUpdate _ (fun p => accKey p.1 p.2) _ (nodup_tileEntries q.w)
    (List.mem_product.mpr ⟨List.mem_range.mpr hrow, List.mem_range.mpr he⟩) _

end

/-! ### The tiles of a group (R202) -/

theorem length_mmGroup (w : InstrWord) : (mmGroup w).length = mmTiles w := by simp [mmGroup]

theorem mmGroup_getD {w : InstrWord} {pos : Nat} (h : pos < mmTiles w) : (mmGroup w).getD pos 0 = mmTiles w * fld w 32 2 + pos := by
  simp [mmGroup, h]

theorem nodup_groupTiles (w : InstrWord) : ((List.range (mmTiles w)).map (fun pos => (mmGroup w).getD pos 0)).Nodup := by
  refine List.nodup_range.map_on fun a ha b hb h => ?_
  rw [mmGroup_getD (List.mem_range.mp ha), mmGroup_getD (List.mem_range.mp hb)] at h
  omega

/-- The activations of a pass, batch entry by batch entry. -/
def State.passInputs (s : State) (r : MmulRun) (ad : Desc) (cls : TileClass) : List (List (Num × Int × Bool)) :=
  (List.range (mmBt r.q.w)).map (fun e =>
    ad.tileRow s.bus (fld r.q.w 27 1 == 1) (8 * cls.p * r.pass) (mmEntry r.q + e) (8 * cls.p))

/-- The tiles' files after a pass. -/
def State.passTiles (s : State) (c : Nat) (r : MmulRun) (wd ad : Desc) (cls : TileClass) : Tab Tile :=
  tabUpdate ⟨[], none⟩ (fun pos => (mmGroup r.q.w).getD pos 0)
    (fun pos => tileStep wd ad (runsReader (if r.bank then r.bank1 else r.bank0)) s.bus r.q cls (s.passInputs r ad cls) pos r.pass)
    (List.range (mmTiles r.q.w)) (s.core c).tiles

theorem State.passTiles_tile (s : State) (c : Nat) (r : MmulRun) (wd ad : Desc) (cls : TileClass) {pos : Nat}
    (h : pos < mmTiles r.q.w) : tabGet (s.passTiles c r wd ad cls) ⟨[], none⟩ (mmTiles r.q.w * fld r.q.w 32 2 + pos) =
      tileStep wd ad (runsReader (if r.bank then r.bank1 else r.bank0)) s.bus r.q cls (s.passInputs r ad cls) pos r.pass
        ((s.core c).tile (mmTiles r.q.w * fld r.q.w 32 2 + pos)) := by
  rw [← mmGroup_getD h]
  exact tabGet_tabUpdate _ (fun pos => (mmGroup r.q.w).getD pos 0) _ (nodup_groupTiles r.q.w) (List.mem_range.mpr h) _

theorem State.passInputs_getD (s : State) (r : MmulRun) (ad : Desc) (cls : TileClass) {e : Nat} (h : e < mmBt r.q.w) :
    (s.passInputs r ad cls).getD e [] =
      ad.tileRow s.bus (fld r.q.w 27 1 == 1) (8 * cls.p * r.pass) (mmEntry r.q + e) (8 * cls.p) := by
  simp [State.passInputs, h]

/-! ### The end of a pass (R158, R161, R203) -/

/-- A run after a pass that is not its last: the banks are switched, the one left takes the weights of the pass after the next. -/
def State.nextPass (s : State) (r : MmulRun) (wd : Desc) : MmulRun :=
  { r with pass := r.pass + 1, start := s.time, bank := !r.bank,
           bank0 := if r.bank then r.bank0 else s.loadBank wd r.q wd.packing (r.pass + 2),
           bank1 := if r.bank then s.loadBank wd r.q wd.packing (r.pass + 2) else r.bank1 }

/-- The runs of a core with one gone on to its next pass. -/
def State.passedRuns (s : State) (c : Nat) (r : MmulRun) (wd : Desc) : List MmulRun :=
  (s.core c).runs.map (fun v => if v.q.no = r.q.no then s.nextPass r wd else v)

theorem length_blocks {α : Type} (n m : Nat) (f : Nat → Nat → α) :
    ((List.range n).flatMap (fun b => (List.range m).map (f b))).length = n * m := by
  simp [List.length_flatMap]

/-- The end of a pass draws one free value and changes its core's tiles, finished blocks, runs and one count. -/
theorem State.endMmulPass_spec (s : State) (c : Nat) (r : MmulRun) (wd ad : Desc) (cls : TileClass) :
    ∃ tiles fin n, s.endMmulPass c r wd ad cls = ({ s with freeCtr := s.freeCtr + 1 } : State).setCore c { s.core c with
        tiles := tiles, finished := finOrder ((s.core c).finished ++ fin), scratchCnt := n, runs := s.passedRuns c r wd } ∧
      (r.pass + 1 < mmPasses r.q.w → fin = [] ∧ tiles = s.passTiles c r wd ad cls) ∧
      (r.pass + 1 = mmPasses r.q.w → mmDrain r.q.w = true → fin.length = mmBlocks r.q.w * mmTiles r.q.w) := by
  refine ⟨_, _, _, rfl, fun hmore => ?_, fun hlast hdrain => ?_⟩
  · have hnot : (r.pass + 1 == mmPasses r.q.w) = false := beq_false_of_ne (by omega)
    rw [hnot, Bool.false_and, if_neg Bool.false_ne_true, if_neg Bool.false_ne_true, length_mmGroup]
    exact ⟨rfl, rfl⟩
  · rw [hlast, beq_self_eq_true, hdrain, Bool.true_and, if_pos rfl, length_blocks, length_mmGroup]

theorem State.passedRuns_any (s : State) (c : Nat) (r : MmulRun) (wd : Desc) (no : Nat) :
    (s.passedRuns c r wd).any (fun v => v.q.no == no) = (s.core c).runs.any (fun v => v.q.no == no) := by
  rw [State.passedRuns, List.any_map]
  congr 1
  funext v
  rw [Function.comp_apply]
  split
  · next h => rw [h]; rfl
  · rfl

/-- Counting stalls changes the core and its partition's seeing counts, and takes no time. -/
theorem State.countStall_frame (s : State) (c : Nat) :
    (s.countStall c).time = s.time ∧ ∀ n, n ≠ c → (s.countStall c).core n = s.core n := by
  have hpart : ∀ (t : State) p f, (t.modPart p f).time = t.time ∧ (t.modPart p f).cores = t.cores := fun t p f => by
    unfold State.modPart
    split
    · exact ⟨rfl, rfl⟩
    · exact ⟨rfl, rfl⟩
  unfold State.countStall
  dsimp only
  split
  · exact ⟨rfl, fun _ _ => rfl⟩
  · split
    · obtain ⟨htime, hcores⟩ := hpart (s.setCore c _) _ _
      refine ⟨htime, fun n hn => ?_⟩
      rw [State.core, hcores]
      exact State.setCore_core_ne _ _ hn
    · exact ⟨rfl, fun n hn => State.setCore_core_ne _ _ hn⟩

/-- A pass with readable operands, no parity failure and no block held ends. -/
theorem State.mmulPassEnd_ends {s u : State} {c no : Nat} {r : MmulRun} {wd ad : Desc} {cls : TileClass} (hu : u = s.countStall c)
    (hfind : (u.core c).runs.find? (fun v => v.q.no == no) = some r) (hpass : r.pass < mmPasses r.q.w)
    (hstall : (u.core c).stalled r = false) (hwd : (Desc.parse r.wd).bind u.localDesc = some wd)
    (had : (Desc.parse r.ad).bind u.localDesc = some ad) (hcls : tileClass wd.eff = some cls)
    (hgood : u.badRange (wd.passRanges r.q wd.packing (r.pass + 2)
      ++ (List.range (mmBt r.q.w)).flatMap (fun e =>
        ad.ranges (ad.dim0 * (mmEntry r.q + e) + 8 * cls.p * r.pass) (8 * cls.p) false)) = none) :
    s.mmulPassEnd c no none = u.endMmulPass c r wd ad cls := by
  have hgoes : ¬ ((decide (mmPasses r.q.w ≤ r.pass) || (u.core c).stalled r) = true) := by
    rw [hstall, Bool.or_false, decide_eq_true_eq]
    omega
  unfold State.mmulPassEnd
  dsimp only
  rw [← hu, hfind]
  dsimp only
  rw [if_neg hgoes, hwd, had]
  dsimp only
  rw [hcls]
  dsimp only
  rw [hgood]

/-- Settles O17: a pass ends, nothing follows on a core with an empty matrix queue, and each tile's entries are updated once. -/
theorem matrixPassUpdatesEveryEntry : Obligations.MatrixPassUpdatesEveryEntry := by
  unfold Obligations.MatrixPassUpdatesEveryEntry
  intro s u c no r wd ad cls hu hfind hpass hstall hwd had hcls hgood hqueue hseq htrap
  have hexec : exec (.mmulPassEnd c no none) s = .next ((s.mmulPassEnd c.val no none).turn c.val .matrix) := rfl
  obtain ⟨htime, hothers⟩ := s.countStall_frame c.val
  rw [← hu] at htime hothers
  obtain ⟨tiles, fin, n, hend, hmore, hlast⟩ := u.endMmulPass_spec c.val r wd ad cls
  have hcore : (u.endMmulPass c.val r wd ad cls).core c.val = { u.core c.val with
      tiles := tiles, finished := finOrder ((u.core c.val).finished ++ fin), scratchCnt := n, runs := u.passedRuns c.val r wd } := by
    rw [hend, State.setCore_core_same]
  have hidle : ((u.endMmulPass c.val r wd ad cls).core c.val).EngineIdle .matrix := by
    rw [hcore]
    refine ⟨hseq, hqueue, ?_⟩
    unfold Core.NoTrapEnds at htrap ⊢
    simpa only [State.passedRuns_any] using htrap
  refine ⟨u.endMmulPass c.val r wd ad cls, ?_, ?_, fun m hm => ?_, fun hgoes => ?_, fun hends hdrain => ?_⟩
  · rw [hexec, State.mmulPassEnd_ends hu hfind hpass hstall hwd had hcls hgood, State.turn_engineIdle hidle]
  · rw [hend]
    rfl
  · rw [hend, State.setCore_core_ne _ _ hm]
    exact hothers m hm
  · obtain ⟨hfin, htiles⟩ := hmore hgoes
    refine ⟨by rw [hcore, hfin, List.append_nil], by rw [hcore, ← htime]; rfl, ?_⟩
    intro pos hpos row hrow e he k bank hk hbank
    have htile : ((u.endMmulPass c.val r wd ad cls).core c.val).tile k = tileStep wd ad bank u.bus r.q cls
        (u.passInputs r ad cls) pos r.pass ((u.core c.val).tile k) := by
      rw [hcore, Core.tile, htiles, hk, hbank]
      exact u.passTiles_tile c.val r wd ad cls hpos
    rw [htile, tileStep_entry _ _ _ _ _ _ _ _ _ _ hrow he, entryStep, State.passInputs_getD _ _ _ _ he]
  · rw [hcore, length_finOrder, List.length_append, hlast hends hdrain]

end Sys2Proof.Machine
end

section
/-! PROOFS. The registers right after the cold reset (R337, R374, R377, R407, R430, R454, R524). -/

namespace Sys2Proof.Machine

/-! ### What the registers of a map read in any state -/

theorem State.ctlReg_audPort (s : State) {n : Nat} (h : n < 16) :
    s.ctlReg (0x20000 + 16 * n) = (s.aport n).ctl ∧ s.ctlReg (0x20008 + 16 * n) = (s.aport n).image := by
  interval_cases n <;> exact ⟨rfl, rfl⟩

theorem State.ctlReg_audGroup (s : State) {g : Nat} (h : g < 16) :
    s.ctlReg (0x20100 + 32 * g) = (s.group g).ctl ∧ s.ctlReg (0x20108 + 32 * g) = (s.group g).maskImage ∧
    s.ctlReg (0x20110 + 32 * g) = s.groupStatus g ∧ s.ctlReg (0x20118 + 32 * g) = (s.group g).helioImage := by
  interval_cases g <;> exact ⟨rfl, rfl, rfl, rfl⟩

theorem State.ctlReg_netPort (s : State) {p : Nat} (h : p < 4) :
    s.ctlReg (0x30000 + 16 * p) = (s.port p).ctl ∧ s.ctlReg (0x30008 + 16 * p) = s.portStatus p := by
  interval_cases p <;> exact ⟨rfl, rfl⟩

/-- A map of mailboxes none of which has the property reads zero. -/
theorem State.mailMap_eq_zero {s : State} {f : Mailbox → Bool} (h : ∀ m, f (s.mail m) = false) : s.mailMap f = 0 := by
  unfold State.mailMap
  simp only [h]
  rfl

/-! ### Reset values -/

theorem APort.cold_fields (n : Fin 16) : bits (APort.cold n.val).ctl.toNat 60 4 = n.val ∧
    bits (APort.cold n.val).ctl.toNat 48 8 = 10 ∧ (APort.cold n.val).image = 0 := by
  revert n
  decide

theorem AGroup.cold_fields : bits AGroup.cold.ctl.toNat 46 18 = 48000 ∧ AGroup.cold.maskImage = 0 ∧
    bits AGroup.cold.helioImage.toNat 29 13 = 2048 := by decide

theorem Port.cold_fields : bits Port.cold.ctl.toNat 32 16 = 512 ∧ bits Port.cold.ctl.toNat 61 1 = 1 := by decide

/-- No member of a group runs and no slot is bound. -/
theorem groupStatus_reset (g : Fin 16) : State.reset.groupStatus g.val = 0 := by
  revert g
  decide

/-- Every MAC of a port is down. -/
theorem portStatus_reset (p : Fin 4) : State.reset.portStatus p.val = 0 := by
  revert p
  decide

/-- No queue pair binds a mailbox, whose owner is that of a cold one. -/
theorem regOwner_reset (m : Fin 64) : State.reset.regOwner m.val = if m.val ≤ 3 then 16 else 31 := by
  revert m
  decide

/-- Settles O57, map by map: every table is empty at reset, so its entries read as the cold ones. -/
theorem resetStateIsRomBoot : Obligations.ResetStateIsRomBoot := by
  unfold Obligations.ResetStateIsRomBoot
  refine ⟨rfl, rfl, rfl, rfl, rfl, rfl, rfl, regOwner_reset, State.mailMap_eq_zero fun _ => rfl, State.mailMap_eq_zero fun _ => rfl,
    by decide, by decide, rfl, rfl, by decide, by decide, by decide, fun n => ?_, fun g => ?_, fun p => ?_, fun _ => ⟨rfl, rfl, rfl⟩⟩
  · obtain ⟨hctl, himage⟩ := State.reset.ctlReg_audPort n.isLt
    rw [hctl, himage]
    exact APort.cold_fields n
  · obtain ⟨hctl, hmask, hstatus, hhelio⟩ := State.reset.ctlReg_audGroup g.isLt
    obtain ⟨hrate, hnone, htarget⟩ := AGroup.cold_fields
    rw [hctl, hmask, hstatus, hhelio]
    exact ⟨hrate, hnone, groupStatus_reset g, htarget⟩
  · obtain ⟨hctl, hstatus⟩ := State.reset.ctlReg_netPort p.isLt
    obtain ⟨hlimit, hspare⟩ := Port.cold_fields
    rw [hctl, hstatus]
    exact ⟨hlimit, hspare, portStatus_reset p⟩

end Sys2Proof.Machine
end

section
/-! PROOFS. An instruction at the head of an idle engine queue executes, one that an engine has run ends; a matrix run starts and
completes (R155, R158, R199, R202 to R205). -/

namespace Sys2Proof.Machine

/-! ### An engine's turn with nothing queued behind -/

theorem Core.EngineIdle.of_trapDue_none {k : Core} {e : Engine} (hseq : k.seq = .running) (hqueue : k.queue e = [])
    (htrap : k.trapDue = none) : k.EngineIdle e :=
  ⟨hseq, hqueue, by rw [Core.NoTrapEnds, htrap]; rfl⟩

/-- A signal leaves an idle engine idle. -/
theorem Core.EngineIdle.signalled_idle {k : Core} {e : Engine} (h : k.EngineIdle e) (w : InstrWord) (now : W64) :
    (k.signalled w now).EngineIdle e := by
  obtain ⟨hseq, hqueue, htrap⟩ := h
  unfold Core.signalled
  split
  · exact ⟨hseq, by cases e <;> exact hqueue, htrap⟩
  · exact ⟨hseq, hqueue, htrap⟩

theorem State.completed_idle {s : State} {c : Nat} {e : Engine} (h : (s.core c).EngineIdle e) (w : InstrWord) :
    ((s.completed c w).core c).EngineIdle e := by
  rw [State.completed, State.modCore_core]
  exact h.signalled_idle w s.now

/-- The signal of an instruction on a core as it has just been changed completes the instruction. -/
theorem State.signal_setCore_completes {s : State} {c : Nat} {k : Core} {q : QEntry} (hctx : k.ctx.isSome = true) (hfits : k.SignalFits q.w) :
    (s.setCore c k).signal c q = (s.setCore c k).completed c q.w := by
  rw [State.signal_setCore _ _ _ _ hctx hfits, State.completed, State.modCore_setCore]
  rfl

/-- The instruction that an engine has run signals, and nothing follows on an idle core. -/
theorem State.signal_turn {s : State} {c : Nat} {k : Core} {q : QEntry} {e : Engine} (hctx : k.ctx.isSome = true)
    (hfits : k.SignalFits q.w) (hidle : k.EngineIdle e) :
    ((s.setCore c k).signal c q).turn c e = (s.setCore c k).completed c q.w := by
  rw [State.signal_setCore_completes hctx hfits, State.turn_engineIdle (State.completed_idle (by rwa [State.setCore_core_same]) _)]

/-- A legal instruction that the engine of an empty queue can take executes at once; nothing follows where it leaves the core idle. -/
theorem State.issueTo_executes {s u : State} {c op : Nat} {w : InstrWord} {e : Engine} (he : e ≠ .seq) (h : s.IssuesTo c op w e)
    (hop : op ≠ 0x19) (hready : (s.setCore c ((s.core c).advance.setQueue e [s.issueEntry c op w])).headReady c
      (s.issueEntry c op w) = true)
    (hu : (s.executing c op w).headEffect c (s.issueEntry c op w) = u) (hidle : (u.core c).EngineIdle e) :
    s.issueTo c op w e true false = u := by
  rw [State.issueTo_issues _ _ _ _ _ he h hop hready, hu, State.turns_engineIdle hidle]

/-- The wait of an instruction that issues to an empty queue is satisfied at the head of that queue too. -/
theorem State.IssuesTo.waitOk_queued {s : State} {c op : Nat} {w : InstrWord} {e : Engine} (h : s.IssuesTo c op w e) :
    ((s.core c).advance.setQueue e [s.issueEntry c op w]).waitOk (s.issueEntry c op w) = true := by
  rw [Core.waitOk_head h.engineIdle.queue]
  exact h.1.2

/-! ### MMUL starts -/

/-- The matrix engine takes an MMUL unless a running one shares a tile with it (R205). -/
theorem State.headReady_mmul {s : State} {c : Nat} {w : InstrWord} (h : s.IssuesTo c 0x20 w .matrix)
    (hfree : (s.core c).mmulBlocked w = false) :
    (s.setCore c ((s.core c).advance.setQueue .matrix [s.issueEntry c 0x20 w])).headReady c (s.issueEntry c 0x20 w) = true := by
  have hblocked : ((s.core c).advance.setQueue .matrix [s.issueEntry c 0x20 w]).mmulBlocked w = false := hfree
  have hhead : ∀ (t : State) (q : QEntry), q.op = 0x20 →
      t.headReady c q = ((t.core c).waitOk q && !(t.core c).mmulBlocked q.w) := fun t q hq => by
    unfold State.headReady
    rw [hq]
    rfl
  rw [hhead _ _ rfl, State.setCore_core_same, h.waitOk_queued]
  exact congrArg (!·) hblocked

/-- The run of an MMUL as it starts, the weights of its first two passes in the register banks (R158). -/
def State.newRun (s : State) (q : QEntry) (wb ab : Bytes) (wd : Desc) : MmulRun :=
  ⟨q, wb, ab, 0, s.time, false, s.loadBank wd q wd.packing 0, s.loadBank wd q wd.packing 1⟩

/-- A core with one run more, whose tiles hold nothing undrained any more. -/
def Core.withRun (k : Core) (r : MmulRun) : Core :=
  { k with
    runs := k.runs ++ [r],
    tiles := (mmGroup r.q.w).foldl (fun a t => tabPut a t { k.tile t with undrained := none }) k.tiles }

/-- An MMUL with readable descriptors, that R204 does not fault and whose weights meet no bad data, starts its run. -/
theorem State.startMmul_starts {t : State} {c p n : Nat} {q : QEntry} {wb ab : Bytes} {wd ad : Desc}
    (hwb : wb = t.descBytes c (mmWd q.w)) (hab : ab = t.descBytes c (mmAd q.w)) (hpass : t.passOf c = some (p, n))
    (hwok : t.descOk c (mmWd q.w) 64 = true) (haok : t.descOk c (mmAd q.w) 64 = true)
    (hwd : (Desc.parse wb).bind t.localDesc = some wd) (had : (Desc.parse ab).bind t.localDesc = some ad)
    (hfault : t.mmulFault c p q wd ad = 0)
    (hgood : t.badRange (wd.passRanges q wd.packing 0 ++ wd.passRanges q wd.packing 1) = none) :
    t.startMmul c q = t.modCore c (·.withRun (t.newRun q wb ab wd)) := by
  unfold State.startMmul
  dsimp only
  rw [← hwb, ← hab, hpass, hwd, had]
  dsimp only
  rw [hwok, haok, if_neg (by decide), hfault, hgood]
  rfl

/-- A run more keeps an instruction whose NaN traps among those that still run. -/
theorem Core.EngineIdle.withRun {k : Core} {e : Engine} (h : k.EngineIdle e) (r : MmulRun) : (k.withRun r).EngineIdle e := by
  obtain ⟨hseq, hqueue, htrap⟩ := h
  refine ⟨hseq, by cases e <;> exact hqueue, ?_⟩
  unfold Core.NoTrapEnds at htrap ⊢
  rw [Option.all_eq_true] at htrap ⊢
  intro v hv
  have hruns := htrap v hv
  rw [Bool.or_eq_true] at hruns ⊢
  refine hruns.imp id fun hrun => ?_
  rw [Core.withRun, List.any_append, hrun, Bool.true_or]

theorem exec_mmul_starts {s : State} {c : Fin 1536} {w : InstrWord} {r : MmulRun} (h : s.IssuesTo c.val 0x20 w .matrix)
    (hl : (headerOk w && fld w 16 7 == 0 && 1 ≤ mmPasses w && mmGroupOk w) = true)
    (hfree : (s.core c.val).mmulBlocked w = false)
    (hstart : (s.executing c.val 0x20 w).startMmul c.val (s.issueEntry c.val 0x20 w) =
      (s.executing c.val 0x20 w).modCore c.val (·.withRun r)) :
    exec (.mmul c w) s = .next (s.setCore c.val ((s.issued c.val 0x20 w).withRun r)) := by
  have hissue : exec (.mmul c w) s = .next (s.issueTo c.val 0x20 w .matrix
    (headerOk w && fld w 16 7 == 0 && 1 ≤ mmPasses w && mmGroupOk w) false) := rfl
  rw [State.executing, State.modCore_setCore] at hstart
  rw [hissue, hl, State.issueTo_executes (by decide) h (by decide) (State.headReady_mmul h hfree) hstart]
  rw [State.setCore_core_same]
  exact h.issuedIdle.withRun r

/-! ### MMUL_COMPLETE -/

/-- A run whose passes and blocks are done leaves the core at its completion and signals (R205). -/
theorem State.mmulComplete_ends {s : State} {c : Nat} {r : MmulRun}
    (hfind : (s.core c).runs.find? (fun v => v.q.no == r.q.no) = some r) (hpass : mmPasses r.q.w ≤ r.pass)
    (hblocks : (s.core c).finished.all (fun f => f.entry.run != r.q.no) = true) :
    s.mmulComplete c r.q.no = (s.setCore c { s.core c with
      runs := (s.core c).runs.filter (fun v => v.q.no != r.q.no),
      fedV := if fld r.q.w 29 1 = 1 then (s.core c).fedV else s.now,
      fedG := if fld r.q.w 29 1 = 1 then s.now else (s.core c).fedG }).signal c r.q := by
  unfold State.mmulComplete
  dsimp only
  rw [hfind]
  dsimp only
  rw [decide_eq_true hpass, hblocks, if_pos (by decide)]
  simp only [beq_iff_eq]

/-- Settles O16: an MMUL's checks lead to its run, a run that is done leaves the core; nothing follows on a core with an empty
matrix queue. -/
theorem matrixInstructionStartsItsRun : Obligations.MatrixInstructionStartsItsRun := by
  unfold Obligations.MatrixInstructionStartsItsRun
  refine fun s c w => ⟨?_, fun r hfind hpass hblocks hqueue hseq htrap hctx hfits => ?_⟩
  · intro t wb ab wd ad p n h hheader hzero hpasses hgroup hfree ht hwb hab hwok haok hpass hwd had hfault hgood
    have hl : (headerOk w && fld w 16 7 == 0 && 1 ≤ mmPasses w && mmGroupOk w) = true := by
      rw [hheader, hzero, hgroup, decide_eq_true hpasses]
      rfl
    subst ht
    rw [exec_mmul_starts h hl hfree (State.startMmul_starts hwb hab hpass hwok haok hwd had hfault hgood), s.issued_eq]
    rfl
  · have hexec : exec (.mmulComplete c r.q.no) s = .next ((s.mmulComplete c.val r.q.no).turn c.val .matrix) := rfl
    rw [hexec, State.mmulComplete_ends hfind hpass hblocks, State.signal_turn]
    · exact hctx
    · exact hfits
    · exact .of_trapDue_none hseq hqueue htrap

end Sys2Proof.Machine
end

section
/-! PROOFS. Finished blocks enter the tile queue (R163, R165, R189). -/

namespace Sys2Proof.Machine

/-- What counting stalls changes on its core. -/
theorem State.countStall_core (s : State) (c : Nat) :
    ∃ n runs, (s.countStall c).core c = { s.core c with queueFullCnt := n, runs := runs } := by
  have hpart : ∀ (t : State) p f, (t.modPart p f).core c = t.core c := fun t p f => by
    unfold State.modPart
    split
    · rfl
    · rfl
  unfold State.countStall
  dsimp only
  split
  · exact ⟨(s.core c).queueFullCnt, (s.core c).runs, rfl⟩
  · split
    · exact ⟨_, _, (hpart ..).trans (State.setCore_core_same ..)⟩
    · exact ⟨_, _, State.setCore_core_same ..⟩

/-- Where no group has stalled since the last count nothing is counted. -/
theorem State.countStall_zero {s : State} {c : Nat} (h : (s.core c).stallCycles s.time = 0) : s.countStall c = s := by
  unfold State.countStall
  exact if_pos h

/-- While no gate instruction runs the gate pipeline takes no entry. -/
theorem State.gatePump_noGate {s : State} {c : Nat} (h : (s.core c).gate = none) (n : Nat) : s.gatePump n c = s := by
  cases n with
  | zero => rfl
  | succ n => rw [State.gatePump, h]

/-- While no reader waits, TILE_QUEUE_WRITE does no more than the write itself. -/
theorem exec_tileQueueWrite {s u : State} {c : Fin 1536} {residue : Bool} (hwrite : s.tileQueueWrite c.val residue = u)
    (hgate : (u.core c.val).gate = none) (hidle : (u.core c.val).EngineIdle .vector) :
    exec (.tileQueueWrite c residue) s = .next u := by
  have hexec : exec (.tileQueueWrite c residue) s =
    .next (((s.tileQueueWrite c.val residue).gatePump 32 c.val).turn c.val .vector) := rfl
  rw [hexec, hwrite, State.gatePump_noGate hgate, State.turn_engineIdle hidle]

section
variable {s : State} {c : Nat} {residue : Bool}

theorem State.tileQueueWrite_nil (h : ((s.countStall c).core c).finished = []) :
    s.tileQueueWrite c residue = s.countStall c := by
  unfold State.tileQueueWrite
  dsimp only
  rw [h]

variable {f : FinBlock} {l : List FinBlock} (h : ((s.countStall c).core c).finished = f :: l)
  (hres : (residue && f.entry.isInt) = false)
include h hres

/-- A full queue takes no block. -/
theorem State.tileQueueWrite_full (hfull : 32 ≤ ((s.countStall c).core c).tq.length) :
    s.tileQueueWrite c residue = s.countStall c := by
  unfold State.tileQueueWrite
  dsimp only
  rw [h]
  dsimp only
  rw [hres, if_neg Bool.false_ne_true, if_pos hfull]

/-- A queue with a free slot takes the oldest finished block (R163). -/
theorem State.tileQueueWrite_enters (hfree : ((s.countStall c).core c).tq.length < 32) (hnan : f.entry.hasNan = false) :
    s.tileQueueWrite c residue = (s.countStall c).setCore c { (s.countStall c).core c with
      finished := l, tq := ((s.countStall c).core c).tq ++ [f.entry], isat := satAdd ((s.countStall c).core c).isat f.sats,
      highWater := max ((s.countStall c).core c).highWater (((s.countStall c).core c).tq.length + 1) } := by
  unfold State.tileQueueWrite
  dsimp only
  rw [h]
  dsimp only
  rw [hres, if_neg Bool.false_ne_true, if_neg (by omega), hnan, if_neg Bool.false_ne_true]

end

/-- Settles O18: what countStall counts is no part of the queue, so the write decides by the core as it was. -/
theorem finishedBlockEntersTileQueue : Obligations.FinishedBlockEntersTileQueue := by
  unfold Obligations.FinishedBlockEntersTileQueue
  refine ⟨fun s c residue t ht hgate hqueue hseq htrap => ?_, ?_⟩
  · subst ht
    obtain ⟨n, runs, hcore⟩ := s.countStall_core c.val
    have hidle : ((s.countStall c.val).core c.val).EngineIdle .vector := by
      rw [hcore]
      exact .of_trapDue_none hseq hqueue htrap
    have hgate' : ((s.countStall c.val).core c.val).gate = none := by rw [hcore]; exact hgate
    refine ⟨fun hnone => exec_tileQueueWrite (State.tileQueueWrite_nil ?_) hgate' hidle, fun f l hsome hres hfull =>
      exec_tileQueueWrite (State.tileQueueWrite_full (f := f) (l := l) ?_ hres ?_) hgate' hidle⟩
    · rw [hcore]; exact hnone
    · rw [hcore]; exact hsome
    · rw [hcore]; exact hfull
  · intro s c f l residue hsome hres hfree hnan hgate hqueue hseq htrap t ht
    subst ht
    obtain ⟨n, runs, hcore⟩ := s.countStall_core c.val
    have hfinished : ((s.countStall c.val).core c.val).finished = f :: l := by rw [hcore]; exact hsome
    have hwrite := State.tileQueueWrite_enters hfinished hres (by rw [hcore]; exact hfree) hnan
    refine ⟨?_, State.countStall_zero, hfinished⟩
    rw [exec_tileQueueWrite hwrite, hcore]
    · rw [State.setCore_core_same, hcore]
      exact hgate
    · rw [State.setCore_core_same, hcore]
      exact .of_trapDue_none hseq hqueue htrap

end Sys2Proof.Machine
end

section
/-! PROOFS. The gate pipeline's instructions: GCFG loads a slot, GRUN starts, GRUN_COMPLETE ends (R174, R175, R177, R209). -/

namespace Sys2Proof.Machine

/-- The gate pipeline takes an instruction while it runs none (R209). -/
theorem State.headReady_gate {s : State} {c op : Nat} {w : InstrWord} (h : s.IssuesTo c op w .gate) (hop : op = 0x50 ∨ op = 0x51)
    (hgate : (s.core c).gate = none) :
    (s.setCore c ((s.core c).advance.setQueue .gate [s.issueEntry c op w])).headReady c (s.issueEntry c op w) = true := by
  have hidle : ((s.core c).advance.setQueue .gate [s.issueEntry c op w]).gate = none := hgate
  have hhead : ∀ (t : State) (q : QEntry), q.op = 0x50 ∨ q.op = 0x51 →
      t.headReady c q = ((t.core c).waitOk q && (t.core c).gate.isNone) := fun t q hq => by
    unfold State.headReady
    rcases hq with hq | hq
    · rw [hq]; rfl
    · rw [hq]; rfl
  rw [hhead _ _ hop, State.setCore_core_same, h.waitOk_queued, hidle]
  rfl

/-! ### GCFG -/

/-- Legal stage words in powered scratch that meet no bad data are written into the slot (R174, R175). -/
theorem State.runGcfg_loads {t : State} {c : Nat} {q : QEntry} {ws : List W64}
    (hscratch : t.scratchOk c (gcfgAddr q.w) (8 * gcfgStages q.w) = true)
    (hgood : t.good (coreWin c + gcfgAddr q.w) (8 * gcfgStages q.w) = true)
    (hws : ws = (List.range (gcfgStages q.w)).map (fun k => BitVec.ofNat 64 (t.readNat (coreWin c + gcfgAddr q.w + 8 * k) 8)))
    (hlegal : ws.all stageOk = true) :
    t.runGcfg c q = t.modCore c (fun k => { k with slots := k.slots.setIfInBounds (gcfgSlot q.w) ws }) := by
  unfold State.runGcfg
  dsimp only
  rw [hscratch, if_neg (by decide), hgood, if_neg (by decide), ← hws, if_pos hlegal]

theorem exec_gcfg_loads {s : State} {c : Fin 1536} {w : InstrWord} {ws : List W64} (h : s.IssuesTo c.val 0x50 w .gate)
    (hl : gcfgLegal w = true) (hgate : (s.core c.val).gate = none) (hfits : (s.issued c.val 0x50 w).SignalFits w)
    (hrun : (s.executing c.val 0x50 w).runGcfg c.val (s.issueEntry c.val 0x50 w) =
      (s.executing c.val 0x50 w).modCore c.val (fun k => { k with slots := k.slots.setIfInBounds (gcfgSlot w) ws })) :
    exec (.gcfg c w) s = .next ((s.setCore c.val { s.issued c.val 0x50 w with
      slots := (s.core c.val).slots.setIfInBounds (gcfgSlot w) ws }).completed c.val w) := by
  have hissue : exec (.gcfg c w) s = .next (s.issueTo c.val 0x50 w .gate (gcfgLegal w) false) := rfl
  have hslots : (s.issued c.val 0x50 w).slots = (s.core c.val).slots := by rw [s.issued_eq]
  have hidle : (s.issued c.val 0x50 w).EngineIdle .gate := h.issuedIdle
  rw [State.executing, State.modCore_setCore, hslots] at hrun
  have hhead : (s.executing c.val 0x50 w).headEffect c.val (s.issueEntry c.val 0x50 w) = (s.setCore c.val
      { s.issued c.val 0x50 w with slots := (s.core c.val).slots.setIfInBounds (gcfgSlot w) ws }).completed c.val w :=
    (congrArg (fun t => State.signal t c.val (s.issueEntry c.val 0x50 w)) hrun).trans
      (State.signal_setCore_completes h.1.ctx hfits)
  rw [hissue, hl, State.issueTo_executes (by decide) h (by decide) (State.headReady_gate h (.inl rfl) hgate) hhead]
  refine State.completed_idle ?_ w
  rw [State.setCore_core_same]
  exact ⟨hidle.seq, hidle.queue, hidle.noTrap⟩

/-! ### GRUN -/

/-- A gate instruction that finds no entry for it waits. -/
theorem State.gatePump_noEntry {s : State} {c : Nat} (h : (s.core c).tq.find? (·.gate) = none) (n : Nat) : s.gatePump n c = s := by
  cases n with
  | zero => rfl
  | succ n =>
    rw [State.gatePump, h]
    split
    · next hentry => cases hentry
    · rfl

/-- A loaded slot and a legal descriptor start the instruction, which waits for its entries (R177). -/
theorem State.startGrun_starts {t : State} {c : Nat} {q : QEntry} {d : GateDesc}
    (hslot : (t.core c).slots.get (Fin.ofNat 8 (grunSlot q.w)) ≠ []) (hscratch : t.scratchOk c (64 * grunDesc q.w) 128 = true)
    (hdesc : GateDesc.parse (t.read (coreWin c + 64 * grunDesc q.w) 128) = some d)
    (hnone : (t.core c).tq.find? (·.gate) = none) :
    t.startGrun c q = t.modCore c (fun k =>
      { k with gate := some ⟨q, t.read (coreWin c + 64 * grunDesc q.w) 128, grunCount q.w, [], t.now⟩ }) := by
  have hloaded : ((t.core c).slots.get (Fin.ofNat 8 (grunSlot q.w))).isEmpty = false := List.isEmpty_eq_false_iff.mpr hslot
  unfold State.startGrun
  dsimp only
  rw [hloaded, if_neg Bool.false_ne_true, hscratch, if_neg (by decide), hdesc]
  exact State.gatePump_noEntry (by rw [State.modCore_core]; exact hnone) 32

/-- The gate instruction that starts on a core without one ends none whose NaN traps. -/
theorem Core.EngineIdle.withGate {k : Core} {e : Engine} (h : k.EngineIdle e) (hgate : k.gate = none) (g : GateRun) :
    ({ k with gate := some g } : Core).EngineIdle e := by
  obtain ⟨hseq, hqueue, htrap⟩ := h
  refine ⟨hseq, by cases e <;> exact hqueue, ?_⟩
  unfold Core.NoTrapEnds at htrap ⊢
  rw [Option.all_eq_true] at htrap ⊢
  intro v hv
  have hruns := htrap v hv
  rw [hgate, Option.map_none, Bool.or_eq_true] at hruns
  rw [Bool.or_eq_true]
  exact .inr (hruns.resolve_left (by simp))

theorem exec_grun_starts {s : State} {c : Fin 1536} {w : InstrWord} {g : GateRun} (h : s.IssuesTo c.val 0x51 w .gate)
    (hl : grunLegal w = true) (hgate : (s.core c.val).gate = none)
    (hstart : (s.executing c.val 0x51 w).startGrun c.val (s.issueEntry c.val 0x51 w) =
      (s.executing c.val 0x51 w).modCore c.val (fun k => { k with gate := some g })) :
    exec (.grun c w) s = .next (s.setCore c.val { s.issued c.val 0x51 w with gate := some g }) := by
  have hissue : exec (.grun c w) s = .next (s.issueTo c.val 0x51 w .gate (grunLegal w) false) := rfl
  have hnone : (s.issued c.val 0x51 w).gate = none := by rw [s.issued_eq]; exact hgate
  rw [State.executing, State.modCore_setCore] at hstart
  rw [hissue, hl, State.issueTo_executes (by decide) h (by decide) (State.headReady_gate h (.inr rfl) hgate) hstart]
  rw [State.setCore_core_same]
  exact h.issuedIdle.withGate hnone g

/-! ### GRUN_COMPLETE -/

/-- A gate instruction with no entry left leaves the pipeline and signals (R209). -/
theorem State.grunComplete_ends {s : State} {c : Nat} {g : GateRun} (hgate : (s.core c).gate = some g) (hleft : g.left = 0) :
    s.grunComplete c = (s.setCore c { s.core c with gate := none }).signal c g.q := by
  unfold State.grunComplete
  dsimp only
  rw [hgate]
  exact if_pos hleft

/-- Settles O19, instruction by instruction. -/
theorem gateSlotsLoadAndGateRunsComplete : Obligations.GateSlotsLoadAndGateRunsComplete := by
  unfold Obligations.GateSlotsLoadAndGateRunsComplete
  refine fun s c w => ⟨?_, ?_, fun g hgate hleft htrap hqueue hseq hctx hfits => ?_⟩
  · intro t ws h hl hgate hfits ht hscratch hgood hws hlegal
    subst ht
    exact exec_gcfg_loads h hl hgate hfits (State.runGcfg_loads hscratch hgood hws hlegal)
  · intro t d h hl hgate ht hslot hscratch hdesc hnone
    subst ht
    have hcore : (s.executing c.val 0x51 w).core c.val = s.issued c.val 0x51 w := s.executing_core ..
    refine exec_grun_starts h hl hgate (State.startGrun_starts ?_ hscratch hdesc ?_)
    · rw [hcore, s.issued_eq]; exact hslot
    · rw [hcore, s.issued_eq]; exact hnone
  · have hexec : exec (.grunComplete c) s = .next ((s.grunComplete c.val).turn c.val .gate) := rfl
    rw [hexec, State.grunComplete_ends hgate hleft, State.signal_turn]
    · exact hctx
    · exact hfits
    · exact .of_trapDue_none hseq hqueue htrap

end Sys2Proof.Machine
end

section
/-! PROOFS. The wait watchdogs and the remote timeout (R166, R216, R538). -/

namespace Sys2Proof.Machine

/-- A core that runs no context is in no pass. -/
theorem State.passOf_none {s : State} {c : Nat} (h : s.ctxOf c = none) : s.passOf c = none := by
  unfold State.passOf
  rw [h]

/-- A fault charged to an instruction faults the context on its core (R224). -/
theorem State.opFault_eq {s : State} {c id : Nat} (h : s.ctxOf c = some id) (code : Nat) (q : QEntry) :
    s.opFault c code q = s.contextFault id code c q.pc.toNat (opTagOf q.w).toNat := by
  unfold State.opFault State.coreFault
  rw [h]

theorem State.ctxOf_setCore_same (s : State) (c : Nat) (k : Core) : (s.setCore c k).ctxOf c = k.ctx.map (·.toNat) := by
  unfold State.ctxOf
  rw [State.setCore_core_same]

/-! ### LOCAL_WAIT_WATCHDOG -/

theorem exec_localWaitWatchdog_eq (s : State) (c : Fin 1536) (e : Engine) :
    exec (.localWaitWatchdog c e) s = execLocalWaitWatchdog c e s := rfl

section
variable {s : State} {c : Fin 1536} {e : Engine}

/-- The watchdog of a queue meets nothing without a head or without a pass. -/
theorem exec_localWaitWatchdog_idle (he : e ≠ .seq) (h : (s.core c.val).queue e = [] ∨ s.passOf c.val = none) :
    exec (.localWaitWatchdog c e) s = .next s := by
  rw [exec_localWaitWatchdog_eq]
  unfold execLocalWaitWatchdog
  dsimp only
  split
  · exact absurd rfl he
  · split
    · next hq hp =>
      rcases h with h | h
      · rw [h] at hq; cases hq
      · rw [h] at hp; cases hp
    · rfl

theorem exec_localWaitWatchdog_running (h : (s.core c.val).seq = .running) : exec (.localWaitWatchdog c .seq) s = .next s := by
  rw [exec_localWaitWatchdog_eq]
  unfold execLocalWaitWatchdog
  dsimp only
  rw [h]

variable {q : QEntry} (hwait : (s.core c.val).waitOk q = false) (hlocal : s.remoteWait c.val q = false)
  (hlong : s.waited (s.core c.val) (2 ^ 22) ((s.core c.val).waitFrom q) = true)
include hwait hlocal hlong

/-- The sequencer's header wait on local work has lasted too long. -/
theorem exec_localWaitWatchdog_header (hseq : (s.core c.val).seq = .waitHdr q) :
    exec (.localWaitWatchdog c .seq) s = .next (s.opFault c.val 6 q) := by
  rw [exec_localWaitWatchdog_eq]
  unfold execLocalWaitWatchdog
  dsimp only
  rw [hseq]
  exact if_neg (by rw [hwait, hlocal, hlong]; decide)

/-- A queue head's wait on local work has lasted too long. -/
theorem exec_localWaitWatchdog_head {p n : Nat} (he : e ≠ .seq) (hpass : s.passOf c.val = some (p, n))
    (hhead : ((s.core c.val).queue e).head? = some q) (hcount : wcnt q.w ≠ 0) :
    exec (.localWaitWatchdog c e) s = .next (s.opFault c.val 6 q) := by
  have hwaits : (wcnt q.w != 0) = true := bne_iff_ne.mpr hcount
  rw [exec_localWaitWatchdog_eq]
  unfold execLocalWaitWatchdog
  dsimp only
  split
  · exact absurd rfl he
  · rw [hhead, hpass]
    exact if_pos (by rw [hwait, hlocal, hlong, hwaits]; rfl)

end

/-! ### QUEUE_READ_WATCHDOG -/

theorem exec_queueReadWatchdog_eq (s : State) (c : Fin 1536) (e : Engine) :
    exec (.queueReadWatchdog c e) s = execQueueReadWatchdog c e s := rfl

theorem exec_queueReadWatchdog_vectorIdle {s : State} {c : Fin 1536} (h : (s.core c.val).qV = []) :
    exec (.queueReadWatchdog c .vector) s = .next s := by
  rw [exec_queueReadWatchdog_eq, execQueueReadWatchdog]
  dsimp only
  rw [h]
  rfl

theorem exec_queueReadWatchdog_gateIdle {s : State} {c : Fin 1536} (h : (s.core c.val).gate = none) :
    exec (.queueReadWatchdog c .gate) s = .next s := by
  rw [exec_queueReadWatchdog_eq, execQueueReadWatchdog]
  dsimp only
  rw [h]

/-- A VQRD that nothing on its core can feed has waited too long (R166). -/
theorem exec_queueReadWatchdog_starved {s : State} {c : Fin 1536} {q : QEntry} (hhead : (s.core c.val).qV.head? = some q)
    (hop : q.op = 0x40) (hwait : (s.core c.val).waitOk q = true) (hocc : (s.core c.val).occ false = 0)
    (hqueue : (s.core c.val).qM = []) (hruns : (s.core c.val).runs = []) (hfinished : (s.core c.val).finished = [])
    (hlong : s.waited (s.core c.val) (2 ^ 20) (max q.since.toNat (s.core c.val).fedV.toNat) = true) :
    exec (.queueReadWatchdog c .vector) s =
      .next ((s.setCore c.val { s.core c.val with watchdog := true }).opFault c.val 6 q) := by
  rw [exec_queueReadWatchdog_eq, execQueueReadWatchdog]
  dsimp only
  rw [hhead]
  exact if_pos (by rw [hwait, hocc, hqueue, hruns, hfinished, hlong, decide_eq_true hop]; rfl)

/-! ### REMOTE_TIMEOUT -/

theorem exec_remoteTimeout_eq (s : State) (c : Fin 1536) (what : RemoteWait) :
    exec (.remoteTimeout c what) s = execRemoteTimeout c what s := rfl

/-- The timeout that the row looks up is that of the partition. -/
theorem State.remoteNs_part? {s : State} {p : Nat} {h : Partition} (hpart : s.part? p = some h) :
    ((s.part? p).map Partition.remoteNs).getD 0 = h.remoteNs := by
  rw [hpart]
  rfl

/-- A core without transfers times out no transfer where no saved context keeps a core's work. -/
theorem exec_remoteTimeout_idle {s : State} {c : Fin 1536} (slot : Fin 16) (hdma : (s.core c.val).dma = [])
    (hsaved : ∀ x ∈ s.ctxs, x.2.savedCores = []) : exec (.remoteTimeout c (.transfer slot)) s = .next s := by
  have hnone : s.ctxs.filter (fun x => (tabGet? x.2.savedCores c.val).isSome) = [] :=
    List.filter_eq_nil_iff.mpr fun x hx => by rw [hsaved x hx]; exact Bool.false_ne_true
  rw [exec_remoteTimeout_eq, execRemoteTimeout]
  dsimp only
  rw [hnone, hdma]
  split
  · rfl
  · rfl

section
variable {s : State} {c : Fin 1536} {p n : Nat} {h : Partition} (hpass : s.passOf c.val = some (p, n)) (hpart : s.part? p = some h)
include hpass hpart

/-- A transfer to or from another device has waited for the remote timeout. -/
theorem exec_remoteTimeout_transfer {id : Nat} {slot : Fin 16} {x : DmaXfer} (hctx : s.ctxOf c.val = some id)
    (hlate : (s.core c.val).dma.find? (fun t => t.slot == slot && t.remote && !t.arrived && t.issued.toNat + h.remoteNs ≤ s.time) =
      some x) : exec (.remoteTimeout c (.transfer slot)) s =
        .next (s.contextFault id 2 c.val x.q.pc.toNat (opTagOf x.q.w).toNat) := by
  rw [← State.remoteNs_part? hpart] at hlate
  rw [exec_remoteTimeout_eq, execRemoteTimeout]
  dsimp only
  rw [hpass, hctx]
  dsimp only
  rw [hlate]

/-- A WAITM's word on another device has not compared for the remote timeout. -/
theorem exec_remoteTimeout_waitm {e : Engine} {q : QEntry} {v : W64} (hhead : ((s.core c.val).queue e).head? = some q)
    (hremote : isRmt q = true) (hlate : q.since.toNat + h.remoteNs ≤ s.time) (hread : s.waitmRead p q = .word v)
    (hholds : wmHolds q v = false) : exec (.remoteTimeout c (.waitm e)) s = .next (s.opFault c.val 2 q) := by
  rw [← State.remoteNs_part? hpart] at hlate
  rw [exec_remoteTimeout_eq, execRemoteTimeout]
  dsimp only
  rw [hpass, hhead]
  exact if_pos (by rw [hread, hremote, decide_eq_true hlate]; dsimp only; rw [hholds]; rfl)

end

/-- Settles O22: each event by what it meets, then the fault as one of the context on the core. -/
theorem waitTimeoutsFaultTheContext : Obligations.WaitTimeoutsFaultTheContext := by
  unfold Obligations.WaitTimeoutsFaultTheContext
  refine ⟨fun s c e => ⟨fun hctx he => exec_localWaitWatchdog_idle he (.inr (State.passOf_none hctx)), exec_localWaitWatchdog_running,
    fun hqueue he => exec_localWaitWatchdog_idle he (.inl hqueue), exec_queueReadWatchdog_vectorIdle, exec_queueReadWatchdog_gateIdle,
    exec_remoteTimeout_idle⟩, fun s c id p n hctx hpass => ⟨?_, ?_, ?_, ?_, ?_⟩⟩
  · intro q hseq hwait hlocal hlong
    rw [exec_localWaitWatchdog_header hwait hlocal hlong hseq, State.opFault_eq hctx]
  · intro e q he hhead hcount hwait hlocal hlong
    rw [exec_localWaitWatchdog_head hwait hlocal hlong he hpass hhead hcount, State.opFault_eq hctx]
  · intro q hhead hop hwait hocc hqueue hruns hfinished hlong
    have hctx' : (s.setCore c.val { s.core c.val with watchdog := true }).ctxOf c.val = some id :=
      (s.ctxOf_setCore_same ..).trans hctx
    refine ⟨_, ?_, rfl⟩
    rw [exec_queueReadWatchdog_starved hhead hop hwait hocc hqueue hruns hfinished hlong, State.opFault_eq hctx']
  · intro slot x h hpart hlate
    exact exec_remoteTimeout_transfer hpass hpart hctx hlate
  · intro e q v h hpart hhead hremote hlate hread hholds
    rw [exec_remoteTimeout_waitm hpass hpart hhead hremote hlate hread hholds, State.opFault_eq hctx]

end Sys2Proof.Machine
end

section
/-! PROOFS. Instructions as a core issues them: a stopped core issues none, an illegal one faults its context (R198, R199, R213,
R217, R218, R224). -/

namespace Sys2Proof.Machine

/-! ### Issue on a core that issues, on a stopped one, of an illegal word -/

theorem Core.issuing_iff {k : Core} : k.issuing = true ↔ k.seq = .running ∧ k.ctx.isSome = true := by
  rw [Core.issuing, Bool.and_eq_true, beq_iff_eq]

section
variable {s : State} {c : Nat} (op : Nat) (w : InstrWord)

theorem State.issueSeq_stopped (h : (s.core c).issuing = false) (legal : Bool) (run : QEntry → State → State) :
    s.issueSeq c op w legal run = s := by
  unfold State.issueSeq
  exact if_pos (by rw [h]; rfl)

theorem State.issueTo_stopped (h : (s.core c).issuing = false) (e : Engine) (legal barrier : Bool) :
    s.issueTo c op w e legal barrier = s := by
  unfold State.issueTo
  exact if_pos (by rw [h]; rfl)

/-- An illegal instruction is charged to the PC and the OP_TAG at which it issues (R224). -/
theorem State.opFault_issueEntry {id : Nat} (hctx : s.ctxOf c = some id) (code : Nat) : s.opFault c code (s.issueEntry c op w) =
    s.contextFault id code c (s.core c).pc.toNat (opTagOf w).toNat := State.opFault_eq hctx ..

theorem State.issueSeq_illegal {id : Nat} (h : (s.core c).issuing = true) (hctx : s.ctxOf c = some id)
    (run : QEntry → State → State) : s.issueSeq c op w false run =
      s.contextFault id 3 c (s.core c).pc.toNat (opTagOf w).toNat := by
  unfold State.issueSeq
  dsimp only
  rw [h, if_neg (by decide), if_pos (by rfl), State.opFault_issueEntry op w hctx]

theorem State.issueTo_illegal {id : Nat} (h : (s.core c).issuing = true) (hctx : s.ctxOf c = some id) (e : Engine)
    (barrier : Bool) : s.issueTo c op w e false barrier = s.contextFault id 3 c (s.core c).pc.toNat (opTagOf w).toNat := by
  unfold State.issueTo
  dsimp only
  rw [h, if_neg (by decide), if_pos (by rfl), State.opFault_issueEntry op w hctx]

end

/-! ### The instruction rows -/

/-- The instruction rows of a core: those of the sequencer, those of the engine queues, DMOV with what its transit meets, and
the reserved opcodes (R197, R199). -/
theorem exec_of_issuer {i : Instr} {c : Fin 1536} (h : issuerOf i = some c) :
    (∃ (op : Nat) (w : InstrWord) (legal : State → Bool) (run : QEntry → State → State), ∀ s, exec i s =
      .next (s.issueSeq c.val op w (legal s) run)) ∨
    (∃ op w e legal barrier, ∀ s, exec i s = .next (s.issueTo c.val op w e legal barrier)) ∨
    (∃ w hop, i = .dmov c w hop) ∨ ∃ w, i = .reservedOpcode c w := by
  cases i with
  | nop d w | end_ d w | br d w | beq d w | bne d w | blt d w | bge d w | loop d w | xset d w | xaddi d w | xadd d w | xsub d w
  | xmuli d w | xshl d w | xshr d w | xand d w | xld d w | sync d w | ppoint d w =>
    obtain rfl : d = c := Option.some.inj h
    exact .inl ⟨_, w, _, _, fun _ => rfl⟩
  | wait d w | waitm d w | fsig d w | mmul d w | vfp d w | vbf d w | vint d w | vcvt d w | vfunc d w | vred d w | vbc d w
  | vside d w | vqrd d w | vld d w | vst d w | gcfg d w | grun d w =>
    obtain rfl : d = c := Option.some.inj h
    exact .inr (.inl ⟨_, w, _, _, _, fun _ => rfl⟩)
  | dmov d w hop =>
    obtain rfl : d = c := Option.some.inj h
    exact .inr (.inr (.inl ⟨w, hop, rfl⟩))
  | reservedOpcode d w =>
    obtain rfl : d = c := Option.some.inj h
    exact .inr (.inr (.inr ⟨w, rfl⟩))
  | _ => cases h

section
variable {s : State} {c : Fin 1536}

/-- A DMOV that does not issue meets no transit check. -/
theorem exec_dmov_stopped (h : (s.core c.val).issuing = false) (w : InstrWord) (hop : HopResult) :
    exec (.dmov c w hop) s = .next s := by
  have hexec : exec (.dmov c w hop) s = execDmov c w hop s := rfl
  unfold execDmov at hexec
  rw [hexec, State.issueTo_stopped 0x60 w h, h]
  cases hop with
  | clean => rfl
  | resent n => rfl
  | linkFailed => rfl

theorem exec_reservedOpcode_eq (w : BitVec 128) : exec (.reservedOpcode c w) s =
    if ((s.core c.val).issuing && !opcodes.contains (w.toNat / 2 ^ 120)) = true then
      .next (s.opFault c.val 3 (s.issueEntry c.val (w.toNat / 2 ^ 120) (w.setWidth 120)))
    else .next s := rfl

theorem exec_reservedOpcode_stopped (h : (s.core c.val).issuing = false) (w : BitVec 128) :
    exec (.reservedOpcode c w) s = .next s := by
  rw [exec_reservedOpcode_eq, h, Bool.false_and, if_neg Bool.false_ne_true]

end

/-- Settles O6, kind of row by kind of row. -/
theorem nothingIssuesBehindBarrier : Obligations.NothingIssuesBehindBarrier := by
  unfold Obligations.NothingIssuesBehindBarrier
  intro s i c hissuer h
  rcases exec_of_issuer hissuer with ⟨op, w, legal, run, hexec⟩ | ⟨op, w, e, legal, barrier, hexec⟩ | ⟨w, hop, rfl⟩ |
    ⟨w, rfl⟩
  · rw [hexec, State.issueSeq_stopped op w h]
  · rw [hexec, State.issueTo_stopped op w h]
  · exact exec_dmov_stopped h w hop
  · exact exec_reservedOpcode_stopped h w

/-- Settles O7, instruction by instruction. -/
theorem illegalInstructionFaultsItsContext : Obligations.IllegalInstructionFaultsItsContext := by
  unfold Obligations.IllegalInstructionFaultsItsContext
  refine fun s c id h hctx => ⟨fun w hop => ?_, fun w hl => ⟨?_, ?_⟩, fun w hl => ?_, fun w hl => ?_⟩
  · rw [exec_reservedOpcode_eq, h, hop, if_pos (by rfl), State.opFault_issueEntry _ _ hctx]
  · have hexec : exec (.nop c w) s = .next (s.issueSeq c.val 0x00 w (cLegal w) (runNop c.val)) := rfl
    rw [hexec, hl, State.issueSeq_illegal _ _ h hctx]
  · have hexec : exec (.xadd c w) s = .next (s.issueSeq c.val 0x0A w (cLegal w) (runXadd c.val)) := rfl
    rw [hexec, hl, State.issueSeq_illegal _ _ h hctx]
  · have hexec : exec (.br c w) s = .next (s.issueSeq c.val 0x02 w (s.branchLegal c.val w) (runBr c.val)) := rfl
    rw [hexec, hl, State.issueSeq_illegal _ _ h hctx]
  · have hexec : exec (.vfp c w) s = .next (s.issueTo c.val 0x30 w .vector (vLegal 0x30 w) false) := rfl
    rw [hexec, hl, State.issueTo_illegal _ _ h hctx]

end Sys2Proof.Machine
end

section
/-! PROOFS. The sequencer's arithmetic, branches, NOP, PPOINT, END and XLD (R193, R197, R198, R212, R218, R219, R321). -/

namespace Sys2Proof.Machine

/-! ### Registers of a core past an instruction -/

section
variable (s : State) (c op : Nat) (w : InstrWord)

theorem State.issued_x : (s.issued c op w).x = (s.core c).x := by rw [s.issued_eq]
theorem State.issued_ctx : (s.issued c op w).ctx = (s.core c).ctx := by rw [s.issued_eq]
theorem State.issued_segOn : (s.issued c op w).segOn = (s.core c).segOn := by rw [s.issued_eq]
theorem State.issued_quiet : (s.issued c op w).quiet = (s.core c).quiet := by rw [s.issued_eq]; rfl
theorem State.issued_pc : (s.issued c op w).pc = (s.core c).pc + 1 := by
  obtain ⟨-, -, -, -, hpc⟩ := s.issued_frame c op w
  exact hpc

end

/-- An instruction that issues at once does what it does on the core past it. -/
theorem State.Issues.issueSeq {s : State} {c op : Nat} {w : InstrWord} (h : s.Issues c op w) {legal : Bool} (hl : legal = true)
    (run : QEntry → State → State) :
    s.issueSeq c op w legal run = run (s.issueEntry c op w) (s.setCore c (s.issued c op w)) := by
  rw [hl, State.issueSeq_issues _ _ _ _ _ h]

/-- The signal of an instruction that has set PC and registers. -/
theorem State.signal_issued (s : State) {c op : Nat} {w : InstrWord} {pc : BitVec 16} {x : Vector W64 16} (h : s.Issues c op w)
    (hfits : (s.issued c op w).SignalFits w) :
    (s.setCore c { s.issued c op w with pc := pc, x := x }).signal c (s.issueEntry c op w) =
      s.setCore c (Core.signalled { s.issued c op w with pc := pc, x := x } w s.now) :=
  State.signal_setCore s c { s.issued c op w with pc := pc, x := x } (s.issueEntry c op w) h.ctx hfits

/-! ### Arithmetic (R197) -/

theorem State.setXd_setCore (s : State) (c : Nat) (k : Core) (q : QEntry) (v : W64) :
    (s.setCore c k).setXd c q v = (s.setCore c { k with x := xSet k.x (cXd q.w) v }).signal c q := by
  rw [State.setXd, State.modCore_setCore]

/-- An instruction whose run writes `f` of the registers to Xd. -/
theorem writesXd_of_run {i : Fin 1536 → InstrWord → Instr} {op : Nat} {f : Vector W64 16 → InstrWord → W64}
    {run : Nat → QEntry → State → State}
    (hexec : ∀ c w s, exec (i c w) s = .next (s.issueSeq c.val op w (cLegal w) (run c.val)))
    (hrun : ∀ c q s, run c q s = s.setXd c q (f (s.core c).x q.w)) : WritesXd i op f := by
  intro s c w h hl hfits
  rw [hexec, h.issueSeq hl, hrun, State.setXd_setCore, State.setCore_core_same, s.issued_x]
  exact congrArg _ (s.signal_issued h hfits)

/-- The shift distance is the low 6 bits of IMM. -/
theorem cImm_mod (w : InstrWord) : cImm w % 64 = fld w 0 6 := Nat.mod_mod_of_dvd _ (by decide)

theorem xGet_zero (x : Vector W64 16) : xGet x 0 = 0 := rfl

theorem xSet_zero (x : Vector W64 16) (v : W64) : xSet x 0 v = x := rfl

theorem xGet_xSet_same (x : Vector W64 16) (v : W64) {d : Nat} (h0 : 1 ≤ d) (hd : d < 16) : xGet (xSet x d v) d = v := by
  have hne : d ≠ 0 := by omega
  have hidx : Fin.ofNat 16 d = ⟨d, hd⟩ := Fin.ext (Nat.mod_eq_of_lt hd)
  rw [xGet, xSet, if_neg hne, if_neg hne, Nat.mod_eq_of_lt hd, hidx]
  exact Vector.getElem_setIfInBounds_self hd

theorem xGet_xSet_ne (x : Vector W64 16) (v : W64) {d k : Nat} (hd : d < 16) (hk : k < 16) (h : k ≠ d) :
    xGet (xSet x d v) k = xGet x k := by
  have hidx : Fin.ofNat 16 k = ⟨k, hk⟩ := Fin.ext (Nat.mod_eq_of_lt hk)
  unfold xGet xSet
  rw [hidx, Nat.mod_eq_of_lt hd]
  split
  · rfl
  · split
    · rfl
    · exact Vector.getElem_setIfInBounds_ne hk (Ne.symm h)

/-- Settles O2: each instruction writes one value to Xd; registers 1 to 15 are words of their own. -/
theorem scalarArithmeticWritesXd : Obligations.ScalarArithmeticWritesXd := by
  unfold Obligations.ScalarArithmeticWritesXd
  refine ⟨?_, ?_, ?_, ?_, ?_, ?_, ?_, ?_, fun x v => ⟨xGet_zero x, xSet_zero x v, fun d h0 hd =>
    ⟨xGet_xSet_same x v h0 hd, fun k hk hne => xGet_xSet_ne x v hd hk hne⟩⟩⟩
  · exact writesXd_of_run (run := runXset) (fun _ _ _ => rfl) fun _ _ _ => rfl
  · exact writesXd_of_run (run := runXaddi) (fun _ _ _ => rfl) fun _ _ _ => rfl
  · exact writesXd_of_run (run := runXadd) (fun _ _ _ => rfl) fun _ _ _ => rfl
  · exact writesXd_of_run (run := runXsub) (fun _ _ _ => rfl) fun _ _ _ => rfl
  · exact writesXd_of_run (run := runXmuli) (fun _ _ _ => rfl) fun _ _ _ => rfl
  · exact writesXd_of_run (run := runXshl) (fun _ _ _ => rfl) fun _ q _ => by rw [runXshl, cImm_mod q.w]; rfl
  · exact writesXd_of_run (run := runXshr) (fun _ _ _ => rfl) fun _ q _ => by rw [runXshr, cImm_mod q.w]; rfl
  · exact writesXd_of_run (run := runXand) (fun _ _ _ => rfl) fun _ _ _ => rfl

/-! ### Branches (R197) -/

theorem State.branch_setCore (s : State) (c : Nat) (k : Core) (q : QEntry) (taken : Bool) : (s.setCore c k).branch c q taken =
    (s.setCore c { k with pc := if taken then BitVec.ofNat 16 (cTarget q.w) else k.pc }).signal c q := by
  unfold State.branch
  cases taken with
  | false => rfl
  | true => rw [if_pos rfl, State.modCore_setCore]; rfl

/-- A branch whose run sets the registers to `x`, then goes to its target where `taken` says so. -/
theorem branchesOn_of_run {i : Fin 1536 → InstrWord → Instr} {op : Nat} {x : Vector W64 16 → InstrWord → Vector W64 16}
    {taken : Vector W64 16 → InstrWord → Bool} {run : Nat → QEntry → State → State}
    (hexec : ∀ c w s, exec (i c w) s = .next (s.issueSeq c.val op w (s.branchLegal c.val w) (run c.val)))
    (hrun : ∀ (s : State) c k q, run c q (s.setCore c k) =
      (s.setCore c { k with x := x k.x q.w }).branch c q (taken k.x q.w)) : BranchesOn i op x taken := by
  intro s c w h hl hfits
  rw [hexec, h.issueSeq hl, hrun, State.branch_setCore, s.issued_x, s.issued_pc]
  exact congrArg _ (s.signal_issued h hfits)

/-- A branch that compares registers. -/
theorem branchesOn_of_compare {i : Fin 1536 → InstrWord → Instr} {op : Nat} {taken : Vector W64 16 → InstrWord → Bool}
    {run : Nat → QEntry → State → State}
    (hexec : ∀ c w s, exec (i c w) s = .next (s.issueSeq c.val op w (s.branchLegal c.val w) (run c.val)))
    (hrun : ∀ c q s, run c q s = s.branch c q (taken (s.core c).x q.w)) : BranchesOn i op (fun x _ => x) taken :=
  branchesOn_of_run hexec fun s c k q => by rw [hrun, State.setCore_core_same]

theorem runLoop_setCore (s : State) (c : Nat) (k : Core) (q : QEntry) : runLoop c q (s.setCore c k) =
    (s.setCore c { k with x := xSet k.x (cXd q.w) (xGet k.x (cXd q.w) - 1) }).branch c q
      (xGet (xSet k.x (cXd q.w) (xGet k.x (cXd q.w) - 1)) (cXd q.w) != 0) := by
  unfold runLoop
  dsimp only
  rw [State.modCore_setCore, State.setCore_core_same]

/-- Settles O3: BR to BGE by what they compare, LOOP by what it leaves in Xd. -/
theorem branchesGoWhereTheConditionSays : Obligations.BranchesGoWhereTheConditionSays := by
  unfold Obligations.BranchesGoWhereTheConditionSays
  refine ⟨?_, ?_, ?_, ?_, ?_, ?_⟩
  · exact branchesOn_of_compare (run := runBr) (fun _ _ _ => rfl) fun _ _ _ => rfl
  · exact branchesOn_of_compare (run := runBeq) (fun _ _ _ => rfl) fun _ _ _ => rfl
  · exact branchesOn_of_compare (run := runBne) (fun _ _ _ => rfl) fun _ _ _ => rfl
  · exact branchesOn_of_compare (run := runBlt) (fun _ _ _ => rfl) fun _ _ _ => rfl
  · exact branchesOn_of_compare (run := runBge) (fun _ _ _ => rfl) fun _ _ _ => rfl
  · exact branchesOn_of_run (run := runLoop) (fun _ _ _ => rfl) runLoop_setCore

/-! ### The state of a core's sequencer -/

/-- The core with its sequencer in another state. -/
def Core.withSeq (k : Core) (v : SeqState) : Core := { k with seq := v }

theorem Core.withSeq_self {k : Core} {v : SeqState} (h : k.seq = v) : k.withSeq v = k := by
  subst h
  rfl

theorem Core.queue_withSeq (k : Core) (v : SeqState) (e : Engine) : (k.withSeq v).queue e = k.queue e := by cases e <;> rfl

theorem Core.setQueue_withSeq (k : Core) (v : SeqState) (e : Engine) (l : List QEntry) :
    (k.withSeq v).setQueue e l = (k.setQueue e l).withSeq v := by cases e <;> rfl

theorem Core.takeWait_withSeq (k : Core) (v : SeqState) (q : QEntry) : (k.withSeq v).takeWait q = (k.takeWait q).withSeq v := by
  unfold Core.takeWait
  split
  · rfl
  · rfl

theorem Core.signalled_withSeq (k : Core) (v : SeqState) (w : InstrWord) (now : W64) :
    (k.withSeq v).signalled w now = (k.signalled w now).withSeq v := by
  unfold Core.signalled
  split
  · rfl
  · rfl

theorem State.Issues.running {s : State} {c op : Nat} {w : InstrWord} (h : s.Issues c op w) : (s.core c).seq = .running :=
  (Core.issuing_iff.mp h.1).1

/-- A core past an instruction still issues. -/
theorem State.Issues.issued_running {s : State} {c op : Nat} {w : InstrWord} (h : s.Issues c op w) :
    (s.issued c op w).withSeq .running = s.issued c op w :=
  Core.withSeq_self (by rw [s.issued_eq]; exact h.running)

/-! ### What a core does at a barrier (R217, R218) -/

theorem State.ctx?_setCore (s : State) (c id : Nat) (k : Core) : (s.setCore c k).ctx? id = s.ctx? id := rfl

/-- The context of a core stays its context while the core changes otherwise. -/
theorem State.context_setCore {s : State} {c : Nat} {k : Core} (h : k.ctx = (s.core c).ctx) :
    ((s.setCore c k).ctxOf c).bind (s.setCore c k).ctx? = (s.ctxOf c).bind s.ctx? := by
  rw [State.ctxOf_setCore_same, h]
  rfl

/-- SYNC and END complete once the core is quiet; a wait or PPOINT at the barrier is left to a request to save. -/
theorem State.settleCore_barrier {s : State} {c id : Nat} {k : Core} {q : QEntry} (hseq : k.seq = .barrier q)
    (htrap : k.NoTrapEnds) (hctx : k.ctx.map (·.toNat) = some id) : (s.setCore c k).settleCore c =
      if q.op = 0x1A then
        if k.quiet then (s.setCore c (k.withSeq .running)).signal c q else s.setCore c k
      else if q.op = 0x01 then
        if k.quiet then
          (((s.setCore c (k.withSeq .ended)).signal c q).modCtx id
            (fun x => { x with endedCores := x.endedCores ++ [c] })).endSave id
        else s.setCore c k
      else (s.setCore c k).trySave id := by
  unfold State.settleCore
  rw [State.trapHalt_none _ _ (by rwa [State.setCore_core_same])]
  dsimp only
  rw [State.setCore_core_same, State.ctxOf_setCore_same, hctx, hseq]
  dsimp only
  rw [State.setCore_setCore, State.setCore_setCore]
  rfl

/-- END on a quiet core ends the core's part of a context that no save awaits (R218). -/
theorem State.settleCore_end {s : State} {c id : Nat} {k : Core} {q : QEntry} {x : Context} (hseq : k.seq = .barrier q)
    (hop : q.op = 0x01) (htrap : k.NoTrapEnds) (hquiet : k.quiet = true) (hctx : k.ctx.map (·.toNat) = some id)
    (hx : s.ctx? id = some x) (hr : x.state = .running) (hfits : k.SignalFits q.w) :
    (s.setCore c k).settleCore c = (s.setCore c ((k.withSeq .ended).signalled q.w s.now)).setCtx id
      { x with endedCores := x.endedCores ++ [c] } := by
  have hsome : k.ctx.isSome = true := by rw [← Option.isSome_map, hctx]; rfl
  rw [State.settleCore_barrier hseq htrap hctx, hop, if_neg (by decide), if_pos rfl, if_pos hquiet,
    State.signal_setCore _ _ (k.withSeq .ended) _ hsome hfits]
  unfold State.modCtx
  rw [State.ctx?_setCore, hx]
  dsimp only
  rw [State.endSave, State.setCtx_ctx_same]
  exact if_neg (by simp [hr])

/-! ### NOP, PPOINT, XLD and END (R197, R218, R219) -/

/-- Without a request that its context heeds, PPOINT does nothing (R219). -/
theorem runPpoint_signals {s : State} {c : Nat} {q : QEntry} {x : Context} (hx : (s.ctxOf c).bind s.ctx? = some x)
    (hask : (x.umber && x.preempt.isSome) = false) : runPpoint c q s = s.signal c q := by
  unfold runPpoint
  rw [hx]
  exact if_neg (by rw [hask]; decide)

/-- An aligned word of powered scratch that meets no bad data is loaded (R197, R321). -/
theorem runXld_loads {s : State} {c off : Nat} {q : QEntry} (hoff : off = (s.xa c q + BitVec.ofNat 64 (cImm q.w)).toNat)
    (halign : off % 8 = 0) (hscratch : s.scratchOk c off 8 = true) (hgood : s.good (coreWin c + off) 8 = true) :
    runXld c q s = s.setXd c q (BitVec.ofNat 64 (s.readNat (coreWin c + off) 8)) := by
  unfold runXld
  dsimp only
  rw [← hoff, if_neg (not_not_intro halign), hscratch, if_neg (by decide), hgood, if_neg (by decide)]

theorem State.scratchOk_setCore {s : State} {c : Nat} {k : Core} (h : k.segOn = (s.core c).segOn) (off n : Nat) :
    (s.setCore c k).scratchOk c off n = s.scratchOk c off n := by
  unfold State.scratchOk
  rw [State.setCore_core_same, h]

section
variable {s : State} {c : Fin 1536} {w : InstrWord}

theorem exec_nop_completes (h : s.Issues c.val 0x00 w) (hl : cLegal w = true) (hfits : (s.issued c.val 0x00 w).SignalFits w) :
    exec (.nop c w) s = .next ((s.executing c.val 0x00 w).completed c.val w) := by
  have hexec : exec (.nop c w) s = .next (s.issueSeq c.val 0x00 w (cLegal w) (runNop c.val)) := rfl
  rw [hexec, h.issueSeq hl, runNop, State.signal_setCore_completes h.ctx hfits]
  rfl

theorem exec_ppoint_completes {x : Context} (hx : (s.ctxOf c.val).bind s.ctx? = some x)
    (hask : (x.umber && x.preempt.isSome) = false) (h : s.Issues c.val 0x1B w) (hl : headerOk w = true)
    (hfits : (s.issued c.val 0x1B w).SignalFits w) :
    exec (.ppoint c w) s = .next ((s.executing c.val 0x1B w).completed c.val w) := by
  have hexec : exec (.ppoint c w) s = .next (s.issueSeq c.val 0x1B w (headerOk w) (runPpoint c.val)) := rfl
  rw [hexec, h.issueSeq hl, runPpoint_signals ((State.context_setCore (s.issued_ctx ..)).trans hx) hask,
    State.signal_setCore_completes h.ctx hfits]
  rfl

theorem exec_end_ends {id : Nat} {x : Context} (h : s.Issues c.val 0x01 w) (hl : cLegal w = true)
    (hquiet : (s.core c.val).quiet = true) (htrap : (s.core c.val).NoTrapEnds) (hctx : s.ctxOf c.val = some id)
    (hx : s.ctx? id = some x) (hr : x.state = .running) (hfits : (s.issued c.val 0x01 w).SignalFits w) :
    exec (.end_ c w) s = .next ((s.setCore c.val (Core.signalled { s.issued c.val 0x01 w with seq := .ended } w s.now)).setCtx id
      { x with endedCores := x.endedCores ++ [c.val] }) := by
  have hexec : exec (.end_ c w) s = .next (s.issueSeq c.val 0x01 w (cLegal w) (runEnd c.val)) := rfl
  rw [hexec, h.issueSeq hl, runEnd, State.modCore_setCore, State.settleCore_end rfl rfl ?_ ?_ ?_ hx hr hfits]
  · rfl
  · exact (s.issued_frame c.val 0x01 w).1.noTrapEnds htrap
  · exact (s.issued_quiet ..).trans hquiet
  · exact (congrArg _ (s.issued_ctx ..)).trans hctx

theorem exec_xld_loads {off : Nat} (hoff : off = (xGet (s.core c.val).x (fld w 80 4) + BitVec.ofNat 64 (fld w 0 48)).toNat)
    (halign : off % 8 = 0) (h : s.Issues c.val 0x10 w) (hl : cLegal w = true) (hscratch : s.scratchOk c.val off 8 = true)
    (hgood : s.good (coreWin c.val + off) 8 = true) (hfits : (s.issued c.val 0x10 w).SignalFits w) :
    exec (.xld c w) s = .next (s.setCore c.val (Core.signalled { s.issued c.val 0x10 w with
      x := xSet (s.core c.val).x (fld w 84 4) (BitVec.ofNat 64 (s.readNat (coreWin c.val + off) 8)) } w s.now)) := by
  have hexec : exec (.xld c w) s = .next (s.issueSeq c.val 0x10 w (cLegal w) (runXld c.val)) := rfl
  have hxa : (s.setCore c.val (s.issued c.val 0x10 w)).xa c.val (s.issueEntry c.val 0x10 w) = xGet (s.core c.val).x (fld w 80 4) := by
    rw [State.xa, State.setCore_core_same, s.issued_x]
    rfl
  rw [hexec, h.issueSeq hl, runXld_loads (by rw [hxa]; exact hoff) halign
    ((State.scratchOk_setCore (s.issued_segOn ..) off 8).trans hscratch) hgood, State.setXd_setCore, s.issued_x]
  exact congrArg _ (s.signal_issued h hfits)

end

/-- Settles O4, instruction by instruction. -/
theorem sequencerInstructionsComplete : Obligations.SequencerInstructionsComplete := by
  unfold Obligations.SequencerInstructionsComplete
  refine fun s c w => ⟨exec_nop_completes, fun x => exec_ppoint_completes, ?_, fun off => exec_xld_loads⟩
  intro id x h hl hquiet htrap hctx hx hr hfits
  exact exec_end_ends h hl hquiet (by rw [Core.NoTrapEnds, htrap]; rfl) hctx hx hr hfits

end Sys2Proof.Machine
end

section
/-! PROOFS. Barriers and waits: SYNC, WAIT and the waits on a flag (R199, R212, R213, R217). -/

namespace Sys2Proof.Machine

/-! ### SYNC (R217) -/

/-- What SYNC does at issue, on a quiet core and on any other. -/
theorem runSync_issued {s : State} {c : Nat} {w : InstrWord} (h : s.Issues c 0x1A w) (htrap : (s.core c).NoTrapEnds) :
    runSync c (s.issueEntry c 0x1A w) (s.setCore c (s.issued c 0x1A w)) =
      if (s.core c).quiet then (s.executing c 0x1A w).signal c (s.issueEntry c 0x1A w)
      else s.setCore c ((s.issued c 0x1A w).withSeq (.barrier (s.issueEntry c 0x1A w))) := by
  obtain ⟨id, hid⟩ := Option.isSome_iff_exists.mp h.ctx
  have hsettle := State.settleCore_barrier (s := s) (c := c) (k := (s.issued c 0x1A w).withSeq (.barrier (s.issueEntry c 0x1A w))) rfl
    ((s.issued_frame c 0x1A w).1.noTrapEnds htrap) (congrArg _ hid)
  have hgoes : ((s.issued c 0x1A w).withSeq (.barrier (s.issueEntry c 0x1A w))).withSeq .running = s.issued c 0x1A w :=
    h.issued_running
  rw [hgoes] at hsettle
  rw [runSync, State.modCore_setCore, ← s.issued_quiet]
  exact hsettle

/-- Settles O5: SYNC stands at the barrier, where a quiet core completes it. -/
theorem syncWaitsForQuietCore : Obligations.SyncWaitsForQuietCore := by
  unfold Obligations.SyncWaitsForQuietCore
  intro s c w h hl htrap
  have hexec : exec (.sync c w) s = .next (s.issueSeq c.val 0x1A w (headerOk w) (runSync c.val)) := rfl
  rw [hexec, h.issueSeq hl, runSync_issued h htrap]
  refine ⟨fun hquiet hfits => ?_, fun hbusy => ⟨s.issueEntry c.val 0x1A w, ?_, rfl⟩⟩
  · rw [if_pos hquiet, State.executing, State.signal_setCore_completes h.ctx hfits]
    rfl
  · rw [hbusy, if_neg Bool.false_ne_true]
    rfl

/-! ### A context of which no save is asked (R213, R219) -/

/-- The context of core `c` is `x`, runs, and no pre-emption is asked of it. -/
structure State.Unasked (s : State) (c : Nat) (x : Context) : Prop where
  context : (s.ctxOf c).bind s.ctx? = some x
  preempt : x.preempt = none
  running : x.state = .running

/-- A core at no barrier but that of a WAIT or WAITM. -/
def Core.OnlyWaits (k : Core) : Prop := ∀ b, k.seq = .barrier b → b.op = 0x18 ∨ b.op = 0x19

theorem State.Unasked.setCore {s : State} {c : Nat} {x : Context} (h : s.Unasked c x) {k : Core} (hk : k.ctx = (s.core c).ctx) :
    (s.setCore c k).Unasked c x := ⟨(State.context_setCore hk).trans h.context, h.preempt, h.running⟩

theorem State.trySave_unasked {s : State} {id : Nat} {x : Context} (hx : s.ctx? id = some x) (hp : x.preempt = none)
    (hr : x.state = .running) : s.trySave id = s := by
  have hcore : ∀ c, s.trySaveCore id c x = s := fun c => by
    unfold State.trySaveCore
    exact if_pos (by rw [hp]; simp)
  rw [State.trySave, hx]
  dsimp only
  rw [List.foldl_fixed' hcore, State.endSave, hx]
  exact if_neg (by simp [hr])

/-- Where no save is asked nothing follows on a core that waits. -/
theorem State.Unasked.settleCore {s : State} {c : Nat} {x : Context} (h : s.Unasked c x) (htrap : (s.core c).NoTrapEnds)
    (hwaits : (s.core c).OnlyWaits) : s.settleCore c = s := by
  unfold State.settleCore
  rw [State.trapHalt_none _ _ htrap]
  dsimp only
  split
  · next q id hseq hid =>
    have hx : s.ctx? id = some x := by rw [← h.context, hid]; rfl
    rw [State.trySave_unasked hx h.preempt h.running]
    rcases hwaits q hseq with hop | hop
    · rw [hop]; rfl
    · rw [hop]; rfl
  · rfl

/-- The barrier of an instruction that has ended is lifted. -/
theorem State.Unasked.endBarrier {s : State} {c : Nat} {x : Context} (h : s.Unasked c x) {q : QEntry}
    (hpark : (s.core c).noPark = none)
    (hseq : (s.core c).seq = .running ∨ ∃ b, (s.core c).seq = .barrier b ∧ b.no = q.no) (hheld : s.HoldsCore c) :
    s.endBarrier c q = s.setCore c ((s.core c).withSeq .running) := by
  have hgoes : ({ s.core c with seq := .running, noPark := none } : Core) = (s.core c).withSeq .running := by
    rw [← hpark]
    rfl
  unfold State.endBarrier
  dsimp only
  rcases hseq with hseq | ⟨b, hseq, hno⟩
  · rw [Core.withSeq_self hseq, hseq]
    exact hheld.symm
  · rw [hseq, h.context]
    dsimp only
    rw [if_pos hno, h.preempt, if_neg (by simp), hgoes]

theorem State.endBarrier_running {s : State} {c : Nat} (q : QEntry) (h : (s.core c).seq = .running) : s.endBarrier c q = s := by
  unfold State.endBarrier
  dsimp only
  rw [h]

/-- A signal changes flags only. -/
theorem Core.signalled_eq (k : Core) (w : InstrWord) (now : W64) :
    k.signalled w now = { k with f := (k.signalled w now).f, flagAt := (k.signalled w now).flagAt } := by
  unfold Core.signalled
  split
  · rfl
  · rfl

/-- An instruction that ends completes and lets issue go on. -/
theorem State.Unasked.signal_endBarrier {s : State} {c : Nat} {x : Context} {k : Core} {q : QEntry} (h : s.Unasked c x)
    (hk : k.ctx = (s.core c).ctx) (hctx : k.ctx.isSome = true) (hpark : k.noPark = none)
    (hseq : k.seq = .running ∨ ∃ b, k.seq = .barrier b ∧ b.no = q.no) (hfits : k.SignalFits q.w) :
    ((s.setCore c k).signal c q).endBarrier c q = (s.setCore c (k.withSeq .running)).completed c q.w := by
  have hunasked : (s.setCore c (k.signalled q.w s.now)).Unasked c x := h.setCore (by rw [k.signalled_eq]; exact hk)
  rw [State.signal_setCore _ _ _ _ hctx hfits, hunasked.endBarrier, State.completed, State.modCore_setCore,
    Core.signalled_withSeq, State.setCore_core_same, State.setCore_setCore]
  · rfl
  · rw [State.setCore_core_same, k.signalled_eq]; exact hpark
  · rw [State.setCore_core_same, k.signalled_eq]; exact hseq
  · exact State.holdsCore_setCore_same ..

/-! ### The head of a queue (R155, R212) -/

theorem Core.noTrapEnds_setQueue (k : Core) (e : Engine) (l : List QEntry) : (k.setQueue e l).NoTrapEnds ↔ k.NoTrapEnds := by
  cases e <;> exact Iff.rfl

theorem Core.noTrapEnds_takeWait (k : Core) (q : QEntry) : (k.takeWait q).NoTrapEnds ↔ k.NoTrapEnds := by
  unfold Core.takeWait
  split
  · exact Iff.rfl
  · exact Iff.rfl

theorem Core.pop_single {k : Core} {e : Engine} {q : QEntry} (h : k.queue e = [q]) (now : W64) : k.pop e now = k.setQueue e [] := by
  unfold Core.pop
  rw [h]
  rfl

/-- WAIT and WAITM wait for their flag only. -/
theorem State.headReady_wait {s : State} {c : Nat} {q : QEntry} (h : q.op = 0x18 ∨ q.op = 0x19) :
    s.headReady c q = (s.core c).waitOk q := by
  unfold State.headReady
  rcases h with h | h
  · rw [h]; exact Bool.and_true _
  · rw [h]; exact Bool.and_true _

section
variable {s : State} {c : Nat} {e : Engine} {q : QEntry}

/-- A queue whose head cannot execute stays. -/
theorem State.turn_held (hqueue : (s.core c).queue e = [q]) (hready : s.headReady c q = false) :
    s.turn c e = s.settleCore c := by
  rw [State.turn, State.pump_succ, hqueue, List.head?_cons]
  dsimp only
  rw [hready, if_neg Bool.false_ne_true]

/-- A WAIT whose flag suffices leaves its queue, and nothing follows on an idle core. -/
theorem State.turn_wait {u : State} (hqueue : (s.core c).queue e = [q]) (hop : q.op = 0x18) (hok : (s.core c).waitOk q = true)
    (hu : ((s.setCore c (((s.core c).takeWait q).setQueue e [])).signal c q).endBarrier c q = u)
    (hidle : (u.core c).EngineIdle e) : s.turn c e = u := by
  have hpopped : (s.modCore c (fun k => k.takeWait q)).modCore c (fun k => k.pop e s.now) =
      s.setCore c (((s.core c).takeWait q).setQueue e []) := by
    have htaken : s.modCore c (fun k => k.takeWait q) = s.setCore c ((s.core c).takeWait q) := rfl
    rw [htaken, State.modCore_setCore, Core.pop_single (by rw [Core.queue_takeWait, hqueue])]
  have hhead : State.headEffect (s.setCore c (((s.core c).takeWait q).setQueue e [])) c q = u := by
    unfold State.headEffect
    rw [hop]
    exact hu
  rw [State.turn, State.pump_succ, hqueue, List.head?_cons]
  dsimp only
  rw [State.headReady_wait (.inl hop), hok, if_pos rfl, State.runHead_eq _ _ _ _ (by rw [hop]; decide), hpopped, hhead]
  exact State.turns_engineIdle hidle 8

end

/-! ### An instruction that enters an empty queue (R199, R213) -/

theorem engOf_ne_seq (w : InstrWord) : engOf w ≠ .seq := by
  have hget : ∀ n, [Engine.matrix, .vector, .gate, .dma].getD n .dma ≠ .seq
    | 0 => by decide
    | 1 => by decide
    | 2 => by decide
    | 3 => by decide
    | n + 4 => by rw [List.getD_eq_default _ _ (by simp)]; decide
  exact hget _

/-- The core with an instruction in an empty queue: the sequencer is past it, or stops behind it. -/
def State.enqueued (s : State) (c op : Nat) (w : InstrWord) (e : Engine) (barrier : Bool) : Core :=
  ((s.core c).advance.setQueue e [s.issueEntry c op w]).withSeq (if barrier then .barrier (s.issueEntry c op w) else .running)

theorem State.enqueued_frame (s : State) (c op : Nat) (w : InstrWord) (e : Engine) (barrier : Bool) :
    (s.enqueued c op w e barrier).pc = (s.core c).pc + 1 ∧ (s.enqueued c op w e barrier).f = (s.core c).f ∧
    (s.enqueued c op w e barrier).x = (s.core c).x := by cases e <;> exact ⟨rfl, rfl, rfl⟩

section
variable {s : State} {c op : Nat} {w : InstrWord} {e : Engine} {barrier : Bool}

theorem State.enqueued_queue (he : e ≠ .seq) : (s.enqueued c op w e barrier).queue e = [s.issueEntry c op w] := by
  rw [State.enqueued, Core.queue_withSeq, Core.queue_setQueue _ _ _ he]

theorem State.enqueued_ctx : (s.enqueued c op w e barrier).ctx = (s.core c).ctx := by cases e <;> rfl

theorem State.enqueued_noTrapEnds : (s.enqueued c op w e barrier).NoTrapEnds ↔ (s.core c).NoTrapEnds := by
  cases e <;> exact Iff.rfl

theorem State.enqueued_onlyWaits (hop : op = 0x18 ∨ op = 0x19) : (s.enqueued c op w e barrier).OnlyWaits := by
  intro b hb
  cases barrier with
  | true => cases hb; exact hop
  | false => cases hb

/-- The sequencer goes on unless the instruction is a barrier. -/
theorem State.enqueued_issuing (h : (s.core c).issuing = true) : (s.enqueued c op w e barrier).issuing = !barrier := by
  rw [Core.issuing, State.enqueued_ctx, (Core.issuing_iff.mp h).2, Bool.and_true]
  cases barrier with
  | true => rfl
  | false => rfl

theorem State.issueTo_enqueued (he : e ≠ .seq) (h : (s.core c).issuing = true) (hqueue : (s.core c).queue e = []) :
    s.issueTo c op w e true barrier = (s.setCore c (s.enqueued c op w e barrier)).turn c e := by
  have hseq : ((s.core c).advance.setQueue e [s.issueEntry c op w]).seq = .running :=
    (Core.seq_setQueue ..).trans (Core.issuing_iff.mp h).1
  have hcore : (if barrier then { (s.core c).advance.setQueue e [s.issueEntry c op w] with seq := .barrier (s.issueEntry c op w) }
      else (s.core c).advance.setQueue e [s.issueEntry c op w]) = s.enqueued c op w e barrier := by
    unfold State.enqueued
    cases barrier with
    | true => rfl
    | false => rw [if_neg Bool.false_ne_true, if_neg Bool.false_ne_true, ← hseq]; rfl
  unfold State.issueTo
  dsimp only
  rw [h, hqueue, List.nil_append, hcore, if_neg (by decide), if_neg (by decide), if_neg (by decide)]
  exact if_pos (by rw [State.enqueued_queue he]; rfl)

/-- Once its wait is taken the core is past the instruction, which still stands in its queue. -/
theorem State.enqueued_takeWait : (s.enqueued c op w e barrier).takeWait (s.issueEntry c op w) =
    ((s.issued c op w).setQueue e [s.issueEntry c op w]).withSeq (s.enqueued c op w e barrier).seq := by
  rw [State.enqueued, Core.takeWait_withSeq, Core.takeWait_setQueue, Core.takeWait_advance]
  rfl

/-- An instruction in its queue does not wait for itself. -/
theorem State.enqueued_waitOk (h : (s.core c).issuing = true) (hqueue : (s.core c).queue e = []) :
    (s.enqueued c op w e barrier).waitOk (s.issueEntry c op w) = (s.core c).waitOk (s.issueEntry c op w) := by
  have hseq : ((s.core c).advance.setQueue e [s.issueEntry c op w]).seq = .running :=
    (Core.seq_setQueue ..).trans (Core.issuing_iff.mp h).1
  rw [← Core.waitOk_head hqueue, State.enqueued]
  unfold Core.waitOk Core.heads Core.withSeq
  rw [hseq]
  cases barrier with
  | true => rfl
  | false => rfl

end

/-! ### WAIT (R213) -/

theorem exec_wait_enqueues {s : State} {c : Fin 1536} {w : InstrWord} (h : (s.core c.val).issuing = true) (hl : headerOk w = true)
    (hqueue : (s.core c.val).queue (engOf w) = []) :
    exec (.wait c w) s = .next ((s.setCore c.val (s.enqueued c.val 0x18 w (engOf w) (lsdOf w != 0))).turn c.val (engOf w)) := by
  have hexec : exec (.wait c w) s = .next (s.issueTo c.val 0x18 w (engOf w) (headerOk w) (lsdOf w != 0)) := rfl
  rw [hexec, hl, State.issueTo_enqueued (engOf_ne_seq w) h hqueue]

theorem exec_waitSatisfied_engine {e : Engine} (he : e ≠ .seq) (c : Fin 1536) (s : State) :
    exec (.waitSatisfied c e) s = .next (s.turn c.val e) := by
  cases e with
  | seq => exact absurd rfl he
  | matrix | vector | gate | dma => rfl

section
variable {s : State} {c op : Nat} {w : InstrWord} {e : Engine} {barrier : Bool} {x : Context}

/-- An unsatisfied WAIT stays at the head of its queue. -/
theorem State.Unasked.turn_unsatisfied (h : s.Unasked c x) (hissuing : (s.core c).issuing = true) (he : e ≠ .seq)
    (hqueue : (s.core c).queue e = []) (htrap : (s.core c).NoTrapEnds)
    (hwait : (s.core c).waitOk (s.issueEntry c 0x18 w) = false) :
    (s.setCore c (s.enqueued c 0x18 w e barrier)).turn c e = s.setCore c (s.enqueued c 0x18 w e barrier) := by
  rw [State.turn_held (q := s.issueEntry c 0x18 w)]
  · refine (h.setCore (State.enqueued_ctx ..)).settleCore ?_ ?_
    · rw [State.setCore_core_same]
      exact State.enqueued_noTrapEnds.mpr htrap
    · rw [State.setCore_core_same]
      exact State.enqueued_onlyWaits (.inl rfl)
  · rw [State.setCore_core_same, State.enqueued_queue he]
  · rw [State.headReady_wait (.inl rfl), State.setCore_core_same, State.enqueued_waitOk hissuing hqueue, hwait]

/-- A satisfied WAIT completes at once, whatever its live set. -/
theorem State.Unasked.turn_satisfied (h : s.Unasked c x) (hissues : s.IssuesTo c 0x18 w e) (he : e ≠ .seq)
    (hpark : (s.core c).noPark = none) (hfits : (s.issued c 0x18 w).SignalFits w) :
    (s.setCore c (s.enqueued c 0x18 w e barrier)).turn c e = (s.executing c 0x18 w).completed c w := by
  have htaken : ((s.enqueued c 0x18 w e barrier).takeWait (s.issueEntry c 0x18 w)).setQueue e [] =
      (s.issued c 0x18 w).withSeq (s.enqueued c 0x18 w e barrier).seq := by
    rw [State.enqueued_takeWait, Core.setQueue_withSeq, Core.setQueue_setQueue, ← hissues.issuedIdle.queue, Core.setQueue_self]
  have hrunning : (s.issued c 0x18 w).withSeq .running = s.issued c 0x18 w := hissues.1.issued_running
  refine State.turn_wait (q := s.issueEntry c 0x18 w) ?_ rfl ?_ ?_ (State.completed_idle ?_ w)
  · rw [State.setCore_core_same, State.enqueued_queue he]
  · rw [State.setCore_core_same, State.enqueued_waitOk hissues.1.1 hissues.engineIdle.queue]
    exact hissues.1.2
  · rw [State.setCore_core_same, State.setCore_setCore, htaken, h.signal_endBarrier]
    · exact congrArg (fun k => (s.setCore c k).completed c w) hrunning
    · exact s.issued_ctx ..
    · exact hissues.1.ctx
    · exact (congrArg Core.noPark (s.issued_eq ..)).trans hpark
    · cases barrier with
      | true => exact .inr ⟨_, rfl, rfl⟩
      | false => exact .inl rfl
    · exact hfits
  · rw [State.executing_core]
    exact hissues.issuedIdle

end

/-- Settles O8: the WAIT in its queue waits for its flag; its barrier stands exactly while it is there with a live set. -/
theorem waitOccupiesItsQueueUntilSatisfied : Obligations.WaitOccupiesItsQueueUntilSatisfied := by
  unfold Obligations.WaitOccupiesItsQueueUntilSatisfied
  intro s c w x hissuing hl hqueue htrap hpark hcontext hpreempt hrunning
  have hunasked : s.Unasked c.val x := ⟨hcontext, hpreempt, hrunning⟩
  have he := engOf_ne_seq w
  rw [exec_wait_enqueues hissuing hl hqueue]
  refine ⟨fun hwait => ?_, fun hok hfits => ?_⟩
  · have hturn := hunasked.turn_unsatisfied (barrier := lsdOf w != 0) hissuing he hqueue htrap hwait
    obtain ⟨hpc, hf, hx⟩ := s.enqueued_frame c.val 0x18 w (engOf w) (lsdOf w != 0)
    refine ⟨_, congrArg _ hturn, State.enqueued_queue he, ?_, hpc, hf, hx, ?_⟩
    · rw [State.enqueued_issuing hissuing, bne, Bool.not_not]
    · rw [exec_waitSatisfied_engine he, hturn]
  · exact congrArg _ (hunasked.turn_satisfied ⟨⟨hissuing, hok⟩, hqueue, htrap⟩ he hpark hfits)

/-! ### WAIT_SATISFIED (R212, R213) -/

section
variable {s : State} {c : Fin 1536} {q : QEntry}

/-- A WAIT at the head of a queue takes its count and completes; the sequencer was running and goes on (R213). -/
theorem exec_waitSatisfied_wait {e : Engine} (hctx : (s.core c.val).ctx.isSome = true) (htrap : (s.core c.val).NoTrapEnds)
    (hok : (s.core c.val).waitOk q = true) (he : e ≠ .seq) (hqueue : (s.core c.val).queue e = [q]) (hop : q.op = 0x18)
    (hseq : (s.core c.val).seq = .running) (hfits : (((s.core c.val).takeWait q).setQueue e []).SignalFits q.w) :
    exec (.waitSatisfied c e) s =
      .next ((s.setCore c.val (((s.core c.val).takeWait q).setQueue e [])).completed c.val q.w) := by
  have hidle : (((s.core c.val).takeWait q).setQueue e []).EngineIdle e := by
    refine ⟨?_, Core.queue_setQueue _ _ _ he, ?_⟩
    · rw [Core.seq_setQueue, Core.takeWait_seq, hseq]
    · rw [Core.noTrapEnds_setQueue, Core.noTrapEnds_takeWait]; exact htrap
  have hcompleted := State.completed_idle (s := s.setCore c.val (((s.core c.val).takeWait q).setQueue e [])) (c := c.val) (e := e)
    (by rwa [State.setCore_core_same]) q.w
  rw [exec_waitSatisfied_engine he, State.turn_wait hqueue hop hok ?_ hcompleted]
  rw [State.signal_setCore_completes (by rw [Core.ctx_setQueue, Core.takeWait_ctx]; exact hctx) hfits]
  exact State.endBarrier_running _ hcompleted.seq

/-- The sequencer's own instruction takes its count and runs (R199). -/
theorem exec_waitSatisfied_header (hseq : (s.core c.val).seq = .waitHdr q) (hok : (s.core c.val).waitOk q = true) :
    exec (.waitSatisfied c .seq) s =
      .next (runSeq c.val q (s.setCore c.val { (s.core c.val).takeWait q with seq := .running })) := by
  have hexec : exec (.waitSatisfied c .seq) s = execWaitSatisfied c .seq s := rfl
  rw [hexec, execWaitSatisfied]
  dsimp only
  rw [hseq]
  exact if_pos hok

theorem runSeq_nop {q : QEntry} (h : q.op = 0x00) (c : Nat) (s : State) : runSeq c q s = s.signal c q := by
  unfold runSeq
  rw [h]
  rfl

end

/-- Settles O9: the WAIT at a queue's head by the turn of its queue, the sequencer's instruction by its run. -/
theorem heldInstructionExecutesWhenFlagSuffices : Obligations.HeldInstructionExecutesWhenFlagSuffices := by
  unfold Obligations.HeldInstructionExecutesWhenFlagSuffices
  refine fun s c q hctx htrap hok => ⟨fun e => exec_waitSatisfied_wait hctx htrap hok, fun hseq =>
    ⟨exec_waitSatisfied_header hseq hok, fun hop hfits => ?_⟩⟩
  have hctx' : ((s.core c.val).takeWait q).ctx.isSome = true := by rw [Core.takeWait_ctx]; exact hctx
  rw [exec_waitSatisfied_header hseq hok, runSeq_nop hop]
  exact congrArg _ (State.signal_setCore_completes (k := { (s.core c.val).takeWait q with seq := .running }) hctx' hfits)

end Sys2Proof.Machine
end

section
/-! PROOFS. WAITM waits for a word of memory (R214). -/

namespace Sys2Proof.Machine

/-! ### A header wait that has been served -/

theorem wcnt_clearWait (w : InstrWord) : wcnt (clearWait w) = 0 := by
  have hzero : fld (clearWait w) 101 3 = bits 0 101 3 := bits_congr fun i hi => by
    rw [clearWait, BitVec.testBit_toNat, BitVec.getLsbD_and, BitVec.getLsbD_not, BitVec.getLsbD_ofNat, Nat.zero_testBit]
    have hbits : ∀ i < 3, Nat.testBit (7 * 2 ^ 101) (101 + i) = true := by decide
    rw [hbits i hi, Bool.and_true, decide_eq_true (by omega)]
    exact Bool.and_false _
  exact hzero

/-- An instruction without a header wait takes no count. -/
theorem Core.takeWait_none {q : QEntry} (h : wcnt q.w = 0) (k : Core) : k.takeWait q = k := if_pos h

theorem Core.waitOk_none {q : QEntry} (h : wcnt q.w = 0) (k : Core) : k.waitOk q = true := by
  rw [Core.waitOk, h]
  rfl

/-! ### The word compared -/

/-- WAITM `q`, its header wait served, alone in queue `e` of core `c`, which is `k` but for that queue; it reads `v`. The
context's pre-emption is not asked for, the sequencer runs or stands behind this WAITM. -/
structure State.WaitsForWord (s : State) (c : Nat) (e : Engine) (q : QEntry) (k : Core) (x : Context) (p n : Nat) (v : W64) :
    Prop where
  unasked : s.Unasked c x
  engine : e ≠ .seq
  pass : (s.setCore c (k.setQueue e [q])).passOf c = some (p, n)
  word : (s.setCore c (k.setQueue e [q])).waitmRead p q = .word v
  ctx : k.ctx = (s.core c).ctx
  runs : k.ctx.isSome = true
  noTrap : k.NoTrapEnds
  noPark : k.noPark = none
  fits : k.SignalFits q.w
  seq : k.seq = .running ∨ ∃ b, k.seq = .barrier b ∧ b.no = q.no ∧ b.op = 0x19

section
variable {s : State} {c : Nat} {e : Engine} {q : QEntry} {k : Core} {x : Context} {p n : Nat} {v : W64}

/-- Nothing follows on the core while the WAITM waits. -/
theorem State.WaitsForWord.settleCore (h : s.WaitsForWord c e q k x p n v) :
    (s.setCore c (k.setQueue e [q])).settleCore c = s.setCore c (k.setQueue e [q]) := by
  refine (h.unasked.setCore (by rw [Core.ctx_setQueue, h.ctx])).settleCore ?_ ?_
  · rw [State.setCore_core_same, Core.noTrapEnds_setQueue]
    exact h.noTrap
  · rw [State.setCore_core_same]
    intro b hb
    rw [Core.seq_setQueue] at hb
    rcases h.seq with hseq | ⟨d, hseq, -, hop⟩
    · rw [hseq] at hb; cases hb
    · rw [hseq] at hb; cases hb; exact .inr hop

/-- The WAITM completes where the comparison holds, and keeps the head of its queue where it does not. -/
theorem State.WaitsForWord.tryWaitm (h : s.WaitsForWord c e q k x p n v) :
    (s.setCore c (k.setQueue e [q])).tryWaitm c e q =
      if wmHolds q v then (true, (s.setCore c ((k.setQueue e []).withSeq .running)).completed c q.w)
      else (false, s.setCore c (k.setQueue e [q])) := by
  have hpop : (k.setQueue e [q]).pop e s.now = k.setQueue e [] := by
    rw [Core.pop_single (Core.queue_setQueue _ _ _ h.engine), Core.setQueue_setQueue]
  have hflags : (k.setQueue e []).SignalFits q.w := by
    have hfits := h.fits
    cases e <;> exact hfits
  have hends : ((s.setCore c (k.setQueue e [])).signal c q).endBarrier c q =
      (s.setCore c ((k.setQueue e []).withSeq .running)).completed c q.w := by
    refine h.unasked.signal_endBarrier ?_ ?_ ?_ ?_ hflags
    · rw [Core.ctx_setQueue, h.ctx]
    · rw [Core.ctx_setQueue, h.runs]
    · have hpark := h.noPark
      cases e <;> exact hpark
    · rw [Core.seq_setQueue]
      exact h.seq.imp id fun ⟨b, hseq, hno, _⟩ => ⟨b, hseq, hno⟩
  unfold State.tryWaitm
  rw [h.pass]
  dsimp only
  rw [h.word]
  dsimp only
  rw [State.modCore_setCore, State.setCore_now, hpop, hends]

/-- The core once the WAITM has completed. -/
theorem State.WaitsForWord.completed_idle (h : s.WaitsForWord c e q k x p n v) :
    (((s.setCore c ((k.setQueue e []).withSeq .running)).completed c q.w).core c).EngineIdle e := by
  refine State.completed_idle ?_ q.w
  rw [State.setCore_core_same]
  refine ⟨rfl, ?_, ?_⟩
  · rw [Core.queue_withSeq, Core.queue_setQueue _ _ _ h.engine]
  · exact (Core.noTrapEnds_setQueue k e []).mpr h.noTrap

/-- The turn of a queue with a WAITM that comes to wait as `q` once its header wait is served. -/
theorem State.WaitsForWord.turn (h : s.WaitsForWord c e q k x p n v) {l : Core} {q₀ : QEntry} (hqueue : l.queue e = [q₀])
    (hop : q₀.op = 0x19) (hok : l.waitOk q₀ = true) (hq : { q₀ with w := clearWait q₀.w } = q)
    (hserved : (l.takeWait q₀).setQueue e [q] = k.setQueue e [q]) :
    (s.setCore c l).turn c e =
      if wmHolds q v then (s.setCore c ((k.setQueue e []).withSeq .running)).completed c q.w
      else s.setCore c (k.setQueue e [q]) := by
  have hrun : (s.setCore c l).runHead c e q₀ = (s.setCore c (k.setQueue e [q])).tryWaitm c e q := by
    unfold State.runHead
    dsimp only
    rw [if_pos hop, hq, State.modCore_setCore, State.modCore_setCore, Core.queue_takeWait, hqueue, List.tail_cons, hserved]
  rw [State.turn, State.pump_succ, State.setCore_core_same, hqueue, List.head?_cons]
  dsimp only
  rw [State.headReady_wait (.inr hop), State.setCore_core_same, hok, if_pos rfl, hrun, h.tryWaitm]
  cases wmHolds q v with
  | true => exact State.turns_engineIdle h.completed_idle 8
  | false =>
    have htrap : ((s.setCore c (k.setQueue e [q])).core c).NoTrapEnds := by
      rw [State.setCore_core_same, Core.noTrapEnds_setQueue]
      exact h.noTrap
    exact (congrArg (·.settleCore c) (State.trapHalt_none _ _ htrap)).trans h.settleCore

end

/-! ### WAITM and WAITM_REREAD -/

section
variable {s : State} {c : Fin 1536} {e : Engine} {q : QEntry} {k : Core} {x : Context} {p n : Nat} {v : W64}

theorem exec_waitmReread_turn {t : State} (hqueue : (t.core c.val).queue e = [q]) (hop : q.op = 0x19) :
    exec (.waitmReread c e) t = .next (t.turn c.val e) := by
  have hexec : exec (.waitmReread c e) t = execWaitmReread c e t := rfl
  rw [hexec, execWaitmReread, hqueue, List.head?_cons]
  exact if_pos hop

theorem State.WaitsForWord.exec_reread (h : s.WaitsForWord c.val e q k x p n v) (hop : q.op = 0x19) (hserved : q.w = clearWait q.w) :
    exec (.waitmReread c e) (s.setCore c.val (k.setQueue e [q])) = .next (if wmHolds q v then
      (s.setCore c.val ((k.setQueue e []).withSeq .running)).completed c.val q.w else s.setCore c.val (k.setQueue e [q])) := by
  have hqueue : (k.setQueue e [q]).queue e = [q] := Core.queue_setQueue _ _ _ h.engine
  have hnone : wcnt q.w = 0 := by rw [hserved]; exact wcnt_clearWait q.w
  rw [exec_waitmReread_turn (by rw [State.setCore_core_same]; exact hqueue) hop,
    h.turn hqueue hop (Core.waitOk_none hnone _) (by rw [← hserved])]
  rw [Core.takeWait_none hnone, Core.setQueue_setQueue]

theorem State.WaitsForWord.exec_waitm {w : InstrWord} (h : s.WaitsForWord c.val e q k x p n v) (he : e = engOf w)
    (hissues : s.IssuesTo c.val 0x19 w e) (hl : waitmLegal w = true) (hq : q = { s.issueEntry c.val 0x19 w with w := clearWait w })
    (hk : k = { s.issued c.val 0x19 w with
      seq := if lsdOf w = 0 then .running else .barrier (s.issueEntry c.val 0x19 w) }) :
    exec (.waitm c w) s = .next (if wmHolds q v then
      (s.setCore c.val ((k.setQueue e []).withSeq .running)).completed c.val q.w else s.setCore c.val (k.setQueue e [q])) := by
  have hexec : exec (.waitm c w) s = .next (s.issueTo c.val 0x19 w (engOf w) (waitmLegal w) (lsdOf w != 0)) := rfl
  have hseq : (s.enqueued c.val 0x19 w e (lsdOf w != 0)).seq =
      if lsdOf w = 0 then .running else .barrier (s.issueEntry c.val 0x19 w) := by
    by_cases hlsd : lsdOf w = 0
    · rw [if_pos hlsd, hlsd]; rfl
    · rw [if_neg hlsd, State.enqueued, bne_iff_ne.mpr hlsd]; rfl
  rw [hexec, hl, ← he, State.issueTo_enqueued h.engine hissues.1.1 hissues.engineIdle.queue,
    h.turn (State.enqueued_queue h.engine) rfl ?_ hq.symm ?_]
  · rw [State.enqueued_waitOk hissues.1.1 hissues.engineIdle.queue]
    exact hissues.1.2
  · rw [State.enqueued_takeWait, Core.setQueue_withSeq, Core.setQueue_setQueue, hseq, hk]
    exact (Core.setQueue_withSeq ..).symm

end

/-- Settles O10: at issue and at each re-read the queue's turn comes to the same WAITM, whose comparison decides. -/
theorem waitmCompletesWhenWordCompares : Obligations.WaitmCompletesWhenWordCompares := by
  unfold Obligations.WaitmCompletesWhenWordCompares
  intro s c x e q k p n v hcontext hpreempt hrunning he t ht hpass hword hctx hruns htrap hpark hop hserved hfits hseq
  subst ht
  have h : s.WaitsForWord c.val e q k x p n v :=
    ⟨⟨hcontext, hpreempt, hrunning⟩, he, hpass, hword, hctx, hruns, htrap, hpark, hfits, hseq⟩
  refine ⟨⟨fun hv => ?_, fun hv => ?_⟩, fun w heng hissues hl hq hk => ⟨fun hv => ?_, fun hv => ?_⟩⟩
  · rw [h.exec_reread hop hserved, if_pos hv]; rfl
  · rw [h.exec_reread hop hserved, hv]; rfl
  · rw [h.exec_waitm heng hissues hl hq hk, if_pos hv]; rfl
  · rw [h.exec_waitm heng hissues hl hq hk, hv]; rfl

end Sys2Proof.Machine
end

section
/-! PROOFS. FSIG signals a core of its context behind earlier moves (R212, R215). -/

namespace Sys2Proof.Machine

/-- FSIG waits for its flag, then for every DMOV of its core to the target's scratch. -/
theorem State.headReady_fsig {s : State} {c : Nat} {q : QEntry} (hop : q.op = 0x1C) (hok : (s.core c).waitOk q = true) :
    s.headReady c q = s.fsigReady c q := by
  unfold State.headReady
  dsimp only
  rw [hop, hok]
  exact Bool.true_and _

/-- The DMOVs of a core are those that it issued, whatever its queues hold. -/
theorem State.fsigReady_setCore {s : State} {c : Nat} {k : Core} (hk : k.dma = (s.core c).dma) (q : QEntry) :
    (s.setCore c k).fsigReady c q = s.fsigReady c q := by
  unfold State.fsigReady
  rw [State.setCore_core_same, hk]
  rfl

/-- A flag of a core of the context is raised, and the FSIG completes. -/
theorem State.runFsig_raises {s : State} {c : Nat} {q : QEntry} {id : BitVec 16} {x : Context} (hheld : s.HoldsCore c)
    (hctx : (s.core c).ctx = some id) (hx : s.ctx? id.toNat = some x) (hcores : x.cores.contains (dmDfcore q.w) = true)
    (htarget : (s.core (dmDfcore q.w)).ctx = some id) (hflag : (s.core (dmDfcore q.w)).flagOf (dmDfflag q.w) < 65535)
    (hfits : ((s.raised (dmDfcore q.w) (dmDfflag q.w)).core c).SignalFits q.w) :
    s.runFsig c q = (s.raised (dmDfcore q.w) (dmDfflag q.w)).completed c q.w := by
  have hid : s.ctxOf c = some id.toNat := by rw [State.ctxOf, hctx]; rfl
  have hin : s.inContext c (dmDfcore q.w) = true := by
    rw [State.inContext, hid, Option.bind_some, hx]
    exact hcores
  have hraised : ((s.raised (dmDfcore q.w) (dmDfflag q.w)).core c).ctx.isSome = true := by
    rw [((s.raised_sameWork ..).core c).ctx, hctx]
    rfl
  unfold State.runFsig
  rw [hid]
  dsimp only
  rw [if_pos hin, State.incFlag_fits htarget hflag]
  exact State.HoldsCore.signal (hheld.setCore _ _) hraised hfits

section
variable {s : State} {c : Fin 1536} {w : InstrWord}

theorem exec_fsig_issues (hl : headerOk w = true) : exec (.fsig c w) s = .next (s.issueTo c.val 0x1C w .dma true false) := by
  have hexec : exec (.fsig c w) s = .next (s.issueTo c.val 0x1C w .dma (headerOk w) false) := rfl
  rw [hexec, hl]

/-- No earlier DMOV to the target is in flight: the flag is raised at once. -/
theorem exec_fsig_raises {id : BitVec 16} {x : Context} (h : s.IssuesTo c.val 0x1C w .dma) (hl : headerOk w = true)
    (hctx : (s.core c.val).ctx = some id) (hx : s.ctx? id.toNat = some x) (hcores : x.cores.contains (dmDfcore w) = true)
    (hready : s.fsigReady c.val (s.issueEntry c.val 0x1C w) = true)
    (htarget : ((s.executing c.val 0x1C w).core (dmDfcore w)).ctx = some id)
    (hflag : ((s.executing c.val 0x1C w).core (dmDfcore w)).flagOf (dmDfflag w) < 65535)
    (hfits : (((s.executing c.val 0x1C w).raised (dmDfcore w) (dmDfflag w)).core c.val).SignalFits w) :
    exec (.fsig c w) s = .next (((s.executing c.val 0x1C w).raised (dmDfcore w) (dmDfflag w)).completed c.val w) := by
  have hrun : (s.executing c.val 0x1C w).headEffect c.val (s.issueEntry c.val 0x1C w) =
      ((s.executing c.val 0x1C w).raised (dmDfcore w) (dmDfflag w)).completed c.val w := by
    refine State.runFsig_raises (State.holdsCore_setCore_same ..) ?_ hx hcores htarget hflag hfits
    rw [State.executing_core, s.issued_ctx, hctx]
  have hidle : (((s.executing c.val 0x1C w).raised (dmDfcore w) (dmDfflag w)).core c.val).EngineIdle .dma := by
    obtain ⟨hseq, hqueue, htrap⟩ := h.issuedIdle
    have hsame := ((s.executing c.val 0x1C w).raised_sameWork (dmDfcore w) (dmDfflag w)).core c.val
    rw [State.executing_core] at hsame
    exact ⟨hsame.seq.trans hseq, hsame.qD.trans hqueue, hsame.noTrapEnds htrap⟩
  rw [exec_fsig_issues hl, State.issueTo_executes (by decide) h (by decide) ?_ hrun
    (State.completed_idle hidle w)]
  rw [State.headReady_fsig rfl (by rw [State.setCore_core_same]; exact h.waitOk_queued), State.fsigReady_setCore, hready]
  rfl

/-- An earlier DMOV to the target is in flight: FSIG waits at the head of the DMA queue. -/
theorem exec_fsig_waits (h : s.IssuesTo c.val 0x1C w .dma) (hl : headerOk w = true)
    (hready : s.fsigReady c.val (s.issueEntry c.val 0x1C w) = false) :
    exec (.fsig c w) s = .next (s.setCore c.val { (s.core c.val).advance with qD := [s.issueEntry c.val 0x1C w] }) := by
  have hcore : s.enqueued c.val 0x1C w .dma false = { (s.core c.val).advance with qD := [s.issueEntry c.val 0x1C w] } :=
    Core.withSeq_self h.1.running
  have hidle := h.engineIdle
  rw [exec_fsig_issues hl, State.issueTo_enqueued (by decide) h.1.1 hidle.queue, State.turn_held (q := s.issueEntry c.val 0x1C w),
    State.settleCore_running, hcore]
  · rw [State.setCore_core_same]
    exact fun q hq => nomatch hq
  · rw [State.setCore_core_same]
    exact State.enqueued_noTrapEnds.mpr hidle.noTrap
  · rw [State.setCore_core_same, State.enqueued_queue (by decide)]
  · rw [State.headReady_fsig rfl, State.fsigReady_setCore (k := s.enqueued c.val 0x1C w .dma false) rfl, hready]
    rw [State.setCore_core_same, State.enqueued_waitOk h.1.1 hidle.queue]
    exact h.1.2

end

/-- Settles O11: whether a DMOV to the target is in flight decides. -/
theorem fsigSignalsAfterEarlierMoves : Obligations.FsigSignalsAfterEarlierMoves := by
  unfold Obligations.FsigSignalsAfterEarlierMoves
  refine fun s c w id x h hl hid hx hcores =>
    ⟨fun hready htarget hflag t ht hfits => ?_, fun hready => exec_fsig_waits h hl hready⟩
  obtain ⟨b, hctx, rfl⟩ := Option.map_eq_some_iff.mp hid
  subst ht
  rw [hctx] at htarget
  exact exec_fsig_raises h hl hctx hx hcores hready htarget hflag hfits

end Sys2Proof.Machine
end

section
/-! PROOFS. The management service (R303, R304, R402, R527). -/

namespace Sys2Proof.Machine

/-! ### What a first request answers and does -/

section
variable {s : State} {r : MgmtRequest}

theorem State.mgmtAct_reserved (h : r.reservedField = true) : s.mgmtAct r = (2, [], s) := if_pos h

/-- A request without a reserved encoding, by its OP. -/
theorem State.mgmtAct_assigned (h : r.reservedField = false) : s.mgmtAct r =
    if r.op = 3 then (0, [], s.ringDoorbell (Fin.ofNat 64 r.addr.toNat))
    else if r.op = 1 then
      if (r.inMailboxes || r.inControl) = true then (0, s.bus r.addr.toNat r.length.toNat, s) else (1, [], s)
    else if r.inMailboxes = true then (0, [], s.outerWrite r.addr.toNat r.data)
    else if r.inControl = true ∧ ∀ k : Nat, k < r.length.toNat / 8 → ctlWritable (r.addr.toNat - ctlBase + 8 * k) = true then
      (0, [], (List.range (r.length.toNat / 8)).foldl (fun v k =>
        v.ctlWrite (r.addr.toNat - ctlBase + 8 * k) (BitVec.ofNat 64 (le r.data (8 * k) 8)) false) s)
    else (1, [], s) := by
  rw [State.mgmtAct, if_neg (Bool.eq_false_iff.mp h)]
  have hall : (!r.inControl || !(List.range (r.length.toNat / 8)).all (fun k => ctlWritable (r.addr.toNat - ctlBase + 8 * k))) =
      !decide (r.inControl = true ∧ ∀ k : Nat, k < r.length.toNat / 8 → ctlWritable (r.addr.toNat - ctlBase + 8 * k) = true) := by
    rw [Bool.eq_iff_iff]
    simp [imp_iff_not_or]
  simp only [hall, Bool.not_eq_true', decide_eq_false_iff_not, ite_not]

end

/-! ### A request that is served -/

/-- The answers kept of the last second (R304). -/
def State.mgmtHeld (s : State) : List (BitVec 128 × BitVec 16 × W64 × Bytes) :=
  s.mgmt.answered.filter (fun e => decide (s.time < e.2.2.1.toNat + 1000000000))

/-- The answer `p` leaves and is kept with those of the last second. -/
def State.mgmtAnswer (s t : State) (r : MgmtRequest) (p : Bytes) : State :=
  ({ t with mgmt := { t.mgmt with answered := s.mgmtHeld ++ [(r.src, r.tag, s.now, p)] } }).emit (.mgmt r.src p)

theorem State.mgmtServe_unserved {s : State} {r : MgmtRequest} (h : s.dev.mode.code < 2 ∨ s.mgmt.allows r.src = false) :
    s.mgmtServe r = s := if_pos (by simpa using h)

theorem State.mgmtServe_served {s : State} {r : MgmtRequest} (hmode : 2 ≤ s.dev.mode.code) (hallow : s.mgmt.allows r.src = true) :
    s.mgmtServe r = match s.mgmtHeld.find? (fun e => e.1 == r.src && e.2.1 == r.tag) with
      | some e => ({ s with mgmt := { s.mgmt with answered := s.mgmtHeld } }).emit (.mgmt r.src e.2.2.2)
      | none => s.mgmtAnswer (s.mgmtAct r).2.2 r (mgmtPacket r (s.mgmtAct r).1 (s.mgmtAct r).2.1) := by
  rw [State.mgmtServe, if_neg (by simp [hallow]; omega)]
  rfl

/-- Each row serves the requests of its OP, MGMT_READ those of a reserved one too. -/
theorem exec_mgmt_serves {s : State} {r : MgmtRequest} {i : Instr}
    (h : i = .mgmtRead r ∧ r.op ≠ 2 ∧ r.op ≠ 3 ∨ i = .mgmtWrite r ∧ r.op = 2 ∨ i = .mgmtDoorbell r ∧ r.op = 3) :
    exec i s = .next (s.mgmtServe r) := by
  rcases h with ⟨rfl, h2, h3⟩ | ⟨rfl, h2⟩ | ⟨rfl, h3⟩
  · exact congrArg Host.Outcome.next (if_neg (by simpa using ⟨h2, h3⟩))
  · exact congrArg Host.Outcome.next (if_pos h2)
  · exact congrArg Host.Outcome.next (if_pos h3)

/-- Settles O49: a request that is served is a repeated one or acts by its OP and its range. -/
theorem managementServiceAnswers : Obligations.ManagementServiceAnswers := by
  unfold Obligations.ManagementServiceAnswers
  intro s r i
  refine ⟨fun h => congrArg Host.Outcome.next (if_pos (by simpa using h)), fun h => congrArg Host.Outcome.next (if_neg h),
    fun h => congrArg Host.Outcome.next (if_neg h), fun hi => ?_⟩
  rw [exec_mgmt_serves hi]
  refine ⟨fun h => by rw [State.mgmtServe_unserved h], fun hmode hallow held hheld => ?_⟩
  have hheld' : held = s.mgmtHeld := hheld
  subst hheld'
  rw [State.mgmtServe_served hmode hallow]
  refine ⟨fun e he => by rw [he], fun hfirst t st d p a ha hp hact => ?_⟩
  have act : s.mgmtAct r = (st, d, t) := by
    rw [ha] at hact
    rcases hact with ⟨hres, rfl, rfl, rfl⟩ | ⟨hres, hact⟩
    · exact State.mgmtAct_reserved hres
    rw [State.mgmtAct_assigned hres]
    rcases hact with ⟨hop, hin, rfl, rfl, rfl⟩ | ⟨hop, hout, rfl, rfl, rfl⟩ | ⟨hop, hin, rfl, rfl, rfl⟩ |
      ⟨hop, hout, hno, rfl, rfl, rfl⟩ | ⟨hop, hout, hin, hall, rfl, rfl, rfl⟩ | ⟨hop, rfl, rfl, rfl⟩
    · rw [if_neg (by simp [hop]), if_pos hop, if_pos hin]
    · rw [if_neg (by simp [hop]), if_pos hop, if_neg (by simpa using hout)]
    · rw [if_neg (by simp [hop]), if_neg (by simp [hop]), if_pos hin]
    · rw [if_neg (by simp [hop]), if_neg (by simp [hop]), if_neg (by simp [hout]), if_neg]
      rintro ⟨hin, hall⟩
      rcases hno with hno | ⟨k, hk, hno⟩
      · simp [hin] at hno
      · simp [hall k hk] at hno
    · rw [if_neg (by simp [hop]), if_neg (by simp [hop]), if_neg (by simp [hout]), if_pos ⟨hin, hall⟩]
    · rw [if_pos hop]
  rw [hfirst, act, hp]
  rfl

end Sys2Proof.Machine
end

section
/-! PROOFS. Device resets and start-up: RESET_N and WARM_N, the boot ROM, FW_LOAD and INIT (R316, R430, R432, R434, R437, R442,
R501 to R503, R523, R524, R526). -/

namespace Sys2Proof.Machine

theorem OnlySent.dev {s t : State} (h : OnlySent s t) : t.dev = s.dev := by rw [h]
theorem OnlySent.flash {s t : State} (h : OnlySent s t) : t.flash = s.flash := by rw [h]
theorem OnlySent.sec {s t : State} (h : OnlySent s t) : t.sec = s.sec := by rw [h]

theorem State.setMode_onlySent (s : State) (m : DevMode) : OnlySent { s with dev := { s.dev with mode := m } } (s.setMode m) :=
  State.raiseDev_onlySent ..

/-! ### RESET_N and WARM_N (R524) -/

/-- Only flash differs, free values and what is sent with it: what the end of a flash write costs. -/
def OnlyFlashed (s t : State) : Prop :=
  t = { s with flash := t.flash, freeCtr := t.freeCtr, rings := t.rings, qps := t.qps, wire := t.wire }

theorem State.wearStore_onlyFlashed (s : State) (r : Bytes) : OnlyFlashed s (s.wearStore r) := by
  unfold State.wearStore
  dsimp only
  split_ifs with hroom hfull
  · rfl
  · split <;> rfl
  · split
    · rfl
    · have h : OnlySent { s with flash := { s.flash with wearFull := true } } _ :=
        State.raiseDev_onlySent _ 0x8907 (b1 (le (patch r 24 (b4 s.flash.wearSeq)) 12 1))
      unfold OnlyFlashed
      rw [h]

theorem State.flashDone_onlyFlashed (s : State) (o : FlashOp) : OnlyFlashed s (s.flashDone o) := by
  cases o with
  | wear r => exact State.wearStore_onlyFlashed s r
  | _ => rfl

theorem OnlyFlashed.set {s t : State} (h : OnlyFlashed s t) (f : Flash) : OnlyFlashed s { t with flash := f } := by
  unfold OnlyFlashed at *
  rw [h]

theorem OnlyFlashed.of_free {s t : State} {n : Nat} (h : OnlyFlashed { s with freeCtr := n } t) : OnlyFlashed s t := h

theorem State.cutFlash_spec (s : State) : OnlyFlashed s s.cutFlash ∧ s.cutFlash.flash.ops = [] ∧
    (s.flash.ops = [] → s.cutFlash.flash.cfg = s.flash.cfg) := by
  unfold State.cutFlash
  split
  · next hnone => exact ⟨rfl, hnone, fun _ => rfl⟩
  · next o rest hops =>
    refine ⟨?_, rfl, fun h => nomatch hops.symm.trans h⟩
    refine OnlyFlashed.set ?_ _
    dsimp only [State.free]
    split_ifs
    · exact OnlyFlashed.of_free (State.flashDone_onlyFlashed _ o)
    · split <;> rfl

theorem memGet_dramCells (m : List Host.Cell) {a : Nat} (h : a < clusterBase) : memGet (dramCells m) a = memGet m a :=
  memGet_filter_keep (fun _ => decide_eq_true h)

/-- What a reset leaves: ROM_BOOT, nothing of partitions, contexts, streams and queue pairs; flash, DRAM and the counters of time stay. -/
theorem State.deviceReset_spec (s : State) (cold : Bool) (source : Nat) :
    (s.deviceReset cold source).dev.mode = .romBoot ∧ (s.deviceReset cold source).dev.resetSource = BitVec.ofNat 4 source ∧
    (s.deviceReset cold source).dev.resetKind = (if cold then 0 else 1) ∧
    (s.deviceReset cold source).dev.powerNs = s.dev.powerNs ∧ (s.deviceReset cold source).parts = [] ∧
    (s.deviceReset cold source).ctxs = [] ∧ (s.deviceReset cold source).streams = [] ∧ (s.deviceReset cold source).qps = [] ∧
    (s.deviceReset cold source).now = s.now ∧ (s.deviceReset cold source).mem = dramCells s.mem ∧
    (s.deviceReset cold source).flash = { s.flash with wearFull := false } ∧
    (s.deviceReset cold source).health = s.health.afterReset cold :=
  ⟨rfl, rfl, rfl, rfl, rfl, rfl, rfl, rfl, rfl, rfl, rfl, rfl⟩

theorem exec_resetNAssert (s : State) : (s.dev.mode = .off → exec .resetNAssert s = .next s) ∧ (s.dev.mode ≠ .off →
    ∃ t : State, exec .resetNAssert s = .next t ∧ t.dev.mode = .romBoot ∧ t.dev.resetKind = 0 ∧ t.dev.resetSource = 1 ∧
      t.parts = [] ∧ t.ctxs = [] ∧ t.streams = [] ∧ t.qps = [] ∧ t.now = s.now ∧ t.flash.ops = [] ∧
      (s.flash.ops = [] → t.flash.cfg = s.flash.cfg) ∧ ∀ a : Nat, a < clusterBase → memGet t.mem a = memGet s.mem a) := by
  refine ⟨fun h => if_pos h, fun h => ?_⟩
  have hexec : exec .resetNAssert s = if s.dev.mode = .off then .next s else .next (s.resetNow true 1) := rfl
  rw [hexec, if_neg h]
  obtain ⟨hcut, hops, hcfg⟩ := s.cutFlash_spec
  obtain ⟨hmode, hsource, hkind, -, hparts, hctxs, hstreams, hqps, hnow, hmem, hflash, -⟩ := s.cutFlash.deviceReset_spec true 1
  unfold OnlyFlashed at hcut
  refine ⟨_, rfl, hmode, hkind, hsource, hparts, hctxs, hstreams, hqps, hnow.trans (by rw [hcut]), ?_, fun hnone => ?_,
    fun a ha => ?_⟩
  · exact (congrArg Flash.ops hflash).trans hops
  · exact (congrArg Flash.cfg hflash).trans (hcfg hnone)
  · have hmem' : (s.resetNow true 1).mem = dramCells s.mem := hmem.trans (by rw [hcut])
    rw [hmem', memGet_dramCells _ ha]

theorem exec_warmNAssert (s : State) : (s.dev.mode = .off → exec .warmNAssert s = .next s) ∧ (s.dev.mode ≠ .off →
    ∃ t : State, exec .warmNAssert s = .next t ∧ t.dev.mode = .romBoot ∧ t.dev.resetSource = 3 ∧ t.parts = [] ∧ t.qps = [] ∧
      t.dev.resetKind = (if s.dev.reachedReady then 1 else 0) ∧ t.dev.powerNs = s.dev.powerNs ∧
      (s.dev.reachedReady = true → t.health.ceCnt = s.health.ceCnt ∧ t.health.last = s.health.last) ∧
      (s.dev.reachedReady = false → t.health.ceCnt = 0 ∧ t.health.last = 0)) := by
  refine ⟨fun h => if_pos h, fun h => ?_⟩
  have hexec : exec .warmNAssert s = if s.dev.mode = .off then .next s else .next (s.resetNow false 3) := rfl
  have hnow : s.resetNow false 3 = s.cutFlash.deviceReset (!s.dev.reachedReady) 3 := rfl
  rw [hexec, if_neg h, hnow]
  obtain ⟨hmode, hsource, hkind, hpower, hparts, -, -, hqps, -, -, -, hhealth⟩ :=
    s.cutFlash.deviceReset_spec (!s.dev.reachedReady) 3
  have hcut : OnlyFlashed s s.cutFlash := s.cutFlash_spec.1
  unfold OnlyFlashed at hcut
  have hhealth' := hhealth.trans (congrArg (MemHealth.afterReset · _) (show s.cutFlash.health = s.health by rw [hcut]))
  refine ⟨_, rfl, hmode, hsource, hparts, hqps, ?_, hpower.trans (by rw [hcut]), fun hready => ?_, fun hready => ?_⟩
  · rw [hkind]
    cases s.dev.reachedReady <;> rfl
  · rw [hhealth', hready]
    exact ⟨rfl, rfl⟩
  · rw [hhealth', hready]
    exact ⟨rfl, rfl⟩

end Sys2Proof.Machine
end

section
/-! PROOFS. Start-up: the boot ROM, FW_LOAD and INIT (R430, R434, R437, R442, R501 to R503, R526). -/

namespace Sys2Proof.Machine

/-! ### The boot ROM (R501, R502) -/

theorem State.startFirmware_spec (s : State) (b trial : Bool) :
    (s.startFirmware b trial).dev.mode = .fwLoad ∧ (s.startFirmware b trial).sec.running = some b ∧
    (s.startFirmware b trial).sec.trialRun = trial ∧ (s.startFirmware b trial).sec.secVersion = fwSec (s.flash.fw b).bytes ∧
    (s.startFirmware b trial).mem = s.mem ∧ (s.startFirmware b trial).flash = s.flash := by
  have h : OnlySent _ (s.startFirmware b trial) := State.setMode_onlySent _ _
  rw [h.dev, h.sec, h.mem, h.flash]
  exact ⟨rfl, rfl, rfl, rfl, rfl, rfl⟩

theorem Flash.setBoot_fw (f : Flash) (active : Bool) (trial : Option Bool) (b : Bool) : (f.setBoot active trial).fw b = f.fw b := by
  unfold Flash.setBoot
  dsimp only
  split_ifs <;> rfl

/-- The flash once the ROM has chosen a slot: a trial begins at most once (R501). -/
def Flash.trialTaken (f : Flash) : Flash := if f.bootRec.trial.isSome then f.setBoot f.bootRec.active none else f

theorem Flash.trialTaken_fw (f : Flash) (b : Bool) : f.trialTaken.fw b = f.fw b := by
  unfold Flash.trialTaken
  split_ifs
  · exact Flash.setBoot_fw ..
  · rfl

theorem exec_romBoot_none {s : State} (h : s.dev.mode ≠ .romBoot ∨ s.dev.faultN = false) : exec .romBoot s = .next s :=
  if_pos (by simpa using h)

theorem exec_romBoot {s : State} (hmode : s.dev.mode = .romBoot) (hfault : s.dev.faultN = true) {b : Bool}
    (hb : b = s.flash.bootRec.trial.getD s.flash.bootRec.active) : exec .romBoot s =
      if s.slotPasses b = true then
        .next (({ s with flash := s.flash.trialTaken } : State).startFirmware b s.flash.bootRec.trial.isSome)
      else if s.slotPasses (!b) = true then
        .next (({ s with flash := s.flash.setBoot (!b) none } : State).startFirmware (!b) false)
      else .next { s with dev := { s.dev with faultN := false } } := by
  subst hb
  exact if_neg (by simp [hmode, hfault])

theorem exec_romBoot_starts (s : State) (hmode : s.dev.mode = .romBoot) (hfault : s.dev.faultN = true) (b : Bool)
    (hb : b = s.flash.bootRec.trial.getD s.flash.bootRec.active) :
    (s.slotPasses b = true → ∃ t : State, exec .romBoot s = .next t ∧ t.dev.mode = .fwLoad ∧ t.sec.running = some b ∧
      t.sec.trialRun = s.flash.bootRec.trial.isSome ∧ t.sec.secVersion = fwSec (s.flash.fw b).bytes ∧ t.mem = s.mem ∧
      t.flash = (if s.flash.bootRec.trial.isSome then s.flash.setBoot s.flash.bootRec.active none else s.flash)) ∧
    (s.slotPasses b = false → s.slotPasses (!b) = true → ∃ t : State, exec .romBoot s = .next t ∧ t.dev.mode = .fwLoad ∧
      t.sec.running = some (!b) ∧ t.sec.trialRun = false ∧ t.flash = s.flash.setBoot (!b) none ∧ t.mem = s.mem) ∧
    (s.slotPasses b = false → s.slotPasses (!b) = false →
      exec .romBoot s = .next { s with dev := { s.dev with faultN := false } }) := by
  rw [exec_romBoot hmode hfault hb]
  refine ⟨fun hpass => ?_, fun hfail hpass => ?_, fun hfail hother => ?_⟩
  · obtain ⟨hmode', hrun, htrial, hversion, hmem, hflash⟩ :=
      State.startFirmware_spec { s with flash := s.flash.trialTaken } b s.flash.bootRec.trial.isSome
    exact ⟨_, if_pos hpass, hmode', hrun, htrial, hversion.trans (by rw [Flash.trialTaken_fw]), hmem, hflash⟩
  · obtain ⟨hmode', hrun, htrial, -, hmem, hflash⟩ :=
      State.startFirmware_spec { s with flash := s.flash.setBoot (!b) none } (!b) false
    exact ⟨_, by rw [if_neg (by simp [hfail]), if_pos hpass], hmode', hrun, htrial, hflash, hmem⟩
  · rw [if_neg (by simp [hfail]), if_neg (by simp [hother])]

/-! ### The journal (R442) -/

theorem Flash.sealSlots_journal (f : Flash) (slot prevSlot : Fin 8) (rollback : Bool) :
    (f.sealSlots slot prevSlot rollback).journal = f.journal := by
  unfold Flash.sealSlots
  dsimp only
  split_ifs <;> rfl

theorem Flash.resolve_spec (f : Flash) (x : JournalRec) (h : f.journal.getLast? = some x) :
    (x.kind = .prepare → f.resolve.journal = f.journal ++ [{ x with kind := .abandon }] ∧ f.resolve.cfg = f.cfg) ∧
    (x.kind = .seal → f.resolve.journal = f.journal ++ [{ x with kind := .done }] ∧
      f.resolve.cfg = (f.sealSlots x.slot x.prevSlot x.rollback).cfg) ∧
    (x.kind = .done ∨ x.kind = .abandon → f.resolve = f) := by
  rw [Flash.resolve, h]
  dsimp only
  refine ⟨fun hk => ?_, fun hk => ?_, fun hk => ?_⟩
  · rw [hk]
    exact ⟨rfl, rfl⟩
  · rw [hk]
    exact ⟨congrArg (· ++ _) (Flash.sealSlots_journal ..), rfl⟩
  · rcases hk with hk | hk <;> rw [hk]

/-! ### The version to run (R434) -/

theorem vector_toList_eq_map_get {α : Type} {n : Nat} (v : Vector α n) : v.toList = (List.finRange n).map v.get := by
  refine List.ext_getElem (by simp) fun i h1 h2 => ?_
  simp [Vector.get]

theorem vector_get_set_same {α : Type} {n : Nat} (v : Vector α n) (j : Fin n) (a : α) : (v.set j a).get j = a :=
  Vector.getElem_set_self j.isLt

theorem State.currentSlot_eq (s : State) : s.currentSlot =
    ((List.finRange 8).find? (fun k => (s.flash.cfg.get k).state == .current)).map (fun k => (k, s.flash.cfg.get k)) := by
  unfold State.currentSlot
  generalize List.finRange 8 = l
  induction l with
  | nil => rfl
  | cons k l ih =>
    rw [List.findSome?_cons, List.find?_cons]
    cases (s.flash.cfg.get k).state == CfgState.current
    · exact ih
    · rfl

theorem State.currentCfg_eq (s : State) : s.currentCfg = s.currentSlot.map (·.2) := by
  rw [State.currentCfg, State.currentSlot_eq, vector_toList_eq_map_get, List.find?_map, Option.map_map]
  rfl

/-- A version `j` of the list is the newest by `ver`, the one in the lowest slot of those equally new. -/
def Newest (ver : Fin 8 → Nat) (l : List (Fin 8)) (j : Fin 8) : Prop :=
  j ∈ l ∧ ∀ i ∈ l, ver i < ver j ∨ (ver i = ver j ∧ j ≤ i)

theorem Newest.unique {ver : Fin 8 → Nat} {l : List (Fin 8)} {j k : Fin 8} (h : Newest ver l j) (g : Newest ver l k) : j = k := by
  have hj := h.2 k g.1
  have hk := g.2 j h.1
  omega

/-- The choice of the fold that looks for the newest version. -/
def newerOf (ver : Fin 8 → Nat) (b : Option (Fin 8)) (j : Fin 8) : Option (Fin 8) :=
  match b with
  | none => some j
  | some i => if ver i < ver j then some j else b

theorem foldl_newerOf {ver : Fin 8 → Nat} {l : List (Fin 8)} {i : Fin 8} (h : (i :: l).Pairwise (· < ·)) :
    ∃ j, l.foldl (newerOf ver) (some i) = some j ∧ Newest ver (i :: l) j := by
  induction l generalizing i with
  | nil => exact ⟨i, rfl, List.mem_cons_self, fun k hk => Or.inr (by simp_all)⟩
  | cons k l ih =>
    obtain ⟨hlt, hkl⟩ := List.pairwise_cons.mp h
    have hik : i < k := hlt k List.mem_cons_self
    rw [List.foldl_cons, newerOf]
    split_ifs with hver
    · obtain ⟨j, hj, hmem, hbest⟩ := ih hkl
      refine ⟨j, hj, List.mem_cons_of_mem _ hmem, fun x hx => ?_⟩
      rcases List.mem_cons.mp hx with rfl | hx
      · have := hbest k List.mem_cons_self
        omega
      · exact hbest x hx
    · obtain ⟨j, hj, hmem, hbest⟩ := ih (List.pairwise_cons.mpr ⟨fun x hx => hlt x (List.mem_cons_of_mem _ hx),
        (List.pairwise_cons.mp hkl).2⟩)
      have hji := hbest i List.mem_cons_self
      refine ⟨j, hj, ?_, fun x hx => ?_⟩
      · rcases List.mem_cons.mp hmem with rfl | hmem
        · exact List.mem_cons_self
        · exact List.mem_cons_of_mem _ (List.mem_cons_of_mem _ hmem)
      · rcases List.mem_cons.mp hx with rfl | hx
        · exact hji
        · rcases List.mem_cons.mp hx with rfl | hx
          · rcases List.mem_cons.mp hmem with rfl | hmem
            · omega
            · have := (List.pairwise_cons.mp hkl).1 j hmem
              omega
          · exact hbest x (List.mem_cons_of_mem _ hx)

theorem foldl_newerOf_newest {ver : Fin 8 → Nat} {l : List (Fin 8)} (h : l.Pairwise (· < ·)) {j : Fin 8} (hj : Newest ver l j) :
    l.foldl (newerOf ver) none = some j := by
  cases l with
  | nil => exact nomatch hj.1
  | cons i l =>
    obtain ⟨k, hk, hbest⟩ := foldl_newerOf (ver := ver) h
    rw [List.foldl_cons, newerOf, hk, hbest.unique hj]

/-- The HISTORY versions whose digest holds. -/
def State.oldLoadable (s : State) : List (Fin 8) :=
  (List.finRange 8).filter (fun j => (s.flash.cfg.get j).state == .history && digestOk (s.flash.cfg.get j).image)

theorem State.mem_oldLoadable {s : State} {j : Fin 8} :
    j ∈ s.oldLoadable ↔ (s.flash.cfg.get j).state = .history ∧ digestOk (s.flash.cfg.get j).image = true := by
  simp [State.oldLoadable]

/-- Version `v` of slot `j` becomes CURRENT in place of version `c` of slot `k` (R434). -/
def State.fallBack (s : State) (k j : Fin 8) (c v : CfgSlot) : State :=
  State.raiseDev { s with flash := (s.flash.setCfg k CfgSlot.empty).setCfg j { v with state := .current } } 0x8205
    (pack [b4 c.version.toNat, b4 v.version.toNat])

theorem State.loadable_eq (s : State) : s.loadable = match s.currentSlot with
    | none => none
    | some (k, c) => if digestOk c.image then some s else
        (s.oldLoadable.foldl (newerOf (fun j => (s.flash.cfg.get j).version.toNat)) none).map
          (fun j => s.fallBack k j c (s.flash.cfg.get j)) := by
  have hnewer : newerOf (fun j => (s.flash.cfg.get j).version.toNat) = fun (b : Option (Fin 8)) j => match b with
      | none => some j
      | some i => if (s.flash.cfg.get i).version.toNat < (s.flash.cfg.get j).version.toNat then some j else b := rfl
  rw [State.loadable, hnewer]
  rfl

/-! ### FW_LOAD (R437, R526) -/

/-- Device state, power state and flash are as they were. -/
def KeepsBoot (s t : State) : Prop := t.dev = s.dev ∧ t.pwr = s.pwr ∧ t.flash = s.flash

theorem KeepsBoot.rfl' (s : State) : KeepsBoot s s := ⟨rfl, rfl, rfl⟩

theorem KeepsBoot.trans {s t u : State} (h : KeepsBoot s t) (k : KeepsBoot t u) : KeepsBoot s u :=
  ⟨k.1.trans h.1, k.2.1.trans h.2.1, k.2.2.trans h.2.2⟩

theorem KeepsBoot.foldl {α : Type} {f : State → α → State} (hf : ∀ s a, KeepsBoot s (f s a)) (l : List α) (s : State) :
    KeepsBoot s (l.foldl f s) :=
  List.foldlRecOn l f (KeepsBoot.rfl' s) fun t ht a _ => ht.trans (hf t a)

theorem State.foldl_modAport_keepsBoot (f : State → Nat → APort → APort) (l : List Nat) (s : State) :
    KeepsBoot s (l.foldl (fun t n => t.modAport n (f t n)) s) :=
  KeepsBoot.foldl (f := fun t n => t.modAport n (f t n)) (fun _ _ => ⟨rfl, rfl, rfl⟩) l s

theorem State.configureGroup_keepsBoot (s : State) (c : GroupConf) (g : Nat) : KeepsBoot s (s.configureGroup c g) := by
  have hports : KeepsBoot s ((s.touched c g).foldl (fun t n => t.modAport n (fun p => { p with
      ctl := if bit c.members n then BitVec.ofNat 64 (c.port n) else setBits (setBits p.ctl 60 4 n) 57 3 0 })) s) :=
    State.foldl_modAport_keepsBoot _ _ _
  refine hports.trans ?_
  exact State.foldl_modAport_keepsBoot (fun t _ p => { p with clockLost := (t.group p.groupNo).clockLost }) _ _

theorem State.applyAudioSection_keepsBoot (s : State) (g : Nat) : KeepsBoot s ((s.applyAudioSection g).getD s) := by
  unfold State.applyAudioSection
  split
  · exact KeepsBoot.rfl' s
  · dsimp only
    split_ifs
    · exact KeepsBoot.rfl' s
    · exact State.configureGroup_keepsBoot ..

theorem State.driveLanes_keepsBoot (s : State) : KeepsBoot s s.driveLanes := by
  refine KeepsBoot.foldl (fun t p => ?_) _ _
  split
  · exact ⟨rfl, rfl, rfl⟩
  · exact KeepsBoot.rfl' t

/-- The device section of `c` in force (R437). -/
def State.deviceOf (s : State) (c : CfgSlot) : State :=
  { s with dev := { s.dev with deviceNo := BitVec.ofNat 13 (le (deviceSect c.image) 0 2), deviceNoNext := none, audioPinsOn := true },
           pwr := { s.pwr with capW := BitVec.ofNat 12 (le (deviceSect c.image) 2 2) } }

theorem State.applyCurrent_keepsBoot {s : State} {c : CfgSlot} (h : s.currentCfg = some c) :
    KeepsBoot (s.deviceOf c) s.applyCurrent := by
  rw [State.applyCurrent, h]
  refine KeepsBoot.foldl (fun t g => ?_) _ _
  split
  · exact KeepsBoot.trans ⟨rfl, rfl, rfl⟩ (State.applyAudioSection_keepsBoot _ g)
  · exact KeepsBoot.rfl' t

theorem State.recordTrip_spec (s : State) : s.recordTrip.dev = { s.dev with tripRecord := false } ∧ s.recordTrip.pwr = s.pwr ∧
    s.recordTrip.flash.cfg = s.flash.cfg := by
  unfold State.recordTrip
  split_ifs with h
  · exact ⟨rfl, rfl, rfl⟩
  · refine ⟨?_, rfl, rfl⟩
    rw [← Bool.eq_false_iff.mpr h]

/-- What Lortus does with the version to run (R381, R437, R526). -/
def State.bringUp (s : State) : State := (s.zero hbmTop (hbmResTop - hbmTop)).driveLanes.applyCurrent.recordTrip

theorem State.bringUp_spec {s : State} {c : CfgSlot} (h : s.currentCfg = some c) :
    s.bringUp.dev = { (s.deviceOf c).dev with tripRecord := false } ∧ s.bringUp.pwr = (s.deviceOf c).pwr ∧
    s.bringUp.flash.cfg = s.flash.cfg := by
  obtain ⟨hdev, hpwr, hflash⟩ := (s.zero hbmTop (hbmResTop - hbmTop)).driveLanes_keepsBoot
  have hcur : (s.zero hbmTop (hbmResTop - hbmTop)).driveLanes.currentCfg = some c := by
    rw [← h, State.currentCfg, hflash]
    rfl
  obtain ⟨adev, apwr, aflash⟩ := State.applyCurrent_keepsBoot hcur
  obtain ⟨tdev, tpwr, tflash⟩ := (s.zero hbmTop (hbmResTop - hbmTop)).driveLanes.applyCurrent.recordTrip_spec
  refine ⟨tdev.trans ?_, tpwr.trans (apwr.trans ?_), tflash.trans ((congrArg Flash.cfg aflash).trans (congrArg Flash.cfg hflash))⟩
  · rw [adev]
    unfold State.deviceOf
    rw [hdev]
    rfl
  · unfold State.deviceOf
    rw [hpwr]
    rfl

theorem State.currentSlot_congr {s t : State} (h : t.flash = s.flash) : t.currentSlot = s.currentSlot := by
  rw [State.currentSlot, State.currentSlot, h]

theorem State.currentCfg_congr {s t : State} (h : t.flash.cfg = s.flash.cfg) : t.currentCfg = s.currentCfg := by
  rw [State.currentCfg, State.currentCfg, h]

theorem State.currentCfg_of_current {s : State} {j : Fin 8} (h : (s.flash.cfg.get j).state = .current) :
    ∃ w, s.currentCfg = some w := by
  rw [← Option.isSome_iff_exists, State.currentCfg, vector_toList_eq_map_get, List.find?_isSome]
  exact ⟨_, List.mem_map_of_mem (List.mem_finRange j), by rw [h]; rfl⟩

theorem State.enterFaulted_spec (s : State) (cause : Nat) : (s.enterFaulted cause).dev.mode = .faulted ∧
    (s.enterFaulted cause).dev.faultCause = cause ∧ (s.enterFaulted cause).flash = s.flash := by
  have hstop : KeepsButCores s (s.ctxs.foldl (fun t x => t.stopContext x.1 x.2 .idle) s) :=
    List.foldlRecOn (motive := KeepsButCores s) _ _ rfl fun t ht x _ => ht.trans (t.stopContext_spec x.1 x.2 .idle).1
  have hmode : OnlySent _ (s.enterFaulted cause) := State.setMode_onlySent _ .faulted
  unfold KeepsButCores at hstop
  refine ⟨by rw [hmode.dev], by rw [hmode.dev], hmode.flash.trans ?_⟩
  rw [hstop]

/-- INIT begins: the journal is resolved (R442). -/
def State.inInit (s : State) : State := { s.setMode .init with flash := (s.setMode .init).flash.resolve }

theorem State.setMode_flash (s : State) (m : DevMode) : (s.setMode m).flash = s.flash := (s.setMode_onlySent m).flash
theorem State.setMode_dev (s : State) (m : DevMode) : (s.setMode m).dev = { s.dev with mode := m } := (s.setMode_onlySent m).dev

theorem State.inInit_flash (s : State) : s.inInit.flash = s.flash.resolve := by
  rw [State.inInit, State.setMode_flash]

theorem State.inInit_mode (s : State) : s.inInit.dev.mode = .init := by
  have hdev : s.inInit.dev = (s.setMode .init).dev := by rw [State.inInit]
  rw [hdev, State.setMode_dev]

theorem exec_fwLoadComplete {s : State} (h : s.dev.mode = .fwLoad) : exec .fwLoadComplete s =
    if s.flash.journalOk = false then .next ((s.setMode .init).enterFaulted 2)
    else match s.inInit.loadable with
      | none => .next (s.inInit.enterFaulted 1)
      | some t => .next t.bringUp := by
  have hexec : exec .fwLoadComplete s = execFwLoadComplete s := rfl
  have hnot : ¬ (s.dev.mode != .fwLoad) = true := by simp [h]
  rw [hexec, execFwLoadComplete, if_neg hnot]
  dsimp only
  rw [State.setMode_flash, State.inInit, State.setMode_flash]
  cases s.flash.journalOk <;> rfl

/-- No version is loadable: FAULTED with cause 1 (R434). -/
theorem exec_fwLoadComplete_noVersion {s : State} (h : s.dev.mode = .fwLoad) (hjournal : s.flash.journalOk = true)
    (hno : s.inInit.loadable = none) :
    ∃ t : State, exec .fwLoadComplete s = .next t ∧ t.dev.mode = .faulted ∧ t.dev.faultCause = 1 := by
  obtain ⟨hmode, hcause, -⟩ := s.inInit.enterFaulted_spec 1
  exact ⟨_, by rw [exec_fwLoadComplete h, if_neg (by simp [hjournal]), hno], hmode, hcause⟩

theorem exec_fwLoadComplete_runs {s u : State} {w : CfgSlot} (h : s.dev.mode = .fwLoad) (hjournal : s.flash.journalOk = true)
    (hload : s.inInit.loadable = some u) (hmode : u.dev.mode = .init) (hw : u.currentCfg = some w) :
    ∃ t : State, exec .fwLoadComplete s = .next t ∧ t.dev.mode = .init ∧
      t.dev.deviceNo = BitVec.ofNat 13 (le (deviceSect w.image) 0 2) ∧
      t.pwr.capW = BitVec.ofNat 12 (le (deviceSect w.image) 2 2) ∧ t.dev.audioPinsOn = true ∧ t.flash.cfg = u.flash.cfg := by
  obtain ⟨hdev, hpwr, hcfg⟩ := State.bringUp_spec hw
  exact ⟨u.bringUp, by rw [exec_fwLoadComplete h, if_neg (by simp [hjournal]), hload], by rw [hdev]; exact hmode,
    by rw [hdev]; rfl, by rw [hpwr]; rfl, by rw [hdev]; rfl, hcfg⟩

section
variable {s r : State} {k : Fin 8} {c : CfgSlot}

theorem State.inInit_currentSlot (hr : r = { s with flash := s.flash.resolve }) : s.inInit.currentSlot = r.currentSlot :=
  State.currentSlot_congr (s.inInit_flash.trans (by rw [hr]))

theorem State.loadable_of_digest (h : s.currentSlot = some (k, c)) (hdig : digestOk c.image = true) : s.loadable = some s := by
  rw [State.loadable_eq, h]
  exact if_pos hdig

theorem State.loadable_of_newest {j : Fin 8} (h : s.currentSlot = some (k, c)) (hdig : digestOk c.image = false)
    (hj : Newest (fun i => (s.flash.cfg.get i).version.toNat) s.oldLoadable j) :
    s.loadable = some (s.fallBack k j c (s.flash.cfg.get j)) := by
  have hsorted : s.oldLoadable.Pairwise (· < ·) := (List.pairwise_lt_finRange 8).filter _
  rw [State.loadable_eq, h]
  exact (if_neg (by simp [hdig])).trans (by rw [foldl_newerOf_newest hsorted hj]; rfl)

theorem State.loadable_of_noOld (h : s.currentSlot = some (k, c)) (hdig : digestOk c.image = false) (hold : s.oldLoadable = []) :
    s.loadable = none := by
  rw [State.loadable_eq, h]
  exact (if_neg (by simp [hdig])).trans (by rw [hold]; rfl)

theorem State.loadable_of_noCurrent (h : s.currentSlot = none) : s.loadable = none := by
  rw [State.loadable_eq, h]

/-- The version that falls back is CURRENT, and everything else is as it was but what is sent. -/
theorem State.fallBack_spec (s : State) (k j : Fin 8) (c v : CfgSlot) : (s.fallBack k j c v).dev = s.dev ∧
    (s.fallBack k j c v).flash.cfg = (s.flash.cfg.set k CfgSlot.empty).set j { v with state := .current } ∧
    ∃ w, (s.fallBack k j c v).currentCfg = some w := by
  have h : OnlySent _ (s.fallBack k j c v) := State.raiseDev_onlySent ..
  have hcfg : (s.fallBack k j c v).flash.cfg = (s.flash.cfg.set k CfgSlot.empty).set j { v with state := .current } := by
    rw [h.flash]
    rfl
  exact ⟨h.dev, hcfg, State.currentCfg_of_current (j := j) (by rw [hcfg, vector_get_set_same])⟩

end

section
variable {s r : State} {k : Fin 8} {c : CfgSlot} (hmode : s.dev.mode = .fwLoad) (hjournal : s.flash.journalOk = true)
  (hr : r = { s with flash := s.flash.resolve }) (hcur : r.currentSlot = some (k, c))
include hmode hjournal hr hcur

theorem exec_fwLoadComplete_current (hdig : digestOk c.image = true) : ∃ t : State, exec .fwLoadComplete s = .next t ∧
    t.dev.mode = .init ∧ t.dev.deviceNo = BitVec.ofNat 13 (le (deviceSect c.image) 0 2) ∧
    t.pwr.capW = BitVec.ofNat 12 (le (deviceSect c.image) 2 2) ∧ t.dev.audioPinsOn = true ∧ t.flash.cfg = r.flash.cfg := by
  have hslot := (State.inInit_currentSlot hr).trans hcur
  obtain ⟨t, ht, h1, h2, h3, h4, h5⟩ := exec_fwLoadComplete_runs hmode hjournal (State.loadable_of_digest hslot hdig)
    s.inInit_mode (by rw [State.currentCfg_eq, hslot]; rfl)
  exact ⟨t, ht, h1, h2, h3, h4, h5.trans (by rw [s.inInit_flash, hr])⟩

theorem exec_fwLoadComplete_history (hdig : digestOk c.image = false) (j : Fin 8) (v : CfgSlot) (hv : v = r.flash.cfg.get j)
    (hstate : v.state = .history) (hok : digestOk v.image = true)
    (hnewest : ∀ i : Fin 8, (r.flash.cfg.get i).state = .history → digestOk (r.flash.cfg.get i).image = true →
      (r.flash.cfg.get i).version.toNat < v.version.toNat ∨ ((r.flash.cfg.get i).version = v.version ∧ j ≤ i)) :
    ∃ t : State, exec .fwLoadComplete s = .next t ∧ t.dev.mode = .init ∧ t.dev.audioPinsOn = true ∧
      t.flash.cfg = (r.flash.cfg.set k CfgSlot.empty).set j { v with state := .current } ∧
      ∀ w : CfgSlot, t.currentCfg = some w → t.dev.deviceNo = BitVec.ofNat 13 (le (deviceSect w.image) 0 2) := by
  have hslot := (State.inInit_currentSlot hr).trans hcur
  have hflash : s.inInit.flash = r.flash := s.inInit_flash.trans (by rw [hr])
  have hbest : Newest (fun i => (s.inInit.flash.cfg.get i).version.toNat) s.inInit.oldLoadable j := by
    refine ⟨?_, fun i hi => ?_⟩
    · rw [State.mem_oldLoadable, hflash, ← hv]
      exact ⟨hstate, hok⟩
    · rw [State.mem_oldLoadable, hflash] at hi
      rw [hflash]
      dsimp only
      rw [← hv]
      exact (hnewest i hi.1 hi.2).imp_right fun h => ⟨congrArg BitVec.toNat h.1, h.2⟩
  have hload := State.loadable_of_newest hslot hdig hbest
  rw [hflash, ← hv] at hload
  obtain ⟨hdev, hcfg, w, hw⟩ := s.inInit.fallBack_spec k j c v
  obtain ⟨t, ht, h1, h2, -, h4, h5⟩ := exec_fwLoadComplete_runs hmode hjournal hload (by rw [hdev, s.inInit_mode]) hw
  refine ⟨t, ht, h1, h4, h5.trans (by rw [hcfg, hflash]), fun x hx => ?_⟩
  rw [State.currentCfg_congr h5, hw] at hx
  cases hx
  exact h2

theorem exec_fwLoadComplete_none (hdig : digestOk c.image = false)
    (hold : ∀ i : Fin 8, (r.flash.cfg.get i).state = .history → digestOk (r.flash.cfg.get i).image = false) :
    ∃ t : State, exec .fwLoadComplete s = .next t ∧ t.dev.mode = .faulted ∧ t.dev.faultCause = 1 := by
  refine exec_fwLoadComplete_noVersion hmode hjournal
    (State.loadable_of_noOld ((State.inInit_currentSlot hr).trans hcur) hdig (List.eq_nil_iff_forall_not_mem.mpr fun i hi => ?_))
  have hflash : s.inInit.flash = r.flash := s.inInit_flash.trans (by rw [hr])
  rw [State.mem_oldLoadable, hflash] at hi
  simp [hold i hi.1] at hi

end

/-! ### INIT (R503, R526) -/

/-- READY is reached (R430). -/
def State.inReady (s : State) : State := { s.setMode .ready with dev := { (s.setMode .ready).dev with reachedReady := true } }

theorem State.inReady_spec (s : State) : s.inReady.dev.mode = .ready ∧ s.inReady.dev.reachedReady = true ∧ s.inReady.mem = s.mem ∧
    s.inReady.flash = s.flash ∧ s.inReady.sec = s.sec := by
  have h := s.setMode_onlySent .ready
  simp only [State.inReady, h.dev, h.mem, h.flash, h.sec, and_self]

theorem exec_initComplete_trial {s : State} {b : Bool} (h : s.dev.mode = .init) (htrial : s.sec.trialRun = true)
    (hrun : s.sec.running = some b) : exec .initComplete s =
      .next (({ s.inReady with sec := { s.sec with trialRun := false } } : State).flashOp (.boot none b none)) := by
  have hexec : exec .initComplete s = execInitComplete s := rfl
  have hnot : ¬ (s.dev.mode != .init) = true := by simp [h]
  have hsec : (s.setMode .ready).sec = s.sec := (s.setMode_onlySent .ready).sec
  rw [hexec, execInitComplete, if_neg hnot, State.inReady]
  dsimp only
  rw [hsec, htrial, hrun]

theorem exec_initComplete_plain {s : State} (h : s.dev.mode = .init) (hno : s.sec.trialRun = false ∨ s.sec.running = none) :
    exec .initComplete s = .next s.inReady := by
  have hexec : exec .initComplete s = execInitComplete s := rfl
  have hnot : ¬ (s.dev.mode != .init) = true := by simp [h]
  have hsec : (s.setMode .ready).sec = s.sec := (s.setMode_onlySent .ready).sec
  rw [hexec, execInitComplete, if_neg hnot, State.inReady]
  dsimp only
  rw [hsec]
  split
  · next htrial hrun => simp [htrial, hrun] at hno
  · rfl

theorem exec_initComplete_ready (s : State) (h : s.dev.mode = .init) : ∃ t : State, exec .initComplete s = .next t ∧
    t.dev.mode = .ready ∧ t.dev.reachedReady = true ∧ t.mem = s.mem ∧
    (∀ b : Bool, s.sec.trialRun = true → s.sec.running = some b → t.sec.trialRun = false ∧
      t.flash.ops = s.flash.ops ++ [.boot none b none]) ∧
    (s.sec.trialRun = false ∨ s.sec.running = none → t.flash = s.flash ∧ t.sec = s.sec) := by
  obtain ⟨hmode, hready, hmem, hflash, hsec⟩ := s.inReady_spec
  by_cases hno : s.sec.trialRun = false ∨ s.sec.running = none
  · refine ⟨_, exec_initComplete_plain h hno, hmode, hready, hmem, fun b htrial hrun => ?_, fun _ => ⟨hflash, hsec⟩⟩
    simp [htrial, hrun] at hno
  · obtain ⟨htrial, hrun⟩ := not_or.mp hno
    obtain ⟨b, hb⟩ := Option.ne_none_iff_exists'.mp hrun
    rw [exec_initComplete_trial h (Bool.eq_true_of_not_eq_false htrial) hb]
    generalize s.inReady = u at *
    refine ⟨_, rfl, hmode, hready, hmem, fun b' _ hb' => ?_, fun h => (hno h).elim⟩
    cases hb.symm.trans hb'
    simp only [State.flashOp, hflash, and_self]

/-! ### The statement -/

theorem exec_fwLoadComplete_journal (s : State) (h : s.dev.mode = .fwLoad) (hjournal : s.flash.journalOk = false) :
    ∃ t : State, exec .fwLoadComplete s = .next t ∧ t.dev.mode = .faulted ∧ t.dev.faultCause = 2 ∧
      t.flash = s.flash := by
  obtain ⟨hmode, hcause, hflash⟩ := (s.setMode .init).enterFaulted_spec 2
  exact ⟨_, by rw [exec_fwLoadComplete h, if_pos hjournal], hmode, hcause, hflash.trans (s.setMode_flash .init)⟩

/-- Settles O55, row by row; of FW_LOAD_COMPLETE by what the journal and the versions' digests leave to run. -/
theorem resetsAndStartUpTakeTheirCourse : Obligations.ResetsAndStartUpTakeTheirCourse := by
  unfold Obligations.ResetsAndStartUpTakeTheirCourse
  refine ⟨fun s => ⟨fun h => ⟨(exec_resetNAssert s).1 h, (exec_warmNAssert s).1 h⟩,
      fun h => ⟨(exec_resetNAssert s).2 h, (exec_warmNAssert s).2 h⟩⟩,
    fun s => ⟨exec_romBoot_none, exec_romBoot_starts s⟩, fun s => ⟨fun h => if_pos (by simpa using h), fun hmode =>
      ⟨exec_fwLoadComplete_journal s hmode, fun r hjournal hr => ⟨fun k c hcur => ⟨exec_fwLoadComplete_current hmode hjournal hr hcur,
        exec_fwLoadComplete_history hmode hjournal hr hcur, exec_fwLoadComplete_none hmode hjournal hr hcur⟩, fun hcur =>
        exec_fwLoadComplete_noVersion hmode hjournal
          (State.loadable_of_noCurrent ((State.inInit_currentSlot hr).trans hcur))⟩⟩⟩,
    Flash.resolve_spec, fun s => ⟨fun h => if_pos (by simpa using h), exec_initComplete_ready s⟩⟩

end Sys2Proof.Machine
end

section
/-! PROOFS. Background work that ends: remap copies, zeroing of extents, page copies and unit tests (R314 to R316, R327, R331, R482,
R487, R489). -/

namespace Sys2Proof.Machine

/-! ### REMAP_COPY_DONE (R327) -/

theorem exec_remapCopyDone_idle {s : State} {q : Fin 4} (h : (s.quad q.val).remapState ≠ 1) : exec (.remapCopyDone q) s = .next s :=
  if_neg h

theorem exec_remapCopyDone_engages (s : State) (q : Fin 4) (h : (s.quad q.val).remapState = 1) :
    ∃ (t : State) (w : Bytes), exec (.remapCopyDone q) s = .next t ∧
      OnlySent (({ s with flash := { s.flash with ops := s.flash.ops ++ [.wear w] } } : State).setQuad q.val
        { s.quad q.val with remapState := 2 }) t :=
  ⟨_, _, if_pos h, State.raiseDev_onlySent ..⟩

/-! ### Extents that are zeroed (R315, R316) -/

theorem lpTop_le_mbxBase : lpTop ≤ mbxBase := by decide

/-- Below the mailbox region an address is its own. -/
theorem backing_below {a : Nat} (h : a < lpTop) : backing a = a := by
  have := lpTop_le_mbxBase
  refine if_neg ?_
  simp only [Bool.and_eq_true, decide_eq_true_eq, not_and]
  omega

/-- Only memory and what is known of its spans differ. -/
def OnlyZeroed (s t : State) : Prop := t = { s with mem := t.mem, badSpans := t.badSpans, lostPcs := t.lostPcs }

theorem OnlyZeroed.trans {s t u : State} (h : OnlyZeroed s t) (k : OnlyZeroed t u) : OnlyZeroed s u := by
  unfold OnlyZeroed at *; rw [k, h]

theorem State.zeroGibs_onlyZeroed (s : State) (gs : List Nat) : OnlyZeroed s (s.zeroGibs gs) :=
  List.foldlRecOn (motive := OnlyZeroed s) gs _ rfl fun _ ht _ _ => ht.trans rfl

theorem OnlyZeroed.parts {s t : State} (h : OnlyZeroed s t) : t.parts = s.parts := by rw [h]

theorem gib_pos : 0 < gib := by decide

/-- The bytes of the GiB that are zeroed read zero, the others as before. -/
theorem State.zeroGibs_mem (s : State) {gs : List Nat} (h : ∀ g ∈ gs, (g + 1) * gib ≤ lpTop) (a : Nat) :
    memGet (s.zeroGibs gs).mem a = if a / gib ∈ gs then 0 else memGet s.mem a := by
  induction gs generalizing s with
  | nil => rfl
  | cons g gs ih =>
    have hback : backing (g * gib) = g * gib := by
      have := h g List.mem_cons_self
      rw [Nat.add_mul] at this
      have := gib_pos
      exact backing_below (by omega)
    have hzero : (s.zero (g * gib) gib).mem = memZero s.mem (g * gib) gib := by
      rw [State.zero]
      dsimp only
      rw [hback]
    rw [State.zeroGibs, List.foldl_cons]
    refine (ih _ fun x hx => h x (List.mem_cons_of_mem _ hx)).trans ?_
    rw [hzero]
    by_cases hg : a / gib = g
    · have hlo : g * gib ≤ a := hg ▸ Nat.div_mul_le_self a gib
      have hhi : a < g * gib + gib := hg ▸ Nat.lt_div_mul_add gib_pos
      rw [memGet_memZero_in _ _ _ _ hlo hhi, ite_self, if_pos (by simp [hg])]
    · have hout : a < g * gib ∨ g * gib + gib ≤ a := by
        by_contra hno
        exact hg (Nat.div_eq_of_lt_le (by omega) (by rw [Nat.add_mul]; omega))
      rw [memGet_memZero_out _ _ _ _ hout]
      simp only [List.mem_cons, hg, false_or]

theorem mem_gibsOf {xs : List Extent} {g : Nat} : g ∈ gibsOf xs ↔ ∃ x ∈ xs, x.addr / gib ≤ g ∧ g < x.addr / gib + x.gib := by
  simp only [gibsOf, List.mem_flatMap, List.mem_map, List.mem_range]
  refine exists_congr fun x => and_congr_right fun _ => ⟨?_, fun ⟨hlo, hhi⟩ => ⟨g - x.addr / gib, by omega, by omega⟩⟩
  rintro ⟨k, hk, rfl⟩
  omega

/-- An address lies in a GiB of an extent of whole GiB exactly when it lies in the extent. -/
theorem div_gib_mem_extent {x : Extent} (h : x.addr % gib = 0) (a : Nat) :
    (x.addr / gib ≤ a / gib ∧ a / gib < x.addr / gib + x.gib) ↔ x.addr ≤ a ∧ a < x.addr + x.gib * gib := by
  obtain ⟨k, hk⟩ := Nat.dvd_of_mod_eq_zero h
  have hdiv : x.addr / gib = k := by rw [hk, Nat.mul_div_cancel_left _ gib_pos]
  have hend : x.addr + x.gib * gib = (k + x.gib) * gib := by rw [hk]; ring
  rw [hdiv, hend, Nat.div_lt_iff_lt_mul gib_pos, Nat.le_div_iff_mul_le gib_pos, hk, Nat.mul_comm k]

/-- Extents of whole GiB below the end of LPDDR5X, zeroed: their bytes read zero, the others as before. -/
theorem State.zeroGibs_extents (s : State) {xs : List Extent} (h : ∀ x ∈ xs, x.addr % gib = 0 ∧ x.addr + x.gib * gib ≤ lpTop) :
    (∀ (x : Extent) (a : Nat), x ∈ xs → x.addr ≤ a → a < x.addr + x.gib * gib → memGet (s.zeroGibs (gibsOf xs)).mem a = 0) ∧
    (∀ a : Nat, (∀ x ∈ xs, a < x.addr ∨ x.addr + x.gib * gib ≤ a) → memGet (s.zeroGibs (gibsOf xs)).mem a = memGet s.mem a) := by
  have hall : ∀ g ∈ gibsOf xs, (g + 1) * gib ≤ lpTop := fun g hg => by
    obtain ⟨x, hx, -, hhi⟩ := mem_gibsOf.mp hg
    obtain ⟨hwhole, htop⟩ := h x hx
    have hfit : (g + 1) * gib ≤ (x.addr / gib + x.gib) * gib := Nat.mul_le_mul_right _ hhi
    rw [Nat.add_mul (x.addr / gib), Nat.div_mul_cancel (Nat.dvd_of_mod_eq_zero hwhole)] at hfit
    exact hfit.trans htop
  refine ⟨fun x a hx hlo hhi => ?_, fun a hout => ?_⟩
  · rw [s.zeroGibs_mem hall, if_pos (mem_gibsOf.mpr ⟨x, hx, (div_gib_mem_extent (h x hx).1 a).mpr ⟨hlo, hhi⟩⟩)]
  · rw [s.zeroGibs_mem hall, if_neg]
    intro hin
    obtain ⟨x, hx, hg⟩ := mem_gibsOf.mp hin
    obtain ⟨hlo, hhi⟩ := (div_gib_mem_extent (h x hx).1 a).mp hg
    have := hout x hx
    omega

/-! ### EXTENT_ZEROING_DONE (R315, R316, R341) -/

/-- A creation waits for extents of a partition that is being destroyed (R341). -/
def State.createWaits (s : State) (q : Partition) : Bool :=
  s.parts.any (fun (o : Nat × Partition) => match o.2.zeroing with
    | some (.destroy _) => (o.2.hbm ++ o.2.lp).any (fun a => (q.hbm ++ q.lp).any (fun b => a.meets b))
    | _ => false)

theorem State.createWaits_none {s : State} (q : Partition) (h : ∀ k ∈ s.parts, ∀ o : Fin 64, k.2.zeroing ≠ some (.destroy o)) :
    s.createWaits q = false := by
  refine List.any_eq_false.mpr fun k hk => ?_
  split
  · next o hz => exact (h k hk o hz).elim
  · exact Bool.false_ne_true

theorem exec_extentZeroingDone {s : State} {p : Fin 16} {q : Partition} (hq : s.part? p.val = some q) :
    exec (.extentZeroingDone p) s = .next (match q.zeroing with
      | some (.create m) => if s.createWaits q then s else s.created p.val m
      | some (.destroy m) => s.destroyed p.val m
      | none => s) := by
  have hexec : exec (.extentZeroingDone p) s = execExtentZeroingDone p s := rfl
  rw [hexec, execExtentZeroingDone, hq]
  rfl

/-- The device without partition `p`, whose extents are known zero (R316). -/
def State.withoutPart (s : State) (p : Nat) (q : Partition) : State :=
  { s.zeroGibs (gibsOf (q.hbm ++ q.lp)) with
    knownZero := (s.zeroGibs (gibsOf (q.hbm ++ q.lp))).knownZero.filter (fun g => !(gibsOf (q.hbm ++ q.lp)).contains g) ++
      gibsOf (q.hbm ++ q.lp),
    parts := tabDel (s.zeroGibs (gibsOf (q.hbm ++ q.lp))).parts p,
    lastEpochs := tabPut (s.zeroGibs (gibsOf (q.hbm ++ q.lp))).lastEpochs p q.epoch }

theorem State.withoutPart_parts (s : State) (p : Nat) (q : Partition) : (s.withoutPart p q).parts = tabDel s.parts p :=
  congrArg (tabDel · p) (s.zeroGibs_onlyZeroed _).parts

theorem State.destroyed_eq {s : State} {p : Nat} {q : Partition} (h : s.part? p = some q) (m : Fin 64) :
    s.destroyed p m = (s.withoutPart p q).ok m [] := by
  rw [State.destroyed, h]
  rfl

theorem exec_extentZeroingDone_destroys {s : State} {p : Fin 16} {q : Partition} {m : Fin 64} (hq : s.part? p.val = some q)
    (hz : q.zeroing = some (.destroy m)) (hx : ∀ x : Extent, x ∈ q.hbm ++ q.lp → x.addr % gib = 0 ∧ x.addr + x.gib * gib ≤ lpTop) :
    ∃ t u : State, exec (.extentZeroingDone p) s = .next t ∧ Replied u t m 0 0 [] ∧ u.part? p.val = none ∧
      (∀ k : Nat, k ≠ p.val → u.part? k = s.part? k) ∧
      (∀ (x : Extent) (a : Nat), x ∈ q.hbm ++ q.lp → x.addr ≤ a → a < x.addr + x.gib * gib → memGet u.mem a = 0) ∧
      (∀ a : Nat, (∀ x : Extent, x ∈ q.hbm ++ q.lp → a < x.addr ∨ x.addr + x.gib * gib ≤ a) → memGet u.mem a = memGet s.mem a) := by
  obtain ⟨hin, hout⟩ := s.zeroGibs_extents hx
  refine ⟨_, s.withoutPart p.val q, ?_, State.ok_replied _ m [], ?_, fun k hk => ?_, hin, hout⟩
  · rw [exec_extentZeroingDone hq, hz]
    exact congrArg Host.Outcome.next (State.destroyed_eq hq m)
  · rw [State.part?, State.withoutPart_parts, tabGet?_tabDel_same]
  · rw [State.part?, State.withoutPart_parts, tabGet?_tabDel_ne _ hk]
    rfl

/-! #### A creation ends -/

theorem State.part?_congr {s t : State} (h : t.parts = s.parts) (p : Nat) : t.part? p = s.part? p :=
  congrArg (tabGet? · p) h

theorem State.zeroNew_part {s z : State} {p : Nat} {q : Partition} {e : BitVec 24} (h : s.zeroNew p q = (e, z)) :
    z.part? p = some { q with zeroing := none, epoch := e } := by
  cases h
  exact State.setPart_part_same ..

/-- An area is allocated from the partition's extents and noted as taken (R314). -/
theorem State.alloc_part {s t : State} {p al n a : Nat} {q : Partition} (h : s.alloc p al n = some (a, t)) (hq : s.part? p = some q) :
    t.part? p = some { q with places := (a, n) :: q.places } := by
  rw [State.alloc, hq] at h
  dsimp only [State.free] at h
  split at h
  · cases h
    exact State.setPart_part_same ..
  · cases h

theorem State.zeroScratch_rewrites (s : State) (sect : Bytes) : Rewrites s (s.zeroScratch sect) :=
  Rewrites.foldl (fun t _ => (t.zero_rewrites _ _).trans
    (Rewrites.foldl (fun u _ => (u.zero_rewrites _ _).trans (State.modCore_rewrites ..)) _ _)) _ _

theorem Rewrites.parts {s t : State} (h : Rewrites s t) : t.parts = s.parts := by rw [h.eq]

/-- The clusters become the partition's own, with the section's LATENCY_FIXED (R339, R341). -/
def State.ownClusters (s : State) (p : Fin 16) (fixed : Bool) (l : List Nat) : State :=
  l.foldl (fun t c => t.setCluster c { t.cluster c with owner := some p, fixed := fixed }) s

theorem State.ownClusters_parts (s : State) (p : Fin 16) (fixed : Bool) (l : List Nat) : (s.ownClusters p fixed l).parts = s.parts :=
  List.foldlRecOn (motive := fun (t : State) => t.parts = s.parts) l _ rfl fun _ ht _ _ => ht

theorem State.ownClusters_owner (s : State) (p : Fin 16) (fixed : Bool) (l : List Nat) (n : Nat) :
    ((s.ownClusters p fixed l).cluster n).owner = if n ∈ l then some p else (s.cluster n).owner := by
  induction l generalizing s with
  | nil => rfl
  | cons c l ih =>
    refine (ih _).trans ?_
    by_cases hn : n = c
    · subst hn
      rw [State.setCluster_cluster_same, ite_self, if_pos List.mem_cons_self]
    · rw [State.setCluster_cluster_ne _ _ hn]
      simp only [List.mem_cons, hn, false_or]

/-- A new partition's areas are placed, its scratch is zero and its clusters are its own (R316, R341). -/
def State.placedPart (w : State) (p : Fin 16) (q : Partition) (tab dir : Nat) : State :=
  ((w.modPart p.val (fun x => { x with scaleTable := tab, directory := dir })).zeroScratch q.sect).ownClusters p (le q.sect 2 1 == 1)
    (clustersOf q.sect)

theorem exec_extentZeroingDone_creates {s z w1 w2 : State} {p : Fin 16} {q : Partition} {m : Fin 64} {e : BitVec 24} {tab dir : Nat}
    (hq : s.part? p.val = some q) (hz : q.zeroing = some (.create m)) (hnew : s.zeroNew p.val q = (e, z))
    (htab : z.alloc p.val 4096 8192 = some (tab, w1)) (hdir : w1.alloc p.val 4096 131072 = some (dir, w2))
    (hno : ∀ k : Nat × Partition, k ∈ s.parts → ∀ o : Fin 64, k.2.zeroing ≠ some (.destroy o)) :
    ∃ t u : State, exec (.extentZeroingDone p) s = .next t ∧
      Replied u t m 0 0 (pack [b8 tab, b8 dir, b4 (rKey 1 p.val e).toNat, b4 (rKey 3 p.val e).toNat]) ∧
      (u.part? p.val).map (·.zeroing) = some none ∧ (u.part? p.val).map (·.epoch) = some e ∧
      ∀ cl : Nat, cl ∈ clustersOf q.sect → (u.cluster cl).owner = some p := by
  have hpart := State.alloc_part hdir (State.alloc_part htab (State.zeroNew_part hnew))
  have hplaced : (w2.placedPart p q tab dir).part? p.val = (w2.modPart p.val (fun x => { x with scaleTable := tab, directory := dir })).part?
      p.val := State.part?_congr ((State.ownClusters_parts ..).trans (State.zeroScratch_rewrites ..).parts) _
  rw [State.modPart_part_same hpart] at hplaced
  refine ⟨_, w2.placedPart p q tab dir, ?_, State.ok_replied _ m _, by rw [hplaced]; rfl, by rw [hplaced]; rfl, fun cl hcl => ?_⟩
  · have hp : Fin.ofNat 16 p.val = p := Fin.ext (Nat.mod_eq_of_lt p.isLt)
    rw [exec_extentZeroingDone hq, hz]
    dsimp only
    rw [State.createWaits_none q hno, State.created, hq]
    dsimp only
    rw [hnew]
    dsimp only
    rw [htab]
    dsimp only
    rw [hdir]
    dsimp only
    rw [hp]
    rfl
  · rw [State.placedPart, State.ownClusters_owner, if_pos hcl]

/-! ### TIER_COPY_DONE (R331) -/

/-- The move of a page that is still being copied. -/
def copies (i : Fin 16384) (layer page : Nat) (v : TierMove) : Bool :=
  v.stream == i && v.layer == layer && v.page == page && v.phase == 0

/-- A partition without a move that failed: its new slot goes back, its command counts the page as skipped (R331). -/
def Partition.withoutMove (q : Partition) (mine : TierMove → Bool) (v : TierMove) : Partition :=
  { q.giveSlots [(v.toLp, v.newSlot)] with
    moves := q.moves.filter (fun w => !mine w),
    tierCmds := q.tierCmds.map (fun c => if some c.mbx = v.mbx then { c with skipped := c.skipped + 1 } else c) }

/-- A page's copy fails the check of its source at `b` (R331, R336). -/
def State.copyFails (s : State) (p : Nat) (q : Partition) (b : Nat) : State :=
  let t := (s.setPart p q).memError ⟨errKind b, false, BitVec.ofNat 48 b⟩
  ((if errKind b = 4 then t.lpFailure b else t).raise 0x8801 p 0 0 (pack [b1 (errKind b).toNat, b1 0, b8 b])).answerTier p

section
variable {s : State} {i : Fin 16384} {q : Partition} {v : TierMove} (layer page : Nat)

theorem exec_tierCopyDone (hq : s.part? (s.stream i.val).part.val = some q)
    (hv : q.moves.find? (copies i layer page) = some v) (ok : Bool) : exec (.tierCopyDone i layer page ok) s =
      if (ok && s.good v.oldSlot q.kvSlotBytes) = true then
        .next ((s.writeRaw v.newSlot (s.read v.oldSlot q.kvSlotBytes)).setPart (s.stream i.val).part.val
          { q with moves := q.moves.map (fun w => if copies i layer page w then { w with phase := 1 } else w) })
      else .next (s.copyFails (s.stream i.val).part.val (q.withoutMove (copies i layer page) v)
        (s.firstBad v.oldSlot q.kvSlotBytes)) := by
  have hexec : exec (.tierCopyDone i layer page ok) s = execTierCopyDone i layer page ok s := rfl
  have hfind : q.moves.find? (fun w => w.stream == i && w.layer == layer && w.page == page && w.phase == 0) = some v := hv
  rw [hexec, execTierCopyDone]
  dsimp only
  rw [hq]
  dsimp only
  rw [hfind]
  rfl

theorem exec_tierCopyDone_none (ok : Bool) (h : s.part? (s.stream i.val).part.val = none ∨
    (∃ q : Partition, s.part? (s.stream i.val).part.val = some q ∧ q.moves.find? (copies i layer page) = none)) :
    exec (.tierCopyDone i layer page ok) s = .next s := by
  have hexec : exec (.tierCopyDone i layer page ok) s = execTierCopyDone i layer page ok s := rfl
  rw [hexec, execTierCopyDone]
  rcases h with h | ⟨q, hq, h⟩
  · dsimp only
    rw [h]
  · have hfind : q.moves.find? (fun w => w.stream == i && w.layer == layer && w.page == page && w.phase == 0) = none := h
    dsimp only
    rw [hq]
    dsimp only
    rw [hfind]

end

theorem State.lpFailure_frame (s : State) (a : Nat) : (s.lpFailure a).mem = s.mem ∧ (s.lpFailure a).parts = s.parts := by
  unfold State.lpFailure
  dsimp only
  split
  · exact ⟨rfl, rfl⟩
  · split
    · exact ⟨rfl, rfl⟩
    · exact ⟨(State.raiseDev_onlySent ..).mem, (State.raiseDev_onlySent ..).parts⟩

/-- Without a command nothing is answered. -/
theorem State.answerTier_noCmds {s : State} {p : Nat} {q : Partition} (hq : s.part? p = some q) (h : q.tierCmds = []) :
    s.answerTier p = s.setPart p q := by
  have hsame : { q with tierCmds := [] } = q := by rw [← h]
  rw [State.answerTier, hq]
  dsimp only
  rw [h]
  exact congrArg (s.setPart p) hsame

theorem State.copyFails_frame (s : State) (p b : Nat) {q : Partition} (h : q.tierCmds = []) :
    (s.copyFails p q b).mem = s.mem ∧ (s.copyFails p q b).parts = (s.setPart p q).parts := by
  set t := (s.setPart p q).memError ⟨errKind b, false, BitVec.ofNat 48 b⟩ with ht
  have hnoted : (if errKind b = 4 then t.lpFailure b else t).mem = s.mem ∧
      (if errKind b = 4 then t.lpFailure b else t).parts = (s.setPart p q).parts := by
    split
    · exact t.lpFailure_frame b
    · exact ⟨rfl, rfl⟩
  have hsent := State.raise_onlySent (if errKind b = 4 then t.lpFailure b else t) 0x8801 p 0 0
    (pack [b1 (errKind b).toNat, b1 0, b8 b])
  rw [State.copyFails, ← ht]
  generalize State.raise _ _ _ _ _ _ = u at *
  have hparts := hsent.parts.trans hnoted.2
  rw [State.answerTier_noCmds ((State.part?_congr hparts p).trans (State.setPart_part_same s p q)) h]
  refine ⟨hsent.mem.trans hnoted.1, ?_⟩
  rw [State.setPart, hparts]
  exact tabPut_tabPut ..

theorem exec_tierCopyDone_ends (s : State) (i : Fin 16384) (l k : Nat) (q : Partition) (v : TierMove)
    (hq : s.part? (s.stream i.val).part.val = some q)
    (hv : q.moves.find? (fun w => w.stream == i && w.layer == l && w.page == k && w.phase == 0) = some v) :
    (s.good v.oldSlot q.kvSlotBytes = false → exec (.tierCopyDone i l k true) s = exec (.tierCopyDone i l k false) s) ∧
    (v.mbx = none → q.tierCmds = [] → ∃ t u : State, exec (.tierCopyDone i l k false) s = .next t ∧ t.mem = s.mem ∧ u.parts = t.parts ∧
      u = s.setPart (s.stream i.val).part.val { q.giveSlots [(v.toLp, v.newSlot)] with
        moves := q.moves.filter (fun w => !(w.stream == i && w.layer == l && w.page == k && w.phase == 0)) }) ∧
    (s.good v.oldSlot q.kvSlotBytes = true → exec (.tierCopyDone i l k true) s = .next ((s.writeRaw v.newSlot (s.read v.oldSlot q.kvSlotBytes)).setPart (s.stream i.val).part.val
      { q with moves := q.moves.map (fun w =>
        if w.stream == i && w.layer == l && w.page == k && w.phase == 0 then { w with phase := 1 } else w) })) := by
  have hexec := exec_tierCopyDone l k hq hv
  refine ⟨fun hbad => ?_, fun _ hcmds => ?_, fun hgood => ?_⟩
  · rw [hexec, hexec, if_neg (by simp [hbad]), if_neg (by simp)]
  · have hnone : (q.withoutMove (copies i l k) v).tierCmds = [] := congrArg (List.map _) hcmds
    obtain ⟨hmem, hparts⟩ := s.copyFails_frame (s.stream i.val).part.val (s.firstBad v.oldSlot q.kvSlotBytes) hnone
    refine ⟨_, _, by rw [hexec, if_neg (by simp)], hmem, ?_, rfl⟩
    rw [hparts, Partition.withoutMove, hcmds]
    exact congrArg (fun l => (s.setPart _ { q.giveSlots [(v.toLp, v.newSlot)] with
      moves := q.moves.filter (fun w => !copies i _ _ w), tierCmds := l }).parts) hcmds
  · rw [hexec, if_pos (by simp [hgood])]
    rfl

/-! ### TEST_COMPLETE (R482, R487, R489) -/

/-- A test of which a unit is done with the record `r`. -/
def SelfTest.ended (v : SelfTest) (unit : W64) (r : Bytes) : SelfTest :=
  { v with todo := v.todo.filter (fun u => u != unit), rolled := v.rolled.filter (fun x => x.1 != unit), records := v.records ++ [r] }

/-- A test whose command is answered. -/
def SelfTest.answered (v : SelfTest) : SelfTest := { v with mbx := none }

/-- The test `id`, changed. -/
def modTest (id : BitVec 32) (f : SelfTest → SelfTest) (v : SelfTest) : SelfTest := if v.id = id then f v else v

theorem find?_map_modTest {id : BitVec 32} {f : SelfTest → SelfTest} (hf : ∀ v, (f v).id = v.id) (l : List SelfTest) :
    (l.map (modTest id f)).find? (fun x => x.id == id) = (l.find? (fun x => x.id == id)).map f := by
  induction l with
  | nil => rfl
  | cons v l ih =>
    rw [List.map_cons, List.find?_cons, List.find?_cons]
    by_cases hv : v.id = id
    · simp [modTest, hv, hf]
    · have hne : (v.id == id) = false := beq_eq_false_iff_ne.mpr hv
      simp only [modTest, hv, if_false, hne, ih]

theorem le_unitRecord_kind (unit phys kind status core value power n : Nat) :
    le (patch (unitRecord unit phys kind status core value power) 24 (b4 n)) 12 1 = kind % 256 := by
  simp [le, patch, unitRecord, b1, b2, b4, b8, natToBytes, bytesToNat]

theorem le_unitRecord_status (unit phys kind status core value power n : Nat) :
    le (patch (unitRecord unit phys kind status core value power) 24 (b4 n)) 13 1 = status % 256 := by
  simp [le, patch, unitRecord, b1, b2, b4, b8, natToBytes, bytesToNat]

/-- The command of a test whose last unit is done is answered (R489). -/
def State.answerTest (s : State) (id : BitVec 32) : State :=
  match s.tests.find? (fun (t : SelfTest) => t.id == id) with
  | none => s
  | some t =>
    match t.mbx with
    | some m =>
      if t.todo.isEmpty then
        ({ s with tests := s.tests.map (modTest id SelfTest.answered) } : State).ok m (b4 id.toNat)
      else s
    | none => s

theorem State.endUnitTest_spec (s : State) (id : BitVec 32) (unit : W64) (phys status sig : Nat) : ∃ (y : State) (r : Bytes),
    s.endUnitTest id unit phys status sig = y.answerTest id ∧ y.tests = s.tests.map (modTest id (·.ended unit r)) ∧
    y.parts = s.parts ∧ le r 12 1 = 5 ∧ le r 13 1 = status % 256 :=
  ⟨_, _, rfl, rfl, rfl, le_unitRecord_kind .., le_unitRecord_status ..⟩

theorem State.answerTest_spec {s : State} {id : BitVec 32} {w : SelfTest} (h : s.tests.find? (fun x => x.id == id) = some w) :
    (s.answerTest id).parts = s.parts ∧
    (s.answerTest id).tests.find? (fun x => x.id == id) = some { w with mbx := if w.todo = [] then none else w.mbx } := by
  rw [State.answerTest, h]
  dsimp only
  split
  · next m hm =>
    by_cases hdone : w.todo = []
    · rw [if_pos (by simp [hdone]), if_pos hdone]
      obtain ⟨-, -, -, -, hframe⟩ := State.ok_replied
        ({ s with tests := s.tests.map (modTest id SelfTest.answered) } : State) m (b4 id.toNat)
      rw [hframe]
      refine ⟨rfl, ?_⟩
      dsimp only
      rw [find?_map_modTest (f := SelfTest.answered) (fun _ => rfl), h]
      rfl
    · rw [if_neg (by simpa using hdone), if_neg hdone]
      exact ⟨rfl, h⟩
  · next hm =>
    have hsame : { w with mbx := if w.todo = [] then none else w.mbx } = w := by
      rw [hm, ite_self, ← hm]
    rw [hsame]
    exact ⟨rfl, h⟩

/-- No unit waits to roll: no partition comes to its boundary. -/
theorem State.nextRolls_none {s : State} (h : ∀ (p : Nat) (q : Partition), s.part? p = some q → ∀ w ∈ q.unitWaits, w.test = none) :
    s.nextRolls = s := by
  refine List.foldlRecOn (motive := fun t => t = s) _ _ rfl fun t ht p _ => ?_
  subst ht
  split
  · next q hq =>
    refine if_neg ?_
    simp only [List.any_eq_true, not_exists, not_and]
    intro w hw
    simp [h p q hq w hw]
  · rfl

theorem exec_testComplete_none (s : State) (n : Nat) (unit sig : W64)
    (h : s.tests.find? (fun t => t.id.toNat == n && t.mbx.isSome && t.todo.contains unit) = none) :
    exec (.testComplete n unit sig) s = .next s := by
  have hexec : exec (.testComplete n unit sig) s = execTestComplete n unit sig s := rfl
  rw [hexec, execTestComplete]
  dsimp only
  rw [h]

theorem State.stillTestable_maintenance {s : State} (h : s.dev.mode = .maintenance) (unit : Nat) : s.stillTestable unit = true := by
  have hway : s.testWay unit = .inPlace := if_pos h
  rw [State.stillTestable, hway]

/-- The test of a cluster's units in MAINTENANCE: in place, with pass or fail by its signature (R487, R489). -/
theorem exec_testComplete_inPlace {s : State} {v : SelfTest} {unit sig : W64} (hmode : s.dev.mode = .maintenance)
    (hkind : bits unit.toNat 56 8 = 5) (hrolled : v.rolled = [])
    (hv : s.tests.find? (fun t => t.id.toNat == v.id.toNat && t.mbx.isSome && t.todo.contains unit) = some v)
    (hwaits : s.rollWaits unit.toNat = false) : exec (.testComplete v.id.toNat unit sig) s = .next
      (s.endUnitTest v.id unit (s.physUnit unit.toNat) (if sig = Config.testSignature 5 1 then 0 else 1) sig.toNat).nextRolls := by
  have hexec : exec (.testComplete v.id.toNat unit sig) s = execTestComplete v.id.toNat unit sig s := rfl
  have htest : testOf 5 = 1 := rfl
  rw [hexec, execTestComplete]
  dsimp only
  rw [hv]
  dsimp only
  rw [hwaits, hrolled, hkind, htest, State.stillTestable_maintenance hmode]
  simp only [beq_iff_eq]
  rfl

theorem exec_testComplete_ends (s : State) (v : SelfTest) (unit sig : W64) (hmode : s.dev.mode = .maintenance)
    (hkind : bits unit.toNat 56 8 = 5) (hrolled : v.rolled = [])
    (hv : s.tests.find? (fun t => t.id.toNat == v.id.toNat && t.mbx.isSome && t.todo.contains unit) = some v)
    (hid : s.tests.find? (fun t => t.id == v.id) = some v)
    (hparts : ∀ (p : Nat) (q : Partition), s.part? p = some q → ∀ w : UnitWait, w ∈ q.unitWaits → w.test = none)
    (hwaits : s.rollWaits unit.toNat = false) :
    ∃ (t : State) (r : Bytes) (w : SelfTest), exec (.testComplete v.id.toNat unit sig) s = .next t ∧
      t.tests.find? (fun x => x.id == v.id) = some w ∧ w.records = v.records ++ [r] ∧
      w.todo = v.todo.filter (fun u => u != unit) ∧ w.mbx = (if w.todo = [] then none else v.mbx) ∧
      le r 12 1 = 5 ∧ le r 13 1 = (if sig = Config.testSignature 5 1 then 0 else 1) := by
  obtain ⟨y, r, hend, htests, hyparts, hrkind, hrstatus⟩ := s.endUnitTest_spec v.id unit (s.physUnit unit.toNat)
    (if sig = Config.testSignature 5 1 then 0 else 1) sig.toNat
  have hfind : y.tests.find? (fun x => x.id == v.id) = some (v.ended unit r) := by
    rw [htests, find?_map_modTest (f := (·.ended unit r)) (fun _ => rfl), hid]
    rfl
  obtain ⟨haparts, hafind⟩ := State.answerTest_spec hfind
  have hrolls : (y.answerTest v.id).nextRolls = y.answerTest v.id := State.nextRolls_none fun p q hq =>
    hparts p q ((State.part?_congr (haparts.trans hyparts) p).symm.trans hq)
  refine ⟨y.answerTest v.id, r, _, ?_, hafind, rfl, rfl, rfl, hrkind, hrstatus.trans ?_⟩
  · rw [exec_testComplete_inPlace hmode hkind hrolled hv hwaits, hend, hrolls]
  · split <;> rfl

/-- Settles O30, row by row; of the zeroing by what it ends. -/
theorem backgroundWorkEnds : Obligations.BackgroundWorkEnds := by
  unfold Obligations.BackgroundWorkEnds
  refine ⟨fun s q => exec_remapCopyDone_idle, fun s p h => ?_, fun s i l k ok h => exec_tierCopyDone_none l k ok h,
    exec_testComplete_none, exec_remapCopyDone_engages, fun s p q m hq => ⟨fun hz => ?_, fun hz hx =>
      exec_extentZeroingDone_destroys hq hz hx, fun hz z w1 w2 e tab dir hnew htab hdir hno =>
      exec_extentZeroingDone_creates hq hz hnew htab hdir hno⟩, exec_tierCopyDone_ends, exec_testComplete_ends⟩
  · have hexec : exec (.extentZeroingDone p) s = execExtentZeroingDone p s := rfl
    rw [hexec, execExtentZeroingDone, h]
  · rw [exec_extentZeroingDone hq, hz]

end Sys2Proof.Machine
end


section
/-! PROOFS. What PART_CREATE, PART_DESTROY, PART_RESET, MODEL_LOAD and MODEL_UNLOAD begin
(R314 to R316, R433, R444 to R447, R525). -/

namespace Sys2Proof.Machine

/-! ### PART_CREATE -/

/-- A command that is refused with status `st` and goes on nowhere. -/
theorem starts_refused {o : Answer} {s : State} {m : Fin 64} {k : Nat} {P : Prop} (h : o = .next (s.fail m k)) :
    (∀ st d : Nat, some (k, 0) = some (st, d) → ∃ t, o = .next t ∧ Replied s t m st d []) ∧ (some (k, 0) = none → P) := by
  refine ⟨fun st d hwhy => ?_, nofun⟩
  cases hwhy
  exact replied_fail h

/-- The section of a partition in the CURRENT version. -/
def State.ownSect (s : State) (p : Nat) : Option Bytes := s.currentCfg.bind (fun c => sectOf c.image 2 p)

/-- A commit changes the partition, or its creation, destruction or reset is under way (R422, R455). -/
def State.partBusy (s : State) (p : Nat) : Bool := s.commitChanges p || ((s.part? p).map (fun q => !q.settled)).getD false

/-- What a new partition takes is taken, or too small for it (R314). -/
def State.noRoom (s : State) (pg sect : Bytes) : Bool :=
  s.parts.any (fun q => q.2.held.any (fun a => (extsOf pg false ++ extsOf pg true).any (fun b => a.meets b)))
    || (extsOf pg false ++ extsOf pg true).any s.meetsSpare
    || (extBytes (extsOf pg false) < 8192 + 131072 + par createSizes pg 6 * minSlot || extBytes (extsOf pg true) < par createSizes pg 7 * minSlot)
    || !s.lpRoom (extsOf pg true) || !(clustersOf sect).all (fun c => (s.clusterOwner c).isNone)

theorem State.partBusy_iff (s : State) (p : Nat) :
    s.partBusy p = true ↔ s.commitChanges p = true ∨ (s.part? p).any (fun q => !q.settled) = true := by
  unfold State.partBusy
  cases s.part? p <;> simp

theorem State.noRoom_iff (s : State) (pg sect : Bytes) : s.noRoom pg sect = true ↔
    s.parts.any (fun q => q.2.held.any (fun a => (extsOf pg false ++ extsOf pg true).any (fun b => a.meets b))) = true ∨
      (extsOf pg false ++ extsOf pg true).any s.meetsSpare = true ∨
      extBytes (extsOf pg false) < 8192 + 131072 + par createSizes pg 6 * minSlot ∨
      extBytes (extsOf pg true) < par createSizes pg 7 * minSlot ∨ s.lpRoom (extsOf pg true) = false ∨
      (∃ c ∈ clustersOf sect, (s.clusterOwner c).isSome = true) := by
  have hclusters : (clustersOf sect).all (fun c => (s.clusterOwner c).isNone) = false ↔
      ∃ c ∈ clustersOf sect, (s.clusterOwner c).isSome = true := by
    simp [Option.isSome_iff_ne_none]
  simp only [State.noRoom, Bool.or_eq_true, Bool.not_eq_true', decide_eq_true_eq, hclusters, or_assoc]

theorem exec_partCreate {s : State} {m : Fin 64} {p : Nat} (h : s.Takes m specPartCreate) (hp : p = le (s.page m) 0x40 1) :
    exec (.partCreate m) s = .next (
      if s.popped.partBusy p = true then s.popped.fail m 8
      else match s.popped.part? p, s.popped.ownSect p with
        | none, some sect => if s.popped.noRoom (s.page m) sect = true then s.popped.fail m 10
          else (s.popped.setPart p (newPartition (s.page m) m sect)).background m
        | _, _ => s.popped.fail m 3) := by
  have hexec : exec (.partCreate m) s = execPartCreate m s := rfl
  rw [hexec, execPartCreate, State.runCmd_takes _ _ _ _ h]
  subst hp
  rfl

theorem partCreate_starts : Starts .partCreate specPartCreate (fun _ pg s =>
      if s.commitChanges (le pg 0x40 1) = true ∨ (s.part? (le pg 0x40 1)).any (fun q => !q.settled) = true then some (8, 0)
      else if (s.part? (le pg 0x40 1)).isSome = true ∨ s.ownSect (le pg 0x40 1) = none then some (3, 0)
      else if s.parts.any (fun q => q.2.held.any (fun a => (extsOf pg false ++ extsOf pg true).any (fun b => a.meets b))) = true ∨
        (extsOf pg false ++ extsOf pg true).any s.meetsSpare = true ∨
        extBytes (extsOf pg false) < 8192 + 131072 + par createSizes pg 6 * minSlot ∨
        extBytes (extsOf pg true) < par createSizes pg 7 * minSlot ∨ s.lpRoom (extsOf pg true) = false ∨
        (∃ c ∈ clustersOf ((s.ownSect (le pg 0x40 1)).getD []), (s.clusterOwner c).isSome = true)
      then some (10, 0) else none)
    (fun m pg s => s.setPart (le pg 0x40 1) (newPartition pg m ((s.ownSect (le pg 0x40 1)).getD []))) := by
  intro s m h
  dsimp only
  simp only [exec_partCreate h rfl, ← State.partBusy_iff, ← State.noRoom_iff]
  cases s.popped.partBusy (le (s.page m) 0x40 1) with
  | true => exact starts_refused rfl
  | false =>
    cases s.popped.part? (le (s.page m) 0x40 1) with
    | some q => exact starts_refused rfl
    | none =>
      cases s.popped.ownSect (le (s.page m) 0x40 1) with
      | none => exact starts_refused rfl
      | some sect =>
        dsimp only [Option.getD_some]
        rw [if_neg Bool.false_ne_true, if_neg (by simp), if_neg Bool.false_ne_true]
        by_cases hroom : s.popped.noRoom (s.page m) sect = true
        · rw [if_pos hroom, if_pos hroom]
          exact starts_refused rfl
        · rw [if_neg hroom, if_neg hroom]
          exact ⟨nofun, fun _ => rfl⟩

/-! ### PART_DESTROY -/

theorem partDestroy_starts : Starts .partDestroy specPartDestroy (fun _ pg s => match s.part? (le pg 0x40 1) with
      | none => some (3, 0)
      | some q => if q.settled = false ∨ s.commitChanges (le pg 0x40 1) = true then some (8, 0) else none)
    (fun m pg s => s.takeDown (le pg 0x40 1) m) := by
  intro s m h
  have hexec : exec (.partDestroy m) s = execPartDestroy m s := rfl
  rw [hexec, execPartDestroy, State.runCmd_takes _ _ _ _ h]
  dsimp only
  cases s.popped.part? (le (s.page m) 0x40 1) with
  | none => exact starts_refused rfl
  | some q =>
    dsimp only
    by_cases hbusy : q.settled = false ∨ s.popped.commitChanges (le (s.page m) 0x40 1) = true
    · rw [if_pos hbusy, if_pos (by simpa using hbusy)]
      exact starts_refused rfl
    · rw [if_neg hbusy, if_neg (by simpa using hbusy)]
      exact ⟨nofun, fun _ => rfl⟩

theorem State.syncServing_parts (s : State) : s.syncServing.parts = s.parts := by
  unfold State.syncServing
  split
  · split
    · exact (s.setMode_onlySent .serving).parts
    · rfl
  · split
    · rfl
    · exact (s.setMode_onlySent .ready).parts
  · rfl

theorem State.takeDown_zeroing {s : State} {p : Nat} {q : Partition} (m : Fin 64) (hq : s.part? p = some q)
    (hwaits : ∀ x, (((((s.abortLoads p).dropStep p).zeroArchive p).zeroAudio p).wipeStreams p).part? p = some x → x.unitWaits = []) :
    ((s.takeDown p m).part? p).map (·.zeroing) = some (some (.destroy m)) := by
  unfold State.takeDown
  split
  next hnone => rw [hnone] at hq; cases hq
  extract_lets wiped waits _ _ _ _ _ _ _ _
  have hnone : waits = [] := by
    show ((wiped.part? p).map _).getD [] = []
    cases hx : wiped.part? p with
    | none => rfl
    | some x => simp [hwaits x hx]
  rw [hnone, List.foldl_nil, State.part?_congr (State.syncServing_parts _), State.setPart_part_same]
  rfl

/-! ### PART_RESET -/

/-- What the closing of a partition's streams and the end of its loads leave as it is: the resets under way, whether a step is in
progress, the contexts and the device's registers. -/
structure KeepsCourse (s t : State) : Prop where
  dev : t.dev = s.dev
  ctxs : t.ctxs = s.ctxs
  resetting : ∀ p : Nat, (t.part? p).map (·.resetting) = (s.part? p).map (·.resetting)
  step : ∀ p : Nat, ((t.part? p).bind (·.step)).isSome = ((s.part? p).bind (·.step)).isSome

theorem KeepsCourse.rfl' (s : State) : KeepsCourse s s := ⟨rfl, rfl, fun _ => rfl, fun _ => rfl⟩

theorem KeepsCourse.trans {s t u : State} (h : KeepsCourse s t) (k : KeepsCourse t u) : KeepsCourse s u :=
  ⟨k.dev.trans h.dev, k.ctxs.trans h.ctxs, fun p => (k.resetting p).trans (h.resetting p), fun p => (k.step p).trans (h.step p)⟩

theorem KeepsCourse.foldl {α : Type} {f : State → α → State} (hf : ∀ s a, KeepsCourse s (f s a)) (l : List α) (s : State) :
    KeepsCourse s (l.foldl f s) :=
  List.foldlRecOn (motive := KeepsCourse s) l f (.rfl' s) fun t ht a _ => ht.trans (hf t a)

theorem KeepsCourse.of_parts {s t : State} (hdev : t.dev = s.dev) (hctxs : t.ctxs = s.ctxs) (hparts : t.parts = s.parts) :
    KeepsCourse s t :=
  ⟨hdev, hctxs, fun p => by rw [State.part?_congr hparts], fun p => by rw [State.part?_congr hparts]⟩

theorem OnlySent.keepsCourse {s t : State} (h : OnlySent s t) : KeepsCourse s t := .of_parts h.dev h.ctxs h.parts

theorem Rewrites.keepsCourse {s t : State} (h : Rewrites s t) : KeepsCourse s t := .of_parts (by rw [h.eq]) (by rw [h.eq]) h.parts

theorem Replied.keepsCourse {s t : State} {m : Fin 64} {status detail : Nat} {data : Bytes} (h : Replied s t m status detail data) :
    KeepsCourse s t := by
  obtain ⟨-, -, -, -, ht⟩ := h
  exact .of_parts (by rw [ht]) (by rw [ht]) (by rw [ht])

theorem KeepsCourse.raisePart {s t : State} (h : KeepsCourse s t) (code p : Nat) (data : Bytes) : KeepsCourse s (t.raisePart code p data) :=
  h.trans (t.raisePart_onlySent code p data).keepsCourse

theorem KeepsCourse.raiseStream {s t : State} (h : KeepsCourse s t) (code i : Nat) (data : Bytes) :
    KeepsCourse s (t.raiseStream code i data) :=
  h.trans (t.raiseStream_onlySent code i data).keepsCourse

theorem State.setStream_keepsCourse (s : State) (i : Nat) (x : Stream) : KeepsCourse s (s.setStream i x) := .of_parts rfl rfl rfl

theorem State.setPart_keepsCourse {s : State} {p : Nat} {q r : Partition} (hq : s.part? p = some q) (hreset : r.resetting = q.resetting)
    (hstep : r.step.isSome = q.step.isSome) : KeepsCourse s (s.setPart p r) := by
  refine ⟨rfl, rfl, fun k => ?_, fun k => ?_⟩
  · by_cases hk : k = p
    · rw [hk, State.setPart_part_same, hq, Option.map_some, hreset]; rfl
    · rw [State.setPart_part_ne _ _ hk]
  · by_cases hk : k = p
    · rw [hk, State.setPart_part_same, hq]; exact hstep
    · rw [State.setPart_part_ne _ _ hk]

theorem State.modPart_keepsCourse (s : State) (p : Nat) {f : Partition → Partition} (hreset : ∀ q, (f q).resetting = q.resetting)
    (hstep : ∀ q, (f q).step.isSome = q.step.isSome) : KeepsCourse s (s.modPart p f) := by
  cases hq : s.part? p with
  | none => rw [State.modPart, hq]; exact .rfl' s
  | some q => rw [State.modPart_some hq]; exact State.setPart_keepsCourse hq (hreset q) (hstep q)

theorem State.modPart_part (s : State) (p : Nat) (f : Partition → Partition) : (s.modPart p f).part? p = (s.part? p).map f := by
  cases hq : s.part? p with
  | none => rw [State.modPart, hq]; exact hq
  | some q => exact State.modPart_part_same hq f

theorem State.release_keepsCourse (s : State) (p a : Nat) : KeepsCourse s (s.release p a) :=
  s.modPart_keepsCourse p (fun _ => rfl) (fun _ => rfl)

theorem State.dropWork_keepsCourse (s : State) (p i : Nat) : KeepsCourse s (s.dropWork p i) :=
  s.modPart_keepsCourse p (fun _ => rfl) (fun _ => Option.isSome_map)

theorem State.giveSlots_keepsCourse (s : State) (p : Nat) (l : List (Bool × Nat)) :
    KeepsCourse s (s.modPart p (fun q => q.giveSlots l)) :=
  s.modPart_keepsCourse p (fun _ => rfl) (fun _ => rfl)

theorem State.answer_keepsCourse (s : State) (ms : List (Fin 64)) (status : Nat) : KeepsCourse s (s.answer ms status) :=
  KeepsCourse.foldl (fun t m => (t.fail_replied m status).keepsCourse) _ _

theorem State.dropWaiting_keepsCourse (s : State) (i : Nat) : KeepsCourse s (s.dropWaiting i) := by
  unfold State.dropWaiting
  dsimp only
  split
  · exact .rfl' s
  · refine KeepsCourse.raiseStream ?_ _ _ _
    exact State.setStream_keepsCourse ..

theorem State.dropMoves_keepsCourse (s : State) (p i : Nat) : KeepsCourse s (s.dropMoves p i) := by
  unfold State.dropMoves
  cases hq : s.part? p with
  | none => exact .rfl' s
  | some q =>
    dsimp only
    refine KeepsCourse.trans (State.setPart_keepsCourse hq ?_ ?_) (KeepsCourse.foldl (fun t c => ?_) _ _)
    · rfl
    · rfl
    · exact (State.ok_replied ..).keepsCourse

theorem State.recheckAdmission_keepsCourse (s : State) (p : Nat) (mayset : Bool) : KeepsCourse s (s.recheckAdmission p mayset) := by
  have hmark : ∀ {q : Partition} (b : Bool) (code : Nat) (data : Bytes), s.part? p = some q →
      KeepsCourse s ((s.setPart p { q with overAdmitted := b }).raisePart code p data) := by
    intro q b code data hq
    have hset : KeepsCourse s (s.setPart p { q with overAdmitted := b }) := State.setPart_keepsCourse hq rfl rfl
    exact hset.raisePart code p data
  unfold State.recheckAdmission
  cases hq : s.part? p with
  | none => exact .rfl' s
  | some q =>
    exact iteInduction (fun _ => hmark _ _ _ hq) (fun _ => iteInduction (fun _ => hmark _ _ _ hq) (fun _ => .rfl' s))

/-- The page table and the tail of a closing stream are given back, and its entry of the directory becomes zero (R268). -/
def State.dropPages (s : State) (p i : Nat) (x : Stream) : State :=
  if x.pageTable = 0 then s
  else match s.part? p with
    | some q => (((s.release p x.pageTable).release p x.tailAddr).writeNat (q.directory + 8 * i) 8 0)
    | none => s

theorem State.dropPages_keepsCourse (s : State) (p i : Nat) (x : Stream) : KeepsCourse s (s.dropPages p i x) := by
  unfold State.dropPages
  split
  · exact .rfl' s
  · split
    · exact ((s.release_keepsCourse p x.pageTable).trans (State.release_keepsCourse ..)).trans (.of_parts rfl rfl rfl)
    · exact .rfl' s

theorem State.closeStream_keepsCourse (s : State) (i : Nat) (drained : Bool) : KeepsCourse s (s.closeStream i drained) := by
  unfold State.closeStream
  extract_lets x0 p s1 s2 s3 s4 s5 s6 s7 s8 s9 s10 x s11 s12 s13 s14 s15 s16 s17 s18
  by_cases hclosed : x0.state = .closed
  · rw [if_pos hclosed]
    exact .rfl' s
  rw [if_neg hclosed]
  have h1 : KeepsCourse s s1 := s.dropWaiting_keepsCourse i
  have h2 : KeepsCourse s1 s2 := (s1.closeMirror_onlySent x0).keepsCourse
  have h3 : KeepsCourse s2 s3 := s2.dropMoves_keepsCourse p i
  have h4 : KeepsCourse s3 s4 := s3.giveSlots_keepsCourse p _
  have h5 : KeepsCourse s4 s5 := s4.dropPages_keepsCourse p i x0
  have h6 : KeepsCourse s5 s6 := s5.release_keepsCourse p _
  have h7 : KeepsCourse s6 s7 := s6.modPart_keepsCourse p (fun _ => rfl) (fun _ => rfl)
  clear_value s7
  have h8 : KeepsCourse s7 s8 := .of_parts rfl rfl rfl
  have h9 : KeepsCourse s8 s9 := s8.dropWork_keepsCourse p i
  clear_value s9
  have h13 : KeepsCourse s9 s13 := .of_parts rfl rfl rfl
  have h18 : KeepsCourse s13 s18 := ((((s13.answer_keepsCourse _ _).trans (State.answer_keepsCourse ..)).trans
    (State.answer_keepsCourse ..)).trans (State.answer_keepsCourse ..)).trans (State.answer_keepsCourse ..)
  have hopen : KeepsCourse s s9 := (((((((h1.trans h2).trans h3).trans h4).trans h5).trans h6).trans h7).trans h8).trans h9
  exact (hopen.trans (h13.trans h18)).trans (s18.recheckAdmission_keepsCourse p false)

theorem State.wipeStreams_keepsCourse (s : State) (p : Nat) : KeepsCourse s (s.wipeStreams p) :=
  (KeepsCourse.foldl (fun t (x : Nat × Stream) => t.closeStream_keepsCourse x.1 false) (s.openStreams p) s).trans (.of_parts rfl rfl rfl)

/-- A stream after its partition's streams were wiped. -/
def Stream.wipedIn (x : Stream) (p : Nat) : Stream := if x.part.val = p then x.wiped else x

/-- No stream of the partition is open once its streams are wiped. -/
theorem State.wipeStreams_closed (s : State) (p i : Nat) (h : ((s.wipeStreams p).stream i).part.val = p) :
    ((s.wipeStreams p).stream i).state = .closed := by
  have hmap : (s.wipeStreams p).streams =
      ((s.openStreams p).foldl (fun t x => t.closeStream x.1 false) s).streams.map (fun x => (x.1, x.2.wipedIn p)) := by
    refine List.map_congr_left fun x _ => ?_
    unfold Stream.wipedIn
    split <;> rfl
  unfold State.stream tabGet at h ⊢
  rw [hmap] at h ⊢
  generalize ((s.openStreams p).foldl (fun t x => t.closeStream x.1 false) s).streams = l at h ⊢
  have hget : tabGet? (l.map (fun x => (x.1, x.2.wipedIn p))) i = (tabGet? l i).map (·.wipedIn p) :=
    tabGet?_map l (fun _ x => x.wipedIn p) i
  rw [hget] at h ⊢
  revert h
  cases tabGet? l i with
  | none => exact fun _ => rfl
  | some x =>
    dsimp only [Option.map_some, Option.getD_some, Stream.wipedIn]
    split
    · exact fun _ => rfl
    · exact fun h => absurd h ‹_›

theorem State.zeroAudio_rewrites (s : State) (p : Nat) : Rewrites s (s.zeroAudio p) := by
  refine Rewrites.foldl (fun t g => ?_) _ _
  split
  · exact (t.zero_rewrites _ _).trans (State.zero_rewrites ..)
  · exact .rfl' t

theorem State.discardLoad_onlySent (s : State) (p : Nat) (o : ImageSlot) (status : Nat) : OnlySent s (s.discardLoad p o status) := by
  unfold State.discardLoad
  split
  · exact State.raisePart_onlySent ..
  · exact .rfl' s

theorem Partition.setImg_course (q : Partition) (b : Bool) (o : ImageSlot) :
    (q.setImg b o).resetting = q.resetting ∧ (q.setImg b o).step = q.step := by
  cases b <;> exact ⟨rfl, rfl⟩

theorem State.emptySlot_keepsCourse (s : State) (p : Nat) (b : Bool) : KeepsCourse s (s.emptySlot p b) := by
  unfold State.emptySlot
  split
  · exact .rfl' s
  next q hq =>
    obtain ⟨hreset, hstep⟩ := q.setImg_course b .none
    exact (State.setPart_keepsCourse hq hreset (by rw [hstep])).trans (State.release_keepsCourse ..)

theorem State.abortLoads_keepsCourse (s : State) (p : Nat) : KeepsCourse s (s.abortLoads p) := by
  unfold State.abortLoads
  split
  · exact .rfl' s
  · refine KeepsCourse.foldl (fun t b => ?_) _ _
    split
    · exact (t.discardLoad_onlySent ..).keepsCourse.trans (State.emptySlot_keepsCourse ..)
    · exact .rfl' t

theorem State.writeScaleTable_rewrites (s : State) (p : Nat) : Rewrites s (s.writeScaleTable p) := by
  unfold State.writeScaleTable
  split
  · exact .rfl' s
  · exact Rewrites.foldl (fun t k => t.writeRaw_rewrites _ _) _ _

/-- The step in progress and the contexts are gone (R525). -/
theorem State.dropStep_spec (s : State) (p : Nat) : (s.dropStep p).dev = s.dev ∧ (s.dropStep p).liveContexts p = [] ∧
    ((s.dropStep p).part? p).map (·.resetting) = (s.part? p).map (·.resetting) ∧ ((s.dropStep p).part? p).bind (·.step) = none := by
  unfold State.dropStep
  extract_lets z stopped left
  have hzero : z.dev = s.dev ∧ z.parts = s.parts := by
    unfold z
    cases (s.part? p).bind (·.step) <;> exact ⟨rfl, rfl⟩
  have hstop : KeepsButCores z stopped :=
    List.foldlRecOn (motive := KeepsButCores z) _ _ rfl fun t ht x _ => ht.trans (t.stopContext_spec x.1 x.2 .idle).1
  have hdev : left.dev = s.dev := by
    show stopped.dev = s.dev
    rw [hstop, ← hzero.1]
  have hpart : left.part? p = s.part? p := State.part?_congr (by
    show stopped.parts = s.parts
    rw [hstop, ← hzero.2]) p
  have hctxs : left.liveContexts p = [] := by
    show (stopped.ctxs.filter _).filter _ = []
    simp [List.filter_filter]
  clear_value left
  refine ⟨by rw [State.modPart_eq]; exact hdev, by rw [State.modPart_eq]; exact hctxs, ?_, ?_⟩
  · rw [State.modPart_part, hpart, Option.map_map]
    rfl
  · rw [State.modPart_part, hpart]
    cases s.part? p <;> rfl

theorem Rewrites.stream_state {s t : State} (h : Rewrites s t) (i : Nat) :
    (t.stream i).part = (s.stream i).part ∧ (t.stream i).state = (s.stream i).state := by
  rcases h.stream i with h | h <;> rw [h] <;> exact ⟨rfl, rfl⟩

/-- A partition is marked as being reset, and the reset is counted (R525). -/
def State.markResetting (s : State) (p : Nat) (m : Fin 64) : State :=
  let t := s.modPart p (fun x => { x with resetting := some (m, false) })
  { t with dev := { t.dev with partResets := satAdd t.dev.partResets 1 } }

/-- A reset partition's queue pairs refuse requests, and its page slots are all free (R525). -/
def State.freeSlots (s : State) (p : Nat) : State :=
  ({ s with qps := s.qps.map (fun (x : Nat × Qp) => if x.2.owner = p then (x.1, { x.2 with refuse := true }) else x) } : State).modPart p
    (fun x => { x with kvHbm := (x.kvAll.filter (fun v => !v.1)).map (·.2), kvLp := (x.kvAll.filter (·.1)).map (·.2), moves := [] })

/-- A partition's reset up to the reload of its scratch (R525 steps 1 to 4). -/
def State.beginReset (s : State) (p : Nat) (m : Fin 64) (sect : Bytes) : State :=
  ((((((((s.markResetting p m).abortLoads p).dropStep p).zeroAudio p).wipeStreams p).freeSlots p).writeScaleTable p).zeroScratch sect)

theorem State.freeSlots_keepsCourse (s : State) (p : Nat) : KeepsCourse s (s.freeSlots p) := by
  refine KeepsCourse.trans ?_ (State.modPart_keepsCourse _ p ?_ ?_)
  · exact .of_parts rfl rfl rfl
  · exact fun _ => rfl
  · exact fun _ => rfl

theorem State.freeSlots_stream (s : State) (p i : Nat) : (s.freeSlots p).stream i = s.stream i := State.modPart_stream ..

theorem State.beginReset_spec {s : State} {p : Nat} {q : Partition} (hq : s.part? p = some q) (m : Fin 64) (sect : Bytes) :
    ((s.beginReset p m sect).part? p).map (·.resetting) = some (some (m, false)) ∧
    ((s.beginReset p m sect).part? p).bind (·.step) = none ∧ (s.beginReset p m sect).liveContexts p = [] ∧
    (s.beginReset p m sect).dev.partResets = satAdd s.dev.partResets 1 ∧
    ∀ i : Nat, ((s.beginReset p m sect).stream i).part.val = p → ((s.beginReset p m sect).stream i).state = .closed := by
  have hmark : ((s.markResetting p m).part? p).map (·.resetting) = some (some (m, false)) ∧
      (s.markResetting p m).dev.partResets = satAdd s.dev.partResets 1 := by
    have hpart : (s.markResetting p m).part? p = (s.part? p).map (fun x => { x with resetting := some (m, false) }) :=
      State.modPart_part ..
    refine ⟨by rw [hpart, hq]; rfl, ?_⟩
    rw [State.markResetting, State.modPart_eq]
  unfold State.beginReset
  have habort := (s.markResetting p m).abortLoads_keepsCourse p
  generalize s.markResetting p m = a at *
  generalize a.abortLoads p = b at *
  obtain ⟨hdev, hctxs, hresetting, hstep⟩ := b.dropStep_spec p
  generalize b.dropStep p = d at *
  have hwipe := (d.zeroAudio_rewrites p).keepsCourse.trans (State.wipeStreams_keepsCourse _ p)
  have hclosed := (d.zeroAudio p).wipeStreams_closed p
  generalize (d.zeroAudio p).wipeStreams p = w at *
  have hfree := hwipe.trans (w.freeSlots_keepsCourse p)
  have hstreams := w.freeSlots_stream p
  generalize w.freeSlots p = f at *
  have hlast := (f.writeScaleTable_rewrites p).trans (State.zeroScratch_rewrites _ sect)
  generalize (f.writeScaleTable p).zeroScratch sect = u at *
  have hkeeps := hfree.trans hlast.keepsCourse
  refine ⟨?_, ?_, ?_, ?_, fun i => ?_⟩
  · rw [hkeeps.resetting, hresetting, habort.resetting, hmark.1]
  · have hnone := hkeeps.step p
    rw [hstep] at hnone
    exact Option.isNone_iff_eq_none.mp (Option.isSome_eq_false_iff.mp hnone)
  · rw [State.liveContexts, hkeeps.ctxs]
    exact hctxs
  · rw [hkeeps.dev, hdev, habort.dev, hmark.2]
  · obtain ⟨hpart, hstate⟩ := hlast.stream_state i
    rw [hpart, hstate, hstreams]
    exact hclosed i

theorem exec_partReset {s : State} {m : Fin 64} {p : Nat} (h : s.Takes m specPartReset) (hp : p = le (s.page m) 0x40 1) :
    exec (.partReset m) s = .next (match s.popped.part? p with
      | none => s.popped.fail m 3
      | some q => if !q.settled then s.popped.fail m 8 else (s.popped.beginReset p m q.sect).background m) := by
  have hexec : exec (.partReset m) s = execPartReset m s := rfl
  rw [hexec, execPartReset, State.runCmd_takes _ _ _ _ h]
  subst hp
  rfl

/-! ### MODEL_LOAD -/

theorem Partition.img_setImg (q : Partition) (b : Bool) (o : ImageSlot) : (q.setImg b o).img b = o := by
  cases b <;> rfl

theorem State.beginLoad_img {s u : State} {p total : Nat} {b : Bool} {dig : Bytes} {r : Partition}
    (h : s.beginLoad p b total dig = some u) (hr : u.part? p = some r) :
    r.img b = ⟨.loading, 0, total, dig, [], none, (r.img b).area⟩ := by
  unfold State.beginLoad at h
  cases hq : s.part? p with
  | none => rw [hq] at h; cases h
  | some q =>
    rw [hq] at h
    obtain ⟨⟨a, t⟩, -, rfl⟩ := Option.map_eq_some_iff.mp h
    rw [State.modPart_part] at hr
    obtain ⟨x, -, rfl⟩ := Option.map_eq_some_iff.mp hr
    rw [Partition.img_setImg]

section
variable {s : State} {m : Fin 64} {pg : Bytes} {p : Nat} {b : Bool} {host : Option Bytes} {im : ImageInfo}

theorem State.loadSegment_unread (h : s.hostReach m (BitVec.ofNat 64 (le pg 0x60 8)) = false ∨
    ∀ v : Bytes, host = some v → v.length ≠ le pg 0x50 4) : s.loadSegment m pg p b host im = s.fail m 12 := by
  cases host with
  | none => rfl
  | some bs =>
    refine if_pos ?_
    rw [Bool.or_eq_true, decide_eq_true_eq, Bool.not_eq_true']
    exact h.symm.imp_left (· bs rfl)

/-- The state in which a slot takes a segment: that of a load begun anew for OFFSET 0 (R444). -/
def State.segmentState (s : State) (pg : Bytes) (p : Nat) (b : Bool) : Option State :=
  if par loadSizes pg 2 = 0 then s.beginLoad p b (le pg 0x58 8) (parB loadSizes pg 6) else some s

/-- A segment is written to a slot's copy, and an image that is whole is checked (R445, R446). -/
def State.addSegment (u : State) (m : Fin 64) (pg : Bytes) (p : Nat) (b : Bool) (im : ImageInfo) (bs : Bytes) (r : Partition)
    (o : ImageSlot) : State :=
  if o.received = o.total then
    ((u.writeRaw (o.area + par loadSizes pg 2) bs).setPart p (r.setImg b o)).imageComplete m p b im
  else ((u.writeRaw (o.area + par loadSizes pg 2) bs).setPart p (r.setImg b o)).ok m (pack [b8 o.received, b1 1])

variable {bs : Bytes} (hlen : bs.length = le pg 0x50 4) (hreach : s.hostReach m (BitVec.ofNat 64 (le pg 0x60 8)) = true)
include hlen hreach

theorem State.loadSegment_read : s.loadSegment m pg p b (some bs) im = match s.segmentState pg p b with
    | none => s.fail m 10
    | some u => match u.part? p with
      | none => u
      | some r => u.addSegment m pg p b im bs r { r.img b with
          received := (r.img b).received + le pg 0x50 4, bytes := (r.img b).bytes ++ bs } := by
  have hread : ¬ (decide (bs.length ≠ par loadSizes pg 3) || !s.hostReach m (BitVec.ofNat 64 (par loadSizes pg 5))) = true := by
    rw [show par loadSizes pg 3 = le pg 0x50 4 from rfl, show par loadSizes pg 5 = le pg 0x60 8 from rfl, hlen, hreach]
    simp
  exact (if_neg hread).trans rfl

theorem State.loadSegment_noRoom (h : s.segmentState pg p b = none) : s.loadSegment m pg p b (some bs) im = s.fail m 10 := by
  rw [State.loadSegment_read hlen hreach, h]

theorem State.loadSegment_stores {u w : State} {r : Partition} {o : ImageSlot} (h : s.segmentState pg p b = some u)
    (hr : u.part? p = some r)
    (ho : o = { r.img b with received := (r.img b).received + le pg 0x50 4, bytes := (r.img b).bytes ++ bs })
    (hw : w = (u.writeRaw (o.area + par loadSizes pg 2) bs).setPart p (r.setImg b o)) : s.loadSegment m pg p b (some bs) im =
      if o.received = o.total then w.imageComplete m p b im else w.ok m (pack [b8 o.received, b1 1]) := by
  rw [State.loadSegment_read hlen hreach, h]
  dsimp only
  rw [hr]
  subst hw ho
  rfl

end

section
variable {s : State} {m : Fin 64} {p : Nat} {b : Bool} {im : ImageInfo} {q : Partition} {o : ImageSlot}

theorem State.imageComplete_stops (hq : s.part? p = some q) (ho : q.img b = o) {st d : Nat} (h : s.imageStops p q o im = some (st, d)) :
    s.imageComplete m p b im = ((s.discardLoad p o st).emptySlot p b).respond m st d [] := by
  subst ho
  rw [State.imageComplete, hq]
  dsimp only
  rw [h]

theorem State.imageComplete_loads (hq : s.part? p = some q) (ho : q.img b = o) (h : s.imageStops p q o im = none) {x : State} {now : Bool}
    (hx : x = s.setPart p (q.setImg b { o with state := .loaded, info := some im }))
    (hnow : now = (q.image?.isNone && ((secDigest q.sect).all (· == 0) || secDigest q.sect == o.digest))) :
    s.imageComplete m p b im =
      (if now then x.goInService p b else x.repower p).ok m (pack [b8 o.total, b1 (if now then 3 else 2)]) := by
  subst ho hx hnow
  rw [State.imageComplete, hq]
  dsimp only
  rw [h]

end

/-- A segment of MODEL_LOAD for a partition at rest: `own` is the slot that loads its image, `got` the bytes it has (R444, R445). -/
def State.takeSegment (s : State) (m : Fin 64) (pg : Bytes) (p : Nat) (q : Partition) (off n total : Nat) (dig : Bytes)
    (own : Option Bool) (got : Nat) (host : Option Bytes) (im : ImageInfo) : State :=
  if own.isSome && off < got && !(off = 0 && bit (le pg 0x41 1) 0) then s.ok m (pack [b8 got, b1 1])
  else if off ≠ 0 then
    match own with
    | none => s.respond m stParam (loadOff 2) []
    | some b =>
      if off ≠ got then s.respond m stParam (loadOff 2) []
      else if total ≠ (q.img b).total then s.respond m stParam (loadOff 4) []
      else if (q.img b).total < got + n then s.respond m stParam (loadOff 3) []
      else s.loadSegment m pg p b host im
  else match s.loadSlot p q dig (bit (le pg 0x41 1) 0) with
    | none => s.fail m (if [q.img0, q.img1].any (fun o => o.state == .loading) then stBusy else stState)
    | some b =>
      if total < n then s.respond m stParam (loadOff 3) []
      else s.loadSegment m pg p b host im

theorem exec_modelLoad {s : State} {m : Fin 64} {pg : Bytes} (h : s.Takes m specModelLoad) (hpg : pg = s.page m)
    (host : Option Bytes) (im : ImageInfo) : exec (.modelLoad m host im) s = .next (
      match s.popped.live? (le pg 0x40 1) with
      | none => s.popped.fail m 3
      | some q => if !q.settled then s.popped.fail m 8
        else s.popped.takeSegment m pg (le pg 0x40 1) q (par loadSizes pg 2) (le pg 0x50 4) (le pg 0x58 8) (parB loadSizes pg 6)
          ([false, true].find? (fun b => (q.img b).state == .loading && (q.img b).digest == parB loadSizes pg 6))
          ((([false, true].find? (fun b => (q.img b).state == .loading && (q.img b).digest == parB loadSizes pg 6)).map
            (fun b => (q.img b).received)).getD 0) host im) := by
  have hexec : exec (.modelLoad m host im) s = execModelLoad m host im s := rfl
  subst hpg
  rw [hexec, execModelLoad, State.runCmd_takes _ _ _ _ h]
  rfl

section
variable {s : State} {m : Fin 64} {pg dig : Bytes} {p off n total got : Nat} {q : Partition} {own : Option Bool} {host : Option Bytes}
  {im : ImageInfo}

theorem State.takeSegment_old (hown : own.isSome = true) (hoff : off < got) (hkept : off = 0 → bit (le pg 0x41 1) 0 = false) :
    s.takeSegment m pg p q off n total dig own got host im = s.ok m (pack [b8 got, b1 1]) :=
  if_pos (by simpa [hown, hoff, ← imp_iff_not_or] using hkept)

theorem State.takeSegment_later (hlate : got ≤ off) (hoff : off ≠ 0) : s.takeSegment m pg p q off n total dig own got host im =
    match own with
    | none => s.respond m 2 (loadOff 2) []
    | some b => if off ≠ got then s.respond m 2 (loadOff 2) [] else if total ≠ (q.img b).total then s.respond m 2 (loadOff 4) []
      else if (q.img b).total < got + n then s.respond m 2 (loadOff 3) [] else s.loadSegment m pg p b host im := by
  unfold State.takeSegment
  rw [if_neg (by simp [hlate]), if_pos hoff]
  rfl

theorem State.takeSegment_first (hoff : off = 0) (hnew : own.isSome = true → got = 0 ∨ bit (le pg 0x41 1) 0 = true) :
    s.takeSegment m pg p q off n total dig own got host im =
      match s.loadSlot p q dig (bit (le pg 0x41 1) 0) with
      | none => s.fail m (if q.img0.state = .loading ∨ q.img1.state = .loading then 8 else 3)
      | some b => if total < n then s.respond m 2 (loadOff 3) [] else s.loadSegment m pg p b host im := by
  have hno : ¬ (own.isSome && decide (off < got) && !(decide (off = 0) && bit (le pg 0x41 1) 0)) = true := by
    subst hoff
    simp only [Bool.and_eq_true, decide_eq_true_eq, Bool.not_eq_true', decide_true, Bool.true_and, not_and, Bool.not_eq_false]
    exact fun ⟨hown, hgot⟩ => (hnew hown).resolve_left (by omega)
  have hstatus : (if [q.img0, q.img1].any (fun o => o.state == .loading) then stBusy else stState) =
      if q.img0.state = .loading ∨ q.img1.state = .loading then 8 else 3 := by
    refine if_congr ?_ rfl rfl
    simp
  unfold State.takeSegment
  rw [if_neg hno, if_neg (not_not.mpr hoff), hstatus]
  rfl

/-- The segments that are read and written to a slot's copy. -/
theorem State.takeSegment_loads {b : Bool} (h : (off ≠ 0 ∧ own = some b ∧ off = got ∧ total = (q.img b).total ∧ got + n ≤ total) ∨
    (off = 0 ∧ (own.isSome = true → got = 0 ∨ bit (le pg 0x41 1) 0 = true) ∧
      s.loadSlot p q dig (bit (le pg 0x41 1) 0) = some b ∧ n ≤ total)) :
    s.takeSegment m pg p q off n total dig own got host im = s.loadSegment m pg p b host im := by
  rcases h with ⟨hoff, hown, hgot, htotal, hfits⟩ | ⟨hoff, hnew, hslot, hfits⟩
  · rw [State.takeSegment_later (by omega) hoff, hown]
    dsimp only
    rw [if_neg (not_not.mpr hgot), if_neg (not_not.mpr htotal), if_neg (by omega)]
  · rw [State.takeSegment_first hoff hnew, hslot]
    exact if_neg (by omega)

theorem State.takeSegment_misplaced (hlate : got ≤ off) (hoff : off ≠ 0) {f : Nat} (hf : (match own with
      | none => some (loadOff 2)
      | some b => if off ≠ got then some (loadOff 2) else if total ≠ (q.img b).total then some (loadOff 4)
        else if total < got + n then some (loadOff 3) else none) = some f) :
    s.takeSegment m pg p q off n total dig own got host im = s.respond m 2 f [] := by
  rw [State.takeSegment_later hlate hoff]
  cases own with
  | none => cases hf; rfl
  | some b =>
    dsimp only at hf ⊢
    by_cases hgot : off ≠ got
    · rw [if_pos hgot] at hf ⊢
      cases hf; rfl
    rw [if_neg hgot] at hf ⊢
    by_cases htotal : total ≠ (q.img b).total
    · rw [if_pos htotal] at hf ⊢
      cases hf; rfl
    rw [if_neg htotal] at hf ⊢
    rw [← not_not.mp htotal]
    by_cases hlong : total < got + n
    · rw [if_pos hlong] at hf ⊢
      cases hf; rfl
    · rw [if_neg hlong] at hf
      cases hf

end

theorem exec_modelLoad_settled {s : State} {m : Fin 64} {pg dig : Bytes} {p off n total got : Nat} {q : Partition} {own : Option Bool}
    (h : s.Takes m specModelLoad) (hpg : pg = s.page m) (hp : p = le pg 0x40 1) (hoff : off = par loadSizes pg 2)
    (hn : n = le pg 0x50 4) (htotal : total = le pg 0x58 8) (hdig : dig = parB loadSizes pg 6) (hlive : s.popped.live? p = some q)
    (hown : own = [false, true].find? (fun b => (q.img b).state == .loading && (q.img b).digest == dig))
    (hgot : got = (own.map (fun b => (q.img b).received)).getD 0) (hsettled : q.settled = true) (host : Option Bytes) (im : ImageInfo) :
    exec (.modelLoad m host im) s = .next (s.popped.takeSegment m pg p q off n total dig own got host im) := by
  rw [exec_modelLoad h hpg, ← hp, hlive]
  subst hgot hown hdig htotal hn hoff
  dsimp only
  rw [if_neg (by simp [hsettled])]

/-! ### MODEL_UNLOAD -/

theorem exec_modelUnload {s : State} {m : Fin 64} {p : Nat} {dig : Bytes} (h : s.Takes m specModelUnload) (hp : p = le (s.page m) 0x40 1)
    (hdig : dig = parB [1, 64] (s.page m) 1) : exec (.modelUnload m) s = .next (
      match s.popped.live? p with
      | none => s.popped.fail m 3
      | some q => if q.settled = false then s.popped.fail m 8
        else match [false, true].find? (fun k => (q.img k).state != .empty && (q.img k).digest == dig) with
          | none => s.popped.fail m 7
          | some b => if (q.img b).state = .inService ∨ s.popped.namesImage p dig = true then s.popped.fail m 3
            else (((s.popped.discardLoad p (q.img b) stAborted).emptySlot p b).repower p).ok m []) := by
  have hexec : exec (.modelUnload m) s = execModelUnload m s := rfl
  subst hp hdig
  rw [hexec, execModelUnload, State.runCmd_takes _ _ _ _ h]
  simp only [Bool.or_eq_true, beq_iff_eq, Bool.not_eq_true']
  rfl

theorem modelUnload_refused {s : State} {m : Fin 64} {p : Nat} {dig : Bytes} {q : Partition} {v : Option Bool}
    (h : s.Takes m specModelUnload) (hp : p = le (s.page m) 0x40 1) (hdig : dig = parB [1, 64] (s.page m) 1)
    (hlive : s.popped.live? p = some q) (hv : v = [false, true].find? (fun k => (q.img k).state != .empty && (q.img k).digest == dig))
    {st : Nat} (hwhy : (if q.settled = false then some 8 else match v with
      | none => some 7
      | some b => if (q.img b).state = .inService ∨ s.popped.namesImage p dig = true then some 3 else none) = some st) :
    exec (.modelUnload m) s = .next (s.popped.fail m st) := by
  rw [exec_modelUnload h hp hdig, hlive]
  dsimp only
  rw [← hv]
  by_cases hbusy : q.settled = false
  · rw [if_pos hbusy] at hwhy ⊢
    cases hwhy; rfl
  rw [if_neg hbusy] at hwhy ⊢
  cases v with
  | none => cases hwhy; rfl
  | some b =>
    dsimp only at hwhy ⊢
    by_cases hused : (q.img b).state = .inService ∨ s.popped.namesImage p dig = true
    · rw [if_pos hused] at hwhy ⊢
      cases hwhy; rfl
    · rw [if_neg hused] at hwhy
      cases hwhy

/-! ### The statement -/

/-- Settles O37, command by command. -/
theorem partitionAndImageCommandsAct : Obligations.PartitionAndImageCommandsAct := by
  unfold Obligations.PartitionAndImageCommandsAct
  refine ⟨partCreate_starts, partDestroy_starts, fun s p m q hq hwaits => State.takeDown_zeroing m hq hwaits, fun s m p h hp => ?_,
    fun s m host im pg dig p off n total h hpg hp hoff hn htotal hdig => ⟨fun hnone => ?_, fun q own got hlive hown hgot => ⟨?_, ?_⟩⟩,
    fun s m p dig h hp hdig => ?_⟩
  · rw [exec_partReset h hp]
    refine ⟨fun hnone => replied_fail (by rw [hnone]), fun q hq => ?_⟩
    rw [hq]
    exact ⟨fun hbusy => replied_fail (congrArg _ (if_pos (by simp [hbusy]))),
      fun hsettled => ⟨_, congrArg _ (if_neg (by simp [hsettled])), State.beginReset_spec hq m q.sect⟩⟩
  · exact replied_fail (by rw [exec_modelLoad h hpg, ← hp, hnone])
  · exact fun hbusy => replied_fail (by rw [exec_modelLoad h hpg, ← hp, hlive]; exact congrArg _ (if_pos (by simp [hbusy])))
  · intro hsettled
    rw [exec_modelLoad_settled h hpg hp hoff hn htotal hdig hlive hown hgot hsettled]
    refine ⟨fun hloading hold hkept => ?_, fun hlate hoff0 d hd f hf => ?_, fun hoff0 hnew => ⟨fun hnone => ?_, fun hsome hlong => ?_⟩,
      fun b hb => ?_⟩
    · rw [State.takeSegment_old hloading hold hkept]
      exact ⟨_, rfl, State.ok_replied ..⟩
    · rw [State.takeSegment_misplaced hlate hoff0 (hd.symm.trans hf)]
      exact ⟨_, rfl, State.respond_replied ..⟩
    · rw [State.takeSegment_first hoff0 hnew, hnone]
      exact ⟨_, rfl, State.fail_replied ..⟩
    · obtain ⟨b, hb⟩ := Option.isSome_iff_exists.mp hsome
      rw [State.takeSegment_first hoff0 hnew, hb]
      dsimp only
      rw [if_pos hlong]
      exact ⟨_, rfl, State.respond_replied ..⟩
    · rw [State.takeSegment_loads hb]
      refine ⟨fun hunread => replied_fail (congrArg _ (State.loadSegment_unread (by rw [← hn]; exact hunread))),
        fun bs hhost hlen hreach => ?_⟩
      have hbegin : (if off = 0 then s.popped.beginLoad p b total dig else some s.popped) = s.popped.segmentState pg p b := by
        subst hoff htotal hdig
        rfl
      subst hhost hn
      refine ⟨fun hoff0 hnone => replied_fail ?_, fun u w r o hu hr => ⟨fun hoff0 => ?_, fun ho hw => ?_⟩⟩
      · exact congrArg _ (State.loadSegment_noRoom hlen hreach (by rw [← hbegin, if_pos hoff0, hnone]))
      · rw [if_pos hoff0] at hu
        exact State.beginLoad_img hu hr
      · have hpart : w.part? p = some (r.setImg b o) := by rw [hw, State.setPart_part_same]
        rw [State.loadSegment_stores hlen hreach (hbegin.symm.trans hu) hr ho (hoff ▸ hw)]
        refine ⟨fun hmore => ?_, fun hwhole q' hq' => ⟨fun st d hstops => ?_, fun hfits x now hx hnow => ?_⟩⟩
        · rw [if_neg hmore]
          exact ⟨_, rfl, State.ok_replied ..⟩
        · rw [if_pos hwhole, State.imageComplete_stops (hq' ▸ hpart) (hq' ▸ r.img_setImg b o) hstops]
          exact ⟨_, rfl, State.respond_replied ..⟩
        · rw [if_pos hwhole, State.imageComplete_loads (hq' ▸ hpart) (hq' ▸ r.img_setImg b o) hfits hx hnow]
          exact ⟨_, rfl, State.ok_replied ..⟩
  · refine ⟨fun hnone => replied_fail (by rw [exec_modelUnload h hp hdig, hnone]), fun q v hlive hv =>
      ⟨fun st hwhy => replied_fail (modelUnload_refused h hp hdig hlive hv hwhy), fun b hsettled hb hstate hnames => ?_⟩⟩
    rw [exec_modelUnload h hp hdig, hlive]
    dsimp only
    rw [if_neg (by simp [hsettled]), ← hv, hb]
    dsimp only
    rw [if_neg (by simp [hstate, hnames])]
    exact ⟨_, rfl, State.ok_replied ..⟩

end Sys2Proof.Machine
end

section
/-! PROOFS. What audio ports and groups keep: the frame counter and the masks of a group (R346, R351), the ports that a clock
change marks (R358). -/

namespace Sys2Proof.Machine

theorem OnlySent.aports {s t : State} (h : OnlySent s t) : t.aports = s.aports := by rw [h]
theorem OnlySent.agroups {s t : State} (h : OnlySent s t) : t.agroups = s.agroups := by rw [h]
theorem OnlySent.streams {s t : State} (h : OnlySent s t) : t.streams = s.streams := by rw [h]
theorem OnlySent.aport {s t : State} (h : OnlySent s t) (n : Nat) : t.aport n = s.aport n := by
  unfold State.aport; rw [h.aports]
theorem OnlySent.group {s t : State} (h : OnlySent s t) (g : Nat) : t.group g = s.group g := by
  unfold State.group; rw [h.agroups]

theorem Replied.agroups {s t : State} {m : Fin 64} {status detail : Nat} {data : Bytes} (h : Replied s t m status detail data) :
    t.agroups = s.agroups := by
  obtain ⟨-, -, -, -, h⟩ := h
  rw [h]

@[simp] theorem State.setAport_setAport (s : State) (n : Nat) (a b : APort) : (s.setAport n a).setAport n b = s.setAport n b := by
  simp [State.setAport, tabPut_tabPut]

/-! ### Events (R370) -/

theorem State.groupEvent_onlySent (s : State) (g code : Nat) (fields : List Bytes) : OnlySent s (s.groupEvent g code fields) :=
  State.raise_onlySent ..

/-- A port's event, sent or left out, is counted at the port (R370). -/
theorem State.portEvent_spec (s : State) (n code : Nat) (stream : Option (Fin 16384)) (fields : List Bytes) :
    ∃ p : APort, OnlySent (s.setAport n p) (s.portEvent n code stream fields) := by
  unfold State.portEvent
  dsimp only
  split
  · exact ⟨_, OnlySent.rfl' _⟩
  · exact ⟨_, State.raise_onlySent ..⟩

/-! ### Where a group stands: its frame number, the mask committed and the mask active -/

/-- The frame number, the committed mask and the active mask of a group. -/
def AGroup.framing (x : AGroup) : BitVec 48 × Option (BitVec 16) × BitVec 16 := (x.frame, x.pending, x.active)

/-- Frame number and masks of group `g` are as they were. -/
def KeepsFraming (g : Nat) (s t : State) : Prop := (t.group g).framing = (s.group g).framing

variable {g : Nat} {s t u : State}

theorem KeepsFraming.rfl' (g : Nat) (s : State) : KeepsFraming g s s := rfl

theorem KeepsFraming.trans (h : KeepsFraming g s t) (k : KeepsFraming g t u) : KeepsFraming g s u := Eq.trans k h

theorem KeepsFraming.foldl {α : Type} {f : State → α → State} (hf : ∀ s a, KeepsFraming g s (f s a)) (l : List α) (s : State) :
    KeepsFraming g s (l.foldl f s) :=
  List.foldlRecOn (motive := KeepsFraming g s) l f (.rfl' g s) fun t ht a _ => ht.trans (hf t a)

/-- As `KeepsFraming.foldl`, for a walk that collects a value besides. -/
theorem KeepsFraming.foldl_snd {α β : Type} {f : β × State → α → β × State} (hf : ∀ a x, KeepsFraming g a.2 (f a x).2) (l : List α)
    (b : β) (s : State) : KeepsFraming g s (l.foldl f (b, s)).2 :=
  List.foldlRecOn (motive := fun a => KeepsFraming g s a.2) l f (.rfl' g s) fun a ha x _ => ha.trans (hf a x)

theorem KeepsFraming.of_agroups (h : t.agroups = s.agroups) : KeepsFraming g s t := by
  unfold KeepsFraming State.group; rw [h]

theorem OnlySent.keepsFraming (h : OnlySent s t) : KeepsFraming g s t := .of_agroups h.agroups

theorem State.modGroup_keepsFraming (s : State) (g : Nat) {f : AGroup → AGroup} (hf : ∀ x, (f x).framing = x.framing) :
    KeepsFraming g s (s.modGroup g f) := by
  unfold KeepsFraming State.modGroup
  rw [State.setGroup_group_same]
  exact hf _

theorem State.modSlot_keepsFraming (s : State) (g k : Nat) (f : ASlot → ASlot) : KeepsFraming g s (s.modSlot g k f) :=
  s.modGroup_keepsFraming g fun _ => rfl

theorem State.modSlots_keepsFraming (s : State) (g : Nat) (pick : Nat → Bool) (f : ASlot → ASlot) :
    KeepsFraming g s (s.modSlots g pick f) :=
  KeepsFraming.foldl (fun t k => t.modSlot_keepsFraming g k f) _ s

theorem State.setAport_keepsFraming (s : State) (g n : Nat) (p : APort) : KeepsFraming g s (s.setAport n p) := rfl

theorem State.portEvent_keepsFraming (s : State) (g n code : Nat) (stream : Option (Fin 16384)) (fields : List Bytes) :
    KeepsFraming g s (s.portEvent n code stream fields) := by
  obtain ⟨p, hp⟩ := s.portEvent_spec n code stream fields
  exact (s.setAport_keepsFraming g n p).trans hp.keepsFraming

theorem State.ok_keepsFraming (s : State) (g : Nat) (m : Fin 64) (data : Bytes) : KeepsFraming g s (s.ok m data) :=
  .of_agroups (s.ok_replied m data).agroups

theorem State.emit_keepsFraming (s : State) (g : Nat) (o : Output) : KeepsFraming g s (s.emit o) := rfl

theorem State.writeNat_keepsFraming (s : State) (g a n v : Nat) : KeepsFraming g s (s.writeNat a n v) := rfl

/-! ### What a wire frame does before the mask applies -/

theorem State.showClocks_keepsFraming (s : State) (g : Nat) : KeepsFraming g s (s.showClocks g) :=
  KeepsFraming.foldl (fun t n => t.emit_keepsFraming g (.clockPins (Fin.ofNat 16 n) (s.clockPins n))) _ s

theorem State.ringRecord_keepsFraming (s : State) (g kind frames slots aux first : Nat) (data : Bytes) :
    KeepsFraming g s (s.ringRecord g kind frames slots aux first data) := by
  unfold State.ringRecord
  dsimp only
  refine KeepsFraming.trans ?_ (State.modGroup_keepsFraming _ g fun _ => rfl)
  split <;> rfl

theorem State.closeRec_keepsFraming (s : State) (g : Nat) : KeepsFraming g s (s.closeRec g) := by
  unfold State.closeRec
  split
  · exact .rfl' g s
  · exact (s.ringRecord_keepsFraming ..).trans (State.modGroup_keepsFraming _ g fun _ => rfl)

theorem State.portBegins_keepsFraming (s : State) (g n : Nat) : KeepsFraming g s (s.portBegins g n) := by
  have hfirst : KeepsFraming g s (if s.groupRuns g then s
      else s.modGroup g (fun x => { x with integ := 0, steer := 0, limit := false, levelSum := 0, levelCnt := 0 }.latchSlot)) := by
    split
    · exact .rfl' g s
    · exact s.modGroup_keepsFraming g fun _ => rfl
  unfold State.portBegins
  dsimp only
  split
  · exact .rfl' g s
  · refine KeepsFraming.trans ?_ (KeepsFraming.foldl (fun t k => t.modSlot_keepsFraming g k _) _ _)
    refine KeepsFraming.trans ?_ (State.setAport_keepsFraming _ g n _)
    split
    · exact hfirst.trans (State.closeRec_keepsFraming _ g)
    · exact hfirst

theorem State.discRecord_keepsFraming (s : State) (g : Nat) : KeepsFraming g s (s.discRecord g) := by
  unfold State.discRecord
  dsimp only
  split
  · exact .rfl' g s
  · exact (((s.closeRec_keepsFraming g).trans (State.ringRecord_keepsFraming ..)).trans (State.modSlots_keepsFraming ..)).trans
      (State.modGroup_keepsFraming _ g fun _ => rfl)

/-! ### The mask applies (R351) -/

theorem State.maskApplies_framing (s : State) (g : Nat) : ((s.maskApplies g).2.group g).framing =
    ((s.group g).frame, none, (s.group g).pending.getD (s.group g).active) := by
  unfold State.maskApplies
  dsimp only
  cases hpending : (s.group g).pending with
  | none => exact congrArg (fun p => ((s.group g).frame, p, (s.group g).active)) hpending
  | some mask =>
    dsimp only
    generalize hw : State.modSlots _ g _ _ = w
    have hkeep : KeepsFraming g s w := by
      rw [← hw]
      exact (((s.closeRec_keepsFraming g).trans (State.ringRecord_keepsFraming ..)).trans (State.modSlots_keepsFraming ..)).trans
        (State.modSlots_keepsFraming ..)
    have hset : KeepsFraming g (w.modGroup g (fun y => { y with active := mask, pending := none, maskMbx := [] })) _ :=
      (State.groupEvent_onlySent _ g 0x8606 [b2 (s.group g).active.toNat, b2 mask.toNat]).keepsFraming.trans
        (KeepsFraming.foldl (fun t b => t.ok_keepsFraming g b []) (s.group g).maskMbx _)
    refine Eq.trans hset ?_
    rw [State.modGroup, State.setGroup_group_same]
    exact congrArg (fun x => (x.1, none, mask)) hkeep

/-! ### What a wire frame does once the mask has applied -/

theorem State.fifoFrames_keepsFraming (s : State) (g : Nat) (slips : WireSlips) : KeepsFraming g s (s.fifoFrames g slips).2 := by
  refine KeepsFraming.foldl_snd (fun a n => ?_) _ _ s
  dsimp only
  split <;> rfl

theorem State.portXrun_keepsFraming (s : State) (g n : Nat) : KeepsFraming g s (s.portXrun n) := by
  unfold State.portXrun
  dsimp only
  split
  · exact (s.setAport_keepsFraming g n _).trans (State.portEvent_keepsFraming ..)
  · exact (s.setAport_keepsFraming g n _).trans (State.portEvent_keepsFraming ..)

theorem State.changeDone_keepsFraming (s : State) (g k n : Nat) (c : Change) : KeepsFraming g s (s.changeDone g k n c) := by
  have hreply : ∀ w : State, KeepsFraming g s w → KeepsFraming g s (match c.mbx with
      | some m => w.ok m []
      | none => w) := by
    intro w hw
    split
    · exact hw.trans (w.ok_keepsFraming ..)
    · exact hw
  refine hreply _ ?_
  split
  · exact s.portEvent_keepsFraming ..
  · exact s.portEvent_keepsFraming ..
  · split
    · exact s.portEvent_keepsFraming ..
    · exact .rfl' g s

theorem State.slotFrame_keepsFraming (s : State) (g k n gen prog : Nat) : KeepsFraming g s (s.slotFrame g k n gen prog).2 := by
  have hdone : ∀ (w : State) (d : Option Change), KeepsFraming g s w → KeepsFraming g s (match d with
      | some c => w.changeDone g k n c
      | none => w) := by
    intro w d hw
    cases d with
    | none => exact hw
    | some c => exact hw.trans (w.changeDone_keepsFraming g k n c)
  refine hdone _ _ ?_
  split
  · exact (s.modSlot_keepsFraming g k _).trans (State.portEvent_keepsFraming ..)
  · exact s.modSlot_keepsFraming g k _

theorem State.inputFrame_keepsFraming (s : State) (g : Nat) (words : List WireWords) (xruns : List (Fin 16)) :
    KeepsFraming g s (s.inputFrame g words xruns).2 := by
  refine KeepsFraming.foldl_snd (fun a k => ?_) _ _ s
  dsimp only
  split
  · exact .rfl' g a.2
  · split
    · exact .rfl' g a.2
    · exact a.2.slotFrame_keepsFraming ..

theorem State.recordFrame_keepsFraming (s : State) (g : Nat) (got : Tab Nat) : KeepsFraming g s (s.recordFrame g got) := by
  unfold State.recordFrame
  dsimp only
  split
  · exact .rfl' g s
  · split
    · refine KeepsFraming.trans ?_ (State.closeRec_keepsFraming _ g)
      exact s.modGroup_keepsFraming g fun _ => rfl
    · exact s.modGroup_keepsFraming g fun _ => rfl

theorem State.takeSamples_keepsFraming (s : State) (g : Nat) (got : Tab Nat) (layout : Bool) :
    KeepsFraming g s (s.takeSamples g got layout) := by
  unfold State.takeSamples
  dsimp only
  refine KeepsFraming.trans ?_ (State.modSlots_keepsFraming ..)
  rfl

theorem State.autoBypass_keepsFraming (s : State) (g k : Nat) : KeepsFraming g s (s.autoBypass g k) := by
  unfold State.autoBypass
  dsimp only
  split_ifs
  · exact .rfl' g s
  · exact s.modSlot_keepsFraming g k _
  · exact (s.modSlot_keepsFraming g k _).trans (State.modSlot_keepsFraming ..)
  · exact s.modSlot_keepsFraming g k _

theorem State.outputSlot_keepsFraming (s : State) (g k n : Nat) : KeepsFraming g s (s.outputSlot g k n).2 := by
  unfold State.outputSlot
  dsimp only
  refine KeepsFraming.trans (KeepsFraming.trans ?_ (State.slotFrame_keepsFraming ..)) (State.autoBypass_keepsFraming ..)
  split <;> rfl

theorem State.outputFrame_keepsFraming (s : State) (g : Nat) (xruns : List (Fin 16)) : KeepsFraming g s (s.outputFrame g xruns) := by
  refine KeepsFraming.foldl (fun t n => ?_) _ s
  dsimp only
  split
  · exact .rfl' g t
  · exact ((t.outputSlot_keepsFraming ..).trans (State.outputSlot_keepsFraming ..)).trans (State.emit_keepsFraming ..)

theorem AGroup.framing_addLevel (x : AGroup) : x.addLevel.framing = x.framing := by
  unfold AGroup.addLevel
  split <;> rfl

theorem State.portsEnd_keepsFraming (s : State) (g : Nat) : KeepsFraming g s (s.portsEnd g) := by
  refine KeepsFraming.foldl (fun t n => ?_) _ s
  have hstop : KeepsFraming g t ((if (t.aport n).isOutput then t else t.closeRec g).setAport n
      { t.aport n with run := false, stopPend := none }) := by
    refine KeepsFraming.trans ?_ (State.setAport_keepsFraming _ g n _)
    split
    · exact .rfl' g t
    · exact t.closeRec_keepsFraming g
  dsimp only
  split
  · split
    · split
      · exact hstop.trans (State.ok_keepsFraming ..)
      · exact hstop
    · exact .rfl' g t
  · exact .rfl' g t

end Sys2Proof.Machine
end

section
/-! PROOFS. The rows of audio ports and groups: wire frames, changes without a crossing, bypass, the clock of a slave, rates and the
heliostat (R346, R351, R358, R360, R362, R364, R367, R371). -/

namespace Sys2Proof.Machine

/-! ### AUDIO_WIRE_FRAME (R346, R351) -/

/-- A wire frame until the mask applies: clocks are driven, ports begin, a discontinuity is recorded. -/
def State.frameBegins (s : State) (g : Nat) : State :=
  ((s.members g).foldl (fun t k => t.portBegins g k) (s.showClocks g)).discRecord g

/-- A wire frame once the mask has applied, up to the counter: FIFOs, input ports, output ports, the heliostat's level, stops. -/
def State.framePlays (s : State) (g : Nat) (layout : Bool) (words : List WireWords) (slips : WireSlips) : State :=
  let (xruns, s) := s.fifoFrames g slips
  let s := xruns.foldl (fun t k => t.portXrun k.val) s
  let (got, s) := s.inputFrame g words xruns
  let s := s.recordFrame g got
  let s := s.takeSamples g got layout
  let s := s.outputFrame g xruns
  let s := s.modGroup g AGroup.addLevel
  let s := s.writeNat (validAddr g (s.group g).frame.toNat) 4 0
  s.portsEnd g

theorem State.frameBegins_keepsFraming (s : State) (g : Nat) : KeepsFraming g s (s.frameBegins g) :=
  ((s.showClocks_keepsFraming g).trans (KeepsFraming.foldl (fun t k => t.portBegins_keepsFraming g k) _ _)).trans
    (State.discRecord_keepsFraming _ g)

theorem State.framePlays_keepsFraming (s : State) (g : Nat) (layout : Bool) (words : List WireWords) (slips : WireSlips) :
    KeepsFraming g s (s.framePlays g layout words slips) := by
  have hfifo : KeepsFraming g s ((s.fifoFrames g slips).1.foldl (fun t k => t.portXrun k.val) (s.fifoFrames g slips).2) :=
    (s.fifoFrames_keepsFraming g slips).trans (KeepsFraming.foldl (f := fun t (k : Fin 16) => t.portXrun k.val)
      (fun t k => t.portXrun_keepsFraming g k.val) _ _)
  have hinput := hfifo.trans (State.inputFrame_keepsFraming _ g words (s.fifoFrames g slips).1)
  exact (((((hinput.trans (State.recordFrame_keepsFraming ..)).trans (State.takeSamples_keepsFraming ..)).trans
    (State.outputFrame_keepsFraming ..)).trans (State.modGroup_keepsFraming _ g AGroup.framing_addLevel)).trans
    (State.writeNat_keepsFraming ..)).trans (State.portsEnd_keepsFraming ..)

theorem exec_audioWireFrame {s : State} {g : Fin 16} (hpins : s.dev.audioPinsOn = true) (hclock : (s.group g.val).clockLost = false)
    (hmembers : s.members g.val ≠ []) (words : List WireWords) (slips : WireSlips) : exec (.audioWireFrame g words slips) s =
      .next (((((s.frameBegins g.val).maskApplies g.val).2.framePlays g.val ((s.frameBegins g.val).maskApplies g.val).1 words
        slips)).modGroup g.val (fun x => { x with frame := x.frame + 1 })) := by
  have hexec : exec (.audioWireFrame g words slips) s = execAudioWireFrame g words slips s := rfl
  rw [hexec, execAudioWireFrame]
  dsimp only
  rw [if_neg (by simp [hpins, hclock, hmembers])]
  rfl

theorem exec_audioWireFrame_counts {s : State} {g : Fin 16} (hpins : s.dev.audioPinsOn = true)
    (hclock : (s.group g.val).clockLost = false) (hmembers : s.members g.val ≠ []) (words : List WireWords) (slips : WireSlips) :
    ∃ t : State, exec (.audioWireFrame g words slips) s = .next t ∧ (t.group g.val).frame = (s.group g.val).frame + 1 ∧
      (t.group g.val).pending = none ∧ (t.group g.val).active = (s.group g.val).pending.getD (s.group g.val).active := by
  refine ⟨_, exec_audioWireFrame hpins hclock hmembers words slips, ?_⟩
  have hbegins := s.frameBegins_keepsFraming g.val
  have hmask := (s.frameBegins g.val).maskApplies_framing g.val
  have hplays := ((s.frameBegins g.val).maskApplies g.val).2.framePlays_keepsFraming g.val
    ((s.frameBegins g.val).maskApplies g.val).1 words slips
  generalize ((s.frameBegins g.val).maskApplies g.val).2.framePlays _ _ _ _ = u at hplays
  rw [State.modGroup, State.setGroup_group_same]
  simp only [KeepsFraming, AGroup.framing, Prod.mk.injEq] at hbegins hmask hplays
  obtain ⟨hframe₀, hpending₀, hactive₀⟩ := hbegins
  obtain ⟨hframe₁, hpending₁, hactive₁⟩ := hmask
  obtain ⟨hframe₂, hpending₂, hactive₂⟩ := hplays
  refine ⟨?_, hpending₂.trans hpending₁, ?_⟩
  · rw [hframe₂, hframe₁, hframe₀]
  · rw [hactive₂, hactive₁, hpending₀, hactive₀]

theorem exec_audioWireFrame_none {s : State} {g : Fin 16} (words : List WireWords) (slips : WireSlips)
    (h : s.dev.audioPinsOn = false ∨ (s.group g.val).clockLost = true ∨ s.members g.val = []) :
    exec (.audioWireFrame g words slips) s = .next s := by
  have hexec : exec (.audioWireFrame g words slips) s = execAudioWireFrame g words slips s := rfl
  rw [hexec, execAudioWireFrame]
  exact if_pos (by simpa [or_assoc] using h)

/-! ### CROSSING_TIMEOUT (R364) -/

theorem exec_crossingTimeout {s : State} {g k : Fin 16} {n : Nat} {c : Change}
    (hport : s.slotPort g.val k.val = some n) (hchange : ((s.group g.val).slot k.val).change = some c) :
    exec (.crossingTimeout g k) s = .next (if c.ramp.isNone = true ∧ (s.group g.val).zcFrames ≤ c.waited ∧ (s.aport n).run = true ∧
        (s.group g.val).clockLost = false
      then (s.modSlot g.val k.val (fun y => { y with change := some { c with ramp := some 0 } })).portEvent n 0x860A
        ((s.group g.val).slot k.val).stream [b1 k.val, b1 c.kind.code]
      else s) := by
  have hexec : exec (.crossingTimeout g k) s = execCrossingTimeout g k s := rfl
  rw [hexec, execCrossingTimeout]
  dsimp only
  rw [hport, hchange]
  dsimp only
  simp only [Bool.and_eq_true, decide_eq_true_eq, Bool.not_eq_true', and_assoc]
  split <;> rfl

theorem exec_crossingTimeout_none {s : State} {g k : Fin 16} (h : s.slotRuns g.val k.val = false ∨
    (s.group g.val).clockLost = true ∨ ((s.group g.val).slot k.val).change = none ∨
    ∃ c : Change, ((s.group g.val).slot k.val).change = some c ∧ (c.ramp.isSome = true ∨ c.waited < (s.group g.val).zcFrames)) :
    exec (.crossingTimeout g k) s = .next s := by
  have hexec : exec (.crossingTimeout g k) s = execCrossingTimeout g k s := rfl
  cases hchange : ((s.group g.val).slot k.val).change with
  | none =>
    rw [hexec, execCrossingTimeout]
    dsimp only
    rw [hchange]
  | some c =>
    cases hport : s.slotPort g.val k.val with
    | none =>
      rw [hexec, execCrossingTimeout]
      dsimp only
      rw [hchange, hport]
    | some n =>
      have hruns : s.slotRuns g.val k.val = (s.aport n).run := by rw [State.slotRuns, hport]; rfl
      rw [exec_crossingTimeout hport hchange, if_neg]
      rintro ⟨hramp, hwaited, hrun, hclock⟩
      rw [hruns, hrun, hclock, hchange] at h
      obtain h | h | h | ⟨c', hc', h⟩ := h
      · cases h
      · cases h
      · cases h
      · cases hc'
        rcases h with h | h
        · rw [Option.isNone_iff_eq_none] at hramp
          rw [hramp] at h
          cases h
        · exact absurd hwaited (Nat.not_le.mpr h)

/-! ### BYPASS_RELEASE_HOLD (R364, R367) -/

/-- An AUTO slot in bypass whose check has held for RELEASE_HOLD. -/
def ASlot.ReleaseDue (y : ASlot) (rateHz : Nat) : Prop :=
  y.mode = 1 ∧ y.on = true ∧ y.prog = true ∧ 1 ≤ y.good ∧ y.holdMs * rateHz ≤ y.good * 1000

theorem exec_bypassReleaseHold {s : State} {g k : Fin 16} {x : AGroup} (hx : x = s.group g.val)
    (hdue : (x.slot k.val).ReleaseDue x.rateHz) (hruns : s.slotRuns g.val k.val = true) (hclock : x.clockLost = false) :
    exec (.bypassReleaseHold g k) s = .next (s.modSlot g.val k.val (fun z =>
      z.request x.rampFrames .release none (fun v => { v with prog := false }))) := by
  subst hx
  obtain ⟨hmode, hon, hprog, hgood, hheld⟩ := hdue
  have hexec : exec (.bypassReleaseHold g k) s = execBypassReleaseHold g k s := rfl
  rw [hexec, execBypassReleaseHold]
  exact if_pos (by simp [hmode, hon, hprog, hgood, hheld, hruns, hclock])

theorem exec_bypassReleaseHold_none {s : State} {g k : Fin 16} {x : AGroup} (hx : x = s.group g.val)
    (h : ¬ ((x.slot k.val).ReleaseDue x.rateHz ∧ s.slotRuns g.val k.val = true ∧ x.clockLost = false)) :
    exec (.bypassReleaseHold g k) s = .next s := by
  subst hx
  have hexec : exec (.bypassReleaseHold g k) s = execBypassReleaseHold g k s := rfl
  rw [hexec, execBypassReleaseHold]
  exact if_neg (by simpa [ASlot.ReleaseDue, and_assoc] using h)

/-- A request on a slot that changes nothing else yet begins with the signal it plays (R364). -/
theorem ASlot.request_fresh {y : ASlot} (h : y.change = none) (nr : Nat) (kind : ChangeKind) (f : ASlot → ASlot) :
    y.request nr kind none f = { f y with change := some ⟨kind, y.steady, (f y).steady, 0, none, none⟩ } := by
  simp [ASlot.request, ASlot.playing, h]

/-! ### Ports changed alike -/

theorem State.members_nodup (s : State) (g : Nat) : (s.members g).Nodup := List.nodup_range.filter _

/-- The ports of a list, each changed by `f`. -/
def State.modAports (s : State) (l : List Nat) (f : APort → APort) : State := l.foldl (fun t n => t.modAport n f) s

theorem State.modAports_eq (s : State) (l : List Nat) (f : APort → APort) :
    s.modAports l f = { s with aports := (s.modAports l f).aports } :=
  List.foldlRecOn (motive := fun (t : State) => t = { s with aports := t.aports }) l _ rfl fun t ht n _ => by
    rw [ht]; rfl

/-- Each port of the list is changed once; every other port stays. -/
theorem State.modAports_aport (s : State) {l : List Nat} (f : APort → APort) (hl : l.Nodup) (k : Nat) :
    (s.modAports l f).aport k = if k ∈ l then f (s.aport k) else s.aport k := by
  unfold State.modAports
  induction l generalizing s with
  | nil => rfl
  | cons n l ih =>
    obtain ⟨hn, hl⟩ := List.nodup_cons.mp hl
    rw [List.foldl_cons, ih _ hl]
    by_cases hk : k = n
    · subst hk
      simp [hn, State.modAport]
    · simp [hk, State.modAport, State.setAport_aport_ne _ _ hk]

/-! ### AUDIO_CLOCK_LOSS and AUDIO_CLOCK_RETURN (R358) -/

/-- Group `g` becomes `y` and the ports of its members follow by `f`. -/
def State.clockTurns (s : State) (g : Nat) (y : AGroup) (f : APort → APort) : State :=
  (s.setGroup g y).modAports (s.members g) f

theorem State.clockTurns_spec {s t : State} {g : Nat} {y : AGroup} {f : APort → APort} (h : OnlySent (s.clockTurns g y f) t) :
    t.group g = y ∧ (∀ n ∈ s.members g, t.aport n = f (s.aport n)) ∧ (∀ n : Nat, n ∉ s.members g → t.aport n = s.aport n) ∧
    t.mem = s.mem ∧ t.streams = s.streams := by
  have hports := fun k => (s.setGroup g y).modAports_aport f (s.members_nodup g) k
  have hrest := (s.setGroup g y).modAports_eq (s.members g) f
  have hgroup : (s.clockTurns g y f).group g = y := by
    rw [State.clockTurns, hrest]
    exact s.setGroup_group_same g y
  refine ⟨(h.group g).trans hgroup, fun n hn => ?_, fun n hn => ?_, h.mem.trans ?_, h.streams.trans ?_⟩
  · exact (h.aport n).trans ((hports n).trans (if_pos hn))
  · exact (h.aport n).trans ((hports n).trans (if_neg hn))
  · rw [State.clockTurns, hrest]; rfl
  · rw [State.clockTurns, hrest]; rfl

theorem exec_audioClockLoss {s : State} {g : Fin 16} {x : AGroup} (hx : x = s.group g.val) (hmembers : s.members g.val ≠ [])
    (hpins : s.dev.audioPinsOn = true) (hslave : x.master = false) (hclock : x.clockLost = false) :
    ∃ t : State, exec (.audioClockLoss g) s = .next t ∧
      OnlySent (s.clockTurns g.val { x with clockLost := true, returned := false } (fun p => { p with clockLost := true })) t := by
  subst hx
  have hexec : exec (.audioClockLoss g) s = execAudioClockLoss g s := rfl
  rw [hexec, execAudioClockLoss]
  dsimp only
  rw [if_neg (by simp [hmembers, hpins, hslave, hclock])]
  refine ⟨_, rfl, OnlySent.trans (OnlySent.foldl (fun t n => ?_) _ _) (State.groupEvent_onlySent ..)⟩
  split <;> rfl

theorem exec_audioClockLoss_none {s : State} {g : Fin 16} (h : (s.group g.val).master = true ∨ (s.group g.val).clockLost = true ∨
    s.members g.val = [] ∨ s.dev.audioPinsOn = false) : exec (.audioClockLoss g) s = .next s := by
  have hexec : exec (.audioClockLoss g) s = execAudioClockLoss g s := rfl
  rw [hexec, execAudioClockLoss]
  refine if_pos ?_
  rcases h with h | h | h | h <;> simp [h]

theorem exec_audioClockReturn {s : State} {g : Fin 16} {x : AGroup} (hx : x = s.group g.val) (hclock : x.clockLost = true) :
    ∃ t : State, exec (.audioClockReturn g) s = .next t ∧
      OnlySent (s.clockTurns g.val { x with clockLost := false, returned := true } (fun p => { p with clockLost := false })) t := by
  subst hx
  have hexec : exec (.audioClockReturn g) s = execAudioClockReturn g s := rfl
  rw [hexec, execAudioClockReturn]
  dsimp only
  rw [if_neg (by simp [hclock])]
  exact ⟨_, rfl, State.groupEvent_onlySent ..⟩

theorem exec_audioClockReturn_none {s : State} {g : Fin 16} (h : (s.group g.val).clockLost = false) :
    exec (.audioClockReturn g) s = .next s := by
  have hexec : exec (.audioClockReturn g) s = execAudioClockReturn g s := rfl
  rw [hexec, execAudioClockReturn]
  exact if_pos (by simp [h])

/-! ### RATE_MEASUREMENT (R360) -/

theorem exec_rateMeasurement_stopped {s : State} {n : Fin 16} (h : (s.aport n.val).run = false) (v : BitVec 28) :
    exec (.rateMeasurement n v) s = .next s := by
  have hexec : exec (.rateMeasurement n v) s = execRateMeasurement n v s := rfl
  rw [hexec, execRateMeasurement]
  exact if_pos (by simp [h])

theorem exec_rateMeasurement_first {s : State} {n : Fin 16} {p : APort} (hp : p = s.aport n.val) (hrun : p.run = true)
    (href : p.reference = none) (v : BitVec 28) :
    exec (.rateMeasurement n v) s = .next (s.setAport n.val { p with rate := v, reference := some v }) := by
  subst hp
  have hexec : exec (.rateMeasurement n v) s = execRateMeasurement n v s := rfl
  rw [hexec, execRateMeasurement]
  dsimp only
  rw [if_neg (by simp [hrun]), href]
  simp [State.modAport]

theorem exec_rateMeasurement_later {s : State} {n : Fin 16} {p : APort} {r : BitVec 28} (hp : p = s.aport n.val) (hrun : p.run = true)
    (href : p.reference = some r) (v : BitVec 28) : exec (.rateMeasurement n v) s = .next
      (if p.thresh * r.toNat < ((v.toNat - r.toNat) + (r.toNat - v.toNat)) * 10000 then
        (s.setAport n.val { p with rate := v, reference := some v }).portEvent n.val 0x8601 none [b4 v.toNat, b4 r.toNat]
      else s.setAport n.val { p with rate := v }) := by
  subst hp
  have hexec : exec (.rateMeasurement n v) s = execRateMeasurement n v s := rfl
  rw [hexec, execRateMeasurement]
  dsimp only
  rw [if_neg (by simp [hrun]), href]
  simp only [State.modAport, State.setAport_aport_same, State.setAport_setAport]
  split <;> rfl

/-! ### HELIOSTAT_UPDATE (R362, R371) -/

theorem clampInt_bounds {lo hi : Int} (h : lo ≤ hi) (i : Int) : lo ≤ (clampInt lo hi i).1 ∧ (clampInt lo hi i).1 ≤ hi := by
  unfold clampInt
  split_ifs with hlow hhigh
  · exact ⟨le_refl lo, h⟩
  · exact ⟨h, le_refl hi⟩
  · exact ⟨not_lt.mp hlow, not_lt.mp hhigh⟩

/-- An update sets I, STEER and the limit, starts the interval again and latches the steering slot (R362, R371). -/
theorem AGroup.steerUpdate_eq (x : AGroup) : ∃ (i : W32) (next : Int) (limit raised : Bool), x.steerUpdate =
    ({ x with integ := i, steer := (clampInt (-20000) 20000 next).1, limit := limit, levelSum := 0, levelCnt := 0 }.latchSlot,
      raised) :=
  ⟨_, _, _, _, rfl⟩

theorem AGroup.steerUpdate_bounds (x : AGroup) : x.steerUpdate.1.levelSum = 0 ∧ x.steerUpdate.1.levelCnt = 0 ∧
    -20000 ≤ x.steerUpdate.1.steer ∧ x.steerUpdate.1.steer ≤ 20000 := by
  obtain ⟨i, next, limit, raised, h⟩ := x.steerUpdate_eq
  rw [h]
  exact ⟨rfl, rfl, clampInt_bounds (by decide) next⟩

theorem exec_heliostatUpdate {s : State} {g : Fin 16} {x : AGroup} (hx : x = s.group g.val) (henable : x.enable = true)
    (hmaster : x.master = true) (hfull : 2 ^ x.updateLog2 ≤ x.levelCnt) :
    ∃ t : State, exec (.heliostatUpdate g) s = .next t ∧ OnlySent (s.setGroup g.val x.steerUpdate.1) t := by
  subst hx
  have hexec : exec (.heliostatUpdate g) s = execHeliostatUpdate g s := rfl
  rw [hexec, execHeliostatUpdate]
  dsimp only
  rw [if_neg (by simp [henable, hmaster, hfull])]
  cases (s.group g.val).steerUpdate.2 with
  | true => exact ⟨_, rfl, State.groupEvent_onlySent ..⟩
  | false => exact ⟨_, rfl, OnlySent.rfl' _⟩

theorem exec_heliostatUpdate_none {s : State} {g : Fin 16} (h : (s.group g.val).levelCnt < 2 ^ (s.group g.val).updateLog2 ∨
    (s.group g.val).enable = false ∨ (s.group g.val).master = false) : exec (.heliostatUpdate g) s = .next s := by
  have hexec : exec (.heliostatUpdate g) s = execHeliostatUpdate g s := rfl
  rw [hexec, execHeliostatUpdate]
  exact if_pos (by simpa [or_assoc] using h)

/-! ### The statement -/

/-- Settles O51, row by row. -/
theorem audioPortsAndGroupsAct : Obligations.AudioPortsAndGroupsAct := by
  unfold Obligations.AudioPortsAndGroupsAct
  refine ⟨fun s g x words slips hx => ?_, fun s g k x y hx hy => ⟨fun n c hport hrun hclock hchange hramp hwaited => ?_, ?_, ?_, ?_⟩,
    fun s g x hx hmembers hpins => ⟨fun hslave hclock => ?_, fun hlost => ?_, fun hclock => ?_⟩,
    fun s g => exec_audioClockLoss_none, fun s n v hstopped => exec_rateMeasurement_stopped hstopped v,
    fun s n p v hp hrun => ⟨fun href => exec_rateMeasurement_first hp hrun href v, fun r href => ?_⟩,
    fun s g h => exec_heliostatUpdate_none (.inr h), fun s g x hx henable hmaster => ⟨fun hfull => ?_, fun hearly => ?_⟩⟩
  · subst hx
    exact ⟨fun ⟨hpins, hclock, hmembers⟩ => exec_audioWireFrame_counts hpins hclock hmembers words slips,
      exec_audioWireFrame_none words slips⟩
  · subst hx hy
    rw [exec_crossingTimeout hport hchange, if_pos ⟨by simp [hramp], hwaited, hrun, hclock⟩]
    rfl
  · subst hx hy
    exact exec_crossingTimeout_none
  · subst hy
    intro hmode hon hprog hgood hheld hruns hclock
    rw [exec_bypassReleaseHold hx ⟨hmode, hon, hprog, hgood, hheld⟩ hruns hclock]
    refine ⟨rfl, fun hfresh => ?_⟩
    subst hx
    rw [State.modSlot, State.modGroup, ASlot.request_fresh hfresh]
  · subst hy
    intro h
    refine exec_bypassReleaseHold_none hx ?_
    rintro ⟨⟨hmode, hon, hprog, hgood, hheld⟩, hruns, hclock⟩
    obtain h | h | h | h | h | h | h := h
    · exact h hmode
    · exact absurd (hon.symm.trans h) (by decide)
    · exact absurd (hprog.symm.trans h) (by decide)
    · omega
    · omega
    · exact absurd (hruns.symm.trans h) (by decide)
    · exact absurd (hclock.symm.trans h) (by decide)
  · obtain ⟨t, ht, hsent⟩ := exec_audioClockLoss hx hmembers hpins hslave hclock
    exact ⟨t, ht, State.clockTurns_spec hsent⟩
  · obtain ⟨t, ht, hsent⟩ := exec_audioClockReturn hx hlost
    obtain ⟨hgroup, hports, -, hmem, hstreams⟩ := State.clockTurns_spec hsent
    exact ⟨t, ht, hgroup, hports, hmem, hstreams⟩
  · exact exec_audioClockReturn_none (hx ▸ hclock)
  · rw [exec_rateMeasurement_later hp hrun href v]
    exact ⟨fun hwithin => by rw [if_neg (Nat.not_lt.mpr hwithin)], fun hbeyond => by rw [if_pos hbeyond]⟩
  · obtain ⟨t, ht, hsent⟩ := exec_heliostatUpdate hx henable hmaster hfull
    have hgroup : t.group g.val = x.steerUpdate.1 := (hsent.group g.val).trans (s.setGroup_group_same ..)
    obtain ⟨hsum, hcnt, hlow, hhigh⟩ := x.steerUpdate_bounds
    rw [← hgroup] at hsum hcnt hlow hhigh
    exact ⟨t, ht, hgroup, hsum, hcnt, hlow, hhigh, hsent⟩
  · subst hx
    exact exec_heliostatUpdate_none (.inl hearly)

end Sys2Proof.Machine
end

section
/-! PROOFS. The audio commands (R345, R351, R359, R363 to R367, R369, R422, R437). -/

namespace Sys2Proof.Machine

/-! ### Checks in order, then what the command does (R423) -/

/-- The body of `Acts` and `Starts`: a command answers the first of its checks that fails, by status and DETAIL; where none does,
`P` says what it does. -/
def AnswersOr (o : Answer) (s : State) (m : Fin 64) (why : Option (Nat × Nat)) (P : Prop) : Prop :=
  (∀ st d : Nat, why = some (st, d) → ∃ t, o = .next t ∧ Replied s t m st d []) ∧ (why = none → P)

section
variable {o : Answer} {s : State} {m : Fin 64} {P : Prop}

theorem AnswersOr.refused {k d : Nat} (h : o = .next (s.respond m k d [])) : AnswersOr o s m (some (k, d)) P := by
  refine ⟨fun st e hwhy => ?_, nofun⟩
  cases hwhy
  exact ⟨_, h, s.respond_replied ..⟩

theorem AnswersOr.done (h : P) : AnswersOr o s m none P := ⟨nofun, fun _ => h⟩

/-- One check more in front: where it fails the answer is its own. -/
theorem AnswersOr.check {p : Prop} [Decidable p] {k d : Nat} {u : State} {why : Option (Nat × Nat)}
    (h : o = .next (if p then s.respond m k d [] else u)) (hrest : o = .next u → AnswersOr o s m why P) :
    AnswersOr o s m (if p then some (k, d) else why) P := by
  by_cases hp : p
  · rw [if_pos hp] at h ⊢
    exact .refused h
  · rw [if_neg hp] at h ⊢
    exact hrest h

/-- The last check, stated by what must hold. -/
theorem AnswersOr.require {p : Prop} [Decidable p] {k d : Nat} {u : State}
    (h : o = .next (if p then u else s.respond m k d [])) (hrest : o = .next u → P) :
    AnswersOr o s m (if p then none else some (k, d)) P := by
  by_cases hp : p
  · rw [if_pos hp] at h ⊢
    exact .done (hrest h)
  · rw [if_neg hp] at h ⊢
    exact .refused h

end

theorem ite_bnot {α : Type} (b : Bool) (x y : α) : (if !b then x else y) = if b then y else x := by
  cases b <;> rfl

/-! ### AUD_GROUP_CONFIG (R345, R369) -/

theorem exec_audGroupConfig {s : State} {m : Fin 64} {g : Nat} {c : GroupConf} (h : s.Takes m specAudGroupConfig)
    (hg : g = le (s.page m) 0x40 1) (hc : c = GroupConf.ofPage (s.page m)) : exec (.audGroupConfig m) s = .next (
      if s.popped.groupBusy c g then s.popped.respond m 3 0 []
      else if (s.popped.touched c g).any s.popped.portBusy then s.popped.respond m 8 0 []
      else if s.popped.leftOutFault c g then s.popped.respond m 2 0x42 []
      else (s.popped.configureGroup c g).ok m []) := by
  have hexec : exec (.audGroupConfig m) s = execAudGroupConfig m s := rfl
  subst hg hc
  rw [hexec, execAudGroupConfig, State.runCmd_takes _ _ _ _ h]
  rfl

theorem audGroupConfig_acts : Acts .audGroupConfig specAudGroupConfig (fun _ pg s =>
      if s.groupBusy (GroupConf.ofPage pg) (le pg 0x40 1) then some (3, 0)
      else if (s.touched (GroupConf.ofPage pg) (le pg 0x40 1)).any s.portBusy then some (8, 0)
      else if s.leftOutFault (GroupConf.ofPage pg) (le pg 0x40 1) then some (2, 0x42) else none)
    (fun _ pg s => s.configureGroup (GroupConf.ofPage pg) (le pg 0x40 1)) noData := fun _ _ h =>
  AnswersOr.check (exec_audGroupConfig h rfl rfl) fun hstopped => .check hstopped fun hfree => .check hfree fun hplaced =>
    .done ⟨_, hplaced, State.ok_replied ..⟩

/-! ### Commands that name a port (R359, R363, R369) -/

/-- The checks of a command that names a port: its share, then whether a command waits there (R369, R422). -/
def State.onPort (s : State) (m : Fin 64) (n : Nat) (u : State) : State :=
  if s.audShare m n = false then s.respond m 7 0 [] else if s.portBusy n then s.respond m 8 0 [] else u

theorem State.onPort_eq (s u : State) (m : Fin 64) (n : Nat) :
    (if !s.audShare m n then s.fail m stTarget else if s.portBusy n then s.fail m stBusy else u) = s.onPort m n u := by
  unfold State.onPort
  simp only [Bool.not_eq_true']
  rfl

theorem AnswersOr.onPort {o : Answer} {s u : State} {m : Fin 64} {n : Nat} {P : Prop} {why : Option (Nat × Nat)}
    (h : o = .next (s.onPort m n u)) (hrest : o = .next u → AnswersOr o s m why P) :
    AnswersOr o s m (if s.audShare m n = false then some (7, 0) else if s.portBusy n then some (8, 0) else why) P :=
  .check h fun hshare => .check hshare hrest

/-- The state in which port `n` may start: its group runs, or the group's committed section has applied (R437). -/
def State.startReady (s : State) (n : Nat) : Option State :=
  if s.groupRuns (s.aport n).groupNo then some s else s.applyAudioSection (s.aport n).groupNo

theorem State.startReady_eq_none {s : State} {n : Nat} :
    s.startReady n = none ↔ s.groupRuns (s.aport n).groupNo = false ∧ s.applyAudioSection (s.aport n).groupNo = none := by
  unfold State.startReady
  cases s.groupRuns (s.aport n).groupNo <;> simp

theorem State.startReady_some {s t : State} {n : Nat} (h : s.startReady n = some t) :
    (if s.groupRuns (s.aport n).groupNo then s else (s.applyAudioSection (s.aport n).groupNo).getD s) = t := by
  unfold State.startReady at h
  cases hruns : s.groupRuns (s.aport n).groupNo with
  | true =>
    rw [hruns] at h
    exact Option.some.inj h
  | false =>
    rw [hruns, if_neg Bool.false_ne_true] at h
    rw [if_neg Bool.false_ne_true, h, Option.getD_some]

theorem exec_audPortStart {s : State} {m : Fin 64} {n : Nat} (h : s.Takes m specAudPortStart) (hn : n = le (s.page m) 0x40 1) :
    exec (.audPortStart m) s = .next (s.popped.onPort m n (
      if (s.aport n).run || (s.aport n).startPend then s.popped.respond m 3 0 []
      else match s.popped.startReady n with
        | none => s.popped.respond m 3 0 []
        | some t => (t.modAport n (fun p => { p with startPend := true, swap := false })).ok m [])) := by
  have hexec : exec (.audPortStart m) s = execAudPortStart m s := rfl
  subst hn
  rw [hexec, execAudPortStart, State.runCmd_takes _ _ _ _ h]
  dsimp only
  rw [State.onPort_eq]
  rfl

theorem audPortStart_acts : Acts .audPortStart specAudPortStart (fun m pg s =>
      if s.audShare m (le pg 0x40 1) = false then some (7, 0)
      else if s.portBusy (le pg 0x40 1) then some (8, 0)
      else if (s.aport (le pg 0x40 1)).run || (s.aport (le pg 0x40 1)).startPend then some (3, 0)
      else if s.groupRuns (s.aport (le pg 0x40 1)).groupNo = false ∧ s.applyAudioSection (s.aport (le pg 0x40 1)).groupNo = none
        then some (3, 0) else none)
    (fun _ pg s => (if s.groupRuns (s.aport (le pg 0x40 1)).groupNo then s
        else (s.applyAudioSection (s.aport (le pg 0x40 1)).groupNo).getD s).modAport (le pg 0x40 1)
      (fun p => { p with startPend := true, swap := false })) noData := by
  intro s m h
  refine AnswersOr.onPort (exec_audPortStart h rfl) fun hfree => AnswersOr.check hfree fun hidle => ?_
  cases hready : s.popped.startReady (le (s.page m) 0x40 1) with
  | none =>
    rw [hready] at hidle
    rw [if_pos (State.startReady_eq_none.mp hready)]
    exact .refused hidle
  | some t =>
    rw [hready] at hidle
    have hnot : s.popped.startReady (le (s.page m) 0x40 1) ≠ none := by simp [hready]
    rw [if_neg (mt State.startReady_eq_none.mpr hnot)]
    refine .done ⟨_, hidle, ?_⟩
    dsimp only
    rw [State.startReady_some hready]
    exact State.ok_replied ..

/-- Both channels of a port are asked to stop at their crossings (R363). -/
def State.stopChannels (s : State) (p : APort) : State :=
  p.slotPair.foldl (fun u k => u.modSlot p.groupNo k (fun y =>
    y.request (s.group p.groupNo).rampFrames .stop none (fun z => { z with on := false }))) s

/-- Both channels of a port stop at once (R359). -/
def State.cutChannels (s : State) (p : APort) : State :=
  p.slotPair.foldl (fun u k => u.modSlot p.groupNo k (fun y => { y with on := false, change := none })) s

theorem exec_audPortStop {s : State} {m : Fin 64} {n : Nat} (h : s.Takes m specAudPortStop) (hn : n = le (s.page m) 0x40 1) :
    exec (.audPortStop m) s = .next (s.popped.onPort m n (
      if (s.aport n).run then ((s.popped.stopChannels (s.aport n)).setAport n { s.aport n with stopPend := some (some m) }).background m
      else s.popped.respond m 3 0 [])) := by
  have hexec : exec (.audPortStop m) s = execAudPortStop m s := rfl
  subst hn
  rw [hexec, execAudPortStop, State.runCmd_takes _ _ _ _ h]
  dsimp only
  rw [State.onPort_eq, ite_bnot]
  rfl

theorem audPortStop_starts : Starts .audPortStop specAudPortStop (fun m pg s => if s.audShare m (le pg 0x40 1) = false then some (7, 0)
      else if s.portBusy (le pg 0x40 1) then some (8, 0) else if (s.aport (le pg 0x40 1)).run then none else some (3, 0))
    (fun m pg s => ((s.aport (le pg 0x40 1)).slotPair.foldl (fun u k => u.modSlot (s.aport (le pg 0x40 1)).groupNo k (fun y =>
        y.request (s.group (s.aport (le pg 0x40 1)).groupNo).rampFrames .stop none (fun z => { z with on := false }))) s).setAport
        (le pg 0x40 1) { s.aport (le pg 0x40 1) with stopPend := some (some m) }) := fun _ _ h =>
  AnswersOr.onPort (exec_audPortStop h rfl) fun hfree => .require hfree id

theorem exec_audPortRestart {s : State} {m : Fin 64} {n : Nat} (h : s.Takes m specAudPortRestart) (hn : n = le (s.page m) 0x40 1) :
    exec (.audPortRestart m) s = .next (s.popped.onPort m n (
      if (s.aport n).run then ((s.popped.cutChannels (s.aport n)).setAport n
        { s.aport n with run := false, startPend := true, swap := false, fresh := true }).ok m []
      else s.popped.respond m 3 0 [])) := by
  have hexec : exec (.audPortRestart m) s = execAudPortRestart m s := rfl
  subst hn
  rw [hexec, execAudPortRestart, State.runCmd_takes _ _ _ _ h]
  dsimp only
  rw [State.onPort_eq, ite_bnot]
  rfl

theorem audPortRestart_acts : Acts .audPortRestart specAudPortRestart (fun m pg s =>
      if s.audShare m (le pg 0x40 1) = false then some (7, 0)
      else if s.portBusy (le pg 0x40 1) then some (8, 0) else if (s.aport (le pg 0x40 1)).run then none else some (3, 0))
    (fun _ pg s => ((s.aport (le pg 0x40 1)).slotPair.foldl (fun u k => u.modSlot (s.aport (le pg 0x40 1)).groupNo k (fun y =>
        { y with on := false, change := none })) s).setAport (le pg 0x40 1)
        { s.aport (le pg 0x40 1) with run := false, startPend := true, swap := false, fresh := true }) noData := fun _ _ h =>
  AnswersOr.onPort (exec_audPortRestart h rfl) fun hfree => .require hfree fun hrun => ⟨_, hrun, State.ok_replied ..⟩

/-! ### AUD_SLOT_MASK (R351) -/

theorem exec_audSlotMask {s : State} {m : Fin 64} {g : Nat} (h : s.Takes m specAudSlotMask) (hg : g = le (s.page m) 0x40 1) :
    exec (.audSlotMask m) s = .next (
      if s.popped.audShareGroup m g = false then s.popped.respond m 7 0 []
      else if (List.range 16).any (s.popped.slotBusy g) then s.popped.respond m 8 0 []
      else (s.popped.modGroup g (fun x => { x with
        shadow := BitVec.ofNat 16 (le (s.page m) 0x42 2), pending := some (BitVec.ofNat 16 (le (s.page m) 0x42 2)),
        maskMbx := x.maskMbx ++ [m] })).background m) := by
  have hexec : exec (.audSlotMask m) s = execAudSlotMask m s := rfl
  subst hg
  rw [hexec, execAudSlotMask, State.runCmd_takes _ _ _ _ h]
  dsimp only
  simp only [Bool.not_eq_true']
  rfl

theorem audSlotMask_starts : Starts .audSlotMask specAudSlotMask (fun m pg s =>
      if s.audShareGroup m (le pg 0x40 1) = false then some (7, 0)
      else if (List.range 16).any (s.slotBusy (le pg 0x40 1)) then some (8, 0) else none)
    (fun m pg s => s.modGroup (le pg 0x40 1) (fun x => { x with
      shadow := BitVec.ofNat 16 (le pg 0x42 2), pending := some (BitVec.ofNat 16 (le pg 0x42 2)), maskMbx := x.maskMbx ++ [m] })) :=
  fun _ _ h => AnswersOr.check (exec_audSlotMask h rfl) fun hshare => .check hshare fun hfree => .done hfree

/-! ### Commands that name a slot (R363, R365 to R367) -/

section
variable {s : State} {m : Fin 64} {g k n : Nat}

theorem State.onSlot_runs {f : Nat → State} (hport : s.slotPort g k = some n) (hshare : s.audShare m n = true)
    (hfree : s.slotBusy g k = false) : s.onSlot m g k f = f n := by
  rw [State.onSlot, hport]
  dsimp only
  rw [if_neg (by simp [hshare]), if_neg (by simp [hfree])]

/-- The checks that all commands on a slot share, before those of one command (R369, R422). -/
theorem State.onSlot_refused {f : Nat → State} {why : Nat → Option Nat} {st : Nat} (h : (match s.slotPort g k with
      | none => some 7
      | some n => if s.audShare m n = false then some 7 else if s.slotBusy g k then some 8 else why n) = some st)
    (hf : ∀ n, why n = some st → f n = s.fail m st) : s.onSlot m g k f = s.fail m st := by
  cases hport : s.slotPort g k with
  | none =>
    rw [hport] at h
    cases h
    rw [State.onSlot, hport]
    rfl
  | some n =>
    rw [hport] at h
    dsimp only at h
    cases hshare : s.audShare m n with
    | false =>
      rw [if_pos hshare] at h
      cases h
      rw [State.onSlot, hport]
      exact if_pos (by simp [hshare])
    | true =>
      rw [if_neg (by simp [hshare])] at h
      cases hbusy : s.slotBusy g k with
      | true =>
        rw [if_pos hbusy] at h
        cases h
        rw [State.onSlot, hport]
        dsimp only
        rw [if_neg (by simp [hshare])]
        exact if_pos hbusy
      | false =>
        rw [if_neg (by simp [hbusy])] at h
        rw [State.onSlot_runs hport hshare hbusy, hf n h]

theorem State.askSlot_stopped (h : s.slotRuns g k = false) (kind : ChangeKind) (f : ASlot → ASlot) :
    s.askSlot m g k kind f = (s.modSlot g k (fun x => { f x with change := none })).ok m [] :=
  if_neg (by simp [h])

theorem State.askSlot_running (h : s.slotRuns g k = true) (kind : ChangeKind) (f : ASlot → ASlot) : s.askSlot m g k kind f =
    (s.modSlot g k (fun x => x.request (s.group g).rampFrames kind (some m) f)).background m :=
  if_pos h

end

theorem exec_audGainSet {s : State} {m : Fin 64} {g k : Nat} (h : s.Takes m specAudGainSet) (hg : g = le (s.page m) 0x40 1)
    (hk : k = le (s.page m) 0x41 1) : exec (.audGainSet m) s = .next (s.popped.onSlot m g k (fun _ =>
      s.popped.askSlot m g k .gain (fun y => { y with gain := signedOf 16 (le (s.page m) 0x42 2) }))) := by
  have hexec : exec (.audGainSet m) s = execAudGainSet m s := rfl
  subst hg hk
  rw [hexec, execAudGainSet, State.runCmd_takes _ _ _ _ h]

theorem exec_audMuteSet {s : State} {m : Fin 64} {g k : Nat} (h : s.Takes m specAudMuteSet) (hg : g = le (s.page m) 0x40 1)
    (hk : k = le (s.page m) 0x41 1) : exec (.audMuteSet m) s = .next (s.popped.onSlot m g k (fun _ =>
      s.popped.askSlot m g k (if le (s.page m) 0x42 1 = 1 then .muteOn else .muteOff)
        (fun y => { y with mute := le (s.page m) 0x42 1 == 1 }))) := by
  have hexec : exec (.audMuteSet m) s = execAudMuteSet m s := rfl
  subst hg hk
  rw [hexec, execAudMuteSet, State.runCmd_takes _ _ _ _ h]
  simp only [beq_iff_eq]

/-- AUD_GAIN_SET or AUD_MUTE_SET: the change of kind `kind` by `f` that it asks of slot `k` of group `g` (R363, R365). -/
def SlotCommand (s : State) (m : Fin 64) (i : Instr) (pg : Bytes) (kind : ChangeKind) (f : ASlot → ASlot) : Prop :=
  (i = .audGainSet m ∧ s.Takes m specAudGainSet ∧ kind = .gain ∧ f = (fun y => { y with gain := signedOf 16 (le pg 0x42 2) })) ∨
  (i = .audMuteSet m ∧ s.Takes m specAudMuteSet ∧ kind = (if le pg 0x42 1 = 1 then .muteOn else .muteOff) ∧
    f = (fun y => { y with mute := le pg 0x42 1 == 1 }))

theorem SlotCommand.exec {s : State} {m : Fin 64} {i : Instr} {pg : Bytes} {g k : Nat} {kind : ChangeKind} {f : ASlot → ASlot}
    (h : SlotCommand s m i pg kind f) (hpg : pg = s.page m) (hg : g = le pg 0x40 1) (hk : k = le pg 0x41 1) :
    exec i s = .next (s.popped.onSlot m g k (fun _ => s.popped.askSlot m g k kind f)) := by
  subst hpg
  obtain ⟨rfl, htakes, rfl, rfl⟩ | ⟨rfl, htakes, rfl, rfl⟩ := h
  · exact exec_audGainSet htakes hg hk
  · exact exec_audMuteSet htakes hg hk

/-- What a slot plays in bypass once AUD_BYPASS_SET has set its mode: AUTO starts with programme (R366, R367). -/
def ASlot.progIn (y : ASlot) (mode : Nat) : Bool :=
  if mode = 0 then false else if mode = 2 then true else if y.mode = 1 then y.prog else true

/-- The mode, RELEASE_HOLD and bypass that AUD_BYPASS_SET sets (R366, R367). -/
def ASlot.bypassed (pg : Bytes) (p : Bool) (x : ASlot) : ASlot :=
  { x with mode := le pg 0x42 1, holdMs := le pg 0x44 2, prog := p, good := 0 }

theorem exec_audBypassSet {s : State} {m : Fin 64} {pg : Bytes} {g k : Nat} {y : ASlot} {p : Bool}
    (h : s.Takes m specAudBypassSet) (hpg : pg = s.page m) (hg : g = le pg 0x40 1) (hk : k = le pg 0x41 1)
    (hy : y = (s.group g).slot k) (hp : p = y.progIn (le pg 0x42 1)) : exec (.audBypassSet m) s = .next (s.popped.onSlot m g k (fun n =>
      if !(s.aport n).isOutput then s.popped.fail m 7
      else if p = y.prog then (s.popped.modSlot g k (ASlot.bypassed pg p)).ok m []
      else s.popped.askSlot m g k (if p then .engage else .release) (ASlot.bypassed pg p))) := by
  have hexec : exec (.audBypassSet m) s = execAudBypassSet m s := rfl
  subst hpg hg hk hp hy
  rw [hexec, execAudBypassSet, State.runCmd_takes _ _ _ _ h]
  rfl

/-! ### The statement -/

/-- Settles O39, command by command. -/
theorem audioCommandsAct : Obligations.AudioCommandsAct := by
  unfold Obligations.AudioCommandsAct
  refine ⟨audGroupConfig_acts, audPortStart_acts, audPortStop_starts, audPortRestart_acts, audSlotMask_starts,
    fun s m i pg g k kind f hpg hg hk hcmd => ?_, fun s m pg g k y p f htakes hpg hg hk hy hp hf => ?_⟩
  · rw [SlotCommand.exec hcmd hpg hg hk]
    refine ⟨fun st hwhy => replied_fail ?_, fun n hport hshare hfree => ?_⟩
    · exact congrArg _ (State.onSlot_refused (why := fun _ => none) hwhy nofun)
    · rw [State.onSlot_runs hport hshare hfree]
      exact ⟨fun hstopped => ⟨_, congrArg _ (State.askSlot_stopped hstopped ..), State.ok_replied ..⟩,
        fun hruns => congrArg _ (State.askSlot_running hruns ..)⟩
  · rw [exec_audBypassSet htakes hpg hg hk hy hp]
    subst hf
    refine ⟨fun st hwhy => replied_fail (congrArg _ ?_), fun n hport hshare hfree hout => ?_⟩
    · refine State.onSlot_refused (why := fun n => if (s.aport n).isOutput then none else some 7) hwhy fun n hinput => ?_
      cases hout : (s.aport n).isOutput with
      | true =>
        rw [if_pos hout] at hinput
        cases hinput
      | false =>
        rw [if_neg (by simp [hout])] at hinput
        cases hinput
        rfl
    · rw [State.onSlot_runs hport hshare hfree, if_neg (by simp [hout])]
      refine ⟨fun hsame => ⟨_, congrArg _ (if_pos hsame), State.ok_replied ..⟩, fun hnew hstopped => ?_, fun hnew hruns => ?_⟩
      · exact ⟨_, congrArg _ ((if_neg hnew).trans (State.askSlot_stopped hstopped ..)), State.ok_replied ..⟩
      · exact congrArg _ ((if_neg hnew).trans (State.askSlot_running hruns ..))

end Sys2Proof.Machine
end

section
/-! PROOFS. The MACs' own protocols: ARP, Neighbour Discovery, echo, next hops, and frames that are for nobody (R380, R458). -/

namespace Sys2Proof.Machine

section
variable (s : State) (m : Fin 16)

theorem exec_arpRequest (a b : BitVec 32) (h : BitVec 48) :
    (a = (s.mac m.val).ip4 → a ≠ 0 → exec (.arpRequest m a b h) s = .next (s.emit (.arpReply m a (Config.macAddr m.val) b h))) ∧
    (a ≠ (s.mac m.val).ip4 ∨ a = 0 → exec (.arpRequest m a b h) s = .next (s.discardFrame m.val)) := by
  have hexec : exec (.arpRequest m a b h) s = execArpRequest m a b h s := rfl
  rw [hexec, execArpRequest]
  refine ⟨fun hown hset => if_pos (by simpa [← hown] using hset), fun hother => if_neg ?_⟩
  simp only [Bool.and_eq_true, decide_eq_true_eq]
  rintro ⟨rfl, hset⟩
  exact hother.elim (· rfl) hset

theorem exec_neighbourSolicitation (a b : BitVec 128) (h : BitVec 48) :
    (a = (s.mac m.val).ip6 → a ≠ 0 →
      exec (.neighbourSolicitation m a b h) s = .next (s.emit (.ndReply m a (Config.macAddr m.val) b h))) ∧
    (a ≠ (s.mac m.val).ip6 ∨ a = 0 → exec (.neighbourSolicitation m a b h) s = .next (s.discardFrame m.val)) := by
  have hexec : exec (.neighbourSolicitation m a b h) s = execNeighbourSolicitation m a b h s := rfl
  rw [hexec, execNeighbourSolicitation]
  refine ⟨fun hown hset => if_pos (by simpa [← hown] using hset), fun hother => if_neg ?_⟩
  simp only [Bool.and_eq_true, decide_eq_true_eq]
  rintro ⟨rfl, hset⟩
  exact hother.elim (· rfl) hset

/-- An untagged frame is for a MAC exactly when it names one of the addresses that are set. -/
theorem State.ownFrame_untagged (a : BitVec 128) : s.ownFrame m.val a 0 = true ↔
    a = mapped4 (s.mac m.val).ip4 ∧ (s.mac m.val).ip4 ≠ 0 ∨ a = (s.mac m.val).ip6 ∧ (s.mac m.val).ip6 ≠ 0 := by
  simp [State.ownFrame, and_comm]

theorem exec_icmpEchoRequest (a b : BitVec 128) (d : Bytes) : exec (.icmpEchoRequest m a b d) s =
    .next (if s.ownFrame m.val a 0 then s.emit (.echoReply m a b d) else s.discardFrame m.val) :=
  (apply_ite Host.Outcome.next ..).symm

theorem exec_nextHopResolutionReply_asked {a : BitVec 128} (h : BitVec 48) (hask : a ∈ (s.mac m.val).resolving) :
    ∃ t : State, exec (.nextHopResolutionReply m a h) s = .next t ∧ t = { s with macs := t.macs } ∧
      (t.mac m.val).hops = (s.mac m.val).hops.filter (fun e => e.1 != a) ++ [(a, h)] ∧ a ∉ (t.mac m.val).resolving := by
  have hexec : exec (.nextHopResolutionReply m a h) s = execNextHopResolutionReply m a h s := rfl
  rw [hexec, execNextHopResolutionReply]
  refine ⟨_, if_pos (by simpa using hask), rfl, ?_, ?_⟩
  · rw [State.setMac_mac_same]
  · simp [State.setMac_mac_same]

theorem exec_nextHopResolutionReply_unasked {a : BitVec 128} (h : BitVec 48) (hask : a ∉ (s.mac m.val).resolving) :
    exec (.nextHopResolutionReply m a h) s = .next (s.discardFrame m.val) :=
  if_neg (by simpa using hask)

end

/-- Settles O48, row by row. -/
theorem macsAnswerForTheirAddresses : Obligations.MacsAnswerForTheirAddresses := by
  unfold Obligations.MacsAnswerForTheirAddresses
  rintro s m x drop rfl rfl
  refine ⟨exec_arpRequest s m, exec_neighbourSolicitation s m, fun a b d own hown => ?_, rfl, rfl,
    fun a h => ⟨exec_nextHopResolutionReply_asked s m h, exec_nextHopResolutionReply_unasked s m h⟩⟩
  rw [exec_icmpEchoRequest, hown, ← State.ownFrame_untagged]
  exact ⟨fun hmine => congrArg _ (if_pos hmine), fun hother => congrArg _ (if_neg hother)⟩

end Sys2Proof.Machine
end

section
/-! PROOFS. The device commands: state, reset, event rings, mailboxes, supervisors, power cap (R404, R411, R421, R425, R430, R433,
R517, R523). -/

namespace Sys2Proof.Machine

/-- A command whose body answers, by its own checks, with a failure or with OK once its effect stands. -/
theorem acts_of_body {i : Fin 64 → Instr} {c : CmdSpec} {why : Fin 64 → Bytes → State → Option (Nat × Nat)}
    {effect : Fin 64 → Bytes → State → State} {data : Fin 64 → Bytes → State → Bytes} {body : Fin 64 → Bytes → State → State}
    (hexec : ∀ m s, exec (i m) s = .next (s.runCmd m c (body m)))
    (hrefused : ∀ m pg t st d, why m pg t = some (st, d) → body m pg t = t.respond m st d [])
    (hacts : ∀ m pg t, why m pg t = none → body m pg t = (effect m pg t).ok m (data m pg t)) : Acts i c why effect data := by
  intro s m htakes
  rw [hexec, State.runCmd_takes _ _ _ _ htakes]
  refine ⟨fun st d hwhy => ⟨_, rfl, ?_⟩, fun hnone => ⟨_, rfl, ?_⟩⟩
  · rw [hrefused _ _ _ _ _ hwhy]
    exact State.respond_replied ..
  · rw [hacts _ _ _ hnone]
    exact State.ok_replied ..

/-- A command with one check of its own. -/
theorem acts_of_check {i : Fin 64 → Instr} {c : CmdSpec} {good : Fin 64 → Bytes → State → Prop}
    [∀ m pg t, Decidable (good m pg t)] {st : Nat}
    {effect : Fin 64 → Bytes → State → State} {data : Fin 64 → Bytes → State → Bytes} {body : Fin 64 → Bytes → State → State}
    (hexec : ∀ m s, exec (i m) s = .next (s.runCmd m c (body m)))
    (hrefused : ∀ m pg t, ¬ good m pg t → body m pg t = t.fail m st)
    (hacts : ∀ m pg t, good m pg t → body m pg t = (effect m pg t).ok m (data m pg t)) :
    Acts i c (fun m pg t => if good m pg t then none else some (st, 0)) effect data := by
  refine acts_of_body hexec (fun m pg t st' d hwhy => ?_) fun m pg t hwhy => hacts m pg t ?_
  · split at hwhy
    · cases hwhy
    · next hbad =>
      cases hwhy
      exact hrefused m pg t hbad
  · by_contra hbad
    rw [if_neg hbad] at hwhy
    cases hwhy

/-- A command without checks of its own. -/
theorem acts_of_ok {i : Fin 64 → Instr} {c : CmdSpec} {effect : Fin 64 → Bytes → State → State} {data : Fin 64 → Bytes → State → Bytes}
    (hexec : ∀ m s, exec (i m) s = .next (s.runCmd m c (fun pg t => (effect m pg t).ok m (data m pg t)))) :
    Acts i c (fun _ _ _ => none) effect data :=
  acts_of_body hexec (fun _ _ _ _ _ hwhy => absurd hwhy (Option.some_ne_none _).symm) fun _ _ _ _ => rfl

/-! ### DEV_STATE_SET, DEV_MBX_BIND and DEV_POWER_CAP -/

theorem devStateSet_acts : Acts .devStateSet specDevStateSet (fun _ _ s => if s.parts = [] then none else some (3, 0))
    (fun _ pg s => s.setMode (if le pg 0x40 1 = 4 then .ready else .maintenance)) noData :=
  acts_of_check (fun _ _ => rfl) (fun m pg t hparts => if_pos (by simpa using hparts)) fun m pg t hnone => if_neg (by simp [hnone])

theorem devMbxBind_acts : Acts .devMbxBind specDevMbxBind (fun m pg s => if s.qpBound (le pg 0x40 1) = true ∨
      (le pg 0x40 1 ≠ m.val ∧ (s.mail (le pg 0x40 1)).busy = true) then some (3, 0) else none)
    (fun m pg s => s.modMail (le pg 0x40 1) (fun x => if le pg 0x40 1 = m.val then
      { x with rebind := some (BitVec.ofNat 5 (le pg 0x41 1)) } else { x with owner := BitVec.ofNat 5 (le pg 0x41 1) })) noData := by
  refine acts_of_body (fun _ _ => rfl) (fun m pg t st d hwhy => ?_) fun m pg t hwhy => ?_
  · split at hwhy
    · next hbound =>
      cases hwhy
      exact if_pos (by simpa using hbound)
    · cases hwhy
  · split at hwhy
    · cases hwhy
    · next hfree =>
      refine (if_neg (by simpa using hfree)).trans ?_
      by_cases hown : le pg 0x40 1 = m.val
      · simp only [if_pos hown]
        rfl
      · simp only [if_neg hown]
        rfl

theorem devPowerCap_acts : Acts .devPowerCap specDevPowerCap (fun _ _ _ => none)
    (fun _ pg s => { s with pwr := { s.pwr with capW := BitVec.ofNat 12 (le pg 0x40 2) } }) noData :=
  acts_of_ok fun _ _ => rfl

/-! ### DEV_RESET (R523) -/

theorem exec_devReset {s : State} {m : Fin 64} (h : s.Takes m specDevReset) : ∃ t : State, Replied s.popped t m 0 0 [] ∧
    exec (.devReset m) s = .next (t.resetNow (le (s.page m) 0x40 1 == 0) 2) := by
  have hexec : exec (.devReset m) s = execDevReset m s := rfl
  rw [hexec, execDevReset, State.runCmd_takes _ _ _ _ h]
  exact ⟨s.popped.ok m [], State.ok_replied .., rfl⟩

theorem State.resetNow_spec (t : State) (cold : Bool) : (t.resetNow cold 2).dev.mode = .romBoot ∧
    (t.resetNow cold 2).dev.resetSource = 2 ∧
    (t.resetNow cold 2).dev.resetKind = (if cold ∨ t.dev.reachedReady = false then 0 else 1) := by
  obtain ⟨hmode, hsource, hkind, -⟩ := t.cutFlash.deviceReset_spec (cold || !t.dev.reachedReady) 2
  exact ⟨hmode, hsource, hkind.trans (by simp)⟩

/-! ### DEV_EVT_RING (R425, R427) -/

/-- A queue pair serves the ring of a page: it is the owner's and not connected to another endpoint than the ring's host (R425). -/
def State.servesRing (s : State) (pg : Bytes) : Bool :=
  match s.qp? (le pg 0x48 4) with
  | some q => q.owner == le pg 0x41 1 && (q.state != .connected || q.peer.toNat == le pg 0x50 8 / 2 ^ 51)
  | none => false

theorem State.not_servesRing (s : State) (pg : Bytes) : (!s.servesRing pg) = (s.qp? (le pg 0x48 4)).all (fun q =>
    q.owner != le pg 0x41 1 || (q.state == .connected && q.peer.toNat != le pg 0x50 8 / 2 ^ 51)) := by
  unfold State.servesRing
  cases s.qp? (le pg 0x48 4) with
  | none => rfl
  | some q => simp [bne]

/-- The ring that a page of DEV_EVT_RING describes. -/
def Ring.ofPage (pg : Bytes) : Ring :=
  { Ring.cold with
    enabled := bit (le pg 0x42 2) 0, packets := bit (le pg 0x42 2) 0 && bit (le pg 0x42 2) 1,
    owner := BitVec.ofNat 5 (le pg 0x41 1), entries := if bit (le pg 0x42 2) 0 then le pg 0x44 4 else 16,
    addr := BitVec.ofNat 64 (le pg 0x50 8), consAddr := BitVec.ofNat 64 (le pg 0x58 8),
    mask := BitVec.ofNat 32 (le pg 0x4C 4), qpn := BitVec.ofNat 24 (le pg 0x48 4) }

theorem exec_devEvtRing (m : Fin 64) (s : State) : exec (.devEvtRing m) s = .next (s.runCmd m specDevEvtRing (fun pg t =>
    if le pg 0x50 8 / 2 ^ 51 = t.dev.deviceNo.toNat || le pg 0x58 8 / 2 ^ 51 = t.dev.deviceNo.toNat ||
        (bit (le pg 0x42 2) 0 && !t.servesRing pg) then t.fail m 7
    else (t.cutRing (le pg 0x40 1) (Ring.ofPage pg)).endResets.ok m [])) := rfl

theorem devEvtRing_acts : Acts .devEvtRing specDevEvtRing (fun _ pg s => if le pg 0x50 8 / 2 ^ 51 = s.dev.deviceNo.toNat ∨
      le pg 0x58 8 / 2 ^ 51 = s.dev.deviceNo.toNat ∨ (bit (le pg 0x42 2) 0 = true ∧ (s.qp? (le pg 0x48 4)).all (fun q =>
        q.owner != le pg 0x41 1 || (q.state == .connected && q.peer.toNat != le pg 0x50 8 / 2 ^ 51)) = true) then some (7, 0) else none)
    (fun _ pg s => (s.cutRing (le pg 0x40 1) (Ring.ofPage pg)).endResets) noData := by
  refine acts_of_body exec_devEvtRing (fun m pg t st d hwhy => ?_) fun m pg t hwhy => ?_
  · split at hwhy
    · next hbad =>
      cases hwhy
      exact if_pos (by simpa [State.not_servesRing, or_assoc] using hbad)
    · cases hwhy
  · split at hwhy
    · cases hwhy
    · next hgood => exact if_neg (by simpa [State.not_servesRing, or_assoc] using hgood)

/-- Nothing waits for a ring, so nothing ends with it. -/
theorem State.cutRing_empty {s : State} {n : Nat} (r : Ring) (h : (s.ring n).waiting = []) : s.cutRing n r = s.setRing n r := by
  rw [State.cutRing, h]
  rfl

theorem State.endResets_none {s : State} (h : ∀ v ∈ s.parts, v.2.resetting = none) : s.endResets = s := by
  unfold State.endResets
  generalize s.parts = l at h
  induction l with
  | nil => rfl
  | cons v l ih =>
    rw [List.foldl_cons, h v List.mem_cons_self]
    exact ih fun w hw => h w (List.mem_cons_of_mem _ hw)

/-! ### DEV_SUP_SWAP (R411) -/

theorem OnlySent.sup {s t : State} (h : OnlySent s t) : t.sup = s.sup := by rw [h]

theorem Replied.sup {s t : State} {m : Fin 64} {status detail : Nat} {data : Bytes} (h : Replied s t m status detail data) :
    t.sup = s.sup := by
  obtain ⟨-, -, -, -, hrest⟩ := h
  rw [hrest]

/-- A spare that begins to load, or a retirement that finds none, changes neither roles nor the working supervisors (R411, R484). -/
theorem State.loadSpare_sup (s : State) : s.loadSpare.sup =
    { s.sup with loading := s.loadSpare.sup.loading, retireMbx := s.loadSpare.sup.retireMbx } := by
  unfold State.loadSpare
  dsimp only
  split
  · split
    · rw [(State.fail_replied ..).sup]
    · rfl
  · rfl

theorem State.takeover_sup (s : State) (cause : Nat) (gone : Bool) : (s.takeover cause gone).sup = { s.sup with
    primary := s.sup.standby, standbyValid := false, takeovers := satAdd s.sup.takeovers 1,
    working := if gone then s.sup.working &&& ~~~ BitVec.ofNat 4 (2 ^ s.sup.primary.val) else s.sup.working,
    loading := (s.takeover cause gone).sup.loading, retireMbx := (s.takeover cause gone).sup.retireMbx } := by
  unfold State.takeover
  rw [(State.raiseDev_onlySent ..).sup, State.loadSpare_sup]

theorem State.takeover_roles (s : State) (cause : Nat) : (s.takeover cause false).sup.primary = s.sup.standby ∧
    (s.takeover cause false).sup.standbyValid = false ∧ (s.takeover cause false).sup.working = s.sup.working ∧
    (s.takeover cause false).sup.takeovers = satAdd s.sup.takeovers 1 := by
  rw [State.takeover_sup]
  exact ⟨rfl, rfl, rfl, rfl⟩

theorem devSupSwap_acts : Acts .devSupSwap specDevSupSwap (fun _ _ s => if s.sup.standbyValid then none else some (8, 0))
    (fun _ _ s => s.takeover 1 false) (fun _ _ s => b1 s.sup.standby.val) := by
  refine acts_of_check (fun _ _ => rfl) (fun m pg t hnone => if_pos (by simpa using hnone)) fun m pg t hvalid => ?_
  refine (if_neg (by simpa using hvalid)).trans ?_
  exact congrArg (fun n : Fin 4 => (t.takeover 1 false).ok m (b1 n.val)) (t.takeover_roles 1).1

/-! ### The statement -/

/-- Settles O35, command by command. -/
theorem deviceCommandsAct : Obligations.DeviceCommandsAct := by
  unfold Obligations.DeviceCommandsAct
  exact ⟨devStateSet_acts, fun s m => exec_devReset, State.resetNow_spec, devEvtRing_acts,
    fun s n r => ⟨State.cutRing_empty r, State.endResets_none⟩, devMbxBind_acts, devSupSwap_acts, State.takeover_roles, devPowerCap_acts⟩

end Sys2Proof.Machine
end

section
/-! PROOFS. The board sideband, event rings whose count is read again, doorbell packets, and supervisors that miss heartbeats (R403,
R404, R411, R412, R419, R427, R428, R432). -/

namespace Sys2Proof.Machine

/-! ### The sideband (R403, R404) -/

theorem exec_smbus_off {s : State} (h : s.dev.mode = .off) : exec .smbusIdentity s = .next s ∧ exec .smbusState s = .next s ∧
    exec .smbusTemperature s = .next s ∧ exec .smbusPower s = .next s ∧ exec .smbusHealth s = .next s := by
  have hnone : ∀ bs, s.sideband bs = s := fun bs => if_pos h
  exact ⟨congrArg _ (hnone _), congrArg _ (hnone _), congrArg _ (hnone _), congrArg _ (hnone _), congrArg _ (hnone _)⟩

theorem State.sideband_on {s : State} (h : s.dev.mode ≠ .off) (bs : Bytes) : s.sideband bs = s.emit (.smbus sidebandAddr bs) :=
  if_neg h

theorem State.sidebandLate_early {s : State} (h : s.dev.mode ≠ .off) (hcode : s.dev.mode.code < 4) {bs : Bytes} {n : Nat}
    (hlen : bs.length = n) : s.sidebandLate bs = s.emit (.smbus sidebandAddr (1 :: zeros n)) := by
  rw [State.sidebandLate, s.sideband_on h, if_pos hcode, hlen]

theorem State.sidebandLate_ready {s : State} (h : s.dev.mode ≠ .off) (hcode : 4 ≤ s.dev.mode.code) (bs : Bytes) :
    s.sidebandLate bs = s.emit (.smbus sidebandAddr (0 :: bs)) := by
  rw [State.sidebandLate, s.sideband_on h, if_neg (by omega)]

theorem length_i2 (v : Int) : (i2 v).length = 2 := length_natToBytes ..
theorem length_b1 (v : Nat) : (b1 v).length = 1 := length_natToBytes ..
theorem length_b2 (v : Nat) : (b2 v).length = 2 := length_natToBytes ..

theorem exec_smbus_early {s : State} (h : s.dev.mode ≠ .off) (hcode : s.dev.mode.code < 4) :
    exec .smbusTemperature s = .next (s.emit (.smbus sidebandAddr (1 :: zeros 4))) ∧
    exec .smbusPower s = .next (s.emit (.smbus sidebandAddr (1 :: zeros 4))) ∧
    exec .smbusHealth s = .next (s.emit (.smbus sidebandAddr (1 :: zeros 8))) := by
  refine ⟨congrArg _ (State.sidebandLate_early h hcode ?_), congrArg _ (State.sidebandLate_early h hcode ?_),
    congrArg _ (State.sidebandLate_early h hcode ?_)⟩ <;> simp only [List.length_append, length_i2, length_b1, length_b2]

/-! ### Records that leave a ring (R419, R427) -/

theorem State.sendOn_rings (s : State) (n : Nat) (q : Qp) (k : MsgKind) (va : W64) (d : Bytes) (len : Nat) (u : MsgUse) :
    (s.sendOn n q k va d len u).rings = s.rings := by
  unfold State.sendOn State.sendKeyed
  generalize q.packets _ = count
  dsimp only
  split <;> rfl

/-- The records of a ring that wait, and the count its host has read. -/
def State.queueOf (s : State) (n : Nat) : List Bytes × Nat := ((s.ring n).waiting, (s.ring n).cons)

theorem State.sendOn_queueOf (s : State) (j n : Nat) (q : Qp) (k : MsgKind) (va : W64) (d : Bytes) (len : Nat) (u : MsgUse) :
    (s.sendOn n q k va d len u).queueOf j = s.queueOf j := by
  rw [State.queueOf, State.ring, State.sendOn_rings]
  rfl

theorem State.bellPacket_queueOf (s : State) (n seq : Nat) : (s.bellPacket n seq).queueOf n = s.queueOf n := by
  have hset : ∀ r : Ring, r.waiting = (s.ring n).waiting → r.cons = (s.ring n).cons → (s.setRing n r).queueOf n = s.queueOf n := by
    intro r hwaiting hcons
    rw [State.queueOf, State.setRing_ring_same, hwaiting, hcons]
    rfl
  unfold State.bellPacket
  dsimp only
  refine iteInduction (motive := fun t : State => t.queueOf n = s.queueOf n) (fun _ => rfl) fun _ =>
    iteInduction (motive := fun t : State => t.queueOf n = s.queueOf n) (fun _ => hset _ rfl rfl) fun _ => ?_
  split
  · split
    · exact (State.sendOn_queueOf ..).trans (hset _ rfl rfl)
    · rfl
  · rfl

theorem State.putRecord_queueOf {s t : State} {n : Nat} {bs : Bytes} (h : s.putRecord n bs = some t) : t.queueOf n = s.queueOf n := by
  unfold State.putRecord at h
  dsimp only at h
  split at h
  · split at h
    · cases h
      exact (State.bellPacket_queueOf ..).trans (State.sendOn_queueOf ..)
    · cases h
  · cases h

/-- What a record's completion does to mailboxes: it frees the one that it names. -/
theorem State.freeFor_mail_ne {s : State} {bs : Bytes} {m : Nat} (h : le bs 0 2 = 1 → le bs 12 1 ≠ m) :
    (s.freeFor bs).mail m = s.mail m := by
  unfold State.freeFor
  split
  · next hdone => exact State.setMail_mail_ne _ _ (Ne.symm (h hdone))
  · rfl

theorem State.freeFor_frees {s : State} {bs : Bytes} (h : le bs 0 2 = 1) : ((s.freeFor bs).mail (le bs 12 1)).busy = false := by
  rw [State.freeFor, if_pos h, State.freeMail, State.modMail, State.setMail_mail_same]

theorem State.freeFor_free {s : State} {bs : Bytes} {m : Nat} (h : (s.mail m).busy = false) : ((s.freeFor bs).mail m).busy = false := by
  by_cases hnamed : le bs 0 2 = 1 ∧ le bs 12 1 = m
  · obtain ⟨hdone, rfl⟩ := hnamed
    exact State.freeFor_frees hdone
  · rw [State.freeFor_mail_ne fun hdone hm => hnamed ⟨hdone, hm⟩]
    exact h

/-- `t` is `s` once the records `done` of ring `n` have been written, in order: each completion record has freed its mailbox (R419,
R427). -/
structure Writes (n : Nat) (done : List Bytes) (s t : State) : Prop where
  frame : t = { s with rings := t.rings, qps := t.qps, wire := t.wire, mbx := t.mbx }
  waiting : (s.ring n).waiting = done ++ (t.ring n).waiting
  cons : (t.ring n).cons = (s.ring n).cons
  frees : ∀ bs ∈ done, le bs 0 2 = 1 → (t.mail (le bs 12 1)).busy = false
  free : ∀ m : Nat, (s.mail m).busy = false → (t.mail m).busy = false
  mail : ∀ m : Nat, (∀ bs ∈ done, le bs 0 2 = 1 → le bs 12 1 ≠ m) → t.mail m = s.mail m

theorem Writes.none (n : Nat) (s : State) : Writes n [] s s := ⟨rfl, rfl, rfl, nofun, fun _ h => h, fun _ _ => rfl⟩

theorem Writes.trans {n : Nat} {a b : List Bytes} {s t u : State} (h : Writes n a s t) (k : Writes n b t u) : Writes n (a ++ b) s u where
  frame := k.frame.trans (by rw [h.frame])
  waiting := by rw [h.waiting, k.waiting, List.append_assoc]
  cons := k.cons.trans h.cons
  frees bs hbs hdone := (List.mem_append.mp hbs).elim (fun ha => k.free _ (h.frees bs ha hdone)) fun hb => k.frees bs hb hdone
  free m hm := k.free m (h.free m hm)
  mail m hm := (k.mail m fun bs hb => hm bs (List.mem_append_right _ hb)).trans (h.mail m fun bs ha => hm bs (List.mem_append_left _ ha))

/-- One record written. -/
theorem State.putRecord_writes {s t : State} {n : Nat} {bs : Bytes} {rest : List Bytes} (hw : (s.ring n).waiting = bs :: rest)
    (h : s.putRecord n bs = some t) : Writes n [bs] s ((t.setRing n { t.ring n with waiting := rest }).freeFor bs) := by
  have hsent := State.putRecord_onlySent h
  have hcons : (t.ring n).cons = (s.ring n).cons := congrArg Prod.snd (State.putRecord_queueOf h)
  refine ⟨?_, ?_, ?_, fun b hb hdone => ?_, fun m hm => ?_, fun m hm => ?_⟩
  · unfold State.freeFor
    split <;> rw [hsent] <;> rfl
  · rw [State.freeFor_ring, State.setRing_ring_same, hw]
    rfl
  · rw [State.freeFor_ring, State.setRing_ring_same]
    exact hcons
  · obtain rfl := List.mem_singleton.mp hb
    exact State.freeFor_frees hdone
  · exact State.freeFor_free ((congrArg Mailbox.busy (hsent.mail m)).trans hm)
  · exact (State.freeFor_mail_ne (hm bs (List.mem_singleton_self bs))).trans (hsent.mail m)

theorem State.drainRing_writes (k : Nat) (s : State) (n : Nat) : ∃ done, Writes n done s (State.drainRing k s n) := by
  induction k generalizing s with
  | zero => exact ⟨[], .none n s⟩
  | succ k ih =>
    rw [State.drainRing]
    cases hw : (s.ring n).waiting with
    | nil => exact ⟨[], .none n s⟩
    | cons bs rest =>
      dsimp only
      cases ht : s.putRecord n bs with
      | none => exact ⟨[], .none n s⟩
      | some t =>
        obtain ⟨done, hdone⟩ := ih ((t.setRing n { t.ring n with waiting := rest }).freeFor bs)
        exact ⟨bs :: done, (State.putRecord_writes hw ht).trans hdone⟩

/-! ### EVENT_RING_CONS_REREAD -/

theorem exec_eventRingConsReread_none {s : State} {r : Fin 16} (count : W64)
    (h : (s.ring r.val).enabled = false ∨ (s.ring r.val).waiting = []) : exec (.eventRingConsReread r count) s = .next s :=
  if_neg (by rcases h with h | h <;> simp [h])

theorem exec_eventRingConsReread_writes {s : State} {r : Fin 16} (count : W64) (hon : (s.ring r.val).enabled = true)
    (hwait : (s.ring r.val).waiting ≠ []) : ∃ (t : State) (done : List Bytes),
      exec (.eventRingConsReread r count) s = .next t.endResets ∧
      ((∀ v ∈ s.parts, v.2.resetting = none) → t.endResets = t) ∧
      t = { s with rings := t.rings, qps := t.qps, wire := t.wire, mbx := t.mbx } ∧
      (t.ring r.val).cons = count.toNat ∧ (s.ring r.val).waiting = done ++ (t.ring r.val).waiting ∧
      (∀ bs ∈ done, le bs 0 2 = 1 → (t.mail (le bs 12 1)).busy = false) ∧
      (∀ m : Nat, (∀ bs ∈ done, le bs 0 2 = 1 → le bs 12 1 ≠ m) → t.mail m = s.mail m) := by
  obtain ⟨done, hframe, hwaiting, hcons, hfrees, -, hmail⟩ := State.drainRing_writes (s.ring r.val).waiting.length
    (s.setRing r.val { s.ring r.val with cons := count.toNat }) r.val
  rw [State.setRing_ring_same] at hwaiting hcons
  refine ⟨_, done, if_pos (by simp [hon, hwait]), fun hsteady => State.endResets_none ?_, hframe, hcons, hwaiting, hfrees, hmail⟩
  rw [hframe]
  exact hsteady

/-! ### A message that is sent (R383, R391) -/

/-- With no more than `n` READs all messages are under way. -/
theorem underWay_all {l : List OutMsg} {n : Nat} (h : (l.filter (fun m => m.kind == .read)).length ≤ n) : underWay l n = l := by
  induction l generalizing n with
  | nil => rfl
  | cons o l ih =>
    rw [underWay.eq_def]
    dsimp only
    by_cases hread : (o.kind == .read) = true
    · rw [List.filter_cons, if_pos hread, List.length_cons] at h
      rw [if_pos hread]
      obtain ⟨k, rfl⟩ := Nat.exists_eq_add_of_lt (Nat.lt_of_lt_of_le (Nat.succ_pos _) h)
      rw [Nat.zero_add]
      exact congrArg (o :: ·) (ih (by omega))
    · rw [List.filter_cons, if_neg hread] at h
      rw [if_neg hread, ih h]

/-- A message that is no READ goes out on a queue pair that 24 bits can name. -/
theorem State.sendOn_sends (s : State) {n : Nat} (q : Qp) {k : MsgKind} (va : W64) (d : Bytes) (len : Nat) (use : MsgUse)
    (hn : n < 2 ^ 24) (hk : (k == .read) = false) :
    ∃ o : OutMsg, Sends s (s.sendOn n q k va d len use) n q [o] ∧ o.kind = k ∧ o.data = d := by
  unfold State.sendOn State.sendKeyed
  generalize q.packets _ = count
  dsimp only
  generalize hm : OutMsg.mk q.sqNext (q.sqNext + BitVec.ofNat 24 (count - 1)) k va q.remoteKey d len use = m
  have hkind : (m.kind == .read) = false := by rw [← hm]; exact hk
  refine ⟨m, ⟨?_, fun hreads => ?_⟩, by rw [← hm], by rw [← hm]⟩
  · split <;> exact ⟨_, State.setQp_qp_same .., rfl, rfl⟩
  · have hall : underWay (q.out ++ [m]) 16 = q.out ++ [m] := underWay_all (by
      rw [List.filter_append, List.filter_cons, hkind]
      simpa using hreads)
    rw [hall, if_pos (by simp)]
    have hname : (BitVec.ofNat 24 n).toNat = n := by rw [BitVec.toNat_ofNat, Nat.mod_eq_of_lt hn]
    simp only [State.emit_wire, State.markOf, State.markOwner, Output.row, hname, State.setQp_qp_same]
    rfl

/-! ### DOORBELL_PACKET (R428) -/

/-- The 10 microseconds since a ring's last doorbell packet are over. -/
def Ring.bellDue (x : Ring) (time : Nat) : Bool :=
  match x.lastPacket with
  | some t => t.toNat + 10000 ≤ time
  | none => true

theorem Ring.bellDue_iff {x : Ring} {time : Nat} :
    x.bellDue time = true ↔ ∀ last : W64, x.lastPacket = some last → last.toNat + 10000 ≤ time := by
  unfold Ring.bellDue
  cases x.lastPacket <;> simp

theorem exec_doorbellPacket (r : Fin 16) (s : State) : exec (.doorbellPacket r) s =
    if (s.ring r.val).withheld && (s.ring r.val).bellDue s.time then
      .next (s.bellPacket r.val (((s.ring r.val).seq.toNat + 2 ^ 32 - 1 - (s.ring r.val).waiting.length) % 2 ^ 32))
    else .next s := rfl

/-- A packet that is due leaves where a queue pair serves the ring. -/
theorem State.bellPacket_due {s : State} {n : Nat} (seq : Nat) (hdue : (s.ring n).bellDue s.time = true) :
    s.bellPacket n seq = if (s.ring n).packets then (match s.qp? (s.ring n).qpn.toNat with
      | some q => if q.state == .connected && s.carries q then
          (s.setRing n { s.ring n with lastPacket := some s.now, withheld := false }).sendOn (s.ring n).qpn.toNat q .send 0
            (b1 n ++ zeros 3 ++ b4 seq ++ zeros 8) 0 .other
        else s
      | none => s) else s := by
  unfold State.bellPacket
  dsimp only
  rw [ite_bnot]
  refine if_congr Iff.rfl (if_neg ?_) rfl
  unfold Ring.bellDue at hdue
  cases hlast : (s.ring n).lastPacket with
  | none => simp
  | some t =>
    rw [hlast] at hdue
    simpa using hdue

theorem State.bellPacket_unserved {s : State} {n : Nat} (seq : Nat) (hdue : (s.ring n).bellDue s.time = true)
    (h : (s.ring n).packets = false ∨ ∀ q : Qp, s.qp? (s.ring n).qpn.toNat = some q → q.state ≠ .connected ∨ s.carries q = false) :
    s.bellPacket n seq = s := by
  rw [State.bellPacket_due seq hdue]
  rcases h with hoff | hunserved
  · rw [hoff]
    rfl
  · split
    · split
      · next q hq => exact if_neg (by rcases hunserved q hq with h | h <;> simp [h])
      · rfl
    · rfl

theorem State.bellPacket_served {s : State} {n : Nat} {q : Qp} (seq : Nat) (hdue : (s.ring n).bellDue s.time = true)
    (hon : (s.ring n).packets = true) (hq : s.qp? (s.ring n).qpn.toNat = some q) (hstate : q.state = .connected)
    (hcarries : s.carries q = true) : s.bellPacket n seq =
      (s.setRing n { s.ring n with lastPacket := some s.now, withheld := false }).sendOn (s.ring n).qpn.toNat q .send 0
        (b1 n ++ zeros 3 ++ b4 seq ++ zeros 8) 0 .other := by
  rw [State.bellPacket_due seq hdue, if_pos hon, hq]
  exact if_pos (by rw [hstate, hcarries]; rfl)

theorem exec_doorbellPacket_none {s : State} {r : Fin 16} {x : Ring} (hx : x = s.ring r.val)
    (h : x.withheld = false ∨ x.packets = false ∨ (∃ last : W64, x.lastPacket = some last ∧ s.time < last.toNat + 10000) ∨
      (∀ q : Qp, s.qp? x.qpn.toNat = some q → q.state ≠ .connected ∨ s.carries q = false)) :
    exec (.doorbellPacket r) s = .next s := by
  subst hx
  rw [exec_doorbellPacket]
  split
  · next hcond =>
    obtain ⟨hheld, hdue⟩ := Bool.and_eq_true_iff.mp hcond
    refine congrArg _ (State.bellPacket_unserved _ hdue ?_)
    rcases h with hfree | hoff | ⟨last, hlast, hearly⟩ | hunserved
    · rw [hfree] at hheld
      cases hheld
    · exact .inl hoff
    · exact absurd (Ring.bellDue_iff.mp hdue last hlast) (by omega)
    · exact .inr hunserved
  · rfl

theorem exec_doorbellPacket_sends {s : State} {r : Fin 16} {x : Ring} {q : Qp} (hx : x = s.ring r.val) (hheld : x.withheld = true)
    (hon : x.packets = true) (hdue : ∀ last : W64, x.lastPacket = some last → last.toNat + 10000 ≤ s.time)
    (hq : s.qp? x.qpn.toNat = some q) (hstate : q.state = .connected) (hcarries : s.carries q = true) :
    ∃ (t : State) (o : OutMsg), exec (.doorbellPacket r) s = .next t ∧ OnlySent s t ∧
      Sends s t x.qpn.toNat q [o] ∧ o.kind = .send ∧ o.data.length = 16 ∧
      (t.ring r.val).withheld = false ∧ (t.ring r.val).lastPacket = some s.now := by
  subst hx
  have hdue' := Ring.bellDue_iff.mpr hdue
  have hbell := State.bellPacket_served (((s.ring r.val).seq.toNat + 2 ^ 32 - 1 - (s.ring r.val).waiting.length) % 2 ^ 32) hdue' hon hq
    hstate hcarries
  obtain ⟨o, hsends, hkind, hdata⟩ := State.sendOn_sends (s.setRing r.val { s.ring r.val with lastPacket := some s.now, withheld := false })
    q 0 (b1 r.val ++ zeros 3 ++
      b4 (((s.ring r.val).seq.toNat + 2 ^ 32 - 1 - (s.ring r.val).waiting.length) % 2 ^ 32) ++ zeros 8) 0 .other (k := .send)
    (s.ring r.val).qpn.isLt rfl
  have hring : ∀ t : State, t.rings = (s.setRing r.val { s.ring r.val with lastPacket := some s.now, withheld := false }).rings →
      t.ring r.val = { s.ring r.val with lastPacket := some s.now, withheld := false } := by
    intro t ht
    rw [State.ring, ht]
    exact State.setRing_ring_same ..
  rw [exec_doorbellPacket, hheld, hdue', hbell]
  refine ⟨_, o, if_pos rfl, State.writeDomainOn_onlySent .., hsends, hkind, ?_, ?_, ?_⟩
  · rw [hdata]
    rfl
  · rw [hring _ (State.sendOn_rings ..)]
  · rw [hring _ (State.sendOn_rings ..)]

/-! ### Heartbeats and takeovers (R411, R412, R432) -/

theorem exec_heartbeat (s : State) : exec .heartbeat s =
    if s.dev.mode.code ≥ 3 && s.sup.standbyValid then .next (s.emit (.heartbeat s.sup.primary s.sup.standby)) else .next s := rfl

theorem exec_heartbeatMiss (own : Bool) (s : State) : exec (.heartbeatMiss own) s =
    if 3 ≤ s.dev.mode.code && s.dev.mode.code ≤ 6 then .next s.primaryFails else .next s := rfl

theorem exec_heartbeatMiss_none {s : State} (own : Bool) (h : s.dev.mode.code < 3 ∨ s.dev.mode = .faulted) :
    exec (.heartbeatMiss own) s = .next s := by
  rw [exec_heartbeatMiss]
  refine if_neg ?_
  simp only [Bool.and_eq_true, decide_eq_true_eq]
  rintro ⟨hlow, hhigh⟩
  rcases h with hcode | hfaulted
  · omega
  · rw [hfaulted] at hhigh
    exact absurd hhigh (by decide)

/-- Only a faulted device has a code above 6. -/
theorem DevMode.code_le {m : DevMode} (h : m ≠ .faulted) : m.code ≤ 6 := by
  cases m with
  | faulted => exact absurd rfl h
  | _ => decide

/-- What a takeover leaves alone, whatever it answers and sends: the device, partitions, streams and cores. -/
structure KeepsDevice (s t : State) : Prop where
  dev : t.dev = s.dev
  parts : t.parts = s.parts
  cores : t.cores = s.cores
  streams : t.streams = s.streams

theorem KeepsDevice.trans {s t u : State} (h : KeepsDevice s t) (k : KeepsDevice t u) : KeepsDevice s u :=
  ⟨k.dev.trans h.dev, k.parts.trans h.parts, k.cores.trans h.cores, k.streams.trans h.streams⟩

theorem OnlySent.keepsDevice {s t : State} (h : OnlySent s t) : KeepsDevice s t := ⟨h.dev, h.parts, h.cores, h.streams⟩

theorem Replied.keepsDevice {s t : State} {m : Fin 64} {status detail : Nat} {data : Bytes} (h : Replied s t m status detail data) :
    KeepsDevice s t := by
  obtain ⟨-, -, -, -, hrest⟩ := h
  exact ⟨by rw [hrest], by rw [hrest], by rw [hrest], by rw [hrest]⟩

theorem State.loadSpare_keepsDevice (s : State) : KeepsDevice s s.loadSpare := by
  unfold State.loadSpare
  dsimp only
  split
  · split
    · refine KeepsDevice.trans ?_ (Replied.keepsDevice (State.fail_replied ..))
      exact ⟨rfl, rfl, rfl, rfl⟩
    · exact ⟨rfl, rfl, rfl, rfl⟩
  · exact ⟨rfl, rfl, rfl, rfl⟩

theorem State.takeover_keepsDevice (s : State) (cause : Nat) (gone : Bool) : KeepsDevice s (s.takeover cause gone) := by
  refine KeepsDevice.trans ?_ (State.raiseDev_onlySent ..).keepsDevice
  refine KeepsDevice.trans ?_ (State.loadSpare_keepsDevice _)
  exact ⟨rfl, rfl, rfl, rfl⟩

theorem State.recoveredNow_onlyReports (s : State) (p : Option Nat) (f : FaultReport) (phys core : Nat) :
    OnlySent (s.wear f.unit.toNat phys 7 0 core 0) (s.recoveredNow p f phys core) := by
  unfold State.recoveredNow State.recovered
  exact State.raise_onlySent ..

theorem State.recoveredNow_sup (s : State) (p : Option Nat) (f : FaultReport) (phys core : Nat) :
    (s.recoveredNow p f phys core).sup = s.sup := (s.recoveredNow_onlyReports p f phys core).sup

theorem State.recoveredNow_keepsDevice (s : State) (p : Option Nat) (f : FaultReport) (phys core : Nat) :
    KeepsDevice s (s.recoveredNow p f phys core) := by
  refine KeepsDevice.trans ?_ (s.recoveredNow_onlyReports p f phys core).keepsDevice
  exact ⟨rfl, rfl, rfl, rfl⟩

/-- Heartbeats are missing while a standby can take over (R411). -/
theorem exec_heartbeatMiss_takeover {s : State} (own : Bool) (hcode : 3 ≤ s.dev.mode.code) (hvalid : s.sup.standbyValid = true)
    (hmode : s.dev.mode ≠ .faulted) : ∃ t : State, exec (.heartbeatMiss own) s = .next t ∧ t.sup.primary = s.sup.standby ∧
      t.sup.standbyValid = false ∧ t.sup.takeovers = satAdd s.sup.takeovers 1 ∧ t.dev = s.dev ∧ t.parts = s.parts ∧
      t.cores = s.cores ∧ t.streams = s.streams := by
  have hkeeps := (s.takeover_keepsDevice 0 true).trans (State.recoveredNow_keepsDevice _ none
    ⟨10, BitVec.ofNat 64 (supUnit s.sup.primary.val), 0, .nothing, true⟩ 0 0xFFFF)
  rw [exec_heartbeatMiss, if_pos (by simp [hcode, DevMode.code_le hmode]), State.primaryFails, if_pos hvalid]
  refine ⟨_, rfl, ?_, ?_, ?_, hkeeps.dev, hkeeps.parts, hkeeps.cores, hkeeps.streams⟩
  · rw [State.recoveredNow_sup, State.takeover_sup]
  · rw [State.recoveredNow_sup, State.takeover_sup]
  · rw [State.recoveredNow_sup, State.takeover_sup]

theorem State.enterFaulted_stops (s : State) (cause : Nat) : (s.enterFaulted cause).dev.mode = .faulted ∧
    (s.enterFaulted cause).dev.faultCause = cause ∧ (s.enterFaulted cause).dev.faultN = false ∧ (s.enterFaulted cause).ctxs = [] := by
  have hmode : OnlySent _ (s.enterFaulted cause) := State.setMode_onlySent _ .faulted
  exact ⟨by rw [hmode.dev], by rw [hmode.dev], by rw [hmode.dev], by rw [hmode.ctxs]⟩

/-- Heartbeats are missing and no standby is there (R411, R432). -/
theorem exec_heartbeatMiss_faulted {s : State} (own : Bool) (hlow : 3 ≤ s.dev.mode.code) (hhigh : s.dev.mode.code ≤ 6)
    (hvalid : s.sup.standbyValid = false) : ∃ t : State, exec (.heartbeatMiss own) s = .next t ∧ t.dev.mode = .faulted ∧
      t.dev.faultCause = 4 ∧ t.dev.faultN = false ∧ t.ctxs = [] := by
  have hfails : s.primaryFails = State.enterFaulted { s with sup := { s.sup with
      working := s.sup.working &&& ~~~ BitVec.ofNat 4 (2 ^ s.sup.primary.val) } } 4 := if_neg (by simp [hvalid])
  have hstops := State.enterFaulted_stops { s with sup := { s.sup with
      working := s.sup.working &&& ~~~ BitVec.ofNat 4 (2 ^ s.sup.primary.val) } } 4
  rw [← hfails] at hstops
  rw [exec_heartbeatMiss, if_pos (by simp [hlow, hhigh])]
  exact ⟨s.primaryFails, rfl, hstops⟩

/-! ### A spare has loaded (R411, R484) -/

/-- The supervisors once the spare that loaded is the standby. -/
def State.newStandby (s : State) (n : Fin 4) : State :=
  { s with sup := { s.sup with standby := n, standbyValid := true, loading := none, retireMbx := none } }

/-- Without tests no supervisor leaves its role. -/
theorem State.rollSups_untested {s : State} (h : s.tests = []) : s.rollSups = s := by
  have hunder : ∀ unit, s.underTest unit = false := fun unit => by rw [State.underTest, h]; rfl
  unfold State.rollSups
  simp only [hunder, Bool.false_eq_true, if_false, ite_self]

theorem exec_spareSupervisorReady {s : State} {n : Fin 4} (h : s.sup.loading = some n) : exec (.spareSupervisorReady n) s =
    .next (match s.sup.retireMbx with
      | some m => (s.newStandby n).ok m []
      | none => s.newStandby n).rollSups := by
  refine (if_pos h).trans ?_
  cases s.sup.retireMbx <;> rfl

theorem Replied.tests {s t : State} {m : Fin 64} {status detail : Nat} {data : Bytes} (h : Replied s t m status detail data) :
    t.tests = s.tests := by
  obtain ⟨-, -, -, -, hrest⟩ := h
  rw [hrest]

theorem exec_spareSupervisorReady_standby {s : State} {n : Fin 4} (h : s.sup.loading = some n) :
    ∃ (u v : State), exec (.spareSupervisorReady n) s = .next u.rollSups ∧ v = s.newStandby n ∧ (s.sup.retireMbx = none → u = v) ∧
      (∀ m : Fin 64, s.sup.retireMbx = some m → Replied v u m 0 0 []) ∧ (s.tests = [] → u.rollSups = u) := by
  rw [exec_spareSupervisorReady h]
  cases hmbx : s.sup.retireMbx with
  | none => exact ⟨_, _, rfl, rfl, fun _ => rfl, nofun, fun hnone => State.rollSups_untested hnone⟩
  | some m =>
    have hok := (s.newStandby n).ok_replied m []
    refine ⟨_, _, rfl, rfl, nofun, fun k hk => ?_, fun hnone => State.rollSups_untested (hok.tests.trans hnone)⟩
    obtain rfl := Option.some.inj hk
    exact hok

/-! ### The statement -/

/-- Settles O50, row by row. -/
theorem sidebandRingsAndSupervisorsAct : Obligations.SidebandRingsAndSupervisorsAct := by
  unfold Obligations.SidebandRingsAndSupervisorsAct
  refine ⟨fun s => exec_smbus_off, fun s hon => ⟨congrArg _ (State.sideband_on hon _), congrArg _ (State.sideband_on hon _),
      exec_smbus_early hon, fun hcode => ⟨congrArg _ (State.sidebandLate_ready hon hcode _),
        congrArg _ (State.sidebandLate_ready hon hcode _), congrArg _ (State.sidebandLate_ready hon hcode _)⟩⟩,
    fun s r x count hx => ⟨?_, ?_, exec_doorbellPacket_none hx, fun q => exec_doorbellPacket_sends hx⟩,
    fun s hnone => if_neg ?_, fun s own => exec_heartbeatMiss_none own,
    fun s hcode hvalid => ⟨if_pos (by simp [hcode, hvalid]), fun hmode own => exec_heartbeatMiss_takeover own hcode hvalid hmode⟩,
    fun s hlow hhigh hvalid own => exec_heartbeatMiss_faulted own hlow hhigh hvalid,
    fun s n => ⟨exec_spareSupervisorReady_standby, fun hother => if_neg hother⟩⟩
  · rw [hx]
    exact exec_eventRingConsReread_writes count
  · rw [hx]
    exact exec_eventRingConsReread_none count
  · rcases hnone with hcode | hvalid
    · simp [Nat.not_le.mpr hcode]
    · simp [hvalid]

end Sys2Proof.Machine
end

section
/-! PROOFS. Temperatures, throttling, the thermal trip and its release, reference clocks (R40, R379, R519, R520, R522, R532, R533). -/

namespace Sys2Proof.Machine

/-! ### Islands at 110 degC (R520) -/

/-- An entry for a number that a table does not hold adds to what the table has. -/
theorem any_tabPut {α : Type} {t : Tab α} {i : Nat} {a : α} {p : Nat × α → Bool} (h : tabGet? t i = none) (ha : p (i, a) = false) :
    (tabPut t i a).any p = t.any p := by
  induction t with
  | nil => simp [tabPut, ha]
  | cons e t ih =>
    obtain ⟨j, b⟩ := e
    rw [tabGet?] at h
    split at h
    · cases h
    · next hj =>
      rw [tabPut, if_neg (Ne.symm hj)]
      split
      · simp [ha]
      · rw [List.any_cons, List.any_cons, ih h]

/-- Since when each island of a sample has been at 110 degC or above (R520). -/
def State.hotSince (s : State) (isl : List (Nat × Int)) : Tab W64 :=
  isl.foldl (fun (l : Tab W64) x => if x.2 ≥ 1100 && (tabGet? l x.1).isNone then tabPut l x.1 s.now else l)
    (s.pwr.hot110.filter (fun e => isl.all (fun x => x.1 != e.1 || x.2 ≥ 1100)))

/-- An island that has just reached 110 degC does not count for the 10 ms. -/
theorem State.hotSince_any (s : State) (isl : List (Nat × Int)) :
    (s.hotSince isl).any (fun e => e.2.toNat + 10000000 ≤ s.time) =
      (s.pwr.hot110.filter (fun e => isl.all (fun x => x.1 != e.1 || x.2 ≥ 1100))).any (fun e => e.2.toNat + 10000000 ≤ s.time) := by
  unfold State.hotSince
  generalize s.pwr.hot110.filter _ = t
  induction isl generalizing t with
  | nil => rfl
  | cons x isl ih =>
    rw [List.foldl_cons, ih]
    split
    · next hnew =>
      refine any_tabPut (by simpa using (Bool.and_eq_true_iff.mp hnew).2) (decide_eq_false (Nat.not_le.mpr ?_))
      exact Nat.lt_add_of_pos_right (by decide)
    · rfl

/-- A sample trips the device (R520). -/
def State.trips (s : State) (isl : List (Nat × Int)) : Bool :=
  isl.any (fun x => x.2 ≥ 1150) || (s.hotSince isl).any (fun e => e.2.toNat + 10000000 ≤ s.time)

theorem State.trips_iff (s : State) (isl : List (Nat × Int)) : s.trips isl = true ↔ (∃ e ∈ isl, 1150 ≤ e.2) ∨
    (∃ e ∈ s.pwr.hot110, e.2.toNat + 10000000 ≤ s.time ∧ ∀ v ∈ isl, v.1 = e.1 → 1100 ≤ v.2) := by
  rw [State.trips, State.hotSince_any]
  simp [← imp_iff_not_or, and_comm]

/-! ### Conditions with hysteresis (R519) -/

theorem mem_hysteresis {old : List Nat} {now : List (Nat × Int)} {hi lo : Int} {i : Nat} : i ∈ hysteresis old now hi lo ↔
    (∃ v ∈ now, v.1 = i ∧ (hi ≤ v.2 ∨ (i ∈ old ∧ lo < v.2))) ∨ (i ∈ old ∧ ∀ v ∈ now, v.1 ≠ i) := by
  simp only [hysteresis, List.mem_append, List.mem_map, List.mem_filter, Bool.or_eq_true, Bool.and_eq_true, decide_eq_true_eq,
    List.contains_iff_mem, List.all_eq_true, bne_iff_ne]
  refine or_congr ⟨?_, ?_⟩ Iff.rfl
  · rintro ⟨v, ⟨hv, hcond⟩, rfl⟩
    exact ⟨v, hv, rfl, hcond⟩
  · rintro ⟨v, hv, rfl, hcond⟩
    exact ⟨v, ⟨hv, hcond⟩, rfl⟩

/-- Where an island of the sample stands: under the condition from `hi` on, or above `lo` while it was; not otherwise. -/
theorem hysteresis_island {old : List Nat} {now : List (Nat × Int)} {hi lo : Int} (hlo : lo < hi) {e : Nat × Int} (he : e ∈ now) :
    (hi ≤ e.2 ∨ (e.1 ∈ old ∧ lo < e.2) → e.1 ∈ hysteresis old now hi lo) ∧
    ((∀ v ∈ now, v.1 = e.1 → v.2 ≤ lo ∨ (e.1 ∉ old ∧ v.2 < hi)) → e.1 ∉ hysteresis old now hi lo) := by
  rw [mem_hysteresis]
  refine ⟨fun hcond => .inl ⟨e, he, rfl, hcond⟩, fun hcool => ?_⟩
  rintro (⟨v, hv, hve, hcond⟩ | ⟨-, hmiss⟩)
  · rcases hcool v hv hve with hlow | ⟨hnot, hbelow⟩
    · rcases hcond with hhigh | ⟨-, habove⟩ <;> omega
    · rcases hcond with hhigh | ⟨hold, -⟩
      · omega
      · exact hnot hold
  · exact hmiss e he rfl

/-! ### Stacks -/

/-- The stacks of a sample by the numbers of Power. -/
def sampleStacks (x : TempSample) : List (Nat × Int) := x.hbmStacks.zipIdx.map (fun v => (4000 + v.2, v.1))

/-- The stacks at a temperature or above. -/
def stacksFrom (x : TempSample) (b : Int) : List Nat := ((sampleStacks x).filter (fun v => v.2 ≥ b)).map (·.1)

theorem mem_stacksFrom {x : TempSample} {b : Int} {i : Nat} :
    i ∈ stacksFrom x b ↔ ∃ (n : Nat) (h : Int), i = 4000 + n ∧ x.hbmStacks[n]? = some h ∧ b ≤ h := by
  simp only [stacksFrom, sampleStacks, List.mem_map, List.mem_filter, decide_eq_true_eq]
  constructor
  · rintro ⟨-, ⟨⟨⟨h, n⟩, hmem, rfl⟩, hb⟩, rfl⟩
    exact ⟨n, h, rfl, List.mem_zipIdx_iff_getElem?.mp hmem, hb⟩
  · rintro ⟨n, h, rfl, hget, hb⟩
    exact ⟨(4000 + n, h), ⟨⟨(h, n), List.mem_zipIdx_iff_getElem?.mpr hget, rfl⟩, hb⟩, rfl⟩

theorem stack_mem_stacksFrom {x : TempSample} {b : Int} {n : Nat} :
    4000 + n ∈ stacksFrom x b ↔ ∃ h : Int, x.hbmStacks[n]? = some h ∧ b ≤ h := by
  rw [mem_stacksFrom]
  constructor
  · rintro ⟨k, h, hk, hget, hb⟩
    obtain rfl : n = k := by omega
    exact ⟨h, hget, hb⟩
  · rintro ⟨h, hget, hb⟩
    exact ⟨n, h, rfl, hget, hb⟩

/-! ### THERMAL_SAMPLE -/

/-- The islands and stacks that hardware throttles after a sample (R519). -/
def State.throttledBy (s : State) (x : TempSample) : List Nat :=
  (hysteresis s.pwr.throttled (sampleIslands x) 1050 1030).filter (· < 4000) ++ stacksFrom x 950

/-- The islands that are warm for Lortus after a sample (R519). -/
def State.warmedBy (s : State) (x : TempSample) : List Nat := hysteresis s.pwr.lortusHot (sampleIslands x) 950 930

/-- Power's view of a sample that does not trip (R519). -/
def State.sampledPower (s : State) (x : TempSample) : Power :=
  { s.pwr with
    coolant := x.coolant, hubTemp := x.hub, fabricTemp := x.fabrics,
    hottest := ((sampleIslands x).map (·.2)).foldl max (((sampleIslands x).map (·.2)).headD 0),
    coreTemp := x.cores.foldl (fun l v => tabPut l v.1 v.2) s.pwr.coreTemp,
    refresh2 := stacksFrom x 850, hot110 := s.hotSince (sampleIslands x),
    throttled := s.throttledBy x, lortusHot := s.warmedBy x,
    stage := BitVec.ofNat 2 (if !(s.throttledBy x).isEmpty then 2 else if !(s.warmedBy x).isEmpty then 1 else 0) }

/-- The event of an island or a stack that enters a stage (R519). -/
def State.stageEvents (s old : State) (warm thr : List Nat) (v : Nat × Int) : State :=
  let u := if warm.contains v.1 && !old.pwr.lortusHot.contains v.1 then
      s.raiseDev 0x8B03 (pack [b1 1, b1 (islandQuad v.1), i2 v.2])
    else s
  if thr.contains v.1 && !old.pwr.throttled.contains v.1 then u.raiseDev 0x8B03 (pack [b1 2, b1 (islandQuad v.1), i2 v.2])
  else u

theorem State.stageEvents_onlySent (s old : State) (warm thr : List Nat) (v : Nat × Int) :
    OnlySent s (s.stageEvents old warm thr v) := by
  have hsent : ∀ (b : Bool) (t : State) (code : Nat) (data : Bytes), OnlySent t (if b then t.raiseDev code data else t) := by
    intro b t code data
    cases b
    · exact OnlySent.rfl' t
    · exact State.raiseDev_onlySent ..
  exact (hsent _ s _ _).trans (hsent _ _ _ _)

/-- The device after a sample that does not trip, its events sent. -/
def State.sampled (s : State) (x : TempSample) : State :=
  (sampleIslands x ++ sampleStacks x).foldl (fun u v => u.stageEvents s (s.warmedBy x) (s.throttledBy x) v)
    { s with pwr := s.sampledPower x }

theorem State.sampled_onlySent (s : State) (x : TempSample) : OnlySent { s with pwr := s.sampledPower x } (s.sampled x) :=
  OnlySent.foldl (fun t _ => t.stageEvents_onlySent ..) _ _

theorem exec_thermalSample {s : State} {x : TempSample} (hon : s.dev.mode ≠ .off) : exec (.thermalSample x) s =
    if s.trips (sampleIslands x) then .next { s.powerOff with
      dev := { s.powerOff.dev with thermtripN := false, tripLatched := true, tripRecord := true },
      pwr := { s.powerOff.pwr with coolant := x.coolant } }
    else if (s.warmedBy x).isEmpty || s.dev.mode.code < 3 then .next (s.sampled x)
    else .next (((s.sampled x).lowerClocks false).getD (s.sampled x)) := by
  have hexec : exec (.thermalSample x) s = execThermalSample x s := rfl
  rw [hexec, execThermalSample, if_neg hon]
  rfl

/-- Lowering speaks of cores and partitions only. -/
theorem State.LowersClocks.of_onlySent {s u t : State} {w : Power} (hu : OnlySent { s with pwr := w } u) (h : u.LowersClocks t) :
    s.LowersClocks t := by
  unfold OnlySent at hu
  generalize u.rings = rings, u.qps = qps, u.wire = wire at hu
  subst hu
  exact h

/-- A sample that does not trip, from 95 degC on: Lortus lowers clocks, where any may be lowered. -/
theorem State.sampled_lowers (s : State) (x : TempSample) : ∃ t, ((s.sampled x).lowerClocks false).getD (s.sampled x) = t ∧
    t = { s.sampled x with freeCtr := t.freeCtr, cores := t.cores } ∧ s.LowersClocks t := by
  obtain ⟨hnone, hsome⟩ := (s.sampled x).lowerClocks_spec false
  by_cases hl : (s.sampled x).lowerable = []
  · rw [hnone hl]
    refine ⟨s.sampled x, rfl, rfl, State.LowersClocks.of_onlySent (s.sampled_onlySent x) fun c hc first hfirst => ⟨fun h => ?_, fun _ => rfl⟩⟩
    exact absurd (hfirst.mp h).1 (Nat.not_lt.mpr (State.lowerable_eq_nil.mp hl c hc))
  · obtain ⟨t, ht, heq, hlower⟩ := hsome hl
    rw [ht]
    exact ⟨t, rfl, heq, State.LowersClocks.of_onlySent (s.sampled_onlySent x) hlower⟩

/-- What a sample that does not trip leaves: Power's view of it, and clocks lowered where Lortus is at work and warm (R519). -/
theorem exec_thermalSample_runs {s : State} {x : TempSample} (hon : s.dev.mode ≠ .off) (hcool : s.trips (sampleIslands x) = false) :
    ∃ t : State, exec (.thermalSample x) s = .next t ∧ t.dev = s.dev ∧ t.mem = s.mem ∧ t.pwr = s.sampledPower x ∧
      (s.warmedBy x = [] ∨ s.dev.mode.code < 3 → t.cores = s.cores) ∧
      (s.warmedBy x ≠ [] → 3 ≤ s.dev.mode.code → s.LowersClocks t) := by
  have hsent := s.sampled_onlySent x
  rw [exec_thermalSample hon, hcool, if_neg Bool.false_ne_true]
  by_cases hidle : s.warmedBy x = [] ∨ s.dev.mode.code < 3
  · rw [if_pos (by simpa using hidle)]
    exact ⟨_, rfl, hsent.dev, hsent.mem, hsent.pwr, fun _ => hsent.cores,
      fun hwarm hcode => (hidle.elim hwarm (Nat.not_lt.mpr hcode)).elim⟩
  · rw [if_neg (by simpa using hidle)]
    obtain ⟨t, ht, heq, hlower⟩ := s.sampled_lowers x
    rw [ht]
    exact ⟨t, rfl, (congrArg State.dev heq).trans hsent.dev, (congrArg State.mem heq).trans hsent.mem,
      (congrArg State.pwr heq).trans hsent.pwr, fun h => absurd h hidle, fun _ _ => hlower⟩

/-- The islands under hardware throttling are those of the table below the numbers of stacks. -/
theorem State.mem_throttledBy_island {s : State} {x : TempSample} {i : Nat} (hi : i < 4000) :
    i ∈ s.throttledBy x ↔ i ∈ hysteresis s.pwr.throttled (sampleIslands x) 1050 1030 := by
  rw [State.throttledBy, List.mem_append, List.mem_filter, decide_eq_true_iff]
  refine ⟨fun h => h.elim And.left fun hst => ?_, fun h => .inl ⟨h, hi⟩⟩
  obtain ⟨n, -, rfl, -⟩ := mem_stacksFrom.mp hst
  omega

theorem State.mem_throttledBy_stack {s : State} {x : TempSample} {n : Nat} :
    4000 + n ∈ s.throttledBy x ↔ ∃ h : Int, x.hbmStacks[n]? = some h ∧ 950 ≤ h := by
  rw [State.throttledBy, List.mem_append, List.mem_filter, decide_eq_true_iff, stack_mem_stacksFrom]
  exact or_iff_right fun h => by omega

theorem State.sampledPower_stage (s : State) (x : TempSample) : (s.sampledPower x).stage =
    if (s.sampledPower x).throttled ≠ [] then 2 else if (s.sampledPower x).lortusHot ≠ [] then 1 else 0 := by
  have hstage : ∀ thr warm : List Nat, BitVec.ofNat 2 (if !thr.isEmpty then 2 else if !warm.isEmpty then 1 else 0) =
      if thr ≠ [] then 2 else if warm ≠ [] then 1 else 0 := by
    intro thr warm
    cases thr <;> cases warm <;> rfl
  exact hstage (s.throttledBy x) (s.warmedBy x)

/-- A device that is not OFF takes a temperature sample (R519, R520). -/
theorem thermalSample_acts {s : State} {x : TempSample} (hon : s.dev.mode ≠ .off) :
    ((∃ e ∈ sampleIslands x, 1150 ≤ e.2) ∨ (∃ e ∈ s.pwr.hot110, e.2.toNat + 10000000 ≤ s.time ∧
        ∀ v ∈ sampleIslands x, v.1 = e.1 → 1100 ≤ v.2) → ∃ t : State, exec (.thermalSample x) s = .next t ∧ t.dev.mode = .off ∧
      t.dev.tripLatched = true ∧ t.dev.thermtripN = false ∧ t.pwr.coolant = x.coolant ∧ t.mem = []) ∧
    ((∀ e ∈ sampleIslands x, e.2 < 1150) → (∀ e ∈ s.pwr.hot110, e.2.toNat + 10000000 ≤ s.time →
        ∃ v ∈ sampleIslands x, v.1 = e.1 ∧ v.2 < 1100) → s.trips (sampleIslands x) = false) := by
  refine ⟨fun hhot => ?_, fun hcool hrecent => Bool.eq_false_iff.mpr fun htrip => ?_⟩
  · rw [exec_thermalSample hon, if_pos (State.trips_iff s _ |>.mpr hhot)]
    exact ⟨_, rfl, rfl, rfl, rfl, rfl, rfl⟩
  · rcases (State.trips_iff s _).mp htrip with ⟨e, he, hhot⟩ | ⟨e, he, hlong, hhot⟩
    · have := hcool e he
      omega
    · obtain ⟨v, hv, hve, hbelow⟩ := hrecent e he hlong
      have := hhot v hv hve
      omega

/-! ### Throttling of a core -/

/-- A core that hardware lowers by 50 MHz, to no less than 200 MHz (R519). -/
def Core.throttled (k : Core) : Core :=
  ({ k with thermHalf := some (max 400 ((match k.thermHalf with | some h => min h (2 * k.clockMhz) | none => 2 * k.clockMhz) - 100)) } :
    Core).reclock

theorem Core.throttled_thermHalf (k : Core) : k.throttled.thermHalf =
    some (max 400 (min (k.thermHalf.getD (2 * k.clockMhz)) (2 * k.clockMhz) - 100)) := by
  unfold Core.throttled
  cases h : k.thermHalf with
  | none => simp [Core.reclock]
  | some v => rfl

/-- A core throttled to `h` halves of a MHz that has cooled steps up half a MHz, to its target (R519). -/
def Core.unthrottled (k : Core) (h : Nat) : Core :=
  ({ k with thermHalf := if h + 1 ≥ 2 * k.targetMhz then none else some (h + 1) } : Core).reclock

/-- A report of floors notes what it saw in partitions and sends events. -/
theorem State.reportFloors_keeps (s old : State) (cause : Nat) :
    (s.reportFloors old cause).cores = s.cores ∧ (s.reportFloors old cause).mem = s.mem := by
  refine List.foldlRecOn (motive := fun t : State => t.cores = s.cores ∧ t.mem = s.mem) _ _ ⟨rfl, rfl⟩ fun t ⟨hcores, hmem⟩ p _ => ?_
  have hnote : ∀ (b : Bool) (f : Partition → Partition), (if b then t.modPart p.1 f else t).cores = s.cores ∧
      (if b then t.modPart p.1 f else t).mem = s.mem := by
    intro b f
    cases b
    · exact ⟨hcores, hmem⟩
    · rw [if_pos rfl, State.modPart_eq]
      exact ⟨hcores, hmem⟩
  dsimp only
  split
  · exact ⟨(State.raisePart_onlySent ..).cores.trans (hnote _ _).1, (State.raisePart_onlySent ..).mem.trans (hnote _ _).2⟩
  · exact hnote _ _

theorem exec_thermalThrottleStep_hot {s : State} {c : Fin 1536} (hon : s.dev.mode ≠ .off) (hhot : s.coreHot c.val = true) :
    exec (.thermalThrottleStep c) s = .next ((s.setCore c.val (s.core c.val).throttled).reportFloors s 0) := by
  have hexec : exec (.thermalThrottleStep c) s = execThermalThrottleStep c s := rfl
  rw [hexec, execThermalThrottleStep, if_neg hon, if_pos hhot]
  rfl

theorem exec_thermalThrottleStep_cool {s : State} {c : Fin 1536} (hon : s.dev.mode ≠ .off) (hhot : s.coreHot c.val = false) :
    exec (.thermalThrottleStep c) s = match (s.core c.val).thermHalf with
      | some h => if s.coreCool c.val then .next (s.setCore c.val ((s.core c.val).unthrottled h)) else .next s
      | none => .next s := by
  have hexec : exec (.thermalThrottleStep c) s = execThermalThrottleStep c s := rfl
  rw [hexec, execThermalThrottleStep, if_neg hon, hhot, if_neg Bool.false_ne_true]
  rfl

/-- A hot core steps down, a cool one up again, and no other core changes (R519). -/
theorem thermalThrottleStep_acts {s : State} {c : Fin 1536} (hon : s.dev.mode ≠ .off) :
    (s.coreHot c.val = true → ∃ t : State, exec (.thermalThrottleStep c) s = .next t ∧
      (t.core c.val).thermHalf = some (max 400 (min ((s.core c.val).thermHalf.getD (2 * (s.core c.val).clockMhz))
        (2 * (s.core c.val).clockMhz) - 100)) ∧
      (∀ j : Nat, j ≠ c.val → t.core j = s.core j) ∧ t.mem = s.mem) ∧
    (s.coreHot c.val = false →
      (s.coreCool c.val = false ∨ (s.core c.val).thermHalf = none → exec (.thermalThrottleStep c) s = .next s) ∧
      (s.coreCool c.val = true → ∀ h : Nat, (s.core c.val).thermHalf = some h →
        ∃ t : State, exec (.thermalThrottleStep c) s = .next t ∧ t = { s with cores := t.cores } ∧
          (t.core c.val).thermHalf = (if 2 * (s.core c.val).targetMhz ≤ h + 1 then none else some (h + 1)) ∧
          (∀ j : Nat, j ≠ c.val → t.core j = s.core j))) := by
  refine ⟨fun hhot => ?_, fun hhot => ⟨fun hstay => ?_, fun hcool h hh => ?_⟩⟩
  · obtain ⟨hcores, hmem⟩ := (s.setCore c.val (s.core c.val).throttled).reportFloors_keeps s 0
    have hcore : ∀ j, (((s.setCore c.val (s.core c.val).throttled).reportFloors s 0).core j) =
        (s.setCore c.val (s.core c.val).throttled).core j := fun j =>
      congrArg (fun l => tabGet l Core.cold j) hcores
    refine ⟨_, exec_thermalThrottleStep_hot hon hhot, ?_, fun j hj => (hcore j).trans (State.setCore_core_ne s _ hj), hmem⟩
    rw [hcore, State.setCore_core_same, Core.throttled_thermHalf]
  · rw [exec_thermalThrottleStep_cool hon hhot]
    split
    · next hsome => rw [hstay.resolve_right (by rw [hsome]; exact Option.some_ne_none _), if_neg Bool.false_ne_true]
    · rfl
  · rw [exec_thermalThrottleStep_cool hon hhot, hh]
    dsimp only
    rw [if_pos hcool]
    exact ⟨_, rfl, rfl, congrArg Core.thermHalf (State.setCore_core_same ..), fun j hj => State.setCore_core_ne s _ hj⟩

/-! ### The release of a trip, and reference clocks -/

theorem thermalTripRelease_acts (s : State) :
    (s.dev.mode = .off → s.dev.tripLatched = true → s.pwr.coolant < 450 → ∃ t : State, exec .thermalTripRelease s = .next t ∧
      t.dev.mode = .romBoot ∧ t.dev.tripLatched = false ∧ t.dev.thermtripN = true ∧ t.dev.resetSource = 4) ∧
    (s.dev.mode ≠ .off ∨ s.dev.tripLatched = false ∨ 450 ≤ s.pwr.coolant → exec .thermalTripRelease s = .next s) := by
  have hexec : exec .thermalTripRelease s = if s.dev.mode = .off && s.dev.tripLatched && s.pwr.coolant < 450 then
    .next (s.deviceReset true 4) else .next s := rfl
  rw [hexec]
  refine ⟨fun hoff htrip hcold => ⟨_, if_pos (by simp [hoff, htrip, hcold]), rfl, rfl, rfl, rfl⟩, fun hno => if_neg fun h => ?_⟩
  simp only [Bool.and_eq_true, decide_eq_true_eq] at h
  obtain ⟨⟨hoff, htrip⟩, hcold⟩ := h
  rcases hno with hno | hno | hno
  · exact hno hoff
  · exact Bool.false_ne_true (hno.symm.trans htrip)
  · omega

theorem OnlySent.mac {s t : State} (h : OnlySent s t) (m : Nat) : t.mac m = s.mac m := by
  unfold State.mac; rw [h]

theorem State.macDown_mac (s : State) (m cause k : Nat) : (s.macDown m cause).mac k =
    if k = m then { s.mac m with up := false } else s.mac k := by
  unfold State.macDown
  dsimp only
  cases hup : (s.mac m).up
  · rw [if_neg Bool.false_ne_true]
    split
    · next hk => rw [hk, ← hup]
    · rfl
  · rw [if_pos rfl, (State.raiseDev_onlySent ..).mac]
    split
    · next hk => rw [hk]; exact State.setMac_mac_same ..
    · next hk => exact State.setMac_mac_ne s _ hk

theorem State.macDown_keeps (s : State) (m cause : Nat) :
    (s.macDown m cause).mem = s.mem ∧ (s.macDown m cause).pwr = s.pwr := by
  unfold State.macDown
  dsimp only
  split
  · exact ⟨(State.raiseDev_onlySent ..).mem, (State.raiseDev_onlySent ..).pwr⟩
  · exact ⟨rfl, rfl⟩

/-- Once the MACs of a list have been taken down, each of them is down, and no other effect is on memory or Power. -/
theorem State.macsDown_spec (s : State) (cause : Nat) (l : List Nat) :
    (∀ k, ((l.foldl (fun t m => t.macDown m cause) s).mac k).up = (if k ∈ l then false else (s.mac k).up)) ∧
    (l.foldl (fun t m => t.macDown m cause) s).mem = s.mem ∧ (l.foldl (fun t m => t.macDown m cause) s).pwr = s.pwr := by
  induction l generalizing s with
  | nil => exact ⟨fun k => rfl, rfl, rfl⟩
  | cons m l ih =>
    obtain ⟨hup, hmem, hpwr⟩ := ih (s.macDown m cause)
    obtain ⟨hmem', hpwr'⟩ := s.macDown_keeps m cause
    refine ⟨fun k => (hup k).trans ?_, hmem.trans hmem', hpwr.trans hpwr'⟩
    rw [State.macDown_mac]
    by_cases hk : k = m <;> simp [hk]

theorem referenceClocks_act (s : State) : (s.dev.mode = .off → exec .systemReferenceLost s = .next s ∧
      exec .systemReferenceReturn s = .next s ∧ exec .serdesReferenceLost s = .next s ∧
      exec .serdesReferenceReturn s = .next s) ∧ (s.dev.mode ≠ .off →
    exec .systemReferenceLost s = .next { s with pwr := { s.pwr with refLost := true } } ∧
    exec .systemReferenceReturn s = .next { s with pwr := { s.pwr with refLost := false } } ∧
    exec .serdesReferenceReturn s = .next { s with pwr := { s.pwr with serdesLost := false } } ∧
    ∃ t : State, exec .serdesReferenceLost s = .next t ∧ t.pwr.serdesLost = true ∧ t.mem = s.mem ∧
      ∀ m : Nat, m < 16 → (t.mac m).up = false) := by
  refine ⟨fun hoff => ⟨if_pos hoff, if_pos hoff, if_pos hoff, if_pos hoff⟩,
    fun hon => ⟨if_neg hon, if_neg hon, if_neg hon, _, if_neg hon, ?_, ?_, fun m hm => ?_⟩⟩
  · exact congrArg Power.serdesLost (State.macsDown_spec _ 2 (List.range 16)).2.2
  · exact (State.macsDown_spec _ 2 (List.range 16)).2.1
  · rw [(State.macsDown_spec _ 2 (List.range 16)).1, if_pos (List.mem_range.mpr hm)]

/-- Settles O54: the trip is decided by the sample's islands, every other sample leaves Power's view of it, and lowered clocks,
throttled cores, the release and the references follow by their own lemmas. -/
theorem temperaturesAndReferencesAct : Obligations.TemperaturesAndReferencesAct := by
  unfold Obligations.TemperaturesAndReferencesAct
  refine ⟨fun s x => ⟨fun hoff hlatch => ?_, fun hoff hlatch => ?_, fun hon => ⟨(thermalSample_acts hon).1, fun hcool hrecent => ?_⟩⟩,
    fun s c k hk => ⟨fun hoff => if_pos hoff, fun hon => hk ▸ thermalThrottleStep_acts hon⟩,
    thermalTripRelease_acts, referenceClocks_act⟩
  · exact (if_pos hoff).trans (by rw [hlatch]; rfl)
  · exact (if_pos hoff).trans (by rw [hlatch]; rfl)
  · obtain ⟨t, ht, hdev, hmem, hpwr, hidle, hlower⟩ := exec_thermalSample_runs hon ((thermalSample_acts hon).2 hcool hrecent)
    refine ⟨t, ht, hdev, hmem, ?_⟩
    rw [hpwr]
    refine ⟨rfl, rfl, rfl, fun e he => ?_, fun n => ⟨State.mem_throttledBy_stack, stack_mem_stacksFrom⟩,
      State.sampledPower_stage s x, hidle, hlower⟩
    obtain ⟨hwarm, hnotWarm⟩ := hysteresis_island (old := s.pwr.lortusHot) (hi := 950) (lo := 930) (by decide) he
    obtain ⟨hthr, hnotThr⟩ := hysteresis_island (old := s.pwr.throttled) (hi := 1050) (lo := 1030) (by decide) he
    exact ⟨hwarm, fun hi h => (State.mem_throttledBy_island hi).mpr (hthr h), hnotWarm,
      fun hi h => mt (State.mem_throttledBy_island hi).mp (hnotThr h)⟩

end Sys2Proof.Machine
end

section
/-! PROOFS. Lanes, links and pause (R379, R381, R382, R391, R406, R407, R408). -/

namespace Sys2Proof.Machine

/-! ### What is sent does not stand in the way of other writes -/

theorem OnlySent.port {s t : State} (h : OnlySent s t) (p : Nat) : t.port p = s.port p := by
  unfold State.port; rw [h]

theorem OnlySent.setMac {s t : State} (h : OnlySent s t) (m : Nat) (x : Mac) : OnlySent (s.setMac m x) (t.setMac m x) := by
  unfold OnlySent at h
  generalize t.rings = rings, t.qps = qps, t.wire = wire at h
  subst h
  rfl

theorem OnlySent.wear {s t : State} (h : OnlySent s t) (unit phys kind status core value : Nat) :
    OnlySent (s.wear unit phys kind status core value) (t.wear unit phys kind status core value) := by
  unfold OnlySent at h
  generalize t.rings = rings, t.qps = qps, t.wire = wire at h
  subst h
  rfl

theorem State.depart_onlySent (s : State) (o : Output) (k : Option Mark) : OnlySent s (s.depart o k) := rfl
theorem State.emit_onlySent (s : State) (o : Output) : OnlySent s (s.emit o) := rfl

/-- A command that is answered once something has been sent is answered. -/
theorem OnlySent.replied {s t u : State} {m : Fin 64} {st detail : Nat} {data : Bytes} (h : OnlySent s t)
    (hu : Replied t u m st detail data) : Replied s u m st detail data := by
  unfold OnlySent at h
  generalize t.rings = rings, t.qps = qps, t.wire = wire at h
  subst h
  exact hu

theorem State.setPort_setPort (s : State) (p : Nat) (x y : Port) : (s.setPort p x).setPort p y = s.setPort p y := by
  simp only [State.setPort, tabPut_tabPut]

theorem State.setMac_setMac (s : State) (m : Nat) (x y : Mac) : (s.setMac m x).setMac m y = s.setMac m y := by
  simp only [State.setMac, tabPut_tabPut]

/-! ### Pause (R391, R407) -/

theorem State.pauseAbove_onlySent (s : State) (p prio fill : Nat) : OnlySent s (s.pauseAbove p prio fill) := by
  unfold State.pauseAbove
  split
  · exact State.emit_onlySent ..
  · exact OnlySent.rfl' s

theorem exec_pauseFrameReceive (s : State) (p : Fin 4) (prio : Fin 8) (hold : Bool) (f : Nat) :
    exec (.pauseFrameReceive p prio hold f) s = .next ((s.pauseAbove p.val prio.val f).setPort p.val
      (if bit (s.port p.val).ctl.toNat (53 + prio.val) && !(s.port p.val).pfcWd.getLsbD prio.val then
        { s.port p.val with
          held := if hold then (s.port p.val).held ||| BitVec.ofNat 8 (2 ^ prio.val)
            else (s.port p.val).held &&& ~~~BitVec.ofNat 8 (2 ^ prio.val),
          pfcFrom := if hold && !(s.port p.val).held.getLsbD prio.val then tabPut (s.port p.val).pfcFrom prio.val s.now
            else (s.port p.val).pfcFrom }
      else s.port p.val)) := by
  have hsent := s.pauseAbove_onlySent p.val prio.val f
  have hnow : (s.pauseAbove p.val prio.val f).now = s.now := by rw [hsent]
  have hexec : exec (.pauseFrameReceive p prio hold f) s = execPauseFrameReceive p prio hold f s := rfl
  rw [hexec, execPauseFrameReceive]
  simp only [State.modPort, hsent.port, hnow, Port.pfcOn]

theorem pauseFrameReceive_acts {s : State} {p : Fin 4} {prio : Fin 8} (f : Nat) :
    (bit (s.port p.val).ctl.toNat (53 + prio.val) = true → (s.port p.val).pfcWd.getLsbD prio.val = false →
      exec (.pauseFrameReceive p prio true f) s = .next ((s.pauseAbove p.val prio.val f).setPort p.val { s.port p.val with
        held := (s.port p.val).held ||| BitVec.ofNat 8 (2 ^ prio.val),
        pfcFrom := if (s.port p.val).held.getLsbD prio.val then (s.port p.val).pfcFrom
          else tabPut (s.port p.val).pfcFrom prio.val s.now }) ∧
      exec (.pauseFrameReceive p prio false f) s = .next ((s.pauseAbove p.val prio.val f).setPort p.val { s.port p.val with
        held := (s.port p.val).held &&& ~~~BitVec.ofNat 8 (2 ^ prio.val) })) ∧
    (bit (s.port p.val).ctl.toNat (53 + prio.val) = false ∨ (s.port p.val).pfcWd.getLsbD prio.val = true → ∀ hold : Bool,
      exec (.pauseFrameReceive p prio hold f) s = .next ((s.pauseAbove p.val prio.val f).setPort p.val (s.port p.val))) := by
  simp only [exec_pauseFrameReceive]
  refine ⟨fun hon hwd => ?_, fun hno hold => ?_⟩
  · simp only [hon, hwd, Bool.not_false, Bool.and_self, if_true, Bool.true_and, Bool.false_and, Bool.false_eq_true, if_false, ite_bnot]
    exact ⟨trivial, trivial⟩
  · rw [if_neg fun h => ?_]
    obtain ⟨hon, hwd⟩ := Bool.and_eq_true_iff.mp h
    rcases hno with hno | hno
    · exact Bool.false_ne_true (hno.symm.trans hon)
    · rw [hno] at hwd
      exact Bool.false_ne_true hwd

theorem pfcWatchdog_acts {s : State} {p : Fin 4} {prio : Fin 8} :
    ((s.port p.val).held.getLsbD prio.val = true → (s.port p.val).pfcWd.getLsbD prio.val = false →
      (s.port p.val).pfcSince prio.val + 100000000 < s.time → ∃ t : State, exec (.pfcWatchdog p prio) s = .next t ∧
        OnlySent (s.setPort p.val { s.port p.val with
          pfcWd := (s.port p.val).pfcWd ||| BitVec.ofNat 8 (2 ^ prio.val),
          held := (s.port p.val).held &&& ~~~BitVec.ofNat 8 (2 ^ prio.val),
          pfcFrom := tabPut (s.port p.val).pfcFrom prio.val s.now }) t) ∧
    ((s.port p.val).held.getLsbD prio.val = false ∨ (s.port p.val).pfcWd.getLsbD prio.val = true ∨
      s.time ≤ (s.port p.val).pfcSince prio.val + 100000000 → exec (.pfcWatchdog p prio) s = .next s) ∧
    ((s.port p.val).pfcWd.getLsbD prio.val = true → (s.port p.val).pfcSince prio.val + 1000000000 ≤ s.time →
      exec (.pfcWatchdogEnd p prio) s = .next (s.setPort p.val { s.port p.val with
        pfcWd := (s.port p.val).pfcWd &&& ~~~BitVec.ofNat 8 (2 ^ prio.val) })) ∧
    ((s.port p.val).pfcWd.getLsbD prio.val = false ∨ s.time < (s.port p.val).pfcSince prio.val + 1000000000 →
      exec (.pfcWatchdogEnd p prio) s = .next s) := by
  refine ⟨fun hheld hwd hlong => ⟨_, if_pos (by rw [hheld, hwd, decide_eq_true hlong]; rfl), State.raiseDev_onlySent ..⟩, fun hno => if_neg ?_,
    fun hwd hlong => if_pos (by simp [hwd, hlong]), fun hno => if_neg ?_⟩
  · simp only [Bool.and_eq_true, Bool.not_eq_true', decide_eq_true_eq, not_and]
    intro hboth hlong
    obtain ⟨hheld, hwd⟩ := hboth
    rcases hno with hno | hno | hno
    · exact Bool.false_ne_true (hno.symm.trans hheld)
    · exact Bool.false_ne_true (hwd.symm.trans hno)
    · omega
  · simp only [Bool.and_eq_true, decide_eq_true_eq]
    rintro ⟨hwd, hlong⟩
    rcases hno with hno | hno
    · exact Bool.false_ne_true (hno.symm.trans hwd)
    · omega

/-! ### Lanes (R379, R381, R382, R406) -/

/-- A MAC whose lane is lost, under a breakout: down, and degraded by a rate where a lower one remains. -/
def Mac.laneLost (x : Mac) (breakout : Nat) : Mac :=
  { x with up := false, laneDown := true, degraded := x.degraded + if breakout + x.degraded < 2 then 1 else 0 }

theorem State.laneMac_eq (s : State) (p l : Nat) : s.laneMac p l =
    4 * p + (if (s.port p).breakout = 0 then 0 else if (s.port p).breakout = 1 then l / 2 else l) := by
  unfold State.laneMac
  have hzero : ((s.port p).breakout = 0) ↔ (s.port p).breakout.toNat = 0 := BitVec.toNat_inj.symm
  have hone : ((s.port p).breakout = 1) ↔ (s.port p).breakout.toNat = 1 := BitVec.toNat_inj.symm
  simp only [hzero, hone]
  generalize (s.port p).breakout.toNat = b
  match b with
  | 0 => rfl
  | 1 => rfl
  | b + 2 => rfl

/-- A MAC that goes down is down, and no other effect is but the event. -/
theorem State.macDown_onlySent (s : State) (m cause : Nat) : OnlySent (s.setMac m { s.mac m with up := false }) (s.macDown m cause) ∨
    (s.macDown m cause = s ∧ (s.mac m).up = false) := by
  unfold State.macDown
  dsimp only
  cases hup : (s.mac m).up
  · exact .inr ⟨if_neg Bool.false_ne_true, rfl⟩
  · exact .inl (State.raiseDev_onlySent ..)

theorem State.laneMacDown_onlySent (s : State) (p l : Nat) :
    OnlySent (s.setMac (s.laneMac p l) ((s.mac (s.laneMac p l)).laneLost (s.port p).breakout.toNat)) (s.laneMacDown p l) := by
  have hlost : ∀ x : Mac, x.up = false → ({ x with
      laneDown := true, degraded := if (s.port p).breakout.toNat + x.degraded < 2 then x.degraded + 1 else x.degraded } : Mac) =
        x.laneLost (s.port p).breakout.toNat := by
    intro x hup
    unfold Mac.laneLost
    rw [← hup, add_ite]
    rfl
  unfold State.laneMacDown State.modMac
  dsimp only
  generalize s.laneMac p l = m
  rcases s.macDown_onlySent m 1 with hsent | ⟨hsame, hup⟩
  · rw [hsent.port, hsent.mac, State.setMac_mac_same, show (s.setMac m { s.mac m with up := false }).port p = s.port p from rfl,
      hlost _ rfl]
    exact State.setMac_setMac s m _ _ ▸ hsent.setMac m _
  · rw [hsame, hlost _ hup]
    exact OnlySent.rfl' _

/-- A port that has counted the failure of a lane. -/
def Port.counted (x : Port) : Port := { x with laneFault := satAdd x.laneFault 1 }

/-- A lane that fails, case by case, in terms of the port before (R379, R381, R382). -/
theorem State.laneFails_eq (s : State) (p : Nat) (lane : Fin 5) : s.laneFails p lane =
    if lane.val = 4 then
      match (s.port p).spareState.toNat with
      | 1 => match (s.port p).retire with
        | some m => (s.setPort p { (s.port p).counted with spareState := 3, failing := none, retire := none }).fail m stNoResource
        | none => (s.setPort p { (s.port p).counted with spareState := 3, failing := none, retire := none }).laneMacDown p
            (((s.port p).failing.map (·.1.val)).getD 0)
      | 2 => (s.setPort p { (s.port p).counted with spareState := 3 }).laneMacDown p (s.port p).spareFor.toNat
      | _ => s.setPort p { (s.port p).counted with spareState := 3 }
    else if (s.port p).spareState = 2 && (s.port p).spareFor.toNat = lane.val || (s.port p).failing.map (·.1) = some lane then
      s.setPort p (s.port p).counted
    else if (s.port p).spareOn && (s.port p).spareState = 0 then
      (s.setPort p { (s.port p).counted with
        spareState := 1, failing := some (lane, s.now), laneMap := BitVec.ofNat 3 lane.val }).emit
          (.laneMap (Fin.ofNat 4 p) (BitVec.ofNat 3 lane.val))
    else (s.setPort p (s.port p).counted).laneMacDown p lane.val := by
  simp only [State.laneFails, State.setPort_port_same, State.setPort_setPort]
  rfl

/-- A lane other than the spare fails: one that the spare stands in for, or that the partner is asked about, is counted; else a
free spare takes its place and no spare takes its MAC down. -/
theorem State.laneFails_data {s : State} {p : Fin 4} {lane : Fin 5} (hlane : lane.val < 4) :
    (((s.port p.val).spareState = 2 ∧ (s.port p.val).spareFor.toNat = lane.val) ∨
      (∃ d : W64, (s.port p.val).failing = some (lane, d)) → s.laneFails p.val lane = s.setPort p.val (s.port p.val).counted) ∧
    (¬ ((s.port p.val).spareState = 2 ∧ (s.port p.val).spareFor.toNat = lane.val) →
      (∀ d : W64, (s.port p.val).failing ≠ some (lane, d)) →
      ((s.port p.val).spareOn = true → (s.port p.val).spareState = 0 → s.laneFails p.val lane =
        (s.setPort p.val { (s.port p.val).counted with
          spareState := 1, failing := some (lane, s.now), laneMap := BitVec.ofNat 3 lane.val }).emit
            (.laneMap p (BitVec.ofNat 3 lane.val))) ∧
      ((s.port p.val).spareOn = false ∨ (s.port p.val).spareState ≠ 0 → s.laneFails p.val lane =
        (s.setPort p.val (s.port p.val).counted).laneMacDown p.val lane.val)) := by
  have hp : Fin.ofNat 4 p.val = p := Fin.ext (Nat.mod_eq_of_lt p.isLt)
  have hfailing : (s.port p.val).failing.map (·.1) = some lane ↔ ∃ d : W64, (s.port p.val).failing = some (lane, d) := by
    simp [Option.map_eq_some_iff]
  rw [State.laneFails_eq, if_neg (Nat.ne_of_lt hlane), hp]
  simp only [Bool.or_eq_true, Bool.and_eq_true, decide_eq_true_eq, hfailing]
  refine ⟨fun h => if_pos h, fun hspare hasked => ?_⟩
  rw [if_neg (fun h => h.elim hspare fun ⟨d, hd⟩ => hasked d hd)]
  exact ⟨fun hon hfree => if_pos ⟨hon, hfree⟩, fun hno =>
    if_neg fun ⟨hon, hfree⟩ => hno.elim (fun hoff => Bool.false_ne_true (hoff.symm.trans hon)) fun hused => hused hfree⟩

/-- The spare lane fails: it is no longer available, and takes down the MAC whose lane it carries or was to carry, unless a
retirement waits for it. -/
theorem State.laneFails_spare {s : State} {p : Fin 4} {lane : Fin 5} (hlane : lane.val = 4) :
    ((s.port p.val).spareState = 2 → s.laneFails p.val lane =
      (s.setPort p.val { (s.port p.val).counted with spareState := 3 }).laneMacDown p.val (s.port p.val).spareFor.toNat) ∧
    ((s.port p.val).spareState = 0 ∨ (s.port p.val).spareState = 3 →
      s.laneFails p.val lane = s.setPort p.val { (s.port p.val).counted with spareState := 3 }) ∧
    ((s.port p.val).spareState = 1 →
      ((s.port p.val).retire = none → s.laneFails p.val lane = (s.setPort p.val { (s.port p.val).counted with
        spareState := 3, failing := none, retire := none }).laneMacDown p.val (((s.port p.val).failing.map (·.1.val)).getD 0)) ∧
      ∀ m : Fin 64, (s.port p.val).retire = some m → s.laneFails p.val lane = (s.setPort p.val { (s.port p.val).counted with
        spareState := 3, failing := none, retire := none }).fail m stNoResource) := by
  rw [State.laneFails_eq, if_pos hlane]
  refine ⟨fun h => by rw [h]; rfl, fun h => ?_, fun h => ⟨fun hr => by rw [h, hr]; rfl, fun m hr => by rw [h, hr]; rfl⟩⟩
  rcases h with h | h <;> rw [h] <;> rfl

theorem exec_laneLockLoss (s : State) (p : Fin 4) (lane : Fin 5) : exec (.laneLockLoss p lane) s = .next (s.laneFails p.val lane) := rfl

theorem exec_laneSerWindow (s : State) (p : Fin 4) (lane : Fin 5) (n : Nat) :
    (bits (s.port p.val).ctl.toNat 32 16 < n → exec (.laneSerWindow p lane n) s = exec (.laneLockLoss p lane) s) ∧
    (n ≤ bits (s.port p.val).ctl.toNat 32 16 → exec (.laneSerWindow p lane n) s = .next s) :=
  ⟨fun h => if_pos h, fun h => if_neg (Nat.not_lt.mpr h)⟩

/-! ### The partner's answer and its time-out (R382, R467, R473) -/

/-- The wear record of the spare lane that takes the place of a lane stands behind its port's new state (R382). -/
def State.spareEngaged (s : State) (p : Fin 4) (lane : Fin 5) : State :=
  (s.setPort p.val { s.port p.val with
      spareState := 2, spareFor := BitVec.ofNat 2 lane.val, failing := none, recorded := some lane, retire := none }).wear
    (unitId 9 p.val lane.val) (physOf 0 0 0 4) 1 0 0xFFFF (physOf 0 0 0 lane.val)

theorem unitId_lt {kind a b : Nat} (h : kind < 256) : unitId kind a b < 2 ^ 64 := by
  unfold unitId
  omega

/-- An event, and again the RTP packets that the lane's MAC sent in the 100 µs before the lane failed at `d` (R382). -/
def State.sentAgain (s : State) (p : Fin 4) (lane : Fin 5) (d : W64) : State :=
  let u := s.raiseDev 0x8703 (pack [b1 p.val, b1 lane.val])
  let m := u.laneMac p.val lane.val
  ((u.mac m).recent.filter (fun r => d.toNat ≤ r.1.toNat + 100000)).foldl
    (fun v r => v.depart (.rtpAgain (Fin.ofNat 16 m) r.2.2) (some r.2.1)) u

theorem State.sentAgain_onlySent (s : State) (p : Fin 4) (lane : Fin 5) (d : W64) : OnlySent s (s.sentAgain p lane d) :=
  (State.raiseDev_onlySent ..).trans (OnlySent.foldl (fun t _ => t.depart_onlySent _ _) _ _)

/-- The partner's answer engages the spare, sends again, and answers the retirement or reports the fault recovered. -/
theorem exec_laneMapAnswer {s : State} {p : Fin 4} {lane : Fin 5} {d : W64} (h : (s.port p.val).failing = some (lane, d)) :
    exec (.laneMapAnswer p) s = match (s.port p.val).retire with
      | some k => .next ((((s.spareEngaged p lane).sentAgain p lane d).wear (unitId 9 p.val lane.val) (physOf 0 0 0 lane.val)
          2 0 0xFFFF 0).ok k [])
      | none => .next (((s.spareEngaged p lane).sentAgain p lane d).recoveredNow none
          ⟨9, BitVec.ofNat 64 (unitId 9 p.val lane.val), 0, .nothing, true⟩ (physOf 0 0 0 lane.val) 0xFFFF) := by
  have hexec : exec (.laneMapAnswer p) s = execLaneMapAnswer p s := rfl
  rw [hexec, execLaneMapAnswer]
  dsimp only
  rw [h]
  rfl

theorem laneMapAnswer_acts {s : State} {p : Fin 4} {lane : Fin 5} {d : W64} (h : (s.port p.val).failing = some (lane, d)) :
    ((s.port p.val).retire = none → ∃ t : State, exec (.laneMapAnswer p) s = .next t ∧
      OnlySent ((s.spareEngaged p lane).wear (unitId 9 p.val lane.val) (physOf 0 0 0 lane.val) 7 0 0xFFFF 0) t) ∧
    ∀ m : Fin 64, (s.port p.val).retire = some m → ∃ t : State, exec (.laneMapAnswer p) s = .next t ∧
      Replied ((s.spareEngaged p lane).wear (unitId 9 p.val lane.val) (physOf 0 0 0 lane.val) 2 0 0xFFFF 0) t m 0 0 [] := by
  have hsent := (s.spareEngaged p lane).sentAgain_onlySent p lane d
  rw [exec_laneMapAnswer h]
  generalize (s.spareEngaged p lane).sentAgain p lane d = v at hsent
  refine ⟨fun hr => ?_, fun m hr => ?_⟩
  · rw [hr]
    refine ⟨_, rfl, ?_⟩
    have hrec := v.recoveredNow_onlyReports none ⟨9, BitVec.ofNat 64 (unitId 9 p.val lane.val), 0, .nothing, true⟩
      (physOf 0 0 0 lane.val) 0xFFFF
    rw [BitVec.toNat_ofNat, Nat.mod_eq_of_lt (unitId_lt (by decide))] at hrec
    exact (hsent.wear ..).trans hrec
  · rw [hr]
    exact ⟨_, rfl, (hsent.wear ..).replied (State.ok_replied ..)⟩

theorem exec_laneMapTimeout {s : State} {p : Fin 4} {lane : Fin 5} {d : W64} (h : (s.port p.val).failing = some (lane, d)) :
    exec (.laneMapTimeout p) s = if s.time < d.toNat + 20000 then .next s else
      match (s.port p.val).retire with
      | some m => .next (((s.setPort p.val { s.port p.val with spareState := 0, failing := none, laneMap := 7, retire := none }).emit
          (.laneMap p 7)).fail m stNoResource)
      | none => .next (((s.setPort p.val { s.port p.val with spareState := 0, failing := none, laneMap := 7, retire := none }).emit
          (.laneMap p 7)).laneMacDown p.val lane.val) := by
  have hexec : exec (.laneMapTimeout p) s = execLaneMapTimeout p s := rfl
  rw [hexec, execLaneMapTimeout]
  dsimp only
  rw [h] <;> rfl

theorem laneMapTimeout_acts {s : State} {p : Fin 4} {lane : Fin 5} {d : W64} (h : (s.port p.val).failing = some (lane, d))
    (hlong : d.toNat + 20000 ≤ s.time) :
    ((s.port p.val).retire = none → exec (.laneMapTimeout p) s = .next (((s.setPort p.val { s.port p.val with
      spareState := 0, failing := none, laneMap := 7, retire := none }).emit (.laneMap p 7)).laneMacDown p.val lane.val)) ∧
    ∀ m : Fin 64, (s.port p.val).retire = some m → ∃ t : State, exec (.laneMapTimeout p) s = .next t ∧ Replied (s.setPort p.val
      { s.port p.val with spareState := 0, failing := none, laneMap := 7, retire := none }) t m stNoResource 0 [] := by
  rw [exec_laneMapTimeout h, if_neg (Nat.not_lt.mpr hlong)]
  refine ⟨fun hr => by rw [hr], fun m hr => ?_⟩
  rw [hr]
  exact ⟨_, rfl, (State.emit_onlySent ..).replied (State.fail_replied ..)⟩

/-! ### Links (R379, R381, R406) -/

theorem linkDown_acts (s : State) (m : Fin 16) :
    ((s.mac m.val).up = true → ∃ t : State, exec (.linkDown m) s = .next t ∧
      OnlySent (s.setMac m.val { s.mac m.val with up := false }) t) ∧
    ((s.mac m.val).up = false → exec (.linkDown m) s = .next s) := by
  have hexec : exec (.linkDown m) s = .next (s.macDown m.val 0) := rfl
  rw [hexec]
  refine ⟨fun hup => ⟨_, rfl, (s.macDown_onlySent m.val 0).resolve_right fun h => Bool.false_ne_true (h.2.symm.trans hup)⟩, fun hdown => ?_⟩
  rw [State.macDown, hdown, if_neg Bool.false_ne_true]

/-- No MAC of a port is up. -/
theorem State.portDown_iff (s : State) (p : Nat) :
    ((List.range 4).all (fun k => !(s.mac (4 * p + k)).up)) = true ↔ ∀ k : Nat, k / 4 = p → (s.mac k).up = false := by
  simp only [List.all_eq_true, List.mem_range, Bool.not_eq_true']
  refine ⟨fun h k hk => ?_, fun h k hk => h _ (by omega)⟩
  have := h (k % 4) (Nat.mod_lt _ (by decide))
  rwa [show 4 * p + k % 4 = k by omega] at this

/-- The port of a link that comes up: trained if no other of its MACs is up. -/
def State.trainedFor (s : State) (m : Fin 16) : State :=
  if (List.range 4).all (fun k => !(s.mac (4 * (m.val / 4) + k)).up) then s.modPort (m.val / 4) Port.trained else s

theorem State.trainedFor_mac (s : State) (m : Fin 16) (k : Nat) : (s.trainedFor m).mac k = s.mac k := by
  unfold State.trainedFor
  split <;> rfl

theorem State.trainedFor_eq {s u : State} {m : Fin 16} {first : Prop}
    (hfirst : first ↔ ∀ k : Nat, k / 4 = m.val / 4 → (s.mac k).up = false) (hlater : ¬ first → u = s)
    (htrained : first → u = s.setPort (m.val / 4) (s.port (m.val / 4)).trained) : s.trainedFor m = u := by
  unfold State.trainedFor
  split
  · next h => exact (htrained (hfirst.mpr ((s.portDown_iff _).mp h))).symm
  · next h => exact (hlater fun hf => h ((s.portDown_iff _).mpr (hfirst.mp hf))).symm

theorem exec_linkUp (s : State) (m : Fin 16) : exec (.linkUp m) s =
    if s.dev.mode.code < 3 || s.pwr.serdesLost || (s.mac m.val).up ||
        breakoutMacs ((s.trainedFor m).port (m.val / 4)).breakout.toNat ≤ m.val % 4 then .next s
    else .next (((s.trainedFor m).modMac m.val (fun x => { x with up := true, laneDown := false })).raiseDev 0x8702 (pack [b1 m.val,
      b2 (((s.trainedFor m).modMac m.val (fun x => { x with up := true, laneDown := false })).lineMbps m.val / 1000)])) := rfl

theorem linkUp_acts {s : State} {m : Fin 16} :
    (s.dev.mode.code < 3 ∨ s.pwr.serdesLost = true ∨ (s.mac m.val).up = true ∨
      breakoutMacs ((s.trainedFor m).port (m.val / 4)).breakout.toNat ≤ m.val % 4 → exec (.linkUp m) s = .next s) ∧
    (3 ≤ s.dev.mode.code → s.pwr.serdesLost = false → (s.mac m.val).up = false →
      m.val % 4 < breakoutMacs ((s.trainedFor m).port (m.val / 4)).breakout.toNat → ∃ t : State, exec (.linkUp m) s = .next t ∧
        OnlySent ((s.trainedFor m).setMac m.val { s.mac m.val with up := true, laneDown := false }) t) := by
  rw [exec_linkUp]
  refine ⟨fun h => if_pos (by simpa [or_assoc] using h), fun hcode hser hup hmacs => ⟨_, if_neg ?_, ?_⟩⟩
  · simp [hser, hup, Nat.not_lt.mpr hcode, Nat.not_le.mpr hmacs]
  · have hsent := State.raiseDev_onlySent ((s.trainedFor m).modMac m.val (fun x => { x with up := true, laneDown := false })) 0x8702
    exact State.trainedFor_mac s m m.val ▸ hsent _

theorem Port.trained_spec (x : Port) :
    ((x.recorded = none ∨ bit x.ctl.toNat 61 = false) → x.trained =
      { x with breakout := BitVec.ofNat 2 (bits x.ctl.toNat 62 2), spareOn := bit x.ctl.toNat 61 }) ∧
    ∀ l : Fin 5, x.recorded = some l → bit x.ctl.toNat 61 = true → x.trained =
      { x with breakout := BitVec.ofNat 2 (bits x.ctl.toNat 62 2), spareOn := bit x.ctl.toNat 61,
               spareState := 2, spareFor := BitVec.ofNat 2 l.val, failing := none } := by
  unfold Port.trained
  refine ⟨fun h => ?_, fun l hl hon => ?_⟩
  · rcases h with h | h
    · rw [h]
    · rw [h]
      cases x.recorded <;> rfl
  · rw [hl]
    exact if_pos hon

/-- Settles O47, by the lemma of each event. -/
theorem lanesLinksAndPauseAct : Obligations.LanesLinksAndPauseAct := by
  unfold Obligations.LanesLinksAndPauseAct
  refine ⟨?pause, ?macs, ?lanes, ?links, ?trained⟩
  case pause =>
    rintro s p prio x b rfl rfl
    refine ⟨?_, pfcWatchdog_acts⟩
    rintro f u rfl
    exact pauseFrameReceive_acts f
  case macs =>
    rintro s t p l m rfl rfl
    exact s.laneMac_eq p l ▸ s.laneMacDown_onlySent p l
  case lanes =>
    rintro s p x y rfl rfl
    refine ⟨fun lane hlane => ?_, fun lane hlane => ?_, fun lane n => exec_laneSerWindow s p lane n, fun hnone => ?_,
      fun lane d hd hearly => ?_, ?_⟩
    · obtain ⟨hcounted, hrest⟩ := State.laneFails_data (s := s) (p := p) hlane
      refine ⟨fun h => congrArg _ (hcounted h), fun hspare hasked => ⟨fun hon hfree => ?_, fun hno => ?_⟩⟩
      · exact congrArg _ ((hrest hspare hasked).1 hon hfree)
      · exact congrArg _ ((hrest hspare hasked).2 hno)
    · obtain ⟨hengaged, hfree, hasked⟩ := State.laneFails_spare (s := s) (p := p) hlane
      refine ⟨fun h => congrArg _ (hengaged h), fun h => congrArg _ (hfree h), ?_⟩
      rintro h u rfl
      refine ⟨fun hr => congrArg _ ((hasked h).1 hr), fun m hr => replied_fail (congrArg _ ((hasked h).2 m hr))⟩
    · have hanswer : exec (.laneMapAnswer p) s = execLaneMapAnswer p s := rfl
      have htimeout : exec (.laneMapTimeout p) s = execLaneMapTimeout p s := rfl
      rw [hanswer, htimeout, execLaneMapAnswer, execLaneMapTimeout, hnone]
      exact ⟨rfl, rfl⟩
    · rw [exec_laneMapTimeout hd, if_pos hearly]
    · rintro lane d u v hd rfl rfl
      obtain ⟨hrecovered, hretired⟩ := laneMapAnswer_acts hd
      refine ⟨fun hr => ⟨hrecovered hr, fun hlong => (laneMapTimeout_acts hd hlong).1 hr⟩,
        fun m hr => ⟨hretired m hr, fun hlong => (laneMapTimeout_acts hd hlong).2 m hr⟩⟩
  case links =>
    refine fun s m => ⟨(linkDown_acts s m).1, (linkDown_acts s m).2, ?_⟩
    rintro u x first rfl hfirst hlater htrained
    obtain rfl := State.trainedFor_eq hfirst hlater htrained
    exact linkUp_acts
  case trained =>
    rintro x y rfl
    exact x.trained_spec

end Sys2Proof.Machine
end

section
/-! PROOFS. RTP and RTCP packets (R391, R394, R395, R397, R398, R458). -/

namespace Sys2Proof.Machine

/-! ### Which stream takes a packet (R394, R395) -/

theorem State.pauseAbove_eq (s : State) (p prio fill : Nat) : s.pauseAbove p prio fill =
    if bit (s.port p).ctl.toNat (53 + prio) = true ∧ 3 * 0x80000 < 4 * fill then s.emit (.pause (Fin.ofNat 4 p) (Fin.ofNat 8 prio))
    else s := by
  simp only [State.pauseAbove, Port.pfcOn, Bool.and_eq_true, decide_eq_true_eq]

theorem OnlySent.nextChunkSamples {s t : State} (h : OnlySent s t) (x : Stream) : t.nextChunkSamples x = s.nextChunkSamples x := by
  unfold State.nextChunkSamples
  rw [h.part?]

theorem OnlySent.ownFrame {s t : State} (h : OnlySent s t) (m : Nat) (dst : BitVec 128) (vlan : BitVec 12) :
    t.ownFrame m dst vlan = s.ownFrame m dst vlan := by
  unfold State.ownFrame
  rw [h.mac]

/-- The stream whose SSRC a packet has. -/
def State.rtpOwn (s : State) (k : RtpPacket) : Option (Nat × Stream) :=
  (s.rtpMatches k).find? (fun (e : Nat × Stream) => e.2.intake.ssrc == k.ssrc)

/-- The matching streams that follow a new SSRC. -/
def State.rtpFollowers (s : State) (k : RtpPacket) : List (Nat × Stream) :=
  (s.rtpMatches k).filter (fun (e : Nat × Stream) => bndFollow e.2.binding)

/-- The state in which a packet is looked at: the port may have sent pause (R391). -/
def State.rtpArrived (s : State) (k : RtpPacket) : State :=
  s.pauseAbove (k.mac.val / 4) (s.rtpPrio ((((s.rtpOwn k).or (s.rtpMatches k).head?).map (fun (e : Nat × Stream) => e.2.part.val)).getD 16))
    k.rxFill

/-- A packet with the SSRC of stream `i`. -/
def State.rtpToOwn (u : State) (k : RtpPacket) (i n : Nat) (x : Stream) : State :=
  match rtpSamples x.binding k.payload with
  | some ws => if x.takesInput && n ≠ 0 then u.rtpTake i n k ws else u.rtpOther i
  | none => u.rtpOther i

/-- A packet with a new SSRC that stream `i` alone follows. -/
def State.rtpToFollower (u : State) (k : RtpPacket) (i n : Nat) (x : Stream) : State :=
  match rtpSamples x.binding k.payload with
  | some ws => if x.takesInput && x.intake.stopAt.isNone && n ≠ 0 then (u.rtpFollow i n k.ssrc k.timestamp).rtpTake i n k ws
      else u.rtpOther i
  | none => u.rtpOther i

theorem exec_rtpPacket (s : State) (k : RtpPacket) : exec (.rtpPacket k) s = .next (
    if !k.checksOk then (s.rtpArrived k).badFrame k.mac.val
    else if !s.ownFrame k.mac.val k.dst k.vlan then (s.rtpArrived k).discardFrame k.mac.val
    else match s.rtpOwn k, s.rtpFollowers k, s.rtpMatches k with
      | some (i, x), _, _ => (s.rtpArrived k).rtpToOwn k i (s.nextChunkSamples x) x
      | none, [(i, x)], _ => (s.rtpArrived k).rtpToFollower k i (s.nextChunkSamples x) x
      | none, _, [(i, _)] => (s.rtpArrived k).rtpOther i
      | none, _, _ => (s.rtpArrived k).discardFrame k.mac.val) := by
  have hsent : OnlySent s (s.rtpArrived k) := s.pauseAbove_onlySent ..
  simp only [← hsent.nextChunkSamples, ← hsent.ownFrame] <;> rfl

theorem rtpToOwn_acts (u : State) (k : RtpPacket) (i n : Nat) (x : Stream) :
    (rtpSamples x.binding k.payload = none ∨ x.takesInput = false ∨ n = 0 → u.rtpToOwn k i n x = u.rtpOther i) ∧
    (∀ ws : List Bytes, rtpSamples x.binding k.payload = some ws → x.takesInput = true → n ≠ 0 →
      u.rtpToOwn k i n x = u.rtpTake i n k ws) := by
  unfold State.rtpToOwn
  refine ⟨fun hno => ?_, fun ws hws hin hn => ?_⟩
  · split
    · next ws hws =>
      refine if_neg fun h => ?_
      obtain ⟨hin, hn⟩ := Bool.and_eq_true_iff.mp h
      rcases hno with hno | hno | hno
      · rw [hno] at hws; cases hws
      · exact Bool.false_ne_true (hno.symm.trans hin)
      · exact of_decide_eq_true hn hno
    · rfl
  · rw [hws]
    exact if_pos (by rw [hin, decide_eq_true hn]; rfl)

theorem rtpToFollower_acts (u : State) (k : RtpPacket) (i n : Nat) (x : Stream) :
    (rtpSamples x.binding k.payload = none ∨ x.takesInput = false ∨ x.intake.stopAt.isSome = true ∨ n = 0 →
      u.rtpToFollower k i n x = u.rtpOther i) ∧
    (∀ ws : List Bytes, rtpSamples x.binding k.payload = some ws → x.takesInput = true → x.intake.stopAt = none → n ≠ 0 →
      u.rtpToFollower k i n x = (u.rtpFollow i n k.ssrc k.timestamp).rtpTake i n k ws) := by
  unfold State.rtpToFollower
  refine ⟨fun hno => ?_, fun ws hws hin hstop hn => ?_⟩
  · split
    · next ws hws =>
      refine if_neg fun h => ?_
      obtain ⟨hboth, hn⟩ := Bool.and_eq_true_iff.mp h
      obtain ⟨hin, hstop⟩ := Bool.and_eq_true_iff.mp hboth
      rcases hno with hno | hno | hno | hno
      · rw [hno] at hws; cases hws
      · exact Bool.false_ne_true (hno.symm.trans hin)
      · rw [Option.isNone_iff_eq_none.mp hstop] at hno; cases hno
      · exact of_decide_eq_true hn hno
    · rfl
  · rw [hws]
    exact if_pos (by rw [hin, hstop, decide_eq_true hn]; rfl)

/-- What becomes of a packet, by its checks, its address and the streams that match it (R394, R395, R397, R458). -/
theorem rtpPacket_acts (s : State) (k : RtpPacket) :
    (k.checksOk = false → exec (.rtpPacket k) s = .next ((s.rtpArrived k).badFrame k.mac.val)) ∧
    (k.checksOk = true → s.ownFrame k.mac.val k.dst k.vlan = false →
      exec (.rtpPacket k) s = .next ((s.rtpArrived k).discardFrame k.mac.val)) ∧
    (k.checksOk = true → s.ownFrame k.mac.val k.dst k.vlan = true →
      (∀ (i : Nat) (x : Stream), s.rtpOwn k = some (i, x) →
        exec (.rtpPacket k) s = .next ((s.rtpArrived k).rtpToOwn k i (s.nextChunkSamples x) x)) ∧
      (∀ (i : Nat) (x : Stream), s.rtpOwn k = none → s.rtpFollowers k = [(i, x)] →
        exec (.rtpPacket k) s = .next ((s.rtpArrived k).rtpToFollower k i (s.nextChunkSamples x) x)) ∧
      (s.rtpOwn k = none → (s.rtpFollowers k).length ≠ 1 →
        ((s.rtpMatches k).length ≠ 1 → exec (.rtpPacket k) s = .next ((s.rtpArrived k).discardFrame k.mac.val)) ∧
        ∀ (i : Nat) (x : Stream), s.rtpMatches k = [(i, x)] → exec (.rtpPacket k) s = .next ((s.rtpArrived k).rtpOther i))) := by
  rw [exec_rtpPacket]
  refine ⟨fun hbad => by rw [hbad]; rfl, fun hok hother => by rw [hok, hother]; rfl, fun hok hmine => ?_⟩
  rw [hok, hmine]
  refine ⟨fun i x hown => by rw [hown]; rfl, fun i x hown hfollow => by rw [hown, hfollow]; rfl, fun hown hfollow => ?_⟩
  rw [hown]
  simp only [Bool.not_true, Bool.false_eq_true, if_false]
  generalize s.rtpFollowers k = fs at hfollow
  refine ⟨fun hmany => ?_, fun i x hone => ?_⟩
  · generalize s.rtpMatches k = ms at hmany
    match fs, ms, hfollow, hmany with
    | [], [], _, _ => rfl
    | [], _ :: _ :: _, _, _ => rfl
    | _ :: _ :: _, [], _, _ => rfl
    | _ :: _ :: _, _ :: _ :: _, _, _ => rfl
  · rw [hone]
    match fs, hfollow with
    | [], _ => rfl
    | _ :: _ :: _, _ => rfl

/-! ### Samples in stream time (R395, R397) -/

theorem State.setStream_setStream (s : State) (i : Nat) (x y : Stream) : (s.setStream i x).setStream i y = s.setStream i y := by
  simp only [State.setStream, tabPut_tabPut]

theorem State.modStream_setStream (s : State) (i : Nat) (x : Stream) (f : Stream → Stream) :
    (s.setStream i x).modStream i f = s.setStream i (f x) := by
  rw [State.modStream, State.setStream_stream_same, State.setStream_setStream]

/-- The stream of a packet once its time has started. -/
def Stream.started (x : Stream) (ts : W32) : Stream := if x.intake.ts0.isSome then x else x.startTs ts x.sampleCount.toNat

theorem Stream.started_sampleCount (x : Stream) (ts : W32) : (x.started ts).sampleCount = x.sampleCount := by
  unfold Stream.started
  split <;> rfl

theorem Stream.started_early (x : Stream) (ts : W32) :
    (x.started ts).intake.early = x.intake.early ∧ (x.started ts).intake.earlyCnt = x.intake.earlyCnt := by
  unfold Stream.started
  split <;> exact ⟨rfl, rfl⟩

/-- A packet 4 or more chunks ahead is held and counted early; a nearer one has its samples placed (R397). -/
theorem rtpTake_acts (s : State) (i n : Nat) (k : RtpPacket) (ws : List Bytes) :
    (((s.stream i).sampleCount.toNat + 4 * n : Int) ≤ ((s.stream i).started k.timestamp).rtpStart k.timestamp →
      (∀ e : EarlyPacket, (s.stream i).intake.early = some e → k.timestamp ≠ e.ts + BitVec.ofNat 32 e.samples) →
      s.rtpTake i n k ws = s.setStream i { (s.stream i).started k.timestamp with intake := { ((s.stream i).started k.timestamp).intake with
        earlyCnt := (s.stream i).intake.earlyCnt + 1, early := some ⟨k.timestamp, ws.length, k.payload, s.now⟩ } }) ∧
    (((s.stream i).started k.timestamp).rtpStart k.timestamp < ((s.stream i).sampleCount.toNat + 4 * n : Int) → s.rtpTake i n k ws =
      ((s.setStream i ((s.stream i).started k.timestamp)).modStream i (fun z => { z with intake := { z.intake with
        early := none } })).placeSamples i n (((s.stream i).started k.timestamp).rtpStart k.timestamp) ws s.now) := by
  obtain ⟨hearly, hcnt⟩ := (s.stream i).started_early k.timestamp
  have hcount := (s.stream i).started_sampleCount k.timestamp
  have hfold : ∀ x : Stream, (if x.intake.ts0.isSome then x else x.startTs k.timestamp x.sampleCount.toNat) = x.started k.timestamp :=
    fun _ => rfl
  simp only [State.rtpTake, hfold, hcount, hearly, State.modStream_setStream, hcnt]
  refine ⟨fun hfar hjump => ?_, fun hnear => if_neg (Int.not_le.mpr hnear)⟩
  rw [if_pos hfar]
  split
  · next e he => exact if_neg (hjump e he)
  · rfl

/-- The samples of a packet, each with its place in stream time. -/
def placedFrom (start : Int) (ws : List Bytes) : List (Int × Bytes) :=
  (List.range ws.length).map (fun (j : Nat) => (start + (j : Int), ws.getD j []))

/-- The samples of a packet that a stream keeps: those of its next four chunks and before a drain's end that it does not hold. -/
def Stream.newSamples (x : Stream) (n : Nat) (start : Int) (ws : List Bytes) : List (Int × Bytes) :=
  ((placedFrom start ws).filter (fun e => (x.sampleCount.toNat : Int) ≤ e.1 &&
    e.1 < ((min (x.sampleCount.toNat + 4 * n) (x.intake.stopAt.getD (x.sampleCount.toNat + 4 * n)) : Nat) : Int))).filter
      (fun e => (tabGet? x.intake.samples e.1.toNat).isNone)

/-- The intake once the samples of a packet that it does not keep have been counted (R397). -/
def Stream.countedIntake (x : Stream) (n : Nat) (start : Int) (ws : List Bytes) : Intake :=
  let far := x.sampleCount.toNat + 4 * n
  { x.intake with
    lateCnt := x.intake.lateCnt + flag ((placedFrom start ws).any (fun e => e.1 < x.sampleCount.toNat)),
    earlyCnt := x.intake.earlyCnt + flag ((placedFrom start ws).any (fun e => (far : Int) ≤ e.1)),
    otherCnt := x.intake.otherCnt +
      flag ((placedFrom start ws).any (fun e => (x.intake.stopAt.getD far : Int) ≤ e.1 && e.1 < far)) }

/-- The new samples of a packet, from `first` to `last`, are kept unless the pool is full (R397). -/
def State.keepSamples (s : State) (i : Nat) (k : Intake) (arrival : W64) (new : List (Int × Bytes)) (first last : Int × Bytes) : State :=
  let x := s.stream i
  let t := (s.setStream i { x with intake := k }).setStream i { x with
    lastSample := arrival,
    intake := { k with samples := new.foldl (fun t e => tabPut t e.1.toNat e.2) k.samples,
                       kept := k.kept ++ [⟨first.1.toNat, last.1.toNat, arrival⟩] } }
  if poolBytes < t.poolUse then ((s.setStream i { x with intake := k }).rtpOther i).poolCheck else t.poolCheck

theorem State.placeSamples_eq (s : State) (i n : Nat) (start : Int) (ws : List Bytes) (arrival : W64) :
    s.placeSamples i n start ws arrival =
      match (s.stream i).newSamples n start ws, ((s.stream i).newSamples n start ws).getLast? with
      | first :: _, some last => s.keepSamples i ((s.stream i).countedIntake n start ws) arrival ((s.stream i).newSamples n start ws) first last
      | _, _ => s.setStream i { s.stream i with intake := (s.stream i).countedIntake n start ws } := rfl

/-- No sample of the packet is to be kept: they are counted and nothing else. -/
theorem State.placeSamples_none {s : State} {i n : Nat} {start : Int} {ws : List Bytes} {arrival : W64}
    (h : (s.stream i).newSamples n start ws = []) : s.placeSamples i n start ws arrival =
      s.setStream i { s.stream i with intake := (s.stream i).countedIntake n start ws } := by
  rw [State.placeSamples_eq, h]

theorem State.placeSamples_some {s : State} {i n : Nat} {start : Int} {ws : List Bytes} {arrival : W64} {first last : Int × Bytes}
    (hfirst : ((s.stream i).newSamples n start ws).head? = some first)
    (hlast : ((s.stream i).newSamples n start ws).getLast? = some last) : s.placeSamples i n start ws arrival =
      s.keepSamples i ((s.stream i).countedIntake n start ws) arrival ((s.stream i).newSamples n start ws) first last := by
  rw [State.placeSamples_eq]
  generalize (s.stream i).newSamples n start ws = new at hfirst hlast
  cases new with
  | nil => cases hfirst
  | cons e new =>
    cases hfirst
    rw [hlast]

theorem mem_placedFrom {start : Int} {ws : List Bytes} {e : Int × Bytes} :
    e ∈ placedFrom start ws ↔ ∃ j : Nat, j < ws.length ∧ (start + (j : Int), ws.getD j []) = e := by
  simp only [placedFrom, List.mem_map, List.mem_range]

theorem placedFrom_any (start : Int) (ws : List Bytes) (p : Int → Bool) :
    (placedFrom start ws).any (fun e => p e.1) = (List.range ws.length).any (fun j => p (start + (j : Int))) := by
  rw [placedFrom, List.any_map]
  rfl

/-- A packet that starts at the next sample and fits in four chunks: the stream keeps all of it and counts nothing. -/
theorem Stream.nextSamples {x : Stream} {n : Nat} {ws : List Bytes} (hfit : ws.length ≤ 4 * n) (hstop : x.intake.stopAt = none)
    (hnew : ∀ j : Nat, j < ws.length → tabGet? x.intake.samples (x.sampleCount.toNat + j) = none) :
    x.newSamples n x.sampleCount.toNat ws = placedFrom x.sampleCount.toNat ws ∧
      x.countedIntake n x.sampleCount.toNat ws = x.intake := by
  have hin : ∀ e ∈ placedFrom x.sampleCount.toNat ws, (x.sampleCount.toNat : Int) ≤ e.1 ∧ e.1 < x.sampleCount.toNat + 4 * n ∧
      tabGet? x.intake.samples e.1.toNat = none := by
    intro e he
    obtain ⟨j, hj, rfl⟩ := mem_placedFrom.mp he
    exact ⟨by dsimp only; omega, by dsimp only; omega, hnew j hj⟩
  have hnone : ∀ p : Int × Bytes → Bool, (∀ e ∈ placedFrom x.sampleCount.toNat ws, p e = false) →
      flag ((placedFrom x.sampleCount.toNat ws).any p) = 0 := fun p hp => by
    rw [List.any_eq_false.mpr fun e he => by rw [hp e he]; exact Bool.false_ne_true]
    rfl
  constructor
  · rw [Stream.newSamples, hstop]
    rw [List.filter_eq_self.mpr, List.filter_eq_self.mpr]
    · intro e he
      obtain ⟨hlow, hhigh, -⟩ := hin e he
      simp only [Option.getD_none, Nat.min_self, Bool.and_eq_true, decide_eq_true_eq]
      omega
    · intro e he
      rw [(hin e (List.mem_of_mem_filter he)).2.2]
      rfl
  · rw [Stream.countedIntake, hstop]
    simp only [Option.getD_none]
    rw [hnone _ fun e he => decide_eq_false (by have := hin e he; omega), hnone _ fun e he => decide_eq_false (by have := hin e he; omega),
      hnone _ fun e he => by rw [← Bool.decide_and]; exact decide_eq_false (by have := hin e he; omega), ← hstop]
    rfl

/-- A stream that has kept a whole packet from its next sample on (R395, R397). -/
def Stream.keptPacket (x : Stream) (ws : List Bytes) (now : W64) : Stream :=
  { x with
    lastSample := now,
    intake := { x.intake with
      samples := (List.range ws.length).foldl (fun (t : Tab Bytes) j => tabPut t (x.sampleCount.toNat + j) (ws.getD j [])) x.intake.samples,
      kept := x.intake.kept ++ [⟨x.sampleCount.toNat, x.sampleCount.toNat + ws.length - 1, now⟩] } }

theorem State.keepSamples_next {s : State} {i n : Nat} {ws : List Bytes} {now : W64} (hws : ws ≠ []) (hfit : ws.length ≤ 4 * n)
    (hstop : (s.stream i).intake.stopAt = none)
    (hnew : ∀ j : Nat, j < ws.length → tabGet? (s.stream i).intake.samples ((s.stream i).sampleCount.toNat + j) = none) :
    s.placeSamples i n (s.stream i).sampleCount.toNat ws now =
      if poolBytes < (s.setStream i ((s.stream i).keptPacket ws now)).poolUse then
        (s.setStream i { s.stream i with intake := { (s.stream i).intake with otherCnt := (s.stream i).intake.otherCnt + 1 } }).poolCheck
      else (s.setStream i ((s.stream i).keptPacket ws now)).poolCheck := by
  obtain ⟨hsamples, hcount⟩ := Stream.nextSamples hfit hstop hnew
  have hlen : ws.length ≠ 0 := fun h => hws (List.eq_nil_of_length_eq_zero h)
  have hfirst : (placedFrom (s.stream i).sampleCount.toNat ws).head? =
      some ((((s.stream i).sampleCount.toNat : Int) + (0 : Nat), ws.getD 0 [])) := by
    rw [placedFrom, List.head?_map, List.head?_range, if_neg hlen]
    rfl
  have hlast : (placedFrom (s.stream i).sampleCount.toNat ws).getLast? =
      some ((((s.stream i).sampleCount.toNat : Int) + (ws.length - 1 : Nat), ws.getD (ws.length - 1) [])) := by
    rw [placedFrom, List.getLast?_map, List.getLast?_range, if_neg hlen]
    rfl
  have hfold : (placedFrom (s.stream i).sampleCount.toNat ws).foldl (fun t e => tabPut t e.1.toNat e.2) (s.stream i).intake.samples =
      (List.range ws.length).foldl (fun (t : Tab Bytes) j => tabPut t ((s.stream i).sampleCount.toNat + j) (ws.getD j []))
        (s.stream i).intake.samples := by
    rw [placedFrom, List.foldl_map]
    rfl
  have hends : (((s.stream i).sampleCount.toNat : Int) + (ws.length - 1 : Nat)).toNat =
      (s.stream i).sampleCount.toNat + ws.length - 1 := by omega
  rw [State.placeSamples_some (by rw [hsamples]; exact hfirst) (by rw [hsamples]; exact hlast), hsamples, hcount, State.keepSamples]
  simp only [hfold, hends, State.setStream_setStream, State.rtpOther, State.modStream_setStream]
  rfl

/-- A packet from the next sample on is kept, unless the pool is full (R397). -/
theorem placeSamples_next {s : State} {i n : Nat} {ws : List Bytes} {now : W64} (hws : ws ≠ []) (hfit : ws.length ≤ 4 * n)
    (hstop : (s.stream i).intake.stopAt = none)
    (hnew : ∀ j : Nat, j < ws.length → tabGet? (s.stream i).intake.samples ((s.stream i).sampleCount.toNat + j) = none) :
    ((s.setStream i ((s.stream i).keptPacket ws now)).poolUse ≤ poolBytes → ∃ t : State,
      s.placeSamples i n (s.stream i).sampleCount.toNat ws now = t.poolCheck ∧ t.stream i = (s.stream i).keptPacket ws now ∧
      (∀ j : Nat, j ≠ i → t.stream j = s.stream j) ∧ t = { s with streams := t.streams }) ∧
    (poolBytes < (s.setStream i ((s.stream i).keptPacket ws now)).poolUse → ∃ t : State,
      s.placeSamples i n (s.stream i).sampleCount.toNat ws now = t.poolCheck ∧
      t.stream i = { s.stream i with intake := { (s.stream i).intake with otherCnt := (s.stream i).intake.otherCnt + 1 } } ∧
      t = { s with streams := t.streams }) := by
  rw [State.keepSamples_next hws hfit hstop hnew]
  refine ⟨fun hroom => ⟨_, if_neg (Nat.not_lt.mpr hroom), State.setStream_stream_same .., fun j hj => State.setStream_stream_ne s _ hj, rfl⟩,
    fun hfull => ⟨_, if_pos hfull, State.setStream_stream_same .., rfl⟩⟩

/-- Samples of accepted chunks, too far ahead or beyond a drain's end are not kept, only counted (R397, R409). -/
theorem placeSamples_outside {s : State} {i n : Nat} {start : Int} {ws : List Bytes} {now : W64} {x : Stream} (hx : x = s.stream i)
    (hout : ∀ j : Nat, j < ws.length → start + (j : Int) < x.sampleCount.toNat ∨
      (x.intake.stopAt.getD (x.sampleCount.toNat + 4 * n) : Int) ≤ start + (j : Int) ∨
      (x.sampleCount.toNat + 4 * n : Int) ≤ start + (j : Int)) :
    (s.placeSamples i n start ws now).stream i = { x with intake := x.countedIntake n start ws } := by
  subst hx
  rw [State.placeSamples_none, State.setStream_stream_same]
  refine (congrArg (List.filter _) (List.filter_eq_nil_iff.mpr ?_)).trans List.filter_nil
  intro e he
  obtain ⟨j, hj, rfl⟩ := mem_placedFrom.mp he
  have := hout j hj
  simp only [Bool.and_eq_true, decide_eq_true_eq]
  omega

theorem Stream.countedIntake_counts (x : Stream) (n : Nat) (start : Int) (ws : List Bytes) :
    (x.countedIntake n start ws).lateCnt = x.intake.lateCnt +
      flag ((List.range ws.length).any (fun j => decide (start + (j : Int) < x.sampleCount.toNat))) ∧
    (x.countedIntake n start ws).earlyCnt = x.intake.earlyCnt +
      flag ((List.range ws.length).any (fun j => decide ((x.sampleCount.toNat + 4 * n : Int) ≤ start + (j : Int)))) := by
  have hlate := placedFrom_any start ws (fun e => decide (e < x.sampleCount.toNat))
  have hearly := placedFrom_any start ws (fun e => decide ((x.sampleCount.toNat + 4 * n : Int) ≤ e))
  rw [← hlate, ← hearly]
  exact ⟨rfl, rfl⟩

/-! ### RTCP (R398) -/

theorem exec_rtcpPacket (s : State) (mac : Fin 16) (src : BitVec 128) (port : BitVec 16) (ssrc : W32) :
    exec (.rtcpPacket mac src port ssrc .senderReport) s = .next (s.modMac mac.val (fun (x : Mac) => { x with rtcpCnt := x.rtcpCnt + 1 })) ∧
    exec (.rtcpPacket mac src port ssrc .receiverReport) s = .next (s.modMac mac.val (fun (x : Mac) => { x with rtcpCnt := x.rtcpCnt + 1 })) ∧
    ∃ t : State, exec (.rtcpPacket mac src port ssrc .bye) s = .next t ∧
      OnlySent (s.modMac mac.val (fun (x : Mac) => { x with rtcpCnt := x.rtcpCnt + 1 })) t := by
  refine ⟨rfl, rfl, _, rfl, ?_⟩
  split
  · exact State.raiseStream_onlySent ..
  · exact OnlySent.rfl' _

/-- A stream whose RTP sink sends: open, and no shadow of another (R398). -/
def Stream.sendsReports (x : Stream) : Bool :=
  x.sinkKind = 1 && x.state != .closed && x.state != .opening && (x.shadow.isNone || (x.shadow.map (·.adopted)).getD false)

theorem Stream.sendsReports_iff (x : Stream) : x.sendsReports = true ↔
    x.sinkKind = 1 ∧ x.state ≠ .closed ∧ x.state ≠ .opening ∧ ∀ h, x.shadow = some h → h.adopted = true := by
  have hshadow : (x.shadow.isNone || (x.shadow.map (·.adopted)).getD false) = true ↔ ∀ h, x.shadow = some h → h.adopted = true := by
    cases x.shadow <;> simp
  rw [Stream.sendsReports, Bool.and_eq_true, hshadow]
  simp only [Bool.and_eq_true, decide_eq_true_eq, bne_iff_ne, and_assoc]

theorem State.needHop_keeps (s : State) (m : Nat) (ip : BitVec 128) :
    (s.needHop m ip).streams = s.streams ∧ (s.needHop m ip).mem = s.mem ∧ (s.needHop m ip).cc = s.cc := by
  unfold State.needHop
  dsimp only
  split <;> exact ⟨rfl, rfl, rfl⟩

/-- The RTP timestamp that a sink's stream time starts from (R398). -/
def Stream.reportTs (x : Stream) : W32 :=
  if bndAlign x.binding && x.srcKind = 1 && bndRateOut x.binding = x.sampleRate.toNat then x.intake.ts0.getD 0
  else BitVec.ofNat 32 (le x.binding 0x10 4)

theorem exec_rtcpSenderReport (s : State) (i : Fin 16384) : exec (.rtcpSenderReport i) s =
    if (s.stream i.val).sendsReports then
      if (s.mac (rtpMac (s.stream i.val).sink)).up then
        let x := s.stream i.val
        let b := x.binding
        let u := s.needHop (rtpMac x.sink) (BitVec.ofNat 128 (netToNat (slice b 0x20 16)))
        .next (u.depart (.rtcp (Fin.ofNat 16 (rtpMac x.sink)) (slice b 0x20 16) (BitVec.ofNat 16 (le b 0xC 2 + 1))
          (BitVec.ofNat 32 (rtpSsrc x.sink)) (x.reportTs + BitVec.ofNat 32 x.outlet.sent) (BitVec.ofNat 32 x.outlet.packets)
          (BitVec.ofNat 32 (x.outlet.sent * ((if le b 6 1 = 0 then 2 else 3) * max 1 (bndChannelsOut b))))) (some (u.rtpMark x)))
      else .next (s.discardFrame (rtpMac (s.stream i.val).sink))
    else .next s := rfl

theorem rtcpSenderReport_acts (s : State) (i : Fin 16384) :
    ((s.stream i.val).sendsReports = false → exec (.rtcpSenderReport i) s = .next s) ∧
    ((s.stream i.val).sendsReports = true → (s.mac (rtpMac (s.stream i.val).sink)).up = false →
      exec (.rtcpSenderReport i) s = .next (s.discardFrame (rtpMac (s.stream i.val).sink))) ∧
    ((s.stream i.val).sendsReports = true → (s.mac (rtpMac (s.stream i.val).sink)).up = true → ∀ x, x = s.stream i.val →
      ∃ t : State, exec (.rtcpSenderReport i) s = .next t ∧
      t.wire.head? = some ⟨.rtcp (Fin.ofNat 16 (rtpMac x.sink)) (slice x.binding 0x20 16) (BitVec.ofNat 16 (le x.binding 0xC 2 + 1))
        (BitVec.ofNat 32 (rtpSsrc x.sink)) (x.reportTs + BitVec.ofNat 32 x.outlet.sent) (BitVec.ofNat 32 x.outlet.packets)
        (BitVec.ofNat 32 (x.outlet.sent * ((if le x.binding 6 1 = 0 then 2 else 3) * max 1 (bndChannelsOut x.binding)))),
        some ⟨BitVec.ofNat 6 (le x.binding 0x18 1), ((s.ccOf x.part.val).mark 2).prio⟩⟩ ∧
      t.streams = s.streams ∧ t.mem = s.mem) := by
  rw [exec_rtcpSenderReport]
  refine ⟨fun h => if_neg (Bool.eq_false_iff.mp h), fun h hdown => ?_, fun h hup x hx => ?_⟩
  · rw [if_pos h, if_neg (Bool.eq_false_iff.mp hdown)]
  · subst hx
    rw [if_pos h, if_pos hup]
    obtain ⟨hstreams, hmem, hcc⟩ := s.needHop_keeps (rtpMac (s.stream i.val).sink)
      (BitVec.ofNat 128 (netToNat (slice (s.stream i.val).binding 0x20 16)))
    refine ⟨_, rfl, ?_, hstreams, hmem⟩
    dsimp only [State.depart]
    rw [List.head?_cons, State.rtpMark, State.ccOf, hcc]
    rfl

/-- Settles O46, by the lemma of each kind of packet. -/
theorem rtpAndRtcpPacketsAct : Obligations.RtpAndRtcpPacketsAct := by
  unfold Obligations.RtpAndRtcpPacketsAct
  refine ⟨State.pauseAbove_eq, ?packets, ?take, ?next, ?outside, ?rtcp, ?report⟩
  case packets =>
    rintro s u k own rfl rfl
    obtain ⟨hbad, hother, hmine⟩ := rtpPacket_acts s k
    refine ⟨hbad, hother, fun hok hown => ?_⟩
    obtain ⟨hhit, hfollow, hnone⟩ := hmine hok hown
    refine ⟨?_, ?_, hnone⟩
    · rintro i n x hx rfl
      obtain ⟨hno, htake⟩ := rtpToOwn_acts (s.rtpArrived k) k i (s.nextChunkSamples x) x
      exact ⟨fun h => (hhit i x hx).trans (congrArg _ (hno h)), fun ws hws hin hn => (hhit i x hx).trans (congrArg _ (htake ws hws hin hn))⟩
    · rintro i n x hx hone rfl
      obtain ⟨hno, htake⟩ := rtpToFollower_acts (s.rtpArrived k) k i (s.nextChunkSamples x) x
      exact ⟨fun h => (hfollow i x hx hone).trans (congrArg _ (hno h)),
        fun ws hws hin hstop hn => (hfollow i x hx hone).trans (congrArg _ (htake ws hws hin hstop hn))⟩
  case take =>
    rintro s i n k ws x y rfl rfl
    obtain ⟨hearly, hnear⟩ := rtpTake_acts s i n k ws
    refine ⟨fun hfar hjump => ⟨_, hearly hfar hjump, rfl, fun j hj => State.setStream_stream_ne s _ hj, State.setStream_stream_same ..⟩, hnear⟩
  case next =>
    rintro s i n lo ws x y now rfl rfl hws hfit hstop hnew rfl
    exact placeSamples_next hws hfit hstop hnew
  case outside =>
    rintro s i n lo start ws x z now hx rfl rfl hout
    rw [placeSamples_outside hx hout]
    exact ⟨rfl, rfl, rfl, x.countedIntake_counts n start ws⟩
  case rtcp =>
    rintro s mac src port ssrc u rfl
    exact exec_rtcpPacket s mac src port ssrc
  case report =>
    rintro s i x m size sends rfl rfl hsends rfl
    rw [← Stream.sendsReports_iff] at hsends
    obtain ⟨hno, hdown, hup⟩ := rtcpSenderReport_acts s i
    refine ⟨fun h => hno (Bool.eq_false_iff.mpr (mt hsends.mpr h)), fun h => hdown (hsends.mp h), ?_⟩
    rintro h hmac ts rfl
    have hts : (s.stream i.val).reportTs = if bndAlign (s.stream i.val).binding = true ∧ (s.stream i.val).srcKind = 1 ∧
        bndRateOut (s.stream i.val).binding = (s.stream i.val).sampleRate.toNat then (s.stream i.val).intake.ts0.getD 0
        else BitVec.ofNat 32 (le (s.stream i.val).binding 0x10 4) := by
      simp only [Stream.reportTs, Bool.and_eq_true, decide_eq_true_eq, and_assoc]
    exact hts ▸ hup (hsends.mp h) hmac _ rfl

end Sys2Proof.Machine
end

section
/-! PROOFS. Acknowledgements, what is sent again, and rates (R383, R388, R389, R390, R391). -/

namespace Sys2Proof.Machine

/-! ### Queue pairs by number -/

theorem State.modQp_none {s : State} {n : Nat} {f : Qp → Qp} (h : s.qp? n = none) : s.modQp n f = s := by
  rw [State.modQp, h]

theorem State.modQp_some {s : State} {n : Nat} {q : Qp} {f : Qp → Qp} (h : s.qp? n = some q) : s.modQp n f = s.setQp n (f q) := by
  rw [State.modQp, h]

/-! ### Acknowledgements (R389) -/

theorem OutMsg.isRead_iff (o : OutMsg) : (o.kind == .read) = true ↔ o.kind = .read := beq_iff_eq

/-- An acknowledgement stops before a message: a READ, or one whose last PSN it does not cover. -/
def OutMsg.stops (o : OutMsg) (base psn : BitVec 24) : Prop := o.kind = .read ∨ psnDist base psn < psnDist base o.last

theorem splitAcked_stops {base psn : BitVec 24} {o : OutMsg} (h : o.stops base psn) (r : List OutMsg) :
    splitAcked base psn (o :: r) = ([], o :: r) := by
  rw [splitAcked, if_pos]
  simpa [OutMsg.stops] using h

/-- The messages that an acknowledgement covers are the longest prefix of which none stops it. -/
theorem splitAcked_append {base psn : BitVec 24} {done left : List OutMsg}
    (hdone : ∀ o ∈ done, o.kind ≠ .read ∧ psnDist base o.last ≤ psnDist base psn)
    (hleft : ∀ (o : OutMsg) (r : List OutMsg), left = o :: r → o.stops base psn) :
    splitAcked base psn (done ++ left) = (done, left) := by
  induction done with
  | nil =>
    cases left with
    | nil => rfl
    | cons o r => exact splitAcked_stops (hleft o r rfl) r
  | cons o done ih =>
    obtain ⟨hread, hcovered⟩ := hdone o (List.mem_cons_self ..)
    rw [List.cons_append, splitAcked, if_neg (by simpa [hread] using hcovered), ih fun v hv => hdone v (List.mem_cons_of_mem _ hv)]

/-- An acknowledgement of nothing that is under way does nothing. -/
theorem State.ackUpTo_idle {s : State} {n : Nat} {q : Qp} {psn : BitVec 24} (hq : s.qp? n = some q)
    (h : q.state ≠ .connected ∨ psnDist q.acked psn = 0 ∨ psnDist q.acked (q.sqNext - 1) < psnDist q.acked psn) :
    s.ackUpTo n psn = s := by
  rw [State.ackUpTo, hq]
  exact if_pos (by simpa [or_assoc] using h)

/-- The PSN that a queue pair has acknowledged: that of the acknowledgement, or the one before a READ that it runs past (R389). -/
def ackedTop (q : Qp) (psn : BitVec 24) (left : List OutMsg) : BitVec 24 :=
  match left with
  | o :: _ => if o.kind == .read && psnDist q.acked (o.first - 1) < psnDist q.acked psn then o.first - 1 else psn
  | [] => psn

theorem State.ackUpTo_under {s : State} {n : Nat} {q : Qp} {psn : BitVec 24} {done left : List OutMsg} (hq : s.qp? n = some q)
    (hon : q.state = .connected) (hnew : psnDist q.acked psn ≠ 0) (hsent : psnDist q.acked psn ≤ psnDist q.acked (q.sqNext - 1))
    (hsplit : splitAcked q.acked psn q.out = (done, left)) :
    s.ackUpTo n psn = done.foldl State.messageDone ((s.setQp n { q with
      out := left, acked := ackedTop q psn left, retriesLeft := q.retry, timer := s.now }).sendNew n q.out left) := by
  rw [State.ackUpTo, hq]
  refine (if_neg fun h => ?_).trans (by rw [hsplit] <;> rfl)
  simp only [Bool.or_eq_true, bne_iff_ne, decide_eq_true_eq] at h
  rcases h with (hoff | hold) | hbeyond
  · exact hoff hon
  · exact hnew hold
  · exact Nat.not_lt.mpr hsent hbeyond

theorem State.messagesDone_other (s : State) {done : List OutMsg} (h : ∀ o ∈ done, o.use = .other) :
    done.foldl State.messageDone s = s := by
  induction done with
  | nil => rfl
  | cons o done ih =>
    rw [List.foldl_cons, State.messageDone, h o (List.mem_cons_self ..)]
    exact ih fun v hv => h v (List.mem_cons_of_mem _ hv)

/-! ### Sending again (R383) -/

theorem State.resend_idle {s : State} {n : BitVec 24} {q : Qp} (hq : s.qp? n.toNat = some q)
    (h : q.state ≠ .connected ∨ s.carries q = false ∨ q.out = []) : s.resend n = s := by
  rw [State.resend, hq]
  exact if_pos (by simpa [or_assoc] using h)

theorem State.resend_spent {s : State} {n : BitVec 24} {q : Qp} (hq : s.qp? n.toNat = some q) (hon : q.state = .connected)
    (hcarries : s.carries q = true) (hout : q.out ≠ []) (h0 : q.retriesLeft = 0) : s.resend n = s.qpError n.toNat := by
  rw [State.resend, hq]
  exact (if_neg (by simp [hon, hcarries, hout])).trans (if_pos h0)

/-- Messages of a queue pair that leave in order, with the mark of its owner (R391). -/
theorem State.emitMessages {s : State} {n : BitVec 24} {q : Qp} (hq : s.qp? n.toNat = some q) (f : OutMsg → OutMsg) (l : List OutMsg) :
    l.foldl (fun t o => t.emit (.rdma n (f o))) s = { s with
      wire := (l.map (fun (o : OutMsg) => (⟨.rdma n (f o), some ((s.ccOf q.owner).mark 0)⟩ : Sent))).reverse ++ s.wire } := by
  induction l generalizing s with
  | nil => rfl
  | cons o l ih =>
    have hmark : s.markOf (.rdma n (f o)) = some ((s.ccOf q.owner).mark 0) := by
      unfold State.markOf State.markOwner
      dsimp only
      rw [hq]
      rfl
    rw [List.foldl_cons, State.emit, hmark, ih (s := s.depart _ _) hq, List.map_cons, List.reverse_cons, List.append_assoc]
    rfl

theorem State.resend_again {s : State} {n : BitVec 24} {q : Qp} (hq : s.qp? n.toNat = some q) (hon : q.state = .connected)
    (hcarries : s.carries q = true) (hout : q.out ≠ []) (hleft : 0 < q.retriesLeft) : s.resend n =
      { s with
        qps := tabPut s.qps n.toNat { q with retriesLeft := q.retriesLeft - 1, timer := s.now },
        wire := ((underWay q.out 16).map (fun (o : OutMsg) => (⟨.rdma n (o.after q), some ((s.ccOf q.owner).mark 0)⟩ : Sent))).reverse ++
          s.wire } := by
  rw [State.resend, hq]
  refine (if_neg (by simp [hon, hcarries, hout])).trans ((if_neg (Nat.ne_of_gt hleft)).trans ?_)
  exact State.emitMessages (State.setQp_qp_same ..) (fun o => o.after q) _

theorem exec_ackTimeout {s : State} {n : BitVec 24} {q : Qp} (hq : s.qp? n.toNat = some q) : exec (.ackTimeout n) s =
    .next (if q.timer.toNat + 4096 * 2 ^ q.tmo ≤ s.time then s.resend n else s) := by
  have hexec : exec (.ackTimeout n) s = .next (if s.ackLate n.toNat then s.resend n else s) := rfl
  rw [hexec, State.ackLate, hq]
  simp only [decide_eq_true_eq]

/-! ### READ data (R388, R389) -/

theorem putRead_append {rest pre post : List OutMsg} {o : OutMsg} (hpre : ∀ v ∈ pre, v.kind ≠ .read) (ho : o.kind = .read) :
    putRead rest (pre ++ o :: post) = pre ++ rest ++ post := by
  induction pre with
  | nil => rw [List.nil_append, putRead, if_pos (o.isRead_iff.mpr ho)]; rfl
  | cons v pre ih =>
    rw [List.cons_append, putRead, if_neg (mt v.isRead_iff.mp (hpre v (List.mem_cons_self ..))),
      ih fun w hw => hpre w (List.mem_cons_of_mem _ hw)]
    rfl

theorem exec_readResponseReceive_idle {s : State} {n : BitVec 24} {q : Qp} (hq : s.qp? n.toNat = some q) (d : Bytes)
    (h : q.state ≠ .connected ∨ (∀ o ∈ q.out, o.kind ≠ .read)) : exec (.readResponseReceive n d) s = .next s := by
  have hexec : exec (.readResponseReceive n d) s = execReadResponseReceive n d s := rfl
  rw [hexec, execReadResponseReceive, hq]
  dsimp only
  rcases h with h | h
  · split
    · rfl
    · exact congrArg _ (if_pos (bne_iff_ne.mpr h))
  · rw [List.find?_eq_none.mpr fun o ho => mt o.isRead_iff.mp (h o ho)]

/-- What is left of a READ after `got` bytes that make `k` packets. -/
def OutMsg.rest (o : OutMsg) (k : BitVec 24) (got : Bytes) : OutMsg :=
  { o with first := o.first + k, va := o.va + BitVec.ofNat 64 got.length, len := o.len - got.length }

/-- Data of the oldest READ `o` have been taken, `got` in `k` packets; `left` is what the queue pair still has to send (R388). -/
def State.readTaken (u : State) (n : BitVec 24) (x : Qp) (o : OutMsg) (k : BitVec 24) (left : List OutMsg) : State :=
  (u.setQp n.toNat { x with acked := o.first + k - 1, retriesLeft := x.retry, timer := u.now, out := left }).sendNew n.toNat x.out left

theorem exec_readResponseReceive {s u : State} {n : BitVec 24} {q x : Qp} {o : OutMsg} {d got : Bytes} {k : BitVec 24}
    (hq : s.qp? n.toNat = some q) (hon : q.state = .connected) (hfind : q.out.find? (fun v => v.kind == .read) = some o)
    (hack : s.ackUpTo n.toNat (o.first - 1) = u) (hx : u.qp? n.toNat = some x) (hgot : got = d.take o.len)
    (hk : k = BitVec.ofNat 24 (q.packets got.length)) : exec (.readResponseReceive n d) s =
      .next (match o.use with
        | .dmov core slot => ((u.readTaken n x o k (putRead (if o.len ≤ got.length then [] else [o.rest k got]) x.out)).modXfer core slot
            (readPhase got)).sendAsked core slot
        | _ => u.readTaken n x o k (putRead (if o.len ≤ got.length then [] else [o.rest k got]) x.out)) := by
  subst hgot hk
  have hexec : exec (.readResponseReceive n d) s = execReadResponseReceive n d s := rfl
  rw [hexec, execReadResponseReceive, hq]
  dsimp only
  rw [hfind]
  dsimp only
  rw [hack, hx, if_neg (by simp [hon]), State.modQp_some hx]
  rfl

/-- READ data go to the oldest READ, which they complete when they are all there (R388, R389). -/
theorem readResponseReceive_acts {s u : State} {n : BitVec 24} {q x : Qp} {o o' : OutMsg} {d got : Bytes} {k : BitVec 24}
    {pre post left : List OutMsg} {v : State} (hq : s.qp? n.toNat = some q) (hon : q.state = .connected)
    (hfind : q.out.find? (fun v => v.kind == .read) = some o) (hack : exec (.roceAckReceive n (o.first - 1)) s = .next u)
    (hx : u.qp? n.toNat = some x) (hout : x.out = pre ++ o' :: post) (ho' : o'.kind = .read) (hpre : ∀ v ∈ pre, v.kind ≠ .read)
    (hgot : got = d.take o.len) (hk : k = BitVec.ofNat 24 (q.packets got.length))
    (hleft : left = pre ++ (if o.len ≤ d.length then [] else [o.rest k got]) ++ post) (hv : v = u.readTaken n x o k left) :
    ((∀ (c : Nat) (slot : Fin 16), o.use ≠ .dmov c slot) → exec (.readResponseReceive n d) s = .next v) ∧
    (∀ (c : Nat) (slot : Fin 16), o.use = .dmov c slot →
      exec (.readResponseReceive n d) s = .next ((v.modXfer c slot (readPhase got)).sendAsked c slot)) := by
  have hall : o.len ≤ got.length ↔ o.len ≤ d.length := by
    rw [hgot, List.length_take]
    exact le_min_iff.trans (and_iff_right (Nat.le_refl _))
  have hput : putRead (if o.len ≤ got.length then [] else [o.rest k got]) x.out = left := by
    rw [hout, putRead_append hpre ho', hleft]
    simp only [hall]
  rw [exec_readResponseReceive hq hon hfind (Host.Outcome.next.inj hack) hx hgot hk, hput, ← hv]
  refine ⟨fun hother => ?_, fun c slot huse => by rw [huse]⟩
  split
  · next c slot huse => exact absurd huse (hother c slot)
  · rfl

/-! ### Rate control (R390) -/

theorem State.modRate_some {s : State} {n : BitVec 24} {q : Qp} (hq : s.qp? n.toNat = some q) (f : CcParams → Nat → Qp → Qp) :
    s.modRate n f = s.setQp n.toNat (if q.state = .connected then f (s.ccOf q.owner) (s.lineMbps q.mac.val) q else q) := by
  rw [State.modRate, State.modQp_some hq]
  simp only [beq_iff_eq]

theorem State.rateDue_some {s : State} {n : BitVec 24} {q : Qp} (hq : s.qp? n.toNat = some q) (since : Qp → W64) (us : CcParams → Nat) :
    s.rateDue n since us = decide ((since q).toNat + 1000 * us (s.ccOf q.owner) ≤ s.time) := by
  rw [State.rateDue, hq]

/-- The rate control of a queue pair out of service changes nothing of it. -/
theorem State.modRate_off {s : State} {n : BitVec 24} {q : Qp} (hq : s.qp? n.toNat = some q) (hoff : q.state ≠ .connected)
    (f : CcParams → Nat → Qp → Qp) : s.modRate n f = { s with qps := (s.modRate n f).qps } ∧ (s.modRate n f).qp? n.toNat = some q := by
  rw [State.modRate_some hq, if_neg hoff]
  exact ⟨rfl, State.setQp_qp_same ..⟩

theorem rates_off {s : State} {n : BitVec 24} {q : Qp} (hq : s.qp? n.toNat = some q) (hoff : q.state ≠ .connected) (i : Instr)
    (hi : i = .cnpReceive n ∨ i = .ccAlphaPeriod n ∨ i = .ccIncreasePeriod n) :
    ∃ t : State, exec i s = .next t ∧ t = { s with qps := t.qps } ∧ t.qp? n.toNat = some q := by
  have hdue : ∀ (b : Bool) (f : CcParams → Nat → Qp → Qp), (if b then s.modRate n f else s) =
      { s with qps := (if b then s.modRate n f else s).qps } ∧ (if b then s.modRate n f else s).qp? n.toNat = some q := by
    intro b f
    cases b
    · exact ⟨rfl, hq⟩
    · exact State.modRate_off hq hoff f
  rcases hi with rfl | rfl | rfl
  · exact ⟨_, rfl, State.modRate_off hq hoff _⟩
  · exact ⟨_, rfl, hdue _ _⟩
  · exact ⟨_, rfl, hdue _ _⟩

theorem exec_cnpReceive {s : State} {n : BitVec 24} {q : Qp} {c : CcParams} {a cut : Num} (hq : s.qp? n.toNat = some q)
    (hon : q.state = .connected) (hc : c = s.ccOf q.owner) (ha : a = fpVal q.alpha)
    (hcut : cut = f32Mul (fpVal q.rc) (f32Add (.ofInt 1) (a.scale2 (-1)).negate)) :
    exec (.cnpReceive n) s = .next (s.setQp n.toNat { q with
      rt := q.rc, rc := fpWord (if cut.lt (.ofInt c.rmin) then .ofInt c.rmin else cut),
      alpha := fpWord (f32Add (f32Mul (f32Add (.ofInt 1) (Num.fin false 1 (-(c.gLog2 : Int))).negate) a) (.fin false 1 (-(c.gLog2 : Int)))),
      rounds := 0, alphaFrom := s.now, incFrom := s.now }) := by
  subst hc ha hcut
  refine congrArg Host.Outcome.next ((State.modRate_some hq _).trans ?_)
  rw [if_pos hon]
  rfl

theorem exec_ccAlphaPeriod {s : State} {n : BitVec 24} {q : Qp} {c : CcParams} {a : Num} (hq : s.qp? n.toNat = some q)
    (hon : q.state = .connected) (hc : c = s.ccOf q.owner) (ha : a = fpVal q.alpha) :
    (s.time < q.alphaFrom.toNat + 1000 * c.alphaUs → exec (.ccAlphaPeriod n) s = .next s) ∧
    (q.alphaFrom.toNat + 1000 * c.alphaUs ≤ s.time → exec (.ccAlphaPeriod n) s = .next (s.setQp n.toNat { q with
      alpha := fpWord (f32Mul (f32Add (.ofInt 1) (Num.fin false 1 (-(c.gLog2 : Int))).negate) a), alphaFrom := s.now })) := by
  subst hc ha
  have hexec : exec (.ccAlphaPeriod n) s = execCcAlphaPeriod n s := rfl
  rw [hexec, execCcAlphaPeriod, State.rateDue_some hq]
  refine ⟨fun hearly => ?_, fun hdue => ?_⟩
  · rw [decide_eq_false (Nat.not_le.mpr hearly), if_neg Bool.false_ne_true]
  · rw [decide_eq_true hdue, if_pos rfl, State.modRate_some hq, if_pos hon]
    rfl

theorem exec_ccIncreasePeriod {s : State} {n : BitVec 24} {q : Qp} {c : CcParams} (hq : s.qp? n.toNat = some q)
    (hon : q.state = .connected) (hc : c = s.ccOf q.owner) :
    (s.time < q.incFrom.toNat + 1000 * c.incUs → exec (.ccIncreasePeriod n) s = .next s) ∧
    (∀ v up : Num, q.incFrom.toNat + 1000 * c.incUs ≤ s.time → up = f32Add (fpVal q.rt) (.ofInt c.rai) →
      v = (if q.rounds + 1 ≤ c.f then fpVal q.rt
        else if (Num.ofInt (s.lineMbps q.mac.val)).lt up then .ofInt (s.lineMbps q.mac.val) else up) →
      exec (.ccIncreasePeriod n) s = .next (s.setQp n.toNat { q with
        rounds := q.rounds + 1, rt := fpWord v, rc := fpWord (f32 ((f32Add v (fpVal q.rc)).scale2 (-1))), incFrom := s.now })) := by
  subst hc
  have hexec : exec (.ccIncreasePeriod n) s = execCcIncreasePeriod n s := rfl
  rw [hexec, execCcIncreasePeriod, State.rateDue_some hq]
  refine ⟨fun hearly => ?_, ?_⟩
  · rw [decide_eq_false (Nat.not_le.mpr hearly), if_neg Bool.false_ne_true]
  · rintro v up hdue rfl hv
    rw [decide_eq_true hdue, if_pos rfl, State.modRate_some hq, if_pos hon]
    simp only [← Nat.not_lt, ite_not] at hv
    rw [hv]

/-- A message to a queue pair that does not exist does nothing. -/
theorem unknownQueuePair {s : State} {n : BitVec 24} (h : s.qp? n.toNat = none) (p : BitVec 24) (d : Bytes) (k : NakKind) :
    exec (.roceAckReceive n p) s = .next s ∧ exec (.readResponseReceive n d) s = .next s ∧ exec (.nakReceive n p k) s = .next s ∧
    exec (.ackTimeout n) s = .next s ∧ exec (.cnpReceive n) s = .next s ∧ exec (.ccAlphaPeriod n) s = .next s ∧
    exec (.ccIncreasePeriod n) s = .next s := by
  have hack : ∀ p, s.ackUpTo n.toNat p = s := fun p => by rw [State.ackUpTo, h]
  have hresend : s.resend n = s := by rw [State.resend, h]
  have herror : s.qpError n.toNat = s := by rw [State.qpError, h]
  have hrate : ∀ f, s.modRate n f = s := fun f => State.modQp_none h
  refine ⟨congrArg _ (hack p), ?_, ?_, congrArg Host.Outcome.next ?_, congrArg _ (hrate _), congrArg Host.Outcome.next ?_,
    congrArg Host.Outcome.next ?_⟩
  · have hexec : exec (.readResponseReceive n d) s = execReadResponseReceive n d s := rfl
    rw [hexec, execReadResponseReceive, h]
  · have hagain : (s.ackUpTo n.toNat (p - 1)).resend n = s := by rw [hack, hresend]
    have hend : (s.ackUpTo n.toNat (p - 1)).qpError n.toNat = s := by rw [hack, herror]
    cases k
    · exact congrArg Host.Outcome.next hagain
    · exact congrArg Host.Outcome.next hagain
    · exact congrArg Host.Outcome.next hend
    · exact congrArg Host.Outcome.next hend
  · rw [hresend, ite_self]
  · rw [hrate, ite_self]
  · rw [hrate, ite_self]

/-- An acknowledgement, by what of the queue pair's messages it covers (R389). -/
theorem roceAckReceive_acts {s : State} {n : BitVec 24} {q : Qp} (hq : s.qp? n.toNat = some q) {psn top : BitVec 24}
    {done left : List OutMsg} {u : State} (hout : q.out = done ++ left)
    (hdone : ∀ o ∈ done, o.kind ≠ .read ∧ psnDist q.acked o.last ≤ psnDist q.acked psn)
    (hleft : ∀ (o : OutMsg) (r : List OutMsg), left = o :: r → o.stops q.acked psn) (htop : top = ackedTop q psn left)
    (hu : u = (s.setQp n.toNat { q with out := left, acked := top, retriesLeft := q.retry, timer := s.now }).sendNew n.toNat q.out left) :
    (q.state ≠ .connected ∨ psnDist q.acked psn = 0 ∨ psnDist q.acked (q.sqNext - 1) < psnDist q.acked psn →
      exec (.roceAckReceive n psn) s = .next s) ∧
    (q.state = .connected → psnDist q.acked psn ≠ 0 → psnDist q.acked psn ≤ psnDist q.acked (q.sqNext - 1) →
      exec (.roceAckReceive n psn) s = .next (done.foldl State.messageDone u) ∧
      ((∀ o ∈ done, o.use = .other) → exec (.roceAckReceive n psn) s = .next u)) := by
  refine ⟨fun h => congrArg _ (State.ackUpTo_idle hq h), fun hon hnew hsent => ?_⟩
  have hack : exec (.roceAckReceive n psn) s = .next (done.foldl State.messageDone u) := by
    rw [hu, htop]
    exact congrArg _ (State.ackUpTo_under hq hon hnew hsent (hout ▸ splitAcked_append hdone hleft))
  exact ⟨hack, fun hother => hack.trans (congrArg _ (u.messagesDone_other hother))⟩

/-- Settles O45, by the lemma of each event of a queue pair. -/
theorem acknowledgementsResendsAndRates : Obligations.AcknowledgementsResendsAndRates := by
  unfold Obligations.AcknowledgementsResendsAndRates
  refine ⟨fun s n p d k hnone => unknownQueuePair hnone p d k, fun s n q hq => ⟨?ack, ?early, ?late, ?nak, ?readIdle, ?read, ?ratesOff, ?rates⟩⟩
  case ack =>
    intro psn top done left u hout hdone hleft htop hu
    refine roceAckReceive_acts hq hout hdone hleft (htop.trans ?_) hu
    cases left with
    | nil => rfl
    | cons o r => simp only [ackedTop, Bool.and_eq_true, decide_eq_true_eq, OutMsg.isRead_iff]
  case early =>
    exact fun h => (exec_ackTimeout hq).trans (congrArg _ (if_neg (Nat.not_le.mpr h)))
  case late =>
    intro hlate
    rw [exec_ackTimeout hq, if_pos hlate]
    refine ⟨fun hidle => congrArg _ (State.resend_idle hq hidle), fun hon hcarries hout => ⟨fun hleft => ?_, fun h0 => ?_⟩⟩
    · rw [State.resend_again hq hon hcarries hout hleft]
      exact ⟨_, rfl, rfl, rfl⟩
    · exact congrArg _ (State.resend_spent hq hon hcarries hout h0)
  case nak =>
    intro p u hack
    have hu : s.ackUpTo n.toNat (p - 1) = u := Host.Outcome.next.inj hack
    have hnak : ∀ k, exec (.nakReceive n p k) s = execNakReceive n p k s := fun _ => rfl
    simp only [hnak, execNakReceive, hu]
    exact ⟨trivial, trivial, trivial, trivial, fun hlate => congrArg _ (if_pos hlate)⟩
  case readIdle => exact fun d h => exec_readResponseReceive_idle hq d h
  case read =>
    intro d got o o' pre post u x k hon hfind hack hx hout ho' hpre hgot hk left hleft v hv
    exact readResponseReceive_acts hq hon hfind hack hx hout ho' hpre hgot hk hleft hv
  case ratesOff => exact rates_off hq
  case rates =>
    intro hon c a cut hc ha hcut
    obtain ⟨halphaEarly, halpha⟩ := exec_ccAlphaPeriod hq hon hc ha
    obtain ⟨hincEarly, hinc⟩ := exec_ccIncreasePeriod hq hon hc
    exact ⟨exec_cnpReceive hq hon hc ha hcut, halphaEarly, hincEarly, halpha, hinc⟩

end Sys2Proof.Machine
end

section
/-! PROOFS. RDMA requests from other devices (R385, R386, R387, R390, R399, R417, R461, R525). -/

namespace Sys2Proof.Machine

/-! ### Which requests reach a queue pair (R383, R389, R390, R525) -/

theorem State.inbound_none {s : State} {n : BitVec 24} {ce : Bool} {body : Qp → State → State} (h : s.qp? n.toNat = none) :
    s.inbound n ce body = if n ∈ s.deadQps then s.emit (.nak n .accessError) else s := by
  rw [State.inbound, h]
  simp only [List.contains_iff_mem]

theorem State.inbound_refused {s : State} {n : BitVec 24} {ce : Bool} {body : Qp → State → State} {q : Qp} (h : s.qp? n.toNat = some q)
    (hq : q.refuse = true) : s.inbound n ce body = s.nakFatal n .accessError := by
  rw [State.inbound, h]
  exact if_pos hq

theorem State.inbound_off {s : State} {n : BitVec 24} {ce : Bool} {body : Qp → State → State} {q : Qp} (h : s.qp? n.toNat = some q)
    (hq : q.refuse = false) (hoff : q.state ≠ .connected) : s.inbound n ce body = s := by
  rw [State.inbound, h]
  exact (if_neg (Bool.eq_false_iff.mp hq)).trans (if_pos (bne_iff_ne.mpr hoff))

theorem State.inbound_serves {s : State} {n : BitVec 24} {ce : Bool} {q : Qp} (h : s.qp? n.toNat = some q) (hq : q.refuse = false)
    (hon : q.state = .connected) (body : Qp → State → State) : s.inbound n ce body = body q (s.notify n q ce) := by
  rw [State.inbound, h]
  exact (if_neg (Bool.eq_false_iff.mp hq)).trans (if_neg (by simp [hon]))

/-- The six requests all go through the queue pair's own state first. -/
theorem exec_inbound {n : BitVec 24} {va : W64} {key imm : BitVec 32} {d : Bytes} {k : Nat} {x y : W64} {ce : Bool} {i : Instr}
    (h : i = .inboundSend n d ce ∨ i = .inboundRdmaWrite n va key d ce ∨ i = .inboundWriteImmediate n va key imm d ce ∨
      i = .inboundRdmaRead n va key k ce ∨ i = .inboundFetchAdd n va key x ce ∨ i = .inboundCompareSwap n va key x y ce) :
    ∃ body : Qp → State → State, ∀ s, exec i s = .next (s.inbound n ce body) := by
  rcases h with rfl | rfl | rfl | rfl | rfl | rfl <;> exact ⟨_, fun _ => rfl⟩

theorem State.notify_spec (s : State) (n : BitVec 24) (q : Qp) : (s.notify n q false = s) ∧
    ((∀ t0 : W64, q.lastCnpSent = some t0 → t0.toNat + (s.ccOf q.owner).cnpUs * 1000 ≤ s.time) →
      s.notify n q true = (s.modQp n.toNat (fun v => { v with lastCnpSent := some s.now })).emit (.cnp n)) ∧
    (∀ t0 : W64, q.lastCnpSent = some t0 → s.time < t0.toNat + (s.ccOf q.owner).cnpUs * 1000 → s.notify n q true = s) := by
  unfold State.notify
  refine ⟨rfl, fun hlong => ?_, fun t0 ht0 hearly => ?_⟩
  · cases hlast : q.lastCnpSent with
    | none => rfl
    | some t0 => simp only [decide_eq_false (Nat.not_lt.mpr (hlong t0 hlast)), Bool.not_false, Bool.and_self, if_true]
  · simp only [ht0, decide_eq_true hearly, Bool.not_true, Bool.and_false, Bool.false_eq_true, if_false]

/-! ### SEND (R385, R417) -/

/-- The mailboxes bound to a queue pair, the lowest first. -/
def Qp.boxes (q : Qp) : List Nat := (List.range 64).filter (fun m => q.mailboxes.getLsbD m)

theorem Qp.mem_boxes {q : Qp} {m : Nat} : m ∈ q.boxes ↔ m < 64 ∧ q.mailboxes.getLsbD m = true := by
  rw [Qp.boxes, List.mem_filter, List.mem_range]

theorem Qp.boxes_eq_nil {q : Qp} : q.boxes = [] ↔ q.mailboxes = 0 := by
  rw [List.eq_nil_iff_forall_not_mem]
  refine ⟨fun h => BitVec.eq_of_getLsbD_eq fun m hm => ?_, fun h m hm => ?_⟩
  · exact (Bool.eq_false_iff.mpr fun hbound => h m (Qp.mem_boxes.mpr ⟨hm, hbound⟩)).trans BitVec.getLsbD_zero.symm
  · have hbound := (Qp.mem_boxes.mp hm).2
    rw [h] at hbound
    exact Bool.false_ne_true (BitVec.getLsbD_zero.symm.trans hbound)

theorem Qp.boxes_head {q : Qp} {m : Nat} (hm : m < 64) (hbound : q.mailboxes.getLsbD m = true)
    (hleast : ∀ j : Nat, j < m → q.mailboxes.getLsbD j = false) : q.boxes.head? = some m := by
  rw [Qp.boxes, List.head?_filter, List.find?_range_eq_some]
  exact ⟨hbound, List.mem_range.mpr hm, fun j hj => by rw [hleast j hj]; rfl⟩

/-- The lowest bound mailbox that is free. -/
theorem Qp.boxes_find {q : Qp} {t : State} {m : Fin 64} (hm : q.mailboxes.getLsbD m.val = true ∧ (t.mail m.val).busy = false)
    (hleast : ∀ j : Fin 64, j < m → ¬ (q.mailboxes.getLsbD j.val = true ∧ (t.mail j.val).busy = false)) :
    q.boxes.find? (fun m => !(t.mail m).busy) = some m.val := by
  rw [Qp.boxes, List.find?_filter, List.find?_range_eq_some]
  refine ⟨by simp [hm], List.mem_range.mpr m.isLt, fun j hj => ?_⟩
  rw [decide_eq_false fun ⟨hbound, hfree⟩ => hleast ⟨j, Nat.lt_trans hj m.isLt⟩ hj ⟨hbound, by simpa using hfree⟩]
  rfl

theorem Qp.boxes_find_none {q : Qp} {t : State}
    (h : ∀ j : Fin 64, ¬ (q.mailboxes.getLsbD j.val = true ∧ (t.mail j.val).busy = false)) :
    q.boxes.find? (fun m => !(t.mail m).busy) = none := by
  rw [List.find?_eq_none]
  intro m hm hfree
  obtain ⟨hlt, hbound⟩ := Qp.mem_boxes.mp hm
  exact h ⟨m, hlt⟩ ⟨hbound, by simpa using hfree⟩

/-- A SEND rings mailbox `m`, or finds it busy. -/
def State.rungBy (t : State) (n : BitVec 24) (q : Qp) (len m : Nat) : State :=
  if (t.mail m).busy then (t.setLost (Fin.ofNat 64 m)).emit (.nak n .rnr)
  else (t.acknowledge n q len).ringDoorbell (Fin.ofNat 64 m)

theorem State.rungBy_spec (t : State) (n : BitVec 24) (q : Qp) (len : Nat) (m : Fin 64) :
    ((t.mail m.val).busy = false → t.rungBy n q len m.val = (t.acknowledge n q len).ringDoorbell m) ∧
    ((t.mail m.val).busy = true → t.rungBy n q len m.val = (t.setLost m).emit (.nak n .rnr)) := by
  have hm : Fin.ofNat 64 m.val = m := Fin.ext (Nat.mod_eq_of_lt m.isLt)
  rw [State.rungBy, hm]
  exact ⟨fun h => if_neg (Bool.eq_false_iff.mp h), fun h => if_pos h⟩

/-- The bytes of a SEND name a doorbell among the bound mailboxes. -/
def Qp.rings (q : Qp) (d : Bytes) : Bool := q.boxes.contains (le d 0 1) && (d.drop 1).all (· == 0)

/-- What a SEND does on a queue pair with bound mailboxes, by its length (R385, R417). -/
theorem exec_inboundSend {s t : State} {n : BitVec 24} {q : Qp} {ce : Bool} (h : s.qp? n.toNat = some q) (hq : q.refuse = false)
    (hon : q.state = .connected) (ht : t = s.notify n q ce) (d : Bytes) : exec (.inboundSend n d ce) s = .next (match q.boxes with
      | [] => t.nakFatal n .invalidRequest
      | m0 :: _ =>
        if d.length = 0 then t.rungBy n q d.length m0
        else if d.length = 8 then (if q.rings d then t.rungBy n q d.length (le d 0 1) else t.nakFatal n .invalidRequest)
        else if 64 ≤ d.length && d.length ≤ 4096 then
          match q.boxes.find? (fun m => !(t.mail m).busy) with
          | some m => ((t.acknowledge n q d.length).outerWrite (cmdPage m) d).ringDoorbell (Fin.ofNat 64 m)
          | none => t.emit (.nak n .rnr)
        else t.nakFatal n .invalidRequest) := by
  subst ht
  exact congrArg Host.Outcome.next (State.inbound_serves h hq hon _)

theorem le_doorbell (m : Fin 64) : le (b1 m.val ++ zeros 7) 0 1 = m.val := by
  have hlt : m.val < 256 := Nat.lt_trans m.isLt (by decide)
  simp [le, b1, natToBytes, bytesToNat, Nat.mod_eq_of_lt hlt]

/-- Eight bytes with zeros behind the first are the doorbell of the mailbox that the first one names. -/
theorem eq_doorbell {d : Bytes} (hlen : d.length = 8) (hzero : (d.drop 1).all (· == 0) = true) : d = b1 (le d 0 1) ++ zeros 7 := by
  cases d with
  | nil => cases hlen
  | cons b d =>
    have hrest : d = zeros 7 := List.eq_replicate_iff.mpr
      ⟨Nat.succ.inj hlen, fun c hc => beq_iff_eq.mp (List.all_eq_true.mp hzero c hc)⟩
    rw [hrest]
    simp [le, b1, natToBytes, bytesToNat]

theorem Qp.rings_iff {q : Qp} {d : Bytes} (hlen : d.length = 8) :
    q.rings d = true ↔ ∃ m : Fin 64, q.mailboxes.getLsbD m.val = true ∧ d = b1 m.val ++ zeros 7 := by
  rw [Qp.rings, Bool.and_eq_true, List.contains_iff_mem, Qp.mem_boxes]
  constructor
  · rintro ⟨⟨hlt, hbound⟩, hzero⟩
    exact ⟨⟨le d 0 1, hlt⟩, hbound, eq_doorbell hlen hzero⟩
  · rintro ⟨m, hbound, rfl⟩
    rw [le_doorbell]
    exact ⟨⟨m.isLt, hbound⟩, rfl⟩

/-- A SEND to a queue pair in service (R385, R417). -/
theorem inboundSend_acts {s t : State} {n : BitVec 24} {q : Qp} {ce : Bool} (h : s.qp? n.toNat = some q) (hq : q.refuse = false)
    (hon : q.state = .connected) (ht : t = s.notify n q ce) (d : Bytes) {free : Fin 64 → Prop}
    (hfree : ∀ m : Fin 64, free m ↔ q.mailboxes.getLsbD m.val = true ∧ (t.mail m.val).busy = false) :
    (q.mailboxes = 0 → exec (.inboundSend n d ce) s = .next (t.nakFatal n .invalidRequest)) ∧
    (∀ m : Fin 64, q.mailboxes.getLsbD m.val = true →
      ((d = [] ∧ ∀ j : Nat, j < m.val → q.mailboxes.getLsbD j = false) ∨ d = b1 m.val ++ zeros 7 →
        exec (.inboundSend n d ce) s = .next (t.rungBy n q d.length m.val)) ∧
      (64 ≤ d.length → d.length ≤ 4096 → free m → (∀ j : Fin 64, j < m → ¬ free j) → exec (.inboundSend n d ce) s =
        .next (((t.acknowledge n q d.length).outerWrite (cmdPage m) d).ringDoorbell m))) ∧
    (64 ≤ d.length → d.length ≤ 4096 → q.mailboxes ≠ 0 → (∀ j : Fin 64, ¬ free j) →
      exec (.inboundSend n d ce) s = .next (t.emit (.nak n .rnr))) ∧
    ((0 < d.length ∧ d.length < 64 ∧ ∀ m : Fin 64, q.mailboxes.getLsbD m.val = true → d ≠ b1 m.val ++ zeros 7) ∨ 4096 < d.length →
      exec (.inboundSend n d ce) s = .next (t.nakFatal n .invalidRequest)) := by
  rw [exec_inboundSend h hq hon ht d]
  obtain hnone | ⟨m0, ms, hbound⟩ : q.boxes = [] ∨ ∃ m0 ms, q.boxes = m0 :: ms := by
    cases q.boxes with
    | nil => exact .inl rfl
    | cons m0 ms => exact .inr ⟨m0, ms, rfl⟩
  · have h0 : q.mailboxes = 0 := Qp.boxes_eq_nil.mp hnone
    have hno : ∀ m : Fin 64, q.mailboxes.getLsbD m.val ≠ true := fun m hm => by
      rw [h0] at hm
      exact Bool.false_ne_true (BitVec.getLsbD_zero.symm.trans hm)
    rw [hnone]
    exact ⟨fun _ => rfl, fun m hm => absurd hm (hno m), fun _ _ hsome => absurd h0 hsome, fun _ => rfl⟩
  · have hsome : q.mailboxes ≠ 0 := fun h0 => by rw [Qp.boxes_eq_nil.mpr h0] at hbound; cases hbound
    simp only [hfree]
    refine ⟨fun h0 => absurd h0 hsome, fun m hm => ⟨?_, fun hlow hhigh hm' hleast => ?_⟩, fun hlow hhigh _ hbusy => ?_, fun hlen => ?_⟩
    · rintro (⟨rfl, hleast⟩ | rfl)
      · have hhead := Qp.boxes_head m.isLt hm hleast
        rw [hbound] at hhead ⊢
        cases hhead
        rfl
      · have hrings : q.rings (b1 m.val ++ zeros 7) = true := (Qp.rings_iff rfl).mpr ⟨m, hm, rfl⟩
        have hlen : (b1 m.val ++ zeros 7).length = 8 := rfl
        rw [hbound, hlen]
        dsimp only
        rw [if_neg (by decide), if_pos rfl, if_pos hrings, le_doorbell]
    · rw [Qp.boxes_find hm' hleast, hbound]
      dsimp only
      rw [if_neg (by omega), if_neg (by omega), if_pos (by simp [hlow, hhigh]), show Fin.ofNat 64 m.val = m from
        Fin.ext (Nat.mod_eq_of_lt m.isLt)]
    · rw [Qp.boxes_find_none hbusy, hbound]
      dsimp only
      rw [if_neg (by omega), if_neg (by omega), if_pos (by simp [hlow, hhigh])]
    · have hpos : d.length ≠ 0 := by omega
      have hwide : ¬ (64 ≤ d.length && d.length ≤ 4096) = true := by
        simp only [Bool.and_eq_true, decide_eq_true_eq]
        omega
      have hother : d.length = 8 → ¬ q.rings d = true := fun h8 hrings => by
        obtain ⟨m, hm, hd⟩ := (Qp.rings_iff h8).mp hrings
        rcases hlen with ⟨-, -, hnot⟩ | hlong
        · exact hnot m hm hd
        · omega
      rw [hbound]
      dsimp only
      rw [if_neg hpos, if_neg hwide]
      split
      · next h8 => rw [if_neg (hother h8)]
      · rfl

/-! ### WRITE, READ and atomics (R386, R387, R461) -/

/-- A mirror record stands where the devices place it: a request at the address of its kind, any other in a shadow's areas. -/
def State.mirrorPlaced (t : State) (a len : Nat) (r : Config.MirrorRecord) : Bool :=
  if r.asks then a == (Config.mirrorAddr r).toNat else t.inMirror a len

theorem State.mirrorPlaced_iff (t : State) (a len : Nat) (r : Config.MirrorRecord) : t.mirrorPlaced a len r = true ↔
    (if r.asks then a = (Config.mirrorAddr r).toNat else t.inMirror a len = true) := by
  unfold State.mirrorPlaced
  split
  · exact beq_iff_eq
  · rfl

theorem exec_inboundRdmaWrite {s t : State} {n : BitVec 24} {q : Qp} {ce : Bool} (h : s.qp? n.toNat = some q) (hq : q.refuse = false)
    (hon : q.state = .connected) (ht : t = s.notify n q ce) (va : W64) (key : BitVec 32) (d : Bytes) {a : Nat} (ha : a = va.toNat % 2 ^ 48) :
    exec (.inboundRdmaWrite n va key d ce) s = .next (
      if t.vaOk va && t.keyOk q 1 key && t.inOwn q a d.length then (t.acknowledge n q d.length).outerWrite a d
      else if t.vaOk va && t.keyOk q 2 key && q.inBoxes a d.length then (t.acknowledge n q d.length).outerWrite a d
      else match (if t.vaOk va && t.keyOk q 4 key then (Config.mirrorRecord d).filter (t.mirrorPlaced a d.length) else none) with
        | some r => (t.acknowledge n q d.length).mirrorRecord q.peer.toNat r
        | none => if (t.vaOk va && t.keyOk q 4 key) && t.inMirror a d.length then (t.acknowledge n q d.length).outerWrite a d
            else t.nakFatal n .accessError) := by
  subst ht ha
  exact congrArg Host.Outcome.next (State.inbound_serves h hq hon _)

/-- A WRITE to a queue pair in service (R386, R387; R477, R478). -/
theorem inboundRdmaWrite_acts {s t : State} {n : BitVec 24} {q : Qp} {ce : Bool} (h : s.qp? n.toNat = some q) (hq : q.refuse = false)
    (hon : q.state = .connected) (ht : t = s.notify n q ce) {va : W64} {key : BitVec 32} {a : Nat} (ha : a = va.toNat % 2 ^ 48)
    {d : Bytes} {own boxes mirror : Prop}
    (hown : own ↔ t.vaOk va = true ∧ t.keyOk q 1 key = true ∧ t.inOwn q a d.length = true)
    (hboxes : boxes ↔ t.vaOk va = true ∧ t.keyOk q 2 key = true ∧ q.inBoxes a d.length = true)
    (hmirror : mirror ↔ t.vaOk va = true ∧ t.keyOk q 4 key = true) :
    (own ∨ boxes → exec (.inboundRdmaWrite n va key d ce) s = .next ((t.acknowledge n q d.length).outerWrite a d)) ∧
    (¬ own → ¬ boxes → ¬ mirror → exec (.inboundRdmaWrite n va key d ce) s = .next (t.nakFatal n .accessError)) ∧
    (¬ own → ¬ boxes → mirror →
      (∀ r : Config.MirrorRecord, Config.mirrorRecord d = some r →
        (if r.asks then a = (Config.mirrorAddr r).toNat else t.inMirror a d.length = true) →
        exec (.inboundRdmaWrite n va key d ce) s = .next ((t.acknowledge n q d.length).mirrorRecord q.peer.toNat r)) ∧
      ((∀ r : Config.MirrorRecord, Config.mirrorRecord d = some r →
          ¬ (if r.asks then a = (Config.mirrorAddr r).toNat else t.inMirror a d.length = true)) → exec (.inboundRdmaWrite n va key d ce) s =
        .next (if t.inMirror a d.length then (t.acknowledge n q d.length).outerWrite a d else t.nakFatal n .accessError))) := by
  rw [exec_inboundRdmaWrite h hq hon ht va key d ha]
  simp only [← Bool.and_eq_true, ← Bool.and_assoc] at hown hboxes hmirror
  simp only [← State.mirrorPlaced_iff]
  refine ⟨fun hany => congrArg _ ?_, fun hno1 hno2 hno4 => congrArg _ ?_, fun hno1 hno2 hyes => ⟨fun r hr hplaced => congrArg _ ?_, fun hnone => congrArg _ ?_⟩⟩
  · split
    · rfl
    · next hno => rw [if_pos (hboxes.mp (hany.resolve_left fun hyes => hno (hown.mp hyes)))]
  · rw [if_neg (mt hown.mpr hno1), if_neg (mt hboxes.mpr hno2), Bool.eq_false_iff.mpr (mt hmirror.mpr hno4)]
    rfl
  · rw [if_neg (mt hown.mpr hno1), if_neg (mt hboxes.mpr hno2), if_pos (hmirror.mp hyes), hr, Option.filter_some_pos hplaced]
  · have hfilter : (Config.mirrorRecord d).filter (t.mirrorPlaced a d.length) = none := Option.filter_eq_none_iff.mpr hnone
    rw [if_neg (mt hown.mpr hno1), if_neg (mt hboxes.mpr hno2), if_pos (hmirror.mp hyes), hfilter, hmirror.mp hyes]
    rfl

theorem exec_inboundRdmaRead {s t : State} {n : BitVec 24} {q : Qp} {ce : Bool} (h : s.qp? n.toNat = some q) (hq : q.refuse = false)
    (hon : q.state = .connected) (ht : t = s.notify n q ce) (va : W64) (key : BitVec 32) (k : Nat) {a : Nat} (ha : a = va.toNat % 2 ^ 48) :
    exec (.inboundRdmaRead n va key k ce) s = .next (
      if !(t.vaOk va && t.keyOk q 1 key && t.inOwn q a k) then t.nakFatal n .accessError
      else if !t.good a k then t.badResponse q.owner a k
      else (t.takePsns n q k).emit (.readResponse n (t.read a k))) := by
  subst ht ha
  exact congrArg Host.Outcome.next (State.inbound_serves h hq hon _)

theorem exec_inboundFetchAdd {s t : State} {n : BitVec 24} {q : Qp} {ce : Bool} (h : s.qp? n.toNat = some q) (hq : q.refuse = false)
    (hon : q.state = .connected) (ht : t = s.notify n q ce) (va : W64) (key : BitVec 32) (x : W64) :
    exec (.inboundFetchAdd n va key x ce) s = .next (t.atomic n q va key (· + x)) := by
  subst ht
  exact congrArg Host.Outcome.next (State.inbound_serves h hq hon _)

theorem exec_inboundCompareSwap {s t : State} {n : BitVec 24} {q : Qp} {ce : Bool} (h : s.qp? n.toNat = some q) (hq : q.refuse = false)
    (hon : q.state = .connected) (ht : t = s.notify n q ce) (va : W64) (key : BitVec 32) (x y : W64) :
    exec (.inboundCompareSwap n va key x y ce) s = .next (t.atomic n q va key (fun old => if old = x then y else old)) := by
  subst ht
  exact congrArg Host.Outcome.next (State.inbound_serves h hq hon _)

/-- An atomic is refused, its word fails its check, or it takes effect (R385, R461). -/
theorem State.atomic_spec (t : State) (n : BitVec 24) (q : Qp) (va : W64) (key : BitVec 32) (f : W64 → W64) {a : Nat}
    (ha : a = va.toNat % 2 ^ 48) :
    (t.vaOk va = false ∨ t.keyOk q 1 key = false ∨ t.inOwn q a 8 = false ∨ a % 8 ≠ 0 → t.atomic n q va key f = t.nakFatal n .accessError) ∧
    (t.vaOk va = true → t.keyOk q 1 key = true → t.inOwn q a 8 = true → a % 8 = 0 →
      (t.good a 8 = true → ∀ old : W64, old = BitVec.ofNat 64 (t.readNat a 8) → t.atomic n q va key f =
        ((t.takePsns n q 8).writeNat a 8 (f old).toNat).emit (.atomicResponse n old)) ∧
      (t.good a 8 = false → t.atomic n q va key f = t.badResponse q.owner a 8)) := by
  unfold State.atomic
  dsimp only
  rw [← ha]
  refine ⟨fun hno => if_pos ?_, fun hva hkey hin halign => ?_⟩
  · rcases hno with hno | hno | hno | hno
    · simp [hno]
    · simp [hno]
    · simp [hno]
    · rw [beq_eq_false_iff_ne.mpr hno, Bool.and_false]
      rfl
  · rw [if_neg (by simp [hva, hkey, hin, halign])]
    refine ⟨fun hgood old hold => ?_, fun hbad => by rw [hbad]; rfl⟩
    rw [hgood, hold]
    rfl

/-! ### Chunk records (R399) -/

/-- A record that keeps to R399: for a stream that takes such records from this peer and owner. -/
def Stream.takesRecord (x : Stream) (q : Qp) (im : ImageInfo) (imm : BitVec 32) (d : Bytes) : Prop :=
  x.srcKind = 3 ∧ ringPeer x.source = q.peer.toNat ∧ x.part.val = q.owner ∧ x.takesInput = true ∧ recordOk im imm d = true

/-- The stream as the record with the next number finds it when it is accepted (R399). -/
def Stream.recordNext (x : Stream) (now : W64) : Stream :=
  { x with lastSample := now, intake := { x.intake with nextSeq := x.intake.nextSeq + 1 } }

/-- The record of the next chunk of stream `i` has been accepted: what follows is the pool and the partition's settling (R62, R399). -/
def State.recordTaken (s : State) (i : Nat) (im : ImageInfo) (d : Bytes) : State :=
  let s := s.setStream i ((s.stream i).recordNext s.now)
  let s := s.acceptChunk i (le d 4 2) (le d 4 2 * im.samplesPerFrame) (slice d 0x40 (le d 4 2)) (d.drop (64 + alignUp 64 (le d 4 2))) false
  match (s.stream i).chunks.getLast? with
  | some c => s.writeProgramme i c
  | none => s

/-- A record of an image's stream, by its stream, the pool and its number (R397, R399). -/
theorem State.chunkRecord_eq {s : State} {q : Qp} {imm : BitVec 32} {d : Bytes} {j : Nat} {x : Stream} {r : Partition} {im : ImageInfo}
    (hj : j = imm.toNat % 2 ^ 14) (hx : x = s.stream j) (hfresh : s.stale imm.toNat = false) (hr : s.part? x.part.val = some r)
    (him : r.shape? = some im) : s.chunkRecord q imm d =
      if x.srcKind ≠ 3 || ringPeer x.source ≠ q.peer.toNat || x.part.val ≠ q.owner || !x.takesInput || !recordOk im imm d then
        s.dropRecord q (some j)
      else if poolBytes < s.poolUse + alignUp 256 (le d 4 2 * im.bytesPerFrame + alignUp 64 (le d 4 2)) then
        (s.dropRecord q (some j)).poolCheck
      else if le d 8 8 < x.intake.nextSeq.toNat then s
      else if x.intake.nextSeq.toNat < le d 8 8 then s.raiseStream 0x8506 j (pack [b8 x.intake.nextSeq.toNat, b8 (le d 8 8)])
      else (s.recordTaken j im d).poolCheck.settle x.part.val := by
  subst hj hx
  unfold State.chunkRecord
  dsimp only
  rw [hfresh, if_neg Bool.false_ne_true, hr, Option.bind_some, him]
  rfl

theorem State.recordTaken_eq {s : State} {j : Nat} {y : Stream} {c : Chunk} {r : Partition} {im : ImageInfo} {d : Bytes}
    (hy : y = ((s.stream j).recordNext s.now).dropOldest) (hr : s.part? y.part.val = some r)
    (hc : c = y.nextAs (le d 4 2) (d.drop (64 + alignUp 64 (le d 4 2)), slice d 0x40 (le d 4 2)) false r.w s.now) :
    s.recordTaken j im d = (s.setStream j (y.taking c (le d 4 2 * im.samplesPerFrame))).writeProgramme j c := by
  have haccept : (s.setStream j ((s.stream j).recordNext s.now)).acceptChunk j (le d 4 2) (le d 4 2 * im.samplesPerFrame)
      (slice d 0x40 (le d 4 2)) (d.drop (64 + alignUp 64 (le d 4 2))) false =
        s.setStream j (y.taking c (le d 4 2 * im.samplesPerFrame)) := by
    rw [State.acceptChunk_eq (State.setStream_stream_same s j _) hy hr, State.setStream_setStream, hc]
    rfl
  have hlast : (y.taking c (le d 4 2 * im.samplesPerFrame)).chunks.getLast? = some c := List.getLast?_concat
  unfold State.recordTaken
  dsimp only
  rw [haccept, State.setStream_stream_same, hlast]

theorem Stream.dropOldest_chunks (x : Stream) :
    x.dropOldest = { x with chunks := if 16 ≤ x.chunks.length then x.chunks.tail else x.chunks,
                            chunksLost := x.dropOldest.chunksLost, gap := x.dropOldest.gap } := by
  by_cases hfull : 16 ≤ x.chunks.length
  · rw [Stream.dropOldest_full hfull, if_pos hfull]
  · rw [Stream.dropOldest_room hfull, if_neg hfull]

/-- What of a record stands in its stream once it has been accepted (R51, R64, R399). -/
theorem State.recordTaken_stream {s : State} {j : Nat} {x : Stream} {r : Partition} (hx : x = s.stream j) (hr : s.part? x.part.val = some r)
    (im : ImageInfo) (d : Bytes) {old : List Chunk} (hold : old = (if 16 ≤ x.chunks.length then x.chunks.tail else x.chunks)) :
    (((s.recordTaken j im d).poolCheck).stream j).intake.nextSeq = x.intake.nextSeq + 1 ∧
    (((s.recordTaken j im d).poolCheck).stream j).chunks = old ++ [⟨x.nextChunkNo, le d 4 2, slice d 0x40 (le d 4 2), x.sampleCount,
      s.now, dueOf x.cls r.w s.time old, false, false, false, d.drop (64 + alignUp 64 (le d 4 2))⟩] ∧
    (((s.recordTaken j im d).poolCheck).stream j).sampleCount = x.sampleCount + BitVec.ofNat 64 (le d 4 2 * im.samplesPerFrame) := by
  subst hx
  have hy := ((s.stream j).recordNext s.now).dropOldest_chunks
  rw [show ((s.stream j).recordNext s.now).chunks = (s.stream j).chunks from rfl, ← hold] at hy
  have hpart : s.part? ((s.stream j).recordNext s.now).dropOldest.part.val = some r := by rw [hy]; exact hr
  rw [State.recordTaken_eq rfl hpart rfl]
  generalize ((s.stream j).recordNext s.now).dropOldest = y at hy
  generalize hc : y.nextAs (le d 4 2) (d.drop (64 + alignUp 64 (le d 4 2)), slice d 0x40 (le d 4 2)) false r.w s.now = c
  obtain ⟨⟨o, hsame⟩, -⟩ := (s.setStream j (y.taking c (le d 4 2 * im.samplesPerFrame))).writeProgramme_spec j c
  rw [State.setStream_stream_same] at hsame
  generalize (s.setStream j (y.taking c (le d 4 2 * im.samplesPerFrame))).writeProgramme j c = v at hsame
  obtain ⟨b, hpool⟩ := v.poolCheck_onlySent
  rw [(hpool.stream j).trans hsame, ← hc, hy]
  exact ⟨rfl, rfl, rfl⟩

/-- A chunk record at the intake, by its stream's image, its own fields, the pool and its number (R397, R399). -/
theorem chunkRecord_acts {s : State} {q : Qp} {imm : BitVec 32} {d : Bytes} {j : Nat} {x : Stream} (hj : j = imm.toNat % 2 ^ 14)
    (hx : x = s.stream j) {r : Partition} {im : ImageInfo} {old : List Chunk} {named room : Prop} (hfresh : s.stale imm.toNat = false)
    (hr : s.part? x.part.val = some r) (him : r.shape? = some im)
    (hold : old = (if 16 ≤ x.chunks.length then x.chunks.tail else x.chunks)) (hnamed : named ↔ x.takesRecord q im imm d)
    (hroom : room ↔ s.poolUse + alignUp 256 (le d 4 2 * im.bytesPerFrame + alignUp 64 (le d 4 2)) ≤ poolBytes) :
    (¬ named → s.chunkRecord q imm d = s.dropRecord q (some j)) ∧
    (named → ¬ room → s.chunkRecord q imm d = (s.dropRecord q (some j)).poolCheck) ∧
    (named → room → le d 8 8 < x.intake.nextSeq.toNat → s.chunkRecord q imm d = s) ∧
    (named → room → x.intake.nextSeq.toNat < le d 8 8 → OnlySent s (s.chunkRecord q imm d)) ∧
    (named → room → le d 8 8 = x.intake.nextSeq.toNat → ∃ u : State, s.chunkRecord q imm d = u.settle x.part.val ∧
      (u.stream j).intake.nextSeq = x.intake.nextSeq + 1 ∧
      (u.stream j).chunks = old ++ [⟨x.nextChunkNo, le d 4 2, slice d 0x40 (le d 4 2), x.sampleCount,
        s.now, dueOf x.cls r.w s.time old, false, false, false, d.drop (64 + alignUp 64 (le d 4 2))⟩] ∧
      (u.stream j).sampleCount = x.sampleCount + BitVec.ofNat 64 (le d 4 2 * im.samplesPerFrame)) := by
  rw [State.chunkRecord_eq hj hx hfresh hr him]
  have hrefused : (x.srcKind ≠ 3 || ringPeer x.source ≠ q.peer.toNat || x.part.val ≠ q.owner || !x.takesInput || !recordOk im imm d) = true ↔
      ¬ named := by
    rw [hnamed, Stream.takesRecord, ← Bool.not_eq_false, not_iff_not]
    simp [and_assoc]
  have hpool : poolBytes < s.poolUse + alignUp 256 (le d 4 2 * im.bytesPerFrame + alignUp 64 (le d 4 2)) ↔ ¬ room := by
    rw [hroom, Nat.not_le]
  refine ⟨fun hno => if_pos (hrefused.mpr hno), fun hyes hfull => ?_, fun hyes hfits hlow => ?_, fun hyes hfits hhigh => ?_,
    fun hyes hfits heq => ?_⟩
  · rw [if_neg (fun h => hrefused.mp h hyes), if_pos (hpool.mpr hfull)]
  · rw [if_neg (fun h => hrefused.mp h hyes), if_neg (fun h => hpool.mp h hfits), if_pos hlow]
  · rw [if_neg (fun h => hrefused.mp h hyes), if_neg (fun h => hpool.mp h hfits), if_neg (Nat.lt_asymm hhigh), if_pos hhigh]
    exact State.raiseStream_onlySent ..
  · rw [if_neg (fun h => hrefused.mp h hyes), if_neg (fun h => hpool.mp h hfits), if_neg (Nat.not_lt.mpr (Nat.le_of_eq heq.symm)),
      if_neg (Nat.not_lt.mpr (Nat.le_of_eq heq))]
    exact ⟨_, rfl, State.recordTaken_stream hx hr im d hold⟩

theorem exec_inboundWriteImmediate {s t : State} {n : BitVec 24} {q : Qp} {ce : Bool} (h : s.qp? n.toNat = some q) (hq : q.refuse = false)
    (hon : q.state = .connected) (ht : t = s.notify n q ce) (va : W64) (key imm : BitVec 32) (d : Bytes) {a : Nat}
    (ha : a = va.toNat % 2 ^ 48) : exec (.inboundWriteImmediate n va key imm d ce) s = .next (
      if a ≠ intakePort then t.nakFatal n .invalidRequest
      else if !(t.vaOk va && t.keyOk q 3 key) then t.nakFatal n .accessError
      else (t.acknowledge n q d.length).chunkRecord q imm d) := by
  subst ht ha
  exact congrArg Host.Outcome.next (State.inbound_serves h hq hon _)

/-- Settles O44: the queue pair's own state first, then each request by its lemma, and the record at the intake by its own. -/
theorem rdmaRequestsAreAnswered : Obligations.RdmaRequestsAreAnswered := by
  unfold Obligations.RdmaRequestsAreAnswered
  refine ⟨?reached, State.notify_spec, ?served, ?record⟩
  case reached =>
    intro s n va key imm d k x y ce i hi
    obtain ⟨body, hexec⟩ := exec_inbound hi
    rw [hexec]
    exact ⟨fun hnone => congrArg _ (State.inbound_none hnone), fun q hq => ⟨fun href => congrArg _ (State.inbound_refused hq href),
      fun href hoff => congrArg _ (State.inbound_off hq href hoff)⟩⟩
  case served =>
    intro s t n q ce hq href hon ht
    refine ⟨fun d free hfree => ?_, fun va key a ha => ⟨fun d own boxes mirror hown hboxes hmirror =>
      inboundRdmaWrite_acts hq href hon ht ha hown hboxes hmirror, fun k x y => ?_, fun hva hkey => ?_, ?_⟩⟩
    · obtain ⟨hnone, hbound, hbusy, hother⟩ := inboundSend_acts hq href hon ht d hfree
      refine ⟨hnone, fun m hm => ⟨fun hd => ?_, (hbound m hm).2⟩, hbusy, hother⟩
      rw [(hbound m hm).1 hd]
      exact ⟨fun hfree => congrArg _ ((t.rungBy_spec n q d.length m).1 hfree), fun hbusy => congrArg _ ((t.rungBy_spec n q d.length m).2 hbusy)⟩
    · rw [exec_inboundRdmaRead hq href hon ht va key k ha, exec_inboundFetchAdd hq href hon ht, exec_inboundCompareSwap hq href hon ht]
      refine ⟨fun hno => ⟨congrArg _ (if_pos (by rcases hno with hno | hno <;> simp [hno])), ?_, ?_⟩, fun hno => congrArg _ (if_pos (by simp [hno])),
        fun hno => ⟨?_, ?_⟩⟩
      · exact congrArg _ ((t.atomic_spec n q va key _ ha).1 (hno.imp_right .inl))
      · exact congrArg _ ((t.atomic_spec n q va key _ ha).1 (hno.imp_right .inl))
      · exact congrArg _ ((t.atomic_spec n q va key _ ha).1 (.inr (.inr hno)))
      · exact congrArg _ ((t.atomic_spec n q va key _ ha).1 (.inr (.inr hno)))
    · refine ⟨fun k hin => ?_, fun old x y hin halign hold => ?_⟩
      · rw [exec_inboundRdmaRead hq href hon ht va key k ha, if_neg (by simp [hva, hkey, hin])]
        exact ⟨fun hgood => by rw [hgood]; rfl, fun hbad => by rw [hbad]; rfl⟩
      · rw [exec_inboundFetchAdd hq href hon ht, exec_inboundCompareSwap hq href hon ht]
        obtain ⟨haddGood, haddBad⟩ := (t.atomic_spec n q va key (· + x) ha).2 hva hkey hin halign
        obtain ⟨hswapGood, hswapBad⟩ := (t.atomic_spec n q va key (fun old => if old = x then y else old) ha).2 hva hkey hin halign
        exact ⟨fun hgood => ⟨congrArg _ (haddGood hgood old hold), congrArg _ (hswapGood hgood old hold)⟩,
          fun hbad => ⟨congrArg _ (haddBad hbad), congrArg _ (hswapBad hbad)⟩⟩
    · rintro imm d u rfl
      rw [exec_inboundWriteImmediate hq href hon ht va key imm d ha]
      refine ⟨fun hport => congrArg _ (if_pos hport), fun hport hno => ?_, fun hport hva hkey => ?_⟩
      · rw [if_neg (not_not_intro hport), if_pos (by rcases hno with hno | hno <;> simp [hno])]
      · rw [if_neg (not_not_intro hport), if_neg (by simp [hva, hkey])]
  case record =>
    intro s q imm d j x hj hx
    refine ⟨fun hstale => ?_, fun hfresh hnone => ?_, fun r im old named room hfresh hr him hold hnamed hroom =>
      chunkRecord_acts hj hx hfresh hr him hold hnamed hroom⟩
    · exact if_pos hstale
    · subst hj hx
      rw [State.chunkRecord, hfresh, if_neg Bool.false_ne_true, hnone]
      rfl

end Sys2Proof.Machine
end

section
/-! PROOFS. What the start of a queue pair's rate periods does not touch (R390): messages, answers and events. -/

namespace Sys2Proof.Machine

/-- A queue pair without the beginnings of its rate control's periods (R390). -/
def Qp.still (q : Qp) : Qp := { q with alphaFrom := 0, incFrom := 0 }

/-- The state without the beginnings of the periods of rate control. -/
def State.still (s : State) : State := { s with qps := s.qps.map (fun e => (e.1, e.2.still)) }

@[simp] theorem State.still_now (s : State) : s.still.now = s.now := rfl
@[simp] theorem State.still_dev (s : State) : s.still.dev = s.dev := rfl
@[simp] theorem State.still_commit (s : State) : s.still.commit = s.commit := rfl
@[simp] theorem State.still_spares (s : State) : s.still.spares = s.spares := rfl
@[simp] theorem State.still_parts (s : State) : s.still.parts = s.parts := rfl
@[simp] theorem State.still_archHeld (s : State) : s.still.archHeld = s.archHeld := rfl
@[simp] theorem State.still_tests (s : State) : s.still.tests = s.tests := rfl

@[simp] theorem State.still_core (s : State) (n : Nat) : s.still.core n = s.core n := rfl
@[simp] theorem State.still_stream (s : State) (n : Nat) : s.still.stream n = s.stream n := rfl
@[simp] theorem State.still_part? (s : State) (n : Nat) : s.still.part? n = s.part? n := rfl
@[simp] theorem State.still_ctx? (s : State) (n : Nat) : s.still.ctx? n = s.ctx? n := rfl
@[simp] theorem State.still_mail (s : State) (n : Nat) : s.still.mail n = s.mail n := rfl
@[simp] theorem State.still_ring (s : State) (n : Nat) : s.still.ring n = s.ring n := rfl
@[simp] theorem State.still_cluster (s : State) (n : Nat) : s.still.cluster n = s.cluster n := rfl
@[simp] theorem State.still_mac (s : State) (n : Nat) : s.still.mac n = s.mac n := rfl
@[simp] theorem State.still_physCore (s : State) (n : Nat) : s.still.physCore n = s.physCore n := rfl
@[simp] theorem State.still_time (s : State) : s.still.time = s.time := rfl

@[simp] theorem State.still_setRing (s : State) (n : Nat) (x : Ring) : s.still.setRing n x = (s.setRing n x).still := rfl
@[simp] theorem State.still_setMail (s : State) (n : Nat) (x : Mailbox) : s.still.setMail n x = (s.setMail n x).still := rfl
@[simp] theorem State.still_modMail (s : State) (n : Nat) (f : Mailbox → Mailbox) : s.still.modMail n f = (s.modMail n f).still := rfl
@[simp] theorem State.still_freeMail (s : State) (n : Nat) : s.still.freeMail n = (s.freeMail n).still := rfl

theorem State.still_ite {c : Prop} [Decidable c] (a b : State) : (if c then a else b).still = if c then a.still else b.still := by
  split <;> rfl

theorem foldl_still {α : Type} {f : State → α → State} (hf : ∀ s a, f s.still a = (f s a).still) (l : List α) (s : State) :
    l.foldl f s.still = (l.foldl f s).still := by
  induction l generalizing s with
  | nil => rfl
  | cons a l ih => rw [List.foldl_cons, List.foldl_cons, hf, ih]

/-! ### Queue pairs -/

theorem tabGet?_still (t : Tab Qp) (n : Nat) : tabGet? (t.map (fun e => (e.1, e.2.still))) n = (tabGet? t n).map Qp.still := by
  induction t with
  | nil => rfl
  | cons e t ih =>
    simp only [List.map_cons, tabGet?, ih]
    split <;> rfl

@[simp] theorem State.still_qp? (s : State) (n : Nat) : s.still.qp? n = (s.qp? n).map Qp.still := tabGet?_still s.qps n

theorem tabPut_still (t : Tab Qp) (n : Nat) (q : Qp) :
    tabPut (t.map (fun e => (e.1, e.2.still))) n q.still = (tabPut t n q).map (fun e => (e.1, e.2.still)) := by
  induction t with
  | nil => rfl
  | cons e t ih =>
    simp only [List.map_cons, tabPut, ih]
    split
    · rfl
    · split <;> rfl

theorem State.still_setQp (s : State) (n : Nat) (q : Qp) : s.still.setQp n q.still = (s.setQp n q).still :=
  congrArg (fun l => { s with qps := l }) (tabPut_still s.qps n q)

@[simp] theorem State.still_markOf (s : State) (o : Output) : s.still.markOf o = s.markOf o := by
  have hown : ∀ n : BitVec 24, ((s.still.qp? n.toNat).map (·.owner)).getD 16 = ((s.qp? n.toNat).map (·.owner)).getD 16 := fun n => by
    rw [State.still_qp?, Option.map_map]
    rfl
  have howner : s.still.markOwner o = s.markOwner o := by
    unfold State.markOwner
    simp only [hown]
  unfold State.markOf
  rw [howner]
  rfl

@[simp] theorem State.still_emit (s : State) (o : Output) : s.still.emit o = (s.emit o).still := by
  unfold State.emit
  rw [State.still_markOf]
  rfl

@[simp] theorem State.still_qpFor (s : State) (o p : Nat) : s.still.qpFor o p = (s.qpFor o p).map (fun e => (e.1, e.2.still)) :=
  List.find?_map ..

@[simp] theorem Qp.still_state (q : Qp) : q.still.state = q.state := rfl
@[simp] theorem Qp.still_remoteVa (q : Qp) (a : W64) : q.still.remoteVa a = q.remoteVa a := rfl
@[simp] theorem State.still_carries (s : State) (q : Qp) : s.still.carries q.still = s.carries q := rfl

@[simp] theorem State.still_sendKeyed (s : State) (n : Nat) (q : Qp) (kind : MsgKind) (va : W64) (key : BitVec 32) (d : Bytes) (len : Nat)
    (use : MsgUse) : s.still.sendKeyed n q.still kind va key d len use = (s.sendKeyed n q kind va key d len use).still := by
  have hset : ∀ (sq : BitVec 24) (out : List OutMsg) (t : W64), s.still.setQp n { q.still with sqNext := sq, out := out, timer := t } =
      (s.setQp n { q with sqNext := sq, out := out, timer := t }).still :=
    fun sq out t => s.still_setQp n { q with sqNext := sq, out := out, timer := t }
  simp only [State.sendKeyed, hset, State.still_emit, State.still_ite]
  rfl

@[simp] theorem State.still_sendOn (s : State) (n : Nat) (q : Qp) (kind : MsgKind) (va : W64) (d : Bytes) (len : Nat)
    (use : MsgUse) : s.still.sendOn n q.still kind va d len use = (s.sendOn n q kind va d len use).still := State.still_sendKeyed ..

@[simp] theorem State.still_bellPacket (s : State) (n seq : Nat) : s.still.bellPacket n seq = (s.bellPacket n seq).still := by
  simp only [State.bellPacket, State.still_ring, State.still_qp?, State.still_time, State.still_setRing, State.still_ite]
  cases h : s.qp? (s.ring n).qpn.toNat with
  | none => rfl
  | some q =>
    simp only [Option.map_some, Qp.still_state, State.still_carries, State.still_sendOn, State.still_ite]
    rfl

@[simp] theorem State.still_putRecord (s : State) (n : Nat) (bs : Bytes) : s.still.putRecord n bs = (s.putRecord n bs).map State.still := by
  simp only [State.putRecord, State.still_ring, State.still_qp?]
  cases h : s.qp? (s.ring n).qpn.toNat with
  | none => rfl
  | some q => simp [apply_ite (Option.map State.still)]

@[simp] theorem State.still_postRecord (s : State) (n : Nat) (bs : Bytes) : s.still.postRecord n bs = (s.postRecord n bs).still := by
  simp [State.postRecord, State.still_ite]

theorem map_getD_still (o : Option State) (s : State) : (o.map State.still).getD s.still = (o.getD s).still := by
  cases o <;> rfl

@[simp] theorem State.still_writeRaw (s : State) (a : Nat) (bs : Bytes) : s.still.writeRaw a bs = (s.writeRaw a bs).still := rfl
@[simp] theorem State.still_zero (s : State) (a n : Nat) : s.still.zero a n = (s.zero a n).still := rfl
@[simp] theorem State.still_writeNat (s : State) (a n v : Nat) : s.still.writeNat a n v = (s.writeNat a n v).still := rfl

@[simp] theorem State.still_freeFor (s : State) (bs : Bytes) : s.still.freeFor bs = (s.freeFor bs).still := by
  simp [State.freeFor, State.still_ite]

@[simp] theorem State.still_finishCmd (s : State) (m : Fin 64) : s.still.finishCmd m = (s.finishCmd m).still := by
  simp [State.finishCmd, State.still_ite]

@[simp] theorem State.still_respLost (s : State) (m : Fin 64) : s.still.respLost m = (s.respLost m).still := by
  simp [State.respLost]

@[simp] theorem State.still_writeDomain (s : State) (o : Nat) (a : W64) (d : Bytes) (use : MsgUse) :
    s.still.writeDomain o a d use = (s.writeDomain o a d use).map State.still := by
  simp only [State.writeDomain, State.still_qpFor]
  cases s.qpFor o (devOf a) <;> simp

@[simp] theorem State.still_deliver (s : State) (m : Fin 64) (pg : Bytes) : s.still.deliver m pg = (s.deliver m pg).still := by
  simp only [State.deliver, State.still_mail, State.still_writeRaw, State.still_writeDomain, State.still_finishCmd, State.still_dev,
    State.still_ite]
  generalize (s.writeRaw (respPageAddr m) pg).writeDomain _ _ _ _ = sent
  refine if_congr Iff.rfl ?_ rfl
  by_cases hself : devOf (BitVec.ofNat 64 (le (s.mail m).copy 0x10 8)) = s.dev.deviceNo.toNat
  · simp only [if_pos hself]
  · simp only [if_neg hself]
    cases sent <;> rfl

@[simp] theorem State.still_respondX (s : State) (m : Fin 64) (st d : Nat) (im : Bool) (data : Bytes) :
    s.still.respondX m st d im data = (s.respondX m st d im data).still := by
  simp [State.respondX]

@[simp] theorem State.still_ok (s : State) (m : Fin 64) (data : Bytes) : s.still.ok m data = (s.ok m data).still :=
  s.still_respondX ..
@[simp] theorem State.still_fail (s : State) (m : Fin 64) (st : Nat) : s.still.fail m st = (s.fail m st).still :=
  s.still_respondX ..

@[simp] theorem State.still_raise (s : State) (c p t h : Nat) (d : Bytes) : s.still.raise c p t h d = (s.raise c p t h d).still := by
  refine foldl_still (fun s n => ?_) _ s
  simp [State.still_ite]

end Sys2Proof.Machine
end

section
/-! PROOFS. What the start of a queue pair's rate periods does not touch: memory, images and sections of a partition. -/

namespace Sys2Proof.Machine

@[simp] theorem State.still_raiseDev (s : State) (c : Nat) (d : Bytes) : s.still.raiseDev c d = (s.raiseDev c d).still :=
  s.still_raise ..
@[simp] theorem State.still_raisePart (s : State) (c p : Nat) (d : Bytes) : s.still.raisePart c p d = (s.raisePart c p d).still :=
  s.still_raise ..
@[simp] theorem State.still_raiseStream (s : State) (c i : Nat) (d : Bytes) : s.still.raiseStream c i d = (s.raiseStream c i d).still :=
  s.still_raise ..

@[simp] theorem State.still_setPart (s : State) (p : Nat) (q : Partition) : s.still.setPart p q = (s.setPart p q).still := rfl
@[simp] theorem State.still_modCore (s : State) (c : Nat) (f : Core → Core) : s.still.modCore c f = (s.modCore c f).still := rfl
@[simp] theorem State.still_setStream (s : State) (i : Nat) (x : Stream) : s.still.setStream i x = (s.setStream i x).still := rfl
@[simp] theorem State.still_modStream (s : State) (i : Nat) (f : Stream → Stream) : s.still.modStream i f = (s.modStream i f).still := rfl
@[simp] theorem State.still_setCluster (s : State) (n : Nat) (x : ClusterState) : s.still.setCluster n x = (s.setCluster n x).still := rfl
@[simp] theorem State.still_wear (s : State) (u p k st c v : Nat) : s.still.wear u p k st c v = (s.wear u p k st c v).still := rfl
@[simp] theorem State.still_free (s : State) : s.still.free = (s.free.1, s.free.2.still) := rfl

@[simp] theorem State.still_modPart (s : State) (p : Nat) (f : Partition → Partition) : s.still.modPart p f = (s.modPart p f).still := by
  simp only [State.modPart, State.still_part?]
  cases s.part? p <;> rfl

@[simp] theorem State.still_release (s : State) (p a : Nat) : s.still.release p a = (s.release p a).still := s.still_modPart ..

@[simp] theorem State.still_emptySlot (s : State) (p : Nat) (b : Bool) : s.still.emptySlot p b = (s.emptySlot p b).still := by
  simp only [State.emptySlot, State.still_part?]
  cases s.part? p <;> simp

@[simp] theorem State.still_alloc (s : State) (p al n : Nat) :
    s.still.alloc p al n = (s.alloc p al n).map (fun r => (r.1, r.2.still)) := by
  simp only [State.alloc, State.still_part?, State.still_free, State.still_setPart]
  cases s.part? p with
  | none => rfl
  | some q =>
    dsimp only
    cases pickArea q.hbm q.places al n s.free.1 <;> rfl

@[simp] theorem State.still_renewArea (s : State) (p al o n : Nat) :
    s.still.renewArea p al o n = ((s.renewArea p al o n).1, (s.renewArea p al o n).2.still) := by
  simp only [State.renewArea, State.still_release, State.still_alloc]
  split
  · rfl
  · cases (s.release p o).alloc p al n <;> rfl

@[simp] theorem State.still_allocAreas (s : State) (p : Nat) (im : ImageInfo) : s.still.allocAreas p im = (s.allocAreas p im).still := by
  simp only [State.allocAreas, State.still_part?]
  cases s.part? p <;> simp

@[simp] theorem State.still_allocOut (s : State) (p : Nat) : s.still.allocOut p = (s.allocOut p).still := by
  simp only [State.allocOut, State.still_part?]
  cases s.part? p with
  | none => rfl
  | some q =>
    dsimp only
    cases q.image? <;> simp

@[simp] theorem State.still_writeScaleTable (s : State) (p : Nat) : s.still.writeScaleTable p = (s.writeScaleTable p).still := by
  simp only [State.writeScaleTable, State.still_part?]
  cases s.part? p with
  | none => rfl
  | some q => exact foldl_still (fun t k => t.still_writeRaw ..) _ s

@[simp] theorem State.still_powerSegments (s : State) (c : Nat) (on : BitVec 8) : s.still.powerSegments c on = (s.powerSegments c on).still := by
  have hoff := foldl_still (f := fun (u : State) n => if on.getLsbD n then u else u.zero (coreWin c + n * 0x10000) 0x10000)
    (fun t n => by simp [State.still_ite]) (List.range 8) s
  simp only [State.powerSegments, hoff, State.still_modCore]

@[simp] theorem State.still_powerBanks (s : State) (cl : Nat) (on : W64) : s.still.powerBanks cl on = (s.powerBanks cl on).still := by
  have hoff := foldl_still (f := fun (u : State) b => if on.getLsbD b then u else u.zero (clusterWin cl + b * 0x20000) 0x20000)
    (fun t n => by simp [State.still_ite]) (List.range 64) s
  simp only [State.powerBanks, hoff, State.still_cluster]
  split <;> rfl

@[simp] theorem State.still_powerClusters (s : State) (l : List Nat) (on : W64 × BitVec 8) :
    s.still.powerClusters l on = (s.powerClusters l on).still := by
  refine foldl_still (fun t cl => ?_) l s
  rw [State.still_powerBanks]
  exact foldl_still (fun u k => u.still_powerSegments ..) _ _

@[simp] theorem State.still_installCode (s : State) (p : Nat) : s.still.installCode p = (s.installCode p).still := by
  simp only [State.installCode, State.still_part?]
  cases s.part? p with
  | none => rfl
  | some q =>
    dsimp only
    cases q.image? with
    | none => rfl
    | some im =>
      dsimp only
      rw [State.still_powerClusters, foldl_still fun t cl => t.still_writeRaw ..]
      refine foldl_still (fun t w => ?_) _ _
      cases q.cores[w.core]? <;> rfl

@[simp] theorem State.still_dropMoves (s : State) (p i : Nat) : s.still.dropMoves p i = (s.dropMoves p i).still := by
  simp only [State.dropMoves, State.still_part?]
  cases s.part? p with
  | none => rfl
  | some q =>
    dsimp only
    rw [State.still_setPart]
    exact foldl_still (fun t c => t.still_ok ..) _ _

@[simp] theorem State.still_heldSlots (s : State) (x : Stream) : s.still.heldSlots x = s.heldSlots x := rfl

@[simp] theorem State.still_dropTable (s : State) (p i : Nat) : s.still.dropTable p i = (s.dropTable p i).still := by
  simp only [State.dropTable, State.still_stream, State.still_heldSlots, State.still_dropMoves, State.still_modPart,
    State.still_release, State.still_part?, State.still_ite]
  refine if_congr Iff.rfl rfl ?_
  cases (((((s.dropMoves p i).modPart p fun q => q.giveSlots (s.heldSlots (s.stream i))).release p (s.stream i).pageTable).release p
    (s.stream i).tailAddr).part? p) <;> rfl

@[simp] theorem State.still_read (s : State) (a n : Nat) : s.still.read a n = s.read a n := rfl
@[simp] theorem State.still_readNat (s : State) (a n : Nat) : s.still.readNat a n = s.readNat a n := rfl
@[simp] theorem State.still_openStreams (s : State) (p : Nat) : s.still.openStreams p = s.openStreams p := rfl
@[simp] theorem State.still_anyService (s : State) : s.still.anyService = s.anyService := rfl
@[simp] theorem State.still_currentCfg (s : State) : s.still.currentCfg = s.currentCfg := rfl
@[simp] theorem State.still_admitted (s : State) (p : Nat) (sect : Bytes) (im : ImageInfo) :
    s.still.admitted p sect im = s.admitted p sect im := rfl

theorem State.makeTable_eq (s : State) (p i : Nat) (a : AttnDecl) : s.makeTable p i a =
    (s.alloc p 64 (64 + 16 * a.layers * (a.shardTokens / 256))).bind (fun r =>
      (r.2.alloc p 4096 (a.layers * a.tailBytes)).map (fun v =>
        let bytes := 64 + 16 * a.layers * (a.shardTokens / 256)
        let (k, s) := v.2.free
        let base := if a.seqTokens ≤ a.shardTokens then 0 else k % max 1 a.ringDevices * a.shardTokens
        let head := a.tableHead ++ zeros 16 ++ b8 base ++ b8 v.1 ++ b4 (s.stream i).handle.toNat ++ zeros 20
        let s := (s.zero r.1 bytes).writeRaw r.1 head
        let s := match s.part? p with
          | some q => s.writeNat (q.directory + 8 * i) 8 r.1
          | none => s
        s.modStream i (fun x => { x with pageTable := r.1, tailAddr := v.1, noPage := false }))) := by
  unfold State.makeTable
  dsimp only
  cases s.alloc p 64 (64 + 16 * a.layers * (a.shardTokens / 256)) with
  | none => rfl
  | some r =>
    obtain ⟨tab, t⟩ := r
    dsimp only [Option.bind_some]
    cases t.alloc p 4096 (a.layers * a.tailBytes) <;> rfl

@[simp] theorem State.still_makeTable (s : State) (p i : Nat) (a : AttnDecl) : s.still.makeTable p i a = (s.makeTable p i a).map State.still := by
  rw [State.makeTable_eq, State.makeTable_eq, State.still_alloc]
  cases s.alloc p 64 (64 + 16 * a.layers * (a.shardTokens / 256)) with
  | none => rfl
  | some r =>
    obtain ⟨tab, t⟩ := r
    simp only [Option.map_some, Option.bind_some, State.still_alloc]
    cases t.alloc p 4096 (a.layers * a.tailBytes) with
    | none => rfl
    | some v =>
      obtain ⟨tail, t⟩ := v
      simp only [Option.map_some, State.still_free, State.still_stream, State.still_zero, State.still_writeRaw, State.still_part?]
      cases (State.part? _ p) <;> rfl

@[simp] theorem State.still_retable (s : State) (p : Nat) (im : ImageInfo) (i : Nat) : s.still.retable p im i = (s.retable p im i).still := by
  simp only [State.retable, State.still_stream, State.still_dropTable, State.still_read, State.still_makeTable, map_getD_still]
  cases im.attn with
  | none => rfl
  | some a => exact (State.still_ite ..).symm

/-- A stream's state in a buffer of the size that an image wants, where memory has one (R60). -/
def State.resized (s : State) (p : Nat) (im : ImageInfo) (i : Nat) : State :=
  if im.stateUnits = (s.stream i).stateUnits.toNat then s
  else match (s.release p (s.stream i).stateAddr.toNat).alloc p 4096 (2 * im.stateUnits * 4096) with
    | some (a, t) => t.setStream i { t.stream i with stateAddr := BitVec.ofNat 48 a }
    | none => s

@[simp] theorem State.still_resized (s : State) (p : Nat) (im : ImageInfo) (i : Nat) : s.still.resized p im i = (s.resized p im i).still := by
  simp only [State.resized, State.still_stream, State.still_release, State.still_alloc]
  split
  · rfl
  · cases (s.release p (s.stream i).stateAddr.toNat).alloc p 4096 (2 * im.stateUnits * 4096) <;> rfl

theorem State.relayout_eq (s : State) (p : Nat) (im : ImageInfo) (i : Nat) (all : Bool) : s.relayout p im i all =
    let t := s.retable p im i
    let side := (t.stream i).stateAddr.toNat + (if (t.stream i).commitSide then (t.stream i).stateUnits.toNat * 4096 else 0)
    if !all && t.readNat side 4 = im.layout.toNat then t
    else (t.resized p im i).modStream i (fun x => { x with stateUnits := BitVec.ofNat 16 im.stateUnits, resCluster := 63, resetNext := true }) := rfl

@[simp] theorem State.still_relayout (s : State) (p : Nat) (im : ImageInfo) (i : Nat) (all : Bool) :
    s.still.relayout p im i all = (s.relayout p im i all).still := by
  simp only [State.relayout_eq, State.still_retable, State.still_stream, State.still_readNat, State.still_resized, State.still_modStream,
    State.still_ite]

@[simp] theorem State.still_carve (p size : Nat) (lp : Bool) (n : Nat) (s : State) :
    State.carve p size lp n s.still = (State.carve p size lp n s).still := by
  induction n generalizing s with
  | zero => rfl
  | succ n ih =>
    simp only [State.carve, State.still_part?, State.still_free]
    cases s.part? p with
    | none => rfl
    | some q =>
      dsimp only
      cases pickArea (if lp then q.lp else q.hbm) q.places 4096 size s.free.1 with
      | none => rfl
      | some a =>
        dsimp only
        rw [State.still_setPart, ih]

@[simp] theorem State.still_carvePool (s : State) (p : Nat) (a : AttnDecl) : s.still.carvePool p a = (s.carvePool p a).still := by
  simp only [State.carvePool, State.still_part?]
  cases s.part? p with
  | none => rfl
  | some q => simp [State.still_ite]

@[simp] theorem State.still_setMode (s : State) (m : DevMode) : s.still.setMode m = (s.setMode m).still :=
  State.still_raiseDev { s with dev := { s.dev with mode := m } } ..

@[simp] theorem State.still_syncServing (s : State) : s.still.syncServing = s.syncServing.still := by
  simp only [State.syncServing, State.still_dev, State.still_anyService, State.still_setMode]
  split
  · exact (State.still_ite ..).symm
  · exact (State.still_ite ..).symm
  · rfl

@[simp] theorem State.still_goInService (s : State) (p : Nat) (b : Bool) : s.still.goInService p b = (s.goInService p b).still := by
  simp only [State.goInService, State.still_part?]
  cases s.part? p with
  | none => rfl
  | some q =>
    dsimp only
    have hempty : (if (q.img !b).state == .inService then s.still.emptySlot p !b else s.still) =
        (if (q.img !b).state == .inService then s.emptySlot p !b else s).still := by simp [State.still_ite]
    rw [hempty, State.still_modPart, State.still_part?]
    generalize State.modPart _ _ _ = t
    generalize (t.part? p).getD q = v
    cases v.image? with
    | none => rfl
    | some im =>
      have hlayout : ∀ (all : Bool) (l : List (Nat × Stream)) (t : State), l.foldl (fun u x => u.relayout p im x.1 all) t.still =
          (l.foldl (fun u x => u.relayout p im x.1 all) t).still := fun all => foldl_still fun u x => u.still_relayout ..
      simp only [State.still_installCode, State.still_writeScaleTable, State.still_allocOut, State.still_allocAreas, State.still_modPart,
        State.still_openStreams, hlayout]
      cases im.attn <;> simp

@[simp] theorem State.still_retagScales (s : State) (p : Nat) (b : Bytes) : s.still.retagScales p b = (s.retagScales p b).still := by
  simp only [State.retagScales, State.still_part?]
  cases s.part? p with
  | none => rfl
  | some q => exact foldl_still (fun t k => by simp [State.still_ite]) _ s

@[simp] theorem State.still_commitApplied (s : State) (p : Nat) : s.still.commitApplied p = (s.commitApplied p).still := by
  simp only [State.commitApplied, State.still_commit]
  cases s.commit with
  | none => rfl
  | some c =>
    dsimp only
    split <;> rfl

@[simp] theorem State.still_recheckAdmission (s : State) (p : Nat) (b : Bool) : s.still.recheckAdmission p b = (s.recheckAdmission p b).still := by
  simp only [State.recheckAdmission, State.still_part?, State.still_admitted, State.still_currentCfg]
  cases s.part? p with
  | none => rfl
  | some q => simp [State.still_ite]

/-- A cluster that leaves a partition: off, its windows empty (R33, R44). -/
def State.clusterGone (t : State) (c : Nat) : State :=
  (List.range 32).foldl (fun u k => (u.zero (coreWin (32 * c + k)) 0x90000).modCore (32 * c + k) (fun x => { x with segOn := 0 }))
    ((t.setCluster c { t.cluster c with owner := none, banksOn := 0, fixed := true }).zero (clusterWin c) 0x800000)

@[simp] theorem State.still_clusterGone (s : State) (c : Nat) : s.still.clusterGone c = (s.clusterGone c).still :=
  foldl_still (fun _ _ => rfl) _ ((s.setCluster c { s.cluster c with owner := none, banksOn := 0, fixed := true }).zero (clusterWin c) 0x800000)

/-- The clusters `gone` have left partition `p`, the section's own have joined it, and no stream rests on one that left (R44, R60). -/
def State.reclustered (s : State) (p : Nat) (new : Bytes) (gone : List Nat) : State :=
  let s := gone.foldl State.clusterGone s
  let s := (clustersOf new).foldl (fun t c =>
    t.setCluster c { t.cluster c with owner := some (Fin.ofNat 16 p), fixed := le new 2 1 == 1 }) s
  (s.openStreams p).foldl (fun t x =>
    if gone.contains x.2.resCluster.toNat then t.setStream x.1 { t.stream x.1 with resCluster := 63 } else t) s

@[simp] theorem State.still_reclustered (s : State) (p : Nat) (new : Bytes) (gone : List Nat) :
    s.still.reclustered p new gone = (s.reclustered p new gone).still := by
  simp only [State.reclustered]
  rw [foldl_still fun t c => t.still_clusterGone c, foldl_still fun t c => rfl, State.still_openStreams]
  exact foldl_still (fun t x => by simp [State.still_ite]) _ _

/-- A section that has been applied: its image goes in service, or the one in service stays under the new section (R44). -/
def State.sectionServed (s : State) (p : Nat) (q : Partition) (new : Bytes) : State :=
  let named := fun (o : ImageSlot) => o.state == .loaded && o.digest == secDigest new && (secDigest new).any (· != 0)
  if named q.img0 then s.goInService p false
  else if named q.img1 then s.goInService p true
  else
    let s := if secClusters q.sect = secClusters new then s else s.installCode p
    let s := if secQuota q.sect = secQuota new then s else s.allocOut p
    s.retagScales p q.sect

@[simp] theorem State.still_sectionServed (s : State) (p : Nat) (q : Partition) (new : Bytes) :
    s.still.sectionServed p q new = (s.sectionServed p q new).still := by
  simp only [State.sectionServed, State.still_goInService, State.still_installCode, State.still_allocOut, ← State.still_ite,
    State.still_retagScales]

theorem State.applySection_eq (s : State) (p : Nat) : s.applySection p = match s.part? p with
    | none => s
    | some q => match q.nextSect with
      | none => s
      | some new =>
        let t := s.setPart p { q with sect := new, nextSect := none }
        let gone := (clustersOf q.sect).filter (fun c => !(clustersOf new).contains c && (t.cluster c).owner.map (·.val) == some p)
        (((t.reclustered p new gone).sectionServed p q new).recheckAdmission p true).commitApplied p := rfl

@[simp] theorem State.still_applySection (s : State) (p : Nat) : s.still.applySection p = (s.applySection p).still := by
  rw [State.applySection_eq, State.applySection_eq, State.still_part?]
  cases s.part? p with
  | none => rfl
  | some q =>
    dsimp only
    cases q.nextSect <;> simp

end Sys2Proof.Machine
end

section
/-! PROOFS. What the start of a queue pair's rate periods does not touch: spares, streams, the idle boundary and resets. -/

namespace Sys2Proof.Machine

@[simp] theorem State.still_corePhys (s : State) (c k : Nat) : s.still.corePhys c k = s.corePhys c k := rfl
@[simp] theorem State.still_freePositions (s : State) (cl : Nat) : s.still.freePositions cl = s.freePositions cl := rfl
@[simp] theorem State.still_spareTileFree (s : State) (ph : Nat) : s.still.spareTileFree ph = s.spareTileFree ph := rfl
@[simp] theorem State.still_physUnit (s : State) (u : Nat) : s.still.physUnit u = s.physUnit u := rfl
@[simp] theorem State.still_coreOwner (s : State) (c : Nat) : s.still.coreOwner c = s.coreOwner c := rfl
@[simp] theorem State.still_clockFloor (s : State) (c : Nat) : s.still.clockFloor c = s.clockFloor c := rfl
@[simp] theorem State.still_lastPass (s : State) (k ph : Nat) : s.still.lastPass k ph = s.lastPass k ph := rfl
@[simp] theorem State.still_bankSpent (s : State) (k kind : Nat) : s.still.bankSpent k kind = s.bankSpent k kind := rfl
@[simp] theorem State.still_clusterOwner (s : State) (n : Nat) : s.still.clusterOwner n = s.clusterOwner n := rfl
@[simp] theorem State.still_rolling (s : State) (cl : Nat) : s.still.rolling cl = s.rolling cl := rfl
@[simp] theorem State.still_stepOf (s : State) (p : Nat) : s.still.stepOf p = s.stepOf p := rfl
@[simp] theorem State.still_groupServes (s : State) (im : ImageInfo) (n : Nat) : s.still.groupServes im n = s.groupServes im n := rfl

@[simp] theorem State.still_useSpareTile (s : State) (c : Nat) (t : Fin 16) : s.still.useSpareTile c t = (s.useSpareTile c t).still := rfl

/-- The spare position `k` of a cluster serves core `core` (R482). -/
def State.positioned (s : State) (core k : Nat) (failed : Bool) : State :=
  let old := s.corePhys core 0
  let ph := s.physCore core
  let sp := s.spares
  let s := { s with spares := { sp with pos := tabPut sp.pos core k,
                                        failedCores := if failed then sp.failedCores ++ [ph] else sp.failedCores } }
  let s := s.wear (unitId 2 core 0) (s.corePhys core 0) 1 0 core old
  s.moveIsland core ph (s.physCore core)

theorem State.useSpareCore_eq (s : State) (core : Nat) (failed : Bool) : s.useSpareCore core failed =
    (s.freePositions (core / 32)).head?.map (fun k =>
      let s := s.positioned core k failed
      let c := s.cluster (core / 32)
      if (s.freePositions (core / 32)).isEmpty && !c.spareLow then
        (s.setCluster (core / 32) { c with spareLow := true }).raiseDev 0x8902 (b1 (core / 32))
      else s) := by
  unfold State.useSpareCore
  dsimp only
  cases s.freePositions (core / 32) with
  | nil => rfl
  | cons k l => exact (apply_ite some _ _ _).symm

@[simp] theorem State.still_positioned (s : State) (c k : Nat) (b : Bool) : s.still.positioned c k b = (s.positioned c k b).still := rfl

@[simp] theorem State.still_useSpareCore (s : State) (c : Nat) (b : Bool) : s.still.useSpareCore c b = (s.useSpareCore c b).map State.still := by
  rw [State.useSpareCore_eq, State.useSpareCore_eq, State.still_freePositions]
  cases (s.freePositions (c / 32)).head? with
  | none => rfl
  | some k => simp [State.still_ite]

@[simp] theorem State.still_applyUnit (s : State) (u : UnitWait) : s.still.applyUnit u = (s.applyUnit u).map State.still := by
  simp [State.applyUnit, apply_ite (Option.map State.still)]

/-- The record of a tested unit and its wear record stand (R487). -/
def State.testNoted (s : State) (id : BitVec 32) (unit : W64) (phys status sig : Nat) : State :=
  let out := status ≠ 2 && (s.tests.any (fun (t : SelfTest) => t.id == id && t.rolled.any (fun r => r.1 == unit)))
  let kind := bits unit.toNat 56 8
  let u := if !out then unit.toNat else if kind = 1 then unitId 1 (unitCore unit.toNat) 0xFFFF else unitId kind 0xFFFF 0
  let core := if out && kind ≠ 1 then 0xFFFF else unitCore unit.toNat
  let rec' := patch (unitRecord u phys 5 status core sig s.powerMin) 24 (b4 s.nextWear)
  let upd := fun (t : SelfTest) => if t.id = id then
      { t with todo := t.todo.filter (fun v => v != unit), rolled := t.rolled.filter (fun r => r.1 != unit),
               records := t.records ++ [rec'] } else t
  ({ s with tests := s.tests.map upd }).wear u phys 5 status core sig

theorem State.endUnitTest_eq (s : State) (id : BitVec 32) (unit : W64) (phys status sig : Nat) : s.endUnitTest id unit phys status sig =
    match (s.testNoted id unit phys status sig).tests.find? (fun (t : SelfTest) => t.id == id) with
    | none => s.testNoted id unit phys status sig
    | some t => match t.mbx with
      | some m =>
        if t.todo.isEmpty then
          ({ s.testNoted id unit phys status sig with
            tests := (s.testNoted id unit phys status sig).tests.map (fun (t : SelfTest) =>
              if t.id = id then { t with mbx := none } else t) } : State).ok m (b4 id.toNat)
        else s.testNoted id unit phys status sig
      | none => s.testNoted id unit phys status sig := rfl

@[simp] theorem State.still_testNoted (s : State) (id : BitVec 32) (u : W64) (ph st sig : Nat) :
    s.still.testNoted id u ph st sig = (s.testNoted id u ph st sig).still := rfl

@[simp] theorem State.still_endUnitTest (s : State) (id : BitVec 32) (u : W64) (ph st sig : Nat) :
    s.still.endUnitTest id u ph st sig = (s.endUnitTest id u ph st sig).still := by
  rw [State.endUnitTest_eq, State.endUnitTest_eq, State.still_testNoted, State.still_tests]
  cases (s.testNoted id u ph st sig).tests.find? (fun t => t.id == id) with
  | none => rfl
  | some t =>
    dsimp only
    cases t.mbx with
    | none => rfl
    | some m =>
      dsimp only
      rw [State.still_ite]
      exact if_congr Iff.rfl (State.still_ok { s.testNoted id u ph st sig with
        tests := (s.testNoted id u ph st sig).tests.map (fun t => if t.id = id then { t with mbx := none } else t) } ..) rfl

@[simp] theorem State.still_rollUnit (s : State) (u : UnitWait) (t : Nat) : s.still.rollUnit u t = (s.rollUnit u t).still := by
  simp only [State.rollUnit, State.still_physCore, State.still_physUnit, State.still_applyUnit, State.still_endUnitTest]
  cases s.applyUnit u <;> rfl

@[simp] theorem State.still_reportRetired (s : State) (u : UnitWait) (ph : Nat) : s.still.reportRetired u ph = (s.reportRetired u ph).still :=
  s.still_raise ..

@[simp] theorem State.still_retireNow (s : State) (u : UnitWait) : s.still.retireNow u = (s.retireNow u).map State.still := by
  simp only [State.retireNow, State.still_physUnit, State.still_applyUnit]
  cases s.applyUnit u with
  | none => rfl
  | some v => simp [State.still_ite]

@[simp] theorem State.still_slowIsland (s : State) (c : Nat) : s.still.slowIsland c = (s.slowIsland c).still := by
  simp only [State.slowIsland, State.still_core, State.still_clockFloor, State.still_free, State.still_modCore, State.still_ite]
  rfl

@[simp] theorem State.still_forgetDma (s : State) (c : Nat) (l : List (Fin 16)) : s.still.forgetDma c l = (s.forgetDma c l).still := by
  simp only [State.forgetDma, State.still_ite]
  refine if_congr Iff.rfl rfl (congrArg (fun l => { s with qps := l }) ?_)
  show List.map _ (List.map _ s.qps) = List.map _ (List.map _ s.qps)
  rw [List.map_map, List.map_map]
  rfl

@[simp] theorem State.still_stopContext (s : State) (id : Nat) (x : Context) (st : SeqState) :
    s.still.stopContext id x st = (s.stopContext id x st).still := by
  simp only [State.stopContext]
  rw [foldl_still fun t c => by simp [State.still_ite]]
  exact foldl_still (fun t v => t.still_forgetDma ..) _ _

@[simp] theorem State.still_dropWaiting (s : State) (i : Nat) : s.still.dropWaiting i = (s.dropWaiting i).still := by
  simp only [State.dropWaiting, State.still_stream]
  split <;> simp

@[simp] theorem State.still_sendMirror (s : State) (peer : Nat) (r : Config.MirrorRecord) :
    s.still.sendMirror peer r = (s.sendMirror peer r).still := by
  simp only [State.sendMirror, State.still_writeDomain, map_getD_still]

@[simp] theorem State.still_dropWork (s : State) (p i : Nat) : s.still.dropWork p i = (s.dropWork p i).still := s.still_modPart ..
@[simp] theorem State.still_unbindSlots (s : State) (i : Nat) : s.still.unbindSlots i = (s.unbindSlots i).still := rfl
@[simp] theorem State.still_answer (s : State) (l : List (Fin 64)) (st : Nat) : s.still.answer l st = (s.answer l st).still :=
  foldl_still (fun t _ => t.still_fail ..) l s

@[simp] theorem State.still_orphan (s : State) (i code : Nat) : s.still.orphan i code = (s.orphan i code).still := by
  simp only [State.orphan, State.still_stream, State.still_stepOf, State.still_now, State.still_setStream, State.still_modPart,
    State.still_dropWork]
  rfl

/-- A spare column or row of a bank is used (R31, R482). -/
def State.spareLine (s : State) (k : Nat) (useCol : Bool) : State :=
  let sp := s.spares
  if useCol then { s with spares := { sp with bankCols := tabPut sp.bankCols k (tabGet sp.bankCols 0 k + 1) } }
  else { s with spares := { sp with bankRows := tabPut sp.bankRows k (tabGet sp.bankRows 0 k + 1) } }

@[simp] theorem State.still_spareLine (s : State) (k : Nat) (b : Bool) : s.still.spareLine k b = (s.spareLine k b).still := by
  cases b <;> rfl

/-- A cluster counts a spare row of one of its SRAM banks (R31). -/
def State.countSpare (s : State) (a : Nat) (on : Bool) : State :=
  if on then s.setCluster a { s.cluster a with sparesUsed := satAdd (s.cluster a).sparesUsed 1 } else s

@[simp] theorem State.still_countSpare (s : State) (a : Nat) (b : Bool) : s.still.countSpare a b = (s.countSpare a b).still := by
  cases b <;> rfl

theorem State.repairBank_eq (s : State) (kind a b core : Nat) (col : Bool) : s.repairBank kind a b core col =
    if s.bankSpent (bankKey kind a b) kind then none
    else
      let useCol := decide (tabGet s.spares.bankCols 0 (bankKey kind a b) < 2) &&
        (col || decide (spareRows kind ≤ tabGet s.spares.bankRows 0 (bankKey kind a b)))
      let s := (s.spareLine (bankKey kind a b) useCol).countSpare a (kind = 4 && !useCol)
      let ph := if kind = 3 then s.corePhys core b else if kind = 4 then physOf (a / 12) (a % 12) 0 b else 0
      some (s.wear (unitId kind a (if kind = 4 then b else 0)) ph 3 0 core 0) := rfl

@[simp] theorem State.still_repairBank (s : State) (k a b c : Nat) (col : Bool) :
    s.still.repairBank k a b c col = (s.repairBank k a b c col).map State.still := by
  simp only [State.repairBank_eq, State.still_bankSpent, State.still_spares, State.still_spareLine, State.still_countSpare,
    State.still_corePhys, State.still_wear, apply_ite (Option.map State.still), Option.map_none, Option.map_some]
  rfl

@[simp] theorem State.still_failBank (s : State) (cl b : Nat) : s.still.failBank cl b = (s.failBank cl b).still := by
  simp [State.failBank, State.still_ite]

@[simp] theorem State.still_returnRolled (s : State) (u : W64) (ph : Nat) : s.still.returnRolled u ph = (s.returnRolled u ph).still := by
  simp only [State.returnRolled, State.still_ite]
  rfl

/-- A unit that was rolled out for test `id` gives its place back, if it passed, and its test ends as not made (R487). -/
def State.stopRoll (u : State) (id : BitVec 32) (r : W64 × Nat) : State :=
  let n := r.1.toNat
  let at' := physOfCore r.2 (if bits n 56 8 = 1 then bits n 16 16 else 0)
  let u := if u.lastPass (bits n 56 8) at' then u.returnRolled r.1 r.2 else u
  u.endUnitTest id r.1 at' 2 0

@[simp] theorem State.still_stopRoll (u : State) (id : BitVec 32) (r : W64 × Nat) : u.still.stopRoll id r = (u.stopRoll id r).still := by
  simp only [State.stopRoll, State.still_lastPass, State.still_returnRolled, ← State.still_ite, State.still_endUnitTest]

@[simp] theorem State.still_stopRolls (s : State) (h : W64 → Nat → Bool) : s.still.stopRolls h = (s.stopRolls h).still :=
  foldl_still (f := fun (t : State) (v : SelfTest) =>
    (v.rolled.filter (fun (r : W64 × Nat) => h r.1 r.2)).foldl (fun u r => u.stopRoll v.id r) t)
    (fun t v => foldl_still (fun u r => u.still_stopRoll v.id r) _ t) s.tests s

@[simp] theorem State.still_wantCore (s : State) (c : Nat) : s.still.wantCore c = (s.wantCore c).still := by
  simp [State.wantCore, State.still_ite]

/-- A core without a spare position is lost, which a wear record notes (R482). -/
def State.coreLost (s : State) (core : Nat) : State :=
  ({ s with spares := { s.spares with lost := s.spares.lost ++ [core], failedCores := s.spares.failedCores ++ [s.physCore core] } } : State).wear
    (unitId 2 core 0) (s.corePhys core 0) 8 0 core 0

@[simp] theorem State.still_coreLost (s : State) (c : Nat) : s.still.coreLost c = (s.coreLost c).still := rfl

theorem State.markLost_eq (s : State) (core : Nat) : s.markLost core = if s.spares.lost.contains core then s
    else (s.coreLost core).raise 0x8901 (((s.coreLost core).coreOwner core).getD 0xFF) 0 0 (pack [b2 core, b4 (s.corePhys core 0)]) := rfl

@[simp] theorem State.still_markLost (s : State) (c : Nat) : s.still.markLost c = (s.markLost c).still := by
  simp only [State.markLost_eq, State.still_spares, State.still_coreLost, State.still_coreOwner, State.still_corePhys, State.still_raise,
    State.still_ite]

theorem State.replaceCore_snd (s : State) (c : Nat) :
    (s.replaceCore c).2 = ((s.wantCore c).useSpareCore c true).getD ((s.wantCore c).markLost c) := by
  unfold State.replaceCore
  dsimp only
  cases (s.wantCore c).useSpareCore c true <;> rfl

@[simp] theorem State.still_replaceCore (s : State) (c : Nat) : (s.still.replaceCore c).2 = (s.replaceCore c).2.still := by
  simp only [State.replaceCore_snd, State.still_wantCore, State.still_useSpareCore, State.still_markLost, map_getD_still]

@[simp] theorem State.still_repairScratch (s : State) (u : Nat) : s.still.repairScratch u = (s.repairScratch u).still := by
  simp [State.repairScratch, State.still_ite]

/-- A mirrored stream that closes tells its shadow (R64). -/
def State.tellShadow (s : State) (x : Stream) : State :=
  match x.mirrorSide with
  | some m => s.sendMirror m.peer.toNat (.close m.shadow)
  | none => s

@[simp] theorem State.still_tellShadow (s : State) (x : Stream) : s.still.tellShadow x = (s.tellShadow x).still := by
  simp only [State.tellShadow]
  cases x.mirrorSide <;> simp

/-- A closed stream's page table and tail area return to its partition (R60). -/
def State.releasePages (s : State) (p i : Nat) (x : Stream) : State :=
  if x.pageTable = 0 then s
  else match s.part? p with
    | some q => (((s.release p x.pageTable).release p x.tailAddr).writeNat (q.directory + 8 * i) 8 0)
    | none => s

@[simp] theorem State.still_releasePages (s : State) (p i : Nat) (x : Stream) :
    s.still.releasePages p i x = (s.releasePages p i x).still := by
  simp only [State.releasePages, State.still_part?]
  cases s.part? p <;> simp [State.still_ite]

/-- A closed stream's archive ring is kept for its partition and its work and slots are dropped (R60, R63). -/
def State.keepArchive (s : State) (p i : Nat) (x : Stream) : State :=
  let s := s.modPart p (fun q => { q with pastRings := s.archHeld.filter (fun h => h.1 == x.archAddr) ++ q.pastRings.filter (fun h => h.1 != x.archAddr) })
  let s := { s with archHeld := s.archHeld.filter (fun h => h.1 != x.archAddr) }
  (s.dropWork p i).unbindSlots i

@[simp] theorem State.still_keepArchive (s : State) (p i : Nat) (x : Stream) : s.still.keepArchive p i x = (s.keepArchive p i x).still := by
  have hheld : ∀ (t : State) l, ({ t.still with archHeld := l } : State) = ({ t with archHeld := l } : State).still := fun _ _ => rfl
  simp only [State.keepArchive, State.still_archHeld, State.still_modPart, hheld, State.still_dropWork, State.still_unbindSlots]

/-- The record of a closed stream (R60, R63). -/
def State.shut (s : State) (i : Nat) : State :=
  let x := s.stream i
  let s := s.setStream i { x with state := .closed, drain := false, resume := false, chunks := [], oldestAccept := 0,
                                  binding := zeros 128, closedOrder := s.closeCtr + 1, mirror := false, mirrorSide := none,
                                  shadow := none, resCluster := 63, pageTable := 0, tailAddr := 0, noPage := false,
                                  archAddr := 0, stateAddr := 0, migrate := none, openMbx := none, drainMbx := [],
                                  closeReq := false, closeMbx := [], intake := Stream.empty.intake,
                                  outlet := Stream.empty.outlet }
  let s := { s with closeCtr := s.closeCtr + 1 }
  s.writeRaw (bindingTable + 128 * i) (zeros 128)

@[simp] theorem State.still_shut (s : State) (i : Nat) : s.still.shut i = (s.shut i).still := rfl

/-- The commands that waited for a stream are answered when it closes (R63). -/
def State.answerAll (s : State) (x : Stream) (drained : Bool) : State :=
  let s := s.answer x.drainMbx (if drained then stOk else stAborted)
  let s := s.answer x.closeMbx stOk
  let s := s.answer x.openMbx.toList stAborted
  let s := s.answer ((x.migrate.map (fun v => v.2)).toList) stAborted
  s.answer ((x.mirrorSide.bind (·.waiting)).toList) stAborted

@[simp] theorem State.still_answerAll (s : State) (x : Stream) (b : Bool) : s.still.answerAll x b = (s.answerAll x b).still := by
  simp only [State.answerAll, State.still_answer]

theorem State.closeStream_eq (s : State) (i : Nat) (drained : Bool) : s.closeStream i drained =
    let x := s.stream i
    let p := x.part.val
    if x.state = .closed then s
    else
      let t := ((s.dropWaiting i).tellShadow x).dropMoves p i
      let t := (t.modPart p (fun q => q.giveSlots (t.heldSlots x))).releasePages p i x
      ((((t.release p x.stateAddr.toNat).keepArchive p i x).shut i).answerAll x drained).recheckAdmission p false := rfl

@[simp] theorem State.still_closeStream (s : State) (i : Nat) (b : Bool) : s.still.closeStream i b = (s.closeStream i b).still := by
  simp only [State.closeStream_eq, State.still_stream, State.still_dropWaiting, State.still_tellShadow, State.still_dropMoves,
    State.still_heldSlots, State.still_modPart, State.still_releasePages, State.still_release, State.still_keepArchive, State.still_shut,
    State.still_answerAll, State.still_recheckAdmission, State.still_ite]

@[simp] theorem State.still_teardown (s : State) (id c k pc tag : Nat) : s.still.teardown id c k pc tag = (s.teardown id c k pc tag).still := by
  simp only [State.teardown, State.still_ctx?]
  cases s.ctx? id with
  | none => rfl
  | some x =>
    dsimp only
    rw [State.still_stopContext]
    have hstreams := foldl_still (f := fun (t : State) (i : Fin 16384) =>
      if (t.stream i.val).closeReq then t.closeStream i.val false else t.orphan i.val c) (fun t i => by simp [State.still_ite]) x.streams
      { s.stopContext id x .halted with ctxs := tabDel (s.stopContext id x .halted).ctxs id }
    exact (congrArg (fun t => State.raise t _ _ _ _ _) hstreams).trans (State.still_raise ..)

@[simp] theorem State.still_dropLost (s was : State) : s.still.dropLost was.still = (s.dropLost was).still :=
  foldl_still (fun t _ => t.still_teardown ..) _ s

@[simp] theorem State.still_applyWait (s : State) (p : Nat) (u : UnitWait) : s.still.applyWait p u = (s.applyWait p u).still := by
  simp only [State.applyWait, State.still_rolling, State.still_modPart, State.still_rollUnit, State.still_retireNow, State.still_fail,
    State.still_slowIsland, State.still_repairScratch, State.still_dropLost, map_getD_still]
  split
  · exact (State.still_ite ..).symm
  · cases s.retireNow u <;> simp
  · exact (State.still_ite ..).symm

@[simp] theorem State.still_applyUnits (s : State) (p : Nat) : s.still.applyUnits p = (s.applyUnits p).still := by
  simp only [State.applyUnits, State.still_part?]
  cases s.part? p with
  | none => rfl
  | some q => exact foldl_still (fun t u => t.still_applyWait p u) _ (s.setPart p { q with unitWaits := [] })

@[simp] theorem State.still_rebuildUnit (s : State) (p u : Nat) : s.still.rebuildUnit p u = (s.rebuildUnit p u).still := by
  simp only [State.rebuildUnit, State.still_part?]
  cases s.part? p with
  | none => rfl
  | some q =>
    dsimp only
    cases q.image? with
    | none => rfl
    | some im =>
      dsimp only
      rw [State.still_ite]
      refine if_congr Iff.rfl (foldl_still (fun t w => by simp [State.still_ite]) _ s) ?_
      exact foldl_still (fun t x => by simp [State.still_ite]) _ (s.writeRaw (segmentBase (u - 1536) im.program.length) im.program)

/-- A stream's migration takes effect or is refused at the boundary (R73). -/
def State.applyMigration (t : State) (p : Nat) (q : Partition) (x : Nat × Stream) : State :=
  match x.2.migrate with
  | none => t
  | some (g, m) =>
    let good := match q.image? with
      | some im => (coreGroups q.sect im).contains g && t.groupServes im g
      | none => false
    let y := t.stream x.1
    if good then
      let t := t.setStream x.1 { y with migrate := none, placeNext := some g, coreGroup := BitVec.ofNat 10 g }
      let t := match q.image? with
        | some im => t.relayout p im x.1 false
        | none => t
      let t := t.modPart p (fun v => { v with seeing := v.seeing.map (fun c => { c with migrated := c.migrated + 1 }) })
      t.ok m []
    else (t.setStream x.1 { y with migrate := none }).fail m stTarget

@[simp] theorem State.still_applyMigration (s : State) (p : Nat) (q : Partition) (x : Nat × Stream) :
    s.still.applyMigration p q x = (s.applyMigration p q x).still := by
  simp only [State.applyMigration, State.still_groupServes, State.still_stream, State.still_setStream, State.still_fail]
  cases x.2.migrate with
  | none => rfl
  | some v =>
    obtain ⟨g, m⟩ := v
    dsimp only
    cases q.image? <;> simp [State.still_ite]

theorem State.applyMigrations_eq (s : State) (p : Nat) : s.applyMigrations p = match s.part? p with
    | none => s
    | some q => (s.openStreams p).foldl (fun t x => t.applyMigration p q x) s := rfl

@[simp] theorem State.still_applyMigrations (s : State) (p : Nat) : s.still.applyMigrations p = (s.applyMigrations p).still := by
  rw [State.applyMigrations_eq, State.applyMigrations_eq, State.still_part?]
  cases s.part? p with
  | none => rfl
  | some q => exact foldl_still (fun t x => t.still_applyMigration ..) _ s

@[simp] theorem State.still_idleBoundary (s : State) (p : Nat) : s.still.idleBoundary p = (s.idleBoundary p).still := by
  simp only [State.idleBoundary, State.still_part?]
  cases s.part? p with
  | none => rfl
  | some q =>
    have hrebuild := foldl_still (f := fun (t : State) u => t.rebuildUnit p u) (fun t u => t.still_rebuildUnit p u)
    simp only [State.still_applySection, State.still_applyUnits, State.still_part?, hrebuild, State.still_modPart,
      State.still_applyMigrations, State.still_ite]

@[simp] theorem State.still_deviceNumber (s : State) : s.still.deviceNumber = s.deviceNumber.still := by
  have hany : s.still.qps.any (fun q => q.2.state == .connected) = s.qps.any (fun q => q.2.state == .connected) := List.any_map ..
  simp only [State.deviceNumber, State.still_dev, hany]
  cases s.dev.deviceNoNext with
  | none => rfl
  | some n =>
    dsimp only
    rw [State.still_ite]
    rfl

@[simp] theorem State.still_cutRing (s : State) (n : Nat) (r : Ring) : s.still.cutRing n r = (s.cutRing n r).still := by
  have hfree := foldl_still (f := fun (t : State) bs => t.freeFor bs) (fun t bs => t.still_freeFor bs)
  simp only [State.cutRing, State.still_ring, hfree, State.still_setRing]

@[simp] theorem State.still_cutRings (s : State) (p : Nat) (b : Bool) : s.still.cutRings p b = (s.cutRings p b).still :=
  foldl_still (f := fun (t : State) n => if (t.ring n).owner.toNat = p then
    t.cutRing n (if b then { Ring.cold with owner := (t.ring n).owner } else Ring.cold) else t)
    (fun t n => by simp [State.still_ite]) (List.range 16) s

@[simp] theorem State.still_newEpoch (s : State) (e : BitVec 24) : s.still.newEpoch e = ((s.newEpoch e).1, (s.newEpoch e).2.still) := rfl

/-- The commands whose response is under way on the queue pairs `l` (R430). -/
def lostResponses (l : Tab Qp) : List (Fin 64) :=
  l.flatMap (fun (x : Nat × Qp) => x.2.out.filterMap (fun o => match o.use with
    | .response k => some k
    | _ => none))

/-- Partition `p`'s queue pairs are no more (R62). -/
def State.cutQps (s : State) (p : Nat) : State :=
  { s with qps := s.qps.filter (fun (x : Nat × Qp) => x.2.owner != p),
           deadQps := s.deadQps ++ (s.qps.filter (fun (x : Nat × Qp) => x.2.owner == p)).map (fun (x : Nat × Qp) => BitVec.ofNat 24 x.1) }

theorem State.still_ofOwner (s : State) (p : Nat) : s.still.qps.filter (fun (x : Nat × Qp) => x.2.owner == p) =
    (s.qps.filter (fun (x : Nat × Qp) => x.2.owner == p)).map (fun e => (e.1, e.2.still)) := List.filter_map ..

theorem lostResponses_still (l : Tab Qp) : lostResponses (l.map (fun e => (e.1, e.2.still))) = lostResponses l := List.flatMap_map ..

@[simp] theorem State.still_cutQps (s : State) (p : Nat) : s.still.cutQps p = (s.cutQps p).still := by
  have hkept : s.still.qps.filter (fun (x : Nat × Qp) => x.2.owner != p) =
      (s.qps.filter (fun (x : Nat × Qp) => x.2.owner != p)).map (fun e => (e.1, e.2.still)) := List.filter_map ..
  simp only [State.cutQps, hkept, State.still_ofOwner, List.map_map]
  rfl

theorem State.finishReset_eq (s : State) (m : Fin 64) : s.finishReset m =
    match s.parts.find? (fun (q : Nat × Partition) => q.2.resetting == some (m, true)) with
    | none => s
    | some (p, q) =>
      let e := s.newEpoch q.epoch
      let t := ((e.2.cutQps p).cutRings p true).setPart p { q with epoch := e.1, resetting := none }
      ((lostResponses (e.2.qps.filter (fun (x : Nat × Qp) => x.2.owner == p))).foldl (fun t k => t.respLost k) t).deviceNumber.idleBoundary p := rfl

@[simp] theorem State.still_finishReset (s : State) (m : Fin 64) : s.still.finishReset m = (s.finishReset m).still := by
  have hlost := foldl_still (f := fun (t : State) k => t.respLost k) (fun t k => t.still_respLost k)
  simp only [State.finishReset_eq, State.still_parts]
  cases s.parts.find? (fun (q : Nat × Partition) => q.2.resetting == some (m, true)) with
  | none => rfl
  | some e =>
    simp only [State.still_newEpoch, State.still_ofOwner, lostResponses_still, State.still_cutQps, State.still_cutRings,
      State.still_setPart, hlost, State.still_deviceNumber, State.still_idleBoundary]

@[simp] theorem State.still_resetAfter (s : State) (m : Fin 64) : s.still.resetAfter m = (s.resetAfter m).still := by
  simp [State.resetAfter, State.still_ite]

@[simp] theorem State.still_endResets (s : State) : s.still.endResets = s.endResets.still := by
  refine foldl_still (fun t v => ?_) s.parts s
  split <;> simp

@[simp] theorem State.still_drainRing (k n : Nat) (s : State) : State.drainRing k s.still n = (State.drainRing k s n).still := by
  induction k generalizing s with
  | zero => rfl
  | succ k ih =>
    simp only [State.drainRing, State.still_ring, State.still_putRecord]
    cases (s.ring n).waiting with
    | nil => rfl
    | cons bs rest =>
      dsimp only
      cases s.putRecord n bs <;> simp [ih]

@[simp] theorem State.still_drainRings (s : State) (n : Nat) : s.still.drainRings n = (s.drainRings n).still := by
  have hrings := foldl_still (f := fun (t : State) k => if (t.ring k).enabled && (t.ring k).qpn.toNat == n then
    State.drainRing (t.ring k).waiting.length t k else t) (fun t k => by simp [State.still_ite]) (List.range 16) s
  exact (congrArg State.endResets hrings).trans (State.still_endResets _)

end Sys2Proof.Machine
end

section
/-! PROOFS. The network commands (R380, R384, R386, R389, R390, R402, R405, R406, R422, R433). -/

namespace Sys2Proof.Machine

/-! ### Checks and parameters -/

/-- A command that Lortus takes has no faulty parameter (R423). -/
theorem State.Takes.range {s : State} {m : Fin 64} {c : CmdSpec} (h : s.Takes m c) : c.range s.popped (s.page m) = none := by
  obtain ⟨-, -, -, hcheck⟩ := h
  have hparam : c.paramFault s.popped (s.page m) = none := by
    unfold State.checkCmd at hcheck
    dsimp only at hcheck
    split at hcheck
    · cases hcheck
    · split at hcheck
      · cases hcheck
      · split at hcheck
        · cases hcheck
        · assumption
  unfold CmdSpec.paramFault at hparam
  cases hrange : c.range s.popped (s.page m) with
  | none => rfl
  | some f =>
    rw [hrange] at hparam
    cases hgap : (gapFault (s.page m) 0x40 c.sizes).toList <;> simp [hgap, listMin?] at hparam

theorem length_slice (bs : Bytes) (off len : Nat) : (slice bs off len).length = len := by
  simp [slice, zeros]

theorem getElem_slice (bs : Bytes) (off len i : Nat) (h : i < (slice bs off len).length) : (slice bs off len)[i] = bs.getD (off + i) 0 := by
  have hlen : i < len := length_slice bs off len ▸ h
  by_cases hi : off + i < bs.length
  · have hin : i < ((bs.drop off).take len).length := by simp; omega
    simp [slice, List.getElem_append_left hin, List.getElem?_eq_getElem hi]
  · have hout : ((bs.drop off).take len).length ≤ i := by simp; omega
    simp [slice, zeros, List.getElem_append_right hout, List.getElem?_eq_none (Nat.le_of_not_lt hi)]

theorem slice_slice (bs : Bytes) {a n off len : Nat} (h : off + len ≤ n) : slice (slice bs a n) off len = slice bs (a + off) len := by
  refine List.ext_getElem (by rw [length_slice, length_slice]) fun i hi _ => ?_
  have hin : off + i < (slice bs a n).length := by
    rw [length_slice] at hi ⊢
    omega
  rw [getElem_slice, getElem_slice, List.getD_eq_getElem _ _ hin, getElem_slice, Nat.add_assoc]

theorem bytesToNat_append_zeros (bs : Bytes) (n : Nat) : bytesToNat (bs ++ zeros n) = bytesToNat bs := by
  induction bs with
  | cons b bs ih => rw [List.cons_append, bytesToNat, bytesToNat, ih]
  | nil =>
    induction n with
    | zero => rfl
    | succ n ih =>
      have hz : bytesToNat (zeros (n + 1)) = 256 * bytesToNat (zeros n) := Nat.zero_add _
      rw [List.nil_append] at ih ⊢
      rw [hz, ih]
      rfl

theorem le_slice (bs : Bytes) {a n off len : Nat} (h : off + len ≤ n) : le (slice bs a n) off len = le bs (a + off) len := by
  have hle : ∀ (l : Bytes) (o : Nat), le l o len = bytesToNat (slice l o len) := fun l o => (bytesToNat_append_zeros ..).symm
  rw [hle, hle, slice_slice bs h]

/-! ### Ports, addresses, congestion parameters and the management service -/

theorem netPortConfig_acts : Acts .netPortConfig specNetPortConfig (fun _ _ _ => none) (fun _ pg s =>
    (List.range 4).foldl (fun u k => (u.macDown (4 * le pg 0x40 1 + k) 0).modMac (4 * le pg 0x40 1 + k) (fun x => { x with degraded := 0 }))
      (s.modPort (le pg 0x40 1) (fun x => { x with ctl := BitVec.ofNat 64 (le pg 0x48 8) }))) noData :=
  acts_of_ok fun _ _ => rfl

theorem netAddrSet_acts : Acts .netAddrSet specNetAddrSet (fun _ _ _ => none) (fun _ pg s => s.modMac (le pg 0x40 1) (fun x => { x with
    vlan := BitVec.ofNat 16 (le pg 0x44 2), prefix4 := BitVec.ofNat 8 (le pg 0x41 1), prefix6 := BitVec.ofNat 8 (le pg 0x42 1),
    ip4 := BitVec.ofNat 32 (le pg 0x48 4), gw4 := BitVec.ofNat 32 (le pg 0x4C 4),
    ip6 := BitVec.ofNat 128 (le pg 0x50 16), gw6 := BitVec.ofNat 128 (le pg 0x60 16) })) noData :=
  acts_of_ok fun _ _ => rfl

theorem netCcConfig_acts : Acts .netCcConfig specNetCcConfig (fun _ _ _ => none) (fun _ pg s => { s with
    cc := tabPut s.cc (le pg 0x40 1) (CcParams.mk (le pg 0x41 1) (le pg 0x42 1) (le pg 0x44 2) (le pg 0x46 2) (le pg 0x48 2)
      (le pg 0x4A 2) (le pg 0x4C 2) (BitVec.ofNat 32 (le pg 0x50 4)) (BitVec.ofNat 32 (le pg 0x54 4))) }) noData :=
  acts_of_ok fun _ _ => rfl

/-- The prefixes that NET_MGMT_CONFIG lets in (R402); an entry of zeros names none (log 24). -/
def allowOf (entry : Nat → Bytes) (addr len : Nat → Nat) : List (BitVec 128 × Nat) :=
  (List.range 16).filterMap (fun k => if (entry k).all (· == 0) then none else some (BitVec.ofNat 128 (addr k), len k))

theorem allowOf_page (pg : Bytes) : allowOf (fun k => slice (slice pg 0x58 384) (24 * k) 24)
      (fun k => le (slice (slice pg 0x58 384) (24 * k) 24) 0 16) (fun k => le (slice (slice pg 0x58 384) (24 * k) 24) 16 1) =
    allowOf (fun k => slice pg (0x58 + 24 * k) 24) (fun k => le pg (0x58 + 24 * k) 16) (fun k => le pg (0x58 + 24 * k + 16) 1) := by
  refine List.filterMap_congr fun k hk => ?_
  have hin : 24 * k + 24 ≤ 384 := by have := List.mem_range.mp hk; omega
  simp only [slice_slice pg hin, le_slice pg (show 0 + 16 ≤ 24 by decide), le_slice pg (show 16 + 1 ≤ 24 by decide)]
  rfl

theorem netMgmtConfig_acts : Acts .netMgmtConfig specNetMgmtConfig (fun _ _ _ => none) (fun _ pg s => { s with mgmt := { s.mgmt with
    prefix4 := BitVec.ofNat 8 (le pg 0x40 1), prefix6 := BitVec.ofNat 8 (le pg 0x41 1), udpPort := BitVec.ofNat 16 (le pg 0x42 2),
    ip4 := BitVec.ofNat 32 (le pg 0x44 4), ip6 := BitVec.ofNat 128 (le pg 0x48 16),
    allow := some ((List.range 16).filterMap (fun k => if (slice pg (0x58 + 24 * k) 24).all (· == 0) then none
      else some (BitVec.ofNat 128 (le pg (0x58 + 24 * k) 16), le pg (0x58 + 24 * k + 16) 1))) } }) noData := by
  refine acts_of_body (fun _ _ => rfl) (fun _ _ _ _ _ => nofun) fun m pg t _ => ?_
  exact congrArg (fun l => ({ t with mgmt := { t.mgmt with
    prefix4 := BitVec.ofNat 8 (le pg 0x40 1), prefix6 := BitVec.ofNat 8 (le pg 0x41 1), udpPort := BitVec.ofNat 16 (le pg 0x42 2),
    ip4 := BitVec.ofNat 32 (le pg 0x44 4), ip6 := BitVec.ofNat 128 (le pg 0x48 16), allow := some l } } : State).ok m []) (allowOf_page pg)

/-! ### NET_QP_DESTROY -/

theorem netQpDestroy_acts : Acts .netQpDestroy specNetQpDestroy (fun _ pg s => if (s.qp? (le pg 0x40 4)).isSome then none else some (7, 0))
    (fun _ pg s => s.destroyQp (le pg 0x40 4) false) noData := by
  refine acts_of_check (good := fun _ pg t => (t.qp? (le pg 0x40 4)).isSome = true) (fun _ _ => rfl) (fun m pg t hnone => ?_) fun m pg t hsome => ?_
  · rw [Option.not_isSome_iff_eq_none.mp hnone]
    rfl
  · obtain ⟨q, hq⟩ := Option.isSome_iff_exists.mp hsome
    rw [hq]
    rfl

/-- A queue pair of a partition without messages goes and no other one does. -/
theorem State.destroyQp_qp? {s : State} {n : Nat} {q : Qp} (k : Bool) (hq : s.qp? n = some q) (hout : q.out = []) (howner : q.owner ≠ 16)
    (hno : s.dev.deviceNoNext = none) : (s.destroyQp n k).qp? n = none ∧ ∀ j : Nat, j ≠ n → (s.destroyQp n k).qp? j = s.qp? j := by
  have hqps : (s.destroyQp n k).qps = tabDel (s.setQp n { q with out := [] }).qps n := by
    simp [State.destroyQp, State.dropOut, hq, hout, howner, State.deviceNumber, hno]
  unfold State.qp?
  rw [hqps]
  exact ⟨tabGet?_tabDel_same .., fun j hj => (tabGet?_tabDel_ne _ hj).trans (State.setQp_qp_ne s _ hj)⟩

/-! ### NET_QP_CONNECT -/

theorem State.still_needHop (s : State) (m : Nat) (ip : BitVec 128) : s.still.needHop m ip = (s.needHop m ip).still := by
  simp only [State.needHop, State.still_mac, State.still_ite]
  exact if_congr Iff.rfl rfl (State.still_emit (s.setMac m _) _)

/-- What a command's answer is said of does not speak of the queue pairs before it. -/
theorem Replied.of_still {u w t : State} {m : Fin 64} {st d : Nat} {data : Bytes} (h : u.still = w.still) (hr : Replied w t m st d data) :
    Replied u t m st d data := by
  have hu : u = { w with qps := u.qps } := congrArg (fun v => { v with qps := u.qps }) h
  generalize u.qps = l at hu
  subst hu
  exact hr

/-- A queue pair connected as a page of NET_QP_CONNECT says, at rate `r` (R384, R389, R390); its rate periods begin as before. -/
def Qp.connectedBy (q : Qp) (pg : Bytes) (r : W32) : Qp := { q with
  state := .connected, peer := BitVec.ofNat 13 (le pg 0x44 2), host := le pg 0x46 1 == 1, mtu := le pg 0x47 1, tmo := le pg 0x48 1,
  retry := le pg 0x49 1, retriesLeft := le pg 0x49 1, remoteQpn := BitVec.ofNat 24 (le pg 0x4C 4),
  sqNext := BitVec.ofNat 24 (le pg 0x50 4), acked := BitVec.ofNat 24 (le pg 0x50 4) - 1, rqNext := BitVec.ofNat 24 (le pg 0x54 4),
  remoteKey := BitVec.ofNat 32 (le pg 0x58 4), vaBase := BitVec.ofNat 64 (le pg 0x60 8), remoteIp := BitVec.ofNat 128 (le pg 0x68 16),
  out := [], rc := r, rt := r, alpha := 0x3F800000, rounds := 0, lastCnpSent := none }

/-- A queue pair whose rate periods begin at `now` (R390). -/
def Qp.begun (q : Qp) (now : W64) : Qp := { q with alphaFrom := now, incFrom := now }

/-- Queue pair `n` is `x`, its next hop is asked for and the rings that it serves write what waits. -/
def State.connectQp (s : State) (n : Nat) (x : Qp) : State := ((s.setQp n x).needHop x.mac.val x.remoteIp).drainRings n

/-- What the connection leaves but for the queue pairs does not depend on when its rate periods began. -/
theorem State.connectQp_still (s : State) (n : Nat) {x y : Qp} (h : x.still = y.still) : (s.connectQp n x).still = (s.connectQp n y).still := by
  have hmac : x.mac = y.mac := (congrArg Qp.mac h :)
  have hip : x.remoteIp = y.remoteIp := (congrArg Qp.remoteIp h :)
  unfold State.connectQp
  rw [← State.still_drainRings, ← State.still_drainRings, ← State.still_needHop, ← State.still_needHop, ← State.still_setQp,
    ← State.still_setQp, h, hmac, hip]

section
variable {s : State} {m : Fin 64} {n : Nat} (h : s.Takes m specNetQpConnect) (hn : n = le (s.page m) 0x40 4)
include h hn

theorem exec_netQpConnect : exec (.netQpConnect m) s = .next (match s.qp? n with
    | none => s.popped.fail m 7
    | some q =>
      if le (s.page m) 0x44 2 = s.dev.deviceNo.toNat || (s.qpFor q.owner (le (s.page m) 0x44 2)).isSome then s.popped.fail m 7
      else if q.state == .connected then s.popped.fail m 3
      else if ((s.part? q.owner).map (fun x => !x.settled)).getD false then s.popped.fail m 8
      else (s.popped.connectQp n ((q.connectedBy (s.page m) (rateWord (s.lineMbps q.mac.val))).begun s.now)).ok m []) := by
  have hexec : exec (.netQpConnect m) s = execNetQpConnect m s := rfl
  rw [hexec, execNetQpConnect, State.runCmd_takes _ _ _ _ h]
  subst hn
  rfl

theorem netQpConnect_refused {st : Nat} (hwhy : (match s.qp? n with
      | none => some 7
      | some q => if le (s.page m) 0x44 2 = s.dev.deviceNo.toNat ∨ (s.qpFor q.owner (le (s.page m) 0x44 2)).isSome = true then some 7
        else if q.state = .connected then some 3 else if (s.part? q.owner).any (fun x => !x.settled) = true then some 8
        else none) = some st) : exec (.netQpConnect m) s = .next (s.popped.fail m st) := by
  rw [exec_netQpConnect h hn]
  refine congrArg Host.Outcome.next ?_
  cases hq : s.qp? n with
  | none =>
    rw [hq] at hwhy
    cases hwhy
    rfl
  | some q =>
    rw [hq] at hwhy
    dsimp only at hwhy ⊢
    split at hwhy
    · next hpeer =>
      cases hwhy
      exact if_pos (by simpa using hpeer)
    · next hpeer =>
      refine (if_neg (by simpa using hpeer)).trans ?_
      split at hwhy
      · next hstate =>
        cases hwhy
        exact if_pos (by simp [hstate])
      · next hstate =>
        refine (if_neg (by simpa using hstate)).trans ?_
        split at hwhy
        · next hbusy =>
          cases hwhy
          exact if_pos (by cases hp : s.part? q.owner <;> simp_all)
        · cases hwhy

theorem netQpConnect_connects {q : Qp} (hq : s.qp? n = some q) (hpeer : le (s.page m) 0x44 2 ≠ s.dev.deviceNo.toNat)
    (hno : s.qpFor q.owner (le (s.page m) 0x44 2) = none) (hstate : q.state ≠ .connected)
    (hsettled : ∀ p, s.part? q.owner = some p → p.settled = true) : ∃ t : State, exec (.netQpConnect m) s = .next t ∧
      Replied (s.popped.connectQp n (q.connectedBy (s.page m) (rateWord (s.lineMbps q.mac.val)))) t m 0 0 [] := by
  have hidle : ((s.part? q.owner).map (fun x => !x.settled)).getD false = false := by
    cases hp : s.part? q.owner with
    | none => rfl
    | some p => simp [hsettled p hp]
  rw [exec_netQpConnect h hn, hq]
  dsimp only
  rw [if_neg (by simp [hpeer, hno]), if_neg (by simpa using hstate), if_neg (by simp [hidle])]
  generalize q.connectedBy (s.page m) (rateWord (s.lineMbps q.mac.val)) = x
  have hstill : (s.popped.connectQp n x).still = (s.popped.connectQp n (x.begun s.now)).still := State.connectQp_still _ _ rfl
  exact ⟨_, rfl, Replied.of_still hstill (State.ok_replied ..)⟩

end

/-! ### NET_QP_CREATE -/

/-- A new queue pair (R384). -/
def Qp.fresh (owner mac : Nat) (boxes : W64) : Qp :=
  { owner := owner, mac := Fin.ofNat 16 mac, mailboxes := boxes, state := .created, peer := 0, host := false,
    mtu := 5, tmo := 6, retry := 7, retriesLeft := 7, remoteQpn := 0, sqNext := 0, acked := 0xFFFFFF,
    rqNext := 0, remoteKey := 0, vaBase := 0, remoteIp := 0, out := [], timer := 0, rc := 0, rt := 0, alpha := 0,
    rounds := 0, alphaFrom := 0, incFrom := 0, lastCnpSent := none, refuse := false }

/-- Queue pair `n` is new, so requests to it are no longer refused (R408). -/
def State.newQp (s : State) (n : Nat) (q : Qp) : State :=
  { s.setQp n q with deadQps := s.deadQps.filter (fun d => d.toNat != n) }

/-- The first fault of NET_QP_CREATE's own checks, for the partition that is to own the queue pair. -/
def State.createFault (s : State) (part : Option Partition) (o mac : Nat) (boxes : W64) : Option Nat :=
  if (o ≠ 16 ∧ (part.map (fun q => q.macs.getLsbD mac)).getD false = false) ∨
      (List.range 64).any (fun k => boxes.getLsbD k && (s.mail k).owner.toNat != o) = true then some 7
  else if part.any (fun q => !q.settled) = true then some 8
  else if (part.map (·.qpQuota)).getD 65536 ≤ (s.qps.filter (fun x => x.2.owner == o)).length then some 10 else none

theorem exec_netQpCreate {s : State} {m : Fin 64} {o : Nat} {part : Option Partition} (h : s.Takes m specNetQpCreate)
    (ho : o = le (s.page m) 0x40 1) (hpart : part = s.part? o) : exec (.netQpCreate m) s = .next
      (match s.createFault part o (le (s.page m) 0x41 1) (BitVec.ofNat 64 (le (s.page m) 0x48 8)) with
      | some st => s.popped.fail m st
      | none => match s.popped.newQpn with
        | (none, v) => v.fail m 10
        | (some k, v) =>
          let u := v.newQp k (Qp.fresh o (le (s.page m) 0x41 1) (BitVec.ofNat 64 (le (s.page m) 0x48 8)))
          match part with
          | some q => u.ok m (pack [b4 k, b4 (rKey 1 o q.epoch).toNat, b4 (rKey 2 o u.mbxEpoch).toNat, b4 (rKey 3 o q.epoch).toNat])
          | none => u.free.2.ok m (pack [b4 k, b4 (rKey 4 0 u.mirrorEpoch).toNat, b4 (rKey 2 o u.mbxEpoch).toNat, b4 u.free.1])) := by
  have hexec : exec (.netQpCreate m) s = execNetQpCreate m s := rfl
  rw [hexec, execNetQpCreate, State.runCmd_takes _ _ _ _ h]
  have hmac : par netQpCreateSizes (s.page m) 1 = le (s.page m) 0x41 1 := rfl
  have hboxes : par netQpCreateSizes (s.page m) 2 = le (s.page m) 0x48 8 := rfl
  have howner : par netQpCreateSizes (s.page m) 0 = o := ho.symm
  have hpopped : s.popped.part? o = part := hpart.symm
  simp only [hmac, hboxes, howner, hpopped]
  generalize BitVec.ofNat 64 (le (s.page m) 0x48 8) = boxes
  generalize le (s.page m) 0x41 1 = mac
  refine congrArg Host.Outcome.next ?_
  unfold State.createFault
  have htarget : ((!(o == 16 || (part.map (fun q => q.macs.getLsbD mac)).getD false) ||
      !(List.range 64).all (fun k => !boxes.getLsbD k || (s.mail k).owner.toNat == o)) = true) ↔
      (o ≠ 16 ∧ (part.map (fun q => q.macs.getLsbD mac)).getD false = false) ∨
      (List.range 64).any (fun k => boxes.getLsbD k && (s.mail k).owner.toNat != o) = true := by
    simp [List.all_eq_not_any_not, bne]
  have hbusy : ((part.map (fun q => !q.settled)).getD false = true) ↔ part.any (fun q => !q.settled) = true := by
    cases part <;> rfl
  refine (if_congr htarget rfl (if_congr hbusy rfl rfl)).trans ?_
  by_cases hbad : (o ≠ 16 ∧ (part.map (fun q => q.macs.getLsbD mac)).getD false = false) ∨
      (List.range 64).any (fun k => boxes.getLsbD k && (s.mail k).owner.toNat != o) = true
  · rw [if_pos hbad, if_pos hbad]
    rfl
  rw [if_neg hbad, if_neg hbad]
  by_cases hmoves : part.any (fun q => !q.settled) = true
  · rw [if_pos hmoves, if_pos hmoves]
    rfl
  rw [if_neg hmoves, if_neg hmoves]
  by_cases hfull : (part.map (·.qpQuota)).getD 65536 ≤ (s.qps.filter (fun x => x.2.owner == o)).length
  · rw [if_pos hfull]
    exact if_pos hfull
  rw [if_neg hfull]
  refine (if_neg hfull).trans ?_
  rcases s.popped.newQpn with ⟨_ | k, v⟩
  · rfl
  · cases part <;> rfl

/-- The choice of a number for a queue pair takes a free choice at most (log 3). -/
theorem State.newQpn_frame {s v : State} {n : Option Nat} (h : s.newQpn = (n, v)) : v = { s with freeCtr := v.freeCtr } := by
  have hsnd : s.newQpn.2 = { s with freeCtr := s.newQpn.2.freeCtr } := by
    unfold State.newQpn
    dsimp only
    by_cases hfree : (s.free.2.qp? (2 + s.free.1 % 65536)).isNone = true
    · rw [if_pos hfree]
      rfl
    · rw [if_neg hfree]
      rfl
  rw [h] at hsnd
  exact hsnd

theorem State.newQp_spec (s : State) (k c : Nat) (x : Qp) : (({ s with freeCtr := c } : State).newQp k x).qp? k = some x ∧
    (∀ j : Nat, j ≠ k → (({ s with freeCtr := c } : State).newQp k x).qp? j = s.qp? j) ∧
    ({ s with freeCtr := c } : State).newQp k x = { s with
      qps := (({ s with freeCtr := c } : State).newQp k x).qps, deadQps := s.deadQps.filter (fun d => d.toNat != k),
      freeCtr := (({ s with freeCtr := c } : State).newQp k x).freeCtr } :=
  ⟨State.setQp_qp_same s k x, fun _ hj => State.setQp_qp_ne s x hj, rfl⟩

theorem State.createFault_none {s : State} {part : Option Partition} {o mac : Nat} {boxes : W64}
    (hmac : o ≠ 16 → part.any (fun q => q.macs.getLsbD mac) = true)
    (hboxes : ∀ k : Nat, k < 64 → boxes.getLsbD k = true → (s.mail k).owner.toNat = o) (hsettled : ∀ q, part = some q → q.settled = true)
    (hroom : (s.qps.filter (fun x => x.2.owner == o)).length < (part.map (·.qpQuota)).getD 65536) : s.createFault part o mac boxes = none := by
  have hmac' : ¬ (o ≠ 16 ∧ (part.map (fun q => q.macs.getLsbD mac)).getD false = false) := fun ⟨hpart, hno⟩ => by
    have hown := hmac hpart
    cases part with
    | none => cases hown
    | some q => exact Bool.noConfusion (hno.symm.trans hown)
  have hboxes' : ¬ (List.range 64).any (fun k => boxes.getLsbD k && (s.mail k).owner.toNat != o) = true := by
    simpa using hboxes
  have hidle : ¬ part.any (fun q => !q.settled) = true := by
    cases part with
    | none => exact Bool.false_ne_true
    | some q => simp [hsettled q rfl]
  exact (if_neg (not_or.mpr ⟨hmac', hboxes'⟩)).trans ((if_neg hidle).trans (if_neg (Nat.not_le.mpr hroom)))

section
variable {s v : State} {m : Fin 64} {o : Nat} {n : Option Nat} {part : Option Partition} (h : s.Takes m specNetQpCreate)
  (ho : o = le (s.page m) 0x40 1) (hpart : part = s.part? o) (hv : s.popped.newQpn = (n, v))
include h ho hpart hv

theorem netQpCreate_noNumber (hnone : n = none)
    (hfault : s.createFault part o (le (s.page m) 0x41 1) (BitVec.ofNat 64 (le (s.page m) 0x48 8)) = none) :
    exec (.netQpCreate m) s = .next (v.fail m 10) := by
  rw [exec_netQpCreate h ho hpart, hfault, hv, hnone]

theorem netQpCreate_creates {k : Nat} (hn : n = some k)
    (hfault : s.createFault part o (le (s.page m) 0x41 1) (BitVec.ofNat 64 (le (s.page m) 0x48 8)) = none) :
    ∃ (t u : State) (x : Qp), exec (.netQpCreate m) s = .next t ∧ u.qp? k = some x ∧
      x.state = .created ∧ x.owner = o ∧ x.mac.val = le (s.page m) 0x41 1 ∧ x.mailboxes = BitVec.ofNat 64 (le (s.page m) 0x48 8) ∧
      (∀ j : Nat, j ≠ k → u.qp? j = s.qp? j) ∧
      u = { s.popped with qps := u.qps, deadQps := s.deadQps.filter (fun d => d.toNat != k), freeCtr := u.freeCtr } ∧
      (∀ q : Partition, part = some q →
        Replied u t m 0 0 (pack [b4 k, b4 (rKey 1 o q.epoch).toNat, b4 (rKey 2 o s.mbxEpoch).toNat, b4 (rKey 3 o q.epoch).toNat])) ∧
      (part = none → ∃ f : Nat,
        Replied u t m 0 0 (pack [b4 k, b4 (rKey 4 0 s.mirrorEpoch).toNat, b4 (rKey 2 o s.mbxEpoch).toNat, b4 f])) := by
  have hmac : le (s.page m) 0x41 1 < 16 := by
    have hrange : (if le (s.page m) 0x40 1 > 16 then some 0x40 else if le (s.page m) 0x41 1 > 15 then some 0x41 else none) = none := h.range
    split_ifs at hrange
    omega
  have hframe := State.newQpn_frame hv
  generalize v.freeCtr = c at hframe
  subst hframe
  obtain ⟨x, hx⟩ : ∃ x, x = Qp.fresh o (le (s.page m) 0x41 1) (BitVec.ofNat 64 (le (s.page m) 0x48 8)) := ⟨_, rfl⟩
  have hfresh : x.state = .created ∧ x.owner = o ∧ x.mac.val = le (s.page m) 0x41 1 ∧
      x.mailboxes = BitVec.ofNat 64 (le (s.page m) 0x48 8) := by
    rw [hx]
    exact ⟨rfl, rfl, Nat.mod_eq_of_lt hmac, rfl⟩
  obtain ⟨hstate, howner, hmacOf, hboxes⟩ := hfresh
  rw [exec_netQpCreate h ho hpart, hfault, hv, hn, ← hx]
  have hepoch : (({ s.popped with freeCtr := c } : State).newQp k x).mbxEpoch = s.mbxEpoch := rfl
  have hmirror : (({ s.popped with freeCtr := c } : State).newQp k x).mirrorEpoch = s.mirrorEpoch := rfl
  dsimp only
  rw [hepoch, hmirror]
  cases part with
  | none =>
    obtain ⟨hqp, hothers, hrest⟩ := s.popped.newQp_spec k (c + 1) x
    have hfree : (({ s.popped with freeCtr := c } : State).newQp k x).free =
      (Config.freeNat c, ({ s.popped with freeCtr := c + 1 } : State).newQp k x) := rfl
    rw [hfree]
    generalize ({ s.popped with freeCtr := c + 1 } : State).newQp k x = u at hqp hothers hrest ⊢
    exact ⟨_, u, x, rfl, hqp, hstate, howner, hmacOf, hboxes, hothers, hrest,
      fun _ hnone => absurd hnone (Option.some_ne_none _).symm, fun _ => ⟨_, State.ok_replied ..⟩⟩
  | some q =>
    obtain ⟨hqp, hothers, hrest⟩ := s.popped.newQp_spec k c x
    generalize ({ s.popped with freeCtr := c } : State).newQp k x = u at hqp hothers hrest ⊢
    refine ⟨_, u, x, rfl, hqp, hstate, howner, hmacOf, hboxes, hothers, hrest, fun q' hq' => ?_,
      fun hsome => absurd hsome (Option.some_ne_none _)⟩
    cases hq'
    exact State.ok_replied ..

end

/-! ### The statement -/

/-- Settles O40: NET_QP_CONNECT by the rings' writes not depending on when the queue pair's rate periods began, the other commands each
by its body. -/
theorem networkCommandsAct : Obligations.NetworkCommandsAct := by
  unfold Obligations.NetworkCommandsAct
  refine ⟨netPortConfig_acts, netAddrSet_acts,
    fun s v m o n part h ho hpart hv => ⟨fun st hwhy => replied_fail ?_, fun hmac hboxes hsettled hroom => ?_⟩,
    fun s m n h hn => ⟨fun st hwhy => replied_fail (netQpConnect_refused h hn hwhy), fun q hq hpeer hno hstate hsettled => ?_⟩,
    netQpDestroy_acts, fun s n k q => State.destroyQp_qp? k, netCcConfig_acts, netMgmtConfig_acts⟩
  · have hfault : s.createFault part o (le (s.page m) 0x41 1) (BitVec.ofNat 64 (le (s.page m) 0x48 8)) = some st := hwhy
    rw [exec_netQpCreate h ho hpart, hfault]
  · have hfault := State.createFault_none hmac hboxes hsettled hroom
    exact ⟨fun hnone => replied_fail (netQpCreate_noNumber h ho hpart hv hnone hfault),
      fun k hk => netQpCreate_creates h ho hpart hv hk hfault⟩
  · obtain ⟨t, ht, hreplied⟩ := netQpConnect_connects h hn hq hpeer hno hstate hsettled
    exact ⟨t, _, _, _, ht, rfl, rfl, rfl, hreplied⟩

end Sys2Proof.Machine
end
